-- ==== Sys2Proof/Word.lean ====
section
/-! DEFINITION. The words of the machine: bit vectors for what the spec treats as bits, and the sparse tables that
hold every array of the device. -/

namespace Sys2Proof

abbrev Byte := BitVec 8
abbrev W16 := BitVec 16
abbrev W32 := BitVec 32
abbrev W64 := BitVec 64
abbrev W128 := BitVec 128
abbrev W192 := BitVec 192

/-- A sparse table: the entries that differ from what an unlisted key holds, keys strictly rising. -/
abbrev Tab (α : Type) := List (Nat × α)

end Sys2Proof
end

