-- ==== Sys2Proof/Syntax.lean ====
section
/-! DEFINITION. The commands that reach the device: one inductive, one constructor per row of the spec's table of
operations and events, with the operand types. -/

namespace Sys2Proof

/-- Benches 0 to 7 (R17). -/
abbrev BenchId := Fin 8
/-- Ports 0 to 511 (R17). -/
abbrev PortId := Fin 512
/-- Quads 0 to 55 (R17). -/
abbrev QuadId := Fin 56
/-- Lanes 0 to 223 (R17). -/
abbrev LaneId := Fin 224
/-- Cipher clusters 0 to 3 (R21). -/
abbrev ClusterId := Fin 4
/-- HBM pseudo-channels 0 to 31 (R21). -/
abbrev ChanId := Fin 32
/-- Power domains 0 to 111 (R437). -/
abbrev DomainId := Fin 112

/-- The two teams (R17). -/
inductive Team where
  | a | b
  deriving DecidableEq, Repr

/-- The two access paths of the host (R27). -/
inductive Path where
  | pcie | i2c
  deriving DecidableEq, Repr

/-- The registers that record an extreme (R13), with the instance read. -/
inductive Extreme where
  | btickMaxLag (b : BenchId)
  | poolMin (b : BenchId) (pool : Fin 4)
  | qeMin (b : BenchId)
  | cdescMax (t : Team)
  deriving DecidableEq, Repr

/-- The table windows (R185, R217, R343, R400). -/
inductive Window where
  | cls (b : BenchId)
  | fdb (b : BenchId)
  | strm (b : BenchId)
  | meter (b : BenchId)
  | ciph (c : ClusterId)
  deriving DecidableEq, Repr

/-- The tables that have seeds (R157). -/
inductive SeedTab where
  | bank (t : Team) (i : Fin 2)
  | route (t : Team)
  | sid (t : Team)
  | mac (b : BenchId)
  deriving DecidableEq, Repr

/-- The start delimiter of a MAC-merge mPacket (R90): SMD-S with its frame number, SMD-C with frame number and fragment
count, a verify request, the response to one, or none of them. -/
inductive Smd where
  | start (n : Fin 4)
  | cont (n : Fin 4) (frag : Fin 4)
  | verify
  | respond
  | unknown
  deriving DecidableEq, Repr

/-- What a read of a control-store word, dispatch entry or PMT entry finds (R131): no error, one that SECDED corrects, an
uncorrectable one in the copy read, or one in both copies. -/
inductive CsFind where
  | clean | ce | ue | both
  deriving DecidableEq, Repr

/-- The table reads of stage 5, which can find an error (R189, R356). -/
inductive TblRead where
  | rule | route | sidMac | sidIp | mac | profile | spread | indir | dom | member | flood | ctx | filter | meter | seq
  deriving DecidableEq, Repr

/-- An error that a read of stage 5 finds: for a hash table, the way whose slot holds it; whether it is uncorrectable. -/
structure TblErr where
  read : TblRead
  way : Fin 4
  ue : Bool
  deriving DecidableEq, Repr

/-- The FEC codewords of a port since its frame before (R86): those corrected, those uncorrectable, and whether one of the
latter carried the frame. -/
structure FecSeen where
  corr : Nat := 0
  uncorr : Nat := 0
  hit : Bool := false
  deriving DecidableEq, Repr

/-- The errors that the sequence unit finds of the entries that a copy's recovery needs (R356): in the recovery entry and in
the generation entry, uncorrectable or corrected. -/
structure SeqErr where
  recUe : Bool := false
  recCe : Bool := false
  genUe : Bool := false
  genCe : Bool := false
  deriving DecidableEq, Repr

/-- A hand-off input (0 to 4, R267), and the errors found of its record's sequence entries. -/
structure HandIn where
  src : Fin 5
  err : SeqErr := {}
  deriving DecidableEq, Repr

/-- What the check bits say as a frame ends: its FEC codewords and its sequence entries. -/
structure RxSeen where
  fec : FecSeen := {}
  err : SeqErr := {}
  deriving DecidableEq, Repr

/-- What a receiver reports beside its link's condition: autonegotiation (R77), a signal, and the PRBS checker's lock and bit
errors since the last report (R107). -/
structure LaneSeen where
  an : Fin 3
  sig : Bool := false
  prbs : Bool := false
  errs : Nat := 0
  deriving DecidableEq, Repr

/-- Where an uncorrectable data word lies (R257): its granule, and a frame whose chain holds that. -/
structure EccPlace where
  desc : Option Nat := none
  granule : Nat
  deriving DecidableEq, Repr

/-- What the gaffer meets as it reads an image slot of the boot flash (R491): whether its reads complete. -/
structure SlotCheck where
  io : Bool
  deriving DecidableEq, Repr

/-- Readings in °C of the sensors of teams A and B and of the always-on island (R560). -/
structure Readings where
  a : BitVec 8 := 0
  b : BitVec 8 := 0
  aon : BitVec 8 := 0
  deriving DecidableEq, Repr

/-- What a cluster reads of host memory for a job (R388): the descriptor's 64 bytes, the bytes at SRC, the 128 bytes at
CTX, the 16 bytes at IV and the expected tag at TAG. -/
structure JobIn where
  desc : List Byte
  src : List Byte := []
  ctx : List Byte := []
  iv : List Byte := []
  tag : List Byte := []
  deriving DecidableEq, Repr

/-- What a waking domain has waited for in vain (R447): power-good, or, in the time domain, the 25 MHz reference or the lock of
the time PLL. -/
inductive WakeWait where
  | supply | reference | pll
  deriving DecidableEq, Repr

/-- What the host writes in PCIe space (R510 to R512): a word of a page of BAR0 (page below 16,384), of a 4 KiB block of
BAR2 (16,384 and up), or Bus Master Enable, MSI-X Enable or the MSI-X function mask of configuration space. -/
inductive Place where
  | word (page : Fin 16448) (word : Fin 1024)
  | busMaster | msixEnable | functionMask
  deriving DecidableEq, Repr

/-- What MSIX_UNMASK clears or sets (R524). -/
inductive Unmask where
  | vector (v : Fin 64)
  | function | enable
  deriving DecidableEq, Repr
/-- The commands of the block, one constructor per row of spec/opcode_table.json, in the table's order. Each
operand is what the row's text names: the port, bench or page, the value written, or an outcome of the surroundings
(a measured length, an error, a level) that the part itself does not determine. -/
inductive Instr where
  /-- R12: A host write to a register field that has no behaviour of its own stores, sets, clears or is ignored by its access
  code. -/
  | registerWrite (a : Place) (v : W32) (whole : Bool)
  /-- R32: A team hub does not answer within 2 µs, so the shared hub completes the access, with reads returning all ones and
  writes discarded. -/
  | hubTimeout (t : Team) (write : Bool) (stays : Bool)
  /-- R13: A read of BTICK_MAXLAG, POOLMIN, QE_MIN or CDESC_MAX returns the extreme and restarts the register from the current
  value. -/
  | rcExtremeRead (x : Extreme)
  /-- R519: A read of a counter's low word returns bits [31:0] and latches bits [63:32] for that access path. -/
  | counterLowRead (path : Path) (p : Fin 16448) (w : Fin 1024)
  /-- R73: A read of NOW_NS returns the nanoseconds and latches NOW_SEC. -/
  | nowNsRead
  /-- R73: A read of GRID_TICK_LO returns the counter's low bits and latches its high bits and the edge time. -/
  | gridTickLoRead
  /-- R70: A read of PPS_IN_NS latches the capture seconds and clears NEW. -/
  | ppsInNsRead
  /-- R73: A read of ETS0 pops the egress capture FIFO head and latches its time words. -/
  | ets0Read (b : BenchId)
  /-- R147: A read of UCNT_LO returns the indexed microcode counter's low word and latches UCNT_HI. -/
  | ucntLoRead (b : BenchId)
  /-- R298: A read of BRDROP_LO returns the indexed bridge drop counter's low word and latches BRDROP_HI. -/
  | brdropLoRead (t : Team)
  /-- R185: A read of FAIL_LOG pops one table-window failure record. -/
  | failLogRead (w : Window)
  /-- R223: A read of FLAP_LOG0 pops one flap record and latches its other words. -/
  | flapLogRead (b : BenchId)
  /-- R223: A read of SIG_LOG pops one signature-mismatch record. -/
  | sigLogRead (t : Team)
  /-- R399: A read of PN_LOG pops one PN threshold or exhaustion record. -/
  | pnLogRead (c : ClusterId)
  /-- R471: A read of REF_LOG0 pops the oldest unread refusal-log entry and latches REF_LOG1. -/
  | refLogRead
  /-- R474: A read of LEDGER0 latches LEDGER1 to LEDGER7. -/
  | ledgerRead
  /-- R45: A grid edge falls at a PTP instant whose nanoseconds are a multiple of 1,280, and the grid tick counter advances. -/
  | gridEdge
  /-- R354: In each grid tick the sequence scanner visits one recovery entry and resets it when its timeout has expired. -/
  | seqScanVisit (t : Team)
  /-- R58: A bench's local edge fires when its tick length has run and every header of the previous tick has finished, so the
  tick commits and the next length is set. -/
  | localEdge (b : BenchId) (clk : Nat) (gridLen : Nat)
  /-- R49: A header is admitted when its header window completes at the MAC, after the OVERRUN, FIFO and allocation checks. -/
  | headerAdmit (p : PortId) (bytes : List Byte) (early : Bool) (preempt : Bool) (age : Nat)
  /-- R50: An admitted header waiting for a slot is dispatched to the lowest idle marver engine, and its routine starts at the
  chosen entry. -/
  | headerDispatch (b : BenchId)
  /-- R116: An engine executes one microword, with extracts, ALU, cursor, marks, key, edit, commit-queue and metadata work, then
  picks the next address. -/
  | microwordExecute (b : BenchId) (e : Fin 24) (finds : List (Fin 16704 × CsFind))
  /-- R130: A routine that would begin a 257th word or passes its 640th clock aborts, with its frame discarded by the cullet
  path. -/
  | watchdogAbort (b : BenchId) (e : Fin 24)
  /-- R112: A routine reaches a word with END = 1 and holds its results until earlier-admitted routines have ended. -/
  | routineEnd (b : BenchId) (e : Fin 24)
  /-- R112: When every earlier routine has ended, a routine's commit queue issues and its parse result passes to stage 5 for
  lookups, actions and hand-off. -/
  | resultRelease (b : BenchId) (errs : List TblErr)
  /-- R199: A learn unit handles one learn request against the table, making, refreshing, moving or refusing the entry. -/
  | learnRequest (b : BenchId)
  /-- R205: In every DIV-th local tick the scanner visits BATCH positions of the MAC table. -/
  | agingVisit (b : BenchId)
  /-- R216: Every PERIOD ticks the team scrubber checks one block against its signature. -/
  | signatureCheck (t : Team)
  /-- R267: An egress bench accepts a waiting hand-off record and makes all its copies. -/
  | handoffAccept (b : BenchId) (src : HandIn)
  /-- R270: A send FIFO sends its head frame to the receiving bench as credits allow. -/
  | bridgeSend (t : Team) (k : Fin 4)
  /-- R270: The receiving side returns a credit as 256 bytes leave its bridge buffer, restarting the stall timer and possibly
  clearing the peer-down mark. -/
  | bridgeCredit (t : Team) (k : Fin 4)
  /-- R25: A stall timer reaches 10,752 clocks and the sending side marks the peer team down. -/
  | peerMarkDown (t : Team) (k : Fin 4)
  /-- R271: A bridge transfer begins and requests a descriptor and first buffer. -/
  | bridgeReceiveBegin (t : Team) (k : Fin 4)
  /-- R272: A bridge transfer ends and its CRC-32C is checked. -/
  | bridgeReceiveEnd (t : Team) (k : Fin 4) (ok : Bool) (err : SeqErr)
  /-- R272: A transfer that receives no bytes for 2,688 clocks is ended and counted in BR_RX_ABANDON. -/
  | bridgeAbandon (t : Team) (k : Fin 4)
  /-- R279: The oldest STAGE copy is offered to the crucible and moves to MID, or is refused. -/
  | spillMove (b : BenchId) (q : Fin 512) (bad : Bool)
  /-- R411: Every write of a moved copy has left the alert window and the egress bench's holder is released. -/
  | spillWriteComplete (b : BenchId) (q : Fin 512) (seq : W32)
  /-- R280: With MID empty and HEAD below RETURN_LO, the oldest STAGE copy moves to HEAD. -/
  | stagePromote (b : BenchId) (q : Fin 512)
  /-- R281: HEAD falls below RETURN_LO while MID is not empty and a return round begins. -/
  | returnRound (b : BenchId) (q : Fin 512)
  /-- R412: A copy read from the crucible is returned to HEAD in MOVE_SEQ order with a new descriptor and buffers. -/
  | spillReturn (b : BenchId) (q : Fin 512)
  /-- R334: When the MAC can begin a frame or fragment, the port selects an eligible class by strict and WFQ rules. -/
  | txSelect (p : PortId) (sent : Nat)
  /-- R96: A copy's last byte leaves the MAC and it is counted in TX_FRAMES. -/
  | frameTransmitEnd (p : PortId)
  /-- R292: The MAC needs a byte of a parison that is not stored, so the parison is ended with a complemented FCS. -/
  | txUnderrun (p : PortId)
  /-- R87: The MAC ends reception of a frame, counts it or drops it under R88, and settles length-dependent charges, checks and
  recovery. -/
  | frameReceive (p : PortId) (bytes : List Byte) (lost : Bool) (early : Bool) (preempt : Bool) (age : Nat) (seen : RxSeen)
  /-- R379: The ICV check result of a received frame is known, the PN is checked and the SA updated, and failures are marked. -/
  | tagResult (p : PortId) (err : SeqErr)
  /-- R91: A MAC-merge fragment is received and reassembled, or counted as an error. -/
  | fragmentReceive (p : PortId) (smd : Smd) (bytes : List Byte) (last : Bool) (early : Bool) (age : Nat) (err : SeqErr)
  /-- R80: A field PHY's in-band status word sets the channel's link, speed and duplex, and is acknowledged. -/
  | inbandStatus (p : PortId) (up : Bool) (speed : Fin 8) (half : Bool)
  /-- R93: A port's link condition changes between good and fault, starting or breaking qualification. -/
  | linkFault (p : PortId) (lock : Bool) (remote : Bool) (loc : Bool) (fecLock : Bool) (seen : LaneSeen)
  /-- R94: The link has been good for UP_QUAL µs and the port goes from DOWN or HOLD to UP. -/
  | linkUpQualified (p : PortId)
  /-- R94: A fault has lasted DOWN_QUAL µs and the port goes from UP to HOLD or DOWN. -/
  | linkDownQualified (p : PortId)
  /-- R94: HOLD µs pass without a qualified return, so queues are flushed and the port goes DOWN. -/
  | holdExpiry (p : PortId)
  /-- R94: A write of PCFG.EN = 0 disables the port and flushes its queues. -/
  | portDisable (p : PortId)
  /-- R94: A write of PCFG.EN = 1 takes a disabled port to DOWN. -/
  | portEnable (p : PortId)
  /-- R84: A write of PCFG.FEC stores the value, and an unsupported value holds the port down. -/
  | fecWrite (p : PortId) (fec : Fin 4)
  /-- R90: The MAC merge verify protocol ends in success or failure, setting when preemption may start. -/
  | mmVerify (p : PortId) (ok : Bool)
  /-- R76: A write of SERDES.QCFG.RATE takes effect only while all four ports of the quad are disabled, otherwise it is refused.
  -/
  | rateWrite (q : QuadId) (rate : Fin 4)
  /-- R78: A quad's reference is absent or more than 200 ppm off for 10 µs, so its PLL is held in reset and its lanes go down. -/
  | sdrefLoss (q : QuadId)
  /-- R78: A quad's reference has been good for 1 ms and its PLL is released. -/
  | sdrefRestore (q : QuadId)
  /-- R78: A quad PLL relocks and its ports follow the link rules. -/
  | quadPllLock (q : QuadId)
  /-- R108: A quad PLL loses lock, cutting short frames in transmission on its lanes. -/
  | quadPllUnlock (q : QuadId)
  /-- R108: A lane loses CDR lock, squelching any recovered clock that it feeds. -/
  | cdrLoss (l : LaneId)
  /-- R102: An MDIO_CMD write with OP 0 starts a Clause 45 address frame, or ends with ERR under Clause 22. -/
  | mdioAddress (m : Fin 4) (v : W32)
  /-- R102: An MDIO_CMD write with OP 1 starts a write frame. -/
  | mdioWrite (m : Fin 4) (v : W32)
  /-- R102: An MDIO_CMD write with OP 2 starts a read frame. -/
  | mdioRead (m : Fin 4) (v : W32)
  /-- R102: An MDIO_CMD write with OP 3 ends with ERR. -/
  | mdioReserved (m : Fin 4) (v : W32)
  /-- R103: An MDIO frame completes after 64 MDC periods, with DONE, DATA or ERR set. -/
  | mdioDone (m : Fin 4) (ack : Bool) (data : W16)
  /-- R61: A FREQ_ADJ write sets the time rate, clamped to ±500 ppm. -/
  | freqAdjWrite (v : W32)
  /-- R62: CMD.SET replaces the time in the next time clock, or is rejected. -/
  | timeSet
  /-- R62: An ADJ_NS write adds a signed offset to the time, or is rejected. -/
  | timeAdjust (v : W32)
  /-- R65: A write of GRID_EN switches the benches between grid edges and free ticks. -/
  | gridEnWrite (en : Bool)
  /-- R64: REFCLK25 makes no edge for 2 µs, so the time goes invalid and benches count free ticks. -/
  | timeRefLoss
  /-- R74: The time PLL loses lock while the reference is present and the time goes invalid. -/
  | timePllUnlock
  /-- R64: The reference returns and the time PLL locks with TIME_EN = 1, so the time becomes valid again. -/
  | timeValid
  /-- R70: A selected PPS_IN edge latches the full time and sets NEW. -/
  | ppsInCapture (falling : Bool)
  /-- R71: PPS_OUT rises at each second plus PPS_OUT_OFFSET. -/
  | ppsOutRise
  /-- R71: PPS_OUT falls after PPS_OUT_WIDTH µs. -/
  | ppsOutFall
  /-- R134: Every SCRUB.PERIOD clocks the scrubber reads one control-store, dispatch or PMT word and corrects or reports it. -/
  | scrubRead (b : BenchId) (find : CsFind)
  /-- R153: A table-window INSERT adds or updates a hash-table entry at the commit edge. -/
  | twInsert (w : Window) (table : Fin 16)
  /-- R154: A table-window DELETE removes an entry at the commit edge. -/
  | twDelete (w : Window) (table : Fin 16)
  /-- R181: A table-window SEARCH finds a key in the committed table. -/
  | twSearch (w : Window) (table : Fin 16)
  /-- R181: A table-window READ returns a slot, stash entry or direct-table entry. -/
  | twRead (w : Window) (table : Fin 16)
  /-- R181: A table-window WRITE writes a direct-table entry at the commit edge. -/
  | twWrite (w : Window) (table : Fin 16)
  /-- R182: A table-window command with a reserved table or OP, or bad arguments, ends with BAD_ARG. -/
  | twBadOp (w : Window) (table : Fin 16) (op : Fin 11)
  /-- R372: A CIPH key-slot WRITE with LOAD = 1 loads a key, or is refused as IN_USE. -/
  | keySlotLoad (c : ClusterId)
  /-- R372: A CIPH key-slot WRITE with LOAD = 0 zeroes the slot, or is refused as IN_USE. -/
  | keySlotZero (c : ClusterId)
  /-- R157: A SEED write takes effect only while its table is empty, otherwise it is ignored. -/
  | seedWrite (k : SeedTab) (w : Fin 4) (v : W32)
  /-- R165: A write of SWAP.REQ requests a rule-set bank swap, or is refused when a swap is in progress. -/
  | swapRequest (t : Team) (copy : Bool)
  /-- R174: An RTCLASS write takes effect at its commit edge, or is ignored when the class holds routes or PLEN is out of range.
  -/
  | rtclassWrite (t : Team) (c : Fin 16) (v : W32)
  /-- R202: A write of FLAP_EN from 0 to 1 starts the move tracker empty at the next local edge. -/
  | flapEnWrite (b : BenchId) (v : W32)
  /-- R205: An AGECFG write sets the scanner's enable and timing without moving its position. -/
  | agecfgWrite (b : BenchId) (v : W32)
  /-- R220: SRCH_CMD FIRST starts a walk of the bench's MAC table. -/
  | searchFirst (b : BenchId)
  /-- R220: SRCH_CMD NEXT continues the walk after the last reported position. -/
  | searchNext (b : BenchId)
  /-- R221: SRCH_CMD FLUSH removes selected entries at the commit edge. -/
  | searchFlush (b : BenchId) (mask : Byte)
  /-- R222: SRCH_CMD with OP 3 ends with BAD. -/
  | searchReserved (b : BenchId)
  /-- R222: A search or flush result becomes final and SRCH_DONE is raised. -/
  | searchDone (b : BenchId)
  /-- R233: A write of BUFCTL.START checks the pool configuration and begins building the free lists. -/
  | poolStart (b : BenchId)
  /-- R233: Every buffer has been threaded and BUFSTAT.READY is set. -/
  | poolBuildDone (b : BenchId)
  /-- R250: A waiting allocation request is answered with a grant or an empty reply, within 9 clocks. -/
  | allocAnswer (b : BenchId)
  /-- R242: An agent releases a descriptor holder or buffer reference, freeing it at 0. -/
  | holderRelease (b : BenchId) (agent : Fin 72) (desc : Bool) (n : Nat)
  /-- R240: A bad free-list link is read and the pool's free list is rebuilt. -/
  | freeListError (b : BenchId) (p : Fin 4)
  /-- R240: The free-list rebuild sweep ends and the pool gives buffers again. -/
  | listRebuildDone (b : BenchId) (late : List Nat)
  /-- R257: An uncorrectable data word is read, so the buffer is marked RETIRE and its frame discarded or marked. -/
  | bufferDataUe (b : BenchId) (ce : Nat) (place : EccPlace)
  /-- R258: An uncorrectable header word takes the buffer out of service. -/
  | bufferHeaderUe (b : BenchId) (g : Nat)
  /-- R247: A write of OWN_RES sets a reserve, or is ignored when the reserves would exceed the data area. -/
  | ownResWrite (b : BenchId) (v : W32)
  /-- R247: A write of OWN_DESC sets descriptor limits, or is ignored when reserves would exceed 32,768. -/
  | ownDescWrite (b : BenchId) (v : W32)
  /-- R261: Mailbox ALLOC takes one buffer of a pool for owner 512. -/
  | mboxAlloc (b : BenchId) (pool : Fin 4)
  /-- R255: Mailbox FREE releases one reference on a buffer. -/
  | mboxFree (b : BenchId) (handle : Nat)
  /-- R256: Mailbox ADDREF adds one reference, or ends REF_SAT. -/
  | mboxAddref (b : BenchId) (handle : Nat)
  /-- R261: Mailbox READHDR returns a buffer header. -/
  | mboxReadhdr (b : BenchId) (handle : Nat)
  /-- R260: Mailbox RECLAIM tests the cullet head buffer and returns it to its pool if it passes. -/
  | mboxReclaim (b : BenchId) (pass : Bool)
  /-- R261: A mailbox command with OP 5 to 15 ends with BAD_ARG. -/
  | mboxBadOp (b : BenchId) (op : Fin 11)
  /-- R254: A write of DFREE_LOGCTL.CLR sets the double-free log count to 0. -/
  | dfreeLogClear (b : BenchId)
  /-- R262: An access to BWIN_DATA reads or writes bytes of the mapped buffer. -/
  | bufferWindowAccess (b : BenchId) (k : Fin 64) (w : Option W32)
  /-- R297: A MIRR register write takes its tick number and commits in every bench at the edge ending it. -/
  | mirrWrite (k : Fin 1024) (v : W32)
  /-- R319: An oper gate-list entry begins at its PTP time and the gate states change at the MAC. -/
  | gateEntryBegin (p : PortId) (sent : Nat)
  /-- R331: HOLD_ADV ns before a Set-And-Hold-MAC entry begins, the MAC hold is asserted. -/
  | holdAssert (p : PortId) (sent : Nat)
  /-- R322: A write of GCTRL.CONFIG_CHANGE captures the admin values and computes CCT, or is refused. -/
  | configChangeRequest (b : BenchId) (v : W32)
  /-- R323: At CCT the gate-list banks exchange roles and the new list runs. -/
  | configChangeComplete (p : PortId)
  /-- R324: A write of GCL_HI stores an admin entry and advances INDEX, or is ignored while a change is pending. -/
  | gclHiWrite (b : BenchId) (v : W32)
  /-- R340: A read of GCL_LO returns an entry's interval and latches its high word. -/
  | gclLoRead (b : BenchId)
  /-- R340: A read of GCL_HI returns the latched high word and advances INDEX. -/
  | gclHiRead (b : BenchId)
  /-- R362: SQ_CMD READ returns a committed sequence entry. -/
  | sqRead (b : BenchId)
  /-- R362: SQ_CMD WRITE replaces a sequence entry at the commit edge. -/
  | sqWrite (b : BenchId)
  /-- R354: SQ_CMD RESET resets a recovery entry, or sets a generation entry's GEN_SEQ to 0. -/
  | sqReset (b : BenchId)
  /-- R362: SQ_CMD with OP 3 to 15 ends with BAD_ARG. -/
  | sqBadOp (b : BenchId) (op : Fin 13)
  /-- R358: At each PERIOD × 1,024 grid ticks a watch slot compares PASSED growth with DISCARDED. -/
  | watchTest (t : Team) (k : Fin 32)
  /-- R358: A write to WCFG or LEDCFG takes a new baseline and skips the next test. -/
  | watchCfgWrite (t : Team) (k : Fin 32) (led : Bool) (v : W32)
  /-- R552: A team rail falls out of range, so the team fails and its lanes go idle within 1 µs. -/
  | teamRailFall (t : Team)
  /-- R552: VCORE_S falls, stopping the host, time and gaffer domains and the HBM PHY. -/
  | sharedRailFall
  /-- R575: A team PLL loses lock after the switch, and the team is found failed. -/
  | teamPllUnlock (t : Team)
  /-- R387: A JQ_TAIL write gives the cluster new job descriptors. -/
  | jqTailWrite (c : ClusterId) (q : Fin 16) (v : W32)
  /-- R389: A lookaside job with OP 0 runs CTR. -/
  | jobCtr (c : ClusterId) (q : Fin 16) (j : JobIn)
  /-- R389: A lookaside job with OP 1 runs CBC encryption. -/
  | jobCbcEnc (c : ClusterId) (q : Fin 16) (j : JobIn)
  /-- R389: A lookaside job with OP 2 runs CBC decryption. -/
  | jobCbcDec (c : ClusterId) (q : Fin 16) (j : JobIn)
  /-- R389: A lookaside job with OP 3 runs CFB-128 encryption. -/
  | jobCfbEnc (c : ClusterId) (q : Fin 16) (j : JobIn)
  /-- R389: A lookaside job with OP 4 runs CFB-128 decryption. -/
  | jobCfbDec (c : ClusterId) (q : Fin 16) (j : JobIn)
  /-- R389: A lookaside job with OP 5 runs GCM encryption. -/
  | jobGcmEnc (c : ClusterId) (q : Fin 16) (j : JobIn)
  /-- R396: A lookaside job with OP 6 runs GCM decryption with a tag comparison. -/
  | jobGcmDec (c : ClusterId) (q : Fin 16) (j : JobIn)
  /-- R389: A lookaside job with OP 7 generates a GMAC tag. -/
  | jobGmacGen (c : ClusterId) (q : Fin 16) (j : JobIn)
  /-- R396: A lookaside job with OP 8 verifies a GMAC tag. -/
  | jobGmacVer (c : ClusterId) (q : Fin 16) (j : JobIn)
  /-- R389: A lookaside job with OP 9 generates a CMAC tag. -/
  | jobCmacGen (c : ClusterId) (q : Fin 16) (j : JobIn)
  /-- R396: A lookaside job with OP 10 verifies a CMAC tag. -/
  | jobCmacVer (c : ClusterId) (q : Fin 16) (j : JobIn)
  /-- R389: A lookaside job with OP 11 completes OK. -/
  | jobNop (c : ClusterId) (q : Fin 16) (j : JobIn)
  /-- R389: A lookaside job with OP 12 to 15 ends with BAD_DESC. -/
  | jobBadOp (c : ClusterId) (q : Fin 16) (j : JobIn)
  /-- R395: A PCIe error on a job stops the queue with DMA_ERR. -/
  | jobDmaError (c : ClusterId) (q : Fin 16) (desc : Option JobIn) (wrote : Bool)
  /-- R395: A write of JQ_CFG.EN from 0 to 1 zeroes JQ_HEAD and JQ_TAIL and restarts the queue. -/
  | jqEnable (c : ClusterId) (q : Fin 16) (size : Fin 16)
  /-- R398: A write of CCTRL.KAT = 1 starts the known-answer test on every engine. -/
  | katStart (c : ClusterId)
  /-- R398: The known-answer test ends and reports failing engines. -/
  | katDone (c : ClusterId) (mask : BitVec 16)
  /-- R416: A per-bank refresh falls due and is issued, or forced after 8 postponed intervals. -/
  | hbmRefresh (c : ChanId) (bank : Fin 16) (busy : Bool)
  /-- R417: A command leaves its retry window after 64 clocks without an alert, releasing read data or write completion. -/
  | retryWindowExit (c : ChanId) (n : Nat) (stall : Nat)
  /-- R418: A command/address parity alert stops issue and replays the retry window. -/
  | parityAlert (c : ChanId)
  /-- R419: A crucible read finds a corrected or uncorrectable ECC error and handles it by its location. -/
  | hbmEccError (c : ChanId) (ue : Bool) (place : Fin 6) (b : BenchId) (q : Fin 512) (n : Nat)
  /-- R421: A pseudo-channel begins full or verify-only training. -/
  | trainingStart (c : ChanId)
  /-- R421: A training step ends in a pass, a lane repair, or a failure for good. -/
  | trainingStepDone (c : ChanId) (pass : Bool) (ca : List (Fin 256)) (lanes : List (Fin 256))
  /-- R422: A write of CH_CMD.RETRAIN = 1 retrains a channel in RUN. -/
  | chRetrainCmd (c : ChanId)
  /-- R422: The stack temperature moves 20 °C since the channel's last training and it is retrained. -/
  | tempRetrain (c : ChanId) (t : Byte)
  /-- R436: STACK_TEMP first exceeds 85 °C, doubling the refresh rate and raising TEMP_HIGH. -/
  | stackTempHigh (t : Byte)
  /-- R425: A FREQ_CTRL write requests an HBM frequency point, starting, holding or dropping it. -/
  | freqRequest (v : W32)
  /-- R425: A frequency change's relock and retraining end and the channels return to RUN. -/
  | freqChangeDone
  /-- R426: A controller half enters FAILED and all MID copies of its team are declared lost. -/
  | halfFailed (t : Team) (phy : Bool)
  /-- R428: A write of IMG_CTRL.ARM starts a full copy of the team's table image. -/
  | imageArm (t : Team)
  /-- R428: The full image copy ends and VALID is set at the next edge. -/
  | imageCopyDone (t : Team)
  /-- R428: A write of IMG_CTRL.DISARM stops write-through and clears VALID. -/
  | imageDisarm (t : Team)
  /-- R443: A DCTRL request for ON wakes a domain, or retries a domain in WAKE_FAIL. -/
  | domainRequestOn (d : DomainId) (idle : Bool)
  /-- R443: A DCTRL request for NAP is started, held pending, dropped or refused. -/
  | domainRequestNap (d : DomainId) (idle : Bool)
  /-- R443: A DCTRL request for OFF is started, held pending, dropped or refused. -/
  | domainRequestOff (d : DomainId) (idle : Bool)
  /-- R444: A domain transition completes and any latched wake or pending request starts. -/
  | domainTransitionDone (d : DomainId)
  /-- R446: A wake from a wake source arrives and aborts, latches or starts a wake. -/
  | wakeEvent (d : Option DomainId) (src : Fin 7)
  /-- R447: Power-good or oscillator readiness times out and the domain enters WAKE_FAIL. -/
  | wakeTimeout (d : DomainId) (osc : WakeWait)
  /-- R441: A domain with IDLE_EN is inactive for 64 core clocks and enters IDLE. -/
  | domainIdleEntry (d : DomainId)
  /-- R441: Activity or a page access returns an IDLE domain to ON. -/
  | domainIdleExit (d : DomainId)
  /-- R449: A write of CLK_CTRL.SEL starts a team PLL for the switch from the RC oscillator. -/
  | clkSelect (v : Fin 4)
  /-- R449: The team PLL locks and the core clock switches at the team's next local edge. -/
  | teamPllLock (t : Team)
  /-- R449: The team PLL has not locked within 2 ms and the team stays on its RC oscillator. -/
  | teamPllTimeout (t : Team)
  /-- R452: A DEV_CMD request for RUN leaves DOZE, or wakes from ANNEAL by warm reset. -/
  | devRequestRun
  /-- R453: A DEV_CMD request for DOZE starts DOZE entry, or is refused from ANNEAL. -/
  | devRequestDoze
  /-- R455: A DEV_CMD request for ANNEAL starts ANNEAL entry. -/
  | devRequestAnneal
  /-- R474: A DEV_CMD request with TARGET 3 is dropped. -/
  | devRequestReserved
  /-- R453: The DOZE drain ends when queues are empty or DRAIN_MAX passes, and domains enter NAP. -/
  | dozeDrainEnd
  /-- R453: A device transition completes, DEV_STAT.STATE changes and TRANSITION_DONE is raised. -/
  | deviceTransitionDone
  /-- R474: A write of WAKE_CMD.WAKE wakes the device from source HOST. -/
  | hostWake
  /-- R559: A falling edge of WAKE_N held low for 1 µs is one PIN wake. -/
  | pinWake
  /-- R470: The valid time reaches the ALARM registers and wakes the device. -/
  | timeAlarm
  /-- R457: CDESC_USED has been 0 for 1,024 grid ticks with HBM_AUTO set, so the low frequency point is requested. -/
  | hbmAutoIdle
  /-- R459: At a closed window with the MAC idle, a slice enters NAP or IDLE, or stays ungated. -/
  | sagGate (u : Fin 544)
  /-- R460: A gated unit begins its wake at window end minus wake time and GUARD. -/
  | sagWake (u : Fin 544)
  /-- R462: A slice's power switch does not report good within 10 µs of its wake. -/
  | sliceWakeFail (u : Fin 544)
  /-- R462: The power controller retries a failed slice wake once per grid tick. -/
  | sliceWakeRetry (u : Fin 544) (ok : Bool)
  /-- R468: A write of LCTRL.HOLD stops write-through and holds changes, or releases them. -/
  | lehrHold (hold : Bool)
  /-- R468: A write of LCTRL.LOAD checks the image and applies it at the next grid edge. -/
  | lehrLoad (hold : Bool)
  /-- R467: A write of LCTRL.INVALIDATE clears LSTAT.VALID. -/
  | lehrInvalidate (hold : Bool)
  /-- R467: Every 100 ms the always-on island scrubs the lehr, correcting or invalidating. -/
  | lehrScrub (ce : Nat) (ue : Bool)
  /-- R477: An access to LWIN_DATA reads or writes lehr bytes as their region allows. -/
  | lehrWindowAccess (k : Fin 64) (w : Option W32)
  /-- R473: At each grid tick with counter bits [9:0] = 0, a ledger record is written and LEDGER is raised. -/
  | ledgerPeriodEnd (ea : Nat) (eb : Nat) (es : Nat)
  /-- R478: PWRON_RST_N is released with supplies good, or the always-on supply becomes good, and a cold start begins. -/
  | coldStart (strap : Fin 4)
  /-- R551: VAON or VAON_IO leaves its range, or PWRON_RST_N goes low, holding the device in cold reset. -/
  | aonSupplyLoss
  /-- R480: RESET_N held low for 1 µs or longer asserts a full reset. -/
  | resetPin
  /-- R484: A full reset is released once its assertion steps complete, and the start sequence begins. -/
  | fullResetRelease
  /-- R491: The gaffer finishes reading and checking the directory and firmware slots, then continues, falls back or fails. -/
  | firmwareVerifyDone (fw0 : SlotCheck) (fw1 : SlotCheck)
  /-- R486: Self-test and SRAM clear end, or an irreparable memory stops the start. -/
  | selftestDone (bad : Option (Fin 34))
  /-- R484: HBM PHY lock, training and initialisation end. -/
  | hbmInitDone (late : List ChanId)
  /-- R142: The gaffer has loaded the base image and applied or rejected the patch bundle in every bench. -/
  | patchLoadDone (pb0 : SlotCheck) (pb1 : SlotCheck) (plain0 : Bool) (plain1 : Bool)
  /-- R497: The crucible image restore ends and the start goes to CONFIG or issues GO. -/
  | restoreDone (badA : Bool) (badB : Bool)
  /-- R499: BOOT.CMD GO starts every closed bench's pools, or ends BAD_STAGE outside CONFIG. -/
  | bootGo
  /-- R478: BOOT.CMD RESET with CONFIRM 0xA5 requests a full reset. -/
  | bootReset
  /-- R503: BOOT.CMD WDOG_KICK restarts the watchdog count. -/
  | wdogKick
  /-- R494: BOOT.CMD SVN_COMMIT burns the running SVNs into the fuses. -/
  | svnCommit
  /-- R494: BOOT.CMD KEY_REVOKE burns the REVOKED fuse of a key, or is refused. -/
  | keyRevoke (key : Fin 4)
  /-- R506: A BOOT.CMD with another OP, or a missing CONFIRM, ends BAD_ARG. -/
  | bootCmdBad (op : Fin 16) (confirm : Byte)
  /-- R503: A BCFG write that changes WDOG_EN or WDOG_MS restarts the watchdog count. -/
  | bcfgWrite (v : W32)
  /-- R503: Half the watchdog time passes without a kick and WDOG_WARN is raised. -/
  | watchdogWarn
  /-- R503: WDOG_MS passes without a kick and a full reset is requested. -/
  | watchdogExpiry
  /-- R502: The gaffer finds a bench, hub or spill engine wedged, sets WEDGE and may request a full reset. -/
  | wedgeDetect (k : Fin 12)
  /-- R507: Flash mailbox READ reads 256 bytes into FL_DATA. -/
  | flashRead (ok : Bool)
  /-- R507: Flash mailbox PROGRAM programs a 256-byte page. -/
  | flashProgram (confirm : Byte)
  /-- R507: Flash mailbox ERASE erases a 4 KiB sector. -/
  | flashErase (confirm : Byte)
  /-- R507: A flash mailbox command with another OP ends BAD_ARG. -/
  | flashBadOp (op : Fin 13)
  /-- R479: PERST_N, a hot reset or link down resets only the PCIe endpoint and its DMA rings. -/
  | hostInterfaceReset (writing : List (Fin 16)) (speed : Fin 5) (width : Fin 5)
  /-- R510: The function enters D3hot or returns to D0, stopping or resuming DMA and MSI-X. -/
  | pciPowerState (d3 : Bool)
  /-- R517: A write of INT_FORCE sets cause bits as if hardware had raised them. -/
  | intForceWrite (p : Fin 16384) (v : W32)
  /-- R524: A write of VEC_EOI sends a new message for a vector that is still active. -/
  | vecEoi (v : Fin 64)
  /-- R524: Clearing a vector or function mask, or setting MSI-X Enable, sends messages with PBA set. -/
  | msixUnmask (u : Unmask)
  /-- R521: PAGE_CTRL.SNAP requests a snapshot of the page's direct counters at the commit edge. -/
  | pageSnap (p : Fin 16384) (v : W32)
  /-- R521: PAGE_CTRL.CNT_CLR requests a clear of the page's direct counters at the commit edge. -/
  | pageCounterClear (p : Fin 16384) (v : W32)
  /-- R522: HOST.SNAP.REQ requests a snapshot on every page at one tick number. -/
  | deviceSnap
  /-- R518: Writing LEHR_CTRL.WITHHOLD from 1 to 0 writes every current ·L value of the page through. -/
  | withholdRelease (p : Fin 16384)
  /-- R529: A transmit ring fetches its next descriptor when the admission FIFO has room, and checks, allocates and admits the
  frame. -/
  | txDescriptorFetch (i : Fin 16) (d : List Byte) (bytes : List Byte)
  /-- R532: A receive ring with enough descriptors writes a CPU queue frame to host memory. -/
  | rxFrameWrite (r : Fin 16) (addrs : List (BitVec 64))
  /-- R532: COAL µs after a ring message, the ring's pending STAT.IRQ is set. -/
  | irqCoalesceEnd (i : Fin 32)
  /-- R533: Writing a ring's CFG.EN from 0 to 1 zeroes HEAD and TAIL and restarts it. -/
  | ringEnable (i : Fin 32) (v : BitVec 31)
  /-- R533: Writing CFG.EN = 0 stops descriptor fetch and sets IDLE when held descriptors complete. -/
  | ringDisable (i : Fin 32) (v : BitVec 31)
  /-- R533: A PCIe error on a ring access stops the ring and raises RING_STOPPED. -/
  | ringDmaError (i : Fin 32) (k : BitVec 16) (wrote : Bool)
  /-- R535: The I2C READ command reads a register of an allowed page. -/
  | i2cRead (a : W32) (pec : Bool)
  /-- R535: The I2C WRITE command writes a register of an allowed page. -/
  | i2cWrite (a : W32) (v : W32) (pec : Bool)
  /-- R535: The I2C WAKE command is a wake from source I2C. -/
  | i2cWake (pec : Bool)
  /-- R535: The I2C RESET command with 0xA5 requests a full reset. -/
  | i2cReset (pec : Bool)
  /-- R535: The I2C STATUS command returns the boot stage and device state. -/
  | i2cStatus (pec : Bool)
  /-- R535: Any other I2C command byte, or RESET without 0xA5, is NACKed. -/
  | i2cBadCommand (cmd : Byte) (arg : Byte)
  /-- R537: A selected edge on a GPIO input raises its cause. -/
  | gpioEdge (n : Fin 8) (level : Bool)
  /-- R562: A sensor reads 115 °C or more and THERM_TRIP_N is driven low. -/
  | thermalTrip (r : Readings)
  /-- R562: Every sensor reads 105 °C or less and THERM_TRIP_N is released. -/
  | thermalTripRelease (a : BitVec 8) (b : BitVec 8) (c : BitVec 8)
  /-- R507: A flash mailbox program or erase completes, within 3 ms or 400 ms, and its result becomes final with FL_DONE raised.
  -/
  | flashDone (ok : Bool)
  /-- R494: A fuse burn for SVN_COMMIT or KEY_REVOKE ends, within 10 ms, and the command result becomes final as OK or
  FUSE_FAIL. -/
  | fuseBurnDone (ok : Bool)
  /-- R261: A BUF mailbox command's result becomes final, within 5,000 core clocks, and MBOX_DONE is raised. -/
  | mboxDone (b : BenchId)
  /-- R553: VHBM_C, VHBM_Q or VHBM_PP leaves its operating range, so the crucible table image is no longer kept for the next
  start. -/
  | hbmSupplyLoss
  deriving DecidableEq, Repr

end Sys2Proof
end

