-- ==== Sys2Proof/Decode.lean ====
section
/-! DEFINITION. The decoder of command words. The spec's table of operations and events gives none of its rows any bits:
commands are register accesses, events and messages, not words, so no word spells one. -/

namespace Sys2Proof

/-- The command that a word of the table's bits spells: none, since no row gives bits. -/
def decodeTableWord (_nbits _w : Nat) : Option Instr := none

end Sys2Proof
end

