-- ==== Sys2Proof/Config.lean ====
section
/-! DEFINITION. What the spec leaves to one part or leaves open: fused values, the contents of the shipped base image,
and the free values. Each is an opaque constant: nothing can be proved of the value it has. -/

namespace Sys2Proof.Config

/-- The free values: a fresh one is this at the state's counter `nonce` (see the assumption log). -/
opaque freeValue : Nat → BitVec 192

/-- IDENT.LOT, WAFER and SERIAL of the part (R9): fused. -/
opaque fusedLot : BitVec 32
/-- IDENT.WAFER [23:0] (R9): fused. -/
opaque fusedWafer : BitVec 24
/-- IDENT.SERIAL (R9, R10): fused. -/
opaque fusedSerial : BitVec 64

/-- BOOT.FUSE as fused at delivery (R494, R506): SVNs, REVOKED and PRESENT. -/
opaque fusedBoot : BitVec 32
/-- The fused hashes of public keys, SHA-384, by key number 0 to 3 (R491, R494). -/
opaque fusedKeyHash : Nat → BitVec 384
/-- The fused patch key (R495). -/
opaque patchKey : BitVec 256
/-- The code NO_DIRECTORY of BOOT.VERIFY (R489), whose number the spec does not state. -/
opaque noDirectory : BitVec 4

/-- The base image in on-die ROM (R142): control-store words. R137 says what its tables hold beside these values. -/
opaque baseWord : Nat → BitVec 192
/-- The base image's dispatch table. -/
opaque baseDispatch : Nat → BitVec 32
/-- The base image's PMT. -/
opaque basePmt : Nat → BitVec 39
/-- The base image's ENTRY0–3, ENTRY_CPU and ENTRY_PUNTY, by index 0 to 5. -/
opaque baseEntry : Nat → BitVec 14

/-- The fixed time in ns from a copy's entry into a port's transmit pipe to the transmit point of R67, by port; R67 gives none. -/
opaque txDelay : Nat → BitVec 16
/-- The fixed encryption latency in ns (R69). -/
opaque encryptDelay : BitVec 16

/-- The confidentiality offset of encrypted frames under a receive SC, by device SC number (1: 30, 2: 50, else 0): R367 has the
three offsets, CONF_OFF of R373 acts on a transmit SC alone, and no rule says which one a receive SC uses. -/
opaque rxConfOffset : Nat → BitVec 2

end Sys2Proof.Config
end

