-- ==== Sys2Proof/Machine/Bits.lean ====
section
/-! DEFINITION. Bit fields of naturals, byte strings in network and in little-endian order, signed fields, and the
two CRCs the spec names: CRC-32 (the Ethernet FCS) and CRC-32C (bridge, hashes, headers). -/

namespace Sys2Proof

/-- Bits [hi:lo] of `n`. -/
def bits (n hi lo : Nat) : Nat := (n >>> lo) % 2 ^ (hi + 1 - lo)

/-- Bit `i` of `n`. -/
def bit (n i : Nat) : Bool := Nat.testBit n i

/-- `n` with its bits [hi:lo] replaced by `v` (cut to the field). -/
def setBits (n hi lo v : Nat) : Nat :=
  (n >>> (hi + 1)) * 2 ^ (hi + 1) + (v % 2 ^ (hi + 1 - lo)) * 2 ^ lo + n % 2 ^ lo

/-- 1 for true. -/
def b2n (b : Bool) : Nat := if b then 1 else 0

/-- The signed reading of a `w`-bit field. -/
def signed (w n : Nat) : Int :=
  if 2 ^ (w - 1) ≤ n % 2 ^ w then ((n % 2 ^ w : Nat) : Int) - ((2 ^ w : Nat) : Int) else ((n % 2 ^ w : Nat) : Int)

/-- An integer cut to `w` bits, two's complement. -/
def wrap (w : Nat) (i : Int) : Nat := (i % ((2 ^ w : Nat) : Int)).toNat

/-- Bytes read most significant first. -/
def beNat : List Byte → Nat := fun l => l.foldl (fun a b => a * 256 + b.toNat) 0

/-- `n` as `k` bytes, most significant first. -/
def natBE : Nat → Nat → List Byte
  | 0, _ => []
  | k + 1, n => BitVec.ofNat 8 (n / 256 ^ k) :: natBE k n

/-- Bytes read least significant first. -/
def leNat : List Byte → Nat
  | [] => 0
  | b :: t => b.toNat + 256 * leNat t

/-- `n` as `k` bytes, least significant first. -/
def natLE : Nat → Nat → List Byte
  | 0, _ => []
  | k + 1, n => BitVec.ofNat 8 n :: natLE k (n / 256)

/-- Bytes `[off, off + n)` of a byte string; bytes past its end read 0. -/
def slice (l : List Byte) (off n : Nat) : List Byte :=
  let t := (l.drop off).take n
  t ++ List.replicate (n - t.length) 0

/-- Big-endian number of `n` bytes at `off`. -/
def beAt (l : List Byte) (off n : Nat) : Nat := beNat (slice l off n)

/-- One bit of a reflected CRC: shift right, and add the reflected polynomial when a one falls out. -/
def crcBit (poly c : Nat) : Nat := if c % 2 = 1 then (c / 2) ^^^ poly else c / 2

/-- One byte of a reflected CRC. -/
def crcByte (poly c : Nat) (b : Byte) : Nat :=
  let x := c ^^^ b.toNat
  crcBit poly (crcBit poly (crcBit poly (crcBit poly (crcBit poly (crcBit poly (crcBit poly (crcBit poly x)))))))

/-- A reflected 32-bit CRC over bytes from a start value, with no final complement. -/
def crcRaw (poly start : Nat) (l : List Byte) : Nat := l.foldl (crcByte poly) start

/-- The reflected polynomial of CRC-32C (Castagnoli). -/
def polyC : Nat := 0x82F63B78

/-- The reflected polynomial of CRC-32 (IEEE 802.3). -/
def polyE : Nat := 0xEDB88320

/-- CRC-32C with start and final complement. -/
def crc32c (l : List Byte) : Nat := (crcRaw polyC 0xFFFFFFFF l) ^^^ 0xFFFFFFFF

/-- CRC-32 of IEEE 802.3: the FCS of a frame's bytes, as the number whose least significant byte is sent first. -/
def crc32 (l : List Byte) : Nat := (crcRaw polyE 0xFFFFFFFF l) ^^^ 0xFFFFFFFF

/-- The FCS bytes as they stand at the end of a frame. -/
def fcsBytes (l : List Byte) : List Byte := natLE 4 (crc32 l)

/-- Exclusive or of two byte strings, to the shorter. -/
def xorBytes : List Byte → List Byte → List Byte
  | a :: s, b :: t => (a ^^^ b) :: xorBytes s t
  | _, _ => []

/-- Ceiling division. -/
def ceilDiv (a b : Nat) : Nat := (a + b - 1) / b

/-- Replace the element at `i`. -/
def listSet {α : Type} (l : List α) (i : Nat) (v : α) : List α := l.set i v

/-- The first index below `n` that meets `p`, from `i` on. -/
def findFrom (p : Nat → Bool) : Nat → Nat → Option Nat
  | _, 0 => none
  | i, n + 1 => if p i then some i else findFrom p (i + 1) n

end Sys2Proof
end

