-- ==== Sys2Proof/Machine/RegMap.lean ====
section
/-! DEFINITION. Every register of every page (chapters 00 to 15): offsets, access masks, factory values and
named fields, and the common page registers of R515 to R518. Table form of the spec's register tables. -/

namespace Sys2Proof.Machine

/-- Which pages of a kind hold a register: all, those of instances 0 and 4 (the team's table registers, R185 R223
R226 R298 R362), or the PORT pages that hold an MDIO master (R104). -/
inductive Scope where
  | all | team | mdio
  deriving DecidableEq, Repr

/-- One row of a page's register table: `count` registers (or 64-bit counters, R519) at `off + i * stride`. `win` is
the index register and its largest index for a windowed row; `cnt` marks a counter pair and `direct` one that SNAP
and CNT_CLR act on (R520); `rw`, `w1c` and `lehr` are the bits of access RW, of access W1C, and marked ·L (R12, R14);
`factory` is the word after a cold start. -/
structure RegRow where
  off : Nat
  count : Nat := 1
  stride : Nat := 4
  win : Option (Nat × Nat) := none
  scope : Scope := .all
  cnt : Bool := false
  direct : Bool := false
  rw : Nat := 0
  w1c : Nat := 0
  lehr : Nat := 0
  factory : Nat := 0
  deriving DecidableEq, Repr

/-- A register field: the byte offset of its register in its page and its bits [hi:lo]. -/
structure Fld where
  off : Nat
  hi : Nat
  lo : Nat
  deriving DecidableEq, Repr

/-- The kinds of page (R514; PWR and CRUC pages split as R29 states) and of block in BAR2 (R512). -/
inductive PageKind where
  | host
  | ident
  | boot
  | time
  | pwrt
  | pwrd
  | lehr
  | mirr
  | port
  | serdes
  | marver
  | cls
  | fdb
  | strm
  | buf
  | core
  | sched
  | gate
  | meter
  | ciph
  | crucc
  | cruch
  | crucp
  | txring
  | rxring
  | msix
  deriving DecidableEq, Repr

/-- The block registers of a HOST page (15_host_interface_and_pages.md R538). -/
def hostRows : List RegRow := [
  { off := 0x040 },
  { off := 0x044 },
  { off := 0x048 },
  { off := 0x050 },
  { off := 0x054, rw := 0x3F },
  { off := 0x060, count := 8, stride := 0x4 },
  { off := 0x080 },
  { off := 0x084 },
  { off := 0x088 },
  { off := 0x0C0, rw := 0xFF, lehr := 0xFF },
  { off := 0x0C4, rw := 0xFF, lehr := 0xFF },
  { off := 0x0C8 },
  { off := 0x0CC, rw := 0xFFFF, lehr := 0xFFFF },
  { off := 0x0E0, rw := 0x100, lehr := 0x100, factory := 0x2C },
  { off := 0x100, cnt := true, direct := true },
  { off := 0x108, cnt := true, direct := true },
  { off := 0x110, cnt := true, direct := true },
  { off := 0x118, cnt := true, direct := true },
  { off := 0x120, cnt := true, direct := true } ]

/-- The block registers of a IDENT page (00_scope.md R9). -/
def identRows : List RegRow := [
  { off := 0x040, factory := 0x51202012 },
  { off := 0x044 },
  { off := 0x048 },
  { off := 0x04C },
  { off := 0x050 } ]

/-- The block registers of a BOOT page (14_boot_reset_recovery.md R506). -/
def bootRows : List RegRow := [
  { off := 0x040 },
  { off := 0x044, factory := 0xFFFF0000 },
  { off := 0x048 },
  { off := 0x04C, rw := 0xE000FFFF, lehr := 0xE000FFFF, factory := 0x800003E8 },
  { off := 0x050 },
  { off := 0x054 },
  { off := 0x058 },
  { off := 0x05C },
  { off := 0x060 },
  { off := 0x064, factory := 0xFFFFFFFF },
  { off := 0x080, rw := 0xFFFFFFFF },
  { off := 0x084 },
  { off := 0x088 },
  { off := 0x800, count := 64, stride := 0x4, rw := 0xFFFFFFFF },
  { off := 0x100, cnt := true, direct := true },
  { off := 0x108, cnt := true, direct := true },
  { off := 0x110, cnt := true, direct := true },
  { off := 0x118, cnt := true, direct := true },
  { off := 0x120, cnt := true, direct := true },
  { off := 0x128, cnt := true, direct := true } ]

/-- The block registers of a TIME page (02_gather_tick_and_time.md R73). -/
def timeRows : List RegRow := [
  { off := 0x040, rw := 0x1F, lehr := 0x1F },
  { off := 0x044 },
  { off := 0x048, rw := 0xFFFFFFFF, lehr := 0xFFFFFFFF },
  { off := 0x04C },
  { off := 0x050, rw := 0xFFFF },
  { off := 0x054, rw := 0xFFFFFFFF },
  { off := 0x058, rw := 0xFFFFFFFF },
  { off := 0x05C },
  { off := 0x060 },
  { off := 0x064 },
  { off := 0x068 },
  { off := 0x06C },
  { off := 0x070 },
  { off := 0x074 },
  { off := 0x078 },
  { off := 0x07C },
  { off := 0x080 },
  { off := 0x084 },
  { off := 0x088 },
  { off := 0x090, rw := 0x3FFFFFFF, lehr := 0x3FFFFFFF },
  { off := 0x094, rw := 0xFFFFF, lehr := 0xFFFFF, factory := 0x186A0 },
  { off := 0x098, count := 2, stride := 0x4, rw := 0xC03F00FF, lehr := 0xC03F00FF, factory := 0x10000 },
  { off := 0x0A0, cnt := true, direct := true },
  { off := 0x100, count := 8, stride := 0x40 },
  { off := 0x104, count := 8, stride := 0x40 },
  { off := 0x108, count := 8, stride := 0x40, cnt := true, direct := true },
  { off := 0x110, count := 8, stride := 0x40, cnt := true, direct := true },
  { off := 0x118, count := 8, stride := 0x40, cnt := true, direct := true },
  { off := 0x120, count := 8, stride := 0x40, cnt := true, direct := true },
  { off := 0x128, count := 8, stride := 0x40, cnt := true, direct := true },
  { off := 0x400, count := 128, stride := 0x4, rw := 0xFFFFFFFF, lehr := 0xFFFFFFFF, factory := 0xC0C0C0C0 },
  { off := 0x600, count := 8, stride := 0x10 },
  { off := 0x604, count := 8, stride := 0x10 },
  { off := 0x608, count := 8, stride := 0x10 },
  { off := 0x60C, count := 8, stride := 0x10 } ]

/-- The block registers of a PWRT page (13_power_and_lehr.md R476). -/
def pwrtRows : List RegRow := [
  { off := 0x040, count := 16, stride := 0x4, rw := 0xFFFFFFFF, lehr := 0xFFFFFFFF },
  { off := 0x080, count := 8, stride := 0x4, rw := 0xFFFFFFFF, lehr := 0xFFFFFFFF },
  { off := 0x0C0 },
  { off := 0x0C4 },
  { off := 0x0C8 },
  { off := 0x100, cnt := true, direct := true },
  { off := 0x108, cnt := true, direct := true },
  { off := 0x110, cnt := true, direct := true },
  { off := 0x118, cnt := true, direct := true },
  { off := 0x120, cnt := true, direct := true },
  { off := 0x128, cnt := true, direct := true },
  { off := 0x130, cnt := true, direct := true } ]

/-- The block registers of a PWRD page (13_power_and_lehr.md R474). -/
def pwrdRows : List RegRow := [
  { off := 0x040 },
  { off := 0x044 },
  { off := 0x048, rw := 0x8300FFFF, lehr := 0x8300FFFF, factory := 0x2002710 },
  { off := 0x04C, rw := 0x7E, lehr := 0x7E, factory := 0x7 },
  { off := 0x050 },
  { off := 0x054, lehr := 0xFC000000 },
  { off := 0x058, lehr := 0xFFFFFFFF },
  { off := 0x060, rw := 0x3FFFFFFF, lehr := 0x3FFFFFFF },
  { off := 0x064, rw := 0xFFFFFFFF, lehr := 0xFFFFFFFF },
  { off := 0x068, rw := 0xFFFF, lehr := 0xFFFF },
  { off := 0x070, rw := 0x3, lehr := 0x3 },
  { off := 0x074 },
  { off := 0x078, rw := 0xFFFF, lehr := 0xFFFF, factory := 0xC8 },
  { off := 0x080, rw := 0x7F },
  { off := 0x084, win := some (0x080, 111), rw := 0x10000000, lehr := 0x10000000, factory := 0x10000000 },
  { off := 0x088, win := some (0x080, 111) },
  { off := 0x090, win := some (0x080, 111), cnt := true },
  { off := 0x098, win := some (0x080, 111), cnt := true },
  { off := 0x0A0, win := some (0x080, 111), cnt := true },
  { off := 0x0A8, win := some (0x080, 111), cnt := true },
  { off := 0x0C0 },
  { off := 0x0C4 },
  { off := 0x200, count := 8, stride := 0x4 },
  { off := 0x100, cnt := true, direct := true },
  { off := 0x108, cnt := true, direct := true },
  { off := 0x110, cnt := true, direct := true },
  { off := 0x118, cnt := true, direct := true },
  { off := 0x120, cnt := true, direct := true },
  { off := 0x128, cnt := true, direct := true },
  { off := 0x130, cnt := true, direct := true },
  { off := 0x138, cnt := true, direct := true },
  { off := 0x140, count := 7, stride := 0x8, cnt := true, direct := true },
  { off := 0x178, cnt := true, direct := true },
  { off := 0x180, cnt := true, direct := true },
  { off := 0x188, cnt := true, direct := true } ]

/-- The block registers of a LEHR page (13_power_and_lehr.md R477). -/
def lehrRows : List RegRow := [
  { off := 0x040, rw := 0x80000000 },
  { off := 0x044 },
  { off := 0x048, rw := 0x1FFF00 },
  { off := 0x050, cnt := true, direct := true },
  { off := 0x058, cnt := true, direct := true },
  { off := 0x800, count := 64, stride := 0x4, rw := 0xFFFFFFFF } ]

/-- The block registers of a MIRR page (08_switch_core_and_queues.md R301). -/
def mirrRows : List RegRow := [
  { off := 0x040, count := 8, stride := 0x4, rw := 0xF9FFFF00, lehr := 0xF9FFFF00 },
  { off := 0x060 },
  { off := 0x100, count := 128, stride := 0x4, rw := 0xFFFFFFFF, lehr := 0xFFFFFFFF } ]

/-- The block registers of a PORT page (03_ports_and_links.md R104). -/
def portRows : List RegRow := [
  { off := 0x040 },
  { off := 0x100, count := 16, stride := 0x40, rw := 0xFFFCFCF1, lehr := 0xFFFCFCF1, factory := 0x1F400000 },
  { off := 0x104, count := 16, stride := 0x40, w1c := 0xF000 },
  { off := 0x108, count := 16, stride := 0x40, rw := 0xFFFF03FF, lehr := 0xFFFF03FF, factory := 0x3E80004 },
  { off := 0x10C, count := 16, stride := 0x40, rw := 0x8000FFFF, lehr := 0x8000FFFF, factory := 0x7D0 },
  { off := 0x110, count := 16, stride := 0x40, rw := 0xFFFFFFFF, lehr := 0xFFFFFFFF },
  { off := 0x114, count := 16, stride := 0x40, rw := 0xFFF00000, lehr := 0xFFF00000, factory := 0xA00000 },
  { off := 0x120, count := 16, stride := 0x40, rw := 0xFFFFFFFF, lehr := 0xFFFFFFFF, factory := 0xFFFFFFFF },
  { off := 0x124, count := 16, stride := 0x40, rw := 0xFFFFFFFF, lehr := 0xFFFFFFFF, factory := 0xFFFFFFFF },
  { off := 0x128, count := 16, stride := 0x40, rw := 0xFFFFFFFF, lehr := 0xFFFFFFFF, factory := 0xFFFFFFFF },
  { off := 0x12C, count := 16, stride := 0x40, rw := 0xFFFFFFFF, lehr := 0xFFFFFFFF, factory := 0xFFFFFFFF },
  { off := 0x130, count := 16, stride := 0x40, cnt := true, direct := true },
  { off := 0x500, count := 16, stride := 0xA0, cnt := true, direct := true },
  { off := 0x508, count := 16, stride := 0xA0, cnt := true, direct := true },
  { off := 0x510, count := 16, stride := 0xA0, cnt := true, direct := true },
  { off := 0x518, count := 16, stride := 0xA0, cnt := true, direct := true },
  { off := 0x520, count := 16, stride := 0xA0, cnt := true, direct := true },
  { off := 0x528, count := 16, stride := 0xA0, cnt := true, direct := true },
  { off := 0x530, count := 16, stride := 0xA0, cnt := true, direct := true },
  { off := 0x538, count := 16, stride := 0xA0, cnt := true, direct := true },
  { off := 0x540, count := 16, stride := 0xA0, cnt := true, direct := true },
  { off := 0x548, count := 16, stride := 0xA0, cnt := true, direct := true },
  { off := 0x550, count := 16, stride := 0xA0, cnt := true, direct := true },
  { off := 0x558, count := 16, stride := 0xA0, cnt := true, direct := true },
  { off := 0x560, count := 16, stride := 0xA0, cnt := true, direct := true },
  { off := 0x568, count := 16, stride := 0xA0, cnt := true, direct := true },
  { off := 0x570, count := 16, stride := 0xA0, cnt := true, direct := true },
  { off := 0x578, count := 16, stride := 0xA0, cnt := true, direct := true },
  { off := 0x580, count := 16, stride := 0xA0, cnt := true, direct := true },
  { off := 0x588, count := 16, stride := 0xA0, cnt := true, direct := true },
  { off := 0x590, count := 16, stride := 0xA0, cnt := true, direct := true },
  { off := 0x598, count := 16, stride := 0xA0, cnt := true, direct := true },
  { off := 0xF00, scope := .mdio, rw := 0x80FF0000, lehr := 0x80FF0000, factory := 0x40000 },
  { off := 0xF04, scope := .mdio },
  { off := 0xF08, scope := .mdio },
  { off := 0xF0C, scope := .mdio, w1c := 0x1 } ]

/-- The block registers of a SERDES page (03_ports_and_links.md R107). -/
def serdesRows : List RegRow := [
  { off := 0x040, rw := 0xC0000000, lehr := 0xC0000000 },
  { off := 0x044, w1c := 0x20000000 },
  { off := 0x100, count := 4, stride := 0x40, rw := 0xF8000000, lehr := 0xF8000000 },
  { off := 0x104, count := 4, stride := 0x40, rw := 0xFFFFFF, lehr := 0xFFFFFF, factory := 0x83004 },
  { off := 0x108, count := 4, stride := 0x40 },
  { off := 0x10C, count := 4, stride := 0x40, rw := 0xF8000000 },
  { off := 0x110, count := 4, stride := 0x40, cnt := true, direct := true },
  { off := 0x118, count := 4, stride := 0x40, cnt := true, direct := true } ]

/-- The block registers of a MARVER page (04_marver_microcode.md R145). -/
def marverRows : List RegRow := [
  { off := 0x040 },
  { off := 0x044 },
  { off := 0x048 },
  { off := 0x050, count := 4, stride := 0x4 },
  { off := 0x060 },
  { off := 0x064 },
  { off := 0x068 },
  { off := 0x06C, rw := 0x8000FFFF, lehr := 0x8000FFFF, factory := 0x80000040 },
  { off := 0x070, w1c := 0x80000000 },
  { off := 0x074 },
  { off := 0x0C0, count := 4, stride := 0x4, rw := 0xFFFFFFFF, lehr := 0xFFFFFFFF },
  { off := 0x100, cnt := true, direct := true },
  { off := 0x108, cnt := true, direct := true },
  { off := 0x110, cnt := true, direct := true },
  { off := 0x118, cnt := true, direct := true },
  { off := 0x120, cnt := true, direct := true },
  { off := 0x128, cnt := true, direct := true },
  { off := 0x130, cnt := true, direct := true },
  { off := 0x138, cnt := true, direct := true },
  { off := 0x140, cnt := true, direct := true },
  { off := 0x148, cnt := true, direct := true },
  { off := 0x150, cnt := true, direct := true },
  { off := 0x158, cnt := true, direct := true },
  { off := 0x160, cnt := true, direct := true },
  { off := 0x168, cnt := true, direct := true },
  { off := 0x170, cnt := true, direct := true },
  { off := 0x178, cnt := true, direct := true },
  { off := 0x200, count := 16, stride := 0x8, cnt := true, direct := true },
  { off := 0x280, rw := 0xFFF },
  { off := 0x284, win := some (0x280, 4095), cnt := true },
  { off := 0x288 },
  { off := 0x300, count := 64, stride := 0x8, rw := 0xFFFFFFFF, lehr := 0xFFFFFFFF },
  { off := 0x304, count := 64, stride := 0x8, rw := 0xFFFF, lehr := 0xFFFF } ]

/-- The block registers of a CLS page (05_classification_rules_punty.md R185). -/
def clsRows : List RegRow := [
  { off := 0x040, rw := 0x2F7, lehr := 0x2F7, factory := 0x2 },
  { off := 0x044 },
  { off := 0x048, count := 2, stride := 0x4 },
  { off := 0x050 },
  { off := 0x080, scope := .team },
  { off := 0x084, scope := .team, w1c := 0x30000000 },
  { off := 0x088, scope := .team },
  { off := 0x090, scope := .team, rw := 0xFFFFFFFF, lehr := 0xFFFFFFFF, factory := 0xFFFFFFFF },
  { off := 0x094, scope := .team, rw := 0xFFFFFFFF, lehr := 0xFFFFFFFF, factory := 0xFFFFFFFF },
  { off := 0x098, scope := .team, rw := 0xFFFFFFFF, lehr := 0xFFFFFFFF, factory := 0x9E3779B9 },
  { off := 0x09C, scope := .team, rw := 0xFFFFFFFF, lehr := 0xFFFFFFFF, factory := 0x7F4A7C15 },
  { off := 0x0A0, scope := .team, rw := 0xFFFFFFFF, lehr := 0xFFFFFFFF, factory := 0xFFFFFFFF },
  { off := 0x0A4, scope := .team, rw := 0xFFFFFFFF, lehr := 0xFFFFFFFF, factory := 0xFFFFFFFF },
  { off := 0x0A8, scope := .team, rw := 0xFFFFFFFF, lehr := 0xFFFFFFFF, factory := 0x9E3779B9 },
  { off := 0x0AC, scope := .team, rw := 0xFFFFFFFF, lehr := 0xFFFFFFFF, factory := 0x7F4A7C15 },
  { off := 0x0B0, scope := .team, rw := 0xFFFFFFFF, lehr := 0xFFFFFFFF, factory := 0xFFFFFFFF },
  { off := 0x0B4, scope := .team, rw := 0xFFFFFFFF, lehr := 0xFFFFFFFF, factory := 0xFFFFFFFF },
  { off := 0x0B8, scope := .team, rw := 0xFFFFFFFF, lehr := 0xFFFFFFFF, factory := 0x9E3779B9 },
  { off := 0x0BC, scope := .team, rw := 0xFFFFFFFF, lehr := 0xFFFFFFFF, factory := 0x7F4A7C15 },
  { off := 0x0C0, count := 16, stride := 0x4, scope := .team, rw := 0xC0FF0000, lehr := 0xC0FF0000 },
  { off := 0x100, scope := .team, rw := 0x8F000000, lehr := 0x8F000000 },
  { off := 0x140, count := 17, stride := 0x4, scope := .team, rw := 0xFFFFFFFF, lehr := 0xFFFFFFFF },
  { off := 0x190, count := 3, stride := 0x4, scope := .team },
  { off := 0x1C0, count := 16, stride := 0x4, scope := .team },
  { off := 0x200, count := 14, stride := 0x4, rw := 0xFFFFFFFF },
  { off := 0x238, rw := 0xBFFFFFFF },
  { off := 0x23C, count := 4, stride := 0x4, rw := 0xFFFFFFFF },
  { off := 0x24C, rw := 0xE001FFFF },
  { off := 0x250 },
  { off := 0x254 },
  { off := 0x280, count := 14, stride := 0x4 },
  { off := 0x2B8 },
  { off := 0x2BC, count := 4, stride := 0x4 },
  { off := 0x2D0 },
  { off := 0x400, cnt := true, direct := true },
  { off := 0x408, cnt := true, direct := true },
  { off := 0x410, cnt := true, direct := true },
  { off := 0x418, cnt := true, direct := true },
  { off := 0x420, cnt := true, direct := true },
  { off := 0x428, cnt := true, direct := true },
  { off := 0x430, cnt := true, direct := true },
  { off := 0x438, cnt := true, direct := true },
  { off := 0x440, cnt := true, direct := true },
  { off := 0x448, cnt := true, direct := true },
  { off := 0x450, cnt := true, direct := true },
  { off := 0x458, cnt := true, direct := true },
  { off := 0x460, cnt := true, direct := true },
  { off := 0x468, cnt := true, direct := true },
  { off := 0x470, cnt := true, direct := true },
  { off := 0x500, scope := .team, cnt := true, direct := true },
  { off := 0x508, scope := .team, cnt := true, direct := true },
  { off := 0x510, scope := .team, cnt := true, direct := true },
  { off := 0x518, scope := .team, cnt := true, direct := true } ]

/-- The block registers of a FDB page (06_tables_and_learning.md R223). -/
def fdbRows : List RegRow := [
  { off := 0x040, rw := 0xE0000000, lehr := 0xE0000000, factory := 0xA0000000 },
  { off := 0x044, rw := 0x8FFFFFFF, lehr := 0x8FFFFFFF, factory := 0x20101BF },
  { off := 0x048 },
  { off := 0x050, rw := 0xFFFFFFFF, lehr := 0xFFFFFFFF, factory := 0xFFFFFFFF },
  { off := 0x054, rw := 0xFFFFFFFF, lehr := 0xFFFFFFFF, factory := 0xFFFFFFFF },
  { off := 0x058, rw := 0xFFFFFFFF, lehr := 0xFFFFFFFF, factory := 0x9E3779B9 },
  { off := 0x05C, rw := 0xFFFFFFFF, lehr := 0xFFFFFFFF, factory := 0x7F4A7C15 },
  { off := 0x060 },
  { off := 0x064 },
  { off := 0x068 },
  { off := 0x06C },
  { off := 0x080, scope := .team, rw := 0x8000FFFF, lehr := 0x8000FFFF, factory := 0x1 },
  { off := 0x084, scope := .team },
  { off := 0x100, count := 64, stride := 0x4, rw := 0xCF000FFF, lehr := 0xCF000FFF, factory := 0x80000001 },
  { off := 0x200, count := 14, stride := 0x4, rw := 0xFFFFFFFF },
  { off := 0x238, rw := 0xBFFFFFFF },
  { off := 0x23C, count := 4, stride := 0x4, rw := 0xFFFFFFFF },
  { off := 0x24C, rw := 0xE001FFFF },
  { off := 0x250 },
  { off := 0x254 },
  { off := 0x280, count := 14, stride := 0x4 },
  { off := 0x2B8 },
  { off := 0x2BC, count := 4, stride := 0x4 },
  { off := 0x2D0 },
  { off := 0x258, rw := 0xFF },
  { off := 0x25C },
  { off := 0x300, rw := 0xF80001FF },
  { off := 0x304, rw := 0xFFFF },
  { off := 0x308 },
  { off := 0x30C },
  { off := 0x310 },
  { off := 0x314 },
  { off := 0x318 },
  { off := 0x31C },
  { off := 0x400, cnt := true, direct := true },
  { off := 0x408, cnt := true, direct := true },
  { off := 0x410, cnt := true, direct := true },
  { off := 0x418, cnt := true, direct := true },
  { off := 0x420, cnt := true, direct := true },
  { off := 0x428, cnt := true, direct := true },
  { off := 0x430, cnt := true, direct := true },
  { off := 0x438, cnt := true, direct := true },
  { off := 0x440, cnt := true, direct := true },
  { off := 0x448, cnt := true, direct := true },
  { off := 0x450, cnt := true, direct := true },
  { off := 0x458, cnt := true, direct := true },
  { off := 0x460, cnt := true, direct := true },
  { off := 0x468, cnt := true, direct := true },
  { off := 0x470, cnt := true, direct := true },
  { off := 0x478, cnt := true, direct := true },
  { off := 0x480, cnt := true, direct := true },
  { off := 0x488, cnt := true, direct := true },
  { off := 0x490, cnt := true, direct := true },
  { off := 0x498, cnt := true, direct := true },
  { off := 0x4A0, cnt := true, direct := true },
  { off := 0x4A8, cnt := true, direct := true },
  { off := 0x4B0, cnt := true, direct := true },
  { off := 0x4B8, cnt := true, direct := true },
  { off := 0x4C0, cnt := true, direct := true },
  { off := 0x4C8, cnt := true, direct := true },
  { off := 0x500, scope := .team, cnt := true, direct := true },
  { off := 0x508, scope := .team, cnt := true, direct := true },
  { off := 0x510, scope := .team, cnt := true, direct := true } ]

/-- The block registers of a STRM page (06_tables_and_learning.md R226). -/
def strmRows : List RegRow := [
  { off := 0x040, scope := .team },
  { off := 0x050, scope := .team, rw := 0xFFFFFFFF, lehr := 0xFFFFFFFF, factory := 0xFFFFFFFF },
  { off := 0x054, scope := .team, rw := 0xFFFFFFFF, lehr := 0xFFFFFFFF, factory := 0xFFFFFFFF },
  { off := 0x058, scope := .team, rw := 0xFFFFFFFF, lehr := 0xFFFFFFFF, factory := 0x9E3779B9 },
  { off := 0x05C, scope := .team, rw := 0xFFFFFFFF, lehr := 0xFFFFFFFF, factory := 0x7F4A7C15 },
  { off := 0x100, count := 64, stride := 0x4, rw := 0xE0000000, lehr := 0xE0000000 },
  { off := 0x200, count := 14, stride := 0x4, rw := 0xFFFFFFFF },
  { off := 0x238, rw := 0xBFFFFFFF },
  { off := 0x23C, count := 4, stride := 0x4, rw := 0xFFFFFFFF },
  { off := 0x24C, rw := 0xE00FFFFF },
  { off := 0x250 },
  { off := 0x254 },
  { off := 0x280, count := 14, stride := 0x4 },
  { off := 0x2B8 },
  { off := 0x2BC, count := 4, stride := 0x4 },
  { off := 0x2D0 },
  { off := 0x260 },
  { off := 0x400, cnt := true, direct := true },
  { off := 0x408, cnt := true, direct := true },
  { off := 0x410, cnt := true, direct := true },
  { off := 0x418, cnt := true, direct := true },
  { off := 0x420, cnt := true, direct := true },
  { off := 0x428, cnt := true, direct := true },
  { off := 0x430, cnt := true, direct := true },
  { off := 0x438, cnt := true, direct := true },
  { off := 0x440, cnt := true, direct := true },
  { off := 0x448, cnt := true, direct := true },
  { off := 0x450, cnt := true, direct := true },
  { off := 0x500, scope := .team, cnt := true, direct := true },
  { off := 0x508, scope := .team, cnt := true, direct := true },
  { off := 0x600, rw := 0x8007FFFF },
  { off := 0x604, count := 4, stride := 0x4, rw := 0xFFFFFFFF },
  { off := 0x614 },
  { off := 0x618 },
  { off := 0x620, count := 4, stride := 0x4 },
  { off := 0x630, scope := .team, rw := 0x80000000, lehr := 0x80000000, factory := 0x80000000 },
  { off := 0x700, cnt := true, direct := true },
  { off := 0x708, cnt := true, direct := true },
  { off := 0x710, cnt := true, direct := true },
  { off := 0x718, cnt := true, direct := true },
  { off := 0x720, cnt := true, direct := true },
  { off := 0x728, cnt := true, direct := true },
  { off := 0x730, cnt := true, direct := true },
  { off := 0x738, cnt := true, direct := true },
  { off := 0x740, cnt := true, direct := true },
  { off := 0x748, cnt := true, direct := true },
  { off := 0x750, cnt := true, direct := true },
  { off := 0x780, count := 32, stride := 0x4, scope := .team },
  { off := 0x800, count := 32, stride := 0x40, scope := .team, rw := 0x8007FFFF, lehr := 0x8007FFFF },
  { off := 0x804, count := 32, stride := 0x40, scope := .team, rw := 0xFFFFFFFF, lehr := 0xFFFFFFFF },
  { off := 0x808, count := 32, stride := 0x40, scope := .team, cnt := true },
  { off := 0x810, count := 32, stride := 0x40, scope := .team, cnt := true },
  { off := 0x818, count := 32, stride := 0x40, scope := .team, cnt := true },
  { off := 0x820, count := 32, stride := 0x40, scope := .team, cnt := true },
  { off := 0x828, count := 32, stride := 0x40, scope := .team, cnt := true },
  { off := 0x830, count := 32, stride := 0x40, scope := .team, cnt := true },
  { off := 0x838, count := 32, stride := 0x40, scope := .team } ]

/-- The block registers of a BUF page (07_buffer_pools.md R263). -/
def bufRows : List RegRow := [
  { off := 0x040 },
  { off := 0x044 },
  { off := 0x050, rw := 0xFFFF80FF, lehr := 0xFFFF80FF, factory := 0x20000003 },
  { off := 0x054, rw := 0xFFFF80FF, lehr := 0xFFFF80FF, factory := 0x10000008 },
  { off := 0x058, rw := 0xFFFF80FF, lehr := 0xFFFF80FF, factory := 0x3000020 },
  { off := 0x05C, rw := 0xFFFF80FF, lehr := 0xFFFF80FF, factory := 0x300098 },
  { off := 0x060, count := 4, stride := 0x4 },
  { off := 0x070, count := 4, stride := 0x4 },
  { off := 0x080, count := 4, stride := 0x4, rw := 0x1FFFF, lehr := 0x1FFFF },
  { off := 0x090, count := 4, stride := 0x4 },
  { off := 0x0A0 },
  { off := 0x0A4 },
  { off := 0x0A8 },
  { off := 0x0AC },
  { off := 0x0B0 },
  { off := 0x0B4 },
  { off := 0x0B8 },
  { off := 0x0C0, rw := 0x3FF },
  { off := 0x0C4, win := some (0x0C0, 519), rw := 0x3FFFF, lehr := 0x3FFFF },
  { off := 0x0C8, win := some (0x0C0, 519), rw := 0x3FFFF, lehr := 0x3FFFF, factory := 0x3FFFF },
  { off := 0x0CC, win := some (0x0C0, 519), rw := 0xFFFFFFFF, lehr := 0xFFFFFFFF, factory := 0x80000000 },
  { off := 0x0D0, win := some (0x0C0, 519) },
  { off := 0x0D4, win := some (0x0C0, 519) },
  { off := 0x0D8, win := some (0x0C0, 519), cnt := true },
  { off := 0x0E0, win := some (0x0C0, 519), cnt := true },
  { off := 0x100 },
  { off := 0x104 },
  { off := 0x108 },
  { off := 0x10C },
  { off := 0x110, rw := 0x1FFFFF },
  { off := 0x114, rw := 0x3FFC },
  { off := 0x140 },
  { off := 0x180, count := 16, stride := 0x4 },
  { off := 0x200, cnt := true, direct := true },
  { off := 0x208, cnt := true, direct := true },
  { off := 0x210, cnt := true, direct := true },
  { off := 0x218, cnt := true, direct := true },
  { off := 0x220, cnt := true, direct := true },
  { off := 0x228, cnt := true, direct := true },
  { off := 0x230, cnt := true, direct := true },
  { off := 0x238, cnt := true, direct := true },
  { off := 0x240, cnt := true, direct := true },
  { off := 0x248, cnt := true, direct := true },
  { off := 0x250, cnt := true, direct := true },
  { off := 0x258, cnt := true, direct := true },
  { off := 0x260, cnt := true, direct := true },
  { off := 0x268, cnt := true, direct := true },
  { off := 0x270, cnt := true, direct := true },
  { off := 0x278, cnt := true, direct := true },
  { off := 0x280, cnt := true, direct := true },
  { off := 0x288, cnt := true, direct := true },
  { off := 0x290, cnt := true, direct := true },
  { off := 0x800, count := 64, stride := 0x4, rw := 0xFFFFFFFF } ]

/-- The block registers of a CORE page (08_switch_core_and_queues.md R298). -/
def coreRows : List RegRow := [
  { off := 0x040, factory := 0x10000 },
  { off := 0x044, factory := 0x10000 },
  { off := 0x048, rw := 0x3FFFF, lehr := 0x3FFFF },
  { off := 0x050, rw := 0x3FF },
  { off := 0x054, win := some (0x050, 527), rw := 0xBFF00000, lehr := 0xBFF00000 },
  { off := 0x058, win := some (0x050, 527), rw := 0xFFFFFFF, lehr := 0xFFFFFFF, factory := 0xFFFFFFF },
  { off := 0x05C, win := some (0x050, 527) },
  { off := 0x060, win := some (0x050, 527) },
  { off := 0x064, win := some (0x050, 527) },
  { off := 0x068, win := some (0x050, 527) },
  { off := 0x06C, win := some (0x050, 527) },
  { off := 0x080, win := some (0x050, 527), cnt := true },
  { off := 0x088, win := some (0x050, 527), cnt := true },
  { off := 0x090, win := some (0x050, 527), cnt := true },
  { off := 0x098, win := some (0x050, 527), cnt := true },
  { off := 0x0A0, win := some (0x050, 527), cnt := true },
  { off := 0x0C0, rw := 0xFF },
  { off := 0x0C4, win := some (0x0C0, 255), rw := 0xFFFFFFF, lehr := 0xFFFFFFF, factory := 0xFFFFFFF },
  { off := 0x0C8, win := some (0x0C0, 255), rw := 0xFFFFFFF, lehr := 0xFFFFFFF, factory := 0xFFFFFFF },
  { off := 0x0CC, win := some (0x0C0, 255), rw := 0x800000FF, lehr := 0x800000FF },
  { off := 0x0E0, rw := 0xF },
  { off := 0x0E4, win := some (0x0E0, 15), rw := 0x3FFFF, lehr := 0x3FFFF, factory := 0x1000 },
  { off := 0x0E8, win := some (0x0E0, 15), rw := 0x3FFFF, lehr := 0x3FFFF, factory := 0x400 },
  { off := 0x0EC, win := some (0x0E0, 15), rw := 0x3FFFF, lehr := 0x3FFFF, factory := 0x400 },
  { off := 0x0F0, win := some (0x0E0, 15), rw := 0x3FFFF, lehr := 0x3FFFF, factory := 0x800 },
  { off := 0x100, scope := .team },
  { off := 0x104, scope := .team },
  { off := 0x108, scope := .team, rw := 0xFF },
  { off := 0x10C, win := some (0x108, 255), scope := .team, cnt := true },
  { off := 0x110, scope := .team },
  { off := 0x300, cnt := true, direct := true },
  { off := 0x308, cnt := true, direct := true },
  { off := 0x310, cnt := true, direct := true },
  { off := 0x318, cnt := true, direct := true },
  { off := 0x320, cnt := true, direct := true },
  { off := 0x328, cnt := true, direct := true },
  { off := 0x330, cnt := true, direct := true },
  { off := 0x338, cnt := true, direct := true },
  { off := 0x340, cnt := true, direct := true },
  { off := 0x348, cnt := true, direct := true },
  { off := 0x350, cnt := true, direct := true },
  { off := 0x358, cnt := true, direct := true },
  { off := 0x360, cnt := true, direct := true },
  { off := 0x368, cnt := true, direct := true },
  { off := 0x370, cnt := true, direct := true },
  { off := 0x378, cnt := true, direct := true },
  { off := 0x380, cnt := true, direct := true },
  { off := 0x388, cnt := true, direct := true },
  { off := 0x390, cnt := true, direct := true },
  { off := 0x398, cnt := true, direct := true },
  { off := 0x3A0, cnt := true, direct := true },
  { off := 0x400, count := 8, stride := 0x10, cnt := true, direct := true },
  { off := 0x408, count := 8, stride := 0x10, cnt := true, direct := true },
  { off := 0x500, scope := .team, cnt := true, direct := true },
  { off := 0x508, scope := .team, cnt := true, direct := true },
  { off := 0x510, scope := .team, cnt := true, direct := true },
  { off := 0x518, scope := .team, cnt := true, direct := true },
  { off := 0x520, scope := .team, cnt := true, direct := true },
  { off := 0x528, scope := .team, cnt := true, direct := true },
  { off := 0x530, scope := .team, cnt := true, direct := true } ]

/-- The block registers of a SCHED page (09_gates_scheduling_policing.md R337). -/
def schedRows : List RegRow := [
  { off := 0x040, rw := 0x3F },
  { off := 0x044, win := some (0x040, 63), rw := 0xFFFF, lehr := 0xFFFF },
  { off := 0x048, win := some (0x040, 63), rw := 0xFFFFFFFF, lehr := 0xFFFFFFFF, factory := 0x1010101 },
  { off := 0x04C, win := some (0x040, 63), rw := 0xFFFFFFFF, lehr := 0xFFFFFFFF, factory := 0x1010101 },
  { off := 0x050, count := 8, stride := 0x4, win := some (0x040, 63), rw := 0x3FFF, lehr := 0x3FFF },
  { off := 0x070, win := some (0x040, 63) },
  { off := 0x074, win := some (0x040, 63) },
  { off := 0x100, count := 8, stride := 0x20, win := some (0x040, 63), cnt := true, direct := true },
  { off := 0x108, count := 8, stride := 0x20, win := some (0x040, 63), cnt := true, direct := true },
  { off := 0x110, count := 8, stride := 0x20, win := some (0x040, 63), cnt := true, direct := true },
  { off := 0x118, count := 8, stride := 0x20, win := some (0x040, 63), cnt := true, direct := true },
  { off := 0x200, win := some (0x040, 63), cnt := true, direct := true },
  { off := 0x208, win := some (0x040, 63), cnt := true, direct := true },
  { off := 0x210, win := some (0x040, 63), cnt := true, direct := true },
  { off := 0x218, win := some (0x040, 63), cnt := true, direct := true } ]

/-- The block registers of a GATE page (09_gates_scheduling_policing.md R340). -/
def gateRows : List RegRow := [
  { off := 0x040, rw := 0x3F },
  { off := 0x044, win := some (0x040, 63), rw := 0x8000FF00, lehr := 0x8000FF00, factory := 0xFF00 },
  { off := 0x048, win := some (0x040, 63), w1c := 0xC000000, factory := 0xFF },
  { off := 0x050, win := some (0x040, 63), rw := 0x3FFFFFFF, lehr := 0x3FFFFFFF },
  { off := 0x054, win := some (0x040, 63), rw := 0xFFFFFFFF, lehr := 0xFFFFFFFF },
  { off := 0x058, win := some (0x040, 63), rw := 0xFFFF, lehr := 0xFFFF },
  { off := 0x05C, win := some (0x040, 63), rw := 0x3FFFFFFF, lehr := 0x3FFFFFFF },
  { off := 0x060, win := some (0x040, 63), rw := 0x3FFFFFFF, lehr := 0x3FFFFFFF },
  { off := 0x064, win := some (0x040, 63), rw := 0x7FF, lehr := 0x7FF },
  { off := 0x070, win := some (0x040, 63) },
  { off := 0x074, win := some (0x040, 63) },
  { off := 0x078, win := some (0x040, 63) },
  { off := 0x07C, win := some (0x040, 63) },
  { off := 0x080, win := some (0x040, 63) },
  { off := 0x084, win := some (0x040, 63) },
  { off := 0x088, win := some (0x040, 63) },
  { off := 0x08C, win := some (0x040, 63) },
  { off := 0x090, win := some (0x040, 63) },
  { off := 0x094, win := some (0x040, 63), rw := 0xFF, lehr := 0xFF, factory := 0x10 },
  { off := 0x098, win := some (0x040, 63), rw := 0xFFFF, lehr := 0xFFFF },
  { off := 0x0C0, count := 8, stride := 0x4, win := some (0x040, 63), factory := 0xFFFFFFFF },
  { off := 0x100, win := some (0x040, 63), rw := 0x800003FF },
  { off := 0x104, win := some (0x040, 63), rw := 0xFFFFFFFF },
  { off := 0x108, win := some (0x040, 63), rw := 0xC00000FF },
  { off := 0x200, win := some (0x040, 63), cnt := true, direct := true },
  { off := 0x208, win := some (0x040, 63), cnt := true, direct := true },
  { off := 0x210, win := some (0x040, 63), cnt := true, direct := true },
  { off := 0x218, win := some (0x040, 63), cnt := true, direct := true } ]

/-- The block registers of a METER page (09_gates_scheduling_policing.md R342). -/
def meterRows : List RegRow := [
  { off := 0x100, count := 64, stride := 0x4, rw := 0x80FFFFFF, lehr := 0x80FFFFFF, factory := 0xFAC688 },
  { off := 0x200, count := 14, stride := 0x4, rw := 0xFFFFFFFF },
  { off := 0x238, rw := 0xBFFFFFFF },
  { off := 0x23C, count := 4, stride := 0x4, rw := 0xFFFFFFFF },
  { off := 0x24C, rw := 0xE003FFFF },
  { off := 0x250 },
  { off := 0x254 },
  { off := 0x280, count := 14, stride := 0x4 },
  { off := 0x2B8 },
  { off := 0x2BC, count := 4, stride := 0x4 },
  { off := 0x2D0 },
  { off := 0x300 },
  { off := 0x304 },
  { off := 0x308, count := 3, stride := 0x8, cnt := true },
  { off := 0x400, cnt := true, direct := true },
  { off := 0x408, cnt := true, direct := true },
  { off := 0x410, cnt := true, direct := true },
  { off := 0x418, cnt := true, direct := true },
  { off := 0x420, cnt := true, direct := true },
  { off := 0x428, cnt := true, direct := true },
  { off := 0x430, cnt := true, direct := true },
  { off := 0x438, cnt := true, direct := true },
  { off := 0x440, cnt := true, direct := true } ]

/-- The block registers of a CIPH page (11_cipher.md R399). -/
def ciphRows : List RegRow := [
  { off := 0x040 },
  { off := 0x044 },
  { off := 0x048, rw := 0xFFFFFFFF, lehr := 0xFFFFFFFF, factory := 0xC0000000 },
  { off := 0x04C, rw := 0xFFFFFFFF, lehr := 0xFFFFFFFF, factory := 0xC0000000 },
  { off := 0x050, rw := 0x1FFFF, lehr := 0x1FFFF, factory := 0x1888E },
  { off := 0x054, count := 3, stride := 0x4, rw := 0x1FFFF, lehr := 0x1FFFF },
  { off := 0x060 },
  { off := 0x064 },
  { off := 0x0C0, cnt := true, direct := true },
  { off := 0x0C8, cnt := true, direct := true },
  { off := 0x0D0, cnt := true, direct := true },
  { off := 0x100, count := 32, stride := 0x8, rw := 0xF0000FFF, lehr := 0xF0000FFF },
  { off := 0x104, count := 32, stride := 0x8, rw := 0x80000FFF, lehr := 0x80000FFF },
  { off := 0x200, count := 14, stride := 0x4 },
  { off := 0x238, rw := 0xBFFFFFFF },
  { off := 0x23C, count := 4, stride := 0x4, rw := 0xFFFFFFFF },
  { off := 0x24C, rw := 0xE0000FFF },
  { off := 0x250 },
  { off := 0x254 },
  { off := 0x280, count := 14, stride := 0x4 },
  { off := 0x2B8 },
  { off := 0x2BC, count := 4, stride := 0x4 },
  { off := 0x2D0 },
  { off := 0x300, rw := 0x3FF },
  { off := 0x308, count := 6, stride := 0x8, win := some (0x300, 1023), cnt := true },
  { off := 0x400, count := 16, stride := 0x40, rw := 0xFFFFFFC0 },
  { off := 0x404, count := 16, stride := 0x40, rw := 0xFFFFFFFF },
  { off := 0x408, count := 16, stride := 0x40, rw := 0x8000000F, factory := 0x4 },
  { off := 0x40C, count := 16, stride := 0x40, rw := 0xFFFF },
  { off := 0x410, count := 16, stride := 0x40 },
  { off := 0x414, count := 16, stride := 0x40 },
  { off := 0x800, count := 32, stride := 0x40, cnt := true, direct := true },
  { off := 0x808, count := 32, stride := 0x40, cnt := true, direct := true },
  { off := 0x810, count := 32, stride := 0x40, cnt := true, direct := true },
  { off := 0x818, count := 32, stride := 0x40, cnt := true, direct := true },
  { off := 0x820, count := 32, stride := 0x40, cnt := true, direct := true },
  { off := 0x828, count := 32, stride := 0x40, cnt := true, direct := true },
  { off := 0x830, count := 32, stride := 0x40, cnt := true, direct := true },
  { off := 0x838, count := 32, stride := 0x40, cnt := true, direct := true } ]

/-- The block registers of a CRUCC page (12_crucible_hbm.md R432). -/
def cruccRows : List RegRow := [
  { off := 0x040 },
  { off := 0x044, rw := 0xC000FFFF, lehr := 0xC000FFFF, factory := 0x40000040 },
  { off := 0x048, lehr := 0xE0FFFFFF },
  { off := 0x04C },
  { off := 0x100, cnt := true, direct := true },
  { off := 0x108, cnt := true, direct := true },
  { off := 0x110, cnt := true, direct := true },
  { off := 0x118, cnt := true, direct := true },
  { off := 0x120, cnt := true, direct := true },
  { off := 0x128, cnt := true, direct := true },
  { off := 0x130, cnt := true, direct := true },
  { off := 0x138, cnt := true, direct := true },
  { off := 0x140, cnt := true, direct := true },
  { off := 0x148, cnt := true, direct := true },
  { off := 0x150, cnt := true, direct := true },
  { off := 0x158, cnt := true, direct := true } ]

/-- The block registers of a CRUCH page (12_crucible_hbm.md R434). -/
def cruchRows : List RegRow := [
  { off := 0x040 },
  { off := 0x044, rw := 0xFFFF, lehr := 0xFFFF, factory := 0xFFFF },
  { off := 0x048 },
  { off := 0x04C },
  { off := 0x050 },
  { off := 0x054 },
  { off := 0x100, cnt := true, direct := true },
  { off := 0x108, cnt := true, direct := true },
  { off := 0x110, cnt := true, direct := true },
  { off := 0x118, cnt := true, direct := true },
  { off := 0x120, cnt := true, direct := true },
  { off := 0x128, cnt := true, direct := true },
  { off := 0x130, cnt := true, direct := true },
  { off := 0x138, cnt := true, direct := true },
  { off := 0x140, cnt := true, direct := true },
  { off := 0x148, cnt := true, direct := true },
  { off := 0x150, cnt := true, direct := true } ]

/-- The block registers of a CRUCP page (12_crucible_hbm.md R436). -/
def crucpRows : List RegRow := [
  { off := 0x040, lehr := 0x3800000 },
  { off := 0x044 },
  { off := 0x100, cnt := true, direct := true },
  { off := 0x108, cnt := true, direct := true },
  { off := 0x110, cnt := true, direct := true } ]

/-- The block registers of a TXRING page (15_host_interface_and_pages.md R534). -/
def txringRows : List RegRow := [
  { off := 0x000, rw := 0xFFFFFFE0 },
  { off := 0x004, rw := 0xFFFFFFFF },
  { off := 0x008, rw := 0xFF0F7000, factory := 0x20080000 },
  { off := 0x00C, rw := 0xFFFF },
  { off := 0x010 },
  { off := 0x014, w1c := 0x20000000, factory := 0x40000000 },
  { off := 0x018, rw := 0xFFFF },
  { off := 0x020, cnt := true, direct := true },
  { off := 0x028, cnt := true, direct := true } ]

/-- The block registers of a RXRING page (15_host_interface_and_pages.md R534). -/
def rxringRows : List RegRow := [
  { off := 0x000, rw := 0xFFFFFFE0 },
  { off := 0x004, rw := 0xFFFFFFFF },
  { off := 0x008, rw := 0xFF0F003F, factory := 0x30080008 },
  { off := 0x00C, rw := 0xFFFF },
  { off := 0x010 },
  { off := 0x014, w1c := 0x20000000, factory := 0x40000000 },
  { off := 0x018, rw := 0xFFFF },
  { off := 0x020, cnt := true, direct := true },
  { off := 0x028, cnt := true, direct := true } ]

/-- The block registers of a MSIX page (15_host_interface_and_pages.md R512). -/
def msixRows : List RegRow := [
  { off := 0x000, count := 64, stride := 0x10, rw := 0xFFFFFFFF },
  { off := 0x004, count := 64, stride := 0x10, rw := 0xFFFFFFFF },
  { off := 0x008, count := 64, stride := 0x10, rw := 0xFFFFFFFF },
  { off := 0x00C, count := 64, stride := 0x10, rw := 0x1, factory := 0x1 } ]

/-- The block registers of each kind of page. -/
def PageKind.rows : PageKind → List RegRow
  | .host => hostRows
  | .ident => identRows
  | .boot => bootRows
  | .time => timeRows
  | .pwrt => pwrtRows
  | .pwrd => pwrdRows
  | .lehr => lehrRows
  | .mirr => mirrRows
  | .port => portRows
  | .serdes => serdesRows
  | .marver => marverRows
  | .cls => clsRows
  | .fdb => fdbRows
  | .strm => strmRows
  | .buf => bufRows
  | .core => coreRows
  | .sched => schedRows
  | .gate => gateRows
  | .meter => meterRows
  | .ciph => ciphRows
  | .crucc => cruccRows
  | .cruch => cruchRows
  | .crucp => crucpRows
  | .txring => txringRows
  | .rxring => rxringRows
  | .msix => msixRows

/-- The interrupt cause bits a kind of page has in any instance; `teamCauses` are those that only pages 0 and
4 have. -/
def PageKind.causes : PageKind → Nat
  | .host => 0xFF0F
  | .ident => 0x0
  | .boot => 0x7F
  | .time => 0x3FF
  | .pwrt => 0x3
  | .pwrd => 0x1FF
  | .lehr => 0x7
  | .mirr => 0x0
  | .port => 0x7FFFF
  | .serdes => 0x7F
  | .marver => 0xFF
  | .cls => 0x1FF
  | .fdb => 0x1FF
  | .strm => 0x1F001F
  | .buf => 0x3FF
  | .core => 0x1FF
  | .sched => 0x7
  | .gate => 0xF
  | .meter => 0x7
  | .ciph => 0xFFFF00FF
  | .crucc => 0x3F
  | .cruch => 0x1F
  | .crucp => 0xF
  | .txring => 0x0
  | .rxring => 0x0
  | .msix => 0x0

/-- The cause bits of a kind of page that stand for team-wide events and are raised on pages 0 and 4 alone. -/
def PageKind.teamCauses : PageKind → Nat
  | .cls => 0x1F0
  | .fdb => 0x100
  | .strm => 0xC0004
  | .core => 0x1C
  | _ => 0

/-! Field names: `Reg.<page>.<register>` is the whole register (or its one field), `Reg.<page>.<register>_<field>`
a field of it; a counter's name is its offset. -/

namespace Reg.COMMON
def PAGE_CTRL : Fld := ⟨0x008, 31, 0⟩
def INT_EN : Fld := ⟨0x008, 31, 31⟩
def VECTOR : Fld := ⟨0x008, 29, 24⟩
def SNAP_READ : Fld := ⟨0x008, 8, 8⟩
def SNAP_VALID : Fld := ⟨0x00C, 30, 30⟩
def SNAP_TICK : Fld := ⟨0x00C, 15, 0⟩
def INT_STATUS : Fld := ⟨0x010, 31, 0⟩
def INT_ENABLE : Fld := ⟨0x014, 31, 0⟩
def WITHHOLD : Fld := ⟨0x01C, 31, 31⟩
def RESTORED : Fld := ⟨0x01C, 30, 30⟩
end Reg.COMMON

namespace Reg.HOST
def HSTAT : Fld := ⟨0x040, 31, 0⟩
def HSTAT_LINK_SPEED : Fld := ⟨0x040, 19, 16⟩
def HSTAT_LINK_WIDTH : Fld := ⟨0x040, 13, 8⟩
def HSTAT_HUB_B_ABSENT : Fld := ⟨0x040, 2, 2⟩
def HSTAT_HUB_A_ABSENT : Fld := ⟨0x040, 1, 1⟩
def HSTAT_BME : Fld := ⟨0x040, 0, 0⟩
def SNAP : Fld := ⟨0x044, 31, 31⟩
def SNAP_REQ : Fld := ⟨0x044, 31, 31⟩
def TEMP : Fld := ⟨0x048, 31, 0⟩
def TEMP_TEAM_B : Fld := ⟨0x048, 15, 8⟩
def TEMP_TEAM_A : Fld := ⟨0x048, 7, 0⟩
def ISUM_CLASS : Fld := ⟨0x050, 20, 0⟩
def ISUM_SEL : Fld := ⟨0x054, 5, 0⟩
def ISUM_INST (i : Nat) : Fld := ⟨(0x060 + i * 0x4), 31, 0⟩
def VEC_ACT_LO : Fld := ⟨0x080, 31, 0⟩
def VEC_ACT_HI : Fld := ⟨0x084, 31, 0⟩
def VEC_EOI : Fld := ⟨0x088, 5, 0⟩
def GPIO_DIR : Fld := ⟨0x0C0, 7, 0⟩
def GPIO_OUT : Fld := ⟨0x0C4, 7, 0⟩
def GPIO_IN : Fld := ⟨0x0C8, 7, 0⟩
def GPIO_EDGE : Fld := ⟨0x0CC, 15, 0⟩
def I2C_CFG : Fld := ⟨0x0E0, 31, 0⟩
def I2C_CFG_PEC_EN : Fld := ⟨0x0E0, 8, 8⟩
def I2C_CFG_ADDR : Fld := ⟨0x0E0, 6, 0⟩
def HUB_WR_DISCARD : Nat := 0x100
def HUB_TIMEOUTS : Nat := 0x108
def BAD_ACCESS : Nat := 0x110
def I2C_DENIED : Nat := 0x118
def MSIX_NOADDR : Nat := 0x120
end Reg.HOST

namespace Reg.IDENT
def DEVICE : Fld := ⟨0x040, 31, 0⟩
def DEVICE_PART_NUM : Fld := ⟨0x040, 31, 16⟩
def DEVICE_REV_LETTER : Fld := ⟨0x040, 15, 12⟩
def DEVICE_REV_STEP : Fld := ⟨0x040, 11, 8⟩
def DEVICE_MEM_CODE : Fld := ⟨0x040, 7, 4⟩
def DEVICE_TEMP_GRADE : Fld := ⟨0x040, 3, 0⟩
def LOT : Fld := ⟨0x044, 31, 0⟩
def LOT_LOT_ID : Fld := ⟨0x044, 31, 0⟩
def WAFER : Fld := ⟨0x048, 31, 0⟩
def WAFER_WAFER_NUM : Fld := ⟨0x048, 23, 16⟩
def WAFER_DIE_X : Fld := ⟨0x048, 15, 8⟩
def WAFER_DIE_Y : Fld := ⟨0x048, 7, 0⟩
def SERIAL_LO : Fld := ⟨0x04C, 31, 0⟩
def SERIAL_HI : Fld := ⟨0x050, 31, 0⟩
end Reg.IDENT

namespace Reg.BOOT
def STAGE : Fld := ⟨0x040, 31, 0⟩
def STAGE_STAGE : Fld := ⟨0x040, 31, 28⟩
def STAGE_LEHR_USED : Fld := ⟨0x040, 27, 27⟩
def STAGE_IMG_A_USED : Fld := ⟨0x040, 26, 26⟩
def STAGE_IMG_B_USED : Fld := ⟨0x040, 25, 25⟩
def STAGE_FW_SLOT : Fld := ⟨0x040, 24, 24⟩
def STAGE_PB_SLOT : Fld := ⟨0x040, 23, 23⟩
def STAGE_DIGEST_PATH : Fld := ⟨0x040, 22, 22⟩
def STAGE_BIST_FAIL : Fld := ⟨0x040, 7, 0⟩
def VERIFY : Fld := ⟨0x044, 31, 0⟩
def VERIFY_FW0 : Fld := ⟨0x044, 31, 28⟩
def VERIFY_FW1 : Fld := ⟨0x044, 27, 24⟩
def VERIFY_PB0 : Fld := ⟨0x044, 23, 20⟩
def VERIFY_PB1 : Fld := ⟨0x044, 19, 16⟩
def RSTCAUSE : Fld := ⟨0x048, 31, 0⟩
def RSTCAUSE_KIND : Fld := ⟨0x048, 31, 30⟩
def RSTCAUSE_SOURCE : Fld := ⟨0x048, 29, 26⟩
def BCFG : Fld := ⟨0x04C, 31, 0⟩
def BCFG_AUTO_GO : Fld := ⟨0x04C, 31, 31⟩
def BCFG_AUTO_RESET : Fld := ⟨0x04C, 30, 30⟩
def BCFG_WDOG_EN : Fld := ⟨0x04C, 29, 29⟩
def BCFG_WDOG_MS : Fld := ⟨0x04C, 15, 0⟩
def CMD : Fld := ⟨0x050, 31, 0⟩
def CMD_OP : Fld := ⟨0x050, 31, 28⟩
def CMD_KEY : Fld := ⟨0x050, 25, 24⟩
def CMD_CONFIRM : Fld := ⟨0x050, 7, 0⟩
def CMD_RESULT : Fld := ⟨0x054, 31, 0⟩
def CMD_RESULT_DONE : Fld := ⟨0x054, 31, 31⟩
def CMD_RESULT_STATUS : Fld := ⟨0x054, 30, 27⟩
def FUSE : Fld := ⟨0x058, 31, 0⟩
def FUSE_FW_SVN : Fld := ⟨0x058, 29, 24⟩
def FUSE_PB_SVN : Fld := ⟨0x058, 21, 16⟩
def FUSE_REVOKED : Fld := ⟨0x058, 11, 8⟩
def FUSE_PRESENT : Fld := ⟨0x058, 3, 0⟩
def RUNSVN : Fld := ⟨0x05C, 31, 0⟩
def RUNSVN_FW_SVN : Fld := ⟨0x05C, 29, 24⟩
def RUNSVN_PB_SVN : Fld := ⟨0x05C, 21, 16⟩
def WEDGE : Fld := ⟨0x060, 31, 0⟩
def WEDGE_HALF_B : Fld := ⟨0x060, 11, 11⟩
def WEDGE_HALF_A : Fld := ⟨0x060, 10, 10⟩
def WEDGE_HUB_B : Fld := ⟨0x060, 9, 9⟩
def WEDGE_HUB_A : Fld := ⟨0x060, 8, 8⟩
def WEDGE_BENCH : Fld := ⟨0x060, 7, 0⟩
def START_US : Fld := ⟨0x064, 31, 0⟩
def FL_ADDR : Fld := ⟨0x080, 31, 0⟩
def FL_CMD : Fld := ⟨0x084, 31, 0⟩
def FL_CMD_OP : Fld := ⟨0x084, 31, 28⟩
def FL_CMD_CONFIRM : Fld := ⟨0x084, 7, 0⟩
def FL_RESULT : Fld := ⟨0x088, 31, 0⟩
def FL_RESULT_DONE : Fld := ⟨0x088, 31, 31⟩
def FL_RESULT_STATUS : Fld := ⟨0x088, 30, 27⟩
def FL_DATA (i : Nat) : Fld := ⟨(0x800 + i * 0x4), 31, 0⟩
def FULL_RESETS : Nat := 0x100
def WDOG_RESETS : Nat := 0x108
def WEDGE_RESETS : Nat := 0x110
def FW_FALLBACKS : Nat := 0x118
def HIF_RESETS : Nat := 0x120
def PREGO_DISCARD : Nat := 0x128
end Reg.BOOT

namespace Reg.TIME
def CTRL : Fld := ⟨0x040, 31, 0⟩
def CTRL_PPS_IN_FALL : Fld := ⟨0x040, 4, 4⟩
def CTRL_PPS_IN_EN : Fld := ⟨0x040, 3, 3⟩
def CTRL_PPS_OUT_EN : Fld := ⟨0x040, 2, 2⟩
def CTRL_GRID_EN : Fld := ⟨0x040, 1, 1⟩
def CTRL_TIME_EN : Fld := ⟨0x040, 0, 0⟩
def STAT : Fld := ⟨0x044, 31, 0⟩
def STAT_GRID_MODE_B : Fld := ⟨0x044, 7, 6⟩
def STAT_GRID_MODE_A : Fld := ⟨0x044, 5, 4⟩
def STAT_FREQ_CLAMPED : Fld := ⟨0x044, 3, 3⟩
def STAT_TIME_VALID : Fld := ⟨0x044, 2, 2⟩
def STAT_TIME_PLL_LOCK : Fld := ⟨0x044, 1, 1⟩
def STAT_REF_OK : Fld := ⟨0x044, 0, 0⟩
def FREQ_ADJ : Fld := ⟨0x048, 31, 0⟩
def ADJ_NS : Fld := ⟨0x04C, 31, 0⟩
def SET_SEC_HI : Fld := ⟨0x050, 15, 0⟩
def SET_SEC_LO : Fld := ⟨0x054, 31, 0⟩
def SET_NS : Fld := ⟨0x058, 31, 0⟩
def CMD : Fld := ⟨0x05C, 0, 0⟩
def CMD_SET : Fld := ⟨0x05C, 0, 0⟩
def NOW_NS : Fld := ⟨0x060, 31, 0⟩
def NOW_SEC_LO : Fld := ⟨0x064, 31, 0⟩
def NOW_SEC_HI : Fld := ⟨0x068, 15, 0⟩
def GRID_TICK_LO : Fld := ⟨0x06C, 31, 0⟩
def GRID_TICK_HI : Fld := ⟨0x070, 31, 0⟩
def EDGE_NS : Fld := ⟨0x074, 31, 0⟩
def EDGE_SEC_LO : Fld := ⟨0x078, 31, 0⟩
def EDGE_SEC_HI : Fld := ⟨0x07C, 15, 0⟩
def PPS_IN_NS : Fld := ⟨0x080, 31, 0⟩
def PPS_IN_SEC_LO : Fld := ⟨0x084, 31, 0⟩
def PPS_IN_SEC_HI : Fld := ⟨0x088, 31, 0⟩
def PPS_IN_SEC_HI_NEW : Fld := ⟨0x088, 31, 31⟩
def PPS_IN_SEC_HI_V : Fld := ⟨0x088, 15, 0⟩
def PPS_OUT_OFFSET : Fld := ⟨0x090, 29, 0⟩
def PPS_OUT_WIDTH : Fld := ⟨0x094, 19, 0⟩
def RCLK_CFG (i : Nat) : Fld := ⟨(0x098 + i * 0x4), 31, 0⟩
def RCLK_CFG_EN (i : Nat) : Fld := ⟨(0x098 + i * 0x4), 31, 31⟩
def RCLK_CFG_SQUELCH_EN (i : Nat) : Fld := ⟨(0x098 + i * 0x4), 30, 30⟩
def RCLK_CFG_SQUELCHED (i : Nat) : Fld := ⟨(0x098 + i * 0x4), 29, 29⟩
def RCLK_CFG_DIV (i : Nat) : Fld := ⟨(0x098 + i * 0x4), 21, 16⟩
def RCLK_CFG_LANE (i : Nat) : Fld := ⟨(0x098 + i * 0x4), 7, 0⟩
def PPS_IN_LOST : Nat := 0x0A0
def BTICK_STAT (i : Nat) : Fld := ⟨(0x100 + i * 0x40), 31, 0⟩
def BTICK_STAT_STATE (i : Nat) : Fld := ⟨(0x100 + i * 0x40), 31, 30⟩
def BTICK_STAT_LAG (i : Nat) : Fld := ⟨(0x100 + i * 0x40), 15, 0⟩
def BTICK_MAXLAG (i : Nat) : Fld := ⟨(0x104 + i * 0x40), 15, 0⟩
def LATE_EDGES (i : Nat) : Nat := (0x108 + i * 0x40)
def OVR_ENTRIES (i : Nat) : Nat := (0x110 + i * 0x40)
def OVR_REFUSED (i : Nat) : Nat := (0x118 + i * 0x40)
def ADMIT_FULL (i : Nat) : Nat := (0x120 + i * 0x40)
def ETS_LOST (i : Nat) : Nat := (0x128 + i * 0x40)
def CRIT (i : Nat) : Fld := ⟨(0x400 + i * 0x4), 31, 0⟩
def CRIT_CRIT3 (i : Nat) : Fld := ⟨(0x400 + i * 0x4), 31, 24⟩
def CRIT_CRIT2 (i : Nat) : Fld := ⟨(0x400 + i * 0x4), 23, 16⟩
def CRIT_CRIT1 (i : Nat) : Fld := ⟨(0x400 + i * 0x4), 15, 8⟩
def CRIT_CRIT0 (i : Nat) : Fld := ⟨(0x400 + i * 0x4), 7, 0⟩
def ETS0 (i : Nat) : Fld := ⟨(0x600 + i * 0x10), 31, 0⟩
def ETS0_VALID (i : Nat) : Fld := ⟨(0x600 + i * 0x10), 31, 31⟩
def ETS0_PORT (i : Nat) : Fld := ⟨(0x600 + i * 0x10), 24, 16⟩
def ETS0_TAG (i : Nat) : Fld := ⟨(0x600 + i * 0x10), 15, 0⟩
def ETS1 (i : Nat) : Fld := ⟨(0x604 + i * 0x10), 31, 0⟩
def ETS2 (i : Nat) : Fld := ⟨(0x608 + i * 0x10), 31, 0⟩
def ETS3 (i : Nat) : Fld := ⟨(0x60C + i * 0x10), 15, 0⟩
end Reg.TIME

namespace Reg.PWRT
def SAG_MODE (i : Nat) : Fld := ⟨(0x040 + i * 0x4), 31, 0⟩
def WAKE_RX (i : Nat) : Fld := ⟨(0x080 + i * 0x4), 31, 0⟩
def T_E : Fld := ⟨0x0C0, 31, 0⟩
def T_BITS : Fld := ⟨0x0C4, 31, 0⟩
def T_PJPB : Fld := ⟨0x0C8, 31, 0⟩
def SAG_IDLES : Nat := 0x100
def SAG_NAPS : Nat := 0x108
def LATE_WAKE : Nat := 0x110
def SLICE_WAKE_FAIL : Nat := 0x118
def DOZE_DISCARD : Nat := 0x120
def DOZE_FLUSH : Nat := 0x128
def GATED_US : Nat := 0x130
end Reg.PWRT

namespace Reg.PWRD
def DEV_STAT : Fld := ⟨0x040, 31, 0⟩
def DEV_STAT_STATE : Fld := ⟨0x040, 31, 30⟩
def DEV_STAT_BUSY : Fld := ⟨0x040, 29, 29⟩
def DEV_STAT_TARGET : Fld := ⟨0x040, 28, 27⟩
def DEV_STAT_COMMITTED : Fld := ⟨0x040, 26, 26⟩
def DEV_STAT_PEND_V : Fld := ⟨0x040, 25, 25⟩
def DEV_STAT_PEND_TARGET : Fld := ⟨0x040, 24, 23⟩
def DEV_STAT_LATCHED : Fld := ⟨0x040, 22, 22⟩
def DEV_CMD : Fld := ⟨0x044, 31, 0⟩
def DEV_CMD_REQ : Fld := ⟨0x044, 31, 31⟩
def DEV_CMD_TARGET : Fld := ⟨0x044, 1, 0⟩
def DOZE_CFG : Fld := ⟨0x048, 31, 0⟩
def DOZE_CFG_HBM_AUTO : Fld := ⟨0x048, 31, 31⟩
def DOZE_CFG_HBM_LOW_POINT : Fld := ⟨0x048, 25, 24⟩
def DOZE_CFG_DRAIN_MAX : Fld := ⟨0x048, 15, 0⟩
def WAKE_EN : Fld := ⟨0x04C, 31, 0⟩
def WAKE_EN_V : Fld := ⟨0x04C, 6, 1⟩
def WAKE_EN_HOST : Fld := ⟨0x04C, 0, 0⟩
def WAKE_CMD : Fld := ⟨0x050, 31, 31⟩
def WAKE_CMD_WAKE : Fld := ⟨0x050, 31, 31⟩
def LAST_WAKE : Fld := ⟨0x054, 31, 0⟩
def LAST_WAKE_SRC : Fld := ⟨0x054, 31, 28⟩
def LAST_WAKE_FROM : Fld := ⟨0x054, 27, 26⟩
def LAST_WAKE_TICK : Fld := ⟨0x058, 31, 0⟩
def ALARM_NS : Fld := ⟨0x060, 29, 0⟩
def ALARM_SEC_LO : Fld := ⟨0x064, 31, 0⟩
def ALARM_SEC_HI : Fld := ⟨0x068, 15, 0⟩
def CLK_CTRL : Fld := ⟨0x070, 31, 0⟩
def CLK_CTRL_SEL_B : Fld := ⟨0x070, 1, 1⟩
def CLK_CTRL_SEL_A : Fld := ⟨0x070, 0, 0⟩
def CLK_STAT : Fld := ⟨0x074, 31, 0⟩
def CLK_STAT_NO_REF : Fld := ⟨0x074, 7, 7⟩
def CLK_STAT_ON_PLL_B : Fld := ⟨0x074, 5, 5⟩
def CLK_STAT_ON_PLL_A : Fld := ⟨0x074, 4, 4⟩
def CLK_STAT_LOCK_B : Fld := ⟨0x074, 1, 1⟩
def CLK_STAT_LOCK_A : Fld := ⟨0x074, 0, 0⟩
def SAG_GUARD : Fld := ⟨0x078, 15, 0⟩
def SAG_GUARD_GUARD : Fld := ⟨0x078, 15, 0⟩
def DIDX : Fld := ⟨0x080, 6, 0⟩
def DCTRL : Fld := ⟨0x084, 31, 0⟩
def DCTRL_REQ : Fld := ⟨0x084, 31, 31⟩
def DCTRL_TARGET : Fld := ⟨0x084, 30, 29⟩
def DCTRL_IDLE_EN : Fld := ⟨0x084, 28, 28⟩
def DSTAT : Fld := ⟨0x088, 31, 0⟩
def DSTAT_STATE : Fld := ⟨0x088, 31, 29⟩
def DSTAT_BUSY : Fld := ⟨0x088, 28, 28⟩
def DSTAT_TARGET : Fld := ⟨0x088, 27, 26⟩
def DSTAT_COMMITTED : Fld := ⟨0x088, 25, 25⟩
def DSTAT_PEND_V : Fld := ⟨0x088, 24, 24⟩
def DSTAT_PEND_TARGET : Fld := ⟨0x088, 23, 22⟩
def DSTAT_LATCHED : Fld := ⟨0x088, 21, 21⟩
def DSTAT_LAST_REFUSER : Fld := ⟨0x088, 20, 17⟩
def DSTAT_LAST_SRC : Fld := ⟨0x088, 16, 13⟩
def ENTRIES : Nat := 0x090
def ABORTS : Nat := 0x098
def REFUSALS : Nat := 0x0A0
def ASLEEP_TICKS : Nat := 0x0A8
def REF_LOG0 : Fld := ⟨0x0C0, 31, 0⟩
def REF_LOG0_VALID : Fld := ⟨0x0C0, 31, 31⟩
def REF_LOG0_DOMAIN : Fld := ⟨0x0C0, 30, 24⟩
def REF_LOG0_TARGET : Fld := ⟨0x0C0, 23, 21⟩
def REF_LOG0_REFUSER : Fld := ⟨0x0C0, 20, 17⟩
def REF_LOG0_SRC : Fld := ⟨0x0C0, 16, 13⟩
def REF_LOG1 : Fld := ⟨0x0C4, 31, 0⟩
def LEDGER (i : Nat) : Fld := ⟨(0x200 + i * 0x4), 31, 0⟩
def DEV_TRANSITIONS : Nat := 0x100
def DEV_ABORTS : Nat := 0x108
def SUPERSEDED : Nat := 0x110
def DROPPED : Nat := 0x118
def LATCHED_WAKES : Nat := 0x120
def WAKE_FAILS : Nat := 0x128
def DOWN_WRITES : Nat := 0x130
def REF_LOST : Nat := 0x138
def REFUSED (i : Nat) : Nat := (0x140 + i * 0x8)
def SKIPPED : Nat := 0x178
def WT_LOST : Nat := 0x180
def LEDGER_OVERWRITTEN : Nat := 0x188
end Reg.PWRD

namespace Reg.LEHR
def LCTRL : Fld := ⟨0x040, 31, 0⟩
def LCTRL_HOLD : Fld := ⟨0x040, 31, 31⟩
def LCTRL_LOAD : Fld := ⟨0x040, 30, 30⟩
def LCTRL_INVALIDATE : Fld := ⟨0x040, 29, 29⟩
def LSTAT : Fld := ⟨0x044, 31, 0⟩
def LSTAT_VALID : Fld := ⟨0x044, 31, 31⟩
def LSTAT_WT_BUSY : Fld := ⟨0x044, 30, 30⟩
def LSTAT_LOAD_ERR : Fld := ⟨0x044, 29, 29⟩
def LSTAT_HELD : Fld := ⟨0x044, 12, 0⟩
def LWIN_ADDR : Fld := ⟨0x048, 20, 8⟩
def LEHR_CE : Nat := 0x050
def LEHR_UE : Nat := 0x058
def LWIN_DATA (i : Nat) : Fld := ⟨(0x800 + i * 0x4), 31, 0⟩
end Reg.LEHR

namespace Reg.MIRR
def MSESS (i : Nat) : Fld := ⟨(0x040 + i * 0x4), 31, 0⟩
def MSESS_EN (i : Nat) : Fld := ⟨(0x040 + i * 0x4), 31, 31⟩
def MSESS_DEST_CPU (i : Nat) : Fld := ⟨(0x040 + i * 0x4), 30, 30⟩
def MSESS_CLASS (i : Nat) : Fld := ⟨(0x040 + i * 0x4), 29, 27⟩
def MSESS_DEST (i : Nat) : Fld := ⟨(0x040 + i * 0x4), 24, 16⟩
def MSESS_TRUNC (i : Nat) : Fld := ⟨(0x040 + i * 0x4), 15, 8⟩
def MCOMMIT : Fld := ⟨0x060, 31, 0⟩
def MCOMMIT_TICK : Fld := ⟨0x060, 31, 0⟩
def MPORT (i : Nat) : Fld := ⟨(0x100 + i * 0x4), 31, 0⟩
def MPORT_PORT3 (i : Nat) : Fld := ⟨(0x100 + i * 0x4), 31, 24⟩
def MPORT_PORT2 (i : Nat) : Fld := ⟨(0x100 + i * 0x4), 23, 16⟩
def MPORT_PORT1 (i : Nat) : Fld := ⟨(0x100 + i * 0x4), 15, 8⟩
def MPORT_PORT0 (i : Nat) : Fld := ⟨(0x100 + i * 0x4), 7, 0⟩
end Reg.MIRR

namespace Reg.PORT
def GROUP : Fld := ⟨0x040, 31, 0⟩
def GROUP_TRUNK : Fld := ⟨0x040, 16, 16⟩
def GROUP_UP_SUM : Fld := ⟨0x040, 15, 0⟩
def PCFG (i : Nat) : Fld := ⟨(0x100 + i * 0x40), 31, 0⟩
def PCFG_MAX_FRAME (i : Nat) : Fld := ⟨(0x100 + i * 0x40), 31, 18⟩
def PCFG_DEFAULT_PRI (i : Nat) : Fld := ⟨(0x100 + i * 0x40), 15, 13⟩
def PCFG_CT_EN (i : Nat) : Fld := ⟨(0x100 + i * 0x40), 12, 12⟩
def PCFG_FEC (i : Nat) : Fld := ⟨(0x100 + i * 0x40), 11, 10⟩
def PCFG_FORCE_SPEED (i : Nat) : Fld := ⟨(0x100 + i * 0x40), 7, 5⟩
def PCFG_AN_BYPASS (i : Nat) : Fld := ⟨(0x100 + i * 0x40), 4, 4⟩
def PCFG_EN (i : Nat) : Fld := ⟨(0x100 + i * 0x40), 0, 0⟩
def PSTAT (i : Nat) : Fld := ⟨(0x104 + i * 0x40), 31, 0⟩
def PSTAT_LSTATE (i : Nat) : Fld := ⟨(0x104 + i * 0x40), 31, 30⟩
def PSTAT_SPEED (i : Nat) : Fld := ⟨(0x104 + i * 0x40), 29, 27⟩
def PSTAT_LINK_CHG (i : Nat) : Fld := ⟨(0x104 + i * 0x40), 15, 15⟩
def PSTAT_HOLD_EXP (i : Nat) : Fld := ⟨(0x104 + i * 0x40), 14, 14⟩
def PSTAT_UNSUP_MODE (i : Nat) : Fld := ⟨(0x104 + i * 0x40), 13, 13⟩
def PSTAT_MM_VERIFY_FAIL (i : Nat) : Fld := ⟨(0x104 + i * 0x40), 12, 12⟩
def PSTAT_REMOTE_FAULT (i : Nat) : Fld := ⟨(0x104 + i * 0x40), 3, 3⟩
def PSTAT_LOCAL_FAULT (i : Nat) : Fld := ⟨(0x104 + i * 0x40), 2, 2⟩
def PSTAT_LOCK (i : Nat) : Fld := ⟨(0x104 + i * 0x40), 1, 1⟩
def PSTAT_INBAND_UP (i : Nat) : Fld := ⟨(0x104 + i * 0x40), 0, 0⟩
def LINKQUAL (i : Nat) : Fld := ⟨(0x108 + i * 0x40), 31, 0⟩
def LINKQUAL_UP_QUAL (i : Nat) : Fld := ⟨(0x108 + i * 0x40), 31, 16⟩
def LINKQUAL_DOWN_QUAL (i : Nat) : Fld := ⟨(0x108 + i * 0x40), 9, 0⟩
def HOLDCFG (i : Nat) : Fld := ⟨(0x10C + i * 0x40), 31, 0⟩
def HOLDCFG_FLUSH_ON_DOWN (i : Nat) : Fld := ⟨(0x10C + i * 0x40), 31, 31⟩
def HOLDCFG_HOLD (i : Nat) : Fld := ⟨(0x10C + i * 0x40), 15, 0⟩
def PHYDLY (i : Nat) : Fld := ⟨(0x110 + i * 0x40), 31, 0⟩
def PHYDLY_PHY_TX_DLY (i : Nat) : Fld := ⟨(0x110 + i * 0x40), 31, 16⟩
def PHYDLY_PHY_RX_DLY (i : Nat) : Fld := ⟨(0x110 + i * 0x40), 15, 0⟩
def MMCFG (i : Nat) : Fld := ⟨(0x114 + i * 0x40), 31, 0⟩
def MMCFG_MM_EN (i : Nat) : Fld := ⟨(0x114 + i * 0x40), 31, 31⟩
def MMCFG_VERIFY_DIS (i : Nat) : Fld := ⟨(0x114 + i * 0x40), 30, 30⟩
def MMCFG_ADD_FRAG (i : Nat) : Fld := ⟨(0x114 + i * 0x40), 29, 28⟩
def MMCFG_VERIFY_TIME (i : Nat) : Fld := ⟨(0x114 + i * 0x40), 27, 20⟩
def MMCFG_VERIFY_STATUS (i : Nat) : Fld := ⟨(0x114 + i * 0x40), 19, 17⟩
def MMCFG_TX_ACTIVE (i : Nat) : Fld := ⟨(0x114 + i * 0x40), 16, 16⟩
def MAXRES0 (i : Nat) : Fld := ⟨(0x120 + i * 0x40), 31, 0⟩
def MAXRES0_ODD (i : Nat) : Fld := ⟨(0x120 + i * 0x40), 31, 16⟩
def MAXRES0_EVEN (i : Nat) : Fld := ⟨(0x120 + i * 0x40), 15, 0⟩
def MAXRES1 (i : Nat) : Fld := ⟨(0x124 + i * 0x40), 31, 0⟩
def MAXRES1_ODD (i : Nat) : Fld := ⟨(0x124 + i * 0x40), 31, 16⟩
def MAXRES1_EVEN (i : Nat) : Fld := ⟨(0x124 + i * 0x40), 15, 0⟩
def MAXRES2 (i : Nat) : Fld := ⟨(0x128 + i * 0x40), 31, 0⟩
def MAXRES2_ODD (i : Nat) : Fld := ⟨(0x128 + i * 0x40), 31, 16⟩
def MAXRES2_EVEN (i : Nat) : Fld := ⟨(0x128 + i * 0x40), 15, 0⟩
def MAXRES3 (i : Nat) : Fld := ⟨(0x12C + i * 0x40), 31, 0⟩
def MAXRES3_ODD (i : Nat) : Fld := ⟨(0x12C + i * 0x40), 31, 16⟩
def MAXRES3_EVEN (i : Nat) : Fld := ⟨(0x12C + i * 0x40), 15, 0⟩
def RX_NOT_UP (i : Nat) : Nat := (0x130 + i * 0x40)
def RX_FRAMES (i : Nat) : Nat := (0x500 + i * 0xA0)
def RX_OCTETS (i : Nat) : Nat := (0x508 + i * 0xA0)
def RX_FCS_ERR (i : Nat) : Nat := (0x510 + i * 0xA0)
def RX_UNDERSIZE (i : Nat) : Nat := (0x518 + i * 0xA0)
def RX_OVERSIZE (i : Nat) : Nat := (0x520 + i * 0xA0)
def RX_MAC_CTRL (i : Nat) : Nat := (0x528 + i * 0xA0)
def RX_LINK_TRUNC (i : Nat) : Nat := (0x530 + i * 0xA0)
def TX_FRAMES (i : Nat) : Nat := (0x538 + i * 0xA0)
def TX_OCTETS (i : Nat) : Nat := (0x540 + i * 0xA0)
def TX_MARKED (i : Nat) : Nat := (0x548 + i * 0xA0)
def TX_LINK_TRUNC (i : Nat) : Nat := (0x550 + i * 0xA0)
def HOLD_RES_DISCARD (i : Nat) : Nat := (0x558 + i * 0xA0)
def DOWN_DISCARD (i : Nat) : Nat := (0x560 + i * 0xA0)
def ADMIT_FULL (i : Nat) : Nat := (0x568 + i * 0xA0)
def OVR_REFUSED (i : Nat) : Nat := (0x570 + i * 0xA0)
def LINK_DOWN_EVENTS (i : Nat) : Nat := (0x578 + i * 0xA0)
def FEC_CORR (i : Nat) : Nat := (0x580 + i * 0xA0)
def FEC_UNCORR (i : Nat) : Nat := (0x588 + i * 0xA0)
def MM_ASSY_ERR (i : Nat) : Nat := (0x590 + i * 0xA0)
def MM_SMD_ERR (i : Nat) : Nat := (0x598 + i * 0xA0)
def MDIO_CFG : Fld := ⟨0xF00, 31, 0⟩
def MDIO_CFG_EN : Fld := ⟨0xF00, 31, 31⟩
def MDIO_CFG_DIV : Fld := ⟨0xF00, 23, 16⟩
def MDIO_CMD : Fld := ⟨0xF04, 31, 0⟩
def MDIO_CMD_CL45 : Fld := ⟨0xF04, 31, 31⟩
def MDIO_CMD_OP : Fld := ⟨0xF04, 30, 29⟩
def MDIO_CMD_PHYAD : Fld := ⟨0xF04, 28, 24⟩
def MDIO_CMD_REGAD : Fld := ⟨0xF04, 20, 16⟩
def MDIO_CMD_DATA : Fld := ⟨0xF04, 15, 0⟩
def MDIO_RESULT : Fld := ⟨0xF08, 31, 0⟩
def MDIO_RESULT_DONE : Fld := ⟨0xF08, 31, 31⟩
def MDIO_RESULT_BUSY : Fld := ⟨0xF08, 30, 30⟩
def MDIO_RESULT_ERR : Fld := ⟨0xF08, 29, 29⟩
def MDIO_RESULT_DATA : Fld := ⟨0xF08, 15, 0⟩
def MDIO_STAT : Fld := ⟨0xF0C, 0, 0⟩
def MDIO_STAT_CMD_LOST : Fld := ⟨0xF0C, 0, 0⟩
end Reg.PORT

namespace Reg.SERDES
def QCFG : Fld := ⟨0x040, 31, 30⟩
def QCFG_RATE : Fld := ⟨0x040, 31, 30⟩
def QSTAT : Fld := ⟨0x044, 31, 0⟩
def QSTAT_REF_OK : Fld := ⟨0x044, 31, 31⟩
def QSTAT_PLL_LOCK : Fld := ⟨0x044, 30, 30⟩
def QSTAT_RATE_REJECT : Fld := ⟨0x044, 29, 29⟩
def LCFG (i : Nat) : Fld := ⟨(0x100 + i * 0x40), 31, 0⟩
def LCFG_TX_INV (i : Nat) : Fld := ⟨(0x100 + i * 0x40), 31, 31⟩
def LCFG_RX_INV (i : Nat) : Fld := ⟨(0x100 + i * 0x40), 30, 30⟩
def LCFG_LOOP (i : Nat) : Fld := ⟨(0x100 + i * 0x40), 29, 28⟩
def LCFG_TX_DIS (i : Nat) : Fld := ⟨(0x100 + i * 0x40), 27, 27⟩
def TXEQ (i : Nat) : Fld := ⟨(0x104 + i * 0x40), 31, 0⟩
def TXEQ_POST (i : Nat) : Fld := ⟨(0x104 + i * 0x40), 23, 16⟩
def TXEQ_MAIN (i : Nat) : Fld := ⟨(0x104 + i * 0x40), 15, 8⟩
def TXEQ_PRE (i : Nat) : Fld := ⟨(0x104 + i * 0x40), 7, 0⟩
def RXSTAT (i : Nat) : Fld := ⟨(0x108 + i * 0x40), 31, 0⟩
def RXSTAT_ADAPT_DONE (i : Nat) : Fld := ⟨(0x108 + i * 0x40), 2, 2⟩
def RXSTAT_CDR_LOCK (i : Nat) : Fld := ⟨(0x108 + i * 0x40), 1, 1⟩
def RXSTAT_SIG_DET (i : Nat) : Fld := ⟨(0x108 + i * 0x40), 0, 0⟩
def PRBS (i : Nat) : Fld := ⟨(0x10C + i * 0x40), 31, 0⟩
def PRBS_GEN_EN (i : Nat) : Fld := ⟨(0x10C + i * 0x40), 31, 31⟩
def PRBS_CHK_EN (i : Nat) : Fld := ⟨(0x10C + i * 0x40), 30, 30⟩
def PRBS_PAT (i : Nat) : Fld := ⟨(0x10C + i * 0x40), 29, 27⟩
def PRBS_CHK_LOCK (i : Nat) : Fld := ⟨(0x10C + i * 0x40), 26, 26⟩
def PRBS_ERR (i : Nat) : Nat := (0x110 + i * 0x40)
def CDR_LOSS_CNT (i : Nat) : Nat := (0x118 + i * 0x40)
end Reg.SERDES

namespace Reg.MARVER
def ENGSTAT : Fld := ⟨0x040, 23, 0⟩
def ENGSTAT_BUSY : Fld := ⟨0x040, 23, 0⟩
def IMAGE : Fld := ⟨0x044, 31, 0⟩
def IMAGE_IMAGE_ID : Fld := ⟨0x044, 31, 16⟩
def IMAGE_IMAGE_VER : Fld := ⟨0x044, 15, 0⟩
def IMGSTAT : Fld := ⟨0x048, 31, 0⟩
def IMGSTAT_LOADED : Fld := ⟨0x048, 31, 31⟩
def IMGSTAT_PATCH_APPLIED : Fld := ⟨0x048, 30, 30⟩
def IMGSTAT_PATCH_REJECT : Fld := ⟨0x048, 29, 29⟩
def ENTRY (i : Nat) : Fld := ⟨(0x050 + i * 0x4), 13, 0⟩
def ENTRY_CPU : Fld := ⟨0x060, 13, 0⟩
def ENTRY_PUNTY : Fld := ⟨0x064, 13, 0⟩
def CS_CRC : Fld := ⟨0x068, 31, 0⟩
def SCRUB : Fld := ⟨0x06C, 31, 0⟩
def SCRUB_EN : Fld := ⟨0x06C, 31, 31⟩
def SCRUB_PERIOD : Fld := ⟨0x06C, 15, 0⟩
def ABORT_LOG0 : Fld := ⟨0x070, 31, 0⟩
def ABORT_LOG0_VALID : Fld := ⟨0x070, 31, 31⟩
def ABORT_LOG0_CAUSE : Fld := ⟨0x070, 30, 29⟩
def ABORT_LOG0_ENGINE : Fld := ⟨0x070, 28, 24⟩
def ABORT_LOG0_LOCAL_PORT : Fld := ⟨0x070, 21, 16⟩
def ABORT_LOG0_PUNTY : Fld := ⟨0x070, 15, 15⟩
def ABORT_LOG0_PC : Fld := ⟨0x070, 13, 0⟩
def ABORT_LOG1 : Fld := ⟨0x074, 31, 0⟩
def ABORT_LOG1_TICK : Fld := ⟨0x074, 31, 0⟩
def ENTRY_SEL (i : Nat) : Fld := ⟨(0x0C0 + i * 0x4), 31, 0⟩
def ENTRY_SEL_SEL (i : Nat) : Fld := ⟨(0x0C0 + i * 0x4), 31, 0⟩
def ROUTINES : Nat := 0x100
def ENGINE_CLOCKS : Nat := 0x108
def CLEN_STRETCH : Nat := 0x110
def WD_ABORT : Nat := 0x118
def CS_UE_ABORT : Nat := 0x120
def CS_END_ABORT : Nat := 0x128
def CS_CE : Nat := 0x130
def CS_REPAIR : Nat := 0x138
def CQ_OVF : Nat := 0x140
def CQ_BAD : Nat := 0x148
def KEY_OVF : Nat := 0x150
def EDIT_OVF : Nat := 0x158
def EDIT_CONFLICT : Nat := 0x160
def EDIT_BAD : Nat := 0x168
def EDIT_TTL_DROP : Nat := 0x170
def EDIT_LEN_DROP : Nat := 0x178
def PEXC (i : Nat) : Nat := (0x200 + i * 0x8)
def UCNT_IDX : Fld := ⟨0x280, 11, 0⟩
def UCNT : Nat := 0x284
def UCNT_HI : Fld := ⟨0x288, 31, 0⟩
def SMAC_LO (i : Nat) : Fld := ⟨(0x300 + i * 0x8), 31, 0⟩
def SMAC_HI (i : Nat) : Fld := ⟨(0x304 + i * 0x8), 15, 0⟩
end Reg.MARVER

namespace Reg.CLS
def PCFG : Fld := ⟨0x040, 31, 0⟩
def PCFG_EXC_ACT : Fld := ⟨0x040, 9, 9⟩
def PCFG_EXC_RING : Fld := ⟨0x040, 7, 4⟩
def PCFG_MAX_PASSES : Fld := ⟨0x040, 2, 0⟩
def PSTAT : Fld := ⟨0x044, 5, 0⟩
def PSTAT_OCC : Fld := ⟨0x044, 5, 0⟩
def PDRAIN (i : Nat) : Fld := ⟨(0x048 + i * 0x4), 19, 0⟩
def BANKSTAT : Fld := ⟨0x050, 31, 0⟩
def BANKSTAT_DRAIN : Fld := ⟨0x050, 1, 1⟩
def BANKSTAT_ACTIVE : Fld := ⟨0x050, 0, 0⟩
def SWAP : Fld := ⟨0x080, 31, 0⟩
def SWAP_REQ : Fld := ⟨0x080, 31, 31⟩
def SWAP_COPY : Fld := ⟨0x080, 30, 30⟩
def SWAP_STAT : Fld := ⟨0x084, 31, 0⟩
def SWAP_STAT_STATE : Fld := ⟨0x084, 31, 30⟩
def SWAP_STAT_DONE : Fld := ⟨0x084, 29, 29⟩
def SWAP_STAT_REJECT : Fld := ⟨0x084, 28, 28⟩
def SWAP_STAT_ACTIVE : Fld := ⟨0x084, 0, 0⟩
def SWAP_TICK : Fld := ⟨0x088, 31, 0⟩
def SEED0_0 : Fld := ⟨0x090, 31, 0⟩
def SEED0_1 : Fld := ⟨0x094, 31, 0⟩
def SEED0_2 : Fld := ⟨0x098, 31, 0⟩
def SEED0_3 : Fld := ⟨0x09C, 31, 0⟩
def SEED1_0 : Fld := ⟨0x0A0, 31, 0⟩
def SEED1_1 : Fld := ⟨0x0A4, 31, 0⟩
def SEED1_2 : Fld := ⟨0x0A8, 31, 0⟩
def SEED1_3 : Fld := ⟨0x0AC, 31, 0⟩
def SEED2_0 : Fld := ⟨0x0B0, 31, 0⟩
def SEED2_1 : Fld := ⟨0x0B4, 31, 0⟩
def SEED2_2 : Fld := ⟨0x0B8, 31, 0⟩
def SEED2_3 : Fld := ⟨0x0BC, 31, 0⟩
def RTCLASS (i : Nat) : Fld := ⟨(0x0C0 + i * 0x4), 31, 0⟩
def RTCLASS_VALID (i : Nat) : Fld := ⟨(0x0C0 + i * 0x4), 31, 31⟩
def RTCLASS_FAMILY (i : Nat) : Fld := ⟨(0x0C0 + i * 0x4), 30, 30⟩
def RTCLASS_PLEN (i : Nat) : Fld := ⟨(0x0C0 + i * 0x4), 23, 16⟩
def RTCFG : Fld := ⟨0x100, 31, 0⟩
def RTCFG_MISS_ACT : Fld := ⟨0x100, 31, 31⟩
def RTCFG_MISS_RING : Fld := ⟨0x100, 27, 24⟩
def TKEY (i : Nat) : Fld := ⟨(0x140 + i * 0x4), 31, 0⟩
def ENTRIES (i : Nat) : Fld := ⟨(0x190 + i * 0x4), 31, 0⟩
def ENTRIES_STASH (i : Nat) : Fld := ⟨(0x190 + i * 0x4), 30, 24⟩
def ENTRIES_COUNT (i : Nat) : Fld := ⟨(0x190 + i * 0x4), 19, 0⟩
def RTCNT (i : Nat) : Fld := ⟨(0x1C0 + i * 0x4), 18, 0⟩
def TW_KEY (i : Nat) : Fld := ⟨(0x200 + i * 0x4), 31, 0⟩
def TW_META : Fld := ⟨0x238, 31, 0⟩
def TW_META_COPY : Fld := ⟨0x238, 31, 31⟩
def TW_META_KLEN : Fld := ⟨0x238, 29, 24⟩
def TW_META_PROFILE : Fld := ⟨0x238, 23, 16⟩
def TW_META_TAG : Fld := ⟨0x238, 15, 0⟩
def TW_DATA (i : Nat) : Fld := ⟨(0x23C + i * 0x4), 31, 0⟩
def TW_LOC : Fld := ⟨0x24C, 31, 0⟩
def TW_LOC_STASH : Fld := ⟨0x24C, 31, 31⟩
def TW_LOC_WAY : Fld := ⟨0x24C, 30, 29⟩
def TW_LOC_INDEX : Fld := ⟨0x24C, 16, 0⟩
def TW_CMD : Fld := ⟨0x250, 31, 0⟩
def TW_RESULT : Fld := ⟨0x254, 31, 0⟩
def TR_KEY (i : Nat) : Fld := ⟨(0x280 + i * 0x4), 31, 0⟩
def TR_META : Fld := ⟨0x2B8, 31, 0⟩
def TR_DATA (i : Nat) : Fld := ⟨(0x2BC + i * 0x4), 31, 0⟩
def FAIL_LOG : Fld := ⟨0x2D0, 31, 0⟩
def LOOKUPS : Nat := 0x400
def HITS : Nat := 0x408
def STASH_HITS : Nat := 0x410
def MISSES : Nat := 0x418
def NO_KEY : Nat := 0x420
def KEY_LONG : Nat := 0x428
def RULE_DROPS : Nat := 0x430
def PUNTY_PASSES : Nat := 0x438
def PUNTY_FULL : Nat := 0x440
def PUNTY_DEPTH : Nat := 0x448
def RT_HITS : Nat := 0x450
def RT_MISS : Nat := 0x458
def RT_DISCARD : Nat := 0x460
def RT_EDIT_FULL : Nat := 0x468
def SPREAD_INVALID : Nat := 0x470
def INS_FAIL : Nat := 0x500
def FAIL_LOST : Nat := 0x508
def SWAP_REJECT : Nat := 0x510
def STASH_MOVES : Nat := 0x518
end Reg.CLS

namespace Reg.FDB
def LCFG : Fld := ⟨0x040, 31, 0⟩
def LCFG_EG_LEARN : Fld := ⟨0x040, 31, 31⟩
def LCFG_DST_HIT : Fld := ⟨0x040, 30, 30⟩
def LCFG_FLAP_EN : Fld := ⟨0x040, 29, 29⟩
def AGECFG : Fld := ⟨0x044, 31, 0⟩
def AGECFG_EN : Fld := ⟨0x044, 31, 31⟩
def AGECFG_LIMIT : Fld := ⟨0x044, 27, 24⟩
def AGECFG_BATCH : Fld := ⟨0x044, 23, 16⟩
def AGECFG_DIV : Fld := ⟨0x044, 15, 0⟩
def ENTRIES : Fld := ⟨0x048, 31, 0⟩
def ENTRIES_STASH : Fld := ⟨0x048, 30, 24⟩
def ENTRIES_COUNT : Fld := ⟨0x048, 18, 0⟩
def SEED_0 : Fld := ⟨0x050, 31, 0⟩
def SEED_1 : Fld := ⟨0x054, 31, 0⟩
def SEED_2 : Fld := ⟨0x058, 31, 0⟩
def SEED_3 : Fld := ⟨0x05C, 31, 0⟩
def FLAP_LOG0 : Fld := ⟨0x060, 31, 0⟩
def FLAP_LOG0_VALID : Fld := ⟨0x060, 31, 31⟩
def FLAP_LOG0_FIRST_PORT : Fld := ⟨0x060, 24, 16⟩
def FLAP_LOG0_REFUSED_PORT : Fld := ⟨0x060, 8, 0⟩
def FLAP_LOG1 : Fld := ⟨0x064, 31, 0⟩
def FLAP_LOG1_DOMAIN : Fld := ⟨0x064, 31, 16⟩
def FLAP_LOG1_ADDR_HI : Fld := ⟨0x064, 15, 0⟩
def FLAP_LOG2 : Fld := ⟨0x068, 31, 0⟩
def FLAP_LOG3 : Fld := ⟨0x06C, 31, 0⟩
def SIGCFG : Fld := ⟨0x080, 31, 0⟩
def SIGCFG_EN : Fld := ⟨0x080, 31, 31⟩
def SIGCFG_PERIOD : Fld := ⟨0x080, 15, 0⟩
def SIG_LOG : Fld := ⟨0x084, 31, 0⟩
def SIG_LOG_VALID : Fld := ⟨0x084, 31, 31⟩
def SIG_LOG_TABLE : Fld := ⟨0x084, 29, 28⟩
def SIG_LOG_BLOCK : Fld := ⟨0x084, 11, 0⟩
def PORTCFG (i : Nat) : Fld := ⟨(0x100 + i * 0x4), 31, 0⟩
def PORTCFG_LEARN_EN (i : Nat) : Fld := ⟨(0x100 + i * 0x4), 31, 31⟩
def PORTCFG_DOM_MODE (i : Nat) : Fld := ⟨(0x100 + i * 0x4), 30, 30⟩
def PORTCFG_VSPACE (i : Nat) : Fld := ⟨(0x100 + i * 0x4), 27, 24⟩
def PORTCFG_PVID (i : Nat) : Fld := ⟨(0x100 + i * 0x4), 11, 0⟩
def TW_KEY (i : Nat) : Fld := ⟨(0x200 + i * 0x4), 31, 0⟩
def TW_META : Fld := ⟨0x238, 31, 0⟩
def TW_META_COPY : Fld := ⟨0x238, 31, 31⟩
def TW_META_KLEN : Fld := ⟨0x238, 29, 24⟩
def TW_META_PROFILE : Fld := ⟨0x238, 23, 16⟩
def TW_META_TAG : Fld := ⟨0x238, 15, 0⟩
def TW_DATA (i : Nat) : Fld := ⟨(0x23C + i * 0x4), 31, 0⟩
def TW_LOC : Fld := ⟨0x24C, 31, 0⟩
def TW_LOC_STASH : Fld := ⟨0x24C, 31, 31⟩
def TW_LOC_WAY : Fld := ⟨0x24C, 30, 29⟩
def TW_LOC_INDEX : Fld := ⟨0x24C, 16, 0⟩
def TW_CMD : Fld := ⟨0x250, 31, 0⟩
def TW_RESULT : Fld := ⟨0x254, 31, 0⟩
def TR_KEY (i : Nat) : Fld := ⟨(0x280 + i * 0x4), 31, 0⟩
def TR_META : Fld := ⟨0x2B8, 31, 0⟩
def TR_DATA (i : Nat) : Fld := ⟨(0x2BC + i * 0x4), 31, 0⟩
def FAIL_LOG : Fld := ⟨0x2D0, 31, 0⟩
def TW_BENCH : Fld := ⟨0x258, 7, 0⟩
def TW_BENCH_BMASK : Fld := ⟨0x258, 7, 0⟩
def TW_BSTAT : Fld := ⟨0x25C, 31, 0⟩
def SRCH_SEL : Fld := ⟨0x300, 31, 0⟩
def SRCH_SEL_PORT_EN : Fld := ⟨0x300, 31, 31⟩
def SRCH_SEL_DOM_EN : Fld := ⟨0x300, 30, 30⟩
def SRCH_SEL_DYN : Fld := ⟨0x300, 29, 29⟩
def SRCH_SEL_STAT : Fld := ⟨0x300, 28, 28⟩
def SRCH_SEL_LOCKED : Fld := ⟨0x300, 27, 27⟩
def SRCH_SEL_PORT : Fld := ⟨0x300, 8, 0⟩
def SRCH_DOM : Fld := ⟨0x304, 15, 0⟩
def SRCH_CMD : Fld := ⟨0x308, 31, 0⟩
def SRCH_CMD_OP : Fld := ⟨0x308, 31, 30⟩
def SRCH_CMD_BENCH : Fld := ⟨0x308, 23, 16⟩
def SRCH_RESULT : Fld := ⟨0x30C, 31, 0⟩
def SRCH_RESULT_DONE : Fld := ⟨0x30C, 31, 31⟩
def SRCH_RESULT_FOUND : Fld := ⟨0x30C, 30, 30⟩
def SRCH_RESULT_END : Fld := ⟨0x30C, 29, 29⟩
def SRCH_RESULT_BAD : Fld := ⟨0x30C, 28, 28⟩
def SRCH_RESULT_LOST : Fld := ⟨0x30C, 27, 27⟩
def SRCH_RESULT_STASH : Fld := ⟨0x30C, 20, 20⟩
def SRCH_RESULT_WAY : Fld := ⟨0x30C, 19, 18⟩
def SRCH_RESULT_INDEX : Fld := ⟨0x30C, 15, 0⟩
def SRCH_KEY0 : Fld := ⟨0x310, 31, 0⟩
def SRCH_KEY1 : Fld := ⟨0x314, 31, 0⟩
def SRCH_DATA : Fld := ⟨0x318, 31, 0⟩
def FLUSH_COUNT : Fld := ⟨0x31C, 18, 0⟩
def DA_LOOKUPS : Nat := 0x400
def DA_HITS : Nat := 0x408
def DA_MISS : Nat := 0x410
def FLOODS : Nat := 0x418
def SAME_PORT : Nat := 0x420
def DOMAIN_INVALID : Nat := 0x428
def DOMAIN_FILTER : Nat := 0x430
def LEARNS : Nat := 0x438
def LEARN_HITS : Nat := 0x440
def MOVES : Nat := 0x448
def LOCKS : Nat := 0x450
def LOCK_REFUSED : Nat := 0x458
def LEARN_STATIC : Nat := 0x460
def LEARN_FULL : Nat := 0x468
def LEARN_OVF : Nat := 0x470
def LEARN_BADFRAME : Nat := 0x478
def LEARN_IGNORED : Nat := 0x480
def AGED : Nat := 0x488
def FLUSHED : Nat := 0x490
def TRACK_LOST : Nat := 0x498
def FLAP_LOST : Nat := 0x4A0
def TBL_CE : Nat := 0x4A8
def TBL_UE : Nat := 0x4B0
def INS_FAIL : Nat := 0x4B8
def FAIL_LOST : Nat := 0x4C0
def STASH_MOVES : Nat := 0x4C8
def SIG_BLOCKS : Nat := 0x500
def SIG_MISMATCH : Nat := 0x508
def SIG_LOST : Nat := 0x510
end Reg.FDB

namespace Reg.STRM
def ENTRIES : Fld := ⟨0x040, 31, 0⟩
def ENTRIES_STASH : Fld := ⟨0x040, 30, 24⟩
def ENTRIES_COUNT : Fld := ⟨0x040, 21, 0⟩
def SEED_0 : Fld := ⟨0x050, 31, 0⟩
def SEED_1 : Fld := ⟨0x054, 31, 0⟩
def SEED_2 : Fld := ⟨0x058, 31, 0⟩
def SEED_3 : Fld := ⟨0x05C, 31, 0⟩
def SIDCFG (i : Nat) : Fld := ⟨(0x100 + i * 0x4), 31, 0⟩
def SIDCFG_SID_MAC (i : Nat) : Fld := ⟨(0x100 + i * 0x4), 31, 30⟩
def SIDCFG_SID_IP (i : Nat) : Fld := ⟨(0x100 + i * 0x4), 29, 29⟩
def TW_KEY (i : Nat) : Fld := ⟨(0x200 + i * 0x4), 31, 0⟩
def TW_META : Fld := ⟨0x238, 31, 0⟩
def TW_META_COPY : Fld := ⟨0x238, 31, 31⟩
def TW_META_KLEN : Fld := ⟨0x238, 29, 24⟩
def TW_META_PROFILE : Fld := ⟨0x238, 23, 16⟩
def TW_META_TAG : Fld := ⟨0x238, 15, 0⟩
def TW_DATA (i : Nat) : Fld := ⟨(0x23C + i * 0x4), 31, 0⟩
def TW_LOC : Fld := ⟨0x24C, 31, 0⟩
def TW_LOC_STASH : Fld := ⟨0x24C, 31, 31⟩
def TW_LOC_WAY : Fld := ⟨0x24C, 30, 29⟩
def TW_LOC_INDEX : Fld := ⟨0x24C, 19, 0⟩
def TW_CMD : Fld := ⟨0x250, 31, 0⟩
def TW_RESULT : Fld := ⟨0x254, 31, 0⟩
def TR_KEY (i : Nat) : Fld := ⟨(0x280 + i * 0x4), 31, 0⟩
def TR_META : Fld := ⟨0x2B8, 31, 0⟩
def TR_DATA (i : Nat) : Fld := ⟨(0x2BC + i * 0x4), 31, 0⟩
def FAIL_LOG : Fld := ⟨0x2D0, 31, 0⟩
def TW_RINDEX : Fld := ⟨0x260, 19, 0⟩
def SID_LOOKUPS : Nat := 0x400
def SID_IP_HITS : Nat := 0x408
def SID_MAC_HITS : Nat := 0x410
def SID_MISS : Nat := 0x418
def RULE_HANDLE : Nat := 0x420
def CTX_INVALID : Nat := 0x428
def STREAM_EGRESS : Nat := 0x430
def ACT_EDIT_FULL : Nat := 0x438
def TBL_CE : Nat := 0x440
def TBL_UE : Nat := 0x448
def FAIL_LOST : Nat := 0x450
def INS_FAIL : Nat := 0x500
def STASH_MOVES : Nat := 0x508
def SQ_IDX : Fld := ⟨0x600, 31, 0⟩
def SQ_IDX_COPY : Fld := ⟨0x600, 31, 31⟩
def SQ_IDX_INDEX : Fld := ⟨0x600, 18, 0⟩
def SQ_DATA (i : Nat) : Fld := ⟨(0x604 + i * 0x4), 31, 0⟩
def SQ_CMD : Fld := ⟨0x614, 31, 28⟩
def SQ_CMD_OP : Fld := ⟨0x614, 31, 28⟩
def SQ_RESULT : Fld := ⟨0x618, 31, 0⟩
def SQ_RESULT_DONE : Fld := ⟨0x618, 31, 31⟩
def SQ_RESULT_STATUS_A : Fld := ⟨0x618, 30, 27⟩
def SQ_RESULT_STATUS_B : Fld := ⟨0x618, 26, 23⟩
def SR_DATA (i : Nat) : Fld := ⟨(0x620 + i * 0x4), 31, 0⟩
def SQSCAN : Fld := ⟨0x630, 31, 0⟩
def SQSCAN_EN : Fld := ⟨0x630, 31, 31⟩
def SQSCAN_POS : Fld := ⟨0x630, 18, 0⟩
def SEQ_GEN : Nat := 0x700
def SEQ_PASSED : Nat := 0x708
def SEQ_DISCARDED : Nat := 0x710
def SEQ_OOO : Nat := 0x718
def SEQ_ROGUE : Nat := 0x720
def SEQ_LOST : Nat := 0x728
def SEQ_TAGLESS : Nat := 0x730
def SEQ_RESETS : Nat := 0x738
def SEQ_INVALID : Nat := 0x740
def SEQ_UE : Nat := 0x748
def FRER_SKIP : Nat := 0x750
def LATENT (i : Nat) : Fld := ⟨(0x780 + i * 0x4), 31, 0⟩
def WCFG (i : Nat) : Fld := ⟨(0x800 + i * 0x40), 31, 0⟩
def WCFG_EN (i : Nat) : Fld := ⟨(0x800 + i * 0x40), 31, 31⟩
def WCFG_SEQ_IDX (i : Nat) : Fld := ⟨(0x800 + i * 0x40), 18, 0⟩
def LEDCFG (i : Nat) : Fld := ⟨(0x804 + i * 0x40), 31, 0⟩
def LEDCFG_PERIOD (i : Nat) : Fld := ⟨(0x804 + i * 0x40), 31, 16⟩
def LEDCFG_DIFF (i : Nat) : Fld := ⟨(0x804 + i * 0x40), 15, 0⟩
def PASSED (i : Nat) : Nat := (0x808 + i * 0x40)
def DISCARDED (i : Nat) : Nat := (0x810 + i * 0x40)
def OUT_OF_ORDER (i : Nat) : Nat := (0x818 + i * 0x40)
def ROGUE (i : Nat) : Nat := (0x820 + i * 0x40)
def LOST (i : Nat) : Nat := (0x828 + i * 0x40)
def TAGLESS (i : Nat) : Nat := (0x830 + i * 0x40)
def RESETS (i : Nat) : Fld := ⟨(0x838 + i * 0x40), 31, 0⟩
end Reg.STRM

namespace Reg.BUF
def BUFCTL : Fld := ⟨0x040, 0, 0⟩
def BUFCTL_START : Fld := ⟨0x040, 0, 0⟩
def BUFSTAT : Fld := ⟨0x044, 31, 0⟩
def BUFSTAT_READY : Fld := ⟨0x044, 31, 31⟩
def BUFSTAT_CFG_ERR : Fld := ⟨0x044, 30, 30⟩
def BUFSTAT_REBUILDING : Fld := ⟨0x044, 29, 29⟩
def BUFSTAT_REBUILD_POOL : Fld := ⟨0x044, 28, 27⟩
def POOLCFG0 : Fld := ⟨0x050, 31, 0⟩
def POOLCFG0_COUNT : Fld := ⟨0x050, 31, 15⟩
def POOLCFG0_SIZE : Fld := ⟨0x050, 7, 0⟩
def POOLCFG1 : Fld := ⟨0x054, 31, 0⟩
def POOLCFG1_COUNT : Fld := ⟨0x054, 31, 15⟩
def POOLCFG1_SIZE : Fld := ⟨0x054, 7, 0⟩
def POOLCFG2 : Fld := ⟨0x058, 31, 0⟩
def POOLCFG2_COUNT : Fld := ⟨0x058, 31, 15⟩
def POOLCFG2_SIZE : Fld := ⟨0x058, 7, 0⟩
def POOLCFG3 : Fld := ⟨0x05C, 31, 0⟩
def POOLCFG3_COUNT : Fld := ⟨0x05C, 31, 15⟩
def POOLCFG3_SIZE : Fld := ⟨0x05C, 7, 0⟩
def POOLFREE (i : Nat) : Fld := ⟨(0x060 + i * 0x4), 16, 0⟩
def POOLCUL (i : Nat) : Fld := ⟨(0x070 + i * 0x4), 16, 0⟩
def POOLLOW (i : Nat) : Fld := ⟨(0x080 + i * 0x4), 16, 0⟩
def POOLMIN (i : Nat) : Fld := ⟨(0x090 + i * 0x4), 16, 0⟩
def FREE_CELLS : Fld := ⟨0x0A0, 17, 0⟩
def UNUSED_RES : Fld := ⟨0x0A4, 17, 0⟩
def RES_SUM : Fld := ⟨0x0A8, 17, 0⟩
def DESC_FREE : Fld := ⟨0x0AC, 15, 0⟩
def UNUSED_RES_DESC : Fld := ⟨0x0B0, 15, 0⟩
def RES_DESC_SUM : Fld := ⟨0x0B4, 15, 0⟩
def RR_PTR : Fld := ⟨0x0B8, 6, 0⟩
def OWN_IDX : Fld := ⟨0x0C0, 9, 0⟩
def OWN_RES : Fld := ⟨0x0C4, 17, 0⟩
def OWN_LIMIT : Fld := ⟨0x0C8, 17, 0⟩
def OWN_DESC : Fld := ⟨0x0CC, 31, 0⟩
def OWN_DESC_LIMIT_DESC : Fld := ⟨0x0CC, 31, 16⟩
def OWN_DESC_RES_DESC : Fld := ⟨0x0CC, 15, 0⟩
def OWN_USE : Fld := ⟨0x0D0, 17, 0⟩
def OWN_DUSE : Fld := ⟨0x0D4, 15, 0⟩
def OWN_REFUSED : Nat := 0x0D8
def OWN_DREFUSED : Nat := 0x0E0
def BCMD : Fld := ⟨0x100, 31, 0⟩
def BCMD_OP : Fld := ⟨0x100, 31, 28⟩
def BCMD_POOL : Fld := ⟨0x100, 25, 24⟩
def BCMD_HANDLE : Fld := ⟨0x100, 20, 0⟩
def BRESULT : Fld := ⟨0x104, 31, 0⟩
def BRESULT_DONE : Fld := ⟨0x104, 31, 31⟩
def BRESULT_STATUS : Fld := ⟨0x104, 30, 27⟩
def BRESULT_HANDLE : Fld := ⟨0x104, 20, 0⟩
def BHDR_LO : Fld := ⟨0x108, 31, 0⟩
def BHDR_HI : Fld := ⟨0x10C, 31, 0⟩
def BWIN_HANDLE : Fld := ⟨0x110, 20, 0⟩
def BWIN_OFF : Fld := ⟨0x114, 13, 2⟩
def DFREE_LOGCTL : Fld := ⟨0x140, 31, 0⟩
def DFREE_LOGCTL_CLR : Fld := ⟨0x140, 31, 31⟩
def DFREE_LOGCTL_COUNT : Fld := ⟨0x140, 4, 0⟩
def DFREE_LOG (i : Nat) : Fld := ⟨(0x180 + i * 0x4), 31, 0⟩
def DFREE_LOG_VALID (i : Nat) : Fld := ⟨(0x180 + i * 0x4), 31, 31⟩
def DFREE_LOG_DESC (i : Nat) : Fld := ⟨(0x180 + i * 0x4), 30, 30⟩
def DFREE_LOG_AGENT (i : Nat) : Fld := ⟨(0x180 + i * 0x4), 29, 23⟩
def DFREE_LOG_HANDLE (i : Nat) : Fld := ⟨(0x180 + i * 0x4), 20, 0⟩
def ALLOCS : Nat := 0x200
def DESC_ALLOCS : Nat := 0x208
def NOBUF : Nat := 0x210
def DESC_BOUND : Nat := 0x218
def TRUNC_NOBUF : Nat := 0x220
def RETURN_DEFER : Nat := 0x228
def DFREE : Nat := 0x230
def REF_SAT : Nat := 0x238
def ECC_CE : Nat := 0x240
def ECC_UE : Nat := 0x248
def HDR_UE : Nat := 0x250
def ECC_DROP : Nat := 0x258
def CULLET_IN : Nat := 0x260
def RECLAIMED : Nat := 0x268
def RECLAIM_FAIL : Nat := 0x270
def LIST_REBUILD : Nat := 0x278
def CULLET_FRAMES : Nat := 0x280
def CULLET_ABORT : Nat := 0x288
def FALLBACK : Nat := 0x290
def BWIN_DATA (i : Nat) : Fld := ⟨(0x800 + i * 0x4), 31, 0⟩
end Reg.BUF

namespace Reg.CORE
def QE_FREE : Fld := ⟨0x040, 16, 0⟩
def QE_MIN : Fld := ⟨0x044, 16, 0⟩
def BANK_SPILL : Fld := ⟨0x048, 17, 0⟩
def QIDX : Fld := ⟨0x050, 9, 0⟩
def QIDX_QUEUE : Fld := ⟨0x050, 9, 0⟩
def QCFG : Fld := ⟨0x054, 31, 0⟩
def QCFG_SPILL_EN : Fld := ⟨0x054, 31, 31⟩
def QCFG_WRED_PROF : Fld := ⟨0x054, 29, 24⟩
def QCFG_SPILL_PROF : Fld := ⟨0x054, 23, 20⟩
def QMAX : Fld := ⟨0x058, 27, 0⟩
def QSTAT : Fld := ⟨0x05C, 31, 0⟩
def QSTAT_STATE : Fld := ⟨0x05C, 31, 30⟩
def QSTAT_HEAD_CELLS : Fld := ⟨0x05C, 17, 0⟩
def QSTAGE : Fld := ⟨0x060, 17, 0⟩
def QMID : Fld := ⟨0x064, 22, 0⟩
def QMIDC : Fld := ⟨0x068, 27, 0⟩
def QAVG : Fld := ⟨0x06C, 27, 0⟩
def Q_ENQ : Nat := 0x080
def Q_DROP_QE : Nat := 0x088
def Q_DROP_WRED : Nat := 0x090
def Q_DROP_QMAX : Nat := 0x098
def Q_MARK : Nat := 0x0A0
def WIDX : Fld := ⟨0x0C0, 31, 0⟩
def WIDX_PROF : Fld := ⟨0x0C0, 7, 2⟩
def WIDX_COLOUR : Fld := ⟨0x0C0, 1, 0⟩
def WCFG0 : Fld := ⟨0x0C4, 27, 0⟩
def WCFG0_MIN_TH : Fld := ⟨0x0C4, 27, 0⟩
def WCFG1 : Fld := ⟨0x0C8, 27, 0⟩
def WCFG1_MAX_TH : Fld := ⟨0x0C8, 27, 0⟩
def WCFG2 : Fld := ⟨0x0CC, 31, 0⟩
def WCFG2_MODE : Fld := ⟨0x0CC, 31, 31⟩
def WCFG2_MAX_P : Fld := ⟨0x0CC, 7, 0⟩
def SIDX : Fld := ⟨0x0E0, 3, 0⟩
def SIDX_PROF : Fld := ⟨0x0E0, 3, 0⟩
def SPILL_HI : Fld := ⟨0x0E4, 17, 0⟩
def SPILL_MIN : Fld := ⟨0x0E8, 17, 0⟩
def RETURN_LO : Fld := ⟨0x0EC, 17, 0⟩
def RETURN_HI : Fld := ⟨0x0F0, 17, 0⟩
def BR_STAT : Fld := ⟨0x100, 0, 0⟩
def BR_STAT_PEER_DOWN : Fld := ⟨0x100, 0, 0⟩
def BR_CRED : Fld := ⟨0x104, 31, 0⟩
def BRDROP_IDX : Fld := ⟨0x108, 7, 0⟩
def BRDROP : Nat := 0x10C
def BRDROP_HI : Fld := ⟨0x110, 31, 0⟩
def ENQ_COPIES : Nat := 0x300
def CT_COPIES : Nat := 0x308
def WRED_DROP : Nat := 0x310
def WRED_MARK : Nat := 0x318
def QMAX_DROP : Nat := 0x320
def QE_FULL : Nat := 0x328
def SPILL_MOVES : Nat := 0x330
def SPILL_RETURNS : Nat := 0x338
def SPILL_REFUSED : Nat := 0x340
def STAGE_PROMOTE : Nat := 0x348
def HEAD_STARVE : Nat := 0x350
def QE_DEFER : Nat := 0x358
def BAD_DISCARD : Nat := 0x360
def MARK_RX_ERR : Nat := 0x368
def MARK_RX_TRUNC : Nat := 0x370
def MARK_NOBUF : Nat := 0x378
def MARK_ECC : Nat := 0x380
def MARK_BRIDGE : Nat := 0x388
def MARK_TAG : Nat := 0x390
def MARK_LEN : Nat := 0x398
def TX_UNDERRUN : Nat := 0x3A0
def MIR_COPIES (i : Nat) : Nat := (0x400 + i * 0x10)
def MIR_NOBUF (i : Nat) : Nat := (0x408 + i * 0x10)
def BR_TX_FRAMES : Nat := 0x500
def BR_RX_FRAMES : Nat := 0x508
def BR_TX_FULL : Nat := 0x510
def BR_RX_NOBUF : Nat := 0x518
def BR_RX_CRC : Nat := 0x520
def BR_RX_ABANDON : Nat := 0x528
def BR_DOWN_EVENTS : Nat := 0x530
end Reg.CORE

namespace Reg.SCHED
def PIDX : Fld := ⟨0x040, 5, 0⟩
def PIDX_LPORT : Fld := ⟨0x040, 5, 0⟩
def TSA : Fld := ⟨0x044, 31, 0⟩
def TSA_WFQ : Fld := ⟨0x044, 15, 8⟩
def TSA_PREEMPT : Fld := ⟨0x044, 7, 0⟩
def WEIGHT_LO : Fld := ⟨0x048, 31, 0⟩
def WEIGHT_HI : Fld := ⟨0x04C, 31, 0⟩
def MAXSDU (i : Nat) : Fld := ⟨(0x050 + i * 0x4), 13, 0⟩
def VTIME : Fld := ⟨0x070, 31, 0⟩
def PSSTAT : Fld := ⟨0x074, 31, 0⟩
def PSSTAT_HOLD : Fld := ⟨0x074, 17, 17⟩
def PSSTAT_PREEMPTED : Fld := ⟨0x074, 16, 16⟩
def PSSTAT_BACKLOG : Fld := ⟨0x074, 15, 8⟩
def PSSTAT_ELIGIBLE : Fld := ⟨0x074, 7, 0⟩
def WIN_DROP (i : Nat) : Nat := (0x100 + i * 0x20)
def SDU_DROP (i : Nat) : Nat := (0x108 + i * 0x20)
def WIN_HELD (i : Nat) : Nat := (0x110 + i * 0x20)
def TX_CLASS (i : Nat) : Nat := (0x118 + i * 0x20)
def GATE_OVERRUN : Nat := 0x200
def SDU_LATE : Nat := 0x208
def PREEMPTIONS : Nat := 0x210
def HOLD_REQS : Nat := 0x218
end Reg.SCHED

namespace Reg.GATE
def GIDX : Fld := ⟨0x040, 5, 0⟩
def GIDX_LPORT : Fld := ⟨0x040, 5, 0⟩
def GCTRL : Fld := ⟨0x044, 31, 0⟩
def GCTRL_GATE_EN : Fld := ⟨0x044, 31, 31⟩
def GCTRL_CONFIG_CHANGE : Fld := ⟨0x044, 30, 30⟩
def GCTRL_FAIL_STATES : Fld := ⟨0x044, 15, 8⟩
def GSTAT : Fld := ⟨0x048, 31, 0⟩
def GSTAT_PENDING : Fld := ⟨0x048, 31, 31⟩
def GSTAT_MODE : Fld := ⟨0x048, 30, 29⟩
def GSTAT_OPER_BANK : Fld := ⟨0x048, 28, 28⟩
def GSTAT_CHG_DONE : Fld := ⟨0x048, 27, 27⟩
def GSTAT_CHG_REJ : Fld := ⟨0x048, 26, 26⟩
def GSTAT_ENTRY : Fld := ⟨0x048, 25, 16⟩
def GSTAT_GATES : Fld := ⟨0x048, 7, 0⟩
def ADM_BASE_NS : Fld := ⟨0x050, 29, 0⟩
def ADM_BASE_SEC_LO : Fld := ⟨0x054, 31, 0⟩
def ADM_BASE_SEC_HI : Fld := ⟨0x058, 15, 0⟩
def ADM_CYCLE : Fld := ⟨0x05C, 29, 0⟩
def ADM_EXT : Fld := ⟨0x060, 29, 0⟩
def ADM_LEN : Fld := ⟨0x064, 10, 0⟩
def OPER_BASE_NS : Fld := ⟨0x070, 29, 0⟩
def OPER_BASE_SEC_LO : Fld := ⟨0x074, 31, 0⟩
def OPER_BASE_SEC_HI : Fld := ⟨0x078, 15, 0⟩
def OPER_CYCLE : Fld := ⟨0x07C, 29, 0⟩
def OPER_EXT : Fld := ⟨0x080, 29, 0⟩
def OPER_LEN : Fld := ⟨0x084, 10, 0⟩
def CCT_NS : Fld := ⟨0x088, 29, 0⟩
def CCT_SEC_LO : Fld := ⟨0x08C, 31, 0⟩
def CCT_SEC_HI : Fld := ⟨0x090, 15, 0⟩
def GUARD : Fld := ⟨0x094, 7, 0⟩
def HOLD_ADV : Fld := ⟨0x098, 15, 0⟩
def MAXWIN (i : Nat) : Fld := ⟨(0x0C0 + i * 0x4), 31, 0⟩
def GCL_IDX : Fld := ⟨0x100, 31, 0⟩
def GCL_IDX_BANK : Fld := ⟨0x100, 31, 31⟩
def GCL_IDX_INDEX : Fld := ⟨0x100, 9, 0⟩
def GCL_LO : Fld := ⟨0x104, 31, 0⟩
def GCL_HI : Fld := ⟨0x108, 31, 0⟩
def GCL_HI_OP : Fld := ⟨0x108, 31, 30⟩
def GCL_HI_GATES : Fld := ⟨0x108, 7, 0⟩
def CONFIG_CHANGES : Nat := 0x200
def CONFIG_REJECT : Nat := 0x208
def GCL_WR_REJECT : Nat := 0x210
def TIME_WAIT_ENTRIES : Nat := 0x218
end Reg.GATE

namespace Reg.METER
def ICLS (i : Nat) : Fld := ⟨(0x100 + i * 0x4), 31, 0⟩
def ICLS_DEI_YELLOW (i : Nat) : Fld := ⟨(0x100 + i * 0x4), 31, 31⟩
def ICLS_PRI_MAP (i : Nat) : Fld := ⟨(0x100 + i * 0x4), 23, 0⟩
def TW_KEY (i : Nat) : Fld := ⟨(0x200 + i * 0x4), 31, 0⟩
def TW_META : Fld := ⟨0x238, 31, 0⟩
def TW_META_COPY : Fld := ⟨0x238, 31, 31⟩
def TW_META_KLEN : Fld := ⟨0x238, 29, 24⟩
def TW_META_PROFILE : Fld := ⟨0x238, 23, 16⟩
def TW_META_TAG : Fld := ⟨0x238, 15, 0⟩
def TW_DATA (i : Nat) : Fld := ⟨(0x23C + i * 0x4), 31, 0⟩
def TW_LOC : Fld := ⟨0x24C, 31, 0⟩
def TW_LOC_STASH : Fld := ⟨0x24C, 31, 31⟩
def TW_LOC_WAY : Fld := ⟨0x24C, 30, 29⟩
def TW_LOC_INDEX : Fld := ⟨0x24C, 17, 0⟩
def TW_CMD : Fld := ⟨0x250, 31, 0⟩
def TW_RESULT : Fld := ⟨0x254, 31, 0⟩
def TR_KEY (i : Nat) : Fld := ⟨(0x280 + i * 0x4), 31, 0⟩
def TR_META : Fld := ⟨0x2B8, 31, 0⟩
def TR_DATA (i : Nat) : Fld := ⟨(0x2BC + i * 0x4), 31, 0⟩
def FAIL_LOG : Fld := ⟨0x2D0, 31, 0⟩
def MR_TC : Fld := ⟨0x300, 23, 0⟩
def MR_TE : Fld := ⟨0x304, 23, 0⟩
def MR_CNT (i : Nat) : Nat := (0x308 + i * 0x8)
def METERED : Nat := 0x400
def METER_RED_DROP : Nat := 0x408
def METER_YELLOW_DROP : Nat := 0x410
def METER_INVALID : Nat := 0x418
def FILT_INVALID : Nat := 0x420
def FILT_BLOCK_DROP : Nat := 0x428
def FILT_SDU_DROP : Nat := 0x430
def FILT_SDU_LATE : Nat := 0x438
def LEN_RETURNS : Nat := 0x440
end Reg.METER

namespace Reg.CIPH
def CSTAT : Fld := ⟨0x040, 31, 0⟩
def CSTAT_READY : Fld := ⟨0x040, 31, 31⟩
def CSTAT_KAT_BUSY : Fld := ⟨0x040, 30, 30⟩
def CSTAT_KAT_FAILMASK : Fld := ⟨0x040, 15, 0⟩
def CCTRL : Fld := ⟨0x044, 31, 31⟩
def CCTRL_KAT : Fld := ⟨0x044, 31, 31⟩
def PN_THRESH : Fld := ⟨0x048, 31, 0⟩
def XPN_THRESH_HI : Fld := ⟨0x04C, 31, 0⟩
def BYPASS0 : Fld := ⟨0x050, 31, 0⟩
def BYPASS0_EN : Fld := ⟨0x050, 16, 16⟩
def BYPASS0_ETYPE : Fld := ⟨0x050, 15, 0⟩
def BYPASS1 (i : Nat) : Fld := ⟨(0x054 + i * 0x4), 31, 0⟩
def BYPASS1_EN (i : Nat) : Fld := ⟨(0x054 + i * 0x4), 16, 16⟩
def BYPASS1_ETYPE (i : Nat) : Fld := ⟨(0x054 + i * 0x4), 15, 0⟩
def PN_LOG : Fld := ⟨0x060, 31, 0⟩
def PN_LOG_VALID : Fld := ⟨0x060, 31, 31⟩
def PN_LOG_EXH : Fld := ⟨0x060, 30, 30⟩
def PN_LOG_AN : Fld := ⟨0x060, 13, 12⟩
def PN_LOG_SC : Fld := ⟨0x060, 9, 0⟩
def DEVKEY_KCV : Fld := ⟨0x064, 31, 0⟩
def JOBS_DONE : Nat := 0x0C0
def JOB_ERRS : Nat := 0x0C8
def PN_LOG_LOST : Nat := 0x0D0
def PCFG (i : Nat) : Fld := ⟨(0x100 + i * 0x8), 31, 0⟩
def PCFG_MACSEC_EN (i : Nat) : Fld := ⟨(0x100 + i * 0x8), 31, 31⟩
def PCFG_RX_UNTAGGED (i : Nat) : Fld := ⟨(0x100 + i * 0x8), 30, 30⟩
def PCFG_TX_UNPROT (i : Nat) : Fld := ⟨(0x100 + i * 0x8), 29, 29⟩
def PCFG_TXSC_EN (i : Nat) : Fld := ⟨(0x100 + i * 0x8), 28, 28⟩
def PCFG_TXSC (i : Nat) : Fld := ⟨(0x100 + i * 0x8), 11, 0⟩
def PRX (i : Nat) : Fld := ⟨(0x104 + i * 0x8), 31, 0⟩
def PRX_RXDEF_EN (i : Nat) : Fld := ⟨(0x104 + i * 0x8), 31, 31⟩
def PRX_RXDEF (i : Nat) : Fld := ⟨(0x104 + i * 0x8), 11, 0⟩
def TW_KEY (i : Nat) : Fld := ⟨(0x200 + i * 0x4), 31, 0⟩
def TW_META : Fld := ⟨0x238, 31, 0⟩
def TW_META_COPY : Fld := ⟨0x238, 31, 31⟩
def TW_META_KLEN : Fld := ⟨0x238, 29, 24⟩
def TW_META_PROFILE : Fld := ⟨0x238, 23, 16⟩
def TW_META_TAG : Fld := ⟨0x238, 15, 0⟩
def TW_DATA (i : Nat) : Fld := ⟨(0x23C + i * 0x4), 31, 0⟩
def TW_LOC : Fld := ⟨0x24C, 31, 0⟩
def TW_LOC_STASH : Fld := ⟨0x24C, 31, 31⟩
def TW_LOC_WAY : Fld := ⟨0x24C, 30, 29⟩
def TW_LOC_INDEX : Fld := ⟨0x24C, 11, 0⟩
def TW_CMD : Fld := ⟨0x250, 31, 0⟩
def TW_RESULT : Fld := ⟨0x254, 31, 0⟩
def TR_KEY (i : Nat) : Fld := ⟨(0x280 + i * 0x4), 31, 0⟩
def TR_META : Fld := ⟨0x2B8, 31, 0⟩
def TR_DATA (i : Nat) : Fld := ⟨(0x2BC + i * 0x4), 31, 0⟩
def FAIL_LOG : Fld := ⟨0x2D0, 31, 0⟩
def SC_CIDX : Fld := ⟨0x300, 9, 0⟩
def SC_CNT (i : Nat) : Nat := (0x308 + i * 0x8)
def JQ_BASE_LO (i : Nat) : Fld := ⟨(0x400 + i * 0x40), 31, 6⟩
def JQ_BASE_HI (i : Nat) : Fld := ⟨(0x404 + i * 0x40), 31, 0⟩
def JQ_CFG (i : Nat) : Fld := ⟨(0x408 + i * 0x40), 31, 0⟩
def JQ_CFG_EN (i : Nat) : Fld := ⟨(0x408 + i * 0x40), 31, 31⟩
def JQ_CFG_SIZE_LOG2 (i : Nat) : Fld := ⟨(0x408 + i * 0x40), 3, 0⟩
def JQ_TAIL (i : Nat) : Fld := ⟨(0x40C + i * 0x40), 15, 0⟩
def JQ_HEAD (i : Nat) : Fld := ⟨(0x410 + i * 0x40), 15, 0⟩
def JQ_STAT (i : Nat) : Fld := ⟨(0x414 + i * 0x40), 31, 0⟩
def JQ_STAT_STOPPED (i : Nat) : Fld := ⟨(0x414 + i * 0x40), 31, 31⟩
def JQ_STAT_STOP_IDX (i : Nat) : Fld := ⟨(0x414 + i * 0x40), 15, 0⟩
def RX_BYPASS (i : Nat) : Nat := (0x800 + i * 0x40)
def RX_UNTAGGED (i : Nat) : Nat := (0x808 + i * 0x40)
def RX_NOTAG_DROP (i : Nat) : Nat := (0x810 + i * 0x40)
def RX_BADTAG (i : Nat) : Nat := (0x818 + i * 0x40)
def RX_NO_SC (i : Nat) : Nat := (0x820 + i * 0x40)
def TX_UNPROT (i : Nat) : Nat := (0x828 + i * 0x40)
def TX_NO_SC (i : Nat) : Nat := (0x830 + i * 0x40)
def TX_SC_MISMATCH (i : Nat) : Nat := (0x838 + i * 0x40)
end Reg.CIPH

namespace Reg.CRUCC
def CH_STAT : Fld := ⟨0x040, 31, 0⟩
def CH_STAT_STATE : Fld := ⟨0x040, 31, 29⟩
def CH_STAT_STEP_FAIL : Fld := ⟨0x040, 28, 27⟩
def CH_STAT_STEP : Fld := ⟨0x040, 26, 24⟩
def CH_STAT_FREE_SLABS : Fld := ⟨0x040, 17, 0⟩
def CH_CFG : Fld := ⟨0x044, 31, 0⟩
def CH_CFG_ADDR_ORDER : Fld := ⟨0x044, 31, 30⟩
def CH_CFG_CE_RETRAIN : Fld := ⟨0x044, 15, 0⟩
def CH_REPAIR : Fld := ⟨0x048, 31, 0⟩
def CH_REPAIR_DQ0_V : Fld := ⟨0x048, 31, 31⟩
def CH_REPAIR_DQ1_V : Fld := ⟨0x048, 30, 30⟩
def CH_REPAIR_CA_V : Fld := ⟨0x048, 29, 29⟩
def CH_REPAIR_CA_LANE : Fld := ⟨0x048, 23, 16⟩
def CH_REPAIR_DQ1_LANE : Fld := ⟨0x048, 15, 8⟩
def CH_REPAIR_DQ0_LANE : Fld := ⟨0x048, 7, 0⟩
def CH_CMD : Fld := ⟨0x04C, 31, 31⟩
def CH_CMD_RETRAIN : Fld := ⟨0x04C, 31, 31⟩
def CE : Nat := 0x100
def UE : Nat := 0x108
def PARITY_ALERTS : Nat := 0x110
def REPLAY_CMDS : Nat := 0x118
def REPLAY_FAIL : Nat := 0x120
def RETRY_STALL : Nat := 0x128
def REF_FORCED : Nat := 0x130
def RETRAINS : Nat := 0x138
def LANE_REPAIRS : Nat := 0x140
def RETIRED_FRAMES : Nat := 0x148
def ROW_HITS : Nat := 0x150
def ACTIVATES : Nat := 0x158
end Reg.CRUCC

namespace Reg.CRUCH
def HSTAT : Fld := ⟨0x040, 31, 0⟩
def HSTAT_STATE : Fld := ⟨0x040, 31, 29⟩
def HSTAT_FREE_SLABS : Fld := ⟨0x040, 22, 0⟩
def HCFG : Fld := ⟨0x044, 15, 0⟩
def HCFG_STRIPE_MASK : Fld := ⟨0x044, 15, 0⟩
def CDESC_USED : Fld := ⟨0x048, 21, 0⟩
def CDESC_MAX : Fld := ⟨0x04C, 21, 0⟩
def IMG_CTRL : Fld := ⟨0x050, 31, 0⟩
def IMG_CTRL_ARM : Fld := ⟨0x050, 31, 31⟩
def IMG_CTRL_DISARM : Fld := ⟨0x050, 30, 30⟩
def IMG_STAT : Fld := ⟨0x054, 31, 0⟩
def IMG_STAT_VALID : Fld := ⟨0x054, 31, 31⟩
def IMG_STAT_COPYING : Fld := ⟨0x054, 30, 30⟩
def MOVES : Nat := 0x100
def RETURNS : Nat := 0x108
def REFUSE_STATE : Nat := 0x110
def REFUSE_DESC : Nat := 0x118
def REFUSE_SLAB : Nat := 0x120
def RETIRE_LOST : Nat := 0x128
def UE_DISCARD : Nat := 0x130
def MID_LOST : Nat := 0x138
def SLAB_LEAK : Nat := 0x140
def FREE_LOST : Nat := 0x148
def IMG_BAD : Nat := 0x150
end Reg.CRUCH

namespace Reg.CRUCP
def PHY_STAT : Fld := ⟨0x040, 31, 0⟩
def PHY_STAT_LOCKED : Fld := ⟨0x040, 31, 31⟩
def PHY_STAT_PENDING : Fld := ⟨0x040, 30, 30⟩
def PHY_STAT_POINT : Fld := ⟨0x040, 29, 28⟩
def PHY_STAT_PEND_POINT : Fld := ⟨0x040, 27, 26⟩
def PHY_STAT_TRAIN_VALID : Fld := ⟨0x040, 25, 23⟩
def PHY_STAT_STACK_TEMP : Fld := ⟨0x040, 7, 0⟩
def FREQ_CTRL : Fld := ⟨0x044, 31, 0⟩
def FREQ_CTRL_REQ : Fld := ⟨0x044, 31, 31⟩
def FREQ_CTRL_POINT : Fld := ⟨0x044, 1, 0⟩
def FREQ_CHANGES : Nat := 0x100
def FREQ_DEFERRED : Nat := 0x108
def FREQ_SUPERSEDED : Nat := 0x110
end Reg.CRUCP

namespace Reg.TXRING
def BASE_LO : Fld := ⟨0x000, 31, 5⟩
def BASE_HI : Fld := ⟨0x004, 31, 0⟩
def CFG : Fld := ⟨0x008, 31, 0⟩
def CFG_EN : Fld := ⟨0x008, 31, 31⟩
def CFG_IRQ_EN : Fld := ⟨0x008, 30, 30⟩
def CFG_VECTOR : Fld := ⟨0x008, 29, 24⟩
def CFG_SIZE_LOG2 : Fld := ⟨0x008, 19, 16⟩
def CFG_BENCH : Fld := ⟨0x008, 14, 12⟩
def TAIL : Fld := ⟨0x00C, 15, 0⟩
def HEAD : Fld := ⟨0x010, 15, 0⟩
def STAT : Fld := ⟨0x014, 31, 0⟩
def STAT_STOPPED : Fld := ⟨0x014, 31, 31⟩
def STAT_IDLE : Fld := ⟨0x014, 30, 30⟩
def STAT_IRQ : Fld := ⟨0x014, 29, 29⟩
def STAT_STOP_IDX : Fld := ⟨0x014, 15, 0⟩
def COAL : Fld := ⟨0x018, 15, 0⟩
def FRAMES : Nat := 0x020
def DROPS : Nat := 0x028
end Reg.TXRING

namespace Reg.RXRING
def BASE_LO : Fld := ⟨0x000, 31, 5⟩
def BASE_HI : Fld := ⟨0x004, 31, 0⟩
def CFG : Fld := ⟨0x008, 31, 0⟩
def CFG_EN : Fld := ⟨0x008, 31, 31⟩
def CFG_IRQ_EN : Fld := ⟨0x008, 30, 30⟩
def CFG_VECTOR : Fld := ⟨0x008, 29, 24⟩
def CFG_SIZE_LOG2 : Fld := ⟨0x008, 19, 16⟩
def CFG_BUF_SIZE : Fld := ⟨0x008, 5, 0⟩
def TAIL : Fld := ⟨0x00C, 15, 0⟩
def HEAD : Fld := ⟨0x010, 15, 0⟩
def STAT : Fld := ⟨0x014, 31, 0⟩
def STAT_STOPPED : Fld := ⟨0x014, 31, 31⟩
def STAT_IDLE : Fld := ⟨0x014, 30, 30⟩
def STAT_IRQ : Fld := ⟨0x014, 29, 29⟩
def STAT_STOP_IDX : Fld := ⟨0x014, 15, 0⟩
def COAL : Fld := ⟨0x018, 15, 0⟩
def FRAMES : Nat := 0x020
def DROPS : Nat := 0x028
end Reg.RXRING

namespace Reg.MSIX
def ADDR_LO (i : Nat) : Fld := ⟨(0x000 + i * 0x10), 31, 0⟩
def ADDR_HI (i : Nat) : Fld := ⟨(0x004 + i * 0x10), 31, 0⟩
def DATA (i : Nat) : Fld := ⟨(0x008 + i * 0x10), 31, 0⟩
def VCTL (i : Nat) : Fld := ⟨(0x00C + i * 0x10), 0, 0⟩
def VCTL_MASK (i : Nat) : Fld := ⟨(0x00C + i * 0x10), 0, 0⟩
end Reg.MSIX

end Sys2Proof.Machine
end

