-- ==== Sys2Proof/Machine/Tab.lean ====
section
/-! DEFINITION. Sparse tables in one canonical form: keys strictly rising, and no entry equal to what an unlisted key
holds (`d`). Memories (Tab Byte), register files and the device's SRAM tables are all kept so. -/

namespace Sys2Proof

/-- The value at key `k`: the listed one, or the default of the key. -/
def Tab.get {α : Type} (d : Nat → α) : Tab α → Nat → α
  | [], k => d k
  | (j, v) :: t, k => if j = k then v else Tab.get d t k

/-- Put `v` at `k`, before the first larger key. -/
def Tab.ins {α : Type} : Tab α → Nat → α → Tab α
  | [], k, v => [(k, v)]
  | (j, w) :: t, k, v =>
    if k < j then (k, v) :: (j, w) :: t
    else if j = k then (k, v) :: t
    else (j, w) :: Tab.ins t k v

/-- Write `v` at `k`; the default value removes the entry. -/
def Tab.set {α : Type} [DecidableEq α] (d : Nat → α) (t : Tab α) (k : Nat) (v : α) : Tab α :=
  if v = d k then t.filter (fun e => e.1 != k) else Tab.ins t k v

/-- Keys strictly rising. -/
def Tab.sorted {α : Type} : Tab α → Bool
  | [] => true
  | [_] => true
  | (i, _) :: (j, w) :: t => decide (i < j) && Tab.sorted ((j, w) :: t)

/-- The canonical form: keys strictly rising, no listed default. -/
def Tab.wf {α : Type} [DecidableEq α] (d : Nat → α) (t : Tab α) : Bool :=
  Tab.sorted t && t.all (fun e => decide (e.2 ≠ d e.1))

/-- A run of bytes (or other entries) written from key `k` up. -/
def Tab.setList {α : Type} [DecidableEq α] (d : Nat → α) (t : Tab α) (k : Nat) : List α → Tab α
  | [] => t
  | v :: vs => Tab.setList d (Tab.set d t k v) (k + 1) vs

/-- `n` entries read from key `k` up. -/
def Tab.getList {α : Type} (d : Nat → α) (t : Tab α) (k : Nat) : Nat → List α
  | 0 => []
  | n + 1 => Tab.get d t k :: Tab.getList d t (k + 1) n

/-- The entries of the table whose keys lie in `[lo, hi)`. -/
def Tab.range {α : Type} (t : Tab α) (lo hi : Nat) : Tab α :=
  t.filter (fun e => decide (lo ≤ e.1 ∧ e.1 < hi))

/-- The table with every key that meets `p` back at its default. -/
def Tab.clear {α : Type} (t : Tab α) (p : Nat → Bool) : Tab α :=
  t.filter (fun e => !p e.1)

/-- What an unlisted cell of a byte memory reads as in this model: zero (see the assumption log). -/
def zeroByte (_ : Nat) : Byte := 0

/-- The canonical form of a byte memory. -/
abbrev Memory.wf (m : Tab Byte) : Bool := Tab.wf zeroByte m

end Sys2Proof
end

