-- ==== Sys2Proof/Machine/State.lean ====
section
/-! DEFINITION. The state of the device: every register, SRAM table, FIFO, engine and pin the spec names, as plain
data, with the queue of waiting commands; and the state right after reset. -/

namespace Sys2Proof.Machine

/-! ### Time and interrupts -/

/-- A break in the course of the time (R62, R64, R67): whether it was a stretch of invalid time or a step, where the time before
it ended (none: it was never valid), and where the time after it began. -/
structure TimeEvent where
  lost : Bool
  before : Option Nat
  after : Nat
  deriving DecidableEq, Repr

/-- The time unit (R61 to R71): the time in ns since its zero and the fraction in units of 2⁻⁴⁰ ns, the grid tick
counter, the start of the running grid tick, the next grid point, the clocks by which a time step has shortened (or, where
negative, lengthened) the running grid tick (R63), the breaks in the course of the time, latest first, the PPS pins' state, and
the source bench of the counter in free mode with bench 4's edges since bench 0's last (R65). -/
structure TimeSt where
  now : Nat := 0
  sub : Nat := 0
  tick : W64 := 0
  edge : Nat := 0
  nextEdge : Nat := 1280
  realign : Option Int := none
  hist : List TimeEvent := []
  ppsOut : Bool := false
  capSec : Nat := 0
  src : Nat := 0
  alone : Nat := 0
  deriving DecidableEq, Repr

/-- A bench's tick (R46 to R59): its local tick number, lag, clocks of the running tick and the grid length it was
cut from; grid ticks whose length a time step changed before the bench came to count them, with the clocks added (R48, R63); punty
and other headers dispatched in the tick; and the egress capture FIFO of (port, tag, time). -/
structure TickSt where
  num : W64 := 0
  lag : Nat := 0
  len : Nat := 1344
  grid : Int := 1344
  longer : List (Nat × Int) := []
  dispatched : Nat := 0
  punted : Nat := 0
  ets : List (Nat × Nat × Nat) := []
  deriving DecidableEq, Repr

/-- The interrupt messages (R523, R524): active vectors, the MSI-X pending bits, and the vectors of the messages sent,
latest first. -/
structure IrqSt where
  active : W64 := 0
  pba : W64 := 0
  sent : List Nat := []
  deriving DecidableEq, Repr

/-! ### Buffers (chapter 07) -/

/-- A buffer header (R238); `out` marks a buffer taken out of service (R258). -/
structure BufHdr where
  free : Bool := true
  refcnt : Nat := 0
  owner : Nat := 0
  pool : Nat := 0
  last : Bool := false
  retire : Bool := false
  next : Nat := 0
  len : Nat := 0
  out : Bool := false
  deriving DecidableEq, Repr

/-- A frame descriptor (R241). The model's own fields hold what the frame's reception has yet to tell: `port` is the
ingress port (511 < port: the CPU port), `done` that reception has ended, `bad` why the frame is bad (the number of its
reason counter of R299, 13 to 19; 21 too long for its filter), `noCt` that conditions 5 to 7 of R100 forbid
cut-through, `meter` what an unknown length was charged (meter, TC, TE), `filter` the filter that waits for the length,
`tagWait` that the frame's tag result is not known, `secured` that a receive SC protects it, `cap` the bytes that a truncated
mirror copy's leading buffers cover (0: the whole chain), `begun` that a copy of the frame has begun, and `shut` that a chain
extension was refused, so that no further byte is stored (R237). -/
structure Desc where
  head : Nat := 0
  len : Nat := 0
  owner : Nat := 0
  holders : Nat := 0
  err : Bool := false
  mir : Bool := false
  epoch : Nat := 0
  passes : Nat := 0
  cls : Nat := 0
  colour : Nat := 0
  stream : Nat := 0
  streamV : Bool := false
  ts : Nat := 0
  port : Nat := 0x1FF
  done : Bool := false
  bad : Nat := 0
  noCt : Bool := false
  meter : Option (Nat × Nat × Nat) := none
  filter : Option Nat := none
  tagWait : Bool := false
  secured : Bool := false
  cap : Nat := 0
  begun : Bool := false
  shut : Bool := false
  deriving DecidableEq, Repr

/-- What stage 1 found of a MACsec frame in reception (R378): device-local SC, AN, the SA's key of `keyLen` bytes at that
moment, the PN field, E and the confidentiality offset, the SL field, the SecTAG's length, the SC entry, the IV, and how often
the SA had been invalidated (R376). -/
structure RxSec where
  ent : Nat := 0
  sc : Nat := 0
  an : Nat := 0
  key : Nat := 0
  keyLen : Nat := 0
  iv : List Byte := []
  pn32 : Nat := 0
  enc : Bool := false
  off : Nat := 0
  sl : Nat := 0
  tag : Nat := 8
  gen : Nat := 0
  deriving DecidableEq, Repr

/-- A descriptor that a transmit ring holds (R529, R533): the ring, the position of the descriptor in host memory, its 32 bytes,
the frame, whether its ring has not been restarted since (so that its HEAD moves past it), and whether it has been dropped. -/
structure CpuTake where
  ring : Nat
  at_ : Nat
  desc : List Byte
  frame : List Byte
  fresh : Bool := true
  gone : Bool := false
  deriving DecidableEq, Repr

/-- A waiting allocation request (R249, R250): the requester's slot, its owner, the length when known, the allocator clock in
which it was made, and what a grant is for: the admission of a header, with the MAC that receives it (512 + port: the
preemptable one), the frame's bytes so far as it is stored, whether it is whole, its timestamp and MACsec state, the tick and
number of the admission, and for a whole frame whether its ICV and SL are right and its secure octets; or a bridge transfer; or
a transmit ring's descriptor; or, for a requester that acts on its answer in its own command, a frame whose descriptor takes
fields `d`, a mirror copy's descriptor alone, a chain extension, or a buffer of a pool. -/
inductive ReqFor where
  | header (mac : Nat) (bytes : List Byte) (whole : Bool) (ts : Nat) (sec : Option RxSec) (tick no : Nat)
      (check : Bool × Bool × Nat)
  | bridge (team recv : Nat)
  | cpu (t : CpuTake)
  | frame (d : Desc)
  | mirror (d : Desc)
  | chain
  | pool (p : Nat)
  deriving DecidableEq, Repr

structure AllocReq where
  slot : Nat
  owner : Nat
  length : Option Nat
  clk : Nat
  what : ReqFor
  deriving DecidableEq, Repr

/-- What an allocation request is answered (R249, R251): a grant with the descriptor and the buffers, or an empty reply for
want of a descriptor or of buffers. -/
inductive Answer where
  | granted (desc : Nat) (bufs : List Nat)
  | noDesc
  | noBuf
  deriving DecidableEq, Repr

/-- A bench's buffer pool manager (chapter 07): headers by first granule, the four free lists and the cullet list
(head first), descriptors by index, the accounts' CELLS and DESCS, waiting requests, the allocator's clock, a result
of the mailbox not yet final, references host software holds, a build or a rebuild in progress (with the buffers freed
during it), pools whose lists wait to be rebuilt after it, and requests answered whose requesters have yet to act. -/
structure BufSt where
  building : Bool := false
  hdrs : Tab BufHdr := []
  free : Tab (List Nat) := []
  cullet : List Nat := []
  descs : Tab (Option Desc) := []
  cells : Tab Nat := []
  dused : Tab Nat := []
  reqs : List AllocReq := []
  clk : Nat := 0
  mbox : Option (Nat × Nat × Nat) := none
  hostRefs : Tab Nat := []
  rebuild : Option (Nat × List Nat) := none
  alsoBad : List (Nat × List Nat) := []
  answers : List (AllocReq × Answer) := []
  deriving DecidableEq, Repr

/-! ### Switch core, bridge, mirror (chapter 08) -/

/-- What a frame's FRER function needs past stage 5 (R346): FRER_FN, SEQ_IDX, RTAG_PUSH, RTAG_POP, the received
number (m7) and whether an R-TAG was received. -/
structure Frer where
  fn : Nat := 0
  seqIdx : Nat := 0
  push : Bool := false
  pop : Bool := false
  seq : Nat := 0
  tagged : Bool := false
  deriving DecidableEq, Repr

/-- A copy: its queue entry (R274). `port` above 511 is CPU ring `port - 512`; `cls` its class; `begun` marks the copy
whose first byte has gone to the MAC; `held` that WIN_HELD has counted it. -/
structure Copy where
  port : Nat := 0
  cls : Nat := 0
  edits : List Nat := []
  ct : Bool := false
  mir : Bool := false
  markCe : Bool := false
  ipv6 : Bool := false
  l3off : Nat := 0
  ecn : Bool := false
  onestep : Bool := false
  ptpOff : Nat := 0
  colour : Nat := 0
  cells : Nat := 0
  trunc : Nat := 0
  frerOp : Nat := 0
  seq : Nat := 0
  etsEn : Bool := false
  etsTag : Nat := 0
  scEn : Bool := false
  sc : Nat := 0
  bench : Nat := 0
  desc : Nat := 0
  reason : Nat := 0
  begun : Bool := false
  held : Bool := false
  deriving DecidableEq, Repr

/-- A hand-off record (R266): the frame's descriptor and bench, its ingress bench and admission tick, its copies for
the receiving bench, its FRER function, and what an egress learn needs (R197): domain, source address and port. -/
structure HandRec where
  bench : Nat := 0
  desc : Nat := 0
  src : Nat := 0
  tick : Nat := 0
  copies : List Copy := []
  frer : Frer := {}
  learn : Option (Nat × Nat × Nat) := none
  deriving DecidableEq, Repr

/-- A copy in MID (R409, R411): the queue entry and descriptor of its spill record, its bytes, its MOVE_SEQ, the first and last
of the queue's slabs that hold it and the unit it starts at, the holder's descriptor on chip until the writes have left the
alert window, the writes not yet out of a retry window plus one until the holder of its frame is released (`pend`), and whether
it is being read or bad. -/
structure MidRec where
  copy : Copy := {}
  desc : Desc := {}
  data : List Byte := []
  moveSeq : Nat := 0
  first : Nat := 0
  last : Nat := 0
  start : Nat := 1
  owner : Nat := 0
  pend : Nat := 0
  reading : Bool := false
  bad : Bool := false
  deriving DecidableEq, Repr

/-- A slab of a queue in the crucible (R405, R408): its pseudo-channel and number, whether it is closed, the offset of
the first record that begins in it and that record's MOVE_SEQ, and the pseudo-channel and number of the queue's next slab. -/
structure Slab where
  chan : Nat := 0
  no : Nat := 0
  closed : Bool := false
  firstRec : Nat := 0
  firstSeq : Nat := 0
  next : Option (Nat × Nat) := none
  deriving DecidableEq, Repr

/-- An egress queue (R277): HEAD, MID and STAGE oldest first, the WRED average with 8 fraction bits, a return round in
progress (R281), whether the queue is in the condition of R282, the next MOVE_SEQ, its slabs in the crucible oldest
first with the number of the first, the next unit of the tail slab, and the pseudo-channel of its last slab. -/
structure Queue where
  head : List Copy := []
  mid : List MidRec := []
  stage : List Copy := []
  avg : Nat := 0
  round : Bool := false
  starved : Bool := false
  moveSeq : Nat := 0
  slabs : List Slab := []
  slabBase : Nat := 0
  tailUnit : Nat := 64
  lastChan : Option Nat := none
  deriving DecidableEq, Repr

/-- A bench's side of the switch core: hand-off records waiting to be accepted, with their source (0–3: the team's
benches, 4: the bridge); copies waiting for sequence recovery (R352); copies bound to CPU rings that wait for their
frame's tag (R382); and the WRED generator (R285). -/
structure CoreSt where
  inbox : List (Nat × HandRec) := []
  recov : List (Copy × Frer × Option (Nat × Nat × Nat)) := []
  cpuWait : List Copy := []
  lfsr : W16 := 0xACE1
  deriving DecidableEq, Repr

/-- A bridge transfer at its receiving side (R271); `bad` and `sdu` are the sending side's finding that the frame is bad
(the number of its reason counter) or too long for its filter, and `begun` that a copy of it has begun here (R308). -/
structure Xfer where
  hand : HandRec
  owner : Nat
  desc : Option Nat := none
  answered : Bool := false
  handed : Bool := false
  bytes : Nat := 0
  bad : Nat := 0
  sdu : Bool := false
  begun : Bool := false
  deriving DecidableEq, Repr

/-- One direction of the bridge to one receiving bench (R25, R269 to R272): the send FIFO, bytes of its head already
sent, credits held, whether the stall timer has expired since the last credit, and the transfer at the receiver. -/
structure BridgeSt where
  fifo : List HandRec := []
  sent : Nat := 0
  cred : Nat := 128
  expired : Bool := false
  xfer : Option Xfer := none
  deriving DecidableEq, Repr

/-- The mirror settings a bench has committed (R297) and the MIRR writes waiting for their tick: (tick, offset,
value). -/
structure MirrorSt where
  mirr : Tab W32 := []
  pend : List (Nat × Nat × W32) := []
  deriving DecidableEq, Repr

/-! ### Gates, scheduling, policing, redundancy (chapters 09 and 10) -/

/-- A port's gate control lists (R318): the two banks by `bank * 1024 + index`, the values a pending change captured
(base, cycle, extension, length), whether a change has completed since full reset, TIME_WAIT entered, the high
word that GCL_LO latched, and the last entry boundary whose event has happened. -/
structure GateSt where
  banks : Tab Nat := []
  pend : Option (Nat × Nat × Nat × Nat) := none
  first : Bool := false
  waiting : Bool := false
  hiLatch : W32 := 0
  seen : Option Nat := none
  deriving DecidableEq, Repr

/-- A port's scheduler (R334, R335): virtual time, finish tags by class, the MAC hold; the bytes of the last frame the MAC
sent; and the frame number of its next preemptable frame (R90). -/
structure SchedSt where
  v : Nat := 0
  tags : Tab Nat := []
  hold : Bool := false
  wire : List Byte := []
  frameNo : Nat := 0
  deriving DecidableEq, Repr

/-- A meter (R309): its 128-bit entry with MARK_RED, the committed buckets in 1/1,024 byte, and its counters. -/
structure Meter where
  w : Nat := 0
  tc : Nat := 0
  te : Nat := 0
  g : Nat := 0
  y : Nat := 0
  r : Nat := 0
  deriving DecidableEq, Repr

/-- A stream filter (R306): its 64-bit entry with BLOCKED, and its counters. -/
structure Filter where
  w : Nat := 0
  matched : Nat := 0
  sdu : Nat := 0
  meterDrop : Nat := 0
  deriving DecidableEq, Repr

/-- A change that the sequence unit makes of an entry (R348, R353, R354, R356): GEN_SEQ advances, or takes 0; a reset; and of a
copy of number `n` passed at the unit count `u`, the first after a reset, one `d` ahead of RCV_SEQ, one `k` behind it, one of
match recovery. -/
inductive SeqOp where
  | advance
  | zero
  | reset
  | first (n u : Nat)
  | ahead (d n u : Nat)
  | behind (k u : Nat)
  | matched (n u : Nat)
  deriving DecidableEq, Repr

/-- A change of a meter, filter or sequence entry that has not committed (R315, R355); one of a sequence entry stays listed
until every change of the entry made before it has committed too. -/
inductive TeamChange where
  | charge (idx tc te colour : Nat)
  | giveBack (idx tc te : Nat)
  | markRed (idx : Nat)
  | matched (idx : Nat)
  | sduDrop (idx : Nat) (block : Bool)
  | meterDrop (idx : Nat)
  | seq (idx : Nat) (op : SeqOp)
  deriving DecidableEq, Repr

/-- What a team holds once for its benches: meters, filters and the sequence table as committed, the changes not yet
committed with their tick, the tick numbers committed so far, and the watch slots' baselines (PASSED, DISCARDED and
whether the next test is skipped). -/
structure TeamSt where
  meters : Tab Meter := []
  filters : Tab Filter := []
  seqs : Tab Nat := []
  changes : List (Nat × TeamChange) := []
  done : Nat := 0
  watch : Tab (Nat × Nat × Bool) := []
  failed : Bool := false
  deriving DecidableEq, Repr

/-! ### Lookup tables (chapters 05 and 06) -/

/-- An entry of a hash table (R149 to R152): its lookup bytes, whether it is wide, and its action or result. -/
structure HEntry where
  key : List Byte := []
  wide : Bool := false
  data : Nat := 0
  deriving DecidableEq, Repr

/-- A hash table: slots by `way * slotsPerWay + index` (a wide entry stands at both slots of its pair) and the stash,
oldest entry first. -/
structure HTab where
  slots : Tab (Option HEntry) := []
  stash : List HEntry := []
  deriving DecidableEq, Repr

/-- The tables as one bench has committed them: its replica of the team copy (R26) and its own MAC table; the route
classes and the active rule bank as committed. -/
structure TabSt where
  bank0 : HTab := {}
  bank1 : HTab := {}
  route : HTab := {}
  sid : HTab := {}
  mac : HTab := {}
  prof : Tab Nat := []
  spread : Tab Nat := []
  indir : Tab Nat := []
  dom : Tab Nat := []
  flood : Tab Nat := []
  ctx : Tab Nat := []
  domSig : Tab Nat := []
  floodSig : Tab Nat := []
  ctxSig : Tab Nat := []
  rtclass : Tab Nat := []
  active : Nat := 0
  deriving DecidableEq, Repr

/-- A learn request at a bench's learn unit (R197): domain, source address, ingress port, the frame's descriptor and
bench, and whether the frame has ended with a receive error. -/
structure LearnReq where
  dom : Nat
  addr : Nat
  port : Nat
  bench : Nat
  desc : Nat
  bad : Bool
  deriving DecidableEq, Repr

/-- A change a learn unit has decided in the running tick (R199, R202): the entry's port, whether it is locked, whether it sets
HIT, and for a move that was not applied the port it would have moved to and its tick. -/
structure LearnOp where
  dom : Nat
  addr : Nat
  port : Nat
  lock : Bool := false
  hit : Bool := false
  flap : Option (Nat × Nat) := none
  deriving DecidableEq, Repr

/-- A bench's learning, aging and search state (chapter 06): waiting learn requests and those handled this tick; the
tick's learn operations and destination hits; the move tracker (domain, address, last moves as (tick, port before));
whether the tracker starts at the next edge; the flap log; the scanner's position, the ticks to its next visit and the
positions visited this tick; FLUSH_ON_DOWN ports with their tick numbers; slots found uncorrectable; and the search mailbox's
position, command in progress with its result, and whether a command has been lost. -/
structure FdbSt where
  reqs : List LearnReq := []
  handled : Nat := 0
  ops : List LearnOp := []
  hits : List (Nat × Nat) := []
  tracker : List (Nat × Nat × List (Nat × Nat)) := []
  tracking : Bool := true
  flapLog : List (Nat × Nat × Nat × Nat × Nat) := []
  pos : Nat := 0
  wait : Nat := 447
  visited : List Nat := []
  flushPorts : List (Nat × Nat) := []
  badSlots : List (Nat × List Byte) := []
  walkPos : Nat := 0
  walk : Option (List Nat) := none
  lost : Bool := false
  deriving DecidableEq, Repr

/-- The team's signature scrubber (R216): next block, ticks to the next check, blocks whose last check differed,
blocks reported, and the log. -/
structure SigSt where
  pos : Nat := 0
  wait : Nat := 1
  differed : List Nat := []
  reported : List Nat := []
  log : List (Nat × Nat) := []
  deriving DecidableEq, Repr

/-- What a command counted at a hub does (R53, R181, R362, R221, R261, R174, R522). -/
inductive CmdKind where
  | table | sq | flush | walk | mbox | rtclass | snap
  deriving DecidableEq, Repr

/-- A host command held by a hub until it is final (R181 to R184, R221, R261, R362, R174): the page it was written on,
its table and operation; its key bytes, data and argument words (TW_META below TW_LOC, SRCH_SEL below SRCH_DOM, SQ_IDX)
and bench mask as they stood at the write; its tick number; the units that have still to commit it (0 to 7 benches,
8 and 9 teams, 10 to 13 clusters); each unit's status; the moves, position and count it reports; whether a later command
of the page has taken over its result registers; the teams in whose copy its write is undefined, with what it then stores and
whether it changes nothing there (R167); and whether a BCMD's test passes. -/
structure HostCmd where
  kind : CmdKind
  page : Nat
  table : Nat := 0
  op : Nat := 0
  key : List Byte := []
  data : Nat := 0
  arg : Nat := 0
  mask : Nat := 0
  tick : Nat := 0
  left : List Nat := []
  stats : List (Nat × Nat) := []
  moves : Nat := 0
  stash : Bool := false
  way : Nat := 0
  index : Nat := 0
  count : Nat := 0
  stale : Bool := false
  open_ : List Nat := []
  openData : Nat := 0
  void : Bool := false
  pass : Bool := false
  deriving DecidableEq, Repr

/-- A host access that a team hub has yet to take (R31, R53): a command held by PCIe flow control; or an access behind one, in
the order of arrival: a write of a word, in which the bits of `keep` stand as they are; a write of BCMD with whether its test
passes; a read. -/
inductive HubAcc where
  | cmd (c : HostCmd)
  | write (page off : Nat) (v keep : W32)
  | mbox (bench v : Nat) (pass : Bool)
  | read (page off : Nat)
  deriving DecidableEq, Repr

/-- The hubs (R31, R53, R181): commands not yet final in order of acceptance, accesses that the hubs have yet to take, the
team hubs that are faulty, the absent hubs for which HUB_TIMEOUT has been raised (R526), snapshots and counter clears
to commit (R521): page, tick, snapshot, clear; and the writes accepted in a grid tick, with that tick: by hub, and for the
hash tables of R155 (`HostCmd.quota`). -/
structure HubSt where
  cmds : List HostCmd := []
  held : List HubAcc := []
  faulty : List Nat := []
  reported : List Nat := []
  snaps : List (Nat × Nat × Bool × Bool) := []
  quota : Tab (Nat × Nat) := []
  deriving DecidableEq, Repr

/-- A rule-set swap of a team copy (R165): its tick number, the benches that have still to commit it, and whether it applies to
both copies (R168). -/
structure SwapSt where
  tick : Nat := 0
  left : List Nat := []
  both : Bool := false
  deriving DecidableEq, Repr

/-! ### Marver engines (chapter 04) -/

/-- The rule fields a frame carries from pass to pass (R171); an absent one is one no action has set. -/
structure HeldRule where
  mirror : Option Nat := none
  meter : Option Nat := none
  cls : Option Nat := none
  colour : Option Nat := none
  stream : Option Nat := none
  sc : Option Nat := none
  ets : Bool := false
  deriving DecidableEq, Repr

/-- What a CPU-port transmit descriptor says of its frame (R528). -/
structure CpuTx where
  ring : Nat := 0
  direct : Bool := false
  cls : Nat := 0
  dest : Nat := 0
  etsEn : Bool := false
  etsTag : Nat := 0
  lport : Nat := 0
  deriving DecidableEq, Repr

/-- An admitted header (R49, R120, R121): its port (`cpu` present for a CPU-port header), descriptor, admission tick
and number, header window, frame length when known, admission priority and DEI (R60), receive SC word (w13), passes
before this one, punty argument, epoch once dispatched, held rule fields, whether an ingress learn was issued, and the
layer offsets, metadata slots and edit list it starts from. -/
structure Header where
  port : Nat := 0
  cpu : Option CpuTx := none
  desc : Nat := 0
  tick : Nat := 0
  no : Nat := 0
  win : List Byte := []
  len : Nat := 0
  pri : Nat := 0
  dei : Bool := false
  rxsc : Nat := 0
  passes : Nat := 0
  punty : Bool := false
  arg : Nat := 0
  epoch : Nat := 0
  held : HeldRule := {}
  learn : Option Nat := none
  meterCq : Option Nat := none
  lo : List Nat := [0, 0, 0, 0, 0, 0, 0, 0]
  md : List Nat := [0, 0, 0, 0, 0, 0, 0, 0, 0, 0, 0, 0, 0, 0, 0, 0]
  edits : List Nat := []
  deriving DecidableEq, Repr

/-- A routine in an engine (R114 to R130): its header; working registers, cursor, flags, the PMT target kept for COND 9;
key with its close (profile, valid); commit queue (type, index, value); overflow counts; words, clocks and words stretched
(R117); END seen; and `base` when it runs the shipped parse graph unaltered. -/
structure Routine where
  h : Header := {}
  pc : Nat := 0
  w : List Nat := [0, 0, 0, 0, 0, 0, 0, 0, 0, 0, 0, 0, 0, 0, 0, 0]
  cur : Nat := 0
  z : Bool := false
  c : Bool := false
  hit : Bool := false
  s : Bool := false
  kept : Nat := 0
  key : List Byte := []
  keyOver : Bool := false
  closed : Option Nat := none
  cq : List (Nat × Nat × Nat) := []
  cqOvf : Nat := 0
  editOvf : Nat := 0
  words : Nat := 0
  clocks : Nat := 0
  stretch : Nat := 0
  ended : Bool := false
  base : Bool := true
  deriving DecidableEq, Repr

/-- A bench's marver pool: admission FIFO, punty FIFO, the 24 engines, routines that have ended and hold their results
(R112), the next admission number, uncorrectable words (address, copy), the scrubber's position, and whether the
image is held (R144). -/
structure MarverSt where
  fifo : List Header := []
  punty : List Header := []
  engines : Tab (Option Routine) := []
  results : List Routine := []
  next : Nat := 0
  bad : List (Nat × Nat) := []
  scrub : Nat := 0
  deriving DecidableEq, Repr

/-- The loaded image (R142, R143): what the patch bundle wrote over the base image's control store, dispatch table and
PMT. The image is the same in every bench. -/
structure ImageSt where
  words : Tab (Option W192) := []
  disp : Tab (Option W32) := []
  pmt : Tab (Option (BitVec 39)) := []
  deriving DecidableEq, Repr

/-! ### Ports, lanes, MDIO (chapter 03) -/

/-- The frame that a MAC is receiving: its window has been offered for admission (`active`), the allocator has still to
answer, the descriptor granted, its timestamp, and its MACsec state; and its own descriptor as it was when every holder had
released it before the frame's end (`desc` is then a mirror copy's that still shares the chain). -/
structure RxSt where
  active : Bool := false
  desc : Option Nat := none
  gone : Option Desc := none
  waiting : Bool := false
  ts : Nat := 0
  sec : Option RxSec := none
  deriving DecidableEq, Repr

/-- The receive side of a port's link (R80 to R93): block lock or code-group sync, remote and local fault received, FEC
lock, Clause 37 result (0 incomplete, 1 complete, 2 partner half duplex only), the in-band word (up, speed code, half
duplex) and whether the device acknowledges one; the MAC merge reassembly (SMD frame number, next fragment, bytes), and that a
verify request waits for its response (R90); and the frames sent on a lane looped at its near end that have still to be
received (R107). -/
structure LinkSt where
  lock : Bool := false
  remote : Bool := false
  loc : Bool := false
  fecLock : Bool := false
  an : Nat := 0
  up : Bool := false
  speed : Nat := 0
  half : Bool := false
  ack : Bool := false
  asm : Option (Nat × Nat × List Byte) := none
  owes : Bool := false
  looped : List (List Byte) := []
  deriving DecidableEq, Repr

/-! ### Cipher clusters (chapter 11) -/

/-- A key slot (R370). -/
structure KeySlot where
  loaded : Bool := false
  len : Nat := 0
  use : Nat := 0
  gen : Nat := 0
  invoc : Nat := 0
  key : Nat := 0
  salt : Nat := 0
  deriving DecidableEq, Repr

/-- The protection a copy began with (R372, R376): cluster-local SC, SC and SA entries, key slot, and PN. -/
structure TxSec where
  sc : Nat := 0
  ent : Nat := 0
  sa : Nat := 0
  key : KeySlot := {}
  pn : Nat := 0
  deriving DecidableEq, Repr

/-- A copy whose first byte the MAC has sent (R328): the copy, its class, its protection, its egress timestamp, once it is to
leave marked, the reason counter's number and the bytes stored then (R290), the SMD that its running fragment began with, none
for an express frame (R90), the bytes gone before that fragment (R330), and that its gate has closed on it (R333). -/
structure TxSt where
  copy : Copy := {}
  cls : Nat := 0
  sec : Option TxSec := none
  ts : Nat := 0
  marked : Option (Nat × Nat) := none
  smd : Option Smd := none
  gone : Nat := 0
  shut : Bool := false
  deriving DecidableEq, Repr

/-- A change of an SA by a frame that has not committed (R376): the tick, the SA, and its new NEXT_PN and state bits. -/
structure SaUpdate where
  bench : Nat := 0
  tick : Nat
  sa : Nat
  pn : Nat
  thresh : Bool := false
  exh : Bool := false
  deriving DecidableEq, Repr

/-- A received frame whose tag result is not yet known (R379); it has no descriptor where its allocation was refused, and
`gone` is its descriptor when every holder has released it; `mac` is the port, or 512 + port for the preemptable MAC. -/
structure TagWait where
  port : Nat
  mac : Nat := port
  desc : Option Nat
  gone : Option Desc := none
  sec : RxSec
  tagOk : Bool
  slOk : Bool
  octets : Nat
  deriving DecidableEq, Repr

/-- A cipher cluster: SC and SA entries and key slots as committed, how often each SA has been invalidated, frames' changes of
SAs not yet committed, tag results not yet known, the PN log, the device key (R393), and the job queue served last (R387). -/
structure CiphSt where
  scs : Tab Nat := []
  sas : Tab Nat := []
  keys : Tab KeySlot := []
  gens : Tab Nat := []
  ups : List SaUpdate := []
  tags : List TagWait := []
  pnLog : List Nat := []
  devKey : Nat := 0
  jobLast : Nat := 15
  deriving DecidableEq, Repr

/-! ### Crucible (chapter 12) -/

/-- Commands of one copy at a pseudo-channel (R417): write or read, the queue's key, the copy's MOVE_SEQ (2³² for a slab header,
a link entry or a free-list word), and the unit addresses of those that have not left the window, in order. -/
structure RetryRec where
  write : Bool
  queue : Nat
  seq : Nat
  units : List Nat
  deriving DecidableEq, Repr

/-- A pseudo-channel: free slabs (those never used from `fresh` up, then those freed, oldest first), open rows by bank,
postponed refreshes by bank, the retry window, requests that wait to be issued, because the window is full or the channel does
not serve (R417, R420), commands of the running replay still in the window, consecutive replays ended by an alert, the kind and
repetition of the training in progress and the last of its steps that has run, the temperature of its last training, and CE
counted in the current window of 1,024 ticks with the tick it began at. -/
structure ChanSt where
  fresh : Nat := 0
  freed : List Nat := []
  rows : Tab (Option Nat) := []
  postponed : Tab Nat := []
  retry : List RetryRec := []
  waiting : List RetryRec := []
  replay : Nat := 0
  alerts : Nat := 0
  full : Bool := true
  repeated : Bool := false
  step : Nat := 0
  temp : Nat := 0
  ce : Nat := 0
  ceFrom : Nat := 0
  toSref : Bool := false
  deriving DecidableEq, Repr

/-- The crucible table image of a team (R427): its benches' tables and active bank, and the entries of meters, stream filters and
sequence recovery, as host software has written them. -/
structure TableImage where
  tabs : List TabSt := []
  meters : Tab Nat := []
  filters : Tab Nat := []
  seqs : Tab Nat := []
  deriving DecidableEq, Repr

/-- A controller half and its spill engine: write-through armed, the copy ended and VALID due at the next edge, the
image as its full copy and the write-through since have left it (R428), image blocks whose copy in a pseudo-channel is bad,
pseudo-channels that have lost the image copies they held (R423), and the queue served last in return rounds (R412). -/
structure HalfSt where
  armed : Bool := false
  copied : Bool := false
  kept : Option TableImage := none
  badCopies : List (Nat × Nat) := []
  badChans : List Nat := []
  served : Nat := 8191
  deriving DecidableEq, Repr

/-- The HBM PHY's frequency change in progress (R425): the point, and the pseudo-channels whose training steps a change waits
for; and that STACK_TEMP has exceeded 85 °C. -/
structure PhySt where
  change : Option Nat := none
  waiting : List Nat := []
  hot : Bool := false
  deriving DecidableEq, Repr

/-! ### Power and the lehr (chapter 13) -/

/-- A power domain (R440 to R446): state (0 ON, 1 IDLE, 2 NAP, 3 OFF, 4 WAKE_FAIL), the transition in progress (target,
whether it has passed its commit point), its pending request, a latched wake's source, host requests that wait for
their edge, and whether it has slept through a LOAD of the lehr image (R468). -/
structure DomSt where
  st : Nat := 0
  trans : Option (Nat × Bool) := none
  pend : Option Nat := none
  latched : Option Nat := none
  req : List Nat := []
  stale : Bool := false
  deriving DecidableEq, Repr

/-- The device's power state: 0 RUN, 1 DOZE, 2 ANNEAL, 3 COLD; the transition in progress, whether it has passed its
commit point, the pending request, a latched wake's source, and requests that wait for the grid edge; that benches stop
admission at their next edge (`stopping`) and those that have (`closed`); the refusal log's next place and unread
entries, the ledger ring's next place and records; bits forwarded by each team in the period, and whether it ran on free
ticks; the domains that a DOZE entry puts in NAP; and what an entry has still to put to rest, in its order: the steps, each with
its domains and their targets (R453, R455). -/
structure DevSt where
  st : Nat := 0
  trans : Option Nat := none
  committed : Bool := false
  pend : Option Nat := none
  latched : Option Nat := none
  req : List Nat := []
  stopping : Bool := false
  logPos : Nat := 0
  unread : Nat := 0
  ledPos : Nat := 0
  ledHeld : Nat := 0
  bitsA : Nat := 0
  bitsB : Nat := 0
  freeTicks : Bool := false
  closed : List Nat := []
  dozed : List Nat := []
  todo : List (List (Nat × Nat)) := []
  deriving DecidableEq, Repr

/-- A gating unit of schedule-aware gating (R458 to R462): 0 not gated, 1 IDLE, 2 NAP; when it
was gated; when its last wake makes it ready; a failed power switch; and gating switched off until full reset. -/
structure SagSt where
  gated : Nat := 0
  since : Int := 0
  ready : Nat := 0
  failed : Bool := false
  off : Bool := false
  deriving DecidableEq, Repr

/-- The lehr (R463 to R468): its bytes, the changes held under HOLD (page, offset, window index, value), whether one was lost, a
LOAD that has passed and waits for the grid edge, the grid tick of the last write-through that may not be complete (R465), and the
frequency points for which it holds valid training results (R463, R467). -/
structure LehrSt where
  mem : Tab Byte := []
  held : List (Nat × Nat × Nat × W32) := []
  lost : Bool := false
  load : Bool := false
  wt : Option Nat := none
  train : Nat := 0
  deriving DecidableEq, Repr

/-! ### Boot, host, package (chapters 14 to 16) -/

/-- A fuse burn (R494): the SVNs of firmware and bundle that the fused ones are raised to, or the key to revoke. -/
inductive Burn where
  | svn (fw pb : Nat)
  | revoke (key : Nat)
  deriving DecidableEq, Repr

/-- The record of an image that has passed (R492): SHA-384 of its header and body, and the key and SVN fuses as they stood. -/
structure ImageRecord where
  digest : BitVec 384
  fuses : W32
  deriving DecidableEq, Repr

/-- The fuses beside those that BOOT.FUSE shows (R494, R495): the hashes of the four keys, and the patch key. -/
structure FuseSt where
  keyHash : List (BitVec 384) := (List.range 4).map Config.fusedKeyHash
  patchKey : BitVec 256 := Config.patchKey
  deriving DecidableEq, Repr

/-- The start sequence and the gaffer (chapter 14): the stage of R484; whether the start is warm; that self-test, HBM
initialisation and the patch have ended, and that the restore has (and whether it found everything in order); benches that take
headers; benches that a GO waits for, and whether the host gave it; that forwarding has begun since the reset (R504); that
WDOG_WARN has been raised since the last kick; the operation of the last BOOT.CMD while its result is not final, 0 for none, and
whether FL_RESULT's is not (R506); the flash command (operation, address, bytes) and the fuse burn in progress; the key of the
firmware that runs; the lehr's records of the last firmware and the last bundle that passed (R492); that a full reset is
asserted; and benches whose image an OFF has lost (R144). -/
structure BootSt where
  stage : Nat := 0
  warm : Bool := false
  self : Bool := false
  hbm : Bool := false
  patch : Bool := false
  restored : Option Bool := none
  open_ : List Nat := []
  going : List Nat := []
  goCmd : Bool := false
  forwards : Bool := false
  warned : Bool := false
  cmdWait : Nat := 0
  flWait : Bool := false
  flash : Option (Nat × Nat × List Byte) := none
  burn : Option Burn := none
  fwKey : Option Nat := none
  record : Option ImageRecord := none
  pbRecord : Option ImageRecord := none
  asserted : Bool := true
  imgLost : List Nat := []
  deriving DecidableEq, Repr

/-- The pins that hold a level, the sensors, and the supplies (chapter 16): GPIO levels driven from outside, the I2C address
straps, the sensors' last readings, THERM_TRIP_N driven low, RESET_N and PWRON_RST_N low, VCORE_S fallen, an HBM rail lost. -/
structure PinSt where
  gpio : Nat := 0
  strap : Nat := 0
  temp : Readings := {}
  trip : Bool := false
  resetLow : Bool := false
  sharedDown : Bool := false
  hbmLost : Bool := false
  deriving DecidableEq, Repr

/-- The PCIe endpoint (R510 to R524): bus master enable, MSI-X enable and function mask, D3hot. -/
structure PcieSt where
  bme : Bool := false
  msix : Bool := false
  fmask : Bool := false
  d3 : Bool := false
  deriving DecidableEq, Repr

/-- A DMA ring beyond its registers (R529 to R533): the bench served last (for a bench's entry, the transmit ring served
last), a message sent within COAL, and an interrupt waiting for its end. -/
structure RingSt where
  last : Nat := 0
  cooling : Bool := false
  waiting : Bool := false
  deriving DecidableEq, Repr

/-- The device. `pending` is the queue of waiting commands; `nonce` counts the free values drawn and `resp` holds the
data of the last completed read (the model's own fields); the other fields are the spec's. -/
structure State where
  /-- The commands waiting, first in, first out. -/
  pending : List Instr := []
  /-- Free values drawn so far. -/
  nonce : Nat := 0
  /-- The completion data of the last read command. -/
  resp : List W32 := []
  /-- Every register word, by page, offset and window index (`rkey`). -/
  regs : Tab W32 := []
  /-- Every 64-bit statistics counter, by the same key (R519). -/
  ctrs : Tab W64 := []
  /-- The held snapshots of direct counters (R521). -/
  snaps : Tab W64 := []
  /-- The counter latch of each page and path: the counter last read low, and its high word (R519). -/
  clatch : Tab (Option (Nat × W32)) := []
  /-- The data areas of the eight buffer banks, by bench and byte (R229). -/
  bank : Tab Byte := []
  /-- The time unit. -/
  time : TimeSt := {}
  /-- Vectors and messages. -/
  irq : IrqSt := {}
  /-- The page hubs. -/
  hub : HubSt := {}
  /-- Each bench's tick. -/
  tick : Tab TickSt := []
  /-- Each bench's buffer pool manager. -/
  buf : Tab BufSt := []
  /-- Each bench's side of the switch core. -/
  core : Tab CoreSt := []
  /-- The egress queues, by bench * 1024 + queue (R273). -/
  queue : Tab Queue := []
  /-- The bridge, by sending team * 4 + receiving bench of the other team. -/
  bridge : Tab BridgeSt := []
  /-- Each bench's committed mirror settings. -/
  mirror : Tab MirrorSt := []
  /-- Each port's gate control lists. -/
  gate : Tab GateSt := []
  /-- Each port's scheduler. -/
  sched : Tab SchedSt := []
  /-- What each team holds once for its benches. -/
  team : Tab TeamSt := []
  /-- Each bench's committed tables. -/
  tabs : Tab TabSt := []
  /-- Each bench's learning, aging and search. -/
  fdb : Tab FdbSt := []
  /-- Each team's signature scrubber. -/
  sig : Tab SigSt := []
  /-- Each team copy's swap in progress. -/
  swap : Tab (Option SwapSt) := []
  /-- The failure log of each table-window page (R184). -/
  failLog : Tab (List Nat) := []
  /-- Each bench's marver pool. -/
  mar : Tab MarverSt := []
  /-- The loaded marver image. -/
  image : ImageSt := {}
  /-- Each port's receive side. -/
  link : Tab LinkSt := []
  /-- The frame each MAC receives: express MACs by port, preemptable ones by 512 + port. -/
  rx : Tab RxSt := []
  /-- The copy each port's MAC sends, by port; the preempted remainder that waits, by 512 + port. -/
  tx : Tab (Option TxSt) := []
  /-- The frame in progress on each MDIO bus. -/
  mdio : Tab (Option W32) := []
  /-- Each cipher cluster. -/
  ciph : Tab CiphSt := []
  /-- Each HBM pseudo-channel. -/
  chan : Tab ChanSt := []
  /-- Each controller half. -/
  half : Tab HalfSt := []
  /-- The HBM PHY. -/
  phy : PhySt := {}
  /-- Each power domain. -/
  dom : Tab DomSt := []
  /-- The device's power state. -/
  dev : DevSt := {}
  /-- Each gating unit: transmit slices by port, egress pipeline slices by 512 + port group. -/
  sag : Tab SagSt := []
  /-- The lehr. -/
  lehr : LehrSt := {}
  /-- The start sequence and the gaffer. -/
  boot : BootSt := {}
  /-- The fuses. -/
  fuse : FuseSt := {}
  /-- The boot flash, as the complement of each byte (an erased byte is 0xFF). -/
  flash : Tab Byte := []
  /-- What the device has written to host memory by DMA. -/
  hostMem : Tab Byte := []
  /-- Pins and supplies. -/
  pins : PinSt := {}
  /-- The PCIe endpoint. -/
  pcie : PcieSt := {}
  /-- Each DMA ring: transmit 0 to 15, receive 16 to 31. -/
  ring : Tab RingSt := []
  /-- Latched words of register reads that latch others (R12), by register key. -/
  vlatch : Tab W32 := []
  deriving DecidableEq, Repr

/-- No command of this block stops the device: every effect the spec describes, an error or a refusal among them, is a
next state. -/
inductive Fault where
  deriving DecidableEq, Repr

/-- Why a command is not run. -/
inductive Refusal where
  /-- Raised by an arm of exec whose command has no meaning yet; safe, since nothing is claimed of it. -/
  | notModelled (mnemonic : String)
  deriving DecidableEq, Repr

/-- The device right after reset (see the assumption log for what stands where the spec gives no value). -/
def State.reset : State := {}

end Sys2Proof.Machine
end

