-- ==== Sys2Proof/Machine/Access.lean ====
section
/-! DEFINITION. Reading and writing one element of each array of the state. -/

namespace Sys2Proof.Machine

/-- A core side at reset: the WRED generator of bench `b` starts at 0xACE1 + b (R285). -/
def coreInit (b : Nat) : CoreSt := { lfsr := BitVec.ofNat 16 (0xACE1 + b) }
def State.coreAt (s : State) (k : Nat) : CoreSt := Tab.get coreInit s.core k
def State.putCore (s : State) (k : Nat) (v : CoreSt) : State := { s with core := Tab.set coreInit s.core k v }
def State.byteAt (s : State) (k : Nat) : Byte := Tab.get zeroByte s.bank k
def State.tickAt (s : State) (k : Nat) : TickSt := Tab.get (fun _ => ({} : TickSt)) s.tick k
def State.putTick (s : State) (k : Nat) (v : TickSt) : State := { s with tick := Tab.set (fun _ => ({} : TickSt)) s.tick k v }
def State.onTick (s : State) (k : Nat) (f : TickSt → TickSt) : State := s.putTick k (f (s.tickAt k))
def State.bufAt (s : State) (k : Nat) : BufSt := Tab.get (fun _ => ({} : BufSt)) s.buf k
def State.putBuf (s : State) (k : Nat) (v : BufSt) : State := { s with buf := Tab.set (fun _ => ({} : BufSt)) s.buf k v }
def State.onBuf (s : State) (k : Nat) (f : BufSt → BufSt) : State := s.putBuf k (f (s.bufAt k))
def State.queueAt (s : State) (k : Nat) : Queue := Tab.get (fun _ => ({} : Queue)) s.queue k
def State.putQueue (s : State) (k : Nat) (v : Queue) : State := { s with queue := Tab.set (fun _ => ({} : Queue)) s.queue k v }
def State.onQueue (s : State) (k : Nat) (f : Queue → Queue) : State := s.putQueue k (f (s.queueAt k))
def State.bridgeAt (s : State) (k : Nat) : BridgeSt := Tab.get (fun _ => ({} : BridgeSt)) s.bridge k
def State.putBridge (s : State) (k : Nat) (v : BridgeSt) : State := { s with bridge := Tab.set (fun _ => ({} : BridgeSt)) s.bridge k v }
def State.onBridge (s : State) (k : Nat) (f : BridgeSt → BridgeSt) : State := s.putBridge k (f (s.bridgeAt k))
def State.mirrorAt (s : State) (k : Nat) : MirrorSt := Tab.get (fun _ => ({} : MirrorSt)) s.mirror k
def State.putMirror (s : State) (k : Nat) (v : MirrorSt) : State := { s with mirror := Tab.set (fun _ => ({} : MirrorSt)) s.mirror k v }
def State.onMirror (s : State) (k : Nat) (f : MirrorSt → MirrorSt) : State := s.putMirror k (f (s.mirrorAt k))
def State.gateAt (s : State) (k : Nat) : GateSt := Tab.get (fun _ => ({} : GateSt)) s.gate k
def State.putGate (s : State) (k : Nat) (v : GateSt) : State := { s with gate := Tab.set (fun _ => ({} : GateSt)) s.gate k v }
def State.onGate (s : State) (k : Nat) (f : GateSt → GateSt) : State := s.putGate k (f (s.gateAt k))
def State.schedAt (s : State) (k : Nat) : SchedSt := Tab.get (fun _ => ({} : SchedSt)) s.sched k
def State.putSched (s : State) (k : Nat) (v : SchedSt) : State := { s with sched := Tab.set (fun _ => ({} : SchedSt)) s.sched k v }
def State.onSched (s : State) (k : Nat) (f : SchedSt → SchedSt) : State := s.putSched k (f (s.schedAt k))
def State.teamAt (s : State) (k : Nat) : TeamSt := Tab.get (fun _ => ({} : TeamSt)) s.team k
def State.putTeam (s : State) (k : Nat) (v : TeamSt) : State := { s with team := Tab.set (fun _ => ({} : TeamSt)) s.team k v }
def State.onTeam (s : State) (k : Nat) (f : TeamSt → TeamSt) : State := s.putTeam k (f (s.teamAt k))
def State.tabsAt (s : State) (k : Nat) : TabSt := Tab.get (fun _ => ({} : TabSt)) s.tabs k
def State.putTabs (s : State) (k : Nat) (v : TabSt) : State := { s with tabs := Tab.set (fun _ => ({} : TabSt)) s.tabs k v }
def State.onTabs (s : State) (k : Nat) (f : TabSt → TabSt) : State := s.putTabs k (f (s.tabsAt k))
def State.fdbAt (s : State) (k : Nat) : FdbSt := Tab.get (fun _ => ({} : FdbSt)) s.fdb k
def State.putFdb (s : State) (k : Nat) (v : FdbSt) : State := { s with fdb := Tab.set (fun _ => ({} : FdbSt)) s.fdb k v }
def State.onFdb (s : State) (k : Nat) (f : FdbSt → FdbSt) : State := s.putFdb k (f (s.fdbAt k))
def State.sigAt (s : State) (k : Nat) : SigSt := Tab.get (fun _ => ({} : SigSt)) s.sig k
def State.putSig (s : State) (k : Nat) (v : SigSt) : State := { s with sig := Tab.set (fun _ => ({} : SigSt)) s.sig k v }
def State.onSig (s : State) (k : Nat) (f : SigSt → SigSt) : State := s.putSig k (f (s.sigAt k))
def State.swapAt (s : State) (k : Nat) : Option SwapSt := Tab.get (fun _ => (none : Option SwapSt)) s.swap k
def State.putSwap (s : State) (k : Nat) (v : Option SwapSt) : State := { s with swap := Tab.set (fun _ => (none : Option SwapSt)) s.swap k v }
def State.onSwap (s : State) (k : Nat) (f : (Option SwapSt) → (Option SwapSt)) : State := s.putSwap k (f (s.swapAt k))
def State.failLogAt (s : State) (k : Nat) : List Nat := Tab.get (fun _ => ([] : List Nat)) s.failLog k
def State.putFailLog (s : State) (k : Nat) (v : List Nat) : State := { s with failLog := Tab.set (fun _ => ([] : List Nat)) s.failLog k v }
def State.onFailLog (s : State) (k : Nat) (f : (List Nat) → (List Nat)) : State := s.putFailLog k (f (s.failLogAt k))
def State.marAt (s : State) (k : Nat) : MarverSt := Tab.get (fun _ => ({} : MarverSt)) s.mar k
def State.putMar (s : State) (k : Nat) (v : MarverSt) : State := { s with mar := Tab.set (fun _ => ({} : MarverSt)) s.mar k v }
def State.onMar (s : State) (k : Nat) (f : MarverSt → MarverSt) : State := s.putMar k (f (s.marAt k))
def State.linkAt (s : State) (k : Nat) : LinkSt := Tab.get (fun _ => ({} : LinkSt)) s.link k
def State.putLink (s : State) (k : Nat) (v : LinkSt) : State := { s with link := Tab.set (fun _ => ({} : LinkSt)) s.link k v }
def State.onLink (s : State) (k : Nat) (f : LinkSt → LinkSt) : State := s.putLink k (f (s.linkAt k))
def State.txAt (s : State) (k : Nat) : Option TxSt := Tab.get (fun _ => (none : Option TxSt)) s.tx k
def State.putTx (s : State) (k : Nat) (v : Option TxSt) : State := { s with tx := Tab.set (fun _ => (none : Option TxSt)) s.tx k v }
def State.onTx (s : State) (k : Nat) (f : (Option TxSt) → (Option TxSt)) : State := s.putTx k (f (s.txAt k))
def State.mdioAt (s : State) (k : Nat) : Option W32 := Tab.get (fun _ => (none : Option W32)) s.mdio k
def State.putMdio (s : State) (k : Nat) (v : Option W32) : State := { s with mdio := Tab.set (fun _ => (none : Option W32)) s.mdio k v }
def State.onMdio (s : State) (k : Nat) (f : (Option W32) → (Option W32)) : State := s.putMdio k (f (s.mdioAt k))
def State.ciphAt (s : State) (k : Nat) : CiphSt := Tab.get (fun _ => ({} : CiphSt)) s.ciph k
def State.putCiph (s : State) (k : Nat) (v : CiphSt) : State := { s with ciph := Tab.set (fun _ => ({} : CiphSt)) s.ciph k v }
def State.onCiph (s : State) (k : Nat) (f : CiphSt → CiphSt) : State := s.putCiph k (f (s.ciphAt k))
def State.chanAt (s : State) (k : Nat) : ChanSt := Tab.get (fun _ => ({} : ChanSt)) s.chan k
def State.putChan (s : State) (k : Nat) (v : ChanSt) : State := { s with chan := Tab.set (fun _ => ({} : ChanSt)) s.chan k v }
def State.onChan (s : State) (k : Nat) (f : ChanSt → ChanSt) : State := s.putChan k (f (s.chanAt k))
def State.halfAt (s : State) (k : Nat) : HalfSt := Tab.get (fun _ => ({} : HalfSt)) s.half k
def State.putHalf (s : State) (k : Nat) (v : HalfSt) : State := { s with half := Tab.set (fun _ => ({} : HalfSt)) s.half k v }
def State.onHalf (s : State) (k : Nat) (f : HalfSt → HalfSt) : State := s.putHalf k (f (s.halfAt k))
def State.domAt (s : State) (k : Nat) : DomSt := Tab.get (fun _ => ({} : DomSt)) s.dom k
def State.putDom (s : State) (k : Nat) (v : DomSt) : State := { s with dom := Tab.set (fun _ => ({} : DomSt)) s.dom k v }
def State.onDom (s : State) (k : Nat) (f : DomSt → DomSt) : State := s.putDom k (f (s.domAt k))
def State.sagAt (s : State) (k : Nat) : SagSt := Tab.get (fun _ => ({} : SagSt)) s.sag k
def State.putSag (s : State) (k : Nat) (v : SagSt) : State := { s with sag := Tab.set (fun _ => ({} : SagSt)) s.sag k v }
def State.onSag (s : State) (k : Nat) (f : SagSt → SagSt) : State := s.putSag k (f (s.sagAt k))
def State.ringAt (s : State) (k : Nat) : RingSt := Tab.get (fun _ => ({} : RingSt)) s.ring k
def State.putRing (s : State) (k : Nat) (v : RingSt) : State := { s with ring := Tab.set (fun _ => ({} : RingSt)) s.ring k v }
def State.onRing (s : State) (k : Nat) (f : RingSt → RingSt) : State := s.putRing k (f (s.ringAt k))
def State.rxAt (s : State) (k : Nat) : RxSt := Tab.get (fun _ => ({} : RxSt)) s.rx k
def State.putRx (s : State) (k : Nat) (v : RxSt) : State := { s with rx := Tab.set (fun _ => ({} : RxSt)) s.rx k v }
def State.onRx (s : State) (k : Nat) (f : RxSt → RxSt) : State := s.putRx k (f (s.rxAt k))
def State.onCore (s : State) (k : Nat) (f : CoreSt → CoreSt) : State := s.putCore k (f (s.coreAt k))

end Sys2Proof.Machine
end

