-- ==== Sys2Proof/Machine/Aes.lean ====
section
/-! DEFINITION. AES (FIPS 197) with its modes: ECB core, CBC, CFB, CTR, GCM (SP 800-38D), CMAC (SP 800-38B). Blocks are
lists of 16 bytes. -/

namespace Sys2Proof.Aes

/-- Product by x in GF(2⁸). -/
def xtime (b : Nat) : Nat := if 128 ≤ b then ((b * 2) ^^^ 0x11B) else b * 2

/-- Product in GF(2⁸), over the bits of the second factor. -/
def gmul : Nat → Nat → Nat → Nat
  | 0, _, _ => 0
  | n + 1, a, b => (if b % 2 = 1 then a else 0) ^^^ gmul n (xtime a) (b / 2)

/-- The S-box, entry 0 in the least significant byte. -/
def sboxN : Nat := 0x16BB54B00F2D99416842E6BF0D89A18CDF2855CEE9871E9B948ED9691198F8E19E1DC186B95735610EF6034866B53E708A8BBD4B1F74DDE8C6B4A61C2E2578BA08AE7A65EAF4566CA94ED58D6D37C8E779E4959162ACD3C25C2406490A3A32E0DB0B5EDE14B8EE4688902A22DC4F816073195D643D7EA7C41744975FEC130CCDD2F3FF1021DAB6BCF5389D928F40A351A89F3C507F02F94585334D43FBAAEFD0CF584C4A39BECB6A5BB1FC20ED00D153842FE329B3D63B52A05A6E1B1A2C830975B227EBE28012079A059618C323C7041531D871F1E5A534CCF73F362693FDB7C072A49CAFA2D4ADF04759FA7DC982CA76ABD7FE2B670130C56F6BF27B777C63
/-- The inverse S-box, entry 0 in the least significant byte. -/
def invN : Nat := 0x7D0C2155631469E126D677BA7E042B17619953833CBBEBC8B0F52AAE4D3BE0A0EF9CC9939F7AE52D0D4AB519A97F51605FEC8027591012B131C7078833A8DD1FF45ACD78FEC0DB9A2079D2C64B3E56FC1BBE18AA0E62B76F89C5291D711AF1476EDF751CE837F9E28535ADE72274AC9673E6B4F0CECFF297EADC674F4111913A6B8A130103BDAFC1020F3FCA8F1E2CD00645B3B80558E4F70AD3BC8C00ABD890849D8DA75746155EDAB9EDFD5048706C92B6655DCC5CA4D41698688664F6F87225D18B6D49A25B76B224D92866A12E084EC3FA420B954CEE3D23C2A632947B54CBE9DEC444438E3487FF2F9B8239E37CFBD7F3819EA340BF38A53630D56A0952

def sub (b : Nat) : Nat := (sboxN >>> (8 * b)) % 256
def inv (b : Nat) : Nat := (invN >>> (8 * b)) % 256

/-- Element of a list of numbers, 0 past its end. -/
def at_ (l : List Nat) (i : Nat) : Nat := (l[i]?).getD 0

/-- Key expansion: words of four bytes; `w` holds those made so far, latest first. -/
def expandGo (nk : Nat) : Nat → Nat → Nat → List (List Nat) → List (List Nat)
  | 0, _, _, w => w.reverse
  | n + 1, i, rcon, w =>
    let t := w.headD []
    let old := (w[nk - 1]?).getD []
    let (t', rcon') :=
      if i % nk = 0 then
        let r := [at_ t 1, at_ t 2, at_ t 3, at_ t 0].map sub
        ((r.headD 0 ^^^ rcon) :: r.tail, xtime rcon)
      else if 6 < nk ∧ i % nk = 4 then (t.map sub, rcon)
      else (t, rcon)
    expandGo nk n (i + 1) rcon' (List.zipWith (· ^^^ ·) old t' :: w)

/-- A list in pieces of `n`. -/
def pieces {α : Type} (n : Nat) : Nat → List α → List (List α)
  | 0, _ => []
  | f + 1, l => if l.isEmpty then [] else l.take n :: pieces n f (l.drop n)

/-- Round keys of a key of 16, 24 or 32 bytes, 16 numbers each. -/
def expand (key : List Byte) : List (List Nat) :=
  let nk := key.length / 4
  let k := key.map BitVec.toNat
  let w := expandGo nk (4 * (nk + 7) - nk) nk 1 (pieces 4 8 k).reverse
  pieces 16 15 w.flatten

/-- ShiftRows on 16 numbers by columns: place `i` takes from `i + 4 * (i mod 4)`, cyclic. -/
def shiftRows (s : List Nat) : List Nat := (List.range 16).map fun i => at_ s ((i + 4 * (i % 4)) % 16)
def unshiftRows (s : List Nat) : List Nat := (List.range 16).map fun i => at_ s ((i + 12 * (i % 4)) % 16)

/-- One column by a circulant matrix whose first row is `m`. -/
def mixCol (m c : List Nat) : List Nat :=
  (List.range 4).map fun i => (List.range 4).foldl (fun a j => a ^^^ gmul 8 (at_ c j) (at_ m ((j + 4 - i) % 4))) 0
def mix (m s : List Nat) : List Nat := (pieces 4 4 s).flatMap (mixCol m)

def addKey (s k : List Nat) : List Nat := List.zipWith (· ^^^ ·) s k

/-- Rounds after the first key addition. -/
def encRounds : List (List Nat) → List Nat → List Nat
  | [], s => s
  | [k], s => addKey (shiftRows (s.map sub)) k
  | k :: ks, s => encRounds ks (addKey (mix [2, 3, 1, 1] (shiftRows (s.map sub))) k)

/-- Inverse rounds, round keys from the last. -/
def decRounds : List (List Nat) → List Nat → List Nat
  | [], s => s
  | [k], s => addKey ((unshiftRows s).map inv) k
  | k :: ks, s => decRounds ks (mix [14, 11, 13, 9] (addKey ((unshiftRows s).map inv) k))

def toBytes (l : List Nat) : List Byte := l.map (BitVec.ofNat 8)

/-- One block enciphered under expanded keys. -/
def enc (ks : List (List Nat)) (b : List Byte) : List Byte :=
  match ks with
  | [] => b
  | k :: t => toBytes (encRounds t (addKey (b.map BitVec.toNat) k))

/-- One block deciphered. -/
def dec (ks : List (List Nat)) (b : List Byte) : List Byte :=
  match ks.reverse with
  | [] => b
  | k :: t => toBytes (decRounds t (addKey (b.map BitVec.toNat) k))

def blocks (l : List Byte) : List (List Byte) := pieces 16 (l.length / 16 + 1) l

/-! ### CTR, CBC, CFB -/

/-- A 128-bit counter block plus 1, in its low `w` bits. -/
def incr (w : Nat) (b : List Byte) : List Byte :=
  let n := beNat b
  natBE 16 (n / 2 ^ w * 2 ^ w + (n + 1) % 2 ^ w)

/-- CTR over blocks from a counter block (the last block may be short). -/
def ctr (ks : List (List Nat)) (w : Nat) : List Byte → List (List Byte) → List Byte
  | _, [] => []
  | c, b :: t => xorBytes b (enc ks c) ++ ctr ks w (incr w c) t

def cbcEnc (ks : List (List Nat)) : List Byte → List (List Byte) → List (List Byte)
  | _, [] => []
  | iv, b :: t => let c := enc ks (xorBytes b iv); c :: cbcEnc ks c t
def cbcDec (ks : List (List Nat)) : List Byte → List (List Byte) → List (List Byte)
  | _, [] => []
  | iv, b :: t => xorBytes (dec ks b) iv :: cbcDec ks b t
def cfbEnc (ks : List (List Nat)) : List Byte → List (List Byte) → List (List Byte)
  | _, [] => []
  | iv, b :: t => let c := xorBytes b (enc ks iv); c :: cfbEnc ks c t
def cfbDec (ks : List (List Nat)) : List Byte → List (List Byte) → List (List Byte)
  | _, [] => []
  | iv, b :: t => xorBytes b (enc ks iv) :: cfbDec ks b t

/-! ### GCM -/

/-- Product in the field of GHASH, over the bits of `x` from the most significant. -/
def ghMul : Nat → Nat → Nat → Nat → Nat
  | 0, _, _, z => z
  | n + 1, x, v, z =>
    ghMul n x (if v % 2 = 1 then (v / 2) ^^^ (0xE1 * 2 ^ 120) else v / 2) (if Nat.testBit x n then z ^^^ v else z)

/-- GHASH over whole blocks. -/
def ghash (h : Nat) (l : List (List Byte)) : Nat :=
  l.foldl (fun y b => ghMul 128 (y ^^^ beNat (slice b 0 16)) h 0) 0

/-- A byte string padded with zeros to whole blocks, as blocks. -/
def padded (l : List Byte) : List (List Byte) := (blocks l).map fun b => slice b 0 16

/-- The first counter block of an IV (SP 800-38D). -/
def gcmJ0 (h : Nat) (iv : List Byte) : List Byte :=
  if iv.length = 12 then iv ++ [0, 0, 0, 1]
  else natBE 16 (ghash h (padded iv ++ [natBE 8 0 ++ natBE 8 (8 * iv.length)]))

/-- The tag of GCM over additional data and ciphertext. -/
def gcmTag (ks : List (List Nat)) (iv aad ct : List Byte) : List Byte :=
  let h := beNat (enc ks (List.replicate 16 0))
  let s := ghash h (padded aad ++ padded ct ++ [natBE 8 (8 * aad.length) ++ natBE 8 (8 * ct.length)])
  xorBytes (natBE 16 s) (enc ks (gcmJ0 h iv))

/-- GCM's cipher on data, both ways. -/
def gcmCtr (ks : List (List Nat)) (iv d : List Byte) : List Byte :=
  let h := beNat (enc ks (List.replicate 16 0))
  ctr ks 32 (incr 32 (gcmJ0 h iv)) (blocks d)

/-! ### CMAC -/

/-- Doubling in CMAC's field. -/
def dbl (n : Nat) : Nat := if Nat.testBit n 127 then (n * 2) % 2 ^ 128 ^^^ 0x87 else n * 2

/-- CMAC of a message. -/
def cmac (ks : List (List Nat)) (m : List Byte) : List Byte :=
  let k1 := dbl (beNat (enc ks (List.replicate 16 0)))
  let bs := blocks m
  let last := bs.getLast?.getD []
  let x := if last.length = 16 then xorBytes last (natBE 16 k1)
    else xorBytes (slice (last ++ [0x80]) 0 16) (natBE 16 (dbl k1))
  enc ks (xorBytes x ((bs.dropLast).foldl (fun y b => enc ks (xorBytes b y)) (List.replicate 16 0)))

end Sys2Proof.Aes
end

