-- ==== Sys2Proof/Machine/Microword.lean ====
section
/-! DEFINITION. The marver engine (R114 to R128): a microword's fields, and what one word does to a routine. Nothing
here touches the rest of the device. -/

namespace Sys2Proof.Machine

/-- Bits [hi:lo] of a microword (R114). -/
def mw (w : W192) (hi lo : Nat) : Nat := bits w.toNat hi lo

/-- The control-store word at an address: what a patch wrote, or the base image's (R142). -/
def ImageSt.word (i : ImageSt) (a : Nat) : W192 :=
  (Tab.get (fun _ => none) i.words a).getD (Config.baseWord a)

/-- The base image's dispatch entries (R137): entry 0x00 is BR_EN = 0. -/
def baseDispatchAt (op : Nat) : W32 := if op = 0 then Config.baseDispatch 0 &&& 0x7FFFFFFF else Config.baseDispatch op

/-- The base image's PMT entries (R137): entries 0 to 31, in spaces 0 to 2. -/
def basePmtAt (k : Nat) : BitVec 39 :=
  if 32 ≤ k ∨ bits (Config.basePmt k).toNat 37 36 = 3 then 0 else Config.basePmt k

/-- The base image's ENTRY values (R137): its words lie below 0x1000. -/
def baseEntryAt (i : Nat) : Nat := (Config.baseEntry i).toNat % 0x1000

/-- The dispatch entry of an opcode (R118). -/
def ImageSt.dispatch (i : ImageSt) (op : Nat) : W32 :=
  (Tab.get (fun _ => none) i.disp op).getD (baseDispatchAt op)

/-- A PMT entry (R125). -/
def ImageSt.pmtEntry (i : ImageSt) (k : Nat) : BitVec 39 :=
  (Tab.get (fun _ => none) i.pmt k).getD (basePmtAt k)

/-- The shipped parse graph is unaltered (R137): no patch wrote its words, dispatch entries or PMT spaces. -/
def ImageSt.graphIntact (i : ImageSt) : Bool :=
  i.words.all (fun e => decide (0x1000 ≤ e.1)) && i.disp.all (fun e => decide (0x80 ≤ e.1)) &&
  i.pmt.all (fun e => decide (32 ≤ e.1) && ((e.2.map fun x => bits x.toNat 37 36) == some 3))

/-- The lowest valid PMT entry for a value in a space (R125): its CODE and TARGET. -/
def ImageSt.lookup (i : ImageSt) (space v : Nat) : Option (Nat × Nat) :=
  (List.range 64).findSome? fun k =>
    let e := (i.pmtEntry k).toNat
    if bits e 38 38 = 1 ∧ bits e 37 36 = space ∧ bits e 35 20 = v then some (bits e 19 14, bits e 13 0) else none

/-- The available length of the header window (R122), from the length that w15 holds as the routine starts: it does not follow w15
where a routine overwrites that register (log 239). -/
def Header.avail (h : Header) : Nat := if h.len = 0 then 256 else min 256 (h.len - 4)

/-- The byte at an offset of the window, 0 at or beyond the available length (R123). -/
def Header.byte (h : Header) (o : Nat) : Nat :=
  if o < h.avail then ((h.win[o]?).getD 0).toNat else 0

/-- An extract (R124): the value and whether it read beyond the available length. -/
def Header.extract (h : Header) (o size : Nat) : Nat × Bool :=
  match size with
  | 0 => (h.byte o, decide (h.avail ≤ o))
  | 1 => (h.byte o * 256 + h.byte (o + 1), decide (h.avail ≤ o + 1))
  | 2 => (h.byte o / 16, decide (h.avail ≤ o))
  | _ => (h.byte o % 16, decide (h.avail ≤ o))

/-- Register `n` of a routine. -/
def Routine.reg (r : Routine) (n : Nat) : Nat := (r.w[n]?).getD 0

/-- The ALU (R115): the result when the operation writes one, the value its Z flag tests, and C; none for NOP. -/
def alu (op a b sh : Nat) : Option (Option Nat × Nat × Bool) :=
  match op with
  | 1 => some (some b, b, false)
  | 2 => some (some ((a + b) % 65536), (a + b) % 65536, decide (65536 ≤ a + b))
  | 3 => some (some ((a + 65536 - b) % 65536), (a + 65536 - b) % 65536, decide (a < b))
  | 4 => some (some (a &&& b), a &&& b, false)
  | 5 => some (some (a ||| b), a ||| b, false)
  | 6 => some (some (a ^^^ b), a ^^^ b, false)
  | 7 => some (some ((a <<< sh) % 65536), (a <<< sh) % 65536, sh != 0 && Nat.testBit a (16 - sh))
  | 8 => some (some (a >>> sh), a >>> sh, sh != 0 && Nat.testBit a (sh - 1))
  | 9 => some (none, (a + 65536 - b) % 65536, decide (a < b))
  | 10 => some (none, a &&& b, false)
  | 11 => some (some ((a + (b <<< sh) % 65536) % 65536), (a + (b <<< sh) % 65536) % 65536,
      decide (65536 ≤ a + (b <<< sh) % 65536))
  | _ => none

/-- The clocks a word needs (R117). -/
def wordNeed (w : W192) : Nat :=
  let pmt := if mw w 141 141 = 1 ∧ mw w 140 140 = 1 then 2 else 1
  let n := if mw w 98 93 = 0 then 64 else mw w 98 93
  max pmt (if mw w 108 107 = 1 then ceilDiv n 16 else 1)

/-- The clocks of a word, with two more when it came from the other copy (R117). -/
def wordClocks (w : W192) (other : Bool) : Nat :=
  max (mw w 183 182 + 1) (wordNeed w) + (if other then 2 else 0)

/-- 1 for a word that needs more clocks than CLEN + 1 (R117). -/
def wordStretch (w : W192) : Nat := if mw w 183 182 + 1 < wordNeed w then 1 else 0

/-- The key's part of a word (R126): bytes appended, or the close. -/
def keyWork (w : W192) (r : Routine) : Routine × Bool :=
  if r.closed.isSome || r.keyOver then (r, false) else
  match mw w 108 107 with
  | 1 =>
    let n := if mw w 98 93 = 0 then 64 else mw w 98 93
    let o := r.cur + mw w 106 99
    let bs := (List.range n).map fun k => BitVec.ofNat 8 (r.h.byte (o + k))
    ({ r with key := (r.key ++ bs).take 64, keyOver := r.keyOver || decide (64 < r.key.length + n) },
      decide (r.h.avail < o + n))
  | 2 =>
    let v := r.reg (mw w 92 89)
    let bs := if mw w 98 93 = 1 then [BitVec.ofNat 8 v] else natBE 2 v
    ({ r with key := (r.key ++ bs).take 64, keyOver := r.keyOver || decide (64 < r.key.length + bs.length) }, false)
  | 3 => ({ r with closed := some (mw w 106 99) }, false)
  | _ => (r, false)

/-- The edit entry a word appends (R138). -/
def editWork (w : W192) (r0 r : Routine) : Routine :=
  if mw w 88 88 = 1 ∧ mw w 87 84 ≠ 0 then
    let off := if mw w 83 81 = 0 then 0 else (r0.h.lo[mw w 83 81]?).getD 0
    let e := mw w 87 84 * 2 ^ 28 + off % 512 * 2 ^ 19 + mw w 145 143 * 2 ^ 16 + r0.reg (mw w 80 77)
    if r.h.edits.length < 8 then { r with h := { r.h with edits := r.h.edits ++ [e] } }
    else { r with editOvf := r.editOvf + 1 }
  else r

/-- The commit-queue entry a word pushes (R127). -/
def cqWork (w : W192) (r0 r : Routine) : Routine :=
  if mw w 76 76 = 1 then
    if r.cq.length < 16 then { r with cq := r.cq ++ [(mw w 75 73, mw w 68 57, r0.reg (mw w 72 69))] }
    else { r with cqOvf := r.cqOvf + 1 }
  else r

/-- The metadata write of a word (R114). -/
def mdWork (w : W192) (r0 r : Routine) : Routine :=
  if mw w 56 56 = 1 then
    let k := mw w 54 51
    let v := r0.reg (mw w 50 47)
    let old := (r.h.md[k]?).getD 0
    { r with h := { r.h with md := r.h.md.set k (if mw w 55 55 = 1 then old ||| v else v) } }
  else r

/-- The extracts, the PMT lookup and the ALU of a word (R116 steps 1 to 3); EXT wins over EXT2, EXT2 over the ALU. With PMT_EN = 1
and EXT_EN = 0 no lookup is made and H stays (R125, log 240). -/
def dataWork (img : ImageSt) (w : W192) (r : Routine) : Routine :=
  let a := r.reg (mw w 167 164)
  let b := if mw w 163 163 = 1 then mw w 158 143 else r.reg (mw w 162 159)
  let al := alu (mw w 175 172) a b (mw w 46 43)
  let r1 := match al with
    | some (res, t, c) =>
      let r := match res with
        | some v => { r with w := r.w.set (mw w 171 168) v }
        | none => r
      if mw w 142 142 = 1 then { r with z := t == 0, c := c } else r
    | none => r
  let r2 := if mw w 42 42 = 1 then
      let (v, s) := r.h.extract (r.cur + mw w 41 34) (mw w 33 32)
      { r1 with w := r1.w.set (mw w 31 28) v, s := r1.s || s }
    else r1
  if mw w 141 141 = 1 then
    let (v, s) := r.h.extract (r.cur + mw w 139 132) (mw w 131 130)
    let r3 := { r2 with s := r2.s || s }
    if mw w 140 140 = 1 then
      match img.lookup (mw w 27 26) v with
      | some (code, target) => { r3 with w := r3.w.set (mw w 129 126) code, hit := true, kept := target }
      | none => { r3 with w := r3.w.set (mw w 129 126) 0x3F, hit := false }
    else { r3 with w := r3.w.set (mw w 129 126) v }
  else r2

/-- The cursor and the layer mark of a word (R116 steps 4 and 5, R123). -/
def cursorWork (w : W192) (r0 r : Routine) : Routine :=
  let adv := match mw w 117 116 with
    | 1 => mw w 125 118
    | 2 => r0.reg (mw w 115 112)
    | _ => 0
  let past := decide (r.h.avail < r0.cur + adv)
  let cur := if past then r.h.avail else r0.cur + adv
  let r := { r with cur := cur, s := r.s || (past && decide (adv ≠ 0)) }
  if mw w 111 109 = 0 then r else { r with h := { r.h with lo := r.h.lo.set (mw w 111 109) cur } }

/-- Everything a word does but the choice of the next address (R116). -/
def wordEffect (img : ImageSt) (w : W192) (r : Routine) : Routine :=
  let r1 := dataWork img w r
  let (k, s) := keyWork w { r1 with cur := r.cur, w := r.w }
  let r2 := { r1 with key := k.key, keyOver := k.keyOver, closed := k.closed, s := r1.s || s }
  cursorWork w r (mdWork w r (cqWork w r (editWork w r r2)))

/-- The taken address of a dispatch entry on the flags and registers the word left (R119), none when not taken. -/
def takenAddr (d : W32) (r : Routine) : Option Nat :=
  let target := bits d.toNat 13 0
  let n := bits d.toNat 22 20
  let width := if n = 0 then 1 else if n = 7 then 6 else n
  let when_ (p : Bool) : Option Nat := if p then some target else none
  match bits d.toNat 30 27 with
  | 0 => some target
  | 1 => when_ r.z
  | 2 => when_ (!r.z)
  | 3 => when_ r.c
  | 4 => when_ (!r.c)
  | 5 => when_ r.hit
  | 6 => when_ (!r.hit)
  | 7 => when_ r.s
  | 8 => when_ (!r.s)
  | 9 => some (if r.hit then r.kept else target)
  | 10 => some ((target + r.reg (bits d.toNat 26 23) % 2 ^ width) % 16384)
  | _ => none

/-- The next address after a word: none is the fall-through past 0x3FFF (R119, R132). -/
def nextAddr (img : ImageSt) (w : W192) (r : Routine) : Option Nat :=
  let d := img.dispatch (mw w 191 184)
  match (if bits d.toNat 31 31 = 1 then takenAddr d r else none) with
  | some a => some a
  | none => if r.pc = 0x3FFF then none else some (r.pc + 1)

/-- One microword executed by a routine (R116 to R119): the routine after it, or none where it falls through past
0x3FFF. The word's clocks and the word itself are counted. -/
def stepWord (img : ImageSt) (w : W192) (other : Bool) (r : Routine) : Option Routine :=
  let r' := wordEffect img w r
  let r' := { r' with words := r.words + 1, clocks := r.clocks + wordClocks w other, stretch := r.stretch + wordStretch w }
  if mw w 181 181 = 1 then some { r' with ended := true }
  else (nextAddr img w { r' with pc := r.pc }).map fun a => { r' with pc := a }

/-- The words that a routine's next word is read with (R119, R125, R131), numbered as the scrubber passes them: the control-store
word, its dispatch entry where it has no END, and every PMT entry where it looks one up. -/
def wordReads (img : ImageSt) (pc : Nat) : List Nat :=
  let w := img.word pc
  [pc] ++ (if mw w 181 181 = 1 then [] else [16384 + mw w 191 184]) ++
    (if mw w 141 141 = 1 ∧ mw w 140 140 = 1 then (List.range 64).map fun k => 16640 + k else [])

/-- The routine of a header at its start (R120, R121). -/
def Routine.start (h : Header) (pc : Nat) (base : Bool) : Routine :=
  let w14 := (match h.cpu with
      | some c => c.lport * 1024 + 512
      | none => h.port * 1024) + (if h.punty then 256 + h.arg % 256 else 0)
  { h := h, pc := pc, base := base,
    w := [0, 0, 0, 0, 0, 0, 0, 0, 0, 0, 0, 0, 0, h.rxsc, w14 % 65536, h.len] }

end Sys2Proof.Machine
end

