-- ==== Sys2Proof/Machine/BaseParse.lean ====
section
/-! DEFINITION. What a routine of the shipped parse graph leaves (R135, R136, R160, R197): layer offsets, metadata
slots, exceptions, key and learn. -/

namespace Sys2Proof.Machine

/-- The deepest layer a parse found, which chooses the key profile (R160). -/
inductive Layer where
  | eth | l2 | ptp | ip4 | ip4l4 | ip6 | ip6l4 | exc
  deriving DecidableEq, Repr

/-- A parse in progress: offsets, slots, parse exceptions, and S. -/
structure Parse where
  lo : List Nat
  md : List Nat
  exc : List Nat := []
  s : Bool := false
  deriving DecidableEq, Repr

def Parse.m (p : Parse) (k : Nat) : Nat := (p.md[k]?).getD 0
def Parse.l (p : Parse) (k : Nat) : Nat := (p.lo[k]?).getD 0
def Parse.setM (p : Parse) (k v : Nat) : Parse := { p with md := p.md.set k (v % 65536) }
def Parse.flag (p : Parse) (i : Nat) : Parse := { p with md := p.md.set 0 (p.m 0 ||| 2 ^ i) }
def Parse.setLo (p : Parse) (k v : Nat) : Parse := { p with lo := p.lo.set k v }
def Parse.except (p : Parse) (e : Nat) : Parse := { p with exc := p.exc ++ [e] }
def Parse.short (p : Parse) (b : Bool) : Parse := { p with s := p.s || b }

/-- Two window bytes as a number. -/
def Header.u16 (h : Header) (o : Nat) : Nat := h.byte o * 256 + h.byte (o + 1)

/-- Reading `n` bytes at `o` goes beyond the available length (R123). -/
def Header.past (h : Header) (o n : Nat) : Bool := decide (h.avail < o + n)

/-- UDP and TCP ports, and PTP over UDP (R135). -/
def parseL4 (h : Header) (p : Parse) (cur : Nat) (plain l4 : Layer) : Parse × Layer :=
  if p.m 4 = 17 ∨ p.m 4 = 6 then
    let q := (((p.setLo 4 cur).setM 5 (h.u16 cur)).setM 6 (h.u16 (cur + 2))).flag (if p.m 4 = 17 then 6 else 7)
    let q := q.short (h.past cur 4)
    if p.m 4 = 17 ∧ (q.m 6 = 319 ∨ q.m 6 = 320) then ((q.setLo 7 (cur + 8)).flag 11, .ptp) else (q, l4)
  else (p, plain)

/-- An IPv4 header, checked in the order version, IHL, TTL, fragment offset (R135). One that ends parsing with exception 2 or 3
has recorded lo3 and m0 bit 4 and not m4 (log 242). -/
def parseIp4 (h : Header) (p : Parse) (b : Nat) : Parse × Layer :=
  let p := ((p.setLo 3 b).flag 4).short (h.past b 1)
  if p.s then (p, .exc) else
  let ihl := h.byte b % 16
  if h.byte b / 16 ≠ 4 then (p.except 3, .exc)
  else if ihl < 5 then (p.except 2, .exc)
  else
    let p := if 5 < ihl then p.flag 9 else p
    let p := (p.setM 4 (h.byte (b + 9))).short (h.past b 10)
    if p.s then (p, .exc) else
    let p := if h.byte (b + 8) ≤ 1 then p.except 5 else p
    if h.u16 (b + 6) % 8192 ≠ 0 then ((p.flag 8).except 6, .ip4)
    else
      let p := p.short (decide (h.avail < b + 4 * ihl))
      if p.s then (p, .exc) else parseL4 h p (b + 4 * ihl) .ip4 .ip4l4

/-- IPv6 extension headers from next header `nh` (R135): four at most. -/
def parseExt (h : Header) : Nat → Parse → Nat → Nat → Parse × Layer
  | n, p, nh, cur =>
    if nh = 0 ∨ nh = 43 ∨ nh = 44 ∨ nh = 60 then
      match n with
      | 0 => (((p.except 4).flag 14).setM 4 nh, .exc)
      | n + 1 =>
        let len := if nh = 44 then 8 else 8 * (h.byte (cur + 1) + 1)
        let p := p.short (h.past cur 2 || decide (h.avail < cur + len))
        if p.s then (p, .exc) else parseExt h n p (h.byte cur) (cur + len)
    else parseL4 h (p.setM 4 nh) cur .ip6 .ip6l4

/-- An IPv6 header: hop limit first, then its extension headers (R135). -/
def parseIp6 (h : Header) (p : Parse) (b : Nat) : Parse × Layer :=
  let p := ((p.setLo 3 b).flag 5).short (h.past b 8)
  if p.s then (p, .exc) else
  let p := if h.byte (b + 7) ≤ 1 then p.except 5 else p
  let p := p.short (decide (h.avail < b + 40))
  if p.s then (p, .exc) else parseExt h 4 p (h.byte (b + 6)) (b + 40)

/-- The final EtherType and what it leads to (R135). -/
def parseFinal (h : Header) (p : Parse) (cur v : Nat) : Parse × Layer :=
  let p := (p.setLo 2 cur).setM 3 v
  if v < 0x600 then (p.flag 12, .eth)
  else if v = 0x0800 then parseIp4 h p (cur + 2)
  else if v = 0x86DD then parseIp6 h p (cur + 2)
  else if v = 0x88F7 then ((p.setLo 7 (cur + 2)).flag 11, .ptp)
  else if v = 0x8892 ∨ v = 0x88B8 ∨ v = 0x88BA then
    ((((p.setLo 7 (cur + 2)).flag 10).setM 10 (h.u16 (cur + 2))).short (h.past (cur + 2) 2), .l2)
  else if v = 0x88A4 ∨ v = 0x88AB then ((p.setLo 7 (cur + 2)).flag 10, .l2)
  else if v = 0x0806 ∨ v = 0x88CC then (p.setLo 7 (cur + 2), .l2)
  else (p.except 8, .eth)

/-- The tags before the final EtherType, in any order: two VLAN tags, one R-TAG, one SecTAG (R135). -/
def parseTags (h : Header) : Nat → Parse → Nat → Nat → Bool → Bool → Parse × Layer
  | 0, p, _, _, _, _ => (p, .exc)
  | fuel + 1, p, cur, tags, rtag, sec =>
    let p := p.short (h.past cur 2)
    let v := h.u16 cur
    if p.s then (p, .exc)
    else if v = 0x8100 ∨ v = 0x88A8 then
      if tags = 2 then (p.except 1, .exc)
      else
        let p := (((p.setM (1 + tags) (h.u16 (cur + 2))).flag tags).short (h.past (cur + 2) 2))
        parseTags h fuel p (cur + 4) (tags + 1) rtag sec
    else if v = 0xF1C1 then
      if rtag then (p.except 1, .exc)
      else
        let p := (((p.setLo 5 cur).setM 7 (h.u16 (cur + 4))).flag 2).short (h.past cur 6)
        parseTags h fuel p (cur + 6) tags true sec
    else if v = 0x88E5 ∧ ¬ bit h.rxsc 15 then
      if sec then (p.except 1, .exc)
      else
        let p := ((p.setLo 6 cur).flag 3).short (h.past cur 3)
        let tci := h.byte (cur + 2)
        if p.s then (p, .exc)
        else if bit tci 3 then (p.except 7, .exc)
        else parseTags h fuel p (cur + (if bit tci 5 then 16 else 8)) tags rtag true
    else parseFinal h p cur v

/-- The key and profile of a parse (R160). -/
def parseKey (h : Header) (p : Parse) (l : Layer) : Nat × List Byte :=
  let take (o n : Nat) : List Byte := (List.range n).map fun k => BitVec.ofNat 8 (h.byte (o + k))
  let vid := natBE 2 (p.m 1 % 4096)
  match l with
  | .exc => (8, vid ++ natBE 2 (p.m 0))
  | .eth => (1, take 0 12 ++ vid ++ natBE 2 (p.m 3))
  | .l2 => (2, take 0 6 ++ vid ++ natBE 2 (p.m 3) ++ natBE 2 (p.m 10))
  | .ptp => (3, take 0 6 ++ vid ++ natBE 2 (p.m 3) ++ take (p.l 7) 1 ++ take (p.l 7 + 4) 1)
  | .ip4 => (4, vid ++ take (p.l 3 + 12) 4 ++ take (p.l 3 + 16) 4 ++ natBE 1 (p.m 4))
  | .ip4l4 => (5, vid ++ take (p.l 3 + 12) 4 ++ take (p.l 3 + 16) 4 ++ natBE 1 (p.m 4) ++ natBE 2 (p.m 5) ++
      natBE 2 (p.m 6))
  | .ip6 => (6, vid ++ take (p.l 3 + 8) 16 ++ take (p.l 3 + 24) 16 ++ natBE 1 (p.m 4))
  | .ip6l4 => (7, vid ++ take (p.l 3 + 8) 16 ++ take (p.l 3 + 24) 16 ++ natBE 1 (p.m 4) ++ natBE 2 (p.m 5) ++
      natBE 2 (p.m 6))

/-- Reading the key's own bytes goes beyond the available length (R123). -/
def keyPast (h : Header) (p : Parse) : Layer → Bool
  | .eth => h.past 0 12
  | .l2 => h.past 0 6
  | .ptp => h.past (p.l 7 + 4) 1
  | .ip4 | .ip4l4 => h.past (p.l 3 + 16) 4
  | .ip6 | .ip6l4 => h.past (p.l 3 + 24) 16
  | .exc => false

/-- What the base image's graph leaves for a header: the routine with its offsets, slots, closed key and one LEARN on
the first pass of a port header, and the exceptions it counted (R135, R160, R197). -/
def baseParse (r : Routine) : Routine × List Nat :=
  let h := r.h
  let p0 : Parse := { lo := h.lo.set 1 12, md := h.md }
  let (p, l) := parseTags h 5 (p0.short (decide (h.avail < 12))) 12 0 false false
  let p := p.short (!p.s && keyPast h p l)
  let (p, l) := if p.s then ((p.flag 13).except 0, Layer.exc) else (p, l)
  let p := if bit h.rxsc 15 then p.flag 15 else p
  let p := p.setM 8 (p.m 1 % 4096)
  let (prof, key) := parseKey h p l
  ({ r with
      h := { h with lo := p.lo, md := p.md }
      key := key, keyOver := false, closed := some prof, s := p.s,
      cq := if h.cpu.isSome || h.punty then [] else [(2, 0, p.m 8)], ended := true }, p.exc)

end Sys2Proof.Machine
end

