-- ==== Sys2Proof/Machine/Operands.lean ====
section
/-! DEFINITION. Where things are: ports, lanes, quads, groups, benches and teams (R17 to R22), and page numbers and
register keys (R28, R514). -/

namespace Sys2Proof.Machine

/-- The bench of a port (R18, R19). -/
def portBench (p : Nat) : Nat := if p < 384 then p / 48 else (p - 384) / 16
/-- The local port of a port: field ports 0–47, trunk ports 48–63 (R73). -/
def portLocal (p : Nat) : Nat := if p < 384 then p % 48 else 48 + (p - 384) % 16
/-- The port at a bench's local port. -/
def localPort (b i : Nat) : Nat := if i < 48 then 48 * b + i else 384 + 16 * b + (i - 48)
/-- The lane of a port (R18, R19). -/
def portLane (p : Nat) : Nat :=
  if p < 384 then 28 * (p / 48) + p % 48 / 4 else 28 * ((p - 384) / 16) + 12 + (p - 384) % 16
/-- The port group of a port (R18, R19). -/
def portGroup (p : Nat) : Nat :=
  if p < 384 then 4 * (p / 48) + p % 48 / 16 else 4 * ((p - 384) / 16) + 3
/-- The port's place among the 16 of its group. -/
def portSlot (p : Nat) : Nat := if p < 384 then p % 48 % 16 else (p - 384) % 16
/-- The port at a place of a group. -/
def groupPort (g i : Nat) : Nat :=
  if g % 4 = 3 then 384 + 16 * (g / 4) + i else 48 * (g / 4) + 16 * (g % 4) + i
/-- The quad of a port (R20). -/
def portQuad (p : Nat) : Nat := portLane p / 4
/-- A trunk port. -/
def isTrunk (p : Nat) : Bool := decide (384 ≤ p)
/-- The ports carried on a lane (R18, R19). -/
def lanePorts (l : Nat) : List Nat :=
  let n := l / 28
  let k := l % 28
  if k < 12 then (List.range 4).map fun c => 48 * n + 4 * k + c else [384 + 16 * n + (k - 12)]
/-- The ports carried on a quad's lanes. -/
def quadPorts (q : Nat) : List Nat := (List.range 4).flatMap fun i => lanePorts (4 * q + i)
/-- A quad that carries field ports (R20). -/
def quadIsField (q : Nat) : Bool := decide (q % 7 < 3)
/-- The team of a bench (R20). -/
def benchTeam (b : Nat) : Nat := b / 4
/-- The benches of a team. -/
def teamBenches (t : Nat) : List Nat := (List.range 4).map fun i => 4 * t + i
/-- The team number of `Team`. -/
def teamNo : Team → Nat
  | .a => 0
  | .b => 1

/-! Page numbers (R514), BAR2 blocks after the 16,384 pages of BAR0 (R512). -/

def pgHost : Nat := 0x000
def pgIdent : Nat := 0x100
def pgBoot : Nat := 0x200
def pgTime : Nat := 0x300
def pgPwr (i : Nat) : Nat := 0x400 + i
def pgDev : Nat := 0x402
def pgLehr : Nat := 0x500
def pgMirr : Nat := 0x600
def pgPort (g : Nat) : Nat := 0x800 + g
def pgSerdes (q : Nat) : Nat := 0x900 + q
def pgMarver (b : Nat) : Nat := 0xA00 + b
def pgCls (b : Nat) : Nat := 0xB00 + b
def pgFdb (b : Nat) : Nat := 0xC00 + b
def pgStrm (b : Nat) : Nat := 0xD00 + b
def pgBuf (b : Nat) : Nat := 0xE00 + b
def pgCore (b : Nat) : Nat := 0xF00 + b
def pgSched (b : Nat) : Nat := 0x1000 + b
def pgGate (b : Nat) : Nat := 0x1100 + b
def pgMeter (b : Nat) : Nat := 0x1200 + b
def pgCiph (c : Nat) : Nat := 0x1300 + c
def pgChan (c : Nat) : Nat := 0x1400 + c
def pgHalf (t : Nat) : Nat := 0x1480 + t
def pgPhy : Nat := 0x14C0
def pgTx (t : Nat) : Nat := 0x4000 + t
def pgRx (r : Nat) : Nat := 0x4010 + r
def pgMsix : Nat := 0x4020

/-- The kind of a page number, none where no page is (R514). -/
def pageKind (p : Nat) : Option PageKind :=
  let i := p % 256
  let only (k : PageKind) (n : Nat) : Option PageKind := if i < n then some k else none
  match p / 256 with
  | 0x00 => only .host 1
  | 0x01 => only .ident 1
  | 0x02 => only .boot 1
  | 0x03 => only .time 1
  | 0x04 => if i < 2 then some .pwrt else if i = 2 then some .pwrd else none
  | 0x05 => only .lehr 1
  | 0x06 => only .mirr 1
  | 0x08 => only .port 32
  | 0x09 => only .serdes 56
  | 0x0A => only .marver 8
  | 0x0B => only .cls 8
  | 0x0C => only .fdb 8
  | 0x0D => only .strm 8
  | 0x0E => only .buf 8
  | 0x0F => only .core 8
  | 0x10 => only .sched 8
  | 0x11 => only .gate 8
  | 0x12 => only .meter 8
  | 0x13 => only .ciph 4
  | 0x14 => if i < 32 then some .crucc else if i = 0x80 ∨ i = 0x81 then some .cruch
      else if i = 0xC0 then some .crucp else none
  | 0x40 => if i < 16 then some .txring else if i < 32 then some .rxring else if i = 32 then some .msix else none
  | _ => none

/-- The team whose hub serves a page, none for the shared hub (R30, R514). -/
def pageTeam (p : Nat) : Option Nat :=
  let i := p % 256
  match p / 256 with
  | 0x08 => some (i / 16)
  | 0x09 => some (i / 28)
  | 0x13 => some (i / 2)
  | 0x14 => if i < 32 then some (i / 16) else if i = 0xC0 then none else some (i - 0x80)
  | c => if 0x0A ≤ c ∧ c ≤ 0x12 then some (i / 4) else none

/-- Every page of BAR0. -/
def allPages : List Nat :=
  [pgHost, pgIdent, pgBoot, pgTime, pgPwr 0, pgPwr 1, pgDev, pgLehr, pgMirr] ++
  (List.range 32).map pgPort ++ (List.range 56).map pgSerdes ++
  ([0xA, 0xB, 0xC, 0xD, 0xE, 0xF, 0x10, 0x11, 0x12].flatMap fun c => (List.range 8).map fun b => c * 256 + b) ++
  (List.range 4).map pgCiph ++ (List.range 32).map pgChan ++ [pgHalf 0, pgHalf 1, pgPhy]

/-- The first page of a team's table registers (R185, R223, R226, R298). -/
def teamPage (c t : Nat) : Nat := c * 256 + 4 * t

/-! Register words: the row that holds an offset, its key and its factory word. -/

/-- The register row of a page that holds byte offset `off`, with the index within it. -/
def findRow (rows : List RegRow) (off : Nat) : Option (RegRow × Nat) :=
  rows.findSome? fun r =>
    let span := if r.cnt then 8 else 4
    if r.off ≤ off ∧ (off - r.off) / r.stride < r.count ∧ (off - r.off) % r.stride < span then
      some (r, (off - r.off) / r.stride)
    else none

/-- The pages that hold a row (R185, R104). -/
def scopeHas (p : Nat) : Scope → Bool
  | .all => true
  | .team => decide (p % 256 = 0 ∨ p % 256 = 4)
  | .mdio => decide (p % 256 % 8 = 0)

/-- The row at an offset of a page, none where the offset is reserved (R15). -/
def rowAt (p off : Nat) : Option (RegRow × Nat) :=
  match pageKind p with
  | none => none
  | some k => match findRow k.rows off with
    | some (r, i) => if scopeHas p r.scope then some (r, i) else none
    | none => none

/-- The key of a register word or counter: its page, byte offset and window index. -/
def rkey (p off w : Nat) : Nat := (p * 1024 + off / 4) * 4096 + w

/-- The serial number: never 0 and never all ones (R10). -/
def serialNumber : Nat := Config.fusedSerial.toNat % (2 ^ 64 - 2) + 1

/-- Factory words that depend on the instance (R75, R104, R298, R534, R9); a wafer's number is 1 to 25. -/
def factorySpecial (k : PageKind) (p off w : Nat) : Option Nat :=
  let i := p % 256
  match k with
  | .serdes => if off = 0x040 then some (if quadIsField i then 0 else 2 ^ 30) else none
  | .port => if off = 0x040 then some (if i % 4 = 3 then 2 ^ 16 else 0) else none
  | .core => if off = 0x0C4 ∧ w % 4 = 3 then some 0
      else if (off = 0x0C8 ∨ off = 0x0CC) ∧ w % 4 = 3 then some 0 else none
  | .txring => if off = 0x08 then some ((32 + i) * 2 ^ 24 + 8 * 2 ^ 16) else none
  | .rxring => if off = 0x08 then some ((48 + (i - 16)) * 2 ^ 24 + 8 * 2 ^ 16 + 8) else none
  | .boot => if off = 0x058 then some (Config.fusedBoot.toNat &&& 0x3F3F0F0F) else none
  | .ident => if off = 0x044 then some Config.fusedLot.toNat
      else if off = 0x048 then some ((1 + Config.fusedWafer.toNat / 2 ^ 16 % 25) * 2 ^ 16 + Config.fusedWafer.toNat % 2 ^ 16)
      else if off = 0x04C then some (serialNumber % 2 ^ 32)
      else if off = 0x050 then some (serialNumber / 2 ^ 32) else none
  | _ => none

/-- The common page registers at their factory values (R515 to R518). -/
def commonFactory (p off : Nat) : Nat :=
  match off with
  | 0x000 => 0x4C * 2 ^ 24 + (p / 256) * 256 + p % 256
  | 0x004 => 1
  | 0x00C => 2 ^ 31
  | _ => 0

/-- The factory word of a register (R14), by page, offset and window index. -/
def factoryWord (p off w : Nat) : Nat :=
  if off < 0x20 ∧ p < 0x4000 then commonFactory p off
  else match rowAt p off with
    | none => 0
    | some (r, _) => match pageKind p with
      | some k => (factorySpecial k p off w).getD r.factory
      | none => 0

/-- The factory word of a register key. -/
def factory (k : Nat) : W32 :=
  BitVec.ofNat 32 (factoryWord (k / 4096 / 1024) (k / 4096 % 1024 * 4) (k % 4096))

/-- What an unlisted counter holds. -/
def zeroCtr (_ : Nat) : W64 := 0

end Sys2Proof.Machine
end

