-- ==== Sys2Proof/Machine/Ops.lean ====
section
/-! DEFINITION. The operations every meaning is built from: register words and fields, counters, free values, the time,
and pages that answer. -/

namespace Sys2Proof.Machine

/-- The word of a register, by page, offset and window index. -/
def State.rd (s : State) (p off : Nat) (w : Nat := 0) : W32 := Tab.get factory s.regs (rkey p off w)

/-- Write the word of a register. -/
def State.wr (s : State) (p off : Nat) (v : W32) (w : Nat := 0) : State :=
  { s with regs := Tab.set factory s.regs (rkey p off w) v }

/-- A register field as a number. -/
def State.fld (s : State) (p : Nat) (f : Fld) (w : Nat := 0) : Nat := bits (s.rd p f.off w).toNat f.hi f.lo

/-- A one-bit field. -/
def State.flag (s : State) (p : Nat) (f : Fld) (w : Nat := 0) : Bool := s.fld p f w == 1

/-- Write a register field, leaving the rest of its word. -/
def State.setFld (s : State) (p : Nat) (f : Fld) (v : Nat) (w : Nat := 0) : State :=
  s.wr p f.off (BitVec.ofNat 32 (setBits (s.rd p f.off w).toNat f.hi f.lo v)) w

/-- A counter's value (R519). -/
def State.ctr (s : State) (p off : Nat) (w : Nat := 0) : W64 := Tab.get zeroCtr s.ctrs (rkey p off w)

/-- Add to a counter, which wraps (R519). -/
def State.addCtr (s : State) (p off n : Nat) (w : Nat := 0) : State :=
  { s with ctrs := Tab.set zeroCtr s.ctrs (rkey p off w) (s.ctr p off w + BitVec.ofNat 64 n) }

/-- Add 1 to a counter. -/
def State.bump (s : State) (p off : Nat) (w : Nat := 0) : State := s.addCtr p off 1 w

/-- A free value of `w` bits, and the state with it drawn. -/
def State.free (s : State) (w : Nat) : Nat × State :=
  ((Config.freeValue s.nonce).toNat % 2 ^ w, { s with nonce := s.nonce + 1 })

/-- The cause bits of a page (R517). -/
def pageCauses (p : Nat) : Nat :=
  match pageKind p with
  | none => 0
  | some .port => PageKind.port.causes ||| (if p % 8 = 0 then 3 * 2 ^ 19 else 0)
  | some k => if scopeHas p .team then k.causes else k.causes - k.teamCauses

/-- Raise an interrupt cause: set its bit of the page's INT_STATUS (R517, R523). -/
def State.raise (s : State) (p i : Nat) : State :=
  s.wr p 0x010 (s.rd p 0x010 ||| BitVec.ofNat 32 (2 ^ i))

/-- Change a list of states one after another. -/
def State.each {α : Type} (s : State) (l : List α) (f : State → α → State) : State := l.foldl f s

/-- Do `f` when `c` holds. -/
def State.ifDo (s : State) (c : Bool) (f : State → State) : State := if c then f s else s

/-- The number of the grid tick (R47). -/
def State.gridTick (s : State) : Nat := s.time.tick.toNat

/-- The local tick number a bench counts (R48). -/
def State.localTick (s : State) (b : Nat) : Nat := (s.tickAt b).num.toNat

/-- The time is valid (R64). -/
def State.timeValid (s : State) : Bool := s.flag pgTime Reg.TIME.STAT_TIME_VALID

/-- A timestamp of now in the full form, 0 while the time is invalid (R64, R66). -/
def State.stamp (s : State) : Nat := if s.timeValid then s.time.now else 0

/-- Seconds of a time in ns, 48 bits (R61). -/
def secOf (t : Nat) : Nat := t / 1000000000 % 2 ^ 48
/-- Nanoseconds of a time in ns (R61). -/
def nsOf (t : Nat) : Nat := t % 1000000000

/-- The short form of a timestamp (R66). -/
def shortStamp (t : Nat) : Nat := secOf t % 4 * 2 ^ 30 + nsOf t

/-- The time as it stands no earlier than `t`: an event of the instant `t` finds the time there. -/
def State.reach (s : State) (t : Nat) : State :=
  if s.time.now < t then { s with time := { s.time with now := t, sub := 0 } } else s

/-- The timestamp of an instant `age` ns ago on a course of the time that stands at `now`: 0 where the time was invalid then
(R64, R67). An invalid stretch of the course lasted `gap` ns. -/
def stampBack (gap now : Nat) : List TimeEvent → Nat → Nat
  | [], age => now - age
  | e :: rest, age =>
    let r := age - (now - e.after)
    if age ≤ now - e.after then now - age
    else match e.before with
      | some t => if !e.lost then stampBack gap t rest r else if gap < r then stampBack gap t rest (r - gap) else 0
      | none => 0

/-- The timestamp of an instant `age` ns ago in the full form (R64, R67). How long the time has been invalid is not counted: the
length of an invalid stretch is free (log 225). -/
def State.stampAgo (s : State) (age : Nat) : Nat × State :=
  if s.timeValid && !s.time.hist.any TimeEvent.lost then (stampBack 0 s.time.now s.time.hist age, s)
  else
    let (gap, s1) := s.free 32
    (if s.timeValid then stampBack gap s.time.now s.time.hist age
     else match s.time.hist with
      | e :: rest => stampBack gap s.time.now ({ e with after := s.time.now } :: rest) age
      | [] => 0, s1)

/-! Power domains by number (R437). -/
def domIngress (b : Nat) : Nat := 56 + b
def domEgress (b : Nat) : Nat := 64 + b
def domTable (k : Nat) : Nat := 72 + k
def domBuffer (b : Nat) : Nat := 88 + b
def domCipher (c : Nat) : Nat := 96 + c
def domHalf (t : Nat) : Nat := 100 + t
def domClock (t : Nat) : Nat := 102 + t
def domSpill (t : Nat) : Nat := 104 + t
def domPhy : Nat := 106
def domMirror : Nat := 107
def domHost : Nat := 108
def domTime : Nat := 109
def domGaffer : Nat := 110
def domAon : Nat := 111

/-- A domain that VCORE_S feeds has stopped: host, time, gaffer, and the HBM PHY (R552). -/
def State.domDark (s : State) (d : Nat) : Bool :=
  s.pins.sharedDown && (d == domHost || d == domTime || d == domGaffer || d == domPhy)
/-- A domain is ON or IDLE, and has its supply. -/
def State.domOn (s : State) (d : Nat) : Bool := decide ((s.domAt d).st ≤ 1) && !s.domDark d

/-- A team's hub answers (R32): the team has not failed, its hub is not faulty, and the clocking domain that holds the hub
(R437) is ON or IDLE. -/
def State.hubUp (s : State) (t : Nat) : Bool :=
  !(s.teamAt t).failed && !(s.hub.faulty.contains t) && s.domOn (domClock t)

/-- The hub of a page answers. -/
def State.pageUp (s : State) (p : Nat) : Bool :=
  match pageTeam p with
  | none => true
  | some t => s.hubUp t

end Sys2Proof.Machine
end

