-- ==== Sys2Proof/Machine/Flags.lean ====
section
/-! DEFINITION. The interrupt tree (R523, R524): which pages and rings are pending, which vectors are active, and the
messages they send. Every meaning ends by settling it. -/

namespace Sys2Proof.Machine

/-- The hub of a page has not answered since its absence was reported (R525, R526). -/
def State.hubSilent (s : State) (p : Nat) : Bool :=
  match pageTeam p with
  | none => false
  | some t => s.hub.reported.contains t

/-- A page is pending: its hub answers, INT_EN = 1, and an enabled cause is set (R516, R523, R525). -/
def State.pagePending (s : State) (p : Nat) : Bool :=
  s.pageUp p && !s.hubSilent p && s.flag p Reg.COMMON.INT_EN && ((s.rd p 0x010 &&& s.rd p 0x014) != 0)

/-- Pages of BAR0 whose INT_STATUS is not 0. -/
def State.statusPages (s : State) : List Nat :=
  (s.regs.filter fun e => decide (e.1 / 4096 % 1024 = 4 ∧ e.1 / 4096 / 1024 < 0x4000)).map fun e => e.1 / 4096 / 1024

/-- The block of ring `i`: transmit 0 to 15, receive 16 to 31. -/
def ringPage (i : Nat) : Nat := if i < 16 then pgTx i else pgRx (i - 16)

/-- A message for a ring was sent: its COAL runs (R532). -/
def State.cool (s : State) (i : Nat) : State :=
  s.onRing i fun r => { r with cooling := s.rd (ringPage i) Reg.TXRING.COAL.off != 0 }

/-- A ring is pending (R523). -/
def State.ringPending (s : State) (i : Nat) : Bool :=
  let p := ringPage i
  s.flag p Reg.TXRING.CFG_IRQ_EN && s.flag p Reg.TXRING.STAT_IRQ

/-- The active vectors, a bit each (R523). -/
def State.vectors (s : State) : Nat :=
  let a := s.statusPages.foldl
    (fun m p => if s.pagePending p then m ||| 2 ^ s.fld p Reg.COMMON.VECTOR else m) 0
  (List.range 32).foldl
    (fun m i => if s.ringPending i then
      m ||| 2 ^ s.fld (ringPage i) Reg.TXRING.CFG_VECTOR else m) a

/-- A message cannot be sent and sets the PBA bit instead (R524). -/
def State.msixHeld (s : State) (v : Nat) : Bool :=
  s.flag pgMsix (Reg.MSIX.VCTL_MASK v) || s.pcie.fmask || !s.pcie.msix || !s.pcie.bme || s.pcie.d3

/-- A vector sends its message (R524). -/
def State.message (s : State) (v : Nat) : State :=
  if s.msixHeld v then { s with irq := { s.irq with pba := s.irq.pba ||| BitVec.ofNat 64 (2 ^ v) } }
  else if s.rd pgMsix (Reg.MSIX.ADDR_LO v).off = 0 ∧ s.rd pgMsix (Reg.MSIX.ADDR_HI v).off = 0 then
    s.bump pgHost Reg.HOST.MSIX_NOADDR
  else
    let s1 := { s with irq := { s.irq with sent := v :: s.irq.sent, pba := s.irq.pba &&& ~~~ BitVec.ofNat 64 (2 ^ v) } }
    s1.each ((List.range 32).filter fun i => s.ringPending i && s.fld (ringPage i) Reg.TXRING.CFG_VECTOR == v) State.cool

/-- The vectors take their new state, and each that has become active sends its message (R523, R524). -/
def settle (s : State) : State :=
  let now := BitVec.ofNat 64 s.vectors
  let rising := now &&& ~~~ s.irq.active
  let s1 := { s with irq := { s.irq with active := now, pba := s.irq.pba &&& now } }
  s1.each ((List.range 64).filter fun v => bit rising.toNat v) State.message

/-- The outcome of a command whose effect leaves `s`. -/
def finish (s : State) : Host.Outcome State Fault Refusal := .next (settle s)

end Sys2Proof.Machine
end

