-- ==== Sys2Proof/Machine/Lehr.lean ====
section
/-! DEFINITION. The lehr's register image (R463 to R468): its records, write-through of ·L changes, and what a restore
reads from it. -/

namespace Sys2Proof.Machine

/-- First byte and end of the register image (R463). -/
def imgLo : Nat := 0x1000
def imgHi : Nat := 0x100000

/-- A lehr word, first byte most significant (R477). -/
def State.lehrWord (s : State) (a : Nat) : Nat := beNat (Tab.getList zeroByte s.lehr.mem a 4)
def State.setLehrWord (s : State) (a v : Nat) : State :=
  { s with lehr := { s.lehr with mem := Tab.setList zeroByte s.lehr.mem a (natBE 4 v) } }

/-- A data word of the register image: the byte address of its record's header and of itself, its page and register,
the instance its page's index selects when the register is windowed, and its value. -/
structure ImgWord where
  hdr : Nat
  pos : Nat
  page : Nat
  off : Nat
  idx : Nat
  val : Nat
  deriving DecidableEq, Repr

/-- The index register of a windowed register, with its largest index. -/
def winOf (p off : Nat) : Option (Nat × Nat) := (rowAt p off).bind fun r => r.1.win

/-- The ·L bits of a register (R14). -/
def lehrBits (p off : Nat) : Nat := match rowAt p off with
  | some (r, _) => r.lehr
  | none => 0

/-- The writable bits of a register (R12): those of access RW. -/
def rwBits (p off : Nat) : Nat := match rowAt p off with
  | some (r, _) => r.rw
  | none => 0

/-- A data word names a register: its page has one there, and a windowed one the instance selected. -/
def ImgWord.names (w : ImgWord) : Bool :=
  (rowAt w.page w.off).isSome && (match winOf w.page w.off with
    | some (_, m) => decide (w.idx ≤ m)
    | none => true)

/-- The words of one record, and the selections of index registers after it. The fields of an index register's data word select
the instance of its window's registers in the records that follow (see the assumption log). -/
def recordWords (m : Tab Byte) (hdr page : Nat) : Nat → Nat → Nat → List (Nat × Nat) → List ImgWord × List (Nat × Nat)
  | 0, _, _, sel => ([], sel)
  | n + 1, off, pos, sel =>
    let v := beNat (Tab.getList zeroByte m pos 4)
    let sel' := (page * 4096 + off, v &&& rwBits page off) :: sel.filter fun e => e.1 != page * 4096 + off
    let idx := match winOf page off with
      | some (wo, _) => ((sel.find? fun e => e.1 == page * 4096 + wo).map Prod.snd).getD 0
      | none => 0
    let (ws, sel'') := recordWords m hdr page n (off + 4) (pos + 4) sel'
    ({ hdr := hdr, pos := pos, page := page, off := off, idx := idx, val := v } :: ws, sel'')

/-- The words of the register image from a position, and the position of its end record (R464). -/
def imgWords (m : Tab Byte) : Nat → Nat → List (Nat × Nat) → List ImgWord × Nat
  | 0, pos, _ => ([], pos)
  | fuel + 1, pos, sel =>
    let h := beNat (Tab.getList zeroByte m pos 4)
    if h = 0 ∨ imgHi ≤ pos + 4 then ([], pos)
    else
      let n := bits h 7 0
      let (ws, sel') := recordWords m pos (bits h 31 18) n (bits h 17 8 * 4) (pos + 4) sel
      let (rest, e) := imgWords m fuel (pos + 4 + 4 * n) sel'
      (ws ++ rest, e)

/-- The register image of the lehr. -/
def State.image_ (s : State) : List ImgWord × Nat := imgWords s.lehr.mem 261120 imgLo []

/-- Records that name no page or no register (R464). -/
def badRecords (ws : List ImgWord) : Nat :=
  ((ws.filter fun w => !w.names).map fun w => w.hdr).eraseDups.length

/-- A header word of the image (R464). -/
def imgHeader (p off n : Nat) : Nat := p * 2 ^ 18 + off / 4 * 2 ^ 8 + n

/-- Write a register's word into the image: over the last record that holds it, or in new records before the end
(R465). -/
def State.putImage (s : State) (p off w : Nat) (v : W32) : State :=
  let (ws, e) := s.image_
  match (ws.filter fun x => x.page == p && x.off == off && (x.idx == w || (winOf p off).isNone)).getLast? with
  | some x => s.setLehrWord x.pos v.toNat
  | none =>
    let recs := (match winOf p off with
      | some (wo, _) => [imgHeader p wo 1, w]
      | none => []) ++ [imgHeader p off 1, v.toNat, 0]
    if imgHi < e + 4 * recs.length then s
    else (List.range recs.length).foldl (fun s k => s.setLehrWord (e + 4 * k) (recs[k]?.getD 0)) s

/-- LSTAT.VALID. -/
def State.lehrValid (s : State) : Bool := s.flag pgLehr Reg.LEHR.LSTAT_VALID

/-- Set LSTAT.VALID and the header's VALID (R463, R467). -/
def State.setLehrValid (s : State) (b : Bool) : State :=
  (s.setFld pgLehr Reg.LEHR.LSTAT_VALID (b2n b)).setLehrWord 16 (b2n b)

/-- A change of a ·L field reaches the image, or is held (R465, R468, R518). -/
def State.through (s : State) (p off w : Nat) : State :=
  if lehrBits p off = 0 ∨ s.flag p Reg.COMMON.WITHHOLD then s
  else if s.flag pgLehr Reg.LEHR.LCTRL_HOLD then
    if s.lehr.held.length < 4096 then
      let s1 := { s with lehr := { s.lehr with held := s.lehr.held ++ [(p, off, w, s.rd p off w)] } }
      s1.setFld pgLehr Reg.LEHR.LSTAT_HELD s1.lehr.held.length
    else ({ s with lehr := { s.lehr with lost := true } }).bump pgDev Reg.PWRD.WT_LOST
  else if s.lehrValid then
    let s1 := s.putImage p off w (s.rd p off w)
    { s1 with lehr := { s1.lehr with wt := some s.gridTick } }
  else s

/-- Write a register word that a command or the hardware sets, with its write-through (R465). -/
def State.wrL (s : State) (p off : Nat) (v : W32) (w : Nat := 0) : State := (s.wr p off v w).through p off w

/-- Write a register field, with its write-through. -/
def State.setL (s : State) (p : Nat) (f : Fld) (v : Nat) (w : Nat := 0) : State := (s.setFld p f v w).through p f.off w

/-- The write-one-to-clear bits of a register. -/
def w1cBits (p off : Nat) : Nat := match rowAt p off with
  | some (r, _) => r.w1c
  | none => 0

/-- A register's word after a host write that only its access codes govern (R12). -/
def accessWrite (old v rw w1c : Nat) : Nat :=
  ((old &&& (0xFFFFFFFF ^^^ rw)) ||| (v &&& rw)) &&& (0xFFFFFFFF ^^^ (v &&& w1c))

/-- A host write to a register that has no behaviour of its own (R12, R465). -/
def State.plainWrite (s : State) (p off w : Nat) (v : W32) : State :=
  let rw := rwBits p off
  s.wrL p off (BitVec.ofNat 32 (accessWrite (s.rd p off w).toNat v.toNat rw (w1cBits p off))) w

end Sys2Proof.Machine
end

