-- ==== Sys2Proof/Machine/Page.lean ====
section
/-! DEFINITION. How an access reaches its page (R27 to R32, R439, R493, R510): hubs that do not answer, pages whose
domain sleeps, a start that has failed, D3hot. -/

namespace Sys2Proof.Machine

/-- The domain a page lies in (R439). -/
def pageDomain (p : Nat) : Nat :=
  let i := p % 256
  match p / 256 with
  | 0x03 => domTime
  | 0x04 | 0x05 => domAon
  | 0x06 => domMirror
  | 0x08 => domClock (i / 16)
  | 0x09 => i
  | 0x0A | 0x0B | 0x0C | 0x0D | 0x12 => domIngress i
  | 0x0E => domBuffer i
  | 0x0F | 0x10 | 0x11 => domEgress i
  | 0x13 => domCipher i
  | 0x14 => if i < 32 then domHalf (i / 16) else if i = 0xC0 then domPhy else domHalf (i - 0x80)
  | _ => domHost

/-- A domain is ON or IDLE, and enters or leaves no deeper state (R439). -/
def State.domSteady (s : State) (d : Nat) : Bool := s.domOn d && (s.domAt d).trans.isNone

/-- A page of a start that has FAILED that does not answer (R493). -/
def State.pageLost (s : State) (p : Nat) : Bool := s.boot.stage == 15 && decide (2 < p / 256)

/-- The shared hub completes an access in place of a team hub (R32, R526). -/
def State.hubMissing (s : State) (t : Nat) (write : Bool) : State :=
  let s1 := s.bump pgHost Reg.HOST.HUB_TIMEOUTS
  let s2 := if write then s1.bump pgHost Reg.HOST.HUB_WR_DISCARD else s1
  if s2.hub.reported.contains t then s2
  else { s2 with hub := { s2.hub with reported := t :: s2.hub.reported } }.raise pgHost 0

/-- A team hub has answered: its absence is over (R526). -/
def State.hubBack (s : State) (t : Nat) : State :=
  { s with hub := { s.hub with reported := s.hub.reported.filter fun x => x != t } }

/-- The hub of a page has answered. -/
def State.hubAnswered (s : State) (p : Nat) : State :=
  match pageTeam p with
  | some t => s.hubBack t
  | none => s

/-- A write to a sleeping page is discarded (R439). -/
def State.downWrite (s : State) : State := (s.bump pgDev Reg.PWRD.DOWN_WRITES).raise pgDev 4

/-- A write reaches page `p` and takes effect `f`, unless the page does not answer. -/
def State.onPage (s : State) (p : Nat) (f : State → State) : State :=
  if s.pageLost p then s.bump pgHost Reg.HOST.HUB_WR_DISCARD
  else if !s.pageUp p then s.hubMissing ((pageTeam p).getD 0) true
  else
    let s1 := s.hubAnswered p
    if s1.domSteady (pageDomain p) then f s1 else s1.downWrite

/-- The host reaches nothing: VCORE_S has fallen, the device is in cold reset, or it asserts a full reset, with the PCIe link
down and the I2C target released (R451, R480, R482, R504, R552; the power-on state is log 3). -/
def State.hostGone (s : State) : Bool := s.pins.sharedDown || s.dev.st == 3 || (s.boot.asserted && s.boot.warm)

/-- The page of an access that waits at a hub, and the team of the hub. -/
def HubAcc.page : HubAcc → Nat
  | .cmd c => c.page
  | .write p _ _ _ | .read p _ => p
  | .mbox b _ _ => pgBuf b
def HubAcc.team (a : HubAcc) : Nat := (pageTeam a.page).getD 0

/-- An access to a page waits: its hub has yet to take an earlier one (R31). -/
def State.waits (s : State) (p : Nat) : Bool :=
  match pageTeam p with
  | some t => s.hub.held.any fun a => a.team == t
  | none => false

/-- A hub has an access to take later. -/
def State.hold (s : State) (a : HubAcc) : State := { s with hub := { s.hub with held := s.hub.held ++ [a] } }

/-- A PCIe write to a page: nothing in D3hot (R510). -/
def State.hostWrite (s : State) (p : Nat) (f : State → State) : State :=
  if s.pcie.d3 || s.hostGone then s else s.onPage p f

/-- A read of page `p` returns what `f` gives, unless the page does not answer; while the page's domain sleeps it returns
`asleep`, which is 0 for every register but PAGE_ID (R439). A page number that no page has reads all ones (R28). -/
def State.fromPage (s : State) (p : Nat) (f : State → W32 × State) (asleep : W32 := 0) : W32 × State :=
  if (pageKind p).isNone then (0xFFFFFFFF, s)
  else if s.pageLost p then (0xFFFFFFFF, s)
  else if !s.pageUp p then (0xFFFFFFFF, s.hubMissing ((pageTeam p).getD 0) false)
  else
    let s1 := s.hubAnswered p
    if s1.domSteady (pageDomain p) then f s1 else (asleep, s1)

/-- The completion of a read. -/
def State.respond (r : W32 × State) : State := { r.2 with resp := [r.1] }

/-- A PCIe read of a page: all ones in D3hot (R510). -/
def State.hostRead (s : State) (p : Nat) (f : State → W32 × State) (asleep : W32 := 0) : State :=
  if s.pcie.d3 || s.hostGone then { s with resp := [0xFFFFFFFF] } else State.respond (s.fromPage p f asleep)

/-- A PCIe access to a page of a team: one with effect `f`, or `a`, to be taken later, where the hub has yet to take an earlier
one (R31). -/
def State.hubAccess (s : State) (a : HubAcc) (f : State → State) : State :=
  if s.waits a.page && !(s.pcie.d3 || s.hostGone) then s.hold a else f s

/-- A PCIe write of a word of any page: `f` is its effect. -/
def State.wordWrite (s : State) (p off : Nat) (v : W32) (f : State → State) (keep : W32 := 0) : State :=
  s.hubAccess (.write p off v keep) fun s => s.hostWrite p f

/-- A PCIe read of a word of any page: `f` is its effect. -/
def State.wordRead (s : State) (p off : Nat) (f : State → W32 × State) (asleep : W32 := 0) : State :=
  s.hubAccess (.read p off) fun s => s.hostRead p f asleep

end Sys2Proof.Machine
end

