-- ==== Sys2Proof/Machine/Gate.lean ====
section
/-! DEFINITION. Gate control lists (R318 to R325): the list in force at a time, gate states, windows, config changes
and the list window. -/

namespace Sys2Proof.Machine

/-- A register field of a port's GATE page. -/
def State.gfld (s : State) (p : Nat) (f : Fld) : Nat := s.fld (pgGate (portBench p)) f (portLocal p)
def State.setGfld (s : State) (p : Nat) (f : Fld) (v : Nat) : State :=
  s.setFld (pgGate (portBench p)) f v (portLocal p)
def State.gateCount (s : State) (p c : Nat) : State := s.bump (pgGate (portBench p)) c (portLocal p)
def State.gateRaise (s : State) (p i : Nat) : State := s.raise (pgGate (portBench p)) i

/-- A time in ns from its register fields. -/
def timeOf (hi lo ns : Nat) : Nat := (hi * 2 ^ 32 + lo) * 1000000000 + ns

def State.operBase (s : State) (p : Nat) : Nat :=
  timeOf (s.gfld p Reg.GATE.OPER_BASE_SEC_HI) (s.gfld p Reg.GATE.OPER_BASE_SEC_LO) (s.gfld p Reg.GATE.OPER_BASE_NS)
def State.operCycle (s : State) (p : Nat) : Nat := s.gfld p Reg.GATE.OPER_CYCLE
def State.operExt (s : State) (p : Nat) : Nat := s.gfld p Reg.GATE.OPER_EXT
def State.operLen (s : State) (p : Nat) : Nat := s.gfld p Reg.GATE.OPER_LEN
def State.operBank (s : State) (p : Nat) : Nat := s.gfld p Reg.GATE.GSTAT_OPER_BANK
def State.cct (s : State) (p : Nat) : Nat :=
  timeOf (s.gfld p Reg.GATE.CCT_SEC_HI) (s.gfld p Reg.GATE.CCT_SEC_LO) (s.gfld p Reg.GATE.CCT_NS)
def State.gatePending (s : State) (p : Nat) : Bool := s.gfld p Reg.GATE.GSTAT_PENDING == 1
def State.gateEn (s : State) (p : Nat) : Bool := s.gfld p Reg.GATE.GCTRL_GATE_EN == 1

/-- An entry of a gate list: operation, gates, interval (R318). -/
structure GclEntry where
  op : Nat
  gates : Nat
  len : Nat
  deriving DecidableEq, Repr

/-- The entry that a stored word spells; an interval below 32 acts as 32, OP 3 as 0 (R318). -/
def gclOf (w : Nat) : GclEntry :=
  { op := if bits w 63 62 = 3 then 0 else bits w 63 62, gates := bits w 39 32, len := max 32 (bits w 31 0) }

/-- The word at an index of a port's list bank. -/
def State.gclWord (s : State) (p bank i : Nat) : Nat := Tab.get (fun _ => 0) (s.gateAt p).banks (bank * 1024 + i)

/-- The oper list of a port. -/
def State.operList (s : State) (p : Nat) : List GclEntry :=
  (List.range (s.operLen p)).map fun i => gclOf (s.gclWord p (s.operBank p) i)

/-- A stretch of a cycle: the entry's index, its beginning, its end. -/
structure Segment where
  idx : Nat
  lo : Nat
  hi : Nat
  op : Nat
  gates : Nat
  deriving DecidableEq, Repr

/-- The entries of a list as stretches of a cycle: an entry is cut short at the cycle's end, and the last one lasts to
it (R319). -/
def segments (cycle : Nat) : Nat → Nat → List GclEntry → List Segment
  | _, _, [] => []
  | i, o, e :: t =>
    if cycle ≤ o then []
    else
      let hi := if t.isEmpty then cycle else min cycle (o + e.len)
      { idx := i, lo := o, hi := hi, op := e.op, gates := e.gates } :: segments cycle (i + 1) (o + e.len) t

def State.operSegs (s : State) (p : Nat) : List Segment := segments (s.operCycle p) 0 0 (s.operList p)

/-- The stretches of a cycle of the list that a pending change brings: the first begins at its CCT (R322, R323). -/
def State.pendSegs (s : State) (p : Nat) : List Segment :=
  match (s.gateAt p).pend with
  | some (_, cycle, _, len) => segments cycle 0 0 ((List.range len).map fun i => gclOf (s.gclWord p (1 - s.operBank p) i))
  | none => []

/-- The offset of an instant in its cycle: cycles lie at base + k × cycle for every integer k (R319). -/
def cycleOff (base cycle t : Nat) : Nat := (((t : Int) - (base : Int)) % (cycle : Int)).toNat

/-- The oper cycle start S of R323 and G, for the pending change. -/
def State.lastCycle (s : State) (p : Nat) : Nat × Nat :=
  let g := cycleOff (s.operBase p) (s.operCycle p) (s.cct p)
  (s.cct p - g, g)

/-- The cycle that would start before CCT is not begun (R323). -/
def State.extended (s : State) (p t : Nat) : Bool :=
  s.gatePending p && (let (start, g) := s.lastCycle p
    decide (0 < g ∧ g ≤ s.operExt p ∧ start ≤ t ∧ t < s.cct p))

/-- The stretch in force at an instant (R319, R323). -/
def State.segAt (s : State) (p t : Nat) : Option Segment :=
  if s.extended p t then (s.operSegs p).getLast?
  else
    let o := cycleOff (s.operBase p) (s.operCycle p) t
    (s.operSegs p).find? fun g => decide (g.lo ≤ o ∧ o < g.hi)

/-- GSTAT.MODE: 0 off, 1 run, 2 time wait, 3 all open before the first change (R320). -/
def State.gateMode (s : State) (p : Nat) : Nat :=
  if !s.gateEn p then 0 else if !s.timeValid then 2 else if !(s.gateAt p).first then 3 else 1

/-- The gates of a port at an instant, a bit each (R320). -/
def State.gatesAt (s : State) (p t : Nat) : Nat :=
  match s.gateMode p with
  | 1 => match s.segAt p t with
    | some g => g.gates
    | none => 0xFF
  | 2 => s.gfld p Reg.GATE.GCTRL_FAIL_STATES
  | _ => 0xFF

/-- Gate `c` is open now. -/
def State.gateOpen (s : State) (p c : Nat) : Bool := bit (s.gatesAt p s.time.now) c

/-- The first beginning of a stretch that meets `f` after the instant `t`, which has offset `o` in its cycle: in that
cycle or in the next. -/
def nextSeg (segs : List Segment) (cycle t o : Nat) (f : Segment → Bool) : Option Nat :=
  match segs.find? fun g => decide (o < g.lo) && f g with
  | some g => some (t + (g.lo - o))
  | none => (segs.find? f).map fun g => t + (cycle - o) + g.lo

/-- The first instant after `t` at which a stretch that meets `f` begins under the oper list; none before CCT when the
list is not begun again (R319, R323). -/
def State.nextBegin (s : State) (p t : Nat) (f : Segment → Bool) : Option Nat :=
  let o := cycleOff (s.operBase p) (s.operCycle p) t
  if s.extended p t then none
  else
    match nextSeg (s.operSegs p) (s.operCycle p) t o f with
    | none => none
    | some e => if s.gatePending p && (let (start, g) := s.lastCycle p
        decide (0 < g ∧ g ≤ s.operExt p ∧ start ≤ e)) then none else some e

/-- The window end of class `c` at `t`, none when it has no end (R325). -/
def State.windowEnd (s : State) (p c t : Nat) : Option Nat :=
  let close := if s.gateMode p = 1 then s.nextBegin p t fun g => !bit g.gates c else none
  let chg := if s.gatePending p && s.timeValid then some (s.cct p) else none
  match close, chg with
  | some a, some b => some (min a b)
  | some a, none => some a
  | none, b => b

/-- The longest run of stretches that meet `f`, over a list taken twice, in ns. -/
def longestRun (f : Segment → Bool) : Nat → Nat → List Segment → Nat
  | best, _, [] => best
  | best, run, g :: t =>
    let run' := if f g then run + (g.hi - g.lo) else 0
    longestRun f (max best run') run' t

/-- MAXWIN of a class, none for no limit (R325). -/
def State.maxWin (s : State) (p c : Nat) : Option Nat :=
  if !s.gateEn p || !(s.gateAt p).first then none
  else
    let segs := s.operSegs p
    let f := fun g : Segment => bit g.gates c
    if segs.all f then none else some (longestRun f 0 0 (segs ++ segs))

/-! ### Config change (R322 to R324) -/

/-- A port enters or leaves TIME_WAIT (R320). -/
def State.gateTrack (s : State) (p : Nat) : State :=
  if s.gateMode p = 2 then
    if (s.gateAt p).waiting then s
    else ((s.onGate p fun g => { g with waiting := true }).gateCount p Reg.GATE.TIME_WAIT_ENTRIES).gateRaise p 3
  else s.onGate p fun g => { g with waiting := false }

/-- CCT: the first ADM_BASE + N × ADM_CYCLE at or after a time, N ≥ 0 (R322). -/
def changeTime (base cycle t : Nat) : Nat := if t ≤ base then base else base + ceilDiv (t - base) cycle * cycle

/-- A request for a config change (R322). -/
def State.changeRequest (s : State) (p : Nat) : State :=
  let len := s.gfld p Reg.GATE.ADM_LEN
  let cycle := s.gfld p Reg.GATE.ADM_CYCLE
  let ns := s.gfld p Reg.GATE.ADM_BASE_NS
  if len = 0 ∨ 1024 < len ∨ cycle = 0 ∨ 1000000000 < cycle ∨ 1000000000 ≤ ns ∨ !s.timeValid then
    ((s.gateCount p Reg.GATE.CONFIG_REJECT).setGfld p Reg.GATE.GSTAT_CHG_REJ 1).gateRaise p 1
  else
    let base := timeOf (s.gfld p Reg.GATE.ADM_BASE_SEC_HI) (s.gfld p Reg.GATE.ADM_BASE_SEC_LO) ns
    let t := changeTime base cycle (s.time.now + 10000)
    let s1 := s.onGate p fun g => { g with pend := some (base, cycle, s.gfld p Reg.GATE.ADM_EXT, len) }
    (((s1.setGfld p Reg.GATE.CCT_NS (nsOf t)).setGfld p Reg.GATE.CCT_SEC_LO (secOf t)).setGfld p
      Reg.GATE.CCT_SEC_HI (secOf t / 2 ^ 32)).setGfld p Reg.GATE.GSTAT_PENDING 1

/-- A pending change completes (R323). -/
def State.changeComplete (s : State) (p : Nat) : State :=
  match (s.gateAt p).pend with
  | none => s
  | some (base, cycle, ext, len) =>
    let s1 := s.onGate p fun g => { g with pend := none, first := true }
    let s2 := (((s1.setGfld p Reg.GATE.OPER_BASE_NS (nsOf base)).setGfld p Reg.GATE.OPER_BASE_SEC_LO (secOf base)).setGfld p
      Reg.GATE.OPER_BASE_SEC_HI (secOf base / 2 ^ 32))
    let s3 := ((s2.setGfld p Reg.GATE.OPER_CYCLE cycle).setGfld p Reg.GATE.OPER_EXT ext).setGfld p Reg.GATE.OPER_LEN len
    let s4 := (s3.setGfld p Reg.GATE.GSTAT_OPER_BANK (1 - s.operBank p)).setGfld p Reg.GATE.GSTAT_PENDING 0
    ((s4.gateCount p Reg.GATE.CONFIG_CHANGES).setGfld p Reg.GATE.GSTAT_CHG_DONE 1).gateRaise p 0

/-- A write of GCTRL for a port: GATE_EN and FAIL_STATES are stored, and CONFIG_CHANGE = 1 requests a change. -/
def State.gctrlWrite (s : State) (p : Nat) (v : W32) : State :=
  let b := portBench p
  let s1 := s.plainWrite (pgGate b) 0x044 (portLocal p) v
  (if bit v.toNat 30 then s1.changeRequest p else s1).gateTrack p

/-! ### The list window (R318, R324, R340) -/

/-- The port a GATE page's window acts for. -/
def State.gatePort (s : State) (b : Nat) : Nat := localPort b (s.fld (pgGate b) Reg.GATE.GIDX_LPORT)

/-- GCL_IDX.INDEX advances by 1, wrapping after 1,023. -/
def State.gclAdvance (s : State) (p : Nat) : State :=
  s.setGfld p Reg.GATE.GCL_IDX_INDEX ((s.gfld p Reg.GATE.GCL_IDX_INDEX + 1) % 1024)

/-- A write of GCL_HI (R324, R340). -/
def State.gclHiWrite (s : State) (p : Nat) (v : W32) : State :=
  if s.gatePending p then (s.gateCount p Reg.GATE.GCL_WR_REJECT).gateRaise p 2
  else
    let hi := v.toNat &&& 0xC00000FF
    let s1 := s.plainWrite (pgGate (portBench p)) 0x108 (portLocal p) v
    let k := (1 - s.operBank p) * 1024 + s.gfld p Reg.GATE.GCL_IDX_INDEX
    (s1.onGate p fun g => { g with
      banks := Tab.set (fun _ => 0) g.banks k (hi * 2 ^ 32 + s.gfld p Reg.GATE.GCL_LO) }).gclAdvance p

/-- A read of GCL_LO (R340). -/
def State.gclLoRead (s : State) (p : Nat) : W32 × State :=
  let w := s.gclWord p (s.gfld p Reg.GATE.GCL_IDX_BANK) (s.gfld p Reg.GATE.GCL_IDX_INDEX)
  (BitVec.ofNat 32 w, s.onGate p fun g => { g with hiLatch := BitVec.ofNat 32 (w / 2 ^ 32) })

/-- A read of GCL_HI (R340). -/
def State.gclHiRead (s : State) (p : Nat) : W32 × State := ((s.gateAt p).hiLatch, s.gclAdvance p)

/-- GCL_LO_READ on a bench's GATE page. -/
def gclLoRead (b : BenchId) (s : State) : State :=
  s.wordRead (pgGate b) 0x104 fun s => s.gclLoRead (s.gatePort b)
def execGclLoRead (b : BenchId) (s : State) : Host.Outcome State Fault Refusal := finish (gclLoRead b s)

/-- GCL_HI_READ on a bench's GATE page. -/
def gclHiRead (b : BenchId) (s : State) : State :=
  s.wordRead (pgGate b) 0x108 fun s => s.gclHiRead (s.gatePort b)
def execGclHiRead (b : BenchId) (s : State) : Host.Outcome State Fault Refusal := finish (gclHiRead b s)

/-- GCL_HI_WRITE on a bench's GATE page. -/
def gclHiWrite (b : BenchId) (v : W32) (s : State) : State :=
  s.wordWrite (pgGate b) 0x108 v fun s => s.gclHiWrite (s.gatePort b) v
def execGclHiWrite (b : BenchId) (v : W32) (s : State) : Host.Outcome State Fault Refusal := finish (gclHiWrite b v s)

end Sys2Proof.Machine
end

