-- ==== Sys2Proof/Machine/Sag.lean ====
section
/-! DEFINITION. Refusals of power requests (R469, R471) and schedule-aware gating (R458 to R462). -/

namespace Sys2Proof.Machine

/-! ### Refusals -/

/-- A counter of the device power page for a domain. -/
def State.domCount (s : State) (d c : Nat) : State := s.bump pgDev c d

/-- An entry of the refusal log, a ring of 64 in the lehr (R471). -/
def State.refusalLog (s : State) (w0 w1 : Nat) : State :=
  let a := 0x130000 + 8 * (s.dev.logPos % 64)
  let s1 := (s.setLehrWord a w0).setLehrWord (a + 4) w1
  let s2 := { s1 with dev := { s1.dev with logPos := (s1.dev.logPos + 1) % 64, unread := min 64 (s1.dev.unread + 1) } }
  if s.dev.unread = 64 then (s2.bump pgDev Reg.PWRD.REF_LOST).raise pgDev 8 else s2

/-- A refusal (R469): against a domain, or the device (none), for a target, by a refuser, of a wake source. -/
def State.refusal (s : State) (d : Option Nat) (target refuser src : Nat) : State :=
  let s1 := match d with
    | some d => (s.domCount d Reg.PWRD.REFUSALS).setFld pgDev Reg.PWRD.DSTAT_LAST_REFUSER refuser d
    | none => s
  let s2 := (s1.bump pgDev (Reg.PWRD.REFUSED (refuser - 1))).raise pgDev 3
  s2.refusalLog (2 ^ 31 + d.getD 0x7F * 2 ^ 24 + target * 2 ^ 21 + refuser * 2 ^ 17 + src * 2 ^ 13)
    (s.gridTick % 2 ^ 32)

/-! ### Gating units -/

/-- The port group of an egress pipeline slice, none for a transmit slice (R458). -/
def sagGroup (u : Nat) : Option Nat := if u < 512 then none else some (u - 512)
/-- A unit's port, or its group's first port. -/
def sagPort (u : Nat) : Nat := if u < 512 then u else groupPort (u - 512) 0
/-- A unit's team. -/
def sagTeam (u : Nat) : Nat := benchTeam (portBench (sagPort u))
/-- The domain a unit lies in (R458). -/
def sagDomain (u : Nat) : Nat := if u < 512 then portQuad u else domEgress ((u - 512) / 4)
/-- Time to enter NAP, ns. -/
def sagEntry (u : Nat) : Nat := if u < 512 then 500 else 1000
/-- Wake time from IDLE (1) or NAP (2), ns. -/
def sagWakeTime (u st : Nat) : Nat :=
  if st = 2 then (if u < 384 then 1500 else if u < 512 then 2500 else 4000) else if u < 512 then 20 else 40
/-- The number of a port within its team (R476). -/
def teamLocal (p : Nat) : Nat := 64 * (portBench p % 4) + portLocal p
/-- SAG_MODE of a port; 3 acts as 1 (R476). -/
def State.sagMode (s : State) (p : Nat) : Nat :=
  let k := teamLocal p
  let m := bits (s.rd (pgPwr (benchTeam (portBench p))) (Reg.PWRT.SAG_MODE (k / 16)).off).toNat (2 * (k % 16) + 1) (2 * (k % 16))
  if m = 3 then 1 else m
def State.sagGuard (s : State) : Nat := s.fld pgDev Reg.PWRD.SAG_GUARD_GUARD

/-- The LSTATE of a port (R104). -/
def State.lstate (s : State) (p : Nat) : Nat :=
  s.fld (pgPort (portGroup p)) (Reg.PORT.PSTAT_LSTATE (portSlot p))
/-- A port is UP. -/
def State.portUp (s : State) (p : Nat) : Bool := s.lstate p == 2

/-- A port's closed window (R459): every gate closed now under its oper list. -/
def State.sagClosed (s : State) (p : Nat) : Bool := s.gateMode p == 1 && s.gatesAt p s.time.now == 0

/-- The end of a port's closed window (R459): its next gate opening or a pending CCT, none when it has no end. -/
def State.sagEnd (s : State) (p : Nat) : Option Nat :=
  let o := s.nextBegin p s.time.now fun g => g.gates != 0
  let c := if s.gatePending p then some (s.cct p) else none
  match o, c with
  | some a, some b => some (min a b)
  | some a, none => some a
  | none, b => b

/-- The earlier of two ends, where none is no end. -/
def soonest : Option Nat → Option Nat → Option Nat
  | some a, some b => some (min a b)
  | some a, none => some a
  | none, b => b

/-- The ports a unit follows. -/
def sagPorts (u : Nat) : List Nat :=
  match sagGroup u with
  | none => [u]
  | some g => (List.range 16).map (groupPort g)

/-- A unit's window end. -/
def State.unitEnd (s : State) (u : Nat) : Option Nat :=
  (sagPorts u).foldl (fun e p => soonest e (s.sagEnd p)) none

/-- What gating of a unit needs of the device and its ports, beside a closed window (R459). -/
def State.sagHolds (s : State) (u : Nat) : Bool :=
  s.dev.st == 0 && (match sagGroup u with
    | none => s.portUp u && s.sagMode u != 0
    | some g => (List.range 16).all fun i => (s.sagAt (groupPort g i)).gated != 0)

/-- The unit may be gated now (R459). -/
def State.sagAllowed (s : State) (u : Nat) : Bool :=
  (s.sagAt u).gated == 0 && !(s.sagAt u).off && !(s.sagAt u).failed && decide ((s.sagAt u).ready ≤ s.time.now) && s.sagHolds u &&
  (decide (512 ≤ u) || s.sagClosed u && (s.txAt u).isNone)

/-- A window leaves at least `n` ns. -/
def leaves (t : Nat) (e : Option Nat) (n : Nat) : Bool :=
  match e with
  | none => true
  | some e => decide (t + n ≤ e)

/-- The choice of R459: NAP, IDLE or no gating. -/
def State.sagChoice (s : State) (u : Nat) : Nat :=
  let e := s.unitEnd u
  if (sagPorts u).all (fun p => s.sagMode p == 2) &&
      leaves s.time.now e (sagEntry u + sagWakeTime u 2 + s.sagGuard) then 2
  else if leaves s.time.now e (sagWakeTime u 1 + s.sagGuard) then 1
  else 0

/-- SAG_GATE: at a closed window with the MAC idle, a unit is gated or stays ungated. -/
def sagGate (u : Fin 544) (s : State) : State :=
  if s.sagAllowed u then
    match s.sagChoice u with
    | 0 => s
    | k => (s.onSag u fun g => { g with gated := k, since := s.time.now }).bump (pgPwr (sagTeam u))
        (if k = 2 then Reg.PWRT.SAG_NAPS else Reg.PWRT.SAG_IDLES)
  else s
def execSagGate (u : Fin 544) (s : State) : Host.Outcome State Fault Refusal := finish (sagGate u s)

/-- A unit begins its wake now: it is ready after its wake time, and GATED_US counts a transmit slice's time. -/
def State.sagUngate (s : State) (u : Nat) : State :=
  let g := s.sagAt u
  let s1 := s.onSag u fun g => { g with gated := 0, ready := s.time.now + sagWakeTime u g.gated }
  if u < 512 then s1.addCtr (pgPwr (sagTeam u)) Reg.PWRT.GATED_US (((s.time.now : Int) - g.since).toNat / 1000) else s1

/-- A gated unit plans its wake again (R461), and wakes where what its gating needs has ended (R459). -/
def State.sagPlan (s : State) (u : Nat) : State :=
  let g := s.sagAt u
  if g.gated = 0 ∨ g.failed then s
  else
    let openNow := (sagPorts u).any fun p => s.gatesAt p s.time.now != 0
    let closed := s.sagHolds u && (sagPorts u).all fun p => s.sagClosed p
    let e := if openNow then some s.time.now else s.unitEnd u
    if closed && leaves s.time.now e (sagWakeTime u g.gated + s.sagGuard) then s
    else
      let s1 := s.sagUngate u
      if leaves s.time.now e (sagWakeTime u g.gated) then s1
      else (s1.bump (pgPwr (sagTeam u)) Reg.PWRT.LATE_WAKE).raise (pgPwr (sagTeam u)) 0

/-- SAG_WAKE: a gated unit begins its wake at its window's end less its wake time and GUARD (R460). A pipeline slice that is still
gated then wakes too (R459). -/
def sagWake (u : Fin 544) (s : State) : State :=
  let g := s.sagAt u
  if g.gated = 0 ∨ g.failed then s
  else match s.unitEnd u with
    | some e =>
      ((s.reach (e - sagWakeTime u g.gated - s.sagGuard)).sagUngate u).ifDo (decide (u.val < 512)) (·.sagPlan (512 + portGroup u))
    | none => s
def execSagWake (u : Fin 544) (s : State) : Host.Outcome State Fault Refusal := finish (sagWake u s)

/-- Every gated unit plans again. -/
def State.sagPlanAll (s : State) : State := (s.sag.map Prod.fst).foldl State.sagPlan s

/-- The units of a port plan again. -/
def State.sagPlanPort (s : State) (p : Nat) : State := (s.sagPlan p).sagPlan (512 + portGroup p)

/-- A port's slices are powered and ready (R461, R462). -/
def State.sagReady (s : State) (p : Nat) : Bool :=
  [p, 512 + portGroup p].all fun u =>
    let g := s.sagAt u
    g.gated == 0 && !g.failed && decide (g.ready ≤ s.time.now)

/-- A unit in its wake when the time is invalid is looked at: the time does not run, so whether the wake is over is a free
value, and once over it is so (R461; log 280). -/
def State.sagSeen (s : State) (p : Nat) : State :=
  if s.timeValid then s
  else s.each [p, 512 + portGroup p] fun s u =>
    if s.time.now < (s.sagAt u).ready then
      let (v, s1) := s.free 1
      if v = 1 then s1.onSag u fun g => { g with ready := s.time.now } else s1
    else s

/-- The time steps to `t`: gatings and wakes in progress keep their lengths (R461, R476). -/
def State.sagShift (s : State) (t : Nat) : State :=
  { s with sag := s.sag.map fun e => (e.1, { e.2 with
      since := if e.2.gated = 0 then e.2.since else e.2.since + ((t : Int) - s.time.now),
      ready := if s.time.now < e.2.ready then t + (e.2.ready - s.time.now) else e.2.ready }) }

/-- SLICE_WAKE_FAIL: a slice's power switch does not report good within 10 µs of its wake (R462). -/
def sliceWakeFail (u : Fin 544) (s : State) : State :=
  if (s.sagAt u).failed then s
  else
    let s1 := s.onSag u fun g => { g with failed := true, off := true }
    let s2 := (sagPorts u).foldl (fun s p => s.onSag p fun g => { g with off := true }) s1
    (((s2.bump (pgPwr (sagTeam u)) Reg.PWRT.SLICE_WAKE_FAIL).raise (pgPwr (sagTeam u)) 1)).refusal
      (some (sagDomain u)) 0 2 5
def execSliceWakeFail (u : Fin 544) (s : State) : Host.Outcome State Fault Refusal := finish (sliceWakeFail u s)

/-- SLICE_WAKE_RETRY: the power controller retries a failed wake; `ok` when the switch reports good (R462). -/
def sliceWakeRetry (u : Fin 544) (ok : Bool) (s : State) : State :=
  if (s.sagAt u).failed && ok then s.onSag u fun g => { g with failed := false, gated := 0 } else s
def execSliceWakeRetry (u : Fin 544) (ok : Bool) (s : State) : Host.Outcome State Fault Refusal :=
  finish (sliceWakeRetry u ok s)

/-! ### Config change commands (R322, R323, R461) -/

end Sys2Proof.Machine
end

