-- ==== Sys2Proof/Machine/PortBase.lean ====
section
/-! DEFINITION. What a port's registers say (R79, R87, R104, R317): its limits, speed and byte time. -/

namespace Sys2Proof.Machine

/-- A field of a port's PORT page block. -/
def State.portFld (s : State) (p : Nat) (f : Nat → Fld) : Nat := s.fld (pgPort (portGroup p)) (f (portSlot p))
def State.portFlag (s : State) (p : Nat) (f : Nat → Fld) : Bool := s.portFld p f == 1
def State.setPortFld (s : State) (p : Nat) (f : Nat → Fld) (v : Nat) : State :=
  s.setFld (pgPort (portGroup p)) (f (portSlot p)) v
/-- Count in one of a port's counters. -/
def State.portCount (s : State) (p : Nat) (c : Nat → Nat) (n : Nat := 1) : State :=
  s.addCtr (pgPort (portGroup p)) (c (portSlot p)) n
/-- Raise a cause of a port's page. -/
def State.portRaise (s : State) (p i : Nat) : State := s.raise (pgPort (portGroup p)) i

/-- MAX_FRAME as it acts (R87). -/
def State.maxFrame (s : State) (p : Nat) : Nat := min 9728 (max 64 (s.portFld p Reg.PORT.PCFG_MAX_FRAME))

/-- The speed code of PSTAT. -/
def State.speedCode (s : State) (p : Nat) : Nat := s.portFld p Reg.PORT.PSTAT_SPEED
/-- Byte time in ps of a speed code (R317). -/
def byteTimeOf (c : Nat) : Nat :=
  match c with
  | 0 => 3200
  | 1 => 8000
  | 2 => 80000
  | 3 => 800000
  | 4 => 800
  | _ => 320
/-- The port's current byte time in ps. -/
def State.byteTime (s : State) (p : Nat) : Nat := byteTimeOf (s.speedCode p)
/-- T(Lw) in ns, rounded up to a whole ns (see the assumption log). -/
def State.sendTime (s : State) (p lw : Nat) : Nat := ceilDiv (lw * s.byteTime p) 1000

/-- Preemption is active on transmit (R326). -/
def State.txActive (s : State) (p : Nat) : Bool := s.portFlag p Reg.PORT.MMCFG_TX_ACTIVE
/-- A port in DOWN or DISABLED takes no copies (R276). -/
def State.portTakes (s : State) (p : Nat) : Bool := decide (2 ≤ s.lstate p)
/-- The rate of a port's quad (R75). -/
def State.quadRate (s : State) (q : Nat) : Nat := s.fld (pgSerdes q) Reg.SERDES.QCFG_RATE

/-- The transmit path of a port is in service (R96): its quad ON or IDLE with reference and PLL, no TX_DIS, its team
alive. -/
def State.txPath (s : State) (p : Nat) : Bool :=
  let q := portQuad p
  s.domOn q && s.flag (pgSerdes q) Reg.SERDES.QSTAT_REF_OK && s.flag (pgSerdes q) Reg.SERDES.QSTAT_PLL_LOCK &&
  !s.flag (pgSerdes q) (Reg.SERDES.LCFG_TX_DIS (portLane p % 4)) && !(s.teamAt (benchTeam (portBench p))).failed

/-- A port's lane is looped at its near end: its MAC receives what it sends (R107). -/
def State.nearLoop (s : State) (p : Nat) : Bool :=
  s.fld (pgSerdes (portQuad p)) (Reg.SERDES.LCFG_LOOP (portLane p % 4)) == 1

/-- A frame of `n` bytes from DA through FCS leaves a team: its bits count for the ledger (R35, R472). -/
def State.forwarded (s : State) (t n : Nat) : State :=
  if t = 0 then { s with dev := { s.dev with bitsA := s.dev.bitsA + 8 * (n + 20) } }
  else { s with dev := { s.dev with bitsB := s.dev.bitsB + 8 * (n + 20) } }

/-- The cluster of a trunk port. -/
def ciphOf (p : Nat) : Nat := (p - 384) / 32
/-- A trunk port's local number in its cluster. -/
def ciphPort (p : Nat) : Nat := (p - 384) % 32
/-- A trunk port has a transmit SC (R69, R383). -/
def State.hasTxSc (s : State) (p : Nat) : Bool :=
  isTrunk p && s.flag (pgCiph (ciphOf p)) (Reg.CIPH.PCFG_MACSEC_EN (ciphPort p)) &&
  s.flag (pgCiph (ciphOf p)) (Reg.CIPH.PCFG_TXSC_EN (ciphPort p))

/-- The egress timestamp of a copy whose first byte enters a port's transmit pipe now: the time at the transmit point of R67, with
the encryption latency on a port with a transmit SC, or for a copy that has one of its own (R69), and PHY_TX_DLY on field ports
(R104); 0 while the time is invalid. -/
def State.egressStamp (s : State) (p : Nat) (secured : Bool) : Nat :=
  if !s.timeValid then 0
  else s.time.now + (Config.txDelay p).toNat + (if secured || s.hasTxSc p then Config.encryptDelay.toNat else 0) +
    (if isTrunk p then 0 else s.portFld p Reg.PORT.PHYDLY_PHY_TX_DLY)

end Sys2Proof.Machine
end

