-- ==== Sys2Proof/Machine/Seq.lean ====
section
/-! DEFINITION. The sequence units (R346 to R358): generation, recovery, resets, the scanner and the watch slots. -/

namespace Sys2Proof.Machine

/-- The first STRM page of a team (R223, R362). -/
def strmTeam (t : Nat) : Nat := pgStrm (4 * t)

/-- Add a change to a team's list for the local tick of a bench (R315, R355). -/
def State.teamChange (s : State) (t tick : Nat) (c : TeamChange) : State :=
  s.onTeam t fun m => { m with changes := m.changes ++ [(tick, c)] }

/-- Entry fields (R351). -/
def seqValid (e : Nat) : Bool := bit e 127
def seqRecovery (e : Nat) : Bool := bit e 126
def seqTakeAny (e : Nat) : Bool := bit e 123
def seqHist (e : Nat) : Nat := if bits e 122 117 = 0 then 64 else bits e 122 117
def seqRcv (e : Nat) : Nat := bits e 116 101
def seqResetTo (e : Nat) : Nat := bits e 100 85
def seqLast (e : Nat) : Nat := bits e 84 69

/-- The unit count of a tick number (R353). -/
def unitCount (tick : Nat) : Nat := tick / 16 % 65536

/-- The state fields of a recovery entry put to new values. -/
def seqSet (e takeAny rcv hist last : Nat) : Nat :=
  setBits (setBits (setBits (setBits e 123 123 takeAny) 116 101 rcv) 84 69 last) 63 0 hist

/-- A reset of a recovery entry (R354). -/
def seqResetEntry (e : Nat) : Nat := setBits (setBits e 123 123 1) 63 0 0

/-- One change of an entry. -/
def SeqOp.apply (e : Nat) : SeqOp → Nat
  | .advance => setBits e 15 0 (bits e 15 0 + 1)
  | .zero => setBits e 15 0 0
  | .reset => seqResetEntry e
  | .first n u => seqSet e 0 n 1 u
  | .ahead d n u => seqSet e 0 n ((bits e 63 0 * 2 ^ d + 1) % 2 ^ seqHist e) u
  | .behind k u => seqSet e 0 (seqRcv e) (bits e 63 0 ||| 2 ^ k) u
  | .matched n u => seqSet e 0 n (bits e 63 0) u

/-- The changes of an entry that are listed, of the ticks that meet a test. -/
def TeamSt.seqOps (m : TeamSt) (i : Nat) (p : Nat → Bool) : List SeqOp :=
  m.changes.filterMap fun c => match c.2 with
    | .seq j o => if j = i && p c.1 then some o else none
    | _ => none

/-- An entry with its listed changes of some ticks. -/
def TeamSt.seqAt (m : TeamSt) (i : Nat) (p : Nat → Bool) : Nat :=
  (m.seqOps i p).foldl SeqOp.apply (Tab.get (fun _ => 0) m.seqs i)

/-- The committed sequence entry: the changes of the ticks that have committed (R355). -/
def State.seqEntry (s : State) (t i : Nat) : Nat := (s.teamAt t).seqAt i fun n => decide (n < (s.teamAt t).done)

/-- The committed sequence table. -/
def TeamSt.seqCommitted (m : TeamSt) : Tab Nat :=
  m.changes.foldl (fun l c => match c.2 with
    | .seq i o => if c.1 < m.done then Tab.set (fun _ => 0) l i (o.apply (Tab.get (fun _ => 0) l i)) else l
    | _ => l) m.seqs

/-- The working sequence entry: with every change made and not committed, of whatever tick (R355). -/
def State.seqWork (s : State) (t i : Nat) : Nat := (s.teamAt t).seqAt i fun _ => true

/-- The timeout of a recovery entry has expired at a unit count (R353). -/
def seqExpired (e u : Nat) : Bool :=
  seqResetTo e != 0 && decide (seqResetTo e ≤ (u + 65536 - seqLast e) % 65536)

/-- What the recovery unit finds of a copy (R353): whether it passes, what it counts, the changes of the entry, and the entry with
them. -/
structure SeqOut where
  pass : Bool := false
  tagless : Nat := 0
  ooo : Nat := 0
  rogue : Nat := 0
  lost : Nat := 0
  reset : Bool := false
  ops : List SeqOp := []
  entry : Nat := 0
  deriving DecidableEq, Repr

/-- The decision for a tagged copy of number `n` on an entry that has not expired (R353). -/
def seqTagged (e u n : Nat) : SeqOut :=
  if seqTakeAny e then { pass := true, ops := [.first n u] }
  else
    let d := (n + 65536 - seqRcv e) % 65536
    let back := 65536 - d
    if bit e 125 then
      if d = 0 then {}
      else { pass := true, ooo := b2n (d != 1), ops := [.matched n u] }
    else
      let hl := seqHist e
      let hist := bits e 63 0
      if d < 32768 then
        if hl ≤ d then { rogue := 1 }
        else if d = 0 then
          if bit hist 0 then {} else { pass := true, ooo := 1, ops := [.behind 0 u] }
        else
          let gone := (List.range d).filter fun k => !bit hist (hl - 1 - k)
          { pass := true, lost := gone.length, ooo := b2n (d != 1), ops := [.ahead d n u] }
      else if hl ≤ back then { rogue := 1 }
      else if bit hist back then {}
      else { pass := true, ooo := 1, ops := [.behind back u] }

/-- The decision with the entry that its changes give. -/
def SeqOut.on (o : SeqOut) (e : Nat) : SeqOut := { o with entry := o.ops.foldl SeqOp.apply e }

/-- The whole decision of R353. -/
def seqDecide (e u n : Nat) (tag : Bool) : SeqOut :=
  if !tag then SeqOut.on { pass := bit e 124, tagless := 1 } e
  else if seqExpired e u then
    let o := seqTagged (seqResetEntry e) u n
    SeqOut.on { o with reset := true, ops := .reset :: o.ops } e
  else (seqTagged e u n).on e

/-! ### Watch slots (R358) -/

/-- The enabled slots of a team that watch an entry. -/
def State.watchers (s : State) (t i : Nat) : List Nat :=
  (List.range 32).filter fun k =>
    s.flag (strmTeam t) (Reg.STRM.WCFG_EN k) && s.fld (strmTeam t) (Reg.STRM.WCFG_SEQ_IDX k) == i

/-- A reset of a watched recovery entry is counted in its slots, and raises WATCH_RESET (R358, R364). -/
def State.watchReset (s : State) (t i : Nat) : State :=
  s.each (s.watchers t i) fun s k =>
    (s.setFld (strmTeam t) (Reg.STRM.RESETS k) (s.fld (strmTeam t) (Reg.STRM.RESETS k) + 1)).raise (strmTeam t) 19

/-- Count a recovery decision in the bench and in the watch slots. -/
def State.seqCount (s : State) (b i : Nat) (o : SeqOut) : State :=
  let p := pgStrm b
  let t := benchTeam b
  let s1 := s.bump p (if o.pass then Reg.STRM.SEQ_PASSED else if o.rogue = 1 then Reg.STRM.SEQ_ROGUE else Reg.STRM.SEQ_DISCARDED)
  let s2 := (s1.addCtr p Reg.STRM.SEQ_OOO o.ooo).addCtr p Reg.STRM.SEQ_LOST o.lost
  let s3 := s2.addCtr p Reg.STRM.SEQ_TAGLESS o.tagless
  let s4 := if o.reset then (s3.bump p Reg.STRM.SEQ_RESETS).watchReset t i else s3
  s4.each (s4.watchers t i) fun s k =>
    let q := strmTeam t
    let s1 := s.bump q (if o.pass then Reg.STRM.PASSED k else if o.rogue = 1 then Reg.STRM.ROGUE k else Reg.STRM.DISCARDED k)
    ((s1.addCtr q (Reg.STRM.OUT_OF_ORDER k) o.ooo).addCtr q (Reg.STRM.LOST k) o.lost).addCtr q (Reg.STRM.TAGLESS k) o.tagless

/-- A sequence entry is unusable (R347). -/
def State.seqInvalid (s : State) (b : Nat) : State :=
  (s.bump (pgStrm b) Reg.STRM.SEQ_INVALID).raise (pgStrm b) 17

/-- An uncorrectable sequence entry (R356): the unit rewrites its state fields. -/
def State.seqError (s : State) (b i : Nat) : State :=
  let t := benchTeam b
  let e := s.seqWork t i
  let s1 := (s.bump (pgStrm b) Reg.STRM.SEQ_UE).raise (pgStrm b) 16
  if seqRecovery e then
    ((s1.teamChange t (s.localTick b) (.seq i .reset)).bump (pgStrm b) Reg.STRM.SEQ_RESETS).watchReset t i
  else s1.teamChange t (s.localTick b) (.seq i .zero)

/-- A corrected error of a sequence entry (R356). -/
def State.seqCorrected (s : State) (b : Nat) (ce : Bool) : State := s.ifDo ce fun s => s.bump (pgStrm b) Reg.STRM.TBL_CE

/-- The entry can serve generation, or recovery. -/
def State.seqUsable (s : State) (t i : Nat) (recovery : Bool) : Bool :=
  decide (i < 524288) && seqValid (s.seqWork t i) && seqRecovery (s.seqWork t i) == recovery

/-- A generation request of a bench (R348): the number assigned; none where the frame is discarded. `ue` says that the
entry is found uncorrectable. -/
def State.seqGenerate (s : State) (b i : Nat) (ue : Bool) : Option Nat × State :=
  let t := benchTeam b
  if 524288 ≤ i then (none, s.seqInvalid b)
  else if ue then (none, s.seqError b i)
  else if !s.seqUsable t i false then (none, s.seqInvalid b)
  else
    (some (bits (s.seqWork t i) 15 0), (s.teamChange t (s.localTick b) (.seq i .advance)).bump (pgStrm b) Reg.STRM.SEQ_GEN)

/-- A recovery request of a bench (R353): whether the copy passes. -/
def State.seqRecover (s : State) (b i n : Nat) (tag ue : Bool) : Bool × State :=
  let t := benchTeam b
  if 524288 ≤ i then (false, s.seqInvalid b)
  else if ue then (false, s.seqError b i)
  else if !s.seqUsable t i true then (false, s.seqInvalid b)
  else
    let o := seqDecide (s.seqWork t i) (unitCount (s.localTick b)) n tag
    let s1 := s.each o.ops fun s x => s.teamChange t (s.localTick b) (.seq i x)
    (o.pass, s1.seqCount b i o)

/-! ### Commands -/

/-- SEQ_SCAN_VISIT: the scanner of a team visits the entry at SQSCAN.POS (R354). -/
def seqScanVisit (t : Team) (s : State) : State :=
  let n := teamNo t
  if s.flag (strmTeam n) Reg.STRM.SQSCAN_EN && s.domOn (domIngress (4 * n)) && !(s.teamAt n).failed then
    let i := s.fld (strmTeam n) Reg.STRM.SQSCAN_POS
    let e := s.seqWork n i
    let s1 := s.setFld (strmTeam n) Reg.STRM.SQSCAN_POS ((i + 1) % 524288)
    if seqValid e && seqRecovery e && seqExpired e (unitCount s.gridTick) then
      ((s1.teamChange n s.gridTick (.seq i .reset)).bump (strmTeam n) Reg.STRM.SEQ_RESETS).watchReset n i
    else s1
  else s
def execSeqScanVisit (t : Team) (s : State) : Host.Outcome State Fault Refusal := finish (seqScanVisit t s)

/-- The growth of a 64-bit counter since a baseline. -/
def grown (now base : Nat) : Nat := (now + 2 ^ 64 - base) % 2 ^ 64

/-- WATCH_TEST: at a multiple of PERIOD × 1,024 grid ticks, a slot compares the growth of PASSED and DISCARDED (R358). -/
def watchTest (t : Team) (k : Fin 32) (s : State) : State :=
  let n := teamNo t
  let p := strmTeam n
  let period := s.fld p (Reg.STRM.LEDCFG_PERIOD k)
  if s.flag p (Reg.STRM.WCFG_EN k) ∧ period ≠ 0 ∧ s.gridTick % (period * 1024) = 0 then
    let passed := (s.ctr p (Reg.STRM.PASSED k)).toNat
    let gone := (s.ctr p (Reg.STRM.DISCARDED k)).toNat
    let (bp, bd, skip) := Tab.get (fun _ => (0, 0, false)) (s.teamAt n).watch k
    let s1 := s.onTeam n fun m => { m with watch := Tab.set (fun _ => (0, 0, false)) m.watch k (passed, gone, false) }
    if !skip ∧ grown gone bd + s.fld p (Reg.STRM.LEDCFG_DIFF k) < grown passed bp then
      (s1.setFld p (Reg.STRM.LATENT k) (s.fld p (Reg.STRM.LATENT k) + 1)).raise p 18
    else s1
  else s
def execWatchTest (t : Team) (k : Fin 32) (s : State) : Host.Outcome State Fault Refusal := finish (watchTest t k s)

/-- A write to WCFG or LEDCFG of a slot takes a new baseline, and the next test is skipped (R358). -/
def State.watchCfgWrite (s : State) (t k off : Nat) (v : W32) : State :=
  let p := strmTeam t
  let s1 := s.plainWrite p off 0 v
  let base := ((s1.ctr p (Reg.STRM.PASSED k)).toNat, (s1.ctr p (Reg.STRM.DISCARDED k)).toNat, true)
  s1.onTeam t fun m => { m with watch := Tab.set (fun _ => (0, 0, false)) m.watch k base }

/-- WATCH_CFG_WRITE: a host write of a slot's WCFG, or of its LEDCFG. -/
def watchCfgWrite (t : Team) (k : Fin 32) (led : Bool) (v : W32) (s : State) : State :=
  let off := if led then (Reg.STRM.LEDCFG k).off else (Reg.STRM.WCFG k).off
  s.wordWrite (strmTeam (teamNo t)) off v fun s => s.watchCfgWrite (teamNo t) k off v
def execWatchCfgWrite (t : Team) (k : Fin 32) (led : Bool) (v : W32) (s : State) : Host.Outcome State Fault Refusal :=
  finish (watchCfgWrite t k led v s)

end Sys2Proof.Machine
end

