-- ==== Sys2Proof/Machine/Meter.lean ====
section
/-! DEFINITION. Stream filters and meters (R306 to R316): working state, decisions, charges and their commit. -/

namespace Sys2Proof.Machine

/-! ### Meters -/

def Meter.valid (m : Meter) : Bool := bit m.w 127
/-- MODE 1 is RFC 4115. -/
def Meter.mode (m : Meter) : Bool := bit m.w 126
def Meter.markRed (m : Meter) : Bool := bit m.w 121
/-- Bucket sizes in 1/1,024 byte. -/
def Meter.tcMax (m : Meter) : Nat := bits m.w 47 24 * 1024
def Meter.teMax (m : Meter) : Nat := bits m.w 23 0 * 1024
def Meter.setMark (m : Meter) (b : Bool) : Meter := { m with w := setBits m.w 121 121 (b2n b) }

/-- One change of a meter: a charge with its counted colour, a return, MARK_RED set. -/
def Meter.change (m : Meter) (idx : Nat) : TeamChange → Meter
  | .charge i tc te colour =>
    if i = idx then { m with
      tc := m.tc - tc, te := m.te - te, g := m.g + b2n (colour == 0), y := m.y + b2n (colour == 1), r := m.r + b2n (colour == 2) } else m
  | .giveBack i tc te =>
    if i = idx then { m with tc := max m.tc (min m.tcMax (m.tc + tc)), te := max m.te (min m.teMax (m.te + te)) } else m
  | .markRed i => if i = idx then m.setMark true else m
  | _ => m

/-- The refill of R312. -/
def Meter.refill (m : Meter) : Meter :=
  if !m.valid then m
  else
    let tc := m.tc + bits m.w 95 72
    let excess := tc - m.tcMax
    let te := m.te + bits m.w 71 48 + (if m.mode && bit m.w 124 then excess else 0)
    { m with tc := min tc m.tcMax, te := min te m.teMax }

/-- A host write of a meter at its commit (R316). -/
def Meter.write (m : Meter) (w : Nat) : Meter :=
  let n := { m with w := w }
  if !m.valid && n.valid then { n with tc := n.tcMax, te := n.teMax }
  else { n with tc := min m.tc n.tcMax, te := min m.te n.teMax }

def State.meterEntry (s : State) (t i : Nat) : Meter := Tab.get (fun _ => {}) (s.teamAt t).meters i
/-- The meter on its working buckets (R315). -/
def State.meterWork (s : State) (t i : Nat) : Meter :=
  (s.teamAt t).changes.foldl (fun m c => m.change i c.2) (s.meterEntry t i)

/-- The decision of R311: colour, charge of TC, charge of TE, and whether MARK_RED is set. Colours: 0 green, 1 yellow,
2 red. -/
def meterDecide (m : Meter) (b input : Nat) : Nat × Nat × Nat × Bool :=
  let inp := if bit m.w 125 then input else 0
  if m.markRed then (2, 0, 0, false)
  else
    let (c, tc, te) :=
      if !m.mode then
        if inp = 2 ∨ m.te < b then (2, 0, 0)
        else if inp = 1 ∨ m.tc < b then (1, 0, b)
        else (0, b, b)
      else
        if inp = 0 ∧ b ≤ m.tc then (0, b, 0)
        else if inp ≠ 2 ∧ b ≤ m.te then (1, 0, b)
        else (2, 0, 0)
    (c, tc, te, c == 2 && bit m.w 122)

/-- What metering gives a frame: its colour, what to return of each bucket's charge when the length is known, and
whether it is discarded. -/
structure Metered where
  colour : Nat
  tc : Nat := 0
  te : Nat := 0
  drop : Bool := false
  deriving DecidableEq, Repr

/-- Meter a frame of a bench (R310 to R314), charged for `len` bytes. -/
def State.meterFrame (s : State) (b idx len input : Nat) : Metered × State :=
  let t := benchTeam b
  let m := s.meterWork t idx
  if !m.valid then ({ colour := input }, s.bump (pgMeter b) Reg.METER.METER_INVALID)
  else
    let (c, tc, te, red) := meterDecide m ((len + bits m.w 120 115) * 1024) input
    let s1 := (s.bump (pgMeter b) Reg.METER.METERED).teamChange t (s.localTick b) (.charge idx tc te c)
    let s2 := if red then (s1.teamChange t (s.localTick b) (.markRed idx)).raise (pgMeter b) 1 else s1
    if c = 2 then ({ colour := 2, drop := true }, s2.bump (pgMeter b) Reg.METER.METER_RED_DROP)
    else if c = 1 ∧ bit m.w 123 then
      ({ colour := 1, tc := tc, te := te, drop := true }, s2.bump (pgMeter b) Reg.METER.METER_YELLOW_DROP)
    else ({ colour := c, tc := tc, te := te }, s2)

/-- The end of reception of a frame charged for an unknown length (R310): `len` its length, none after an error; LEN_ADJ is the
one that stands then (log 243). -/
def State.meterReturn (s : State) (b : Nat) (charged : Nat × Nat × Nat) (len : Option Nat) : State :=
  let (idx, tc, te) := charged
  let t := benchTeam b
  let adj := match len with
    | some l => (l + bits (s.meterWork t idx).w 120 115) * 1024
    | none => 0
  if tc = 0 ∧ te = 0 then s
  else
    (s.teamChange t (s.localTick b) (.giveBack idx (if tc = 0 then 0 else tc - adj) (if te = 0 then 0 else te - adj))).bump
      (pgMeter b) Reg.METER.LEN_RETURNS

/-! ### Filters -/

def Filter.valid (f : Filter) : Bool := bit f.w 63
def Filter.blocked (f : Filter) : Bool := bit f.w 61
def Filter.maxSdu (f : Filter) : Nat := bits f.w 37 24

/-- One change of a filter. -/
def Filter.change (f : Filter) (idx : Nat) : TeamChange → Filter
  | .matched i => if i = idx then { f with matched := f.matched + 1 } else f
  | .sduDrop i blk =>
    if i = idx then { f with sdu := f.sdu + 1, w := if blk then setBits f.w 61 61 1 else f.w } else f
  | .meterDrop i => if i = idx then { f with meterDrop := f.meterDrop + 1 } else f
  | _ => f

def State.filterEntry (s : State) (t i : Nat) : Filter := Tab.get (fun _ => {}) (s.teamAt t).filters i
/-- The filter on its working state (R315). -/
def State.filterWork (s : State) (t i : Nat) : Filter :=
  (s.teamAt t).changes.foldl (fun f c => f.change i c.2) (s.filterEntry t i)

/-- An oversize frame of a filter (R307 step 4, R308). -/
def State.filterSdu (s : State) (b idx : Nat) : State :=
  let t := benchTeam b
  let blk := bit (s.filterWork t idx).w 62
  let s1 := s.teamChange t (s.localTick b) (.sduDrop idx blk)
  if blk then s1.raise (pgMeter b) 0 else s1

/-- What filtering gives a frame (R307): discarded, its IPV, its meter, and whether its length is still to be tested. -/
structure Filtered where
  drop : Bool := false
  ipv : Option Nat := none
  meter : Option Nat := none
  applied : Bool := false
  late : Bool := false
  deriving DecidableEq, Repr

/-- The steps of R307 for a frame of a bench, its length known or not. -/
def State.filterFrame (s : State) (b idx : Nat) (len : Option Nat) : Filtered × State :=
  let t := benchTeam b
  let f := s.filterWork t idx
  if !f.valid then ({}, s.bump (pgMeter b) Reg.METER.FILT_INVALID)
  else
    let s1 := s.teamChange t (s.localTick b) (.matched idx)
    if f.blocked then ({ drop := true, applied := true }, s1.bump (pgMeter b) Reg.METER.FILT_BLOCK_DROP)
    else
      let tooLong := match len with
        | some l => decide (f.maxSdu ≠ 0 ∧ f.maxSdu < l)
        | none => false
      if tooLong then
        ({ drop := true, applied := true }, (s1.bump (pgMeter b) Reg.METER.FILT_SDU_DROP).filterSdu b idx)
      else
        ({ ipv := if bit f.w 60 then some (bits f.w 59 57) else none,
           meter := if bit f.w 56 then some (bits f.w 55 38) else none,
           applied := true, late := len.isNone && f.maxSdu != 0 }, s1)

/-! ### The commit of a tick (R315) -/

/-- The changes of sequence entries that are done with: those of ticks up to `n` with no change of the entry before them that
has still to commit. The first list is theirs, the second what stays listed. -/
def seqDone (n : Nat) : List Nat → List (Nat × TeamChange) → List (Nat × SeqOp) × List (Nat × TeamChange)
  | _, [] => ([], [])
  | held, (t, .seq i o) :: l =>
    if t ≤ n ∧ !held.contains i then
      let (a, b) := seqDone n held l
      ((i, o) :: a, b)
    else
      let (a, b) := seqDone n (i :: held) l
      (a, (t, .seq i o) :: b)
  | held, c :: l =>
    let (a, b) := seqDone n held l
    (a, c :: b)

/-- The team's changes of ticks up to `n` take effect on the committed entries. -/
def TeamSt.commitChanges (m : TeamSt) (n : Nat) : TeamSt :=
  let due := m.changes.filter fun c => decide (c.1 ≤ n)
  let m1 := due.foldl (fun (m : TeamSt) c =>
    match c.2 with
    | .charge i _ _ _ | .giveBack i _ _ | .markRed i =>
      { m with meters := Tab.set (fun _ => {}) m.meters i ((Tab.get (fun _ => {}) m.meters i).change i c.2) }
    | .matched i | .sduDrop i _ | .meterDrop i =>
      { m with filters := Tab.set (fun _ => {}) m.filters i ((Tab.get (fun _ => {}) m.filters i).change i c.2) }
    | .seq _ _ => m) m
  let (settled, rest) := seqDone n [] m.changes
  { m1 with
    seqs := settled.foldl (fun l x => Tab.set (fun _ => 0) l x.1 (x.2.apply (Tab.get (fun _ => 0) l x.1))) m1.seqs,
    changes := rest.filter fun c => match c.2 with
      | .seq _ _ => true
      | _ => !decide (c.1 ≤ n),
    done := n + 1 }

/-- The refill of every meter (R312). -/
def TeamSt.refill (m : TeamSt) : TeamSt :=
  { m with meters := m.meters.map fun e => (e.1, e.2.refill) }

/-- A host write of a filter at its commit: BLOCKED as written (R316). -/
def Filter.write (f : Filter) (w : Nat) : Filter := { f with w := w }

end Sys2Proof.Machine
end

