-- ==== Sys2Proof/Machine/Buf.lean ====
section
/-! DEFINITION. The buffer pool manager of a bench (chapter 07): pools, free lists, accounts, grants and releases, and
the commands on them that touch nothing else. -/

namespace Sys2Proof.Machine

/-! ### Pools (R232, R233) -/

/-- Buffer size of a pool in granules; 0 = 256 (R263). -/
def State.poolSize (s : State) (b p : Nat) : Nat :=
  let v := s.fld (pgBuf b) ⟨0x050 + 4 * p, 7, 0⟩
  if v = 0 then 256 else v
/-- Buffers in a pool. -/
def State.poolCount (s : State) (b p : Nat) : Nat := s.fld (pgBuf b) ⟨0x050 + 4 * p, 31, 15⟩
/-- First granule of a pool's region (R232). -/
def State.poolBase (s : State) (b p : Nat) : Nat :=
  ((List.range p).map fun k => s.poolCount b k * s.poolSize b k).sum
/-- Granules of all pools. -/
def State.poolGranules (s : State) (b : Nat) : Nat :=
  ((List.range 4).map fun k => s.poolCount b k * s.poolSize b k).sum
/-- The pool whose buffer begins at a granule. -/
def State.poolOf (s : State) (b g : Nat) : Option Nat :=
  (List.range 4).find? fun p =>
    decide (s.poolBase b p ≤ g) && decide (g < s.poolBase b p + s.poolCount b p * s.poolSize b p) &&
    decide ((g - s.poolBase b p) % s.poolSize b p = 0)
/-- The first granules of a pool's buffers in header order. -/
def State.poolGrans (s : State) (b p : Nat) : List Nat :=
  (List.range (s.poolCount b p)).map fun i => s.poolBase b p + i * s.poolSize b p
/-- A valid pool configuration (R233). -/
def State.poolsValid (s : State) (b : Nat) : Bool :=
  decide (1 ≤ s.poolSize b 0) && decide (s.poolSize b 0 < s.poolSize b 1) &&
  decide (s.poolSize b 1 < s.poolSize b 2) && decide (s.poolSize b 2 < s.poolSize b 3) &&
  decide (s.poolSize b 3 ≤ 256) && decide (4 ≤ s.poolSize b 2) &&
  decide (1 ≤ s.poolCount b 1) && decide (1 ≤ s.poolCount b 2) &&
  decide (((List.range 4).map fun p => s.poolCount b p).sum ≤ 65536) &&
  decide (s.poolGranules b ≤ 180224)

/-- BUFSTAT.READY. -/
def State.bufReady (s : State) (b : Nat) : Bool := s.flag (pgBuf b) Reg.BUF.BUFSTAT_READY

/-! ### Free lists and headers (R238, R239) -/

def BufSt.list (u : BufSt) (p : Nat) : List Nat := Tab.get (fun _ => []) u.free p
def BufSt.hdr (u : BufSt) (g : Nat) : BufHdr := Tab.get (fun _ => {}) u.hdrs g
def BufSt.setHdr (u : BufSt) (g : Nat) (h : BufHdr) : BufSt := { u with hdrs := Tab.set (fun _ => {}) u.hdrs g h }
def BufSt.desc (u : BufSt) (d : Nat) : Option Desc := Tab.get (fun _ => none) u.descs d
def BufSt.setDesc (u : BufSt) (d : Nat) (v : Option Desc) : BufSt :=
  { u with descs := Tab.set (fun _ => none) u.descs d v }
def BufSt.cellsOf (u : BufSt) (o : Nat) : Nat := Tab.get (fun _ => 0) u.cells o
def BufSt.descsOf (u : BufSt) (o : Nat) : Nat := Tab.get (fun _ => 0) u.dused o
def BufSt.setCells (u : BufSt) (o n : Nat) : BufSt := { u with cells := Tab.set (fun _ => 0) u.cells o n }
def BufSt.setDescs (u : BufSt) (o n : Nat) : BufSt := { u with dused := Tab.set (fun _ => 0) u.dused o n }

/-- The descriptor of a bench. -/
def State.descAt (s : State) (b d : Nat) : Option Desc := (s.bufAt b).desc d
/-- Change a descriptor that is held. -/
def State.onDesc (s : State) (b d : Nat) (f : Desc → Desc) : State :=
  match s.descAt b d with
  | some v => s.onBuf b fun u => u.setDesc d (some (f v))
  | none => s

/-- Byte address of a granule in the banks. -/
def bankAt (b g : Nat) : Nat := b * 2 ^ 24 + g * 64

/-- POOLFREE (R263). -/
def State.poolFree (s : State) (b p : Nat) : Nat := ((s.bufAt b).list p).length
/-- A pool's list is being rebuilt, or waits to be (R240). -/
def BufSt.rebuilding (u : BufSt) (p : Nat) : Bool := (u.rebuild.toList ++ u.alsoBad).any fun e => e.1 == p
/-- Buffers a pool can give: none while its list is rebuilt (R240). -/
def State.poolAvail (s : State) (b p : Nat) : Nat := if (s.bufAt b).rebuilding p then 0 else s.poolFree b p
/-- POOLCUL: buffers of a pool on the cullet list (R259, R263). -/
def State.poolCul (s : State) (b p : Nat) : Nat :=
  ((s.bufAt b).cullet.filter fun g => ((s.bufAt b).hdr g).pool == p).length
/-- FREE_CELLS: free granules in all pools (R263). -/
def State.freeCells (s : State) (b : Nat) : Nat :=
  ((List.range 4).map fun p => s.poolFree b p * s.poolSize b p).sum
/-- DESC_FREE. -/
def State.descFree (s : State) (b : Nat) : Nat := 32768 - (s.bufAt b).descs.length

/-- After POOLFREE of a pool has changed: POOLMIN keeps the lowest, and POOL_LOW is raised as the count falls below
POOLLOW (R263, R265). -/
def State.poolTrack (s : State) (b p before : Nat) : State :=
  let n := s.poolFree b p
  let low := s.fld (pgBuf b) ⟨0x080 + 4 * p, 16, 0⟩
  let s1 := if n < s.fld (pgBuf b) ⟨0x090 + 4 * p, 16, 0⟩ then s.setFld (pgBuf b) ⟨0x090 + 4 * p, 16, 0⟩ n else s
  if n < low ∧ low ≤ before then s1.raise (pgBuf b) 1 else s1

/-- The link word that the buffer at the head of a list holds in its first bytes (R239): the next granule twice. -/
def linkBytes (next : Nat) : List Byte := natBE 8 (next % 2 ^ 18 + next % 2 ^ 18 * 2 ^ 32)

/-- Take the buffer at the head of a pool's free list. Its first word keeps the link it held, a free value when it was
the last of its list. -/
def State.popFree (s : State) (b p : Nat) : Option (Nat × State) :=
  match (s.bufAt b).list p with
  | [] => none
  | g :: rest =>
    let (word, s0) := match rest with
      | n :: _ => (linkBytes n, s)
      | [] => let (v, s0) := s.free 64; (natBE 8 v, s0)
    let s1 := { s0 with bank := Tab.setList zeroByte s0.bank (bankAt b g) word }
    let s2 := s1.onBuf b fun u => { u with free := Tab.set (fun _ => []) u.free p rest }
    some (g, s2.poolTrack b p (rest.length + 1))

/-- Put a buffer at the tail of its pool's free list, or leave it to the sweep of a rebuild (R239, R240). -/
def State.pushFree (s : State) (b p g : Nat) : State :=
  s.onBuf b fun u =>
    let late (e : Nat × List Nat) : Nat × List Nat := if e.1 = p then (e.1, e.2 ++ [g]) else e
    if u.rebuilding p then { u with rebuild := u.rebuild.map late, alsoBad := u.alsoBad.map late }
    else { u with free := Tab.set (fun _ => []) u.free p (u.list p ++ [g]) }

/-! ### Accounts (R245 to R248) -/

/-- Owners whose configuration fields have an effect (R245). -/
def ownerActs (o : Nat) : Bool := decide (o ≤ 512 ∨ o = 514)
def State.ownRes (s : State) (b o : Nat) : Nat :=
  if ownerActs o then s.fld (pgBuf b) Reg.BUF.OWN_RES o else 0
def State.ownLimit (s : State) (b o : Nat) : Nat := s.fld (pgBuf b) Reg.BUF.OWN_LIMIT o
def State.ownResDesc (s : State) (b o : Nat) : Nat :=
  if ownerActs o then s.fld (pgBuf b) Reg.BUF.OWN_DESC_RES_DESC o else 0
def State.ownLimitDesc (s : State) (b o : Nat) : Nat := s.fld (pgBuf b) Reg.BUF.OWN_DESC_LIMIT_DESC o

/-- The owners whose word at an account register is not its factory value. -/
def State.ownersListed (s : State) (b off : Nat) : List Nat :=
  (Tab.range s.regs (rkey (pgBuf b) off 0) (rkey (pgBuf b) off 520)).map fun e => e.1 % 4096

/-- RES_SUM: Σ RES over the owners. -/
def State.resSum (s : State) (b : Nat) : Nat :=
  ((s.ownersListed b 0x0C4).map fun o => s.ownRes b o).sum
/-- UNUSED_RES: Σ max(0, RES − CELLS) (R246). -/
def State.unusedRes (s : State) (b : Nat) : Nat :=
  ((s.ownersListed b 0x0C4).map fun o => s.ownRes b o - (s.bufAt b).cellsOf o).sum
/-- RES_DESC_SUM. -/
def State.resDescSum (s : State) (b : Nat) : Nat :=
  ((s.ownersListed b 0x0CC).map fun o => s.ownResDesc b o).sum
/-- UNUSED_RES_DESC. -/
def State.unusedResDesc (s : State) (b : Nat) : Nat :=
  ((s.ownersListed b 0x0CC).map fun o => s.ownResDesc b o - (s.bufAt b).descsOf o).sum

/-- The test of R246: a grant of `g` to an owner that holds `used`, with its reserve and limit, of `free` left and
`unused` reserved. -/
def accountTest (used res limit free unused g : Nat) : Bool :=
  if used + g ≤ res then true
  else if limit < used + g then false
  else !decide (free < g + unused - (res - used))

/-- R246 for granules. -/
def State.testCells (s : State) (b o g : Nat) : Bool :=
  accountTest ((s.bufAt b).cellsOf o) (s.ownRes b o) (s.ownLimit b o) (s.freeCells b) (s.unusedRes b) g
/-- R246 for one descriptor; none is granted when none is free. -/
def State.testDesc (s : State) (b o : Nat) : Bool :=
  decide (1 ≤ s.descFree b) &&
  accountTest ((s.bufAt b).descsOf o) (s.ownResDesc b o) (s.ownLimitDesc b o) (s.descFree b) (s.unusedResDesc b) 1

/-! ### Choosing buffers (R236) -/

/-- The rows of R236 that end in one buffer, then the chains: each a list of pools with whether it is choice 1. -/
def State.choices (s : State) (b : Nat) (len : Option Nat) (extension : Bool) : List (List Nat × Bool) :=
  let chain (p l : Nat) : List Nat := List.replicate (max 1 (ceilDiv l (s.poolSize b p * 64))) p
  if extension then [([1], true), ([0], false)]
  else match len with
    | none => [([2], true), ([3], false), ([1], false), ([0], false)]
    | some l =>
      let fits := (List.range 4).filter fun p => decide (l ≤ s.poolSize b p * 64)
      (match fits with
        | [] => []
        | p :: ps => ([p], true) :: ps.map fun q => ([q], false)) ++
      [(chain 1 l, false), (chain 0 l, false)]

/-- The first row that the free lists can serve. -/
def State.choose (s : State) (b : Nat) (len : Option Nat) (extension : Bool) : Option (List Nat × Bool) :=
  if !s.bufReady b then none
  else (s.choices b len extension).find? fun c =>
    (List.range 4).all fun p => decide (c.1.count p ≤ s.poolAvail b p)

/-- Granules of a list of buffers by pool. -/
def State.granules (s : State) (b : Nat) (pools : List Nat) : Nat := (pools.map fun p => s.poolSize b p).sum

/-! ### Grants -/

/-- Take one buffer of each listed pool for an owner, in order. -/
def State.takeBufs (s : State) (b owner : Nat) : List Nat → List Nat × State
  | [] => ([], s)
  | p :: ps =>
    match s.popFree b p with
    | none => ([], s)
    | some (g, s1) =>
      let s2 := s1.onBuf b fun u =>
        (u.setHdr g { free := false, refcnt := 1, owner := owner, pool := p, last := true }).setCells owner
          (u.cellsOf owner + s.poolSize b p)
      let (gs, s3) := (s2.bump (pgBuf b) Reg.BUF.ALLOCS).takeBufs b owner ps
      (g :: gs, s3)

/-- Link buffers into a chain (NEXT and LAST, R238). -/
def State.linkChain (s : State) (b : Nat) : List Nat → State
  | [] => s
  | [g] => s.onBuf b fun u => u.setHdr g { u.hdr g with last := true, next := 0 }
  | g :: h :: t => (s.onBuf b fun u => u.setHdr g { u.hdr g with last := false, next := h }).linkChain b (h :: t)

/-- The lowest free descriptor. -/
def firstFree : Nat → Tab (Option Desc) → Nat
  | n, [] => n
  | n, (k, _) :: t => if k = n then firstFree (n + 1) t else n

/-- Count an empty reply (R251). -/
def State.countEmpty (s : State) (b owner : Nat) (a : Answer) : State :=
  match a with
  | .granted _ _ => s
  | .noDesc => (s.bump (pgBuf b) Reg.BUF.NOBUF).bump (pgBuf b) Reg.BUF.OWN_DREFUSED owner
  | .noBuf => (s.bump (pgBuf b) Reg.BUF.NOBUF).bump (pgBuf b) Reg.BUF.OWN_REFUSED owner

/-- A descriptor refusal of an admission (R251). -/
def State.countBound (s : State) (b : Nat) : State :=
  (s.bump (pgBuf b) Reg.BUF.DESC_BOUND).raise (pgBuf b) 8

/-- Answer a request for a descriptor and its first buffers (R246, R251): both or neither, the descriptor test first.
The descriptor takes the fields of `d`. An empty reply for READY = 0 counts as a buffer refusal (the model's choice, log 226). -/
def State.grant (s : State) (b owner : Nat) (len : Option Nat) (d : Desc) : Answer × State :=
  if !s.bufReady b then (.noBuf, s.countEmpty b owner .noBuf)
  else if !s.testDesc b owner then (.noDesc, s.countEmpty b owner .noDesc)
  else match s.choose b len false with
  | none => (.noBuf, s.countEmpty b owner .noBuf)
  | some (pools, first) =>
    if !s.testCells b owner (s.granules b pools) then (.noBuf, s.countEmpty b owner .noBuf)
    else
      let (bufs, s1) := s.takeBufs b owner pools
      let s2 := s1.linkChain b bufs
      let i := firstFree 0 (s2.bufAt b).descs
      let s3 := s2.onBuf b fun u =>
        (u.setDesc i (some { d with head := bufs.headD 0, owner := owner, holders := 1 })).setDescs owner
          (u.descsOf owner + 1)
      let s4 := s3.bump (pgBuf b) Reg.BUF.DESC_ALLOCS
      (.granted i bufs, if first then s4 else s4.bump (pgBuf b) Reg.BUF.FALLBACK)

/-- Answer a request for buffers alone: a chain extension (R237). -/
def State.grantExt (s : State) (b owner : Nat) : Option Nat × State :=
  match s.choose b none true with
  | none => (none, s.countEmpty b owner .noBuf)
  | some (pools, first) =>
    if !s.testCells b owner (s.granules b pools) then (none, s.countEmpty b owner .noBuf)
    else
      let (bufs, s1) := s.takeBufs b owner pools
      (bufs.head?, if first then s1 else s1.bump (pgBuf b) Reg.BUF.FALLBACK)

/-! ### Releases (R242, R244, R254, R259) -/

/-- A double free: ignored, counted, logged while COUNT is below 16 (R254). -/
def State.doubleFree (s : State) (b agent : Nat) (isDesc : Bool) (handle : Nat) : State :=
  let s1 := (s.bump (pgBuf b) Reg.BUF.DFREE).raise (pgBuf b) 0
  let n := s1.fld (pgBuf b) Reg.BUF.DFREE_LOGCTL_COUNT
  if n < 16 then
    (s1.wr (pgBuf b) (Reg.BUF.DFREE_LOG n).off
      (BitVec.ofNat 32 (2 ^ 31 + b2n isDesc * 2 ^ 30 + agent * 2 ^ 23 +
        (if isDesc then handle % 2 ^ 15 else b * 2 ^ 18 + handle)))).setFld (pgBuf b) Reg.BUF.DFREE_LOGCTL_COUNT (n + 1)
  else s1

/-- A buffer whose last reference has gone: its charge returns, and it goes to its free list or, with RETIRE, to the
cullet list (R242, R259). -/
def State.freeBuf (s : State) (b g : Nat) : State :=
  let h := (s.bufAt b).hdr g
  let s1 := s.onBuf b fun u =>
    (u.setHdr g { h with free := true, refcnt := 0 }).setCells h.owner (u.cellsOf h.owner - s.poolSize b h.pool)
  if h.retire then
    (((s1.onBuf b fun u => { u with cullet := u.cullet ++ [g] }).bump (pgBuf b) Reg.BUF.CULLET_IN).raise (pgBuf b) 9)
  else s1.pushFree b h.pool g

/-- Release one reference on a buffer; a buffer out of service is never freed (R242, R254, R258). -/
def State.relBuf (s : State) (b g agent : Nat) : State :=
  let h := (s.bufAt b).hdr g
  if h.out then s
  else if h.free then s.doubleFree b agent false g
  else if h.refcnt ≤ 1 then s.freeBuf b g
  else s.onBuf b fun u => u.setHdr g { h with refcnt := h.refcnt - 1 }

/-- The buffers of a chain from its first granule (R238). -/
def BufSt.chain (u : BufSt) : Nat → Nat → List Nat
  | 0, _ => []
  | n + 1, g => g :: (if (u.hdr g).last then [] else BufSt.chain u n (u.hdr g).next)

/-- The leading buffers of a chain that cover `n` bytes. -/
def State.leading (s : State) (b : Nat) : Nat → List Nat → List Nat
  | _, [] => []
  | n, g :: gs => if n = 0 then [] else g :: s.leading b (n - s.poolSize b ((s.bufAt b).hdr g).pool * 64) gs

/-- The buffers of a descriptor's chain: its leading buffers for a truncated mirror copy (R243). -/
def State.chainOf (s : State) (b : Nat) (d : Desc) : List Nat :=
  let l := (s.bufAt b).chain 256 d.head
  if d.cap = 0 then l else s.leading b d.cap l

/-- The receiving bench of a bridge key (sending team * 4 + bench of the other team). -/
def brBench (k : Nat) : Nat := (1 - k / 4) * 4 + k % 4

/-! What a learn request names once its frame's descriptor is freed: the MAC, or the bridge transfer, that still receives the
frame; none. -/
def macPlace (x : Nat) : Nat := 32768 + x
def xferPlace (k : Nat) : Nat := 34816 + k
def noPlace : Nat := 65535

/-- Change the learn requests that wait in any bench. -/
def State.eachLearn (s : State) (f : LearnReq → LearnReq) : State :=
  s.each (List.range 8) fun s e => s.onFdb e fun h => { h with reqs := h.reqs.map f }

/-- A freed descriptor whose frame is still in reception, or waits for its tag: what is left to settle stays with the MAC,
or with the bridge transfer, and the bytes to come are stored for a mirror copy that shares the chain, if one does (R242, R243,
R308, R310). -/
def State.orphan (s : State) (b d : Nat) (v : Desc) : State :=
  let heir := ((s.bufAt b).descs.find? fun e => match e.2 with
    | some m => e.1 != d && m.mir && m.head == v.head
    | none => false).map Prod.fst
  let macs := (s.rx.filter fun e => e.2.desc == some d && portBench (e.1 % 512) == b).map Prod.fst
  let waits (t : TagWait) : Bool := t.desc == some d && portBench t.port == b
  let links := (s.bridge.filter fun e => brBench e.1 == b && (match e.2.xfer with
    | some x => x.desc == some d
    | none => false)).map Prod.fst
  let place := (((macs ++ ((s.ciphAt (b / 2)).tags.filter waits).map TagWait.mac).map macPlace ++ links.map xferPlace).head?).getD
    noPlace
  let s0 := s.eachLearn fun r => if r.bench == b && r.desc == d then { r with desc := place } else r
  let s0 := s0.each links fun s k => s.onBridge k fun r => { r with xfer := r.xfer.map fun x => { x with desc := heir } }
  let s1 := s0.each macs fun s p => s.onRx p fun k => { k with desc := heir, gone := k.gone.or (some v) }
  let hand (t : TagWait) : TagWait := if waits t then { t with desc := heir, gone := t.gone.or (some v) } else t
  s1.onCiph (b / 2) fun c => { c with tags := c.tags.map hand }

/-- Release a holder of a descriptor; at 0 the descriptor is freed and its chain released (R242). -/
def State.relHold (s : State) (b d agent : Nat) : State :=
  match s.descAt b d with
  | none => s.doubleFree b agent true d
  | some v =>
    if 1 < v.holders then s.onBuf b fun u => u.setDesc d (some { v with holders := v.holders - 1 })
    else
      let s1 := (s.onBuf b fun u => (u.setDesc d none).setDescs v.owner (u.descsOf v.owner - 1)).orphan b d v
      s1.each (s.chainOf b v) fun t g => t.relBuf b g agent

/-- The cullet path (R259): the agent's holder is released, and the discard is counted. -/
def State.cullet (s : State) (b d agent : Nat) : State :=
  (s.relHold b d agent).bump (pgBuf b) Reg.BUF.CULLET_FRAMES

/-! ### Frame bytes -/

/-- Write a frame's bytes into its chain, each buffer filled before the next, and set each LEN (R236, R238). -/
def State.storeChain (s : State) (b : Nat) : List Nat → List Byte → State
  | [], _ => s
  | g :: gs, bytes =>
    let cap := s.poolSize b ((s.bufAt b).hdr g).pool * 64
    let part := bytes.take cap
    let s1 := { s with bank := Tab.setList zeroByte s.bank (bankAt b g) part }
    (s1.onBuf b fun u => u.setHdr g { u.hdr g with len := part.length }).storeChain b gs (bytes.drop cap)

/-- The bytes stored in a chain. -/
def State.chainBytes (s : State) (b : Nat) (chain : List Nat) : List Byte :=
  chain.flatMap fun g => Tab.getList zeroByte s.bank (bankAt b g) ((s.bufAt b).hdr g).len

/-- The bytes stored of a descriptor's frame. -/
def State.frameBytes (s : State) (b d : Nat) : List Byte :=
  match s.descAt b d with
  | some v => s.chainBytes b (s.chainOf b v)
  | none => []

/-! ### Requests (R249, R250) -/

/-- Put a request among the waiting ones, in the allocator's clock. -/
def State.request (s : State) (b slot owner : Nat) (len : Option Nat) (what : ReqFor) : State :=
  s.onBuf b fun u => { u with reqs := u.reqs ++ [{ slot := slot, owner := owner, length := len, clk := u.clk, what := what }] }

/-- What a bench's requests are for, the answered ones whose requesters have yet to act too. -/
def State.requested (s : State) (b : Nat) : List ReqFor :=
  ((s.bufAt b).reqs ++ (s.bufAt b).answers.map Prod.fst).map AllocReq.what
/-- The transmit descriptors that a bench's requests hold (R529). -/
def State.takesAt (s : State) (b : Nat) : List CpuTake :=
  (s.requested b).filterMap fun r => match r with
    | .cpu t => some t
    | _ => none
/-- The descriptors that a transmit ring holds (R533). -/
def State.takesOf (s : State) (i : Nat) : List CpuTake :=
  ((List.range 8).flatMap s.takesAt).filter fun t => t.ring == i && !t.gone

/-- A change of the descriptors that rings hold. -/
def AllocReq.retake (f : CpuTake → CpuTake) (r : AllocReq) : AllocReq :=
  match r.what with
  | .cpu t => { r with what := .cpu (f t) }
  | _ => r
/-- A change of every descriptor that a transmit ring holds. -/
def State.eachTake (s : State) (f : CpuTake → CpuTake) : State :=
  s.each (List.range 8) fun s b => if (s.takesAt b).isEmpty then s else s.onBuf b fun u => { u with
    reqs := u.reqs.map (AllocReq.retake f), answers := u.answers.map fun e => (e.1.retake f, e.2) }
/-- A host-interface reset drops the descriptors fetched and not yet admitted (R533). -/
def State.dropTakes (s : State) : State := s.eachTake fun t => { t with gone := true }

/-- Whether a request lies wholly within its owner's reserve on the accounts as they stand (R250). -/
def State.withinReserve (s : State) (b : Nat) (r : AllocReq) : Bool :=
  let cells (pools : List Nat) : Bool := decide ((s.bufAt b).cellsOf r.owner + s.granules b pools ≤ s.ownRes b r.owner)
  let desc := decide ((s.bufAt b).descsOf r.owner + 1 ≤ s.ownResDesc b r.owner)
  match r.what with
  | .mirror _ => desc
  | .pool p => cells [p]
  | .chain => ((s.choose b none true).map fun c => cells c.1).getD false
  | _ => ((s.choose b r.length false).map fun c => cells c.1).getD false && desc

/-- The place of a request in the order of R250: its age first, then its round, then its slot from RR_PTR up. -/
def State.reqRank (s : State) (b rr : Nat) (r : AllocReq) : Nat :=
  r.clk * 138 + (if s.withinReserve b r then 0 else 69) + (r.slot + 69 - rr % 69) % 69

/-- A list with an element put at its place by rank. -/
def insertRank {α : Type} (rank : α → Nat) (x : α) : List α → List α
  | [] => [x]
  | y :: t => if rank x < rank y then x :: y :: t else y :: insertRank rank x t

/-- A list in order of rank, equal ranks as they stood. -/
def sortRank {α : Type} (rank : α → Nat) (l : List α) : List α := l.foldl (fun a x => insertRank rank x a) []

/-- The first waiting request of each slot (R250: at most one waiting each). -/
def firstOfSlots : List Nat → List AllocReq → List AllocReq
  | _, [] => []
  | seen, r :: t => if seen.contains r.slot then firstOfSlots seen t else r :: firstOfSlots (r.slot :: seen) t

/-- The requests answered in this clock (R250). -/
def State.answered (s : State) (b rr : Nat) : List AllocReq :=
  (sortRank (s.reqRank b rr) (firstOfSlots [] (s.bufAt b).reqs)).take 8

/-- The descriptor fields that a request's frame begins with (R241): a port's header; a bridge copy, whose MIR is 0 (the
model's choice, log 228). -/
def State.reqDesc (s : State) (r : AllocReq) : Desc :=
  match r.what with
  | .header x _ whole ts sec _ _ _ =>
    { len := r.length.getD 0, ts := ts, port := x % 512, tagWait := sec.isSome, secured := sec.isSome, done := whole }
  | .bridge t k =>
    match (s.bridgeAt (t * 4 + k)).xfer with
    | some y =>
      let v := (s.descAt y.hand.bench y.hand.desc).getD {}
      { v with len := r.length.getD 0, done := false, bad := 0, err := false, meter := none, filter := none,
               tagWait := false, secured := false, mir := false, cap := 0, begun := false, shut := false }
    | none => {}
  | .cpu t => { len := t.frame.length, port := 512, done := true }
  | .frame d | .mirror d => d
  | .chain | .pool _ => {}

/-- Answer a mirror copy's request for a descriptor (R243). -/
def State.grantMirror (s : State) (b : Nat) (d : Desc) : Answer × State :=
  if !s.testDesc b 514 then (.noDesc, s.countEmpty b 514 .noDesc)
  else
    let n := firstFree 0 (s.bufAt b).descs
    let s1 := s.onBuf b fun u => (u.setDesc n (some { d with owner := 514, holders := 1 })).setDescs 514 (u.descsOf 514 + 1)
    (.granted n [], s1.bump (pgBuf b) Reg.BUF.DESC_ALLOCS)

/-- Answer the host mailbox's request for a buffer of a pool (R261). -/
def State.grantPool (s : State) (b owner p : Nat) : Answer × State :=
  if s.poolAvail b p = 0 ∨ !s.testCells b owner (s.poolSize b p) then (.noBuf, s.countEmpty b owner .noBuf)
  else
    let (gs, s1) := s.takeBufs b owner [p]
    (.granted 0 gs, s1)

/-- Answer one request (R246, R249). -/
def State.answerReq (s : State) (b : Nat) (r : AllocReq) : Answer × State :=
  match r.what with
  | .mirror d => s.grantMirror b d
  | .pool p => s.grantPool b r.owner p
  | .chain =>
    let (g, s1) := s.grantExt b r.owner
    (match g with
      | some g => .granted 0 [g]
      | none => .noBuf, s1)
  | _ => s.grant b r.owner r.length (s.reqDesc r)

/-- One clock of a bench's allocator (R249, R250): the first 8 waiting requests are answered, and RR_PTR advances. The answers
stand in `answers` until their requesters act on them. -/
def State.allocClock (s : State) (b : Nat) : State :=
  let rr := s.fld (pgBuf b) Reg.BUF.RR_PTR
  let l := s.answered b rr
  let s1 := (s.onBuf b fun u => { u with reqs := l.foldl List.erase u.reqs, clk := u.clk + 1 }).setFld (pgBuf b)
    Reg.BUF.RR_PTR ((rr + 1) % 69)
  s1.each l fun s r =>
    let (a, s1) := s.answerReq b r
    s1.onBuf b fun u => { u with answers := u.answers ++ [(r, a)] }

/-- A request whose requester acts on the answer in the command that makes it. -/
def AllocReq.own (r : AllocReq) : Bool :=
  match r.what with
  | .header _ _ _ _ _ _ _ _ | .bridge _ _ | .cpu _ => false
  | _ => true

/-- The allocator's clocks run until such a request is answered. -/
def State.allocRun (s : State) (b : Nat) : Nat → Answer × State
  | 0 => (.noBuf, s)
  | n + 1 =>
    let s1 := s.allocClock b
    match (s1.bufAt b).answers.find? fun e => e.1.own with
    | some e => (e.2, s1.onBuf b fun u => { u with answers := u.answers.erase e })
    | none => s1.allocRun b n

/-- Make a request and wait for its answer: it takes its place in the order of R250, and requests that wait are answered with
it (log 80). -/
def State.allocNow (s : State) (b slot owner : Nat) (len : Option Nat) (what : ReqFor) : Answer × State :=
  (s.request b slot owner len what).allocRun b ((s.bufAt b).reqs.length + 1)
/-! ### Commands on the pools -/

/-- A START or POOLCFG write while READY is 1 (R234). -/
def State.cfgIgnored (s : State) (b : Nat) : State := s.raise (pgBuf b) 6

/-- A write of BUFCTL.START = 1 (R233, R234). -/
def State.poolStart (s : State) (b : Nat) : State :=
  if s.bufReady b then s.cfgIgnored b
  else if s.poolsValid b then
    (s.onBuf b fun u => { u with building := true }).setFld (pgBuf b) Reg.BUF.BUFSTAT_CFG_ERR 0
  else (s.setFld (pgBuf b) Reg.BUF.BUFSTAT_CFG_ERR 1).raise (pgBuf b) 6

/-- Every buffer threaded onto its pool's list, in header order (R233). -/
def State.poolBuilt (s : State) (b : Nat) : State :=
  if (s.bufAt b).building then
    let s1 := s.onBuf b fun u => { u with
      building := false, cullet := [],
      hdrs := (List.range 4).foldl (fun h p =>
        (s.poolGrans b p).foldl (fun h g => Tab.set (fun _ => {}) h g { pool := p, free := true }) h) [],
      free := (List.range 4).foldl (fun f p => Tab.set (fun _ => []) f p (s.poolGrans b p)) [] }
    s1.setFld (pgBuf b) Reg.BUF.BUFSTAT_READY 1
  else s

/-- A free-list link found bad (R240): the list is rebuilt, after the rebuild of another pool's list that runs, and the buffer
whose link failed goes to the cullet list, counted in CULLET_IN as a buffer that comes to it (the model's choice, log 227). -/
def State.listError (s : State) (b p : Nat) : State :=
  match (s.bufAt b).list p with
  | g :: _ =>
    let s1 := s.onBuf b fun u => { (u.setHdr g { u.hdr g with retire := true }) with
      free := Tab.set (fun _ => []) u.free p [], cullet := u.cullet ++ [g],
      rebuild := some (u.rebuild.getD (p, [])), alsoBad := if u.rebuild.isSome then u.alsoBad ++ [(p, [])] else u.alsoBad }
    let s2 := ((s1.bump (pgBuf b) Reg.BUF.LIST_REBUILD).raise (pgBuf b) 4)
    let s3 := (s2.bump (pgBuf b) Reg.BUF.CULLET_IN).raise (pgBuf b) 9
    ((s3.setFld (pgBuf b) Reg.BUF.BUFSTAT_REBUILDING 1).setFld (pgBuf b) Reg.BUF.BUFSTAT_REBUILD_POOL
      (((s3.bufAt b).rebuild.map Prod.fst).getD p)).poolTrack b p (s.poolFree b p)
  | [] => s

/-- The rebuild sweep ends (R240): buffers with FREE = 1 and RETIRE = 0 in header order, those freed after the sweep had
passed them (`late`) appended in the order of their freeing. -/
def State.listRebuilt (s : State) (b : Nat) (late : List Nat) : State :=
  match (s.bufAt b).rebuild with
  | none => s
  | some (p, freed) =>
    let after := freed.filter fun g => late.contains g && !((s.bufAt b).hdr g).out
    let swept := (s.poolGrans b p).filter fun g =>
      let h := (s.bufAt b).hdr g
      h.free && !h.retire && !h.out && !after.contains g
    let next := (s.bufAt b).alsoBad.head?
    ((s.onBuf b fun u => { u with free := Tab.set (fun _ => []) u.free p (swept ++ after), rebuild := next,
                                  alsoBad := u.alsoBad.drop 1 }).setFld
      (pgBuf b) Reg.BUF.BUFSTAT_REBUILDING (b2n next.isSome)).setFld (pgBuf b) Reg.BUF.BUFSTAT_REBUILD_POOL
      ((next.map Prod.fst).getD 0)

/-- A write of OWN_RES for an owner (R247). -/
def State.ownResWrite (s : State) (b o v : Nat) : State :=
  if 519 < o then s
  else
    let new := s.setL (pgBuf b) Reg.BUF.OWN_RES v o
    if s.poolGranules b < new.resSum b then s.raise (pgBuf b) 5 else new

/-- A write of OWN_DESC for an owner (R247). -/
def State.ownDescWrite (s : State) (b o : Nat) (v : W32) : State :=
  if 519 < o then s
  else
    let new := s.wrL (pgBuf b) 0x0CC v o
    if 32768 < new.resDescSum b then s.raise (pgBuf b) 5 else new

/-- A write of DFREE_LOGCTL.CLR = 1 (R254): the count goes to 0 and no record is held. -/
def State.dfreeClear (s : State) (b : Nat) : State :=
  (s.each (List.range 16) fun t k => t.wr (pgBuf b) (Reg.BUF.DFREE_LOG k).off 0).setFld (pgBuf b)
    Reg.BUF.DFREE_LOGCTL_COUNT 0

/-! ### The mailbox (R255, R256, R260, R261) -/

/-- A buffer header as READHDR returns it (R238). -/
def BufHdr.word (h : BufHdr) : Nat :=
  b2n h.free * 2 ^ 63 + h.refcnt % 256 * 2 ^ 55 + h.owner % 1024 * 2 ^ 45 + h.pool % 4 * 2 ^ 43 + b2n h.last * 2 ^ 42 +
  b2n h.retire * 2 ^ 41 + (if h.last then 0 else h.next % 2 ^ 18 * 2 ^ 20) + h.len % 2 ^ 14

/-- The handle of a granule of a bench (R231). -/
def handleOf (b g : Nat) : Nat := b * 2 ^ 18 + g

def State.hostRef (s : State) (b g : Nat) : Nat := Tab.get (fun _ => 0) (s.bufAt b).hostRefs g
def State.setHostRef (s : State) (b g n : Nat) : State :=
  s.onBuf b fun u => { u with hostRefs := Tab.set (fun _ => 0) u.hostRefs g n }

/-- Hold a mailbox result until it is final: status, handle, header. -/
def State.mboxHold (s : State) (b status handle hdr : Nat) : State :=
  s.onBuf b fun u => { u with mbox := some (status, handle, hdr) }

/-- ALLOC: one buffer of a pool for owner 512 (R261). -/
def State.mboxAlloc (s : State) (b pool : Nat) : State :=
  match s.allocNow b 65 512 none (.pool pool) with
  | (.granted _ (g :: _), s1) => (s1.setHostRef b g 1).mboxHold b 0 (handleOf b g) 0
  | (_, s1) => s1.mboxHold b 1 0 0

/-- FREE: one reference released (R254, R255). -/
def State.mboxFree (s : State) (b g : Nat) : State :=
  if ((s.bufAt b).hdr g).free then (s.relBuf b g 65).mboxHold b 2 0 0
  else ((s.relBuf b g 65).setHostRef b g (s.hostRef b g - 1)).mboxHold b 0 0 0

/-- ADDREF (R256). -/
def State.mboxAddref (s : State) (b g : Nat) : State :=
  let h := (s.bufAt b).hdr g
  if h.free then (s.doubleFree b 65 false g).mboxHold b 2 0 0
  else if 255 ≤ h.refcnt then (s.bump (pgBuf b) Reg.BUF.REF_SAT).mboxHold b 3 0 0
  else ((s.onBuf b fun u => u.setHdr g { h with refcnt := h.refcnt + 1 }).setHostRef b g (s.hostRef b g + 1)).mboxHold b 0 0 0

/-- RECLAIM (R260): the two patterns over the head of the cullet list; `pass` says whether every read matched. -/
def State.mboxReclaim (s : State) (b : Nat) (pass : Bool) : State :=
  match (s.bufAt b).cullet with
  | [] => s.mboxHold b 5 0 0
  | g :: rest =>
    let h := (s.bufAt b).hdr g
    let bytes := List.replicate (s.poolSize b h.pool * 64) (0xAA : Byte)
    let s1 := { s with bank := Tab.setList zeroByte s.bank (bankAt b g) bytes }
    if pass then
      let s2 := s1.onBuf b fun u => { (u.setHdr g { h with retire := false }) with cullet := rest }
      ((s2.pushFree b h.pool g).bump (pgBuf b) Reg.BUF.RECLAIMED).mboxHold b 0 (handleOf b g) 0
    else
      ((s1.onBuf b fun u => { u with cullet := rest ++ [g] }).bump (pgBuf b) Reg.BUF.RECLAIM_FAIL).mboxHold b 6 0 0

/-- A mailbox command accepted (R261): the result registers read 0 until the result is final. Any command whose HANDLE
names another bench, or no buffer's first granule, ends BAD_ARG. -/
def State.mboxRun (s : State) (b op pool handle : Nat) (pass : Bool) : State :=
  let s := ((s.wr (pgBuf b) 0x104 0).wr (pgBuf b) 0x108 0).wr (pgBuf b) 0x10C 0
  if !s.bufReady b then s.mboxHold b 7 0 0
  else if 5 ≤ op then s.mboxHold b 4 0 0
  else if handle / 2 ^ 18 ≠ b ∨ (s.poolOf b (handle % 2 ^ 18)).isNone then
    s.mboxHold b 4 0 0
  else match op with
    | 0 => s.mboxAlloc b pool
    | 1 => s.mboxFree b (handle % 2 ^ 18)
    | 2 => s.mboxAddref b (handle % 2 ^ 18)
    | 3 => s.mboxHold b 0 0 ((s.bufAt b).hdr (handle % 2 ^ 18)).word
    | _ => s.mboxReclaim b pass

/-- A mailbox result becomes final (R261). -/
def State.mboxFinal (s : State) (b : Nat) : State :=
  match (s.bufAt b).mbox with
  | none => s
  | some (status, handle, hdr) =>
    let s1 := s.onBuf b fun u => { u with mbox := none }
    let s2 := s1.wr (pgBuf b) 0x104 (BitVec.ofNat 32 (2 ^ 31 + status * 2 ^ 27 + handle))
    let s3 := (s2.wr (pgBuf b) 0x108 (BitVec.ofNat 32 hdr)).wr (pgBuf b) 0x10C (BitVec.ofNat 32 (hdr / 2 ^ 32))
    s3.raise (pgBuf b) 7

/-! ### The buffer window (R262) -/

/-- The granule and byte that word `k` of the window maps, none where it lies beyond the buffer or maps none. -/
def State.bwinAt (s : State) (b k : Nat) : Option (Nat × Nat) :=
  let h := s.fld (pgBuf b) Reg.BUF.BWIN_HANDLE
  let o := s.fld (pgBuf b) Reg.BUF.BWIN_OFF * 4 + 4 * k
  match s.poolOf b (h % 2 ^ 18) with
  | some p => if h / 2 ^ 18 = b ∧ o < s.poolSize b p * 64 then some (h % 2 ^ 18, o) else none
  | none => none

/-- A read of BWIN_DATA (R262): a free value where host software holds no reference. -/
def State.bwinRead (s : State) (b k : Nat) : W32 × State :=
  match s.bwinAt b k with
  | none => (0, s)
  | some (g, o) =>
    if s.hostRef b g = 0 then let (v, s1) := s.free 32; (BitVec.ofNat 32 v, s1)
    else (BitVec.ofNat 32 (beNat (Tab.getList zeroByte s.bank (bankAt b g + o) 4)), s)

/-- A write of BWIN_DATA (R262): what it leaves is a free value where host software holds no reference. -/
def State.bwinWrite (s : State) (b k : Nat) (v : W32) : State :=
  match s.bwinAt b k with
  | none => s
  | some (g, o) =>
    let (x, s1) := if s.hostRef b g = 0 then s.free 32 else (v.toNat, s)
    { s1 with bank := Tab.setList zeroByte s1.bank (bankAt b g + o) (natBE 4 x) }

end Sys2Proof.Machine
end

