-- ==== Sys2Proof/Machine/Editor.lean ====
section
/-! DEFINITION. The egress editor (R138 to R141): a copy's edit list, its FRER tag (R350), MARK_CE (R286), one-step PTP
(R69) and the FCS. -/

namespace Sys2Proof.Machine

/-- An edit entry's fields. The next-hop address of SET_DMAC_NH stands above the 32 bits of R138 (see the log). -/
def editOp (e : Nat) : Nat := bits e 31 28
def editOff (e : Nat) : Nat := bits e 27 19
def editAux (e : Nat) : Nat := bits e 18 16
def editArg (e : Nat) : Nat := bits e 15 0
def editAddr (e : Nat) : Nat := bits e 79 32
def editEntry (op off aux arg : Nat) (addr : Nat := 0) : Nat :=
  addr * 2 ^ 32 + op * 2 ^ 28 + off % 512 * 2 ^ 19 + aux * 2 ^ 16 + arg % 65536

/-- The offset at which an entry acts (R139). -/
def editAt (e : Nat) : Nat :=
  match editOp e with
  | 1 => 0
  | 2 => 6
  | _ => editOff e

/-- Work of the editor so far: bytes inserted before a received offset, bytes replaced, bytes removed, ranges removed,
entries applied, and what was counted. -/
structure EditSt where
  ins : List (Nat × List Byte) := []
  rep : List (Nat × Byte) := []
  rem : List Nat := []
  ranges : List (Nat × Nat) := []
  applied : Nat := 0
  conflict : Nat := 0
  bad : Nat := 0
  ttl : Bool := false
  deriving DecidableEq, Repr

/-- What an entry does: bytes it replaces or removes, whether it removes them, its insertion, and its new bytes. -/
structure EditAct where
  touch : List Nat := []
  remove : Bool := false
  insertAt : Option Nat := none
  bytes : List Byte := []
  ttl : Bool := false
  deriving DecidableEq, Repr

/-- TPID 0x88A8 or 0x8100. -/
def tpid (svlan : Bool) : Nat := if svlan then 0x88A8 else 0x8100

/-- A checksum with a 16-bit word changed from `m` to `m'` (RFC 1624). -/
def checksumFix (hc m m' : Nat) : Nat :=
  let x := (65535 - hc) + (65535 - m) + m'
  let y := x % 65536 + x / 65536
  65535 - (y % 65536 + y / 65536)

/-- The act of an entry on a frame's bytes; none for an operation 9 to 15 (R138). `smac` is EG_SMAC of the port and `n`
the number of R349. -/
def editAct (f : List Byte) (smac n e : Nat) : Option EditAct :=
  let o := editOff e
  let r (k : Nat) (l : Nat) : List Nat := (List.range l).map fun i => k + i
  match editOp e with
  | 1 => some { touch := r 0 6, bytes := natBE 6 (editAddr e) }
  | 2 => some { touch := r 6 6, bytes := natBE 6 smac }
  | 3 => some { insertAt := some o, bytes := natBE 2 (tpid (bit (editAux e) 0)) ++ natBE 2 (editArg e) }
  | 4 => some { touch := r o 4, remove := true }
  | 5 =>
    let t := beAt f o 2
    let c := beAt f (o + 2) 2
    let (t', c') := match editAux e % 4 with
      | 0 => (t, editArg e)
      | 1 => (t, c / 4096 * 4096 + editArg e % 4096)
      | 2 => (t, editArg e / 8192 * 8192 + c % 8192)
      | _ => (tpid (bit (editAux e) 2), editArg e)
    some { touch := r o 4, bytes := natBE 2 t' ++ natBE 2 c' }
  | 6 =>
    if bit (editAux e) 0 then
      let h := beAt f (o + 7) 1
      some { touch := [o + 7], bytes := natBE 1 (h - 1), ttl := decide (h ≤ 1) }
    else
      let w := beAt f (o + 8) 2
      let hc := checksumFix (beAt f (o + 10) 2) w (w - 256)
      some { touch := [o + 8, o + 10, o + 11], bytes := natBE 1 (w / 256 - 1) ++ natBE 2 hc, ttl := decide (w / 256 ≤ 1) }
  | 7 => some { insertAt := some o, bytes := natBE 2 0xF1C1 ++ natBE 2 0 ++ natBE 2 n }
  | 8 => some { touch := r o 6, remove := true }
  | _ => none

/-- One entry applied to the received bytes `f`, of which the frame has `len` before its FCS (R139, R140). -/
def editOne (f : List Byte) (len smac n : Nat) (t : EditSt) (e : Nat) : EditSt :=
  match editAct f smac n e with
  | none => { t with bad := t.bad + 1 }
  | some a =>
    if a.touch.any (fun i => decide (len ≤ i)) ||
        (match a.insertAt with
          | some i => decide (len < i)
          | none => false) then { t with bad := t.bad + 1 }
    else if a.touch.any (fun i => t.rem.contains i || (t.rep.map Prod.fst).contains i) ||
        (match a.insertAt with
          | some i => t.ranges.any fun g => decide (g.1 < i ∧ i < g.2)
          | none => false) then { t with conflict := t.conflict + 1 }
    else
      let t1 := { t with applied := t.applied + 1, ttl := t.ttl || a.ttl }
      match a.insertAt with
      | some i => { t1 with ins := t1.ins ++ [(i, a.bytes)] }
      | none =>
        if a.remove then
          { t1 with rem := t1.rem ++ a.touch, ranges := t1.ranges ++ [(a.touch.headD 0, a.touch.headD 0 + a.touch.length)] }
        else { t1 with rep := t1.rep ++ a.touch.zip a.bytes }

/-- Put an entry among those before it in acting order, equal offsets in order of appending. -/
def editInsert (e : Nat) : List Nat → List Nat
  | [] => [e]
  | x :: t => if editAt e < editAt x then e :: x :: t else x :: editInsert e t

/-- A list in the order of R139. -/
def editOrder (l : List Nat) : List Nat := l.foldl (fun a e => editInsert e a) []

/-- A copy's whole list worked through. -/
def editAll (f : List Byte) (len smac n : Nat) (edits : List Nat) : EditSt :=
  (editOrder edits).foldl (editOne f len smac n) {}

/-- The bytes inserted before a received offset. -/
def EditSt.before (t : EditSt) (i : Nat) : List Byte :=
  (t.ins.filter fun x => x.1 == i).flatMap Prod.snd

/-- The edited bytes of a frame, from offset `i` on. -/
def EditSt.build (t : EditSt) : Nat → List Byte → List Byte
  | i, [] => t.before i
  | i, b :: rest =>
    let here := if t.rem.contains i then [] else [((t.rep.find? fun r => r.1 == i).map Prod.snd).getD b]
    t.before i ++ here ++ t.build (i + 1) rest

/-- Where a received offset stands in the edited frame: bytes inserted at or before it, less bytes removed before it. -/
def EditSt.moved (t : EditSt) (o : Nat) : Nat :=
  o + ((t.ins.filter fun x => decide (x.1 ≤ o)).map fun x => x.2.length).sum - (t.rem.filter fun i => decide (i < o)).length

/-- The growth of the frame by its list. -/
def EditSt.delta (t : EditSt) : Int :=
  ((t.ins.map fun x => x.2.length).sum : Int) - (t.rem.length : Int)

/-- The tag position of R350 in an edited frame: after the source address and up to four 802.1Q tags. -/
def tagPos (f : List Byte) : Nat → Nat → Nat
  | 0, p => p
  | k + 1, p => if beAt f p 2 = 0x8100 ∨ beAt f p 2 = 0x88A8 then tagPos f k (p + 4) else p

/-- The FRER tag operation (R350): the frame, its growth, and where. -/
def frerTag (f : List Byte) (op n : Nat) : List Byte × Int × Nat :=
  let p := tagPos f 4 12
  let here := beAt f p 2 == 0xF1C1
  match op with
  | 1 => if here then (f.take (p + 4) ++ natBE 2 n ++ f.drop (p + 6), 0, p)
      else (f.take p ++ natBE 2 0xF1C1 ++ natBE 2 0 ++ natBE 2 n ++ f.drop p, 6, p)
  | 2 => if here then (f.take p ++ f.drop (p + 6), -6, p) else (f, 0, p)
  | _ => (f, 0, p)

/-- Write bytes over a frame's at an offset. -/
def overwrite (f : List Byte) (o : Nat) (b : List Byte) : List Byte :=
  if f.length < o + b.length then f else f.take o ++ b ++ f.drop (o + b.length)

/-- MARK_CE (R286) on the header at an offset. -/
def markCe (f : List Byte) (o : Nat) (ipv6 : Bool) : List Byte :=
  if ipv6 then overwrite f (o + 1) (natBE 1 (beAt f (o + 1) 1 ||| 0x30))
  else
    let w := beAt f o 2
    overwrite (overwrite f (o + 1) (natBE 1 (beAt f (o + 1) 1 ||| 3))) (o + 10)
      (natBE 2 (checksumFix (beAt f (o + 10) 2) w (w ||| 3)))

/-- Residence in ns of a frame with short ingress stamp `i` and egress time `t` (R66, R69). -/
def residence (i t : Nat) : Nat :=
  let f (x : Nat) : Nat := x / 2 ^ 30 % 4 * 1000000000 + x % 2 ^ 30
  (f (shortStamp t) + 4000000000 - f i) % 4000000000

/-- One-step PTP (R69) at the PTP header: origin timestamp of a Sync the host sends, correction of a forwarded event
message, and over UDP a zero checksum. -/
def oneStep (f : List Byte) (o : Nat) (own udp : Bool) (ingress t : Nat) : List Byte :=
  let f1 := if own then
      (if beAt f o 1 % 16 = 0 then overwrite f (o + 34) (natBE 6 (secOf t) ++ natBE 4 (nsOf t)) else f)
    else overwrite f (o + 8) (natBE 8 (beAt f (o + 8) 8 + residence ingress t * 65536))
  if udp then overwrite f1 (o - 2) (natBE 2 0) else f1

/-- A copy's frame from the editor: the bytes before the FCS, whether they differ in make from those received, and the
work done. `f` is the frame as received without its FCS, `len` its length known for the test of R140. -/
structure Edited where
  body : List Byte := []
  fresh : Bool := false
  work : EditSt := {}
  growth : Int := 0
  deriving DecidableEq, Repr

/-- The whole work of stage 10 before MACsec (R139). `own` says the frame came from the CPU port, `t` is the egress
time. -/
def editCopy (f : List Byte) (len smac : Nat) (c : Copy) (own : Bool) (ingress t : Nat) : Edited :=
  let w := editAll f len smac c.seq c.edits
  let b0 := w.build 0 f
  let (b1, g, p) := frerTag b0 c.frerOp c.seq
  let shift (o : Nat) : Nat :=
    let m := w.moved o
    if g = 6 ∧ p ≤ m then m + 6 else if g = -6 ∧ p < m then m - 6 else m
  let b2 := if c.markCe then markCe b1 (shift c.l3off) c.ipv6 else b1
  let b3 := if c.onestep then oneStep b2 (shift c.ptpOff) own (c.l3off != 0 && !c.ipv6) ingress t else b2
  { body := b3, work := w, growth := w.delta + g,
    fresh := decide (0 < w.applied) || c.frerOp == 1 || decide (g ≠ 0) || c.markCe || c.onestep }

/-- The edited length, FCS included, of a frame of `len` bytes: padded to 64 (R141). -/
def Edited.length (e : Edited) (len : Nat) : Nat := max 64 ((len : Int) + e.growth).toNat

/-- The body padded to 60 bytes (R141). -/
def padBody (b : List Byte) : List Byte := b ++ List.replicate (60 - b.length) 0

end Sys2Proof.Machine
end

