-- ==== Sys2Proof/Machine/Macsec.lean ====
section
/-! DEFINITION. MACsec (R365 to R386): SC and SA entries, the transmit SC of a copy, protection and recovery of frames, and
the working state of SAs. -/

namespace Sys2Proof.Machine

/-! ### Numbers (R365) -/

/-- The two benches of a cluster. -/
def ciphBenches (c : Nat) : List Nat := [2 * c, 2 * c + 1]

def State.scEntry (s : State) (c i : Nat) : Nat := Tab.get (fun _ => 0) (s.ciphAt c).scs i
def State.saEntry (s : State) (c i : Nat) : Nat := Tab.get (fun _ => 0) (s.ciphAt c).sas i
def State.keySlot (s : State) (c i : Nat) : KeySlot := Tab.get (fun _ => {}) (s.ciphAt c).keys i

/-! SC entry fields (R373). -/
def scValid (e : Nat) : Bool := bit e 127
def scTx (e : Nat) : Bool := bit e 126
def scSuite (e : Nat) : Nat := bits e 125 124
def scXpn (e : Nat) : Bool := bit e 125
def scPort (e : Nat) : Nat := bits e 123 119
def scConf (e : Nat) : Bool := bit e 118
/-- A confidentiality offset by its code. -/
def confOffset : Nat → Nat
  | 1 => 30
  | 2 => 50
  | _ => 0
def scOff (e : Nat) : Nat := confOffset (bits e 117 116)
def scIncl (e : Nat) : Bool := bit e 115
def scEs (e : Nat) : Bool := bit e 114
def scEncAn (e : Nat) : Nat := bits e 112 111
def scStrict (e : Nat) : Bool := bit e 110
def scCt (e : Nat) : Bool := bit e 109 && !scStrict e
def scReplay (e : Nat) : Bool := bit e 108
def scWindow (e : Nat) : Nat := bits e 95 64
def scSci (e : Nat) : Nat := bits e 63 0

/-! SA entry fields (R374). -/
def saValid (e : Nat) : Bool := bit e 127
def saKey (e : Nat) : Nat := bits e 124 114
def saSsci (e : Nat) : Nat := bits e 95 64
def saPn (e : Nat) : Nat := bits e 63 0

/-- One frame's change of an SA. -/
def saApply (e : Nat) (u : SaUpdate) : Nat :=
  if !saValid e then e
  else setBits (setBits (setBits e 63 0 u.pn) 125 125 (b2n (bit e 125 || u.thresh))) 126 126 (b2n (bit e 126 || u.exh))

/-- The working SA (R376). -/
def State.saWork (s : State) (c i : Nat) : Nat :=
  ((s.ciphAt c).ups.filter fun u => u.sa == i).foldl saApply (s.saEntry c i)

/-- Growth of a protected copy (R369). -/
def scGrowth (e : Nat) : Nat := if scIncl e then 32 else 24

/-- LOWEST of a receive SA (R374). -/
def lowest (sc sa : Nat) : Nat := max 1 (saPn sa - scWindow sc)

/-- The IV of a PN under an SC and SA (R385): SCI and PN, or SSCI and 64-bit PN with the salt. -/
def macsecIv (sc sa salt pn : Nat) : List Byte :=
  if scXpn sc then xorBytes (natBE 4 (saSsci sa) ++ natBE 8 pn) (natBE 12 salt)
  else natBE 8 (scSci sc) ++ natBE 4 pn

/-! ### The transmit SC (R383, R384) -/

/-- What R383 gives a copy. -/
inductive TxPick where
  | clear (counted : Bool)
  | sc (n : Nat)
  | noSc
  | mismatch
  deriving DecidableEq, Repr

/-- A frame's EtherType matches an enabled BYPASS register. -/
def State.bypassed (s : State) (c ety : Nat) : Bool :=
  (s.flag (pgCiph c) Reg.CIPH.BYPASS0_EN && s.fld (pgCiph c) Reg.CIPH.BYPASS0_ETYPE == ety) ||
  (List.range 3).any fun k =>
    s.flag (pgCiph c) (Reg.CIPH.BYPASS1_EN k) && s.fld (pgCiph c) (Reg.CIPH.BYPASS1_ETYPE k) == ety

/-- R383 for a copy at a port, its EtherType after editing given. -/
def State.txPick (s : State) (p : Nat) (cp : Copy) (ety : Nat) : TxPick :=
  if !isTrunk p then .clear false
  else
    let c := ciphOf p
    let j := ciphPort p
    if !s.flag (pgCiph c) (Reg.CIPH.PCFG_MACSEC_EN j) then
      if cp.scEn then .mismatch else .clear false
    else if s.bypassed c ety then .clear false
    else if cp.scEn then .sc cp.sc
    else if s.flag (pgCiph c) (Reg.CIPH.PCFG_TXSC_EN j) then .sc (s.fld (pgCiph c) (Reg.CIPH.PCFG_TXSC j))
    else if s.flag (pgCiph c) (Reg.CIPH.PCFG_TX_UNPROT j) then .clear true
    else .noSc

/-- Check 1 of R384: the SC serves this port. -/
def State.txScOk (s : State) (p n : Nat) : Bool :=
  let e := s.scEntry (ciphOf p) (n % 1024)
  n / 1024 == ciphOf p && scValid e && scTx e && scPort e == ciphPort p

/-- The protection overhead of a copy's transmit SC (R317). -/
def State.txGrowth (s : State) (p : Nat) (cp : Copy) (ety : Nat) : Nat :=
  match s.txPick p cp ety with
  | .sc n => if s.txScOk p n then scGrowth (s.scEntry (ciphOf p) (n % 1024)) else 0
  | _ => 0

/-- A protected frame from its body without FCS (R385): SecTAG, secure data, ICV. `sl` is the short length. -/
def protect (sc sa salt pn : Nat) (key body : List Byte) (known : Bool) : List Byte :=
  let data := body.drop 12
  let sl := if known && decide (data.length < 48) then data.length else 0
  let conf := scConf sc
  let tci := b2n (!scIncl sc && scEs sc) * 64 + b2n (scIncl sc) * 32 + b2n conf * 12 + scEncAn sc
  let tag := natBE 2 0x88E5 ++ natBE 1 tci ++ natBE 1 sl ++ natBE 4 pn ++ (if scIncl sc then natBE 8 (scSci sc) else [])
  let off := if conf then scOff sc else data.length
  let plain := data.take off
  let ks := Aes.expand key
  let iv := macsecIv sc sa salt pn
  let ct := Aes.gcmCtr ks iv (data.drop off)
  let aad := body.take 12 ++ tag ++ plain
  aad ++ ct ++ Aes.gcmTag ks iv aad ct

/-- The bytes of an AES key of a slot. -/
def KeySlot.bytes (k : KeySlot) : Nat := if k.len = 1 then 32 else 16

/-- A received frame's plaintext and whether its ICV is right (R379), from its bytes without FCS. -/
def unprotect (r : RxSec) (f : List Byte) : List Byte × Bool :=
  let head := 12 + r.tag
  let off := if r.enc then r.off else f.length - head - 16
  let secure := (f.drop head).take (f.length - head - 16)
  let aad := f.take head ++ secure.take off
  let ct := secure.drop off
  let ks := Aes.expand (natBE r.keyLen r.key)
  (f.take 12 ++ secure.take off ++ Aes.gcmCtr ks r.iv ct,
    Aes.gcmTag ks r.iv aad ct == f.drop (f.length - 16))

/-- Count in an SC's counters (R400). -/
def State.scCount (s : State) (c sc k : Nat) (n : Nat := 1) : State :=
  s.addCtr (pgCiph c) (Reg.CIPH.SC_CNT k) n sc

/-- A record of the PN log (R399). -/
def State.pnLog (s : State) (c : Nat) (exh : Bool) (an sc : Nat) : State :=
  if (s.ciphAt c).pnLog.length < 16 then
    s.onCiph c fun k => { k with pnLog := k.pnLog ++ [2 ^ 31 + b2n exh * 2 ^ 30 + an * 2 ^ 12 + sc] }
  else (s.bump (pgCiph c) Reg.CIPH.PN_LOG_LOST).raise (pgCiph c) 6

/-- A copy takes the SA's NEXT_PN (R386), in the local tick of its bench. -/
def State.takePn (s : State) (c b sc : Nat) : Nat × State :=
  let e := s.scEntry c sc
  let an := scEncAn e
  let i := 4 * sc + an
  let sa := s.saWork c i
  let pn := saPn sa
  let last := if scXpn e then 2 ^ 64 - 1 else 2 ^ 32 - 1
  let limit := if scXpn e then s.fld (pgCiph c) Reg.CIPH.XPN_THRESH_HI * 2 ^ 32 else s.fld (pgCiph c) Reg.CIPH.PN_THRESH
  let thresh := !bit sa 125 && decide (limit ≤ pn)
  let exh := pn == last
  let s1 := s.onCiph c fun k => { k with
    ups := k.ups ++ [{ bench := b, tick := s.localTick b, sa := i, pn := if exh then pn else pn + 1, thresh := thresh, exh := exh }] }
  let s2 := if thresh then (s1.pnLog c false an sc).raise (pgCiph c) 0 else s1
  (pn, if exh then (s2.pnLog c true an sc).raise (pgCiph c) 1 else s2)

end Sys2Proof.Machine
end

