-- ==== Sys2Proof/Machine/Queue.lean ====
section
/-! DEFINITION. Egress queues (R273 to R293): keys, depths, holders, heads and finish tags, the checks of enqueue, and the
handling of bad copies. -/

namespace Sys2Proof.Machine

/-! ### Keys and depths -/

/-- The key of bench `b`'s queue `q`. -/
def qkey (b q : Nat) : Nat := b * 1024 + q
/-- The queue of class `c` of a port (R273). -/
def portQueue (p c : Nat) : Nat := qkey (portBench p) (8 * portLocal p + c)
/-- The queue a copy joins: its port's class queue, or the CPU queue of the bench that holds its frame. -/
def copyQueue (c : Copy) : Nat := if c.port < 512 then portQueue c.port c.cls else qkey c.bench c.port
/-- The port of a queue key, none for a CPU queue. -/
def keyPort (k : Nat) : Option Nat := if k % 1024 < 512 then some (localPort (k / 1024) (k % 1024 / 8)) else none

def cellsSum (l : List Copy) : Nat := (l.map fun c => c.cells).sum
def Queue.headCells (q : Queue) : Nat := cellsSum q.head
def Queue.stageCells (q : Queue) : Nat := cellsSum q.stage
def Queue.midCells (q : Queue) : Nat := (q.mid.map fun m => m.copy.cells).sum
/-- Total depth (R277). -/
def Queue.depth (q : Queue) : Nat := q.headCells + q.midCells + q.stageCells
/-- QSTAT.STATE: 0 EMPTY, 1 ONCHIP, 2 SPILLING (R282). -/
def Queue.state (q : Queue) : Nat :=
  if !q.mid.isEmpty || !q.stage.isEmpty then 2 else if q.head.isEmpty then 0 else 1

/-- Free queue entries of a bench (R274). -/
def State.qeFree (s : State) (b : Nat) : Nat :=
  65536 - ((s.queue.filter fun e => e.1 / 1024 == b).map fun e => e.2.head.length + e.2.stage.length).sum

/-- A register field of a queue, its spill profile or its WRED profile. -/
def State.qfld (s : State) (k : Nat) (f : Fld) : Nat := s.fld (pgCore (k / 1024)) f (k % 1024)
def State.spillFld (s : State) (k : Nat) (f : Fld) : Nat :=
  s.fld (pgCore (k / 1024)) f (s.qfld k Reg.CORE.QCFG_SPILL_PROF)
def State.wredFld (s : State) (k colour : Nat) (f : Fld) : Nat :=
  s.fld (pgCore (k / 1024)) f (s.qfld k Reg.CORE.QCFG_WRED_PROF * 4 + colour)
/-- SPILL_EN, which CPU queues read as 0 (R298). -/
def State.spillEn (s : State) (k : Nat) : Bool := decide (k % 1024 < 512) && s.qfld k Reg.CORE.QCFG_SPILL_EN == 1

/-- Count in a bench's CORE page, or in a queue's counters. -/
def State.coreCount (s : State) (b c : Nat) : State := s.bump (pgCore b) c
def State.queueCount (s : State) (k c : Nat) : State := s.bump (pgCore (k / 1024)) c (k % 1024)

/-- Put a queue, counting entry into the condition of R282. -/
def State.setQueue (s : State) (k : Nat) (q : Queue) : State :=
  let starving := q.head.isEmpty && q.state == 2
  let s1 := s.putQueue k { q with starved := starving }
  if starving && !q.starved then (s1.coreCount (k / 1024) Reg.CORE.HEAD_STARVE).raise (pgCore (k / 1024)) 8 else s1

/-- Keep QE_MIN (R298). -/
def State.qeTrack (s : State) (b : Nat) : State :=
  let n := s.qeFree b
  if n < s.fld (pgCore b) Reg.CORE.QE_MIN then s.setFld (pgCore b) Reg.CORE.QE_MIN n else s

/-! ### A copy's frame -/

/-- A copy's length in bytes as received, cut for a truncated mirror copy; 0 while unknown (R275, R295). -/
def State.copyLen (s : State) (c : Copy) : Nat :=
  match s.descAt c.bench c.desc with
  | some d => if c.trunc ≠ 0 ∧ 64 * min 152 c.trunc < d.len then 64 * min 152 c.trunc else d.len
  | none => 0

/-- The owner of a copy's frame. -/
def State.copyOwner (s : State) (c : Copy) : Nat := ((s.descAt c.bench c.desc).map fun d => d.owner).getD 519

/-- The depth charge of a copy (R275). -/
def State.copyCells (s : State) (c : Copy) : Nat :=
  let l := s.copyLen c
  if l ≠ 0 then ceilDiv l 64
  else if s.copyOwner c < 512 then ceilDiv (s.maxFrame (s.copyOwner c)) 64 else 152

/-- A copy's bytes before the FCS, as far as stored. -/
def State.copyBytes (s : State) (c : Copy) : List Byte :=
  let f := s.frameBytes c.bench c.desc
  let l := s.copyLen c
  if l = 0 then f else f.take (l - 4)

/-- A copy's frame from the editor at an egress time (R139). -/
def State.edited (s : State) (c : Copy) (t : Nat) : Edited :=
  let f := s.copyBytes c
  let smac := s.fld (pgMarver (portBench c.port)) (Reg.MARVER.SMAC_HI (portLocal c.port)) * 2 ^ 32 +
    s.fld (pgMarver (portBench c.port)) (Reg.MARVER.SMAC_LO (portLocal c.port))
  let l := s.copyLen c
  let own := ((s.descAt c.bench c.desc).map fun d => decide (511 < d.port)).getD false
  let ts := ((s.descAt c.bench c.desc).map fun d => d.ts).getD 0
  editCopy f (if l = 0 then f.length else l - 4) smac c own ts t

/-- MAX_SDU of a class of a port; 0 is no limit (R337). -/
def State.maxSdu (s : State) (p c : Nat) : Nat := s.fld (pgSched (portBench p)) (Reg.SCHED.MAXSDU c) (portLocal p)

/-- A copy's length after its edit list and FRER tag, FCS included; none while unknown (R317). -/
def State.editedLen (s : State) (c : Copy) : Option Nat :=
  if s.copyLen c = 0 then none else some ((s.edited c 0).length (s.copyLen c))

/-- The EtherType of a copy after editing. -/
def State.copyEty (s : State) (c : Copy) : Nat := beAt (s.edited c 0).body 12 2

/-- A copy's wire length (R317). -/
def State.wireLen (s : State) (c : Copy) : Nat :=
  let l := match s.editedLen c with
    | some l => l
    | none =>
      let m := s.maxSdu c.port c.cls
      if m ≠ 0 then m else if s.copyOwner c < 512 then s.maxFrame (s.copyOwner c) else 9728
  l + s.txGrowth c.port c (s.copyEty c) + 20

/-! ### Classes of a port (R326, R335) -/

def State.tsa (s : State) (p : Nat) (f : Fld) : Nat := s.fld (pgSched (portBench p)) f (portLocal p)
/-- A class is preemptable on a port (R326). -/
def State.preemptable (s : State) (p c : Nat) : Bool := bit (s.tsa p Reg.SCHED.TSA_PREEMPT) c && s.txActive p
/-- A class is in the WFQ group. -/
def State.wfq (s : State) (p c : Nat) : Bool := bit (s.tsa p Reg.SCHED.TSA_WFQ) c
/-- The weight of a class (R335). -/
def State.weight (s : State) (p c : Nat) : Nat :=
  let w := bits (s.tsa p (if c < 4 then Reg.SCHED.WEIGHT_LO else Reg.SCHED.WEIGHT_HI)) (8 * (c % 4) + 7) (8 * (c % 4))
  max 1 w
/-- Minimum fragment's wire length (R317). -/
def State.minFrag (s : State) (p : Nat) : Nat := 64 * (1 + s.portFld p Reg.PORT.MMCFG_ADD_FRAG) + 20
/-- The length in ns that the start test takes of a copy: the whole copy, or a minimum fragment (R327, R328). -/
def State.startTime (s : State) (p : Nat) (c : Copy) : Nat :=
  s.sendTime p (if s.preemptable p c.cls then s.minFrag p else s.wireLen c)
/-- GUARD of a port. -/
def State.guard (s : State) (p : Nat) : Nat := s.gfld p Reg.GATE.GUARD

/-- A copy cannot fit any window of its class (R327). -/
def State.noWindow (s : State) (p : Nat) (c : Copy) : Bool :=
  match s.maxWin p c.cls with
  | some w => decide (w < s.startTime p c + s.guard p)
  | none => false

/-- A copy is longer than its class's MAX_SDU. -/
def State.overSdu (s : State) (p : Nat) (c : Copy) : Bool :=
  match s.editedLen c with
  | some l => decide (s.maxSdu p c.cls ≠ 0 ∧ s.maxSdu p c.cls < l)
  | none => false

/-- A class counter of a port (R338). -/
def State.classCount (s : State) (p c : Nat) (k : Nat → Nat) : State := s.bump (pgSched (portBench p)) (k c) (portLocal p)
/-- A port counter of the SCHED page. -/
def State.schedCount (s : State) (p k : Nat) : State := s.bump (pgSched (portBench p)) k (portLocal p)

/-- The finish tag's increment for a copy (R335). -/
def State.tagStep (s : State) (p : Nat) (c : Copy) : Nat := s.wireLen c * (65536 / s.weight p c.cls)
def State.finishTag (s : State) (p c : Nat) : Nat := Tab.get (fun _ => 0) (s.schedAt p).tags c
def State.setFinishTag (s : State) (p c v : Nat) : State :=
  s.onSched p fun h => { h with tags := Tab.set (fun _ => 0) h.tags c (v % 2 ^ 32) }

/-- A copy has become head of its queue: `base` is V, or the tag of the head before (R335). -/
def State.newHead (s : State) (k base : Nat) : State :=
  match keyPort k, (s.queueAt k).head.head? with
  | some p, some c => s.setFinishTag p c.cls (base + s.tagStep p c)
  | _, _ => s

/-- Put copies at the tail of HEAD. -/
def State.pushHead (s : State) (k : Nat) (c : Copy) : State :=
  let q := s.queueAt k
  let s1 := s.setQueue k { q with head := q.head ++ [c] }
  if q.head.isEmpty then s1.newHead k (s1.schedAt ((keyPort k).getD 0)).v else s1

/-- Keep only the copies of HEAD and STAGE that meet a test; a new head takes its tag from the one before. -/
def State.keepCopies (s : State) (k : Nat) (keep : Copy → Bool) : State :=
  let q := s.queueAt k
  let q' := { q with head := q.head.filter keep, stage := q.stage.filter keep }
  let s1 := s.setQueue k q'
  match q.head with
  | c :: _ => if keep c then s1 else s1.newHead k (s.finishTag ((keyPort k).getD 0) c.cls)
  | [] => s1

/-- The oldest copy of HEAD leaves. -/
def State.popHead (s : State) (k : Nat) : State :=
  let q := s.queueAt k
  match q.head with
  | c :: rest => (s.setQueue k { q with head := rest }).newHead k (s.finishTag ((keyPort k).getD 0) c.cls)
  | [] => s

/-! ### Holders (R242) -/

/-- The holder a copy belongs to: its egress bench, or 8 + the bench whose CPU receive DMA it waits for. -/
def copyUnit (c : Copy) : Nat := if c.port < 512 then portBench c.port else 8 + c.bench

/-- A copy of the frame. -/
def ofFrame (b d : Nat) (c : Copy) : Bool := c.bench == b && c.desc == d

/-- A unit still holds a frame. -/
def State.unitHolds (s : State) (u b d : Nat) : Bool :=
  s.queue.any (fun e =>
    (if u < 8 then e.1 / 1024 == u && decide (e.1 % 1024 < 512) else e.1 / 1024 == u - 8 && decide (512 ≤ e.1 % 1024)) &&
    (e.2.head.any (ofFrame b d) || e.2.stage.any (ofFrame b d) ||
      e.2.mid.any fun m => decide (0 < m.pend) && ofFrame b d m.copy)) ||
  (if u < 8 then (s.coreAt u).inbox.any (fun r => r.2.bench == b && r.2.desc == d) ||
      (s.coreAt u).recov.any fun r => ofFrame b d r.1
    else (s.coreAt (u - 8)).cpuWait.any (ofFrame b d))

/-- A unit releases its holder when none of its copies of the frame is left. -/
def State.settleUnit (s : State) (u b d : Nat) : State :=
  if s.unitHolds u b d then s else s.relHold b d (if u < 8 then 66 else 64)

/-- Add a holder to a frame. -/
def State.addHold (s : State) (b d : Nat) : State := s.onDesc b d fun v => { v with holders := v.holders + 1 }

/-- A discarded copy is counted on the cullet path (R259). -/
def State.culled (s : State) (c : Copy) : State := s.bump (pgBuf c.bench) Reg.BUF.CULLET_FRAMES

/-- Copies of HEAD and STAGE that fail a test are discarded: `note` counts each, and holders settle. -/
def State.discardCopies (s : State) (k : Nat) (keep : Copy → Bool) (note : State → Copy → State) : State :=
  let q := s.queueAt k
  let gone := (q.head ++ q.stage).filter fun c => !keep c
  if gone.isEmpty then s
  else
    let s1 := s.keepCopies k keep
    (s1.each gone fun s c => note (s.culled c) c).each (gone.map fun c => (copyUnit c, c.bench, c.desc)).eraseDups
      fun s u => s.settleUnit u.1 u.2.1 u.2.2

/-! ### WRED (R284 to R286) -/

/-- One step of the generator (R285). -/
def lfsrStep (x : Nat) : Nat :=
  (x * 2 + b2n (bit x 15 ^^ bit x 13 ^^ bit x 12 ^^ bit x 10)) % 65536

/-- What WRED does with a copy: pass, pass with a count and perhaps CE, or discard. -/
inductive Wred where
  | pass
  | mark (ce : Bool)
  | drop
  deriving DecidableEq, Repr

/-- The average after a copy has come (R284). -/
def wredAvg (q : Queue) (w : Nat) : Nat :=
  let a : Int := if q.state = 0 then 0 else q.avg
  (a + ((q.depth * 256 : Nat) - a) / ((2 ^ w : Nat) : Int)).toNat

/-- The ECN field of a copy's frame. -/
def State.copyEcn (s : State) (c : Copy) : Nat :=
  let b := beAt (s.frameBytes c.bench c.desc) (c.l3off + 1) 1
  if c.ipv6 then b / 16 % 4 else b % 4

/-- The decision of R285 and R286 for a copy at a queue, with the average updated. -/
def State.wred (s : State) (k : Nat) (c : Copy) : Wred × State :=
  let q := s.queueAt k
  let avg := wredAvg q (s.wredFld k 3 ⟨0x0C4, 3, 0⟩)
  let s1 := s.putQueue k { q with avg := avg }
  let a := avg / 256
  let lo := s.wredFld k c.colour Reg.CORE.WCFG0_MIN_TH
  let hi := s.wredFld k c.colour Reg.CORE.WCFG1_MAX_TH
  let b := k / 1024
  let (act, s2) :=
    if a < lo then (false, s1)
    else if hi ≤ a then (true, s1)
    else
      let r := lfsrStep (s.coreAt b).lfsr.toNat
      (decide (r * 256 * (hi - lo) < s.wredFld k c.colour Reg.CORE.WCFG2_MAX_P * 65536 * (a - lo)),
        s1.onCore b fun h => { h with lfsr := BitVec.ofNat 16 r })
  if !act then (.pass, s2)
  else if s.wredFld k c.colour Reg.CORE.WCFG2_MODE = 0 ∨ !c.ecn then (.drop, s2)
  else match s.copyEcn c with
    | 0 => (.drop, s2)
    | 3 => (.mark false, s2)
    | _ => (.mark true, s2)

/-! ### Enqueue (R276, R278, R100) -/

/-- A frame has been wholly received: where it crosses the bridge, by its ingress bench. -/
def State.wholly (s : State) (b d : Nat) (v : Desc) : Bool :=
  v.done || s.bridge.any fun e => brBench e.1 == b && (match e.2.xfer with
    | some x => x.desc == some d && ((s.descAt x.hand.bench x.hand.desc).map fun u => u.done).getD true
    | none => false)

/-- Cut-through is allowed for a copy whose frame is still in reception (R100). -/
def State.ctAllowed (s : State) (k : Nat) (c : Copy) (d : Desc) : Bool :=
  let rate (p : Nat) : Nat := s.byteTime p
  !s.wholly c.bench c.desc d && !d.noCt && c.trunc == 0 && decide (c.port < 512) && decide (d.port < 512) &&
  s.portFlag d.port Reg.PORT.PCFG_CT_EN && s.portFlag c.port Reg.PORT.PCFG_CT_EN &&
  decide (rate d.port ≤ rate c.port) && (s.queueAt k).state == 0 && s.portUp c.port

/-- The part of its queue that a copy joins (R278): HEAD. -/
def State.joinsHead (s : State) (k : Nat) (c : Copy) : Bool :=
  let q := s.queueAt k
  let en := s.spillEn k
  if !en && decide (q.state ≤ 1) then true
  else if q.state = 2 then false
  else if en && decide (s.spillFld k Reg.CORE.SPILL_HI < q.headCells + c.cells) then false
  else if en && decide (s.freeCells c.bench < s.fld (pgCore c.bench) Reg.CORE.BANK_SPILL) &&
      decide (s.spillFld k Reg.CORE.SPILL_MIN < q.headCells + c.cells) then false
  else true

/-- A copy joins its queue. -/
def State.join (s : State) (k : Nat) (c : Copy) (d : Desc) : State :=
  let c := { c with ct := s.ctAllowed k c d }
  let s1 := if s.joinsHead k c then s.pushHead k c
    else let q := s.queueAt k; s.setQueue k { q with stage := q.stage ++ [c] }
  let s2 := ((s1.coreCount (k / 1024) Reg.CORE.ENQ_COPIES).queueCount k Reg.CORE.Q_ENQ).qeTrack (k / 1024)
  if c.ct then s2.coreCount (k / 1024) Reg.CORE.CT_COPIES else s2

/-- Checks 3 to 5 of R276. -/
def State.enqueueDeep (s : State) (k : Nat) (c : Copy) (d : Desc) : Bool × State :=
  let b := k / 1024
  if s.qeFree b = 0 then
    (false, (((s.coreCount b Reg.CORE.QE_FULL).queueCount k Reg.CORE.Q_DROP_QE).raise (pgCore b) 0).culled c)
  else
    let (w, s1) := s.wred k c
    if w = .drop then
      (false, ((s1.coreCount b Reg.CORE.WRED_DROP).queueCount k Reg.CORE.Q_DROP_WRED).culled c)
    else
      let (c, s2) := match w with
        | .mark ce => ({ c with markCe := c.markCe || ce }, (s1.coreCount b Reg.CORE.WRED_MARK).queueCount k Reg.CORE.Q_MARK)
        | _ => (c, s1)
      if s.qfld k Reg.CORE.QMAX < (s2.queueAt k).depth + c.cells then
        (false, ((s2.coreCount b Reg.CORE.QMAX_DROP).queueCount k Reg.CORE.Q_DROP_QMAX).culled c)
      else (true, s2.join k c d)

/-- A copy is checked at enqueue and joins its queue or is discarded (R276); whether it joined. Holders are settled by
the caller. -/
def State.enqueue (s : State) (c : Copy) : Bool × State :=
  match s.descAt c.bench c.desc with
  | none => (false, s)
  | some d =>
    let c := { c with cells := s.copyCells c, colour := if c.mir then 0 else d.colour }
    let k := copyQueue c
    if d.bad ≠ 0 then
      let s1 := if d.bad = 21 then s else s.coreCount (k / 1024) Reg.CORE.BAD_DISCARD
      (false, (if d.bad = 16 then s1.bump (pgBuf c.bench) Reg.BUF.ECC_DROP else s1).culled c)
    else if 511 < c.port then s.enqueueDeep k c d
    else if !s.portTakes c.port then (false, (s.portCount c.port Reg.PORT.DOWN_DISCARD).culled c)
    else if s.overSdu c.port c then (false, (s.classCount c.port c.cls Reg.SCHED.SDU_DROP).culled c)
    else if s.noWindow c.port c then
      (false, ((s.classCount c.port c.cls Reg.SCHED.WIN_DROP).raise (pgSched (portBench c.port)) 2).culled c)
    else s.enqueueDeep k c d

/-! ### Bad copies (R290 to R293) -/

/-- Bytes of a frame stored now. -/
def State.storedLen (s : State) (b d : Nat) : Nat := (s.frameBytes b d).length

/-- The copy in transmission, and the remainder that waits, of each port. -/
def State.parisons (s : State) (b d : Nat) : List Nat :=
  (s.tx.filter fun e => match e.2 with
    | some t => ofFrame b d t.copy
    | none => false).map Prod.fst

/-- The bytes that a copy holds in storage: those of a mirror copy cut at TRUNC end before its FCS (R290, R295). -/
def State.heldBytes (s : State) (c : Copy) : Nat :=
  let n := s.storedLen c.bench c.desc
  let cut := 64 * min 152 c.trunc
  if c.trunc = 0 ∨ n ≤ cut then n else cut - 4

/-- A transmission is to leave marked, for the first cause found (R290, R293). -/
def State.markTx (s : State) (x reason : Nat) : State :=
  s.onTx x fun t => t.map fun t => if t.marked.isSome then t else { t with marked := some (reason, s.heldBytes t.copy) }

/-- Copies of a frame that have not begun, anywhere on chip, are discarded; `note` counts each. -/
def State.discardFrame (s : State) (b d : Nat) (note : State → Nat → State) : State :=
  let s1 := s.each (s.queue.map Prod.fst) fun s k =>
    s.discardCopies k (fun c => c.begun || !ofFrame b d c) fun s _ => note s (k / 1024)
  let s2 := s1.each (List.range 8) fun s u =>
    let gone := ((s.coreAt u).recov.filter fun r => ofFrame b d r.1).map fun r => r.1
    let cpu := (s.coreAt u).cpuWait.filter (ofFrame b d)
    if gone.isEmpty && cpu.isEmpty then s
    else
      let s1 := s.onCore u fun h => { h with
        recov := h.recov.filter fun r => !ofFrame b d r.1, cpuWait := h.cpuWait.filter fun c => !ofFrame b d c }
      let s2 := s1.each (gone ++ cpu) fun s c => note (s.culled c) u
      (if gone.isEmpty then s2 else s2.settleUnit u b d).ifDo (!cpu.isEmpty) fun s => s.settleUnit (8 + u) b d
  s2.each (s.bridge.map Prod.fst) fun s k =>
    let r := s.bridgeAt k
    let keep := fun (x : HandRec) => !(x.bench == b && x.desc == d)
    let waiting := if r.xfer.isSome then r.fifo.drop 1 else r.fifo
    let gone := waiting.filter fun x => !keep x
    if gone.isEmpty then s
    else
      let s1 := s.onBridge k fun r => { r with
        sent := if r.xfer.isSome || r.fifo.head?.all keep then r.sent else 0,
        fifo := if r.xfer.isSome then r.fifo.take 1 ++ (r.fifo.drop 1).filter keep else r.fifo.filter keep }
      s1.each gone fun s x => (x.copies.foldl (fun s c => note (s.culled c) x.src) s).relHold b d 69

/-- The transfer of a frame that crosses the bridge carries a finding to the receiving side. -/
def State.tellXfer (s : State) (b d : Nat) (f : Xfer → Xfer) : State :=
  s.each (s.bridge.map Prod.fst) fun s k =>
    match (s.bridgeAt k).xfer with
    | some x => if x.hand.bench == b && x.hand.desc == d then s.onBridge k fun r => { r with xfer := some (f x) } else s
    | none => s

/-- A reason that is a receive error (R88), as a failed tag check counts (R380). -/
def rxFault (reason : Nat) : Bool := reason == 13 || reason == 14 || reason == 18

/-- A frame is found bad for a cause, the number of its reason counter (R290, R291). One too long for its filter (21, R308) is no
copy found bad, and may still be. -/
def State.frameBad (s : State) (b d reason : Nat) : State :=
  match s.descAt b d with
  | none => s
  | some v =>
    let s1 := s.onDesc b d fun v => { v with bad := if v.bad = 0 ∨ v.bad = 21 then reason else v.bad,
                                             err := v.err || rxFault reason }
    if v.bad ≠ 0 ∧ v.bad ≠ 21 then s1
    else
      let s2 := s1.each (s1.parisons b d) fun s x => s.markTx x reason
      let s3 := s2.tellXfer b d fun x => { x with bad := reason }
      s3.discardFrame b d fun s u =>
        let s1 := s.coreCount u Reg.CORE.BAD_DISCARD
        if reason = 16 then s1.bump (pgBuf b) Reg.BUF.ECC_DROP else s1

end Sys2Proof.Machine
end

