-- ==== Sys2Proof/Machine/Tx.lean ====
section
/-! DEFINITION. Selection and transmission (R326 to R336, R139, R383 to R386, R290 to R292, R96). -/

namespace Sys2Proof.Machine

/-! ### Eligibility (R328) -/

/-- The oldest copy of HEAD of a class. -/
def State.headCopy (s : State) (p c : Nat) : Option Copy := (s.queueAt (portQueue p c)).head.head?

/-- A copy may begin as far as its frame goes: cut through with its window stored, or wholly received, its tag passed. -/
def State.copyReady (s : State) (c : Copy) : Bool :=
  match s.descAt c.bench c.desc with
  | some d => c.ct || (d.done && !d.tagWait)
  | none => false

/-- A copy that begins now ends in its window (conditions 4 and 5, but for the MAC hold). -/
def State.fitsWindow (s : State) (p : Nat) (c : Copy) : Bool :=
  match s.windowEnd p c.cls s.time.now with
  | some e => decide (s.time.now + s.startTime p c + s.guard p ≤ e)
  | none => true

/-- Conditions 1 to 3 of R328 for a head copy that has not begun. -/
def State.offered (s : State) (p c : Nat) : Option Copy :=
  match s.headCopy p c with
  | some h => if s.portUp p && s.sagReady p && !h.begun && s.copyReady h && s.gateOpen p c then some h else none
  | none => none

/-- A class is eligible now. -/
def State.eligible (s : State) (p c : Nat) : Bool :=
  match s.offered p c with
  | some h => s.fitsWindow p h && !(s.preemptable p c && (s.schedAt p).hold)
  | none => false

/-- An express class is eligible. -/
def State.expressReady (s : State) (p : Nat) : Bool :=
  (List.range 8).any fun c => s.eligible p c && !s.preemptable p c

/-- Position of a class (R334): its number, or the highest member's of the WFQ group. -/
def State.position (s : State) (p c : Nat) : Nat :=
  if s.wfq p c then ((List.range 8).filter (s.wfq p)).foldl max 0 else c

/-- Class `a` is chosen before class `b` (R334, R336). -/
def State.before (s : State) (p a b : Nat) : Bool :=
  let ea := !s.preemptable p a
  let eb := !s.preemptable p b
  if s.txActive p && ea != eb then ea
  else if s.position p a ≠ s.position p b then decide (s.position p b < s.position p a)
  else
    let d := (s.finishTag p a + 2 ^ 32 - s.finishTag p b) % 2 ^ 32
    if d = 0 then decide (b < a) else decide (2 ^ 31 ≤ d)

/-- The class a port selects. -/
def State.selects (s : State) (p : Nat) : Option Nat :=
  ((List.range 8).filter (s.eligible p)).foldl (fun best c => match best with
    | none => some c
    | some b => if s.before p c b then some c else some b) none

/-! ### Preemption (R330) -/

/-- The length on the wire of a transmission, FCS included; none while unknown. -/
def State.txLen (s : State) (t : TxSt) : Option Nat :=
  (s.editedLen t.copy).map fun l => l + (match t.sec with
    | some x => scGrowth x.ent
    | none => 0)

/-- The first point at which a transmission with `sent` bytes of its frame gone may be cut: its running fragment has the least
length (R330). -/
def State.cutPoint (s : State) (p : Nat) (t : TxSt) (sent : Nat) : Nat := max sent (t.gone + (s.minFrag p - 24))

/-- A transmission with `sent` bytes gone can be preempted: it began preemptable, and at least 64 bytes remain at the first
permitted point. -/
def State.canPreempt (s : State) (p : Nat) (t : TxSt) (sent : Nat) : Bool :=
  t.smd.isSome && (match s.txLen t with
    | some l => decide (s.cutPoint p t sent + 64 ≤ l)
    | none => true)

/-- The preemptable copy in transmission is preempted: its remainder waits. -/
def State.preempt (s : State) (p sent : Nat) : State :=
  match s.txAt p with
  | some t => ((s.putTx (512 + p) (some { t with gone := s.cutPoint p t sent })).putTx p none).schedCount p Reg.SCHED.PREEMPTIONS
  | none => s

/-- Preempt the copy in transmission when the point permits. -/
def State.preemptIf (s : State) (p sent : Nat) : State :=
  match s.txAt p with
  | some t => if s.canPreempt p t sent then s.preempt p sent else s
  | none => s

/-! ### The begin of a copy -/

/-- A copy at the head of its class is discarded before it begins; `note` counts it. -/
def State.dropHead (s : State) (p c : Nat) (note : State → State) : State :=
  match s.headCopy p c with
  | some h => ((note ((s.popHead (portQueue p c)).culled h))).settleUnit (portBench p) h.bench h.desc
  | none => s

/-- An egress capture enters its bench's FIFO, or is lost (R68). -/
def State.capture (s : State) (p tag t : Nat) : State :=
  let b := portBench p
  if (s.tickAt b).ets.length < 64 then
    (s.onTick b fun h => { h with ets := h.ets ++ [(p, tag, t)] }).ifDo (s.tickAt b).ets.isEmpty fun s => s.raise pgTime 5
  else (s.bump pgTime (Reg.TIME.ETS_LOST b)).raise pgTime 6

/-- A copy of a frame has begun (R308): its descriptor keeps it, and the transfer that still brings the frame. -/
def State.noteBegun (s : State) (h : Copy) : State :=
  (s.onDesc h.bench h.desc fun v => { v with begun := true }).each (s.bridge.map Prod.fst) fun s k =>
    if brBench k = h.bench then
      s.onBridge k fun r => { r with
        xfer := r.xfer.map fun x => if x.desc = some h.desc then { x with begun := true } else x }
    else s

/-- The copy begins: its first byte enters the transmit pipe (R328, R386, R68). -/
def State.beginCopy (s : State) (p : Nat) (h : Copy) (sec : Option Nat) : State :=
  let k := portQueue p h.cls
  let (prot, s1) := match sec with
    | none => (none, s)
    | some n =>
      let c := ciphOf p
      let e := s.scEntry c (n % 1024)
      let sa := s.saWork c (4 * (n % 1024) + scEncAn e)
      let (pn, s1) := s.takePn c (portBench p) (n % 1024)
      (some { sc := n % 1024, ent := e, sa := sa, key := s.keySlot c (saKey sa), pn := pn : TxSec }, s1)
  let ts := s1.egressStamp p sec.isSome
  let s1 := s1.noteBegun h
  let no := (s1.schedAt p).frameNo
  let pre := s1.preemptable p h.cls
  let smd : Option Smd := if pre then some (.start (Fin.ofNat 4 no)) else none
  let s2 := (s1.ifDo pre fun s => s.onSched p fun x => { x with frameNo := (no + 1) % 4 }).putTx p
    (some { copy := h, cls := h.cls, sec := prot, ts := ts, smd := smd })
  let q := s2.queueAt k
  let s3 := s2.putQueue k { q with head := { h with begun := true } :: q.head.drop 1 }
  let s4 := (s3.classCount p h.cls Reg.SCHED.TX_CLASS).ifDo (s3.wfq p h.cls) fun s =>
    s.onSched p fun x => { x with v := s.finishTag p h.cls }
  if h.etsEn then s4.capture p h.etsTag ts else s4

/-- The head copy that was selected passes the editor and the cipher checks and begins, or is dropped (R141, R383,
R384). -/
def State.startCopy (s : State) (p : Nat) (h : Copy) : State :=
  let m := pgMarver (portBench p)
  let e := s.edited h (s.egressStamp p false)
  let s1 := ((s.addCtr m Reg.MARVER.EDIT_CONFLICT e.work.conflict).addCtr m Reg.MARVER.EDIT_BAD e.work.bad).ifDo
    (e.work.conflict + e.work.bad != 0) fun s => s.raise m 6
  let l := s.copyLen h
  if e.work.ttl then s1.dropHead p h.cls fun s => s.bump m Reg.MARVER.EDIT_TTL_DROP
  else if l ≠ 0 ∧ 9728 < e.length l then s1.dropHead p h.cls fun s => s.bump m Reg.MARVER.EDIT_LEN_DROP
  else
    let c := ciphOf p
    match s1.txPick p h (beAt e.body 12 2) with
    | .clear counted =>
      (s1.ifDo counted fun s => s.bump (pgCiph c) (Reg.CIPH.TX_UNPROT (ciphPort p))).beginCopy p h none
    | .noSc => s1.dropHead p h.cls fun s => s.bump (pgCiph c) (Reg.CIPH.TX_NO_SC (ciphPort p))
    | .mismatch =>
      s1.dropHead p h.cls fun s => s.bump (pgCiph c) (Reg.CIPH.TX_SC_MISMATCH (ciphPort p))
    | .sc n =>
      let i := n % 1024
      let sc := s1.scEntry c i
      let sa := s1.saWork c (4 * i + scEncAn sc)
      if !s1.txScOk p n then s1.dropHead p h.cls fun s => s.bump (pgCiph c) (Reg.CIPH.TX_SC_MISMATCH (ciphPort p))
      else if bit sa 126 then s1.dropHead p h.cls fun s => s.scCount c i 2
      else if !saValid sa then s1.dropHead p h.cls fun s => s.scCount c i 3
      else if l ≠ 0 ∧ 9728 < e.length l + scGrowth sc then s1.dropHead p h.cls fun s => s.scCount c i 4
      else s1.beginCopy p h (some n)

/-! ### TX_SELECT -/

/-- Express heads that a new oper list has left unable to fit are discarded (R327). -/
def State.dropUnfit (s : State) (p c : Nat) : Nat → State
  | 0 => s
  | n + 1 =>
    match s.headCopy p c with
    | some h =>
      if !h.begun && !s.preemptable p c && s.noWindow p h then
        (s.dropHead p c fun s => (s.classCount p c Reg.SCHED.WIN_DROP).raise (pgSched (portBench p)) 2).dropUnfit p c n
      else s
    | none => s

/-- An express head that cannot end in its window is held, and counted once (R329). -/
def State.holdHead (s : State) (p c : Nat) : State :=
  match s.offered p c with
  | some h =>
    if !s.preemptable p c && !s.fitsWindow p h && !h.held then
      let k := portQueue p c
      let q := s.queueAt k
      (s.putQueue k { q with head := { h with held := true } :: q.head.drop 1 }).classCount p c Reg.SCHED.WIN_HELD
    else s
  | none => s

/-- A remainder as it resumes: its next fragment begins with SMD-C and the next fragment count (R90). -/
def TxSt.resumed (t : TxSt) : TxSt :=
  { t with smd := match t.smd with
      | some (.start n) => some (.cont n 0)
      | some (.cont n c) => some (.cont n (c + 1))
      | x => x }

/-- The waiting remainder may resume (R328, R330): the port is UP and its gate open. -/
def State.resumes (s : State) (p : Nat) : Bool :=
  match s.txAt (512 + p) with
  | some t => s.portUp p && s.gateOpen p t.cls
  | none => false

/-- The selection of a port whose MAC can begin a frame or fragment. -/
def State.selectNow (s : State) (p : Nat) : State :=
  let s := s.each (List.range 8) fun s c => (s.dropUnfit p c (s.queueAt (portQueue p c)).head.length).holdHead p c
  let pick := s.selects p
  let express := match pick with
    | some c => !s.preemptable p c
    | none => false
  if s.resumes p && !express then (s.putTx p ((s.txAt (512 + p)).map TxSt.resumed)).putTx (512 + p) none
  else match pick with
    | none => s
    | some c =>
      if s.preemptable p c && (s.txAt (512 + p)).isSome then s
      else match s.headCopy p c with
        | some h => s.startCopy p h
        | none => s

/-- The MAC answers a verify request when it is free (R90). -/
def State.answerVerify (s : State) (p : Nat) : State :=
  if (s.linkAt p).owes && s.portUp p then s.onLink p fun k => { k with owes := false } else s

/-- TX_SELECT: the port selects an eligible class; `sent` bytes of a copy still in transmission have gone, which is
preempted when an express class is eligible, and while the MAC is held (R330, R331). -/
def txSelect (p : PortId) (sent : Nat) (s : State) : State :=
  let s0 := s.sagSeen p
  let s1 := if s0.expressReady p || (s0.schedAt p).hold then s0.preemptIf p sent else s0
  if (s1.txAt p).isNone && s1.txPath p then (s1.answerVerify p).selectNow p else s1
def execTxSelect (p : PortId) (sent : Nat) (s : State) : Host.Outcome State Fault Refusal := finish (txSelect p sent s)

/-! ### The end of a transmission -/

/-- The FCS complemented (R290). -/
def badFcs (l : List Byte) : List Byte := natLE 4 (crc32 l ^^^ 0xFFFFFFFF)

/-- The bytes a transmission puts on the wire, destination address through FCS; `cut` the bytes stored when it was
marked. -/
def State.wireBytes (s : State) (p : Nat) (t : TxSt) : List Byte :=
  let c := t.copy
  let f := s.frameBytes c.bench c.desc
  let l := s.copyLen c
  let body0 := match t.marked with
    | some (_, n) => f.take n
    | none => f.take (l - 4)
  let smac := s.fld (pgMarver (portBench p)) (Reg.MARVER.SMAC_HI (portLocal p)) * 2 ^ 32 +
    s.fld (pgMarver (portBench p)) (Reg.MARVER.SMAC_LO (portLocal p))
  let d := (s.descAt c.bench c.desc).getD {}
  let e := editCopy body0 body0.length smac c (decide (511 < d.port)) d.ts t.ts
  let short := decide (e.body.length < 60)
  let body := padBody e.body
  let prot := match t.sec with
    | some x => protect x.ent x.sa x.key.salt x.pn (natBE (if x.key.len = 0 then 16 else 32) x.key.key) body (!c.ct)
    | none => body
  if t.marked.isSome then prot ++ badFcs prot
  else if e.fresh || short || t.sec.isSome || l < f.length then prot ++ fcsBytes prot
  else prot ++ (f.drop (l - 4)).take 4

/-- The transmission at a port ends: it is counted, and its copy leaves its queue. -/
def State.endTx (s : State) (p : Nat) (t : TxSt) : State :=
  let b := portBench p
  let w := s.wireBytes p t
  let s1 := ((s.portCount p Reg.PORT.TX_FRAMES).portCount p Reg.PORT.TX_OCTETS w.length).onSched p fun h => { h with wire := w }
  let s1 := s1.ifDo (s.nearLoop p) fun s => s.onLink p fun k => { k with looped := k.looped ++ [w] }
  let s2 := match t.marked with
    | some (r, _) => (((s1.portCount p Reg.PORT.TX_MARKED).coreCount b (0x300 + 8 * r)).raise (pgCore b) 6)
    | none => s1
  let s3 := match t.sec with
    | some x => (s2.scCount (ciphOf p) x.sc 0).scCount (ciphOf p) x.sc 1 (w.length - 16 - scGrowth x.ent)
    | none => s2
  let s4 := s3.forwarded (benchTeam b) w.length
  ((s4.putTx p none).popHead (portQueue p t.cls)).settleUnit b t.copy.bench t.copy.desc

/-- A frame in transmission, or a remainder, is lost with the transmit path (R96). -/
def State.truncTx (s : State) (p x : Nat) : State :=
  match s.txAt x with
  | some t =>
    let s1 := (s.putTx x none).portCount p Reg.PORT.TX_LINK_TRUNC
    ((s1.popHead (portQueue p t.cls)).culled t.copy).settleUnit (portBench p) t.copy.bench t.copy.desc
  | none => s

/-- The transmit path of a port is lost (R96). -/
def State.pathLost (s : State) (p : Nat) : State := (s.truncTx p p).truncTx p (512 + p)

/-- FRAME_TRANSMIT_END: the last byte leaves the MAC; the frame has been wholly received, or it is marked. -/
def frameTransmitEnd (p : PortId) (s : State) : State :=
  match s.txAt p with
  | none => s
  | some t =>
    if !s.txPath p then s.pathLost p
    else if t.marked.isSome || s.copyReady { t.copy with ct := false } ||
        ((s.descAt t.copy.bench t.copy.desc).map fun d => d.done).getD false then s.endTx p t
    else s
def execFrameTransmitEnd (p : PortId) (s : State) : Host.Outcome State Fault Refusal := finish (frameTransmitEnd p s)

/-- TX_UNDERRUN: a byte the MAC needs is not stored; the parison ends at once (R292). -/
def txUnderrun (p : PortId) (s : State) : State :=
  match s.txAt p with
  | none => s
  | some t =>
    if t.marked.isSome || ((s.descAt t.copy.bench t.copy.desc).map fun d => d.done).getD true then s
    else
      let s1 := (s.markTx p 20).raise (pgCore (portBench p)) 5
      match s1.txAt p with
      | some t => s1.endTx p t
      | none => s1
def execTxUnderrun (p : PortId) (s : State) : Host.Outcome State Fault Refusal := finish (txUnderrun p s)

/-! ### Gate events at the MAC (R319, R330, R331, R333) -/

/-- The MAC hold is asserted: a preemptable copy in transmission is preempted (R331). -/
def State.holdMac (s : State) (p sent : Nat) : State :=
  if (s.schedAt p).hold then s
  else ((s.onSched p fun h => { h with hold := true }).schedCount p Reg.SCHED.HOLD_REQS).preemptIf p sent

/-- The gates of a port may have changed: where the gate of the copy in transmission has closed, the copy is preempted, or
counted once for the close if it completes (R330, R333). -/
def State.gateShut (s : State) (p sent : Nat) : State :=
  match s.txAt p with
  | some t =>
    if s.gateOpen p t.cls then s.putTx p (some { t with shut := false })
    else if t.shut then s
    else if s.canPreempt p t sent then s.preempt p sent
    else ((s.putTx p (some { t with shut := true })).schedCount p Reg.SCHED.GATE_OVERRUN).raise (pgSched (portBench p)) 0
  | none => s

/-- The same where no event says how far the transmission is: the bytes gone are a free value (log 232). -/
def State.gateFollow (s : State) (p : Nat) : State :=
  if (s.txAt p).isSome then
    let (sent, s1) := s.free 14
    s1.gateShut p sent
  else s

/-- The entry in force at its beginning acts at the MAC. -/
def State.entryBegin (s : State) (p sent : Nat) : State :=
  let s1 := s.onGate p fun g => { g with seen := some s.time.now }
  let op : Nat := ((s1.segAt p s1.time.now).map fun g => g.op).getD 0
  let s2 := if s1.txActive p then
      if op = 1 then s1.holdMac p sent
      else if op = 2 then s1.onSched p fun h => { h with hold := false }
      else s1
    else s1
  s2.gateShut p sent

/-- The instant of the entry beginning to handle: now when the entry in force begins now and has not been seen, else the
next one. -/
def State.boundary (s : State) (p : Nat) : Option Nat :=
  let here := match s.segAt p s.time.now with
    | some g => decide (cycleOff (s.operBase p) (s.operCycle p) s.time.now = g.lo) && (s.gateAt p).seen != some s.time.now
    | none => false
  if here then some s.time.now else s.nextBegin p s.time.now fun _ => true

/-- GATE_ENTRY_BEGIN: an oper entry begins; `sent` bytes of a copy in transmission have gone. -/
def gateEntryBegin (p : PortId) (sent : Nat) (s : State) : State :=
  if s.gateMode p = 1 then
    match s.boundary p with
    | some t => (s.reach t).entryBegin p sent
    | none => s
  else s
def execGateEntryBegin (p : PortId) (sent : Nat) (s : State) : Host.Outcome State Fault Refusal :=
  finish (gateEntryBegin p sent s)

/-- The next Set-And-Hold-MAC entry of a port begins: of the oper list before a pending change completes, or of the pending
list from its CCT on (R323, R331). -/
def State.holdNext (s : State) (p : Nat) : Option Nat :=
  let oper := (if s.gateMode p = 1 then s.nextBegin p s.time.now fun g => g.op == 1 else none).filter fun e =>
    !s.gatePending p || decide (e < s.cct p)
  oper.or (if s.gatePending p && (s.gateMode p == 1 || s.gateMode p == 3) then
    ((s.pendSegs p).find? fun g => g.op == 1).map fun g => s.cct p + g.lo else none)

/-- HOLD_ASSERT: HOLD_ADV ns before a Set-And-Hold-MAC entry begins, hold is asserted (R331). -/
def holdAssert (p : PortId) (sent : Nat) (s : State) : State :=
  if s.txActive p ∧ !(s.schedAt p).hold then
    match s.holdNext p with
    | some e => (s.reach (e - s.gfld p Reg.GATE.HOLD_ADV)).holdMac p sent
    | none => s
  else s
def execHoldAssert (p : PortId) (sent : Nat) (s : State) : Host.Outcome State Fault Refusal := finish (holdAssert p sent s)

/-- CONFIG_CHANGE_REQUEST: a write of GCTRL with CONFIG_CHANGE = 1 for the port of the page's window. -/
def configChangeRequest (b : BenchId) (v : W32) (s : State) : State :=
  s.wordWrite (pgGate b) 0x044 (v ||| 0x40000000) fun s =>
    ((s.gctrlWrite (s.gatePort b) (v ||| 0x40000000)).sagPlanPort (s.gatePort b)).gateFollow (s.gatePort b)
def execConfigChangeRequest (b : BenchId) (v : W32) (s : State) : Host.Outcome State Fault Refusal :=
  finish (configChangeRequest b v s)

/-- CONFIG_CHANGE_COMPLETE: at CCT the banks of a port exchange roles and the new list runs. -/
def configChangeComplete (p : PortId) (s : State) : State :=
  if s.gatePending p && s.timeValid then
    (((s.reach (s.cct p)).changeComplete p).gateTrack p).sagPlanPort p
  else s
def execConfigChangeComplete (p : PortId) (s : State) : Host.Outcome State Fault Refusal :=
  finish (configChangeComplete p s)

end Sys2Proof.Machine
end

