-- ==== Sys2Proof/Machine/Handoff.lean ====
section
/-! DEFINITION. Hand-off, the bridge, mirror copies, the end of a frame's reception, and promotion from STAGE (R266 to
R272, R280, R294 to R297, R308, R310, R327, R332, R352). -/

namespace Sys2Proof.Machine

/-! ### FRER at egress (R346 to R353) -/

/-- FRER_OP of a copy (R349). -/
def frerOpOf (f : Frer) : Nat :=
  if f.push then (if f.fn = 1 ∨ f.fn = 3 ∨ f.tagged then 1 else 0) else if f.pop then 2 else 0

/-- A copy joins its queue at an egress bench, with the egress learn of R197 when it is the first to and LCFG.EG_LEARN is 1; the
learn is left for the next copy when it does not. -/
def State.enqueueLearn (s : State) (e : Nat) (c : Copy) (learn : Option (Nat × Nat × Nat)) :
    Option (Nat × Nat × Nat) × State :=
  let (ok, s1) := s.enqueue c
  match ok, learn with
  | true, some (dom, addr, port) =>
    let bad := ((s1.descAt c.bench c.desc).map fun d => d.bad != 0).getD false
    (none, s1.ifDo (s1.flag (pgFdb e) Reg.FDB.LCFG_EG_LEARN) fun s => s.onFdb e fun f => { f with
      reqs := f.reqs ++ [{ dom := dom, addr := addr, port := port, bench := c.bench, desc := c.desc, bad := bad }] })
  | _, l => (l, s1)

/-- Recovery decides a copy whose frame has been received without error (R352, R353), with the errors that its entries' reads
find (R356). The caller settles the bench's holder. -/
def State.recoverCopy (s : State) (e : Nat) (r : Copy × Frer × Option (Nat × Nat × Nat)) (err : SeqErr) : State :=
  let (c, f, learn) := r
  let t := benchTeam e
  if f.fn = 3 ∧ !s.seqUsable t (f.seqIdx + 1) false then
    (s.seqInvalid e).culled c
  else
    let (pass, s1) := (s.seqCorrected e err.recCe).seqRecover e f.seqIdx f.seq f.tagged err.recUe
    if !pass then s1.culled c
    else
      let (n, s2) := if f.fn = 3 then (s1.seqCorrected e err.genCe).seqGenerate e (f.seqIdx + 1) err.genUe else (some c.seq, s1)
      match n with
      | none => s2.culled c
      | some n => (s2.enqueueLearn e { c with seq := n } learn).2

/-! ### Hand-off (R266) -/

/-- The peer team of a team is marked down (R25). -/
def State.peerDown (s : State) (t : Nat) : Bool := s.flag (pgCore (4 * t)) Reg.CORE.BR_STAT_PEER_DOWN

/-- BRDROP's index of a port of the other team (R298). -/
def peerIndex (p : Nat) : Nat := if p < 384 then p % 192 else 192 + (p - 384) % 64

/-- Copies bound for a team marked down are counted by egress port (R25). -/
def State.countDown (s : State) (t : Nat) (r : HandRec) : State :=
  r.copies.foldl (fun s c => (s.bump (pgCore (4 * t)) Reg.CORE.BRDROP (peerIndex c.port)).culled c) s

/-- A record enters the send FIFO of a receiving bench of the other team, or is dropped (R269). -/
def State.toBridge (s : State) (t e : Nat) (r : HandRec) : State :=
  let k := t * 4 + e % 4
  if s.peerDown t then s.countDown t r
  else if 4096 ≤ (s.bridgeAt k).fifo.length then (r.copies.foldl State.culled s).bump (pgCore (4 * t)) Reg.CORE.BR_TX_FULL
  else (s.addHold r.bench r.desc).onBridge k fun x => { x with fifo := x.fifo ++ [r] }

/-- A record reaches the switch core for an egress bench: of the team's, or across the bridge (R266). -/
def State.toBench (s : State) (b e : Nat) (r : HandRec) : State :=
  if benchTeam b = benchTeam e then
    (s.addHold r.bench r.desc).onCore e fun h => { h with inbox := h.inbox ++ [(b % 4, r)] }
  else s.toBridge (benchTeam b) e r

/-- A copy bound for a CPU ring: it enters its CPU queue, or waits for its frame's tag (R266, R382). -/
def State.toCpu (s : State) (c : Copy) : State :=
  let s1 := s.addHold c.bench c.desc
  if ((s.descAt c.bench c.desc).map fun d => d.tagWait).getD false then
    s1.onCore c.bench fun h => { h with cpuWait := h.cpuWait ++ [c] }
  else (s1.enqueue c).2.settleUnit (8 + c.bench) c.bench c.desc

/-- A frame's copies are handed to the core: one record for each egress bench, then CPU copies. -/
def State.handCopies (s : State) (r : HandRec) : State :=
  let s1 := s.each (List.range 8) fun s e =>
    let mine := r.copies.filter fun c => decide (c.port < 512) && portBench c.port == e
    if mine.isEmpty then s else s.toBench r.src e { r with copies := mine }
  s1.each (r.copies.filter fun c => decide (511 < c.port)) fun s c => s.toCpu c

/-! ### Mirror copies (R294 to R297) -/

/-- A MIRR word as a bench has committed it. -/
def State.mirrWord (s : State) (b off : Nat) : Nat := (Tab.get (fun _ => (0 : W32)) (s.mirrorAt b).mirr off).toNat
def State.session (s : State) (b i : Nat) : Nat := s.mirrWord b (0x040 + 4 * i)
/-- The selection byte of a port. -/
def State.mirrPort (s : State) (b p : Nat) : Nat := s.mirrWord b (0x100 + 4 * (p / 4)) / 256 ^ (p % 4) % 256
/-- The session that a port's ingress selects, and that its egress selects. -/
def State.ingSession (s : State) (b p : Nat) : List Nat :=
  let v := s.mirrPort b p
  if p < 512 && bit v 7 then [bits v 6 4] else []
def State.egSession (s : State) (b p : Nat) : List Nat :=
  let v := s.mirrPort b p
  if p < 512 && bit v 3 then [bits v 2 0] else []

/-- One mirror copy of a frame of an admission tick for a session (R295, R296): requester slot 66 asks for its descriptor. `ip`
says where the frame's IP header is, which WRED asks for (R286). -/
def State.mirrorOne (s : State) (b d tick : Nat) (ip : Copy) (i : Nat) : State :=
  let w := s.session b i
  match s.descAt b d with
  | none => s
  | some v =>
    if !bit w 31 then s
    else
      let trunc := min 152 (bits w 15 8)
      let m : Desc := { head := v.head, len := v.len, owner := 514, holders := 1, mir := true, ts := v.ts,
                        port := v.port, done := v.done, bad := v.bad, noCt := v.noCt, tagWait := v.tagWait, secured := v.secured,
                        cap := 64 * trunc, shut := v.shut }
      match s.allocNow b 66 514 none (.mirror m) with
      | (.granted n _, s1) =>
        let s2 := s1.onBuf b fun u =>
          (s1.chainOf b m).foldl (fun u g => u.setHdr g { u.hdr g with refcnt := (u.hdr g).refcnt + 1 }) u
        let cpu := bit w 30
        let c : Copy := { ip with port := if cpu then 512 + bits w 19 16 else bits w 24 16,
                                  cls := bits w 29 27, mir := true, trunc := trunc, bench := b, desc := n }
        let s3 := s2.bump (pgCore b) (Reg.CORE.MIR_COPIES i)
        (s3.handCopies { bench := b, desc := n, src := b, tick := tick, copies := [c] }).relHold b n 67
      | (_, s1) => (s1.bump (pgCore b) (Reg.CORE.MIR_NOBUF i)).raise (pgCore b) 7

/-- The mirror copies of a frame for the sessions that select it, one at most for each. -/
def State.mirrorAll (s : State) (b d tick : Nat) (ip : Copy) (sessions : List Nat) : State :=
  s.each ((List.range 8).filter fun i => sessions.contains i) fun s i => s.mirrorOne b d tick ip i

/-- Frames that share a frame's chain: the frame and its mirror copies. -/
def State.sharers (s : State) (b d : Nat) : List Nat :=
  match s.descAt b d with
  | some v => ((s.bufAt b).descs.filter fun e => match e.2 with
      | some m => e.1 != d && m.mir && m.head == v.head
      | none => false).map Prod.fst
  | none => []

/-! ### HANDOFF_ACCEPT (R267) -/

/-- An egress bench takes a record: it makes all its copies. -/
def State.accept (s : State) (e : Nat) (r : HandRec) (err : SeqErr) : State :=
  let done := ((s.descAt r.bench r.desc).map fun d => d.done && d.bad == 0 && !d.tagWait).getD false
  let learn := if r.src = e then none else r.learn
  let s1 :=
    if 2 ≤ r.frer.fn then
      s.each r.copies fun s c =>
        if done then s.recoverCopy e (c, r.frer, learn) err
        else if ((s.descAt r.bench r.desc).map fun d => d.bad != 0).getD true then (s.enqueue c).2
        else s.onCore e fun h => { h with recov := h.recov ++ [(c, r.frer, learn)] }
    else (r.copies.foldl (fun (x : Option (Nat × Nat × Nat) × State) c => x.2.enqueueLearn e c x.1) (learn, s)).2
  s1

/-- HANDOFF_ACCEPT: the egress bench accepts the oldest waiting record of a source; `err` the errors that sequence recovery
finds. -/
def handoffAccept (b : BenchId) (src : Fin 5) (err : SeqErr) (s : State) : State :=
  match (s.coreAt b).inbox.find? fun r => r.1 == src.val with
  | none => s
  | some r =>
    let s1 := s.onCore b fun h => { h with inbox := h.inbox.erase r }
    (s1.accept b r.2 err).settleUnit b r.2.bench r.2.desc
def execHandoffAccept (b : BenchId) (src : HandIn) (s : State) : Host.Outcome State Fault Refusal :=
  finish (handoffAccept b src.src src.err s)

/-! ### The end of a frame's reception -/

/-- A begun copy proves too long: for its class (R332), or for the device (R141). -/
def State.lateLength (s : State) (x : Nat) : State :=
  match s.txAt x with
  | none => s
  | some t =>
    let p := t.copy.port
    let s1 := if s.overSdu p t.copy then (s.schedCount p Reg.SCHED.SDU_LATE).raise (pgSched (portBench p)) 1 else s
    match s.editedLen t.copy with
    | none => s1
    | some l =>
      let grow := (t.sec.map fun x => scGrowth x.ent).getD 0
      let s2 := if 9728 < l then (s1.bump (pgMarver (portBench p)) Reg.MARVER.EDIT_LEN_DROP).markTx x 19
        else if 9728 < l + grow then s1.markTx x 19 else s1
      match t.sec with
      | some y => if 9728 < l + grow then s2.scCount (ciphOf p) y.sc 4 else s2
      | none => s2

/-- The reception of a frame has ended: its copies are charged for its true length (R275). -/
def State.recharge (s : State) (b d : Nat) : State :=
  s.each (s.queue.map Prod.fst) fun s k =>
    let q := s.queueAt k
    if q.head.any (ofFrame b d) || q.stage.any (ofFrame b d) then
      let fix (c : Copy) : Copy := if ofFrame b d c then { c with cells := s.copyCells c } else c
      s.putQueue k { q with head := q.head.map fix, stage := q.stage.map fix }
    else s

/-- The length of a frame is known: its copies are charged for it and checked again (R275, R327, R332). -/
def State.lengthKnown (s : State) (b d : Nat) : State :=
  let s1 := s.recharge b d
  let s2 := s1.each (s1.queue.map Prod.fst) fun s k =>
    match keyPort k with
    | none => s
    | some p =>
      let tooLong (s : State) (c : Copy) : Bool := ofFrame b d c && !c.begun && s.overSdu p c
      let s1 := s.discardCopies k (fun c => !tooLong s c) fun s c => s.classCount p c.cls Reg.SCHED.SDU_DROP
      let unfit (s : State) (c : Copy) : Bool := ofFrame b d c && !c.begun && s.noWindow p c
      s1.discardCopies k (fun c => !unfit s1 c) fun s c =>
        (s.classCount p c.cls Reg.SCHED.WIN_DROP).raise (pgSched (portBench p)) 2
  s2.each (s2.parisons b d) State.lateLength

/-- Copies of a frame that wait for recovery are decided (R352). -/
def State.recoverFrame (s : State) (b d : Nat) (err : SeqErr) : State :=
  s.each (List.range 8) fun s e =>
    let mine := (s.coreAt e).recov.filter fun r => ofFrame b d r.1
    if mine.isEmpty then s
    else
      let s1 := s.onCore e fun h => { h with recov := h.recov.filter fun r => !ofFrame b d r.1 }
      (s1.each mine fun s r => s.recoverCopy e r err).settleUnit e b d

/-- CPU copies of a frame whose tag has passed enter their queues (R382). -/
def State.releaseCpu (s : State) (b d : Nat) : State :=
  let mine := (s.coreAt b).cpuWait.filter (ofFrame b d)
  if mine.isEmpty then s
  else
    let s1 := s.onCore b fun h => { h with cpuWait := h.cpuWait.filter fun c => !ofFrame b d c }
    (s1.each mine fun s c => (s.enqueue c).2).settleUnit (8 + b) b d

/-- A frame too long for its filter (R308): copies not begun are discarded, and it is counted once. -/
def State.filterLate (s : State) (b d idx : Nat) (len : Nat) : State :=
  let f := s.filterWork (benchTeam b) idx
  if f.maxSdu ≠ 0 ∧ f.maxSdu < len then
    let far := s.bridge.any fun e => match e.2.xfer with
      | some x => x.hand.bench == b && x.hand.desc == d && x.begun
      | none => false
    let begun := ((s.descAt b d).map fun v => v.begun).getD false || far
    let s1 := s.filterSdu b idx
    let s2 := s1.bump (pgMeter b) (if begun then Reg.METER.FILT_SDU_LATE else Reg.METER.FILT_SDU_DROP)
    let s3 := (s2.tellXfer b d fun x => { x with sdu := true }).onDesc b d fun v => { v with bad := if v.bad = 0 then 21 else v.bad }
    s3.discardFrame b d fun s _ => s
  else s

/-- A frame's reception has ended without error, its tag result apart (R275, R308, R310, R352); `err` the errors that sequence
recovery finds. -/
def State.receptionGood (s : State) (b d len : Nat) (err : SeqErr) : State :=
  match s.descAt b d with
  | none => s
  | some v =>
    let s1 := s.each (d :: s.sharers b d) fun s i => s.onDesc b i fun v => { v with len := len, done := true }
    let s2 := match v.meter with
      | some m => if v.tagWait then s1 else (s1.meterReturn b m (some len)).onDesc b d fun v => { v with meter := none }
      | none => s1
    let s3 := match v.filter with
      | some i => if v.tagWait then s2 else s2.filterLate b d i len
      | none => s2
    let s4 := (d :: s.sharers b d).foldl (fun s i => s.lengthKnown b i) s3
    if v.tagWait then s4 else s4.recoverFrame b d err

/-- A frame's reception has ended with an error after `len` bytes, or its tag check has failed (R198, R275, R290, R310, R380).
A filter that waits for its length makes no test of it (the model's choice, log 229). -/
def State.receptionBad (s : State) (b d len reason : Nat) : State :=
  match s.descAt b d with
  | none => s
  | some v =>
    let all := d :: s.sharers b d
    let s1 := s.each all fun s i =>
      s.onDesc b i fun v => { v with len := len, done := true, tagWait := false, err := v.err || rxFault reason }
    let s2 := match v.meter with
      | some m => (s1.meterReturn b m none).onDesc b d fun v => { v with meter := none }
      | none => s1
    let s3 := s2.eachLearn fun r => if r.bench = b ∧ r.desc = d then { r with bad := r.bad || rxFault reason } else r
    (s3.each all fun s i => s.frameBad b i reason).each all fun s i => s.recharge b i

/-- A frame's tag has passed (R308, R310, R352, R382): what waited for it is done. -/
def State.tagPassed (s : State) (b d : Nat) (err : SeqErr) : State :=
  match s.descAt b d with
  | none => s
  | some v =>
    let all := d :: s.sharers b d
    let s1 := s.each all fun s i => s.onDesc b i fun v => { v with tagWait := false }
    let s2 := match v.meter with
      | some m => (s1.meterReturn b m (some v.len)).onDesc b d fun v => { v with meter := none }
      | none => s1
    let s3 := match v.filter with
      | some i => s2.filterLate b d i v.len
      | none => s2
    (s3.recoverFrame b d err).each all fun s i => s.releaseCpu b i

/-! ### The bridge (R25, R269 to R272) -/

/-- The bridge key of a sending team's FIFO. -/
def brKey (t : Team) (k : Fin 4) : Nat := teamNo t * 4 + k

/-- Bytes of the head record stored at the sending side. -/
def State.brStored (s : State) (r : HandRec) : Nat := s.storedLen r.bench r.desc

/-- The sending side is done with its head frame. -/
def State.brNext (s : State) (k : Nat) (r : HandRec) : State :=
  (s.onBridge k fun x => { x with fifo := x.fifo.drop 1, sent := 0, xfer := none }).relHold r.bench r.desc 69

/-- A head frame wholly sent to a team that has failed leaves its FIFO: nothing there receives it (R359). -/
def State.brLost (s : State) (k : Nat) (r : HandRec) : State :=
  (s.bump (pgCore (4 * (k / 4))) Reg.CORE.BR_TX_FRAMES).brNext k r

/-- BRIDGE_SEND: the head frame's next 256 bytes, or the rest of a frame wholly received, go on a credit. -/
def bridgeSend (t : Team) (k : Fin 4) (s : State) : State :=
  let key := brKey t k
  let x := s.bridgeAt key
  match x.fifo with
  | [] => s
  | r :: _ =>
    let n := s.brStored r - x.sent
    let done := ((s.descAt r.bench r.desc).map fun d => d.done && !d.tagWait).getD false
    let lost := done && (s.teamAt (1 - teamNo t)).failed
    if (s.teamAt (teamNo t)).failed then s
    else if n = 0 then (if lost then s.brLost key r else s)
    else if x.cred = 0 ∨ (n < 256 ∧ !((s.descAt r.bench r.desc).map fun d => d.done).getD false) then s
    else
      let s1 := s.onBridge key fun x => { x with sent := x.sent + min 256 n, cred := x.cred - 1 }
      if lost && decide (n ≤ 256) then s1.brLost key r else s1
def execBridgeSend (t : Team) (k : Fin 4) (s : State) : Host.Outcome State Fault Refusal := finish (bridgeSend t k s)

/-- Sends and records of a team's FIFOs dropped at the mark. -/
def State.dropFifos (s : State) (t : Nat) : State :=
  s.each (List.range 4) fun s i =>
    let k := t * 4 + i
    let f := (s.bridgeAt k).fifo
    let s1 := s.onBridge k fun x => { x with fifo := [], sent := 0 }
    s1.each f fun s r => (s.countDown t r).relHold r.bench r.desc 69

/-- A frame waits in a send FIFO without the credit it needs (R25): one behind the head, or the head with bytes to send. -/
def State.brStalled (s : State) (k : Nat) : Bool :=
  let x := s.bridgeAt k
  x.cred == 0 && (match x.fifo with
    | [] => false
    | r :: rest => !rest.isEmpty || decide (x.sent < s.brStored r))

/-- PEER_MARK_DOWN: a stall timer reaches 10,752 clocks (R25). -/
def peerMarkDown (t : Team) (k : Fin 4) (s : State) : State :=
  let n := teamNo t
  if !s.brStalled (brKey t k) then s
  else
    let s1 := s.onBridge (brKey t k) fun x => { x with expired := true }
    if s.peerDown n then s1
    else
      let s2 := (s1.setFld (pgCore (4 * n)) Reg.CORE.BR_STAT_PEER_DOWN 1).bump (pgCore (4 * n)) Reg.CORE.BR_DOWN_EVENTS
      (s2.raise (pgCore (4 * n)) 2).dropFifos n
def execPeerMarkDown (t : Team) (k : Fin 4) (s : State) : Host.Outcome State Fault Refusal := finish (peerMarkDown t k s)

/-- BRIDGE_RECEIVE_BEGIN: the head frame's transfer begins, and the receiving side requests a descriptor and buffer as
slot 67. -/
def bridgeReceiveBegin (t : Team) (k : Fin 4) (s : State) : State :=
  let x := s.bridgeAt (brKey t k)
  match x.fifo, x.xfer with
  | r :: _, none =>
    match s.descAt r.bench r.desc with
    | some d =>
      if x.sent = 0 ∨ (s.teamAt (1 - teamNo t)).failed then s
      else
        let s1 := s.onBridge (brKey t k) fun x => { x with xfer := some { hand := r, owner := d.owner } }
        s1.request (brBench (brKey t k)) 67 d.owner (if d.done then some d.len else none) (.bridge (teamNo t) k)
    | none => s
  | _, _ => s
def execBridgeReceiveBegin (t : Team) (k : Fin 4) (s : State) : Host.Outcome State Fault Refusal :=
  finish (bridgeReceiveBegin t k s)

/-- The owner that a chain's extension is charged to: the frame's, when only a mirror copy of it is left. -/
def Desc.payer (v : Desc) : Nat := if v.mir then (if v.port < 512 then v.port else 512) else v.owner

/-- The requester slot that extends a frame's chain (R249): its port's, or the bridge's. -/
def Desc.asker (v : Desc) (b : Nat) : Nat := if v.port < 512 ∧ portBench v.port = b then portLocal v.port else 67

/-- The holders of a buffer among a frame and those that share its chain. -/
def State.chainRefs (s : State) (b d g : Nat) : Nat :=
  1 + ((s.sharers b d).filter fun i => ((s.descAt b i).map fun m => (s.chainOf b m).contains g).getD false).length

/-- Extend a chain by one buffer (R237): false where it is refused. -/
def State.extend (s : State) (b d : Nat) (v : Desc) : Bool × State :=
  match s.allocNow b (v.asker b) v.payer none .chain with
  | (.granted _ (g :: _), s1) =>
    let s2 := s1.linkChain b (s1.chainOf b v ++ [g])
    (true, s2.onBuf b fun u => u.setHdr g { u.hdr g with refcnt := s2.chainRefs b d g })
  | (_, s1) => (false, s1)

/-- Bytes a chain can hold. -/
def State.chainRoom (s : State) (b : Nat) (chain : List Nat) : Nat :=
  (chain.map fun g => s.poolSize b ((s.bufAt b).hdr g).pool * 64).sum

/-- What becomes of a frame's bytes at a store (R237): all are stored; a chain extension is refused, and the rest is discarded;
or one was refused before, and nothing more is stored. -/
inductive Fit where
  | stored | cut | shut
  deriving DecidableEq, Repr

/-- Buffers that a frame can need: 9,728 bytes in buffers of 64, and the extension beyond the last. -/
def mostBuffers : Nat := 160

/-- A frame in reception stores its bytes so far; while its length is unknown its chain is extended before a byte is stored
in the last 128 bytes of its free space (R237). Once an extension is refused, no later byte is stored. -/
def State.storeFrame (s : State) (b d : Nat) (bytes : List Byte) : Nat → Fit × State
  | 0 => (.stored, s)
  | n + 1 =>
    match s.descAt b d with
    | none => (.stored, s)
    | some v =>
      let chain := s.chainOf b v
      let room := s.chainRoom b chain
      if v.shut then (.shut, s)
      else if v.len = 0 ∧ room < bytes.length + 128 ∧ (v.cap = 0 ∨ room < v.cap) then
        match s.extend b d v with
        | (true, s1) => s1.storeFrame b d bytes n
        | (false, s1) =>
          (.cut, (s1.storeChain b chain (bytes.take (room - 128))).each (d :: s1.sharers b d) fun s i =>
            s.onDesc b i fun v => { v with shut := true })
      else (.stored, s.storeChain b chain bytes)

/-- A store's refusal is counted, and the frame is bad from there (R237). -/
def State.storeCut (s : State) (b d : Nat) (fit : Fit) : State :=
  if fit = .cut then (s.bump (pgBuf b) Reg.BUF.TRUNC_NOBUF).frameBad b d 15 else s

/-- Buffers of a chain without a byte are released at the end of reception (R237), by the frame and by each that shares its
chain. -/
def State.trimChain (s : State) (b d : Nat) : State :=
  match s.descAt b d with
  | none => s
  | some v =>
    let chain := s.chainOf b v
    let used := chain.filter fun g => ((s.bufAt b).hdr g).len != 0
    let spare := (chain.filter fun g => ((s.bufAt b).hdr g).len == 0).map fun g => (g, s.chainRefs b d g)
    if used.isEmpty || spare.isEmpty then s
    else (s.linkChain b used).each spare fun s x => (List.range x.2).foldl (fun s _ => s.relBuf b x.1 (v.asker b)) s

/-- The receiving bench's record of a transfer's frame (R271). -/
def State.handXfer (s : State) (k d : Nat) (x : Xfer) : State :=
  let e := brBench k
  let r := { x.hand with bench := e, desc := d, copies := x.hand.copies.map fun c => { c with bench := e, desc := d } }
  (s.onCore e fun h => { h with inbox := h.inbox ++ [(4, r)] }).onBridge k fun y =>
    { y with xfer := y.xfer.map fun x => { x with handed := true } }

/-- The receiving side stores the first `n` bytes of a transfer's frame, and hands the frame over once 256 are there. -/
def State.xferStore (s : State) (k n : Nat) (whole : Bool) : State :=
  match (s.bridgeAt k).xfer with
  | none => s
  | some x =>
    match x.desc with
    | none => s
    | some d =>
      let e := brBench k
      let bytes := (s.frameBytes x.hand.bench x.hand.desc).take n
      let (fit, s1) := s.storeFrame e d bytes mostBuffers
      let s2 := s1.storeCut e d fit
      let s3 := s2.onBridge k fun y => { y with xfer := y.xfer.map fun x => { x with bytes := n } }
      if !x.handed && (decide (256 ≤ n) || whole) then s3.handXfer k d x else s3

/-- Credits of a receiving bench come back, `c` now held (R25, R270): its stall timer restarts, and the mark is cleared once
every receiving bench whose timer expired has granted a credit. -/
def State.creditBack (s : State) (k c : Nat) : State :=
  let n := k / 4
  let s1 := s.onBridge k fun x => { x with cred := c, expired := false }
  if s1.peerDown n && (List.range 4).all fun i => !(s1.bridgeAt (n * 4 + i)).expired then
    (s1.setFld (pgCore (4 * n)) Reg.CORE.BR_STAT_PEER_DOWN 0).raise (pgCore (4 * n)) 3
  else s1

/-- Every byte of a transfer has left the bridge buffer: all its credits are back (R270). -/
def State.creditAll (s : State) (k : Nat) : State := if (s.bridgeAt k).cred < 128 then s.creditBack k 128 else s

/-- BRIDGE_CREDIT: 256 bytes leave the bridge buffer, written into the receiving bench's buffers or discarded. -/
def bridgeCredit (t : Team) (k : Fin 4) (s : State) : State :=
  let key := brKey t k
  let x := s.bridgeAt key
  if 128 ≤ x.cred ∨ (s.teamAt (1 - teamNo t)).failed then s
  else
    let s1 := match x.xfer with
      | some y => if y.answered && !x.fifo.isEmpty then s.xferStore key (min x.sent (y.bytes + 256)) false else s
      | none => s
    s1.creditBack key (x.cred + 1)
def execBridgeCredit (t : Team) (k : Fin 4) (s : State) : Host.Outcome State Fault Refusal := finish (bridgeCredit t k s)

/-- A transfer has ended, its frame with a receive error or not: learn requests of a frame that every holder has released hear
of it (R198). -/
def State.xferOver (s : State) (k : Nat) (bad : Bool) : State :=
  s.eachLearn fun r => if r.bench = brBench k ∧ r.desc = xferPlace k then { r with desc := noPlace, bad := r.bad || bad } else r

/-- A transfer of `len` bytes has ended with its CRC right: what the sending side found of the frame holds here too (R308,
R332). -/
def State.xferGood (s : State) (e d len : Nat) (y : Xfer) (err : SeqErr) : State :=
  let shut := ((s.descAt e d).map fun v => v.shut).getD false
  if y.bad ≠ 0 then s.receptionBad e d len y.bad
  else if shut then s.receptionBad e d len 15
  else if y.sdu then
    let s1 := s.onDesc e d fun v => { v with bad := 21, done := true, len := len }
    (s1.discardFrame e d fun s _ => s).lengthKnown e d
  else s.receptionGood e d len err

/-- BRIDGE_RECEIVE_END: the transfer ends and its CRC-32C is checked: `ok` when it is right; `err` the errors that sequence
recovery finds. -/
def bridgeReceiveEnd (t : Team) (k : Fin 4) (ok : Bool) (err : SeqErr) (s : State) : State :=
  let key := brKey t k
  let e := brBench key
  let x := s.bridgeAt key
  match x.fifo, x.xfer with
  | r :: _, some y =>
    let src := s.descAt r.bench r.desc
    let done := (src.map fun d => d.done && !d.tagWait).getD true
    if !y.answered || !done || x.sent < s.brStored r || (s.teamAt (1 - teamNo t)).failed then s
    else
      let len := (src.map fun d => d.len).getD 0
      let far := pgCore (4 * (1 - teamNo t))
      let s1 := (s.bump (pgCore (4 * teamNo t)) Reg.CORE.BR_TX_FRAMES).bump far Reg.CORE.BR_RX_FRAMES
      let s2 := if ok then s1 else (s1.bump far Reg.CORE.BR_RX_CRC).raise far 4
      let s3 := s2.xferStore key (s.brStored r) true
      let s4 := match ((s3.bridgeAt key).xfer.bind fun z => z.desc) with
        | none => s3
        | some d =>
          let s4 := s3.trimChain e d
          if ok then s4.xferGood e d len y err else s4.receptionBad e d len 17
      ((s4.xferOver key (rxFault y.bad)).creditAll key).brNext key r
  | _, _ => s
def execBridgeReceiveEnd (t : Team) (k : Fin 4) (ok : Bool) (err : SeqErr) (s : State) : Host.Outcome State Fault Refusal :=
  finish (bridgeReceiveEnd t k ok err s)

/-- BRIDGE_ABANDON: a transfer has received no bytes for 2,688 clocks (R272): what it left in the bridge buffer is
discarded, and the copies that it was to bring, where they are not yet handed over, are discarded as not begun (R290). -/
def bridgeAbandon (t : Team) (k : Fin 4) (s : State) : State :=
  let key := brKey t k
  let e := brBench key
  let x := s.bridgeAt key
  match x.xfer with
  | none => s
  | some y =>
    let s1 := s.bump (pgCore (4 * (1 - teamNo t))) Reg.CORE.BR_RX_ABANDON
    let gone (s : State) : State := s.each y.hand.copies fun s _ => s.coreCount e Reg.CORE.BAD_DISCARD
    let s2 := match y.desc with
      | some d =>
        let s2 := (s1.trimChain e d).receptionBad e d y.bytes 17
        if y.handed then s2
        else ((gone s2).each y.hand.copies fun s c => s.culled { c with bench := e }).relHold e d 68
      | none => gone s1
    let s3 := (s2.xferOver key (rxFault y.bad)).creditAll key
    match x.fifo with
    | r :: _ => if r = y.hand then s3.brNext key r else s3.onBridge key fun x => { x with xfer := none }
    | [] => s3.onBridge key fun x => { x with xfer := none }
def execBridgeAbandon (t : Team) (k : Fin 4) (s : State) : Host.Outcome State Fault Refusal := finish (bridgeAbandon t k s)

/-! ### STAGE_PROMOTE (R280) -/

/-- STAGE_PROMOTE: with MID empty and HEAD below RETURN_LO, the oldest STAGE copy moves to HEAD. -/
def stagePromote (b : BenchId) (q : Fin 512) (s : State) : State :=
  let k := qkey b q
  let x := s.queueAt k
  match x.stage with
  | c :: rest =>
    if x.mid.isEmpty && decide (x.headCells < s.spillFld k Reg.CORE.RETURN_LO) then
      ((s.putQueue k { x with stage := rest }).pushHead k c).coreCount b Reg.CORE.STAGE_PROMOTE
    else s
  | [] => s
def execStagePromote (b : BenchId) (q : Fin 512) (s : State) : Host.Outcome State Fault Refusal := finish (stagePromote b q s)

end Sys2Proof.Machine
end

