-- ==== Sys2Proof/Machine/Hash.lean ====
section
/-! DEFINITION. The hash tables (R149 to R157): candidate positions, lookup, the insertion engine, deletion and the retry
of stash entries. -/

namespace Sys2Proof.Machine

/-- The hash tables of a bench: a rule-set bank, the route table, stream identification, and the MAC table. -/
inductive HKind where
  | bank (i : Nat)
  | route
  | sid
  | mac
  deriving DecidableEq, Repr

/-- Slots per way (R149, R188). -/
def HKind.per : HKind → Nat
  | .bank _ => 131072
  | .route | .mac => 65536
  | .sid => 524288

/-- A table's way seeds and slots per way. -/
structure HSpec where
  seeds : List Nat
  per : Nat
  deriving DecidableEq, Repr

/-- Whether the key of a table makes a wide entry (R151): a rule key of more than 24 bytes, an identification key of type 5. -/
def HKind.wideKey : HKind → List Byte → Bool
  | .bank _, key => decide (24 < (key.getD 1 0).toNat)
  | .sid, key => key.getD 0 0 == 5
  | _, _ => false

/-- Where SEED 0 of a table stands: page and offset, for bench `b` (R185, R223, R226). -/
def seedAt (b : Nat) : HKind → Nat × Nat
  | .bank i => (teamPage 0x0B (benchTeam b), 0x090 + 0x10 * i)
  | .route => (teamPage 0x0B (benchTeam b), 0x0B0)
  | .sid => (teamPage 0x0D (benchTeam b), 0x050)
  | .mac => (pgFdb b, 0x050)

/-- The table's seeds as they stand. -/
def State.hspec (s : State) (b : Nat) (k : HKind) : HSpec :=
  let (p, o) := seedAt b k
  { seeds := (List.range 4).map fun w => (s.rd p (o + 4 * w)).toNat, per := k.per }

def TabSt.hget (t : TabSt) : HKind → HTab
  | .bank i => if i = 0 then t.bank0 else t.bank1
  | .route => t.route
  | .sid => t.sid
  | .mac => t.mac
def TabSt.hput (t : TabSt) (k : HKind) (h : HTab) : TabSt :=
  match k with
  | .bank i => if i = 0 then { t with bank0 := h } else { t with bank1 := h }
  | .route => { t with route := h }
  | .sid => { t with sid := h }
  | .mac => { t with mac := h }

/-- The candidate index of a key in a way (R150). -/
def HSpec.index (sp : HSpec) (w : Nat) (key : List Byte) : Nat :=
  crcRaw (if w % 2 = 0 then polyC else polyE) (sp.seeds.getD w 0) key % sp.per

def HTab.slot (t : HTab) (i : Nat) : Option HEntry := Tab.get (fun _ => none) t.slots i
def HTab.setSlot (t : HTab) (i : Nat) (e : Option HEntry) : HTab := { t with slots := Tab.set (fun _ => none) t.slots i e }

/-- The slots that an entry would fill in a way: one, or the two of its pair (R151). -/
def HSpec.place (sp : HSpec) (w : Nat) (e : HEntry) : List Nat :=
  let i := sp.index w e.key
  if e.wide then [w * sp.per + i / 2 * 2, w * sp.per + i / 2 * 2 + 1] else [w * sp.per + i]

/-- The candidate placements of an entry, in way order. -/
def HSpec.places (sp : HSpec) (e : HEntry) : List (List Nat) := (List.range 4).map fun w => sp.place w e

/-- Where an entry stands: the slots it fills, or its place in the stash. -/
inductive HPos where
  | way (slots : List Nat)
  | stash (i : Nat)
  deriving DecidableEq, Repr

/-- The entry of a key (R152): its position and itself. -/
def HTab.find (t : HTab) (sp : HSpec) (key : List Byte) (wide : Bool) : Option (HPos × HEntry) :=
  let inWay := (sp.places { key := key, wide := wide }).findSome? fun l =>
    match l.head?.bind t.slot with
    | some e => if e.key = key then some (HPos.way l, e) else none
    | none => none
  match inWay with
  | some r => some r
  | none => (t.stash.findIdx? fun e => e.key == key).bind fun i => (t.stash[i]?).map fun e => (.stash i, e)

/-- Write an entry, or nothing, at a position. Where a stash entry leaves, the later ones close up, so their INDEX falls (R154;
DESIGN CHOICE, log 275). -/
def HTab.writeAt (t : HTab) (pos : HPos) (e : Option HEntry) : HTab :=
  match pos with
  | .way l => l.foldl (fun t i => t.setSlot i e) t
  | .stash i => match e with
    | some v => { t with stash := t.stash.set i v }
    | none => { t with stash := t.stash.eraseIdx i }

/-- Displacement paths of exactly `n + 1` moves that free a slot, in way order at each level (R153 step 3). A path is
the moves (from, to), the first freeing the slot itself. No move goes into a blocked slot; wide entries do not move. -/
def HTab.paths (t : HTab) (sp : HSpec) : Nat → List Nat → Nat → List (List (Nat × Nat))
  | n, blocked, i =>
    match t.slot i with
    | some e =>
      if e.wide then []
      else
        let cands := ((List.range 4).flatMap fun w => sp.place w e).filter fun c => c != i && !blocked.contains c
        match n with
        | 0 => (cands.filter fun c => (t.slot c).isNone).map fun c => [(i, c)]
        | n + 1 => (cands.filter fun c => (t.slot c).isSome).flatMap fun c =>
            (t.paths sp n (i :: blocked) c).map fun p => (i, c) :: p
    | none => []

/-- Carry out the moves of a path, the last first. -/
def HTab.move (t : HTab) (path : List (Nat × Nat)) : HTab :=
  path.reverse.foldl (fun t m => (t.setSlot m.2 (t.slot m.1)).setSlot m.1 none) t

/-- The slots that a path frees or fills. -/
def pathSlots (path : List (Nat × Nat)) : List Nat := path.flatMap fun m => [m.1, m.2]

/-- The ways to free the occupied slots of a placement with `total` moves in all: of two occupied slots (R153), the path of the
lower is taken first, the shortest first (DESIGN CHOICE, log 274). -/
def HTab.freeings (t : HTab) (sp : HSpec) (total : Nat) (l : List Nat) : List (List (List (Nat × Nat))) :=
  let wanted := l.filter fun i => (t.slot i).isSome
  match wanted with
  | [i] => (t.paths sp (total - 1) l i).map fun p => [p]
  | [i, j] => (List.range (total - 1)).flatMap fun a =>
      (t.paths sp a l i).flatMap fun p =>
        (t.paths sp (total - 2 - a) (l ++ pathSlots p) j).map fun q => [p, q]
  | _ => []

/-- What an insertion gives: its status (R185), moves, position and table. -/
structure Inserted where
  status : Nat
  moves : Nat := 0
  pos : Option HPos := none
  tab : HTab
  deriving DecidableEq, Repr

/-- Steps 2 and 3 of R153. -/
def HTab.placeIn (t : HTab) (sp : HSpec) (e : HEntry) : Option Inserted :=
  let places := sp.places e
  match places.find? fun l => l.all fun i => (t.slot i).isNone with
  | some l => some { status := 0, pos := some (.way l), tab := t.writeAt (.way l) (some e) }
  | none =>
    [1, 2, 3].findSome? fun total =>
      places.findSome? fun l =>
        (t.freeings sp total l).head?.map fun ps =>
          { status := 0, moves := total, pos := some (.way l),
            tab := (ps.foldl (fun t p => t.move p) t).writeAt (.way l) (some e) }

/-- Steps 2 to 5 of R153: a key that is not present. -/
def HTab.add (t : HTab) (sp : HSpec) (e : HEntry) : Inserted :=
  match t.placeIn sp e with
  | some r => r
  | none =>
    if t.stash.length < 64 then
      { status := 2, pos := some (.stash t.stash.length), tab := { t with stash := t.stash ++ [e] } }
    else { status := 7, tab := t }

/-- INSERT (R153). -/
def HTab.insert (t : HTab) (sp : HSpec) (e : HEntry) : Inserted :=
  match t.find sp e.key e.wide with
  | some (pos, _) => { status := 1, pos := some pos, tab := t.writeAt pos (some e) }
  | none => t.add sp e

/-- DELETE (R154). -/
def HTab.delete (t : HTab) (sp : HSpec) (key : List Byte) (wide : Bool) : Inserted :=
  match t.find sp key wide with
  | some (pos, _) => { status := 3, pos := some pos, tab := t.writeAt pos none }
  | none => { status := 6, tab := t }

/-- Retry the oldest `n` stash entries (R156): the table, and the entries that have left the stash. -/
def HTab.retry (t : HTab) (sp : HSpec) : Nat → Nat → HTab × Nat
  | 0, _ => (t, 0)
  | n + 1, i =>
    match t.stash[i]? with
    | none => (t, 0)
    | some e =>
      match t.placeIn sp e with
      | some r =>
        let (t', m) := HTab.retry { r.tab with stash := r.tab.stash.eraseIdx i } sp n i
        (t', m + 1)
      | none => t.retry sp n (i + 1)

/-- The entries held in the ways; a wide entry counts once. -/
def HTab.inWays (t : HTab) : List HEntry :=
  t.slots.filterMap fun e => e.2.bind fun v => if v.wide ∧ e.1 % 2 = 1 then none else some v
/-- Every entry held. -/
def HTab.entries (t : HTab) : List HEntry := t.inWays ++ t.stash
def HTab.empty (t : HTab) : Bool := t.slots.isEmpty && t.stash.isEmpty

/-- The table without the entries that meet a test, and how many there were. -/
def HTab.removeAll (t : HTab) (p : HEntry → Bool) : HTab × Nat :=
  let keep (o : Option HEntry) : Bool := match o with
    | some e => !p e
    | none => true
  ({ slots := t.slots.filter fun e => keep e.2, stash := t.stash.filter fun e => !p e }, (t.entries.filter p).length)

/-- The lookup bytes of a rule key (R150). -/
def ruleKey (profile : Nat) (key : List Byte) : List Byte :=
  BitVec.ofNat 8 profile :: BitVec.ofNat 8 key.length :: key

end Sys2Proof.Machine
end

