-- ==== Sys2Proof/Machine/Image.lean ====
section
/-! DEFINITION. The crucible image of a team's tables (R403, R427, R428): what a full copy takes, and the write-through of each
commit. The spec gives the blocks' places and checks, and not which entry lies in which block (log 281). -/

namespace Sys2Proof.Machine

/-- STATIC of a MAC entry (R194). -/
def macStatic (v : Nat) : Bool := bit v 31

/-- The pseudo-channel and first slab of an image block of a team (R403): its primary or its mirror copy. A block of 4 KiB covers
two slabs, and a segment has 896. -/
def imagePlace (t n : Nat) (mirror : Bool) : Nat × Nat :=
  let k := n / 896 % 16
  if mirror then (16 * t + (k ^^^ 8), 260352 + 2 * (n % 896)) else (16 * t + k, 258560 + 2 * (n % 896))

/-- Up to `n` accesses of image blocks in a pseudo-channel: how many find their row open and how many open one is free, as the
spec gives neither their order nor the entries' places (R433; log 281). -/
def State.imageAccess (s : State) (c n : Nat) : State :=
  let (a, s1) := s.free 32
  let (b, s2) := s1.free 32
  (s2.addCtr (pgChan c) Reg.CRUCC.ROW_HITS (a % (n + 1))).addCtr (pgChan c) Reg.CRUCC.ACTIVATES (b % (n + 1))

/-- Both copies of a block of a team's image are written: the block is free (log 281). -/
def State.imageBlock (s : State) (t : Nat) : State :=
  let (n, s1) := s.free 32
  s1.each [false, true] fun s m => s.imageAccess (imagePlace t (n % 14336) m).1 128

/-- A sequence entry as the image holds it (R427, R430): a recovery entry restores reset. -/
def savedSeq (e : Nat) : Nat := if seqRecovery e then seqResetEntry e else e

/-- A hash table as the image holds it: of the MAC table, the static entries. -/
def HTab.saved (t : HTab) (k : HKind) : HTab := if k = .mac then (t.removeAll fun e => !macStatic e.data).1 else t

/-- What a full copy takes of a team's tables: what host software has written, as committed (R427). -/
def State.tableImage (s : State) (t : Nat) : TableImage :=
  { tabs := (teamBenches t).map fun b =>
      let x := s.tabsAt b
      { x with rtclass := [], mac := x.mac.saved .mac },
    meters := (s.teamAt t).meters.map fun e => (e.1, setBits e.2.w 121 121 0),
    filters := (s.teamAt t).filters.map fun e => (e.1, setBits e.2.w 61 61 0),
    seqs := (s.teamAt t).seqCommitted.map fun e => (e.1, savedSeq e.2) }

/-- A host write of a team's tables commits: it goes to both copies of its block while write-through runs (R428). -/
def State.onImage (s : State) (t : Nat) (f : TableImage → TableImage) : State :=
  if (s.halfAt t).armed then (s.onHalf t fun h => { h with kept := h.kept.map f }).imageBlock t else s

/-- A write of a bench's tables goes to its team's image. -/
def State.imageTabs (s : State) (b : Nat) (f : TabSt → TabSt) : State :=
  s.onImage (benchTeam b) fun m => { m with tabs := m.tabs.modify (b % 4) f }

def State.imageMeter (s : State) (t i w : Nat) : State :=
  s.onImage t fun m => { m with meters := Tab.set (fun _ => 0) m.meters i (setBits w 121 121 0) }
def State.imageFilter (s : State) (t i w : Nat) : State :=
  s.onImage t fun m => { m with filters := Tab.set (fun _ => 0) m.filters i (setBits w 61 61 0) }

/-- The image of a hash table follows a commit: every slot that the commit changed holds what it left there, and stash entries go
and come as in the table. Entries that the hardware alone has removed stay in the image, until their key is written again. -/
def HTab.follow (img old new : HTab) : HTab :=
  let changed := ((old.slots ++ new.slots).map Prod.fst).eraseDups.filter fun i => old.slot i != new.slot i
  let gone := old.stash.filter fun e => !new.stash.contains e
  let came := new.stash.filter fun e => !old.stash.contains e
  let keys := (changed.filterMap new.slot ++ came).map HEntry.key
  let clean := (img.removeAll fun e => keys.contains e.key).1
  let t := changed.foldl (fun t i => t.setSlot i (new.slot i)) clean
  { t with stash := (t.stash.filter fun e => !gone.contains e) ++ came }

/-- A hash table of a bench takes a new state, and its image with it. -/
def State.imageHash (s : State) (b : Nat) (k : HKind) (h : HTab) : State :=
  let old := ((s.tabsAt b).hget k).saved k
  let new := h.saved k
  if old = new then s else s.imageTabs b fun t => t.hput k ((t.hget k).follow old new)

end Sys2Proof.Machine
end

