-- ==== Sys2Proof/Machine/Hub.lean ====
section
/-! DEFINITION. The commands that a hub holds until they are final (R53, R54, R181 to R184, R217 to R222, R261, R343, R362,
R375, R376, R400, R570): acceptance, the commit of each unit, results, and failure logs. -/

namespace Sys2Proof.Machine

/-! ### The tables of the windows -/

/-- The direct tables (R181, R217, R343, R400). -/
inductive DKind where
  | prof | spread | indir | dom | flood | domSig | floodSig | ctx | ctxSig | meter | filter | sc | sa | key
  deriving DecidableEq, Repr

def DKind.size : DKind → Nat
  | .prof | .spread | .domSig => 256
  | .indir | .ctxSig | .sa => 4096
  | .dom => 65536
  | .flood => 16384
  | .floodSig => 64
  | .ctx => 1048576
  | .meter | .filter => 262144
  | .sc => 1024
  | .key => 2048

/-- Bits of an entry, in whole data words. -/
def DKind.width : DKind → Nat
  | .spread | .domSig | .floodSig | .ctxSig => 32
  | .indir | .dom | .filter => 64
  | _ => 128

/-- The bits of an entry that are no reserved field: a reserved field reads 0 and ignores writes (R15, R571). -/
def DKind.mask : DKind → Nat
  | .prof => 2 ^ 127 + (2 ^ 96 - 2 ^ 6)
  | .spread => 2 ^ 30 - 1
  | .indir => 2 ^ 64 - 1 - 3 * 2 ^ 9
  | .dom => 2 ^ 64 - 2 ^ 27
  | .flood | .key => 2 ^ 128 - 1
  | .domSig | .floodSig | .ctxSig => 2 ^ 32 - 1
  | .ctx => 2 ^ 128 - 1 - 7 * 2 ^ 61
  | .meter => 2 ^ 128 - 1 - (2 ^ 115 - 2 ^ 96)
  | .filter => 2 ^ 64 - 2 ^ 24
  | .sc => 2 ^ 128 - 1 - 2 ^ 113 - (2 ^ 108 - 2 ^ 96)
  | .sa => 2 ^ 128 - 1 - (2 ^ 114 - 2 ^ 96)

def TabSt.direct (t : TabSt) : DKind → Tab Nat
  | .prof => t.prof
  | .spread => t.spread
  | .indir => t.indir
  | .dom => t.dom
  | .flood => t.flood
  | .domSig => t.domSig
  | .floodSig => t.floodSig
  | .ctx => t.ctx
  | .ctxSig => t.ctxSig
  | _ => []

def TabSt.dget (t : TabSt) (k : DKind) (i : Nat) : Nat := Tab.get (fun _ => 0) (t.direct k) i
def TabSt.dset (t : TabSt) (k : DKind) (i v : Nat) : TabSt :=
  let n := Tab.set (fun _ => 0) (t.direct k) i v
  match k with
  | .prof => { t with prof := n }
  | .spread => { t with spread := n }
  | .indir => { t with indir := n }
  | .dom => { t with dom := n }
  | .flood => { t with flood := n }
  | .domSig => { t with domSig := n }
  | .floodSig => { t with floodSig := n }
  | .ctx => { t with ctx := n }
  | .ctxSig => { t with ctxSig := n }
  | _ => t

/-- A table of a window. -/
inductive TKind where
  | hash (k : HKind)
  | direct (k : DKind)
  deriving DecidableEq, Repr

/-- TABLE of a window page (R181, R217, R343, R400). -/
def tableKind (cls table : Nat) : Option TKind :=
  match cls, table with
  | 0x0B, 0 => some (.hash (.bank 0))
  | 0x0B, 1 => some (.hash (.bank 1))
  | 0x0B, 2 => some (.hash .route)
  | 0x0B, 3 => some (.direct .prof)
  | 0x0B, 4 => some (.direct .spread)
  | 0x0B, 5 => some (.direct .indir)
  | 0x0C, 0 => some (.hash .mac)
  | 0x0C, 1 => some (.direct .dom)
  | 0x0C, 2 => some (.direct .flood)
  | 0x0C, 3 => some (.direct .domSig)
  | 0x0C, 4 => some (.direct .floodSig)
  | 0x0D, 0 => some (.hash .sid)
  | 0x0D, 1 => some (.direct .ctx)
  | 0x0D, 2 => some (.direct .ctxSig)
  | 0x12, 0 => some (.direct .meter)
  | 0x12, 1 => some (.direct .filter)
  | 0x13, 0 => some (.direct .sc)
  | 0x13, 1 => some (.direct .sa)
  | 0x13, 2 => some (.direct .key)
  | _, _ => none

/-! ### Fields of a command -/

def HostCmd.cls (c : HostCmd) : Nat := c.page / 256
def HostCmd.tkind (c : HostCmd) : Option TKind := tableKind c.cls c.table
/-- The team of the page it was written on. -/
def HostCmd.team (c : HostCmd) : Nat := (pageTeam c.page).getD 0
/-- TW_META.COPY or SQ_IDX.COPY. -/
def HostCmd.copy (c : HostCmd) : Bool := bit c.arg 31
def HostCmd.klen (c : HostCmd) : Nat := bits c.arg 29 24
def HostCmd.profile (c : HostCmd) : Nat := bits c.arg 23 16
def HostCmd.tag (c : HostCmd) : Nat := bits c.arg 15 0
/-- TW_LOC.STASH, which acts for a hash table alone (R185). -/
def HostCmd.inStash (c : HostCmd) : Bool :=
  bit c.arg 63 && (match c.tkind with
    | some (.hash _) => true
    | _ => false)
def HostCmd.inWay (c : HostCmd) : Nat := bits c.arg 62 61
/-- TW_LOC.INDEX; its low 6 bits for a stash entry. -/
def HostCmd.loc (c : HostCmd) : Nat := if c.inStash then bits c.arg 37 32 else bits c.arg 60 32
/-- INSERT, DELETE or WRITE of a table; WRITE or RESET of a sequence entry; FLUSH. -/
def HostCmd.writes (c : HostCmd) : Bool :=
  match c.kind with
  | .table => c.op == 0 || c.op == 1 || c.op == 4
  | .sq => c.op == 1 || c.op == 2
  | .flush | .rtclass => true
  | _ => false
def HostCmd.isMac (c : HostCmd) : Bool := c.kind == .table && c.tkind == some (.hash .mac)

/-- The benches of a mask, or the page's own bench for an empty one (R219, R221). -/
def HostCmd.benches (c : HostCmd) : List Nat :=
  if c.mask % 256 = 0 then [c.page % 256] else (List.range 8).filter fun b => bit c.mask b

/-- The teams a command addresses (R181, R362, R400). -/
def HostCmd.teams (c : HostCmd) : List Nat :=
  if c.kind = .snap then [0, 1]
  else if c.isMac ∨ c.kind = .flush then (c.benches.map benchTeam).eraseDups
  else if c.copy ∧ c.writes ∧ c.cls ≠ 0x13 ∧ c.kind ≠ .rtclass then [c.team, 1 - c.team] else [c.team]

/-- The units that commit a write in a team: its benches, the team as one, or the page's cluster. -/
def HostCmd.units (c : HostCmd) (t : Nat) : List Nat :=
  if c.isMac ∨ c.kind = .flush then c.benches.filter fun b => benchTeam b == t
  else if c.kind = .sq ∨ c.cls = 0x12 then [8 + t]
  else if c.cls = 0x13 then [10 + c.page % 256]
  else teamBenches t

/-- The team of a unit. -/
def unitTeam (u : Nat) : Nat := if u < 8 then u / 4 else if u < 10 then u - 8 else (u - 10) / 2

/-- The unit whose status stands for a bench or a team's copy. -/
def HostCmd.leads (c : HostCmd) (t : Nat) : List Nat :=
  if c.isMac then c.units t else (c.units t).take 1

/-- The status of a team: of the lowest addressed unit, 0xF where it is not addressed (R185, R219). -/
def HostCmd.teamStatus (c : HostCmd) (t : Nat) : Nat :=
  if c.teams.contains t then
    (((c.leads t).head?).bind fun u => (c.stats.find? fun e => e.1 == u).map Prod.snd).getD 15
  else 15

/-- The unit whose moves and position a result reports. -/
def HostCmd.reporter (c : HostCmd) : Option Nat :=
  match c.leads c.team with
  | u :: _ => if c.teams.contains c.team then some u else (c.teams.flatMap c.leads).head?
  | [] => (c.teams.flatMap c.leads).head?

/-! ### Keys (R150, R174, R181, R209, R218) -/

/-- Key bytes of a stream identification type, after the type byte. -/
def sidLen (ty : Nat) : Nat := if ty = 4 then 22 else if ty = 5 then 46 else 8

/-- The lookup bytes of a command on a hash table, and whether they make a wide entry; none where R182 refuses them. -/
def HostCmd.lookup (c : HostCmd) (rt : Tab Nat) (k : HKind) : Option (List Byte × Bool) :=
  match k with
  | .bank _ =>
    let key := ruleKey c.profile (c.key.take c.klen)
    if c.klen = 0 ∨ 56 < c.klen then none else some (key, k.wideKey key)
  | .route =>
    let cl := beAt c.key 0 4 % 16
    let r := Tab.get (fun _ => 0) rt cl
    let n := if bit r 30 then 16 else 4
    let addr := (c.key.drop 4).take n
    if bit r 31 ∧ beNat addr % 2 ^ (8 * n - bits r 23 16) = 0 then
      some (BitVec.ofNat 8 c.profile :: BitVec.ofNat 8 cl :: addr, false)
    else none
  | .sid =>
    if c.profile = 0 ∨ 5 < c.profile then none
    else
      let key := BitVec.ofNat 8 c.profile :: c.key.take (sidLen c.profile)
      some (key, k.wideKey key)
  | .mac => some (c.key.take 8, false)

/-- TR_META of an entry, and its key bytes from TR_KEY0 (R181, R218). -/
def keyBack (k : HKind) (key : List Byte) : Nat × List Byte :=
  match k, key with
  | .bank _, p :: n :: l => (n.toNat % 64 * 2 ^ 24 + p.toNat * 2 ^ 16, l)
  | .route, v :: cl :: l => (v.toNat * 2 ^ 16, [0, 0, 0, cl] ++ l)
  | .sid, t :: l => (t.toNat * 2 ^ 16, l)
  | _, l => (0, l)

/-- What an INSERT stores: reserved fields, and HIT and AGE of a MAC entry, are 0 (R15, R161, R176, R194, R212); bits of TARGET
that only a value of FWD reserves are stored as written (R162; DESIGN CHOICE, log 273). -/
def hashData (k : HKind) (v : Nat) : Nat :=
  v &&& match k with
    | .bank _ => 2 ^ 96 - 2 ^ 6
    | .route => 2 ^ 64 - 1 - (2 ^ 14 - 2 ^ 9)
    | .sid => 2 ^ 20 - 1
    | .mac => 0xF0000FFF

/-- What a WRITE stores in a direct table. -/
def HostCmd.entry (c : HostCmd) (k : DKind) : Nat := c.data &&& k.mask

/-- What an SQ_CMD WRITE stores (R351). -/
def HostCmd.seqData (c : HostCmd) : Nat :=
  c.data &&& (if bit c.data 126 then 2 ^ 128 - 1 - 31 * 2 ^ 64 else 3 * 2 ^ 126 + (2 ^ 16 - 1))

/-- The refusals of R182 and R219 that need no table. -/
def HostCmd.bad (c : HostCmd) : Bool :=
  match c.tkind with
  | none => true
  | some (.hash k) =>
    decide (3 < c.op) ||
    (c.op == 3 && !c.inStash && decide (k.per ≤ c.loc)) ||
    (decide (c.op ≤ 2) && decide (k ≠ .route) && (c.lookup [] k).isNone) ||
    (k == .mac && decide (2 ≤ c.op) && decide (1 < c.benches.length)) ||
    (k == .mac && c.op == 0 && !bit c.data 31 && bits c.data 29 28 != 0)
  | some (.direct k) => !(c.op == 3 || c.op == 4) || decide (k.size ≤ c.loc)

/-! ### The commit of one unit -/

/-- What a command gave at a unit. -/
structure Done where
  status : Nat
  moves : Nat := 0
  stash : Bool := false
  way : Nat := 0
  index : Nat := 0
  deriving DecidableEq, Repr

/-- The position fields of a result. -/
def Done.at (status moves per : Nat) : Option HPos → Done
  | some (.way l) => { status := status, moves := moves, way := l.headD 0 / per, index := l.headD 0 % per }
  | some (.stash i) => { status := status, moves := moves, stash := true, index := i }
  | none => { status := status, moves := moves }

/-- A hash table takes a new state; STASH_HIGH is raised as its stash reaches 48 entries (R156). The replicas of a team
copy raise it once, by the team's first bench. -/
def State.putHash (s : State) (b : Nat) (k : HKind) (h : HTab) : State :=
  let before := ((s.tabsAt b).hget k).stash.length
  let s1 := (s.imageHash b k h).onTabs b fun t => t.hput k h
  if before < 48 ∧ 48 ≤ h.stash.length then
    match k with
    | .mac => s1.raise (pgFdb b) 4
    | .sid => if b % 4 = 0 then s1.raise (pgStrm b) 2 else s1
    | _ => if b % 4 = 0 then s1.raise (pgCls b) 4 else s1
  else s1

/-- INSERT or DELETE at a bench (R153, R154). -/
def State.commitHash (s : State) (b : Nat) (c : HostCmd) (k : HKind) : Done × State :=
  let t := s.tabsAt b
  match c.lookup t.rtclass k with
  | none => ({ status := 8 }, s)
  | some (key, wide) =>
    let sp := s.hspec b k
    let undef := c.open_.contains (benchTeam b)
    let data := if undef then c.openData else c.data
    let r := if c.op = 0 then (t.hget k).insert sp { key := key, wide := wide, data := hashData k data }
      else (t.hget k).delete sp key wide
    (Done.at r.status r.moves k.per r.pos, if undef && c.void then s else s.putHash b k r.tab)

/-- The refusals of R375 for a write at a cluster. -/
def State.ciphCheck (s : State) (n : Nat) (c : HostCmd) (k : DKind) : Nat :=
  let e := c.entry k
  let i := c.loc
  let named (a : Nat × Nat) : Bool := saValid a.2 && saKey a.2 == i
  match k with
  | .sc =>
    let same (o : Nat × Nat) : Bool := o.1 != i && scValid o.2 && !scTx o.2 && scPort o.2 == scPort e && scSci o.2 == scSci e
    let old := s.scEntry n i
    let held := (List.range 4).any fun a => saValid (s.saEntry n (4 * i + a))
    if scValid e ∧ !scTx e ∧ (s.ciphAt n).scs.any same then 8
    else if held ∧ (scTx old ≠ scTx e ∨ scSuite old ≠ scSuite e ∨ scPort old ≠ scPort e) then 10
    else 4
  | .sa =>
    let sc := s.scEntry n (i / 4)
    let key := s.keySlot n (saKey e)
    if saValid e ∧ (!key.loaded ∨ key.use = 1 ∨ key.len ≠ scSuite sc % 2) then 8
    else if saValid e ∧ (saPn e = 0 ∨ (!scXpn sc ∧ 0xFFFFFFFF < saPn e)) then 8
    else if saValid (s.saEntry n i) ∧ e ≠ 0 then 10
    else 4
  | _ => if (s.ciphAt n).sas.any named then 10 else 4

/-- The key slot that a write leaves (R370, R372, R394, R400). -/
def keyWrite (old : KeySlot) (c : HostCmd) : KeySlot :=
  if bit c.data 31 then
    { loaded := true, len := bits c.data 30 30, use := bits c.data 29 29, gen := (old.gen + 1) % 65536, invoc := 0,
      key := beNat (c.key.take (if bit c.data 30 then 32 else 16)), salt := beNat ((c.key.drop 32).take 12) }
  else { old with loaded := false, gen := (old.gen + 1) % 65536, key := 0, salt := 0 }

/-- WRITE of a cluster's tables. Once the SA has been invalidated, the updates by frames that used it are discarded: those not
yet committed here, and those still to be made by the count of invalidations (R376). -/
def State.commitCiph (s : State) (n : Nat) (c : HostCmd) (k : DKind) : Done × State :=
  let st := s.ciphCheck n c k
  if st ≠ 4 then ({ status := st }, s)
  else
    let i := c.loc
    let s1 := s.onCiph n fun x => match k with
      | .sc => { x with scs := Tab.set (fun _ => 0) x.scs i (c.entry k) }
      | .sa =>
        let y := { x with sas := Tab.set (fun _ => 0) x.sas i (c.entry k) }
        if saValid (c.entry k) then y
        else { y with ups := y.ups.filter fun u => u.sa != i,
                      gens := Tab.set (fun _ => 0) y.gens i (Tab.get (fun _ => 0) y.gens i + 1) }
      | _ => { x with keys := Tab.set (fun _ => {}) x.keys i (keyWrite (s.keySlot n i) c) }
    ({ status := 4, index := i }, s1)

/-- WRITE or RESET of a sequence entry (R354, R355, R362): the working entry takes the value, and changes to it that
have not committed are discarded. -/
def State.commitSq (s : State) (t : Nat) (c : HostCmd) : Done × State :=
  let i := bits c.arg 18 0
  let old := s.seqEntry t i
  let new := if c.op = 1 then c.seqData
    else if seqRecovery old then seqResetEntry old else setBits old 15 0 0
  let s1 := s.onTeam t fun m => { m with
    seqs := Tab.set (fun _ => 0) m.seqs i new,
    changes := m.changes.filter fun x => match x.2 with
      | .seq j _ => j != i
      | _ => true }
  let s1 := s1.onImage t fun m => { m with seqs := Tab.set (fun _ => 0) m.seqs i (savedSeq new) }
  ({ status := 4 }, if c.op = 2 then
      (s1.bump (strmTeam t) Reg.STRM.SEQ_RESETS).ifDo (seqRecovery old) fun s => s.watchReset t i
    else s1)

/-! ### The search walk and flush (R220, R221) -/

/-- SRCH_SEL and SRCH_DOM select an entry (R220). -/
def srchSelects (arg : Nat) (e : HEntry) : Bool :=
  let v := e.data
  (!bit arg 31 || (bits v 29 28 == 0 && bits v 8 0 == bits arg 8 0)) &&
  (!bit arg 30 || beAt e.key 0 2 == bits arg 47 32) &&
  ((bit arg 29 && !bit v 31) || (bit arg 28 && bit v 31)) &&
  (bit arg 27 || !bit v 30)

/-- The positions of a MAC table in the order of R205, from one on, with their entries. -/
def HTab.positions (t : HTab) (start : Nat) : List (Nat × HEntry) :=
  let ways : List (Nat × HEntry) := t.slots.filterMap fun e => e.2.map fun v => (e.1, v)
  let stash : List (Nat × HEntry) :=
    (List.range t.stash.length).filterMap fun i => (t.stash[i]?).map fun v => (262144 + i, v)
  (ways ++ stash).filter fun e => decide (start ≤ e.1)

/-- FLUSH at a bench. -/
def State.commitFlush (s : State) (b : Nat) (c : HostCmd) : Nat × State :=
  let (h, n) := (s.tabsAt b).mac.removeAll (srchSelects c.arg)
  (n, ((s.imageHash b .mac h).onTabs b fun t => { t with mac := h }).addCtr (pgFdb b) Reg.FDB.FLUSHED n)

/-! ### Route classes (R174) -/

/-- RTCNT of a class in a bench's replica. -/
def TabSt.routes (t : TabSt) (cl : Nat) : Nat :=
  (t.route.entries.filter fun e => (e.key.getD 1 0).toNat == cl).length

/-- An RTCLASS write takes its place at a bench's edge. -/
def State.commitClass (s : State) (b : Nat) (c : HostCmd) : Done × State :=
  let t := s.tabsAt b
  let v := c.data % 2 ^ 32
  if t.routes c.table ≠ 0 ∨ (if bit v 30 then 128 else 32) < bits v 23 16 then
    ({ status := 8 }, if b % 4 = 0 then s.raise (pgCls b) 8 else s)
  else
    let s1 := s.onTabs b fun t => { t with rtclass := Tab.set (fun _ => 0) t.rtclass c.table v }
    ({ status := 4 }, if b % 4 = 0 then s1.wrL (pgCls b) (Reg.CLS.RTCLASS c.table).off (BitVec.ofNat 32 v) else s1)

/-- A unit commits a command. -/
def State.commitUnit (s : State) (u : Nat) (c : HostCmd) : Done × Nat × State :=
  let plain (r : Done × State) : Done × Nat × State := (r.1, 0, r.2)
  match c.kind with
  | .flush => let (n, s1) := s.commitFlush u c; ({ status := 4 }, n, s1)
  | .rtclass => plain (s.commitClass u c)
  | .sq => plain (s.commitSq (u - 8) c)
  | .snap => ({ status := 4 }, 0, s)
  | _ =>
    match c.tkind with
    | some (.hash k) => plain (s.commitHash u c k)
    | some (.direct k) =>
      let i := c.loc
      match k with
      | .sc | .sa | .key => plain (s.commitCiph (u - 10) c k)
      | .meter => ({ status := 4, index := i }, 0, (s.imageMeter (u - 8) i (c.entry k)).onTeam (u - 8) fun m =>
          { m with meters := Tab.set (fun _ => {}) m.meters i ((Tab.get (fun _ => {}) m.meters i).write (c.entry k)) })
      | .filter => ({ status := 4, index := i }, 0, (s.imageFilter (u - 8) i (c.entry k)).onTeam (u - 8) fun m =>
          { m with filters := Tab.set (fun _ => {}) m.filters i ((Tab.get (fun _ => {}) m.filters i).write (c.entry k)) })
      | k => ({ status := 4, index := i }, 0, (s.imageTabs u fun t => t.dset k i (c.entry k)).onTabs u fun t =>
          t.dset k i (c.entry k))
    | none => ({ status := 8 }, 0, s)

/-! ### Results (R183, R184) -/

/-- The page of the FAIL_LOST counter of a window page (R186, R224, R227, R400): none where only the cause tells. -/
def failLostAt (p : Nat) : Option (Nat × Nat) :=
  match p / 256 with
  | 0x0B => some (teamPage 0x0B (p % 256 / 4), Reg.CLS.FAIL_LOST)
  | 0x0C => some (p, Reg.FDB.FAIL_LOST)
  | 0x0D => some (p, Reg.STRM.FAIL_LOST)
  | _ => none

/-- The cause FAIL_LOST of a window page. -/
def failLostCause (p : Nat) : Nat :=
  match p / 256 with
  | 0x12 => 2
  | 0x13 => 7
  | _ => 1

/-- One record of a page's failure log (R184, R185). -/
def State.failRecord (s : State) (p status table team tag : Nat) : State :=
  if (s.failLogAt p).length < 64 then
    s.onFailLog p fun l => l ++ [2 ^ 31 + status * 2 ^ 27 + table * 2 ^ 23 + team * 2 ^ 22 + tag]
  else
    (match failLostAt p with
      | some (q, o) => s.bump q o
      | none => s).raise p (failLostCause p)

/-- A command that ended TABLE_FULL in a copy is counted there (R184, R186, R224, R227). -/
def State.countFull (s : State) (c : HostCmd) (u : Nat) : State :=
  match c.cls with
  | 0x0C => s.bump (pgFdb u) Reg.FDB.INS_FAIL
  | 0x0D => s.bump (strmTeam (unitTeam u)) Reg.STRM.INS_FAIL
  | _ => s.bump (teamPage 0x0B (unitTeam u)) Reg.CLS.INS_FAIL

/-- The failures of a command: each copy's unit and status. -/
def HostCmd.failures (c : HostCmd) : List (Nat × Nat) :=
  ([0, 1].flatMap fun t => if c.teams.contains t then c.leads t else []).filterMap fun u =>
    ((c.stats.find? fun e => e.1 == u).map Prod.snd).bind fun st =>
      if st = 7 ∨ st = 8 ∨ st = 9 then some (u, st) else none

/-- TW_RESULT of a final command. -/
def HostCmd.result (c : HostCmd) : Nat :=
  2 ^ 31 + c.teamStatus 0 * 2 ^ 27 + c.teamStatus 1 * 2 ^ 23 + c.moves % 4 * 2 ^ 21 + b2n c.stash * 2 ^ 20 +
  c.way % 4 * 2 ^ 18 + c.index % 2 ^ 17

/-- TW_BSTAT: a status for each bench that a MAC table command addresses (R219). -/
def HostCmd.bstat (c : HostCmd) : Nat :=
  ((List.range 8).map fun b =>
    (if c.isMac then ((c.stats.find? fun e => e.1 == b).map Prod.snd).getD 15 else 15) * 2 ^ (4 * b)).sum

/-- A table or sequence command becomes final: failures recorded, result registers written. -/
def State.finalTable (s : State) (c : HostCmd) : State :=
  let s1 := s.each c.failures fun s f =>
    let s1 := s.failRecord c.page f.2 (if c.kind = .sq then 3 else c.table) (unitTeam f.1) (if c.kind = .sq then 0 else c.tag)
    if f.2 = 7 then (s1.countFull c f.1).raise c.page 0 else s1
  let s2 := if c.cls = 0x13 ∧ c.kind = .table then
      s1.each (List.range 14) fun s k => s.wr c.page (0x200 + 4 * k) 0 else s1
  if c.stale then s2
  else if c.kind = .sq then
    (s2.wr c.page Reg.STRM.SQ_RESULT.off
      (BitVec.ofNat 32 (2 ^ 31 + c.teamStatus 0 * 2 ^ 27 + c.teamStatus 1 * 2 ^ 23))).raise c.page 20
  else
    let s3 := s2.wr c.page 0x254 (BitVec.ofNat 32 c.result)
    let s4 := if c.cls = 0x0C then s3.wr c.page 0x25C (BitVec.ofNat 32 c.bstat) else s3
    if c.cls = 0x0D then s4.wr c.page 0x260 (BitVec.ofNat 32 (c.index % 2 ^ 20)) else s4

/-- FLUSH has committed in every bench it addresses: its result waits to be shown (R221, R222). -/
def State.finalFlush (s : State) (c : HostCmd) : State :=
  s.onFdb (c.page % 256) fun f => { f with walk := some [2 ^ 31, 0, 0, 0, c.count] }

/-- A command that no unit has still to commit. -/
def State.finalCmd (s : State) (c : HostCmd) : State :=
  match c.kind with
  | .flush => s.finalFlush c
  | .rtclass | .snap => s
  | _ => s.finalTable c

/-- A command with what a unit gave. -/
def HostCmd.report (c : HostCmd) (u : Nat) (d : Done) (n : Nat) : HostCmd :=
  let c1 := { c with left := c.left.filter fun v => v != u, stats := c.stats ++ [(u, d.status)],
                     count := if u = c.page % 256 then n else c.count }
  if c.reporter = some u then { c1 with moves := d.moves, stash := d.stash, way := d.way, index := d.index } else c1

/-- A unit commits, in order of acceptance, the commands that carry tick `n` or an earlier one (R55 order 3): in FREE mode a
write whose tick the bench has already ended commits at the bench's next edge (R26; DESIGN CHOICE, log 269). -/
def State.commitCmds (s : State) (u n : Nat) : List HostCmd → List HostCmd × State
  | [] => ([], s)
  | c :: t =>
    if c.left.contains u ∧ c.tick ≤ n then
      let (d, k, s1) := s.commitUnit u c
      let c1 := c.report u d k
      let s2 := if c1.left.isEmpty then s1.finalCmd c1 else s1
      let (rest, s3) := s2.commitCmds u n t
      (if c1.left.isEmpty then rest else c1 :: rest, s3)
    else
      let (rest, s1) := s.commitCmds u n t
      (c :: rest, s1)

/-! ### Reads (R54, R181, R343, R362, R400) -/

/-- The TR registers take a result. -/
def State.putTr (s : State) (p meta_ : Nat) (key : List Byte) (data : Nat) : State :=
  let s1 := s.each (List.range 14) fun s k => s.wr p (0x280 + 4 * k) (BitVec.ofNat 32 (beAt key (4 * k) 4))
  let s2 := s1.wr p 0x2B8 (BitVec.ofNat 32 meta_)
  s2.each (List.range 4) fun s k => s.wr p (0x2BC + 4 * k) (BitVec.ofNat 32 (data / 2 ^ (32 * k)))

/-- A SEARCH or READ on the committed table of a bench or team: what it gave, and the state with TR. A READ of a stream filter
leaves MR_TC and MR_TE, which R343 gives a value for a meter alone, as they stand (log 233). -/
def State.readTable (s : State) (c : HostCmd) : Done × State :=
  let b := if c.isMac then c.benches.headD 0 else 4 * c.team
  let t := s.tabsAt b
  match c.tkind with
  | some (.hash k) =>
    let h := t.hget k
    let found : Option (Option (HPos × HEntry)) :=
      if c.op = 2 then (c.lookup t.rtclass k).map fun q => h.find (s.hspec b k) q.1 q.2
      else if c.inStash then some ((h.stash[c.loc]?).map fun e => (.stash c.loc, e))
      else some ((h.slot (c.inWay * k.per + c.loc)).map fun e => (.way [c.inWay * k.per + c.loc], e))
    match found with
    | none => ({ status := 8 }, s)
    | some none => ({ status := 6 }, s.putTr c.page 0 [] 0)
    | some (some (pos, e)) =>
      let (m, key) := keyBack k e.key
      (Done.at 5 0 k.per (some pos), s.putTr c.page m key e.data)
  | some (.direct k) =>
    let i := c.loc
    let d : Done := { status := 5, index := i }
    match k with
    | .meter =>
      let m := s.meterEntry c.team i
      let s1 := (s.wr c.page Reg.METER.MR_TC.off (BitVec.ofNat 32 (m.tc / 1024))).wr c.page Reg.METER.MR_TE.off
        (BitVec.ofNat 32 (m.te / 1024))
      (d, (s1.each [(0, m.g), (1, m.y), (2, m.r)] fun s e =>
        { s with ctrs := Tab.set zeroCtr s.ctrs (rkey c.page (Reg.METER.MR_CNT e.1) 0) (BitVec.ofNat 64 e.2) }).putTr
          c.page 0 [] m.w)
    | .filter =>
      let f := s.filterEntry c.team i
      (d, (s.each [(0, f.matched), (1, f.sdu), (2, f.meterDrop)] fun s e =>
        { s with ctrs := Tab.set zeroCtr s.ctrs (rkey c.page (Reg.METER.MR_CNT e.1) 0) (BitVec.ofNat 64 e.2) }).putTr
          c.page 0 [] f.w)
    | .sc => (d, s.putTr c.page 0 [] (s.scEntry (c.page % 256) i))
    | .sa => (d, s.putTr c.page 0 [] (s.saEntry (c.page % 256) i))
    | .key =>
      let k := s.keySlot (c.page % 256) i
      (d, s.putTr c.page 0 [] (b2n k.loaded * 2 ^ 31 + k.len * 2 ^ 30 + k.use * 2 ^ 29 + k.invoc / 2 ^ 32 % 2 * 2 ^ 28 +
        k.gen + k.invoc % 2 ^ 32 * 2 ^ 32))
    | k => (d, s.putTr c.page 0 [] (t.dget k i))
  | none => ({ status := 8 }, s)

/-! ### Acceptance -/

/-- Commands of a hub that are not yet final (R181, R261, R570): a device-wide snapshot until the hub's benches have taken it, and
a swap of both copies until it has drained in the hub's (log 272). -/
def State.hubLoad (s : State) (t : Nat) : Nat :=
  (s.hub.cmds.filter fun c => c.kind != .rtclass &&
    ((c.kind != .snap && c.team == t) || c.left.any fun u => unitTeam u == t)).length +
  b2n ((s.swapAt t).any SwapSt.both) +
  ((teamBenches t).filter fun b => (s.bufAt b).mbox.isSome).length +
  ((teamBenches t).filter fun b => (s.fdbAt b).walk.isSome).length

/-- The bank that a swap of a team copy is replacing, while writes accepted now find it so (R167). -/
def State.oldBank (s : State) (t : Nat) : Option Nat :=
  match s.swapAt t with
  | none => none
  | some w =>
    if w.tick < s.gridTick then
      let a := s.fld (pgCls (4 * t)) Reg.CLS.SWAP_STAT_ACTIVE
      some (if w.left.isEmpty then 1 - a else a)
    else none

/-- A write accepted into a bank that is becoming old in a team's copy has an undefined result there (R167): what it stores, and
whether it changes that copy, are free. -/
def State.bankWrite (s : State) (c : HostCmd) : HostCmd × State :=
  match c.tkind with
  | some (.hash (.bank i)) =>
    match c.teams.filter fun t => s.oldBank t == some i with
    | [] => (c, s)
    | l =>
      let (v, s1) := s.free 97
      ({ c with open_ := l, openData := v % 2 ^ 96, void := decide (2 ^ 96 ≤ v) }, s1)
  | _ => (c, s)

/-- The signature block that an accepted write concerns: 0 to 255 domains, 256 to 319 flood groups, 320 to 4,415 stream
context (R216). -/
def HostCmd.sigBlock (c : HostCmd) : Option Nat :=
  match c.tkind with
  | some (.direct .dom) => some (c.loc / 256)
  | some (.direct .domSig) => some c.loc
  | some (.direct .flood) => some (256 + c.loc / 256)
  | some (.direct .floodSig) => some (256 + c.loc)
  | some (.direct .ctx) => some (320 + c.loc / 256)
  | some (.direct .ctxSig) => some (320 + c.loc)
  | _ => none

/-- A write to a block or its signature has been accepted (R216). -/
def State.sigTouched (s : State) (c : HostCmd) : State :=
  match c.sigBlock with
  | some k => s.each c.teams fun s t => s.onSig t fun g =>
      { g with differed := g.differed.filter fun x => x != k, reported := g.reported.filter fun x => x != k }
  | none => s

/-- Earlier commands of a page no longer show their results there. -/
def State.staleCmds (s : State) (p : Nat) (k : CmdKind) : State :=
  { s with hub := { s.hub with cmds := s.hub.cmds.map fun c => if c.page = p ∧ c.kind = k then { c with stale := true } else c } }

/-- The limits on writes accepted in one grid tick that a command counts in: 2,048 table-entry writes of each hub it needs
(keys 0 and 1; R53, R181, R221, R362, R376), and 96 INSERT and DELETE commands of each hash table (R155). -/
def HostCmd.quota (c : HostCmd) : List (Nat × Nat) :=
  if !c.writes || c.kind == .rtclass then []
  else c.teams.map (fun t => (t, 2048)) ++ (match c.kind, c.tkind with
    | .table, some (.hash .mac) => c.benches.map fun b => (16 + b, 96)
    | .table, some (.hash k) => c.teams.map fun t =>
        (2 + 4 * t + (match k with | .bank i => i | .route => 2 | _ => 3), 96)
    | _, _ => [])

/-- Writes that have been counted in a limit in the running grid tick. -/
def State.quotaUsed (s : State) (k : Nat) : Nat :=
  let q := Tab.get (fun _ => (0, 0)) s.hub.quota k
  if q.1 = s.gridTick then q.2 else 0

/-- A command has used up a limit of its tick (R53, R155). -/
def State.overQuota (s : State) (c : HostCmd) : Bool := c.quota.any fun q => decide (q.2 ≤ s.quotaUsed q.1)

/-- An accepted command counts in its limits. -/
def State.countQuota (s : State) (c : HostCmd) : State :=
  s.each c.quota fun s q =>
    { s with hub := { s.hub with quota := Tab.set (fun _ => (0, 0)) s.hub.quota q.1 (s.gridTick, s.quotaUsed q.1 + 1) } }

/-- A write command joins the hub, or ends at once where no unit is left: units of a team whose hub does not answer are
left unwritten, with status PEER_ABSENT (R32, R181). -/
def State.acceptWrite (s : State) (c : HostCmd) : State :=
  let gone := c.teams.filter fun t => !s.hubUp t
  let s0 := (s.countQuota c).each gone fun s t => s.hubMissing t true
  let s1 := s0.each (c.teams.filter s.hubUp) State.hubBack
  let c1 := { c with
    tick := s.gridTick,
    left := c.teams.flatMap fun t => if gone.contains t then [] else c.units t,
    stats := gone.flatMap fun t => (c.units t).map fun u => (u, 9) }
  if c1.left.isEmpty then s1.finalCmd c1
  else { s1 with hub := { s1.hub with cmds := s1.hub.cmds ++ [c1] } }

/-- Every unit addressed answers with one status, at once. -/
def State.endAll (s : State) (c : HostCmd) (d : Done) : State :=
  s.finalCmd { c with stats := c.teams.flatMap fun t => (c.units t).map fun u => (u, d.status),
                      moves := d.moves, stash := d.stash, way := d.way, index := d.index }

/-- A TW_CMD write (R181 to R183). -/
def State.startTable (s : State) (c : HostCmd) : State :=
  let s0 := (s.staleCmds c.page .table).wr c.page 0x254 0
  let s1 := if c.cls = 0x0C then s0.wr c.page 0x25C 0 else if c.cls = 0x0D then s0.wr c.page 0x260 0 else s0
  if c.bad then s1.endAll c { status := 8 }
  else if c.writes then
    let (c1, s2) := s1.bankWrite c
    (s2.sigTouched c1).acceptWrite c1
  else if c.teams.all s1.hubUp then
    let (d, s2) := s1.readTable c
    s2.endAll c d
  else (s1.each (c.teams.filter fun t => !s1.hubUp t) fun s t => s.hubMissing t false).endAll c { status := 9 }

/-- An SQ_CMD write (R362). -/
def State.startSq (s : State) (c : HostCmd) : State :=
  let s1 := (s.staleCmds c.page .sq).wr c.page Reg.STRM.SQ_RESULT.off 0
  if 2 < c.op then s1.endAll c { status := 8 }
  else if c.op = 0 then
    let e := s1.seqEntry c.team (bits c.arg 18 0)
    (s1.each (List.range 4) fun s k => s.wr c.page (Reg.STRM.SR_DATA k).off (BitVec.ofNat 32 (e / 2 ^ (32 * k)))).endAll c
      { status := 5 }
  else s1.acceptWrite c

/-- A command of a page's search mailbox is in progress (R222). -/
def State.searching (s : State) (p : Nat) : Bool :=
  (s.fdbAt (p % 256)).walk.isSome || s.hub.cmds.any fun c => c.page == p && c.kind == .flush

/-- A SRCH_CMD write (R220 to R222): FIRST, NEXT and FLUSH wait for SEARCH_DONE; a reserved OP ends at once. -/
def State.startSearch (s : State) (c : HostCmd) : State :=
  let b := c.page % 256
  if s.searching c.page then s.onFdb b fun f => { f with lost := true }
  else
    let s1 := s.each [0x30C, 0x310, 0x314, 0x318, 0x31C] fun s o => s.wr c.page o 0
    match c.op with
    | 2 => s1.acceptWrite c
    | 3 => (s1.wr c.page 0x30C (BitVec.ofNat 32 (2 ^ 31 + 2 ^ 28))).raise c.page 6
    | op =>
      let start := if op = 0 then 0 else (s1.fdbAt b).walkPos
      match ((s1.tabsAt b).mac.positions start).find? fun e => srchSelects c.arg e.2 with
      | none => s1.onFdb b fun f => { f with walk := some [2 ^ 31 + 2 ^ 29, 0, 0, 0, 0], walkPos := start }
      | some (i, e) =>
        let place := if i < 262144 then i / 65536 * 2 ^ 18 + i % 65536 else 2 ^ 20 + (i - 262144)
        s1.onFdb b fun f => { f with
          walkPos := i + 1,
          walk := some [2 ^ 31 + 2 ^ 30 + place, beAt e.key 0 4, beAt e.key 4 4, e.data, 0] }

/-- A BCMD write (R261); one made while a command of the page is in progress is ignored. -/
def State.startMbox (s : State) (c : HostCmd) : State :=
  let b := c.page % 256
  if (s.bufAt b).mbox.isSome then s else s.mboxRun b c.op c.table c.arg c.pass

/-- A command is taken by its hub. -/
def State.startCmd (s : State) (c : HostCmd) : State :=
  match c.kind with
  | .table => s.startTable c
  | .sq => s.startSq c
  | .walk | .flush => s.startSearch c
  | .mbox => s.startMbox c
  | .rtclass | .snap => s.acceptWrite c

/-- A command is to be held: a hub that it needs room in holds 64, or a limit of the tick is used up. -/
def State.hubsFull (s : State) (c : HostCmd) : Bool :=
  s.overQuota c ||
  (c.team :: if c.writes && c.kind != .rtclass then c.teams.filter s.hubUp else []).any fun t => decide (64 ≤ s.hubLoad t)

/-- A command is written: it is taken, or held by PCIe flow control (R53, R181). -/
def State.submit (s : State) (c : HostCmd) : State :=
  if s.hubsFull c then s.hold (.cmd c) else s.startCmd c

/-- A unit commits the commands due at tick `n`. -/
def State.unitCommit (s : State) (u n : Nat) : State :=
  if s.hub.cmds.any fun c => c.left.contains u && decide (c.tick ≤ n) then
    let (rest, s1) := s.commitCmds u n s.hub.cmds
    { s1 with hub := { s1.hub with cmds := rest } }
  else s

/-- An access that a team hub had yet to take, when the hub no longer answers: the shared hub completes it (R32). -/
def State.accMissing (s : State) (a : HubAcc) : State :=
  match a with
  | .read .. => { (s.hubMissing a.team false) with resp := s.resp ++ [0xFFFFFFFF] }
  | _ => s.hubMissing a.team true

/-- A team's hub and units are lost: commands leave its units with status PEER_ABSENT, those of its own pages that no other unit
has to commit end, and the accesses it had yet to take are completed in its place (R32). -/
def State.dropUnits (s : State) (t : Nat) : State :=
  let cut (c : HostCmd) : HostCmd :=
    { c with left := c.left.filter fun u => unitTeam u != t,
             stats := c.stats ++ ((c.left.filter fun u => unitTeam u == t).map fun u => (u, 9)) }
  let all := s.hub.cmds.map cut
  let s1 := { s with hub := { s.hub with
    cmds := all.filter fun c => !c.left.isEmpty, held := s.hub.held.filter fun c => c.team != t } }
  (s1.each (all.filter fun c => c.left.isEmpty && c.team != t) fun s c => s.finalCmd c).each
    (s.hub.held.filter fun c => c.team == t) State.accMissing

end Sys2Proof.Machine
end

