-- ==== Sys2Proof/Machine/BufCmd.lean ====
section
/-! DEFINITION. The commands on a bench's buffer pools (R233, R234, R240, R242, R247, R254 to R262). -/

namespace Sys2Proof.Machine

/-- POOL_START: a host write of BUFCTL with START = 1. -/
def poolStart (b : BenchId) (s : State) : State := s.wordWrite (pgBuf b) Reg.BUF.BUFCTL.off 1 fun s => s.poolStart b
def execPoolStart (b : BenchId) (s : State) : Host.Outcome State Fault Refusal := finish (poolStart b s)

/-- FREE_LIST_ERROR: a free-list link of a pool is found bad (R240). -/
def freeListError (b : BenchId) (p : Fin 4) (s : State) : State := s.listError b p
def execFreeListError (b : BenchId) (p : Fin 4) (s : State) : Host.Outcome State Fault Refusal :=
  finish (freeListError b p s)

/-- LIST_REBUILD_DONE: the sweep has passed `late` when they were freed (R240). -/
def listRebuildDone (b : BenchId) (late : List Nat) (s : State) : State := s.listRebuilt b late
def execListRebuildDone (b : BenchId) (late : List Nat) (s : State) : Host.Outcome State Fault Refusal :=
  finish (listRebuildDone b late s)

/-- HOLDER_RELEASE: an agent (R263) releases a holder of a descriptor, or a reference on a buffer. -/
def holderRelease (b : BenchId) (agent : Fin 72) (desc : Bool) (n : Nat) (s : State) : State :=
  if desc then s.relHold b (n % 32768) agent
  else if (s.poolOf b n).isSome ∧ s.bufReady b then s.relBuf b n agent
  else s
def execHolderRelease (b : BenchId) (agent : Fin 72) (desc : Bool) (n : Nat) (s : State) :
    Host.Outcome State Fault Refusal := finish (holderRelease b agent desc n s)

/-- The descriptors whose chain holds a granule's buffer. -/
def State.holdersOf (s : State) (b g : Nat) : List Nat :=
  (s.bufAt b).descs.filterMap fun e => e.2.bind fun v => if (s.chainOf b v).contains g then some e.1 else none

/-- A frame of a bench hit by an uncorrectable word (R257): a header still waiting is discarded by the cullet path; its
copies are handled as of a frame found bad. -/
def State.eccFrame (s : State) (b d : Nat) : State :=
  let inFifo := ((s.marAt b).fifo ++ (s.marAt b).punty).any fun h => h.desc == d
  if inFifo then
    ((s.onMar b fun m => { m with fifo := m.fifo.filter fun h => h.desc != d,
                                  punty := m.punty.filter fun h => h.desc != d }).cullet b d 71).bump
      (pgBuf b) Reg.BUF.ECC_DROP
  else s.frameBad b d 16

/-- BUFFER_DATA_UE: an uncorrectable data word in the buffer at a granule, read for the frame of descriptor `d`, or for no frame,
as in a buffer that host software holds; `ce` single-bit errors of the bank have been corrected since the last (R257). -/
def bufferDataUe (b : BenchId) (ce : Nat) (d : Option Nat) (g : Nat) (s : State) : State :=
  if !s.domOn (domBuffer b) then s
  else
    let s0 := s.addCtr (pgBuf b) Reg.BUF.ECC_CE ce
    if s.bufReady b ∧ (s.poolOf b g).isSome ∧ d.all fun i => (s.holdersOf b g).contains i then
      let s1 := (s0.bump (pgBuf b) Reg.BUF.ECC_UE).raise (pgBuf b) 2
      let s2 := s1.onBuf b fun u => u.setHdr g { u.hdr g with retire := true }
      match d with
      | some i => s2.eccFrame b i
      | none => s2
    else s0
def execBufferDataUe (b : BenchId) (ce : Nat) (place : EccPlace) (s : State) : Host.Outcome State Fault Refusal :=
  finish (bufferDataUe b ce place.desc place.granule s)

/-- BUFFER_HEADER_UE: an uncorrectable header word takes the buffer out of service (R258). -/
def bufferHeaderUe (b : BenchId) (g : Nat) (s : State) : State :=
  if s.bufReady b ∧ (s.poolOf b g).isSome ∧ !((s.bufAt b).hdr g).out then
    let frames := s.holdersOf b g
    let p := ((s.bufAt b).hdr g).pool
    let s1 := (s.bump (pgBuf b) Reg.BUF.HDR_UE).raise (pgBuf b) 3
    let before := s.poolFree b p
    let s2 := (s1.onBuf b fun u => { (u.setHdr g { u.hdr g with out := true }) with
      free := Tab.set (fun _ => []) u.free p ((u.list p).filter fun x => x != g),
      cullet := u.cullet.filter fun x => x != g }).poolTrack b p before
    s2.each frames fun s d => s.eccFrame b d
  else s
def execBufferHeaderUe (b : BenchId) (g : Nat) (s : State) : Host.Outcome State Fault Refusal :=
  finish (bufferHeaderUe b g s)

/-- OWN_RES_WRITE: a host write of OWN_RES, for the owner that OWN_IDX selects (R247). -/
def ownResWrite (b : BenchId) (v : W32) (s : State) : State :=
  s.wordWrite (pgBuf b) Reg.BUF.OWN_RES.off v fun s => s.ownResWrite b (s.fld (pgBuf b) Reg.BUF.OWN_IDX) (v.toNat % 2 ^ 18)
def execOwnResWrite (b : BenchId) (v : W32) (s : State) : Host.Outcome State Fault Refusal := finish (ownResWrite b v s)

/-- OWN_DESC_WRITE: a host write of OWN_DESC. -/
def ownDescWrite (b : BenchId) (v : W32) (s : State) : State :=
  s.wordWrite (pgBuf b) Reg.BUF.OWN_DESC.off v fun s => s.ownDescWrite b (s.fld (pgBuf b) Reg.BUF.OWN_IDX) v
def execOwnDescWrite (b : BenchId) (v : W32) (s : State) : Host.Outcome State Fault Refusal := finish (ownDescWrite b v s)

/-- A write of BCMD; `pass` says whether every read of a RECLAIM would match. -/
def State.bcmdWrite (s : State) (b v : Nat) (pass : Bool) : State :=
  s.submit { kind := .mbox, page := pgBuf b, op := bits v 31 28, table := bits v 25 24, arg := bits v 20 0, pass := pass }
def mboxWrite (b : BenchId) (v : Nat) (pass : Bool) (s : State) : State :=
  s.hubAccess (.mbox b v pass) fun s => s.hostWrite (pgBuf b) fun s => s.bcmdWrite b v pass

def mboxAlloc (b : BenchId) (pool : Fin 4) (s : State) : State := mboxWrite b (pool * 2 ^ 24 + b * 2 ^ 18) true s
def execMboxAlloc (b : BenchId) (pool : Fin 4) (s : State) : Host.Outcome State Fault Refusal := finish (mboxAlloc b pool s)
def mboxFree (b : BenchId) (handle : Nat) (s : State) : State := mboxWrite b (2 ^ 28 + handle % 2 ^ 21) true s
def execMboxFree (b : BenchId) (handle : Nat) (s : State) : Host.Outcome State Fault Refusal := finish (mboxFree b handle s)
def mboxAddref (b : BenchId) (handle : Nat) (s : State) : State := mboxWrite b (2 * 2 ^ 28 + handle % 2 ^ 21) true s
def execMboxAddref (b : BenchId) (handle : Nat) (s : State) : Host.Outcome State Fault Refusal :=
  finish (mboxAddref b handle s)
def mboxReadhdr (b : BenchId) (handle : Nat) (s : State) : State := mboxWrite b (3 * 2 ^ 28 + handle % 2 ^ 21) true s
def execMboxReadhdr (b : BenchId) (handle : Nat) (s : State) : Host.Outcome State Fault Refusal :=
  finish (mboxReadhdr b handle s)
/-- MBOX_RECLAIM: `pass` says whether every read back matches with no error (R260). -/
def mboxReclaim (b : BenchId) (pass : Bool) (s : State) : State := mboxWrite b (4 * 2 ^ 28 + b * 2 ^ 18) pass s
def execMboxReclaim (b : BenchId) (pass : Bool) (s : State) : Host.Outcome State Fault Refusal :=
  finish (mboxReclaim b pass s)
/-- MBOX_BAD_OP: OP 5 to 15 (`op` counts from 5). -/
def mboxBadOp (b : BenchId) (op : Fin 11) (s : State) : State := mboxWrite b ((5 + op) * 2 ^ 28) true s
def execMboxBadOp (b : BenchId) (op : Fin 11) (s : State) : Host.Outcome State Fault Refusal := finish (mboxBadOp b op s)

/-- DFREE_LOG_CLEAR: a host write of DFREE_LOGCTL with CLR = 1 (R254). -/
def dfreeLogClear (b : BenchId) (s : State) : State :=
  s.wordWrite (pgBuf b) Reg.BUF.DFREE_LOGCTL.off 0x80000000 fun s => s.dfreeClear b
def execDfreeLogClear (b : BenchId) (s : State) : Host.Outcome State Fault Refusal := finish (dfreeLogClear b s)

/-- BUFFER_WINDOW_ACCESS: a read of a word of BWIN_DATA, or a write of it (R262). -/
def bufferWindowAccess (b : BenchId) (k : Fin 64) (w : Option W32) (s : State) : State :=
  match w with
  | none => s.wordRead (pgBuf b) (Reg.BUF.BWIN_DATA k).off fun s => s.bwinRead b k
  | some v => s.wordWrite (pgBuf b) (Reg.BUF.BWIN_DATA k).off v fun s => s.bwinWrite b k v
def execBufferWindowAccess (b : BenchId) (k : Fin 64) (w : Option W32) (s : State) :
    Host.Outcome State Fault Refusal := finish (bufferWindowAccess b k w s)

end Sys2Proof.Machine
end

