-- ==== Sys2Proof/Machine/Tables.lean ====
section
/-! DEFINITION. The commands on table windows, the sequence window, the search mailbox, seeds, route classes and rule-set
swaps (R157, R165 to R168, R174, R181 to R184, R217 to R222, R362, R372). -/

namespace Sys2Proof.Machine

def windowPage : Window → Nat
  | .cls b => pgCls b
  | .fdb b => pgFdb b
  | .strm b => pgStrm b
  | .meter b => pgMeter b
  | .ciph c => pgCiph c

/-- The command that a write of TW_CMD on a page makes of the window's registers. -/
def State.twRead (s : State) (p v : Nat) : HostCmd :=
  { kind := .table, page := p, table := bits v 31 28, op := bits v 27 24,
    key := (List.range 14).flatMap fun k => natBE 4 (s.rd p (0x200 + 4 * k)).toNat,
    data := ((List.range 4).map fun k => (s.rd p (0x23C + 4 * k)).toNat * 2 ^ (32 * k)).sum,
    arg := (s.rd p 0x238).toNat + (s.rd p 0x24C).toNat * 2 ^ 32,
    mask := if p / 256 = 0x0C then (s.rd p 0x258).toNat else 0 }

/-- A write of TW_CMD. -/
def State.twCmd (s : State) (p v : Nat) : State := s.submit (s.twRead p v)

/-- The host writes TW_CMD of a window with a table and an operation. -/
def twWrite (w : Window) (table : Fin 16) (op : Nat) (s : State) : State :=
  let v := table * 2 ^ 28 + op * 2 ^ 24
  s.wordWrite (windowPage w) Reg.CLS.TW_CMD.off (BitVec.ofNat 32 v) fun s => s.twCmd (windowPage w) v

def twInsert (w : Window) (table : Fin 16) (s : State) : State := twWrite w table 0 s
def execTwInsert (w : Window) (table : Fin 16) (s : State) : Host.Outcome State Fault Refusal := finish (twInsert w table s)
def twDelete (w : Window) (table : Fin 16) (s : State) : State := twWrite w table 1 s
def execTwDelete (w : Window) (table : Fin 16) (s : State) : Host.Outcome State Fault Refusal := finish (twDelete w table s)
def twSearch (w : Window) (table : Fin 16) (s : State) : State := twWrite w table 2 s
def execTwSearch (w : Window) (table : Fin 16) (s : State) : Host.Outcome State Fault Refusal := finish (twSearch w table s)
def twRead (w : Window) (table : Fin 16) (s : State) : State := twWrite w table 3 s
def execTwRead (w : Window) (table : Fin 16) (s : State) : Host.Outcome State Fault Refusal := finish (twRead w table s)
def twWriteEntry (w : Window) (table : Fin 16) (s : State) : State := twWrite w table 4 s
def execTwWrite (w : Window) (table : Fin 16) (s : State) : Host.Outcome State Fault Refusal :=
  finish (twWriteEntry w table s)
/-- TW_BAD_OP: a TW_CMD write whose OP is 5 to 15 (`op` counts from 5). -/
def twBadOp (w : Window) (table : Fin 16) (op : Fin 11) (s : State) : State := twWrite w table (5 + op) s
def execTwBadOp (w : Window) (table : Fin 16) (op : Fin 11) (s : State) : Host.Outcome State Fault Refusal :=
  finish (twBadOp w table op s)

/-- A key-slot WRITE: the host sets TW_DATA0.LOAD and writes TW_CMD (R372, R400). -/
def keySlotWrite (c : ClusterId) (load : Bool) (s : State) : State :=
  let p := pgCiph c
  let v := 2 * 2 ^ 28 + 4 * 2 ^ 24
  if s.waits p then
    (s.wordWrite p 0x23C (BitVec.ofNat 32 (b2n load * 2 ^ 31)) id 0x7FFFFFFF).wordWrite p Reg.CIPH.TW_CMD.off (BitVec.ofNat 32 v) id
  else s.hostWrite p fun s => (s.setFld p ⟨0x23C, 31, 31⟩ (b2n load)).twCmd p v
def keySlotLoad (c : ClusterId) (s : State) : State := keySlotWrite c true s
def execKeySlotLoad (c : ClusterId) (s : State) : Host.Outcome State Fault Refusal := finish (keySlotLoad c s)
def keySlotZero (c : ClusterId) (s : State) : State := keySlotWrite c false s
def execKeySlotZero (c : ClusterId) (s : State) : Host.Outcome State Fault Refusal := finish (keySlotZero c s)

/-! ### The sequence window (R362) -/

/-- A write of SQ_CMD. -/
def State.sqCmd (s : State) (p v : Nat) : State :=
  s.submit { kind := .sq, page := p, op := bits v 31 28, arg := (s.rd p Reg.STRM.SQ_IDX.off).toNat,
             data := ((List.range 4).map fun k => (s.rd p (Reg.STRM.SQ_DATA k).off).toNat * 2 ^ (32 * k)).sum }
def sqWriteOp (b : BenchId) (op : Nat) (s : State) : State :=
  s.wordWrite (pgStrm b) Reg.STRM.SQ_CMD.off (BitVec.ofNat 32 (op * 2 ^ 28)) fun s => s.sqCmd (pgStrm b) (op * 2 ^ 28)
def sqRead (b : BenchId) (s : State) : State := sqWriteOp b 0 s
def execSqRead (b : BenchId) (s : State) : Host.Outcome State Fault Refusal := finish (sqRead b s)
def sqWrite (b : BenchId) (s : State) : State := sqWriteOp b 1 s
def execSqWrite (b : BenchId) (s : State) : Host.Outcome State Fault Refusal := finish (sqWrite b s)
def sqReset (b : BenchId) (s : State) : State := sqWriteOp b 2 s
def execSqReset (b : BenchId) (s : State) : Host.Outcome State Fault Refusal := finish (sqReset b s)
/-- SQ_BAD_OP: OP 3 to 15 (`op` counts from 3). -/
def sqBadOp (b : BenchId) (op : Fin 13) (s : State) : State := sqWriteOp b (3 + op) s
def execSqBadOp (b : BenchId) (op : Fin 13) (s : State) : Host.Outcome State Fault Refusal := finish (sqBadOp b op s)

/-! ### The search mailbox (R220 to R222) -/

/-- A write of SRCH_CMD. -/
def State.srchCmd (s : State) (p v : Nat) : State :=
  s.submit { kind := if bits v 31 30 = 2 then .flush else .walk, page := p, op := bits v 31 30, mask := bits v 23 16,
             arg := (s.rd p Reg.FDB.SRCH_SEL.off).toNat + (s.rd p Reg.FDB.SRCH_DOM.off).toNat * 2 ^ 32 }
def searchWrite (b : BenchId) (v : Nat) (s : State) : State :=
  s.wordWrite (pgFdb b) Reg.FDB.SRCH_CMD.off (BitVec.ofNat 32 v) fun s => s.srchCmd (pgFdb b) v
def searchFirst (b : BenchId) (s : State) : State := searchWrite b 0 s
def execSearchFirst (b : BenchId) (s : State) : Host.Outcome State Fault Refusal := finish (searchFirst b s)
def searchNext (b : BenchId) (s : State) : State := searchWrite b (2 ^ 30) s
def execSearchNext (b : BenchId) (s : State) : Host.Outcome State Fault Refusal := finish (searchNext b s)
/-- SEARCH_FLUSH: a FLUSH of the benches in `mask`. -/
def searchFlush (b : BenchId) (mask : Byte) (s : State) : State := searchWrite b (2 ^ 31 + mask.toNat * 2 ^ 16) s
def execSearchFlush (b : BenchId) (mask : Byte) (s : State) : Host.Outcome State Fault Refusal := finish (searchFlush b mask s)
def searchReserved (b : BenchId) (s : State) : State := searchWrite b (3 * 2 ^ 30) s
def execSearchReserved (b : BenchId) (s : State) : Host.Outcome State Fault Refusal := finish (searchReserved b s)

/-- The result of a page's walk or flush becomes final (R222). -/
def State.searchFinal (s : State) (b : Nat) : State :=
  match (s.fdbAt b).walk with
  | none => s
  | some l =>
    let p := pgFdb b
    let lost := b2n (s.fdbAt b).lost * 2 ^ 27
    let s1 := s.onFdb b fun f => { f with walk := none, lost := false }
    let s2 := s1.wr p 0x30C (BitVec.ofNat 32 (l.getD 0 0 + lost))
    let s3 := (s2.wr p 0x310 (BitVec.ofNat 32 (l.getD 1 0))).wr p 0x314 (BitVec.ofNat 32 (l.getD 2 0))
    let s4 := (s3.wr p 0x318 (BitVec.ofNat 32 (l.getD 3 0))).wr p 0x31C (BitVec.ofNat 32 (l.getD 4 0))
    s4.raise p 6

/-! ### Seeds (R157) -/

/-- The bench whose tables and page a seed belongs to, and the table. -/
def seedOf : SeedTab → Nat × HKind
  | .bank t i => (4 * teamNo t, .bank i)
  | .route t => (4 * teamNo t, .route)
  | .sid t => (4 * teamNo t, .sid)
  | .mac b => (b.val, .mac)

/-- A write of a SEED register: ignored while its table, in any bench that holds it, has an entry. -/
def State.seedWrite (s : State) (b : Nat) (k : HKind) (w : Nat) (v : W32) : State :=
  let (p, o) := seedAt b k
  let benches := if k = .mac then [b] else teamBenches (benchTeam b)
  if benches.all fun x => ((s.tabsAt x).hget k).empty then s.wrL p (o + 4 * w) v
  else s.raise p (if k = .sid then 4 else 7)

def seedWrite (k : SeedTab) (w : Fin 4) (v : W32) (s : State) : State :=
  let (b, h) := seedOf k
  s.wordWrite (seedAt b h).1 ((seedAt b h).2 + 4 * w) v fun s => s.seedWrite b h w v
def execSeedWrite (k : SeedTab) (w : Fin 4) (v : W32) (s : State) : Host.Outcome State Fault Refusal :=
  finish (seedWrite k w v s)

/-! ### Route classes (R174) -/

/-- A write of RTCLASS. -/
def State.rtclassWrite (s : State) (t c : Nat) (v : W32) : State :=
  s.acceptWrite { kind := .rtclass, page := pgCls (4 * t), table := c, data := (v &&& 0xC0FF0000).toNat }
def rtclassWrite (t : Team) (c : Fin 16) (v : W32) (s : State) : State :=
  s.wordWrite (pgCls (4 * teamNo t)) (Reg.CLS.RTCLASS c).off v fun s => s.rtclassWrite (teamNo t) c v
def execRtclassWrite (t : Team) (c : Fin 16) (v : W32) (s : State) : Host.Outcome State Fault Refusal :=
  finish (rtclassWrite t c v s)

/-! ### Swaps (R165 to R168) -/

/-- A swap of a team copy is accepted. -/
def State.swapAccept (s : State) (t : Nat) (both : Bool) : State :=
  let p := pgCls (4 * t)
  ((s.putSwap t (some { tick := s.gridTick, left := teamBenches t, both := both })).setFld p Reg.CLS.SWAP_STAT_STATE 1).wr p
    Reg.CLS.SWAP_TICK.off (BitVec.ofNat 32 s.gridTick)

/-- A write of SWAP with REQ = 1. -/
def State.swapRequest (s : State) (t : Nat) (copy : Bool) : State :=
  let p := pgCls (4 * t)
  let o := 1 - t
  let both := copy && s.hubUp o
  let s1 := if copy ∧ !s.hubUp o then s.hubMissing o true else s
  if (s.swapAt t).isSome ∨ (both ∧ (s.swapAt o).isSome) then
    ((s1.bump p Reg.CLS.SWAP_REJECT).setFld p Reg.CLS.SWAP_STAT_REJECT 1).raise p 6
  else
    let s2 := s1.swapAccept t both
    if both then (s2.hubBack o).swapAccept o both else s2

/-- SWAP_REQUEST: a host write of SWAP with REQ = 1. -/
def swapRequest (t : Team) (copy : Bool) (s : State) : State :=
  s.wordWrite (pgCls (4 * teamNo t)) Reg.CLS.SWAP.off (BitVec.ofNat 32 (2 ^ 31 + b2n copy * 2 ^ 30)) fun s =>
    s.swapRequest (teamNo t) copy
def execSwapRequest (t : Team) (copy : Bool) (s : State) : Host.Outcome State Fault Refusal := finish (swapRequest t copy s)

/-- A bench commits its team's swap at the edge ending tick `n` (R55 order 6). -/
def State.swapCommit (s : State) (b n : Nat) : State :=
  let t := benchTeam b
  match s.swapAt t with
  | none => s
  | some w =>
    if w.left.contains b ∧ w.tick ≤ n then
      let left := w.left.filter fun x => x != b
      let a := 1 - (s.tabsAt b).active
      let s1 := ((s.imageTabs b fun x => { x with active := a }).onTabs b fun x => { x with active := a }).putSwap t
        (some { w with left := left })
      let p := pgCls (4 * t)
      if left.isEmpty then
        (s1.setFld p Reg.CLS.SWAP_STAT_STATE 2).setFld p Reg.CLS.SWAP_STAT_ACTIVE (s1.tabsAt b).active
      else s1
    else s

/-- The drain of a team copy's swap completes at an edge at which PDRAIN of the old epoch is 0 in every bench (R166). -/
def State.swapDrain (s : State) (t : Nat) : State :=
  let p := pgCls (4 * t)
  let old := 1 - s.fld p Reg.CLS.SWAP_STAT_ACTIVE
  match s.swapAt t with
  | some w =>
    if w.left.isEmpty ∧ (teamBenches t).all fun b => s.fld (pgCls b) (Reg.CLS.PDRAIN old) == 0 then
      (((s.putSwap t none).setFld p Reg.CLS.SWAP_STAT_STATE 0).setFld p Reg.CLS.SWAP_STAT_DONE 1).raise p 5
    else s
  | none => s

end Sys2Proof.Machine
end

