-- ==== Sys2Proof/Machine/Fdb.lean ====
section
/-! DEFINITION. Learning, the flap lock, aging and flushing of a bench's MAC table, the signature scrubber, and the logs
that a read pops (R189, R197 to R208, R215, R216). -/

namespace Sys2Proof.Machine

/-! ### MAC entries (R193, R194) -/

/-- The lookup bytes of a domain and address. -/
def macKey (dom addr : Nat) : List Byte := natBE 2 dom ++ natBE 6 addr
def macLock (v : Nat) : Bool := bit v 30
def macHit (v : Nat) : Bool := bit v 27
def macAge (v : Nat) : Nat := bits v 26 23
/-- The port of a dynamic entry. -/
def macPort (v : Nat) : Nat := bits v 8 0

def State.macTab (s : State) (b : Nat) : HTab := (s.tabsAt b).mac

/-- Change the entry of a key where the table holds it. -/
def HTab.alter (t : HTab) (sp : HSpec) (key : List Byte) (f : Nat → Nat) : HTab :=
  match t.find sp key false with
  | some (pos, e) => t.writeAt pos (some { e with data := f e.data })
  | none => t

/-- Carry out one learn (R199, R201, R202), with the keys made so far at this edge. A learn of the entry's own port changes no
more than HIT. -/
def learnApply (sp : HSpec) (a : HTab × List (List Byte)) (o : LearnOp) : HTab × List (List Byte) :=
  let (t, made) := a
  let key := macKey o.dom o.addr
  match t.find sp key false with
  | some (pos, e) =>
    let v := if bits e.data 8 0 = o.port then e.data else setBits e.data 11 0 o.port
    let v1 := if o.lock then setBits v 30 30 1 else v
    let v2 := if o.hit && made.contains key then setBits v1 27 27 1 else v1
    (t.writeAt pos (some { e with data := v2 }), made)
  | none => ((t.add sp { key := key, data := b2n o.lock * 2 ^ 30 + o.port }).tab, key :: made)

/-- The MAC table as committed, with the learns of the tick (R199). -/
def State.learnTab (s : State) (b : Nat) : HTab :=
  ((s.fdbAt b).ops.foldl (learnApply (s.hspec b .mac)) (s.macTab b, [])).1

/-! ### Learn requests (R198 to R202) -/

def State.learnCount (s : State) (b c : Nat) : State := s.bump (pgFdb b) c
def State.learnDo (s : State) (b : Nat) (o : LearnOp) : State := s.onFdb b fun f => { f with ops := f.ops ++ [o] }

/-- LEARN_EN of a port, on its own bench's page (R198). -/
def State.learnEn (s : State) (port : Nat) : Bool :=
  s.flag (pgFdb (portBench port)) (Reg.FDB.PORTCFG_LEARN_EN (portLocal port))

/-- The request is one that the learn unit ignores (R198). -/
def State.learnIgnored (s : State) (b : Nat) (r : LearnReq) : Bool :=
  let e := (s.tabsAt b).dget .dom r.dom
  bit r.addr 40 || r.addr == 0 || !s.learnEn r.port || !bit e 63 || !bit e 62

/-- The moves that the tracker keeps of an address. -/
def FdbSt.movesOf (f : FdbSt) (dom addr : Nat) : List (Nat × Nat) :=
  ((f.tracker.find? fun e => e.1 == dom && e.2.1 == addr).map fun e => e.2.2).getD []

/-- The tick of the last move of a tracked address. -/
def lastMove (e : Nat × Nat × List (Nat × Nat)) : Nat := (e.2.2.getLast?.map Prod.fst).getD 0

/-- The entry whose last move is oldest. -/
def oldestMove : List (Nat × Nat × List (Nat × Nat)) → Option (Nat × Nat × List (Nat × Nat))
  | [] => none
  | e :: t => match oldestMove t with
    | some x => if lastMove x < lastMove e then some x else some e
    | none => some e

/-- The tracker records a move of tick `t` from a port (R202). -/
def State.trackMove (s : State) (b t dom addr before : Nat) : State :=
  let f := s.fdbAt b
  let old := f.movesOf dom addr
  let mine := (dom, addr, old.drop (old.length - 3) ++ [(t, before)])
  let rest := f.tracker.filter fun e => !(e.1 == dom && e.2.1 == addr)
  if !old.isEmpty then s.putFdb b { f with tracker := rest ++ [mine] }
  else
    let live := rest.filter fun e => decide (t ≤ lastMove e + 63)
    if live.length < 64 then s.putFdb b { f with tracker := live ++ [mine] }
    else match oldestMove live with
      | some x => (s.putFdb b { f with tracker := live.filter (fun e => e != x) ++ [mine] }).learnCount b Reg.FDB.TRACK_LOST
      | none => s

/-- A station's move to another port (R202): what a lock counts and records follows at its commit. -/
def State.learnMove (s : State) (b : Nat) (r : LearnReq) (before : Nat) : State :=
  let t := s.localTick b
  let f := s.fdbAt b
  let op : LearnOp := { dom := r.dom, addr := r.addr, port := r.port, hit := true }
  if s.flag (pgFdb b) Reg.FDB.LCFG_FLAP_EN ∧ f.tracking then
    match f.movesOf r.dom r.addr with
    | [(t0, p0), _, _, _] =>
      if t ≤ t0 + 63 then
        s.learnDo b { op with port := p0, lock := true, flap := some (r.port, t) }
      else ((s.learnDo b op).learnCount b Reg.FDB.MOVES).trackMove b t r.dom r.addr before
    | _ => ((s.learnDo b op).learnCount b Reg.FDB.MOVES).trackMove b t r.dom r.addr before
  else (s.learnDo b op).learnCount b Reg.FDB.MOVES

/-- The outcome of R199. -/
def State.learnHandle (s : State) (b : Nat) (r : LearnReq) : State :=
  let sp := s.hspec b .mac
  let t := s.learnTab b
  match t.find sp (macKey r.dom r.addr) false with
  | none =>
    if (t.add sp { key := macKey r.dom r.addr }).status = 7 then
      (s.learnCount b Reg.FDB.LEARN_FULL).raise (pgFdb b) 3
    else (s.learnDo b { dom := r.dom, addr := r.addr, port := r.port }).learnCount b Reg.FDB.LEARNS
  | some (_, e) =>
    if macStatic e.data then s.learnCount b Reg.FDB.LEARN_STATIC
    else if macPort e.data = r.port then
      (s.learnDo b { dom := r.dom, addr := r.addr, port := r.port, hit := true }).learnCount b Reg.FDB.LEARN_HITS
    else if macLock e.data then s.learnCount b Reg.FDB.LOCK_REFUSED
    else s.learnMove b r (macPort e.data)

/-- LEARN_REQUEST: the learn unit of a bench handles its oldest request. -/
def learnRequest (b : BenchId) (s : State) : State :=
  match (s.fdbAt b).reqs with
  | [] => s
  | r :: rest =>
    let s1 := s.onFdb b fun f => { f with reqs := rest }
    if 512 ≤ (s.fdbAt b).handled then s1.learnCount b Reg.FDB.LEARN_OVF
    else
      let s2 := s1.onFdb b fun f => { f with handled := f.handled + 1 }
      if s2.learnIgnored b r then s2.learnCount b Reg.FDB.LEARN_IGNORED
      else if r.bad then s2.learnCount b Reg.FDB.LEARN_BADFRAME
      else s2.learnHandle b r
def execLearnRequest (b : BenchId) (s : State) : Host.Outcome State Fault Refusal := finish (learnRequest b s)

/-- A write of LCFG: FLAP_EN going from 0 to 1 starts the tracker empty at the next local edge (R202). -/
def State.lcfgFdbWrite (s : State) (b : Nat) (v : W32) : State :=
  let s1 := s.plainWrite (pgFdb b) Reg.FDB.LCFG.off 0 v
  if !s.flag (pgFdb b) Reg.FDB.LCFG_FLAP_EN ∧ bit v.toNat 29 then
    s1.onFdb b fun f => { f with tracker := [], tracking := false }
  else s1

/-- FLAP_EN_WRITE: a host write of LCFG. -/
def flapEnWrite (b : BenchId) (v : W32) (s : State) : State :=
  s.wordWrite (pgFdb b) Reg.FDB.LCFG.off v fun s => s.lcfgFdbWrite b v
def execFlapEnWrite (b : BenchId) (v : W32) (s : State) : Host.Outcome State Fault Refusal := finish (flapEnWrite b v s)

/-! ### Aging (R205, R206) -/

/-- DIV and BATCH as they act. -/
def State.ageDiv (s : State) (b : Nat) : Nat :=
  let d := s.fld (pgFdb b) Reg.FDB.AGECFG_DIV
  if d = 0 then 65536 else d
def State.ageBatch (s : State) (b : Nat) : Nat :=
  let n := s.fld (pgFdb b) Reg.FDB.AGECFG_BATCH
  if n = 0 then 256 else n

/-- A write of AGECFG (R205). -/
def State.agecfgWrite (s : State) (b : Nat) (v : W32) : State :=
  let p := pgFdb b
  let s1 := s.plainWrite p Reg.FDB.AGECFG.off 0 v
  let on := !s.flag p Reg.FDB.AGECFG_EN && s1.flag p Reg.FDB.AGECFG_EN
  if on ∨ s1.ageDiv b ≠ s.ageDiv b ∨ s1.ageBatch b ≠ s.ageBatch b then
    s1.onFdb b fun f => { f with wait := s1.ageDiv b }
  else s1

/-- AGECFG_WRITE: a host write of AGECFG. -/
def agecfgWrite (b : BenchId) (v : W32) (s : State) : State :=
  s.wordWrite (pgFdb b) Reg.FDB.AGECFG.off v fun s => s.agecfgWrite b v
def execAgecfgWrite (b : BenchId) (v : W32) (s : State) : Host.Outcome State Fault Refusal := finish (agecfgWrite b v s)

/-- Positions of a MAC table: its slots, then its stash (R205). -/
def macPositions : Nat := 262208

/-- AGING_VISIT: the scanner of a bench visits BATCH positions in the tick that a visit step falls in (R205). -/
def agingVisit (b : BenchId) (s : State) : State :=
  let f := s.fdbAt b
  if s.flag (pgFdb b) Reg.FDB.AGECFG_EN ∧ f.wait = 0 then
    let n := s.ageBatch b
    s.putFdb b { f with
      wait := s.ageDiv b,
      pos := (f.pos + n) % macPositions,
      visited := f.visited ++ (List.range n).map fun i => (f.pos + i) % macPositions }
  else s
def execAgingVisit (b : BenchId) (s : State) : Host.Outcome State Fault Refusal := finish (agingVisit b s)

/-- The entry at a position of R205. -/
def HTab.atPos (t : HTab) (i : Nat) : Option HEntry := if i < 262144 then t.slot i else t.stash[i - 262144]?

/-! ### The edge (R55 orders 1 and 2, R201, R206, R208) -/

/-- The hits of a tick, merged ahead of order 1 (R206): learns of entries the table holds, and destination hits. -/
def State.mergeHits (s : State) (b : Nat) : State :=
  let f := s.fdbAt b
  let sp := s.hspec b .mac
  let keys := ((f.ops.filter fun o => o.hit).map fun o => (o.dom, o.addr)) ++ f.hits
  s.onTabs b fun t => { t with
    mac := keys.foldl (fun h k => h.alter sp (macKey k.1 k.2) fun v => if macStatic v then v else setBits v 27 27 1) t.mac }

/-- What a visit leaves of an entry (R206): none when it ages out. -/
def aged (limit v : Nat) : Option Nat :=
  if macHit v then some (setBits v 27 23 0)
  else if max 1 limit ≤ macAge v + 1 then none
  else some (setBits v 26 23 (macAge v + 1))

/-- One visited key takes its new state. -/
def State.ageKey (s : State) (b : Nat) (e : HEntry) : State :=
  if macStatic e.data ∨ macLock e.data then s
  else
    let sp := s.hspec b .mac
    match aged (s.fld (pgFdb b) Reg.FDB.AGECFG_LIMIT) e.data with
    | some v => s.onTabs b fun t => { t with mac := t.mac.alter sp e.key fun _ => v }
    | none => (s.onTabs b fun t => { t with mac := (t.mac.delete sp e.key false).tab }).learnCount b Reg.FDB.AGED

/-- Order 1 at a bench's edge ending tick `n`: aging, FLUSH_ON_DOWN, and slots found uncorrectable. -/
def State.removals (s : State) (b n : Nat) : State :=
  let f := s.fdbAt b
  let seen := f.visited.filterMap fun i => (s.macTab b).atPos i
  let s1 := s.each seen fun s e => s.ageKey b e
  let due := (f.flushPorts.filter fun e => decide (e.2 ≤ n)).map Prod.fst
  let (h, k) := (s1.macTab b).removeAll fun e =>
    !macStatic e.data && !macLock e.data && due.contains (macPort e.data)
  let s2 := (s1.onTabs b fun t => { t with mac := h }).addCtr (pgFdb b) Reg.FDB.FLUSHED k
  let s3 := s2.each f.badSlots fun s e =>
    let kind : HKind := match e.1 with
      | 0 => .bank 0
      | 1 => .bank 1
      | 2 => .route
      | 3 => .sid
      | _ => .mac
    let benches := if kind = .mac then [b] else teamBenches (benchTeam b)
    s.each benches fun s x => s.onTabs x fun t => t.hput kind ((t.hget kind).delete (s.hspec x kind) e.2 (kind.wideKey e.2)).tab
  s3.onFdb b fun f => { f with
    visited := [], badSlots := [], flushPorts := f.flushPorts.filter fun e => !decide (e.2 ≤ n) }

/-- The commit of a move that locked its entry (R202). -/
def State.flapCommit (s : State) (b : Nat) (o : LearnOp) : State :=
  match o.flap with
  | none => s
  | some (refused, tick) =>
    let s1 := (s.learnCount b Reg.FDB.LOCKS).raise (pgFdb b) 2
    if (s1.fdbAt b).flapLog.length < 16 then
      s1.onFdb b fun f => { f with flapLog := f.flapLog ++ [(o.port, refused, o.dom, o.addr, tick)] }
    else s1.learnCount b Reg.FDB.FLAP_LOST

/-- Order 2: the tick's learns and moves. -/
def State.learnsCommit (s : State) (b : Nat) : State :=
  let h := s.learnTab b
  let s1 := (s.putHash b .mac h).each (s.fdbAt b).ops fun s o => s.flapCommit b o
  s1.onFdb b fun f => { f with ops := [], hits := [], handled := 0 }

/-- The FDB part of a bench's edge ending tick `n`. -/
def State.fdbEdge (s : State) (b n : Nat) : State :=
  let s1 := ((s.mergeHits b).removals b n).learnsCommit b
  s1.onFdb b fun f => { f with
    tracking := f.tracking || s.flag (pgFdb b) Reg.FDB.LCFG_FLAP_EN,
    wait := f.wait - 1 }

/-! ### The signature scrubber (R215, R216) -/

/-- The table, block and entry bytes of a block in the scrubber's order. -/
def sigTable (k : Nat) : DKind × DKind × Nat × Nat :=
  if k < 256 then (.dom, .domSig, k, 0) else if k < 320 then (.flood, .floodSig, k - 256, 1) else (.ctx, .ctxSig, k - 320, 2)

/-- The signature of a block as committed (R215). -/
def TabSt.signature (t : TabSt) (k : Nat) : Nat :=
  let (d, _, blk, _) := sigTable k
  crc32c ((List.range 256).flatMap fun i => natBE (d.width / 8) (t.dget d (256 * blk + i)))

/-- SIGNATURE_CHECK: a team's scrubber checks its next block (R216). -/
def signatureCheck (t : Team) (s : State) : State :=
  let n := teamNo t
  let p := pgFdb (4 * n)
  let g := s.sigAt n
  if s.flag p Reg.FDB.SIGCFG_EN ∧ g.wait = 0 ∧ !(s.teamAt n).failed then
    let k := g.pos
    let (_, sd, blk, no) := sigTable k
    let tab := s.tabsAt (4 * n)
    let bad := tab.signature k != tab.dget sd blk
    let report := bad && g.differed.contains k && !g.reported.contains k
    let full := decide (16 ≤ g.log.length)
    let s1 := (s.putSig n { g with
      pos := (k + 1) % 4416,
      wait := max 1 (s.fld p Reg.FDB.SIGCFG_PERIOD),
      differed := if bad then k :: g.differed.filter (fun x => x != k) else g.differed.filter fun x => x != k,
      reported := if report then k :: g.reported else g.reported,
      log := if report ∧ !full then g.log ++ [(no, blk)] else g.log }).bump p Reg.FDB.SIG_BLOCKS
    if report then
      let s2 := (s1.bump p Reg.FDB.SIG_MISMATCH).raise p 8
      if full then s2.bump p Reg.FDB.SIG_LOST else s2
    else s1
  else s
def execSignatureCheck (t : Team) (s : State) : Host.Outcome State Fault Refusal := finish (signatureCheck t s)

/-! ### Logs that a read pops -/

/-- A read of FAIL_LOG of a window page (R184, R185). -/
def State.failLogPop (s : State) (p : Nat) : W32 × State :=
  match s.failLogAt p with
  | [] => (0, s)
  | r :: rest => (BitVec.ofNat 32 r, s.putFailLog p rest)
def failLogRead (w : Window) (s : State) : State :=
  s.wordRead (windowPage w) Reg.CLS.FAIL_LOG.off fun s => s.failLogPop (windowPage w)
def execFailLogRead (w : Window) (s : State) : Host.Outcome State Fault Refusal := finish (failLogRead w s)

/-- A read of FLAP_LOG0 (R223). -/
def State.flapLogPop (s : State) (b : Nat) : W32 × State :=
  match (s.fdbAt b).flapLog with
  | [] => (0, s)
  | (first, refused, dom, addr, tick) :: rest =>
    let p := pgFdb b
    let s1 := s.onFdb b fun f => { f with flapLog := rest }
    let s2 := s1.wr p Reg.FDB.FLAP_LOG1.off (BitVec.ofNat 32 (dom * 2 ^ 16 + addr / 2 ^ 32 % 2 ^ 16))
    let s3 := (s2.wr p Reg.FDB.FLAP_LOG2.off (BitVec.ofNat 32 addr)).wr p Reg.FDB.FLAP_LOG3.off (BitVec.ofNat 32 tick)
    (BitVec.ofNat 32 (2 ^ 31 + first * 2 ^ 16 + refused), s3)
def flapLogRead (b : BenchId) (s : State) : State :=
  s.wordRead (pgFdb b) Reg.FDB.FLAP_LOG0.off fun s => s.flapLogPop b
def execFlapLogRead (b : BenchId) (s : State) : Host.Outcome State Fault Refusal := finish (flapLogRead b s)

/-- A read of SIG_LOG of a team (R223). -/
def State.sigLogPop (s : State) (t : Nat) : W32 × State :=
  match (s.sigAt t).log with
  | [] => (0, s)
  | (no, blk) :: rest => (BitVec.ofNat 32 (2 ^ 31 + no * 2 ^ 28 + blk), s.onSig t fun g => { g with log := rest })
def sigLogRead (t : Team) (s : State) : State :=
  s.wordRead (pgFdb (4 * teamNo t)) Reg.FDB.SIG_LOG.off fun s => s.sigLogPop (teamNo t)
def execSigLogRead (t : Team) (s : State) : Host.Outcome State Fault Refusal := finish (sigLogRead t s)

/-- A read of PN_LOG of a cluster. -/
def State.pnLogPop (s : State) (c : Nat) : W32 × State :=
  match (s.ciphAt c).pnLog with
  | [] => (0, s)
  | r :: rest => (BitVec.ofNat 32 r, s.onCiph c fun k => { k with pnLog := rest })
def pnLogRead (c : ClusterId) (s : State) : State :=
  s.wordRead (pgCiph c) Reg.CIPH.PN_LOG.off fun s => s.pnLogPop c
def execPnLogRead (c : ClusterId) (s : State) : Host.Outcome State Fault Refusal := finish (pnLogRead c s)

/-! ### Mirror settings (R297) -/

/-- A write of a MIRR register. -/
def State.mirrWrite (s : State) (off : Nat) (v : W32) : State :=
  let s1 := s.plainWrite pgMirr off 0 v
  if rwBits pgMirr off = 0 then s1
  else s1.each (List.range 8) fun s b => s.onMirror b fun m => { m with pend := m.pend ++ [(s.gridTick, off, s1.rd pgMirr off)] }

/-- MIRR_WRITE: a host write of the MIRR register at word `k` of the page. -/
def mirrWrite (k : Fin 1024) (v : W32) (s : State) : State := s.hostWrite pgMirr fun s => s.mirrWrite (4 * k) v
def execMirrWrite (k : Fin 1024) (v : W32) (s : State) : Host.Outcome State Fault Refusal := finish (mirrWrite k v s)

/-- A bench commits the MIRR writes of ticks up to `n`; MCOMMIT tells the last that every bench has committed. -/
def State.mirrCommit (s : State) (b n : Nat) : State :=
  let due := (s.mirrorAt b).pend.filter fun e => decide (e.1 ≤ n)
  if due.isEmpty then s
  else
    let s1 := s.onMirror b fun m => {
      mirr := due.foldl (fun t e => Tab.set (fun _ => (0 : W32)) t e.2.1 e.2.2) m.mirr,
      pend := m.pend.filter fun e => !decide (e.1 ≤ n) }
    s1.each due fun s e =>
      let waits := (List.range 8).any fun x =>
        !(s.teamAt (benchTeam x)).failed && (s.mirrorAt x).pend.any fun y => decide (y.1 ≤ e.1)
      if waits then s else s.wr pgMirr Reg.MIRR.MCOMMIT.off (BitVec.ofNat 32 e.1)

end Sys2Proof.Machine
end

