-- ==== Sys2Proof/Machine/Crucible.lean ====
section
/-! DEFINITION. The crucible (chapter 12): slabs, moves and returns, retry windows, ECC, training, retirement, frequency
points, half failure and the arming of the table image. -/

namespace Sys2Proof.Machine

/-! ### Channels and halves -/

/-- CH_STAT.STATE: 0 OFF, 1 TRAINING, 2 RUN, 3 RETRAIN, 4 SREF, 5 RETIRED (R420). -/
def State.chState (s : State) (c : Nat) : Nat := s.fld (pgChan c) Reg.CRUCC.CH_STAT_STATE
def State.setCh (s : State) (c v : Nat) : State := s.setFld (pgChan c) Reg.CRUCC.CH_STAT_STATE v
/-- HSTAT.STATE: 0 OFF, 1 TRAINING, 2 RUN, 3 SREF, 4 FAILED (R434). -/
def State.halfState (s : State) (t : Nat) : Nat := s.fld (pgHalf t) Reg.CRUCH.HSTAT_STATE
def State.setHalf (s : State) (t v : Nat) : State := s.setFld (pgHalf t) Reg.CRUCH.HSTAT_STATE v
def State.chanCount (s : State) (c k : Nat) (n : Nat := 1) : State := s.addCtr (pgChan c) k n
def State.halfCount (s : State) (t k : Nat) (n : Nat := 1) : State := s.addCtr (pgHalf t) k n
/-- The pseudo-channels of a team. -/
def teamChans (t : Nat) : List Nat := (List.range 16).map fun i => 16 * t + i
/-- The queue keys of a team's benches that the state lists. -/
def State.teamQueues (s : State) (t : Nat) : List Nat :=
  (s.queue.map Prod.fst).filter fun k => k / 4096 == t

/-- Free spill slabs of a pseudo-channel (R403, R410). -/
def State.freeSlabs (s : State) (c : Nat) : Nat :=
  let h := s.chanAt c
  if s.chState c = 0 ∨ s.chState c = 5 then 0 else (258048 - h.fresh) + h.freed.length
/-- Crucible descriptors in use of a half (R411). -/
def State.cdescUsed (s : State) (t : Nat) : Nat := ((s.teamQueues t).map fun k => (s.queueAt k).mid.length).sum

/-- Bank and row of a unit address by ADDR_ORDER (R404). -/
def bankRow (order u : Nat) : Nat × Nat :=
  match order with
  | 0 => (bits u 8 5, bits u 23 9)
  | 1 => (4 * bits u 1 0 + bits u 8 7, bits u 23 9)
  | 2 => (bits u 23 20, bits u 19 5)
  | _ => (bits u 8 5 ^^^ bits u 12 9, bits u 23 9)

/-- One command at a unit address: served in an open row, or after opening it (R415, R433). -/
def State.access (s : State) (c u : Nat) : State :=
  let (b, r) := bankRow (s.fld (pgChan c) Reg.CRUCC.CH_CFG_ADDR_ORDER) u
  let h := s.chanAt c
  if Tab.get (fun _ => none) h.rows b = some r then s.chanCount c Reg.CRUCC.ROW_HITS
  else (s.onChan c fun h => { h with rows := Tab.set (fun _ => none) h.rows b (some r) }).chanCount c Reg.CRUCC.ACTIVATES

/-- Commands in a list of records. -/
def commands (l : List RetryRec) : Nat := (l.map fun r => r.units.length).sum

/-- The first `n` commands of a list of records, and those after them. -/
def leaveWindow (n : Nat) : List RetryRec → List RetryRec × List RetryRec
  | [] => ([], [])
  | r :: t =>
    if n = 0 then ([], r :: t)
    else if r.units.length ≤ n then
      let (a, b) := leaveWindow (n - r.units.length) t
      (r :: a, b)
    else ([{ r with units := r.units.take n }], { r with units := r.units.drop n } :: t)

/-- The commands of records reach their banks in order. -/
def State.accessAll (s : State) (c : Nat) (l : List RetryRec) : State :=
  s.each (l.flatMap fun r => r.units) fun s u => s.access c u

/-- A pseudo-channel in RUN issues what waits, as far as its retry window of 1,024 commands has room (R417); none during a
frequency change (R425). -/
def State.serve (s : State) (c : Nat) : State :=
  let h := s.chanAt c
  if s.chState c ≠ 2 ∨ s.phy.change.isSome ∨ h.waiting.isEmpty then s
  else
    let (out, rest) := leaveWindow (1024 - commands h.retry) h.waiting
    (s.putChan c { h with retry := h.retry ++ out, waiting := rest }).accessAll c out

/-- Request commands at unit addresses of a pseudo-channel for a copy: they wait, and enter its retry window when they are
issued (R417, R420). One that is OFF or RETIRED takes none. -/
def State.issue (s : State) (c : Nat) (write : Bool) (k seq : Nat) (us : List Nat) : State :=
  if us.isEmpty ∨ s.chState c = 0 ∨ s.chState c = 5 then s
  else (s.onChan c fun h => { h with
    waiting := h.waiting ++ [{ write := write, queue := k, seq := seq, units := us }] }).serve c

/-! ### What the slabs hold (R403, R405, R406, R408) -/

/-- The queue of a key: its bench and its number (R273). -/
def queueField (k : Nat) : Nat := k / 1024 * 2 ^ 10 + k % 1024

/-- NEXT_PC and NEXT_SLAB below a valid bit (R405, R408). -/
def Slab.pointer (x : Slab) : Nat :=
  match x.next with
  | some (c, n) => 2 ^ 23 + c * 2 ^ 18 + n
  | none => 0

/-- The header of a closed slab of a queue (R405): 256 bits, byte 0 the highest. -/
def Slab.header (x : Slab) (k : Nat) : Nat :=
  let v := (0x5B * 2 ^ 13 + queueField k) * 2 ^ 203 + x.pointer * 2 ^ 179 + x.firstRec * 2 ^ 173 + x.firstSeq * 2 ^ 141
  v * 2 ^ 32 + crc32c (natBE 28 v)

/-- The link entry of a closed slab (R408). -/
def Slab.link (x : Slab) : Nat := x.pointer * 2 ^ 8

/-- A frame descriptor's 128 bits (R241). -/
def Desc.word (d : Desc) : Nat :=
  d.head * 2 ^ 110 + d.len % 2 ^ 14 * 2 ^ 96 + d.owner * 2 ^ 86 + d.holders * 2 ^ 82 + b2n d.err * 2 ^ 81 + b2n d.mir * 2 ^ 80 +
    d.epoch * 2 ^ 79 + d.passes * 2 ^ 77 + d.cls * 2 ^ 74 + d.colour * 2 ^ 72 + d.stream * 2 ^ 52 + b2n d.streamV * 2 ^ 51 + d.ts

/-- A queue entry's 384 bits (R274). -/
def Copy.word (c : Copy) : Nat :=
  let edits := ((List.range c.edits.length).map fun k => c.edits.getD k 0 % 2 ^ 32 * 2 ^ (128 + 32 * k)).sum
  edits + c.edits.length * 2 ^ 124 + b2n c.ct * 2 ^ 123 + b2n c.mir * 2 ^ 122 + b2n c.markCe * 2 ^ 121 + b2n c.ipv6 * 2 ^ 120 +
    c.l3off % 512 * 2 ^ 111 + b2n c.onestep * 2 ^ 110 + c.ptpOff % 512 * 2 ^ 101 + c.colour % 4 * 2 ^ 99 + c.cells % 256 * 2 ^ 91 +
    c.trunc % 256 * 2 ^ 83 + c.frerOp % 4 * 2 ^ 81 + c.seq % 65536 * 2 ^ 65 + b2n c.etsEn * 2 ^ 64 + c.etsTag % 65536 * 2 ^ 48 +
    b2n c.scEn * 2 ^ 47 + c.sc % 4096 * 2 ^ 35 + c.bench % 8 * 2 ^ 32 + c.desc % 32768 * 2 ^ 17

/-- The spill record of a copy (R406): its header, the descriptor and the queue entry as they stood at the move, each with its
first byte highest, and the reserved bytes. -/
def MidRec.record (r : MidRec) (k : Nat) : List Byte :=
  let head := (0xA7 * 2 ^ 13 + queueField k) * 2 ^ 75 + r.data.length % 2 ^ 14 * 2 ^ 61 + r.moveSeq * 2 ^ 29
  let rest := natBE 16 { r.desc with head := 0, holders := 0 }.word ++ natBE 48 { r.copy with bench := 0, desc := 0 }.word ++
    List.replicate 16 0
  natBE 12 head ++ natBE 4 (crc32c (natBE 12 head ++ rest)) ++ rest

/-- What a copy stores: its record and its frame's bytes, filled up to whole units with zero bytes (R407). -/
def MidRec.stored (r : MidRec) (k : Nat) : List Byte :=
  r.record k ++ r.data ++ List.replicate (32 * ceilDiv (96 + r.data.length) 32 - (96 + r.data.length)) 0

/-! ### Slabs (R405, R408, R410) -/

/-- The next eligible pseudo-channel after `last` in a team. -/
def State.nextChan (s : State) (t last : Nat) : Option Nat :=
  ((List.range 16).map fun i => 16 * t + (last % 16 + 1 + i) % 16).find? fun c =>
    bit (s.fld (pgHalf t) Reg.CRUCH.HCFG_STRIPE_MASK) (c % 16) && s.chState c == 2 && s.freeSlabs c != 0

/-- Take the slab at the head of a free list, whose word is read (R410). -/
def State.takeSlab (s : State) (c : Nat) : Nat × State :=
  let h := s.chanAt c
  let n := if h.fresh < 258048 then h.fresh else h.freed.headD 0
  let s1 := s.putChan c (if h.fresh < 258048 then { h with fresh := h.fresh + 1 } else { h with freed := h.freed.drop 1 })
  (n, s1.issue c false 0 (2 ^ 32) [64 * n])

/-- The word in the first slab of a free list is bad: the rest of the list is lost until full reset (R410). -/
def State.loseList (s : State) (c : Nat) : State :=
  let h := s.chanAt c
  let n := if h.fresh < 258048 then h.fresh else h.freed.headD 0
  ((s.putChan c { h with fresh := 258048, freed := [n] }).halfCount (c / 16) Reg.CRUCH.FREE_LOST).raise (pgHalf (c / 16)) 2

/-- A slab goes to the tail of its free list (R413), and the list's last slab takes its number (R410); not in a retired
pseudo-channel. -/
def State.freeSlab (s : State) (c n : Nat) : State :=
  if s.chState c = 5 then s
  else
    let h := s.chanAt c
    let last := match h.freed.getLast? with
      | some m => [64 * m]
      | none => if h.fresh < 258048 then [64 * 258047] else []
    (s.putChan c { h with freed := h.freed ++ [n] }).issue c true 0 (2 ^ 32) last

/-- A queue's tail slab takes no further bytes. Its header and link entry, which name the queue's next slab, are written when that
is allocated (R405, R408, R422; log 235). -/
def State.closeTail (s : State) (k : Nat) : State :=
  let q := s.queueAt k
  match q.slabs.getLast? with
  | none => s
  | some x => s.putQueue k { q with slabs := q.slabs.dropLast ++ [{ x with closed := true }], tailUnit := 64 }

/-- The tail slab's successor is known: its header and its link entry are written. -/
def State.linkTail (s : State) (k c n : Nat) : State :=
  let s1 := s.closeTail k
  let q := s1.queueAt k
  match q.slabs.getLast? with
  | none => s1
  | some x =>
    let s2 := s1.putQueue k { q with slabs := q.slabs.dropLast ++ [{ x with next := some (c, n) }] }
    (s2.issue x.chan true k (2 ^ 32) [64 * x.no]).issue (x.chan ^^^ 8) true k (2 ^ 32) [64 * 258048 + x.no / 8]

/-- The pseudo-channel that gives a queue its next slab (R410). -/
def State.slabChan (s : State) (k : Nat) : Option Nat :=
  s.nextChan (k / 4096) ((s.queueAt k).lastChan.getD (16 * (k / 4096)))

/-- A queue takes a new slab (R410): none where no pseudo-channel can give one. -/
def State.newSlab (s : State) (k : Nat) : Option State :=
  match s.slabChan k with
  | none => none
  | some c =>
    let (n, s1) := s.takeSlab c
    some ((s1.linkTail k c n).onQueue k fun q => { q with
      slabs := q.slabs ++ [{ chan := c, no := n }], tailUnit := 1, lastChan := some c })

/-- Write `n` units of a copy at the queue's tail, taking slabs as they are needed; `head` says that the record begins
with the next unit. -/
def State.writeUnits (s : State) (k seq : Nat) : Nat → Nat → Bool → Option State
  | 0, _, _ => none
  | fuel + 1, n, head =>
    if n = 0 then some s
    else
      let q := s.queueAt k
      if 64 ≤ q.tailUnit then
        match s.newSlab k with
        | some s1 => s1.writeUnits k seq fuel n head
        | none => none
      else
        match q.slabs.getLast? with
        | none => none
        | some x =>
          let m := min n (64 - q.tailUnit)
          let x' := if head ∧ x.firstRec = 0 then { x with firstRec := q.tailUnit, firstSeq := seq } else x
          let s1 := s.putQueue k { q with slabs := q.slabs.dropLast ++ [x'], tailUnit := q.tailUnit + m }
          let us := (List.range m).map fun i => 64 * x.no + q.tailUnit + i
          (s1.issue x.chan true k seq us).writeUnits k seq fuel (n - m) false

/-! ### Requests of frequency points (R425) -/

/-- A frequency change runs its steps 1 to 3 (R425). A training between two of its steps is rerun at the new point (log 282). -/
def State.freqStart (s : State) (point : Nat) : State :=
  let s1 := { s with phy := { s.phy with change := some point, waiting := [] } }
  let s2 := ((s1.setFld pgPhy Reg.CRUCP.PHY_STAT_POINT point).setFld pgPhy Reg.CRUCP.PHY_STAT_LOCKED 0).setFld pgPhy
    Reg.CRUCP.PHY_STAT_PENDING 0
  s2.each (List.range 32) fun s c =>
    if s.chState c = 2 then (s.setCh c 4).onChan c fun h => { h with rows := [] }
    else if s.chState c = 1 ∨ s.chState c = 3 then s.onChan c fun h => { h with
      step := 0, repeated := false, full := h.full || !bit s.lehr.train point }
    else s

/-- A training step of a pseudo-channel has ended: a change that waits for the steps that ran as it was requested starts after the
last of them. -/
def State.stepOver (s : State) (c : Nat) : State :=
  if s.phy.waiting.isEmpty then s
  else
    let w := s.phy.waiting.filter fun i => i != c && (s.chState i == 1 || s.chState i == 3)
    if w.isEmpty then s.freqStart (s.fld pgPhy Reg.CRUCP.PHY_STAT_PEND_POINT) else { s with phy := { s.phy with waiting := w } }

/-- A request for a frequency point, from the host or the power controller. -/
def State.freqRequest (s : State) (point : Nat) : State :=
  let pending := s.flag pgPhy Reg.CRUCP.PHY_STAT_PENDING
  let target := if pending then s.fld pgPhy Reg.CRUCP.PHY_STAT_PEND_POINT else s.fld pgPhy Reg.CRUCP.PHY_STAT_POINT
  if 2 < point ∨ point = target then s
  else if pending then
    ((s.setFld pgPhy Reg.CRUCP.PHY_STAT_PEND_POINT point).bump pgPhy Reg.CRUCP.FREQ_SUPERSEDED).raise pgPhy 1
  else
    let held := (s.setFld pgPhy Reg.CRUCP.PHY_STAT_PENDING 1).setFld pgPhy Reg.CRUCP.PHY_STAT_PEND_POINT point
    if s.phy.change.isSome then held
    else
      let busy := (List.range 32).filter fun c => s.chState c == 1 || s.chState c == 3
      if busy.isEmpty then s.freqStart point
      else ({ held with phy := { held.phy with waiting := busy } }).bump pgPhy Reg.CRUCP.FREQ_DEFERRED

/-! ### Moves (R279, R409, R411) -/

/-- A refusal of the oldest STAGE copy: each is counted once at the half and once in SPILL_REFUSED, with its cause (R279, R409;
log 236). -/
def State.refuseMove (s : State) (k c : Nat) : State :=
  ((s.halfCount (k / 4096) c).coreCount (k / 1024) Reg.CORE.SPILL_REFUSED).raise (pgCore (k / 1024)) 1

/-- The number of the slab and the unit at which the next record begins. -/
def Queue.nextPlace (q : Queue) : Nat × Nat :=
  if 64 ≤ q.tailUnit then (q.slabBase + q.slabs.length, 1) else (q.slabBase + q.slabs.length - 1, q.tailUnit)

/-- The 32-byte units that a move of a copy takes, and the frame's bytes as moved (R295, R407). -/
def State.moveBytes (s : State) (c : Copy) (d : Desc) : Nat × List Byte :=
  let full := s.frameBytes c.bench c.desc
  let l := s.copyLen c
  let data := if l < d.len then (full.take (l - 4)) ++ fcsBytes (full.take (l - 4)) else full
  (ceilDiv (96 + data.length) 32, data)

/-- The crucible takes a copy. -/
def State.takeMove (s : State) (k : Nat) (c : Copy) (d : Desc) : Option State :=
  let q := s.queueAt k
  let (n, data) := s.moveBytes c d
  let (first, start) := q.nextPlace
  match s.writeUnits k q.moveSeq 1024 n true with
  | none => none
  | some s1 =>
    let q1 := s1.queueAt k
    let r : MidRec := { copy := c, desc := { d with head := 0, holders := 0 },
                        data := data, moveSeq := q.moveSeq, first := first, last := q1.slabBase + q1.slabs.length - 1,
                        start := start, owner := d.owner, pend := n + 1 }
    let s2 := s1.setQueue k { q1 with
      stage := q1.stage.drop 1, mid := q1.mid ++ [r], moveSeq := (q.moveSeq + 1) % 2 ^ 32 }
    let t := k / 4096
    let s3 := (s2.coreCount (k / 1024) Reg.CORE.SPILL_MOVES).halfCount t Reg.CRUCH.MOVES
    some (if s3.fld (pgHalf t) Reg.CRUCH.CDESC_MAX < s3.cdescUsed t then
      s3.setFld (pgHalf t) Reg.CRUCH.CDESC_MAX (s3.cdescUsed t) else s3)

/-- The free-list word read for a move is bad: only where the copy needs a new slab is one read. -/
def State.badWord (s : State) (k : Nat) (c : Copy) (d : Desc) : State :=
  if (s.queueAt k).tailUnit + (s.moveBytes c d).1 ≤ 64 then s
  else match s.slabChan k with
    | some x => s.loseList x
    | none => s

/-- A copy has been offered: with HBM_AUTO, point 0 is requested while another is current (R457). -/
def State.pointForSpill (s : State) : State :=
  if s.flag pgDev Reg.PWRD.DOZE_CFG_HBM_AUTO && s.dev.st == 0 && s.fld pgPhy Reg.CRUCP.PHY_STAT_POINT != 0 then s.freqRequest 0
  else s

/-- SPILL_MOVE: the oldest STAGE copy of a port queue is offered to the crucible; `bad` says that a free-list word read
for it is bad. -/
def spillMove (b : BenchId) (q : Fin 512) (bad : Bool) (s : State) : State :=
  let k := qkey b q
  let t := benchTeam b
  match (s.queueAt k).stage with
  | [] => s
  | c :: _ =>
    match s.descAt c.bench c.desc with
    | none => s
    | some d =>
      if !s.spillEn k || !d.done || d.bad != 0 || d.tagWait || s.phy.change.isSome || !s.domOn (domSpill t) then s
      else if s.halfState t ≠ 2 then (s.refuseMove k Reg.CRUCH.REFUSE_STATE).pointForSpill
      else if 2097152 ≤ s.cdescUsed t then (s.refuseMove k Reg.CRUCH.REFUSE_DESC).pointForSpill
      else
        let s0 := if bad then s.badWord k c d else s
        match s0.takeMove k c d with
        | some s1 => s1.pointForSpill
        | none => (s0.refuseMove k Reg.CRUCH.REFUSE_SLAB).pointForSpill
def execSpillMove (b : BenchId) (q : Fin 512) (bad : Bool) (s : State) : Host.Outcome State Fault Refusal :=
  finish (spillMove b q bad s)

/-! ### Returns (R281, R412, R413) -/

/-- The slab of a number in a queue. -/
def Queue.slab (q : Queue) (n : Nat) : Option Slab := if n < q.slabBase then none else q.slabs[n - q.slabBase]?

/-- The pseudo-channels that hold bytes of a copy. -/
def Queue.chansOf (q : Queue) (r : MidRec) : List Nat :=
  (List.range (r.last + 1 - r.first)).filterMap fun i => (q.slab (r.first + i)).map fun x => x.chan

/-- The first `n` units of a copy with the slabs that hold them: unit 0 of a slab is its header, which is read with the unit after
it once the slab has a successor (R405; log 283). -/
def Queue.unitsOf (q : Queue) (r : MidRec) (n : Nat) : List (Slab × List Nat) :=
  (List.range n).filterMap fun i =>
    let u := (r.start - 1 + i) % 63 + 1
    (q.slab (r.first + (r.start - 1 + i) / 63)).map fun y =>
      (y, if u = 1 ∧ y.next.isSome then [64 * y.no, 64 * y.no + 1] else [64 * y.no + u])

/-- Reads of the first `n` units of a copy are issued. -/
def State.readUnits (s : State) (k : Nat) (r : MidRec) (seq n : Nat) : State :=
  s.each ((s.queueAt k).unitsOf r n) fun s e => s.issue e.1.chan false k seq e.2

/-- Reads of the oldest MID copy are issued, once it is written and its pseudo-channels serve reads. -/
def State.readFront (s : State) (k : Nat) : State :=
  let q := s.queueAt k
  match q.mid with
  | [] => s
  | r :: rest =>
    if !q.round || r.reading || r.pend != 0 || s.phy.change.isSome || (q.chansOf r).any (fun c => s.chState c != 2) then s
    else
      (s.putQueue k { q with mid := { r with reading := true } :: rest }).readUnits k r r.moveSeq (ceilDiv (96 + r.data.length) 32)

/-- Slabs that the return point has passed go to their free lists (R413). -/
def State.freePassed (s : State) (k : Nat) : State :=
  let q := s.queueAt k
  let upTo := match q.mid with
    | r :: _ => r.first
    | [] => if 64 ≤ q.tailUnit then q.slabBase + q.slabs.length else q.slabBase + q.slabs.length - 1
  let n := upTo - q.slabBase
  let gone := q.slabs.take n
  let s1 := s.putQueue k { q with slabs := q.slabs.drop n, slabBase := q.slabBase + gone.length }
  gone.foldl (fun s x => s.freeSlab x.chan x.no) s1

/-- The oldest MID copy leaves MID; the round ends when its aim is reached or MID is empty. -/
def State.leaveMid (s : State) (k : Nat) : State :=
  let s1 := s.setQueue k { s.queueAt k with mid := (s.queueAt k).mid.drop 1 }
  let s2 := s1.freePassed k
  let q := s2.queueAt k
  if q.mid.isEmpty || decide (max (s.spillFld k Reg.CORE.RETURN_LO) (s.spillFld k Reg.CORE.RETURN_HI) ≤ q.headCells) then
    s2.putQueue k { q with round := false }
  else s2.readFront k

/-- RETURN_ROUND: HEAD is below RETURN_LO while MID is not empty. -/
def returnRound (b : BenchId) (q : Fin 512) (s : State) : State :=
  let k := qkey b q
  let x := s.queueAt k
  if !x.round && !x.mid.isEmpty && decide (x.headCells < s.spillFld k Reg.CORE.RETURN_LO) then
    (s.putQueue k { x with round := true }).readFront k
  else (if x.round then s.readFront k else s)
def execReturnRound (b : BenchId) (q : Fin 512) (s : State) : Host.Outcome State Fault Refusal := finish (returnRound b q s)

/-- A read of a copy still waits to be issued or is in a retry window (R417). -/
def State.inWindow (s : State) (k seq : Nat) : Bool :=
  (teamChans (k / 4096)).any fun c => ((s.chanAt c).waiting ++ (s.chanAt c).retry).any fun r =>
    !r.write && r.queue == k && r.seq == seq

/-- A queue's oldest MID copy can be returned: its round runs, its reads are released, and its pseudo-channels serve. -/
def State.returnReady (s : State) (k : Nat) : Bool :=
  let x := s.queueAt k
  match x.mid with
  | [] => false
  | r :: _ =>
    x.round && r.reading && !s.inWindow k r.moveSeq && s.phy.change.isNone && (x.chansOf r).all fun c => s.chState c == 2

/-- The queue of a team whose turn it is: round robin, one copy at a time, the first after the one served last whose next copy can
be returned (R412; log 237). -/
def State.returnTurn (s : State) (t : Nat) : Option Nat :=
  let l := (s.teamQueues t).filter s.returnReady
  let after := l.filter fun k => decide ((s.halfAt t).served < k)
  (if after.isEmpty then l else after).min?

/-- The copy read from the crucible enters HEAD with a new descriptor and buffers, which it requests as slot 68, or waits
(R243, R281, R413). -/
def State.enterHead (s : State) (k : Nat) (r : MidRec) : State :=
  let b := k / 1024
  let t := k / 4096
  if s.qeFree b = 0 then s.coreCount b Reg.CORE.QE_DEFER
  else
    let d : Desc := { r.desc with len := r.data.length, cap := 0 }
    let (a, s1) := s.allocNow b 68 r.owner (some r.data.length) (.frame d)
    match a with
    | .granted i bufs =>
      let s2 := (s1.storeChain b bufs r.data).setQueue k { s1.queueAt k with mid := r :: (s1.queueAt k).mid.drop 1 }
      let s3 := s2.pushHead k { r.copy with bench := b, desc := i, ct := false }
      (((s3.coreCount b Reg.CORE.SPILL_RETURNS).halfCount t Reg.CRUCH.RETURNS).qeTrack b).leaveMid k
    | _ => s1.bump (pgBuf b) Reg.BUF.RETURN_DEFER

/-- SPILL_RETURN: the oldest MID copy of the queue whose turn it is, its reads released, is returned to HEAD. -/
def spillReturn (b : BenchId) (q : Fin 512) (s : State) : State :=
  let k := qkey b q
  let t := benchTeam b
  if s.returnTurn t = some k then
    match (s.queueAt k).mid with
    | [] => s
    | r :: _ =>
      let s1 := s.onHalf t fun h => { h with served := k }
      if r.bad then ((s1.halfCount t Reg.CRUCH.UE_DISCARD).bump (pgBuf b) Reg.BUF.CULLET_FRAMES).leaveMid k
      else s1.enterHead k r
  else s
def execSpillReturn (b : BenchId) (q : Fin 512) (s : State) : Host.Outcome State Fault Refusal := finish (spillReturn b q s)

/-- SPILL_WRITE_COMPLETE: every write of a moved copy has left the alert window, and the egress bench's holder is
released. -/
def spillWriteComplete (b : BenchId) (q : Fin 512) (seq : W32) (s : State) : State :=
  let k := qkey b q
  let x := s.queueAt k
  match x.mid.find? fun r => r.moveSeq == seq.toNat && r.pend == 1 with
  | none => s
  | some r =>
    let s1 := s.putQueue k { x with mid := x.mid.map fun m => if m.moveSeq = seq.toNat then { m with pend := 0 } else m }
    (s1.settleUnit b r.copy.bench r.copy.desc).readFront k
def execSpillWriteComplete (b : BenchId) (q : Fin 512) (seq : W32) (s : State) : Host.Outcome State Fault Refusal :=
  finish (spillWriteComplete b q seq s)

/-! ### Retry windows and alerts (R417, R418) -/

/-- A write of a copy has left the window. -/
def State.wroteUnits (s : State) (r : RetryRec) : State :=
  if r.write && decide (r.seq < 2 ^ 32) then
    s.onQueue r.queue fun q => { q with
      mid := q.mid.map fun m => if m.moveSeq = r.seq then { m with pend := max 1 (m.pend - r.units.length) } else m }
  else s

/-- RETRY_WINDOW_EXIT: `n` commands leave a pseudo-channel's retry window 64 clocks after issue, and those that waited for room
are issued; issue had stalled for `stall` clocks at a full window. -/
def retryWindowExit (c : ChanId) (n stall : Nat) (s : State) : State :=
  let h := s.chanAt c
  let full := decide (1024 ≤ commands h.retry) && !h.waiting.isEmpty
  let (out, rest) := leaveWindow n h.retry
  let left := commands out
  let s1 := s.putChan c { h with retry := rest, replay := h.replay - left, alerts := if h.replay ≤ left then 0 else h.alerts }
  ((out.foldl State.wroteUnits s1).chanCount c Reg.CRUCC.RETRY_STALL (if full then stall else 0)).serve c
def execRetryWindowExit (c : ChanId) (n stall : Nat) (s : State) : Host.Outcome State Fault Refusal :=
  finish (retryWindowExit c n stall s)

/-- A pseudo-channel in RUN enters RETRAIN (R422). -/
def State.retrain (s : State) (c : Nat) : State :=
  if s.chState c ≠ 2 then s
  else
    let s1 := ((s.setCh c 3).chanCount c Reg.CRUCC.RETRAINS).raise (pgChan c) 1
    let s2 := s1.onChan c fun h => { h with full := true, repeated := false, step := 0, ce := 0, replay := 0, alerts := 0 }
    s2.each (s2.teamQueues (c / 16)) fun s k =>
      match (s.queueAt k).slabs.getLast? with
      | some x => if x.chan = c then s.closeTail k else s
      | none => s

/-- PARITY_ALERT: the rows are closed and the retry window is replayed, in its order. -/
def parityAlert (c : ChanId) (s : State) : State :=
  let h := s.chanAt c
  if s.chState c = 0 ∨ s.chState c = 5 then s
  else
    let n := commands h.retry
    let alerts := if 0 < h.replay then h.alerts + 1 else 0
    let s1 := (s.chanCount c Reg.CRUCC.PARITY_ALERTS).onChan c fun h => { h with rows := [], replay := n, alerts := alerts }
    if 4 ≤ alerts then (s1.chanCount c Reg.CRUCC.REPLAY_FAIL).retrain c
    else (s1.chanCount c Reg.CRUCC.REPLAY_CMDS n).accessAll c h.retry
def execParityAlert (c : ChanId) (s : State) : Host.Outcome State Fault Refusal := finish (parityAlert c s)

/-- HBM_REFRESH: a refresh of a bank falls due; it is issued, or postponed while the bank is busy, and forced after 8
postponed intervals (R416). -/
def hbmRefresh (c : ChanId) (bank : Fin 16) (busy : Bool) (s : State) : State :=
  if s.chState c = 0 ∨ s.chState c = 4 ∨ s.chState c = 5 then s
  else
    let put (n : Nat) (close : Bool) : State := s.onChan c fun h => { h with
      postponed := Tab.set (fun _ => 0) h.postponed bank n
      rows := if close then Tab.set (fun _ => none) h.rows bank none else h.rows }
    let n := Tab.get (fun _ => 0) (s.chanAt c).postponed bank
    if !busy then put 0 true
    else if 8 ≤ n + 1 then (put n true).chanCount c Reg.CRUCC.REF_FORCED
    else put (n + 1) false
def execHbmRefresh (c : ChanId) (bank : Fin 16) (busy : Bool) (s : State) : Host.Outcome State Fault Refusal :=
  finish (hbmRefresh c bank busy s)

/-! ### Losses (R412, R419, R423, R426) -/

/-- MID copies of a queue that meet a test are declared lost; how many. -/
def State.loseMid (s : State) (k : Nat) (lost : MidRec → Bool) : Nat × State :=
  let q := s.queueAt k
  let gone := q.mid.filter lost
  if gone.isEmpty then (0, s)
  else
    let s1 := s.setQueue k { q with mid := q.mid.filter fun r => !lost r }
    let s2 := s1.each gone fun s r => if r.pend = 0 then s else s.settleUnit (k / 1024) r.copy.bench r.copy.desc
    let s3 := s2.freePassed k
    let s4 := if (s3.queueAt k).mid.isEmpty then s3.onQueue k fun q => { q with round := false } else s3.readFront k
    (gone.length, s4)

/-- Every MID copy of a queue is dropped and its slabs freed, as a flush walks their records of three units (R406, R414). -/
def State.flushMid (s : State) (k : Nat) : State :=
  ((s.each (s.queueAt k).mid fun s r => s.readUnits k r (2 ^ 32) 3).loseMid k fun _ => true).2

/-- A half enters FAILED (R426). -/
def State.failHalf (s : State) (t : Nat) : State :=
  if s.halfState t = 4 then s
  else
    let (n, s1) := (s.teamQueues t).foldl (fun (x : Nat × State) k =>
      let (m, s1) := x.2.loseMid k fun _ => true
      (x.1 + m, s1)) (0, s)
    let s2 := ((s1.setHalf t 4).halfCount t Reg.CRUCH.MID_LOST n).raise (pgHalf t) 0
    if n = 0 then s2 else s2.raise (pgHalf t) 1

/-- A queue's chain breaks at its slab number `n`: the rest of its MID, every copy with a byte in that slab or a later one, is
declared lost, and those slabs leave service (R419). `dead` copies are lost with them, and counted elsewhere. -/
def State.breakChain (s : State) (k n : Nat) (dead : MidRec → Bool := fun _ => false) : State :=
  let t := k / 4096
  let q := s.queueAt k
  let leak := q.slabs.drop (n - q.slabBase)
  let m := (q.mid.filter fun r => !dead r && decide (n ≤ r.last)).length
  let s1 := (s.loseMid k fun r => dead r || decide (n ≤ r.last)).2
  let s2 := s1.onQueue k fun q => { q with slabs := q.slabs.take (n - q.slabBase), tailUnit := 64 }
  let s3 := leak.foldl (fun s x => s.onChan x.chan fun h => { h with freed := h.freed.filter fun i => i != x.no }) s2
  let s4 := (s3.halfCount t Reg.CRUCH.MID_LOST m).halfCount t Reg.CRUCH.SLAB_LEAK leak.length
  if m = 0 then s4 else s4.raise (pgHalf t) 1

/-- The first closed slab of a queue whose pointer no pseudo-channel holds any more: its own and its link table's are both
retired (R408, R423). -/
def State.chainEnd (s : State) (k : Nat) : Option Nat :=
  let q := s.queueAt k
  (List.range q.slabs.length).findSome? fun i => match q.slabs[i]? with
    | some x => if x.next.isSome && s.chState x.chan == 5 && s.chState (x.chan ^^^ 8) == 5 then some (q.slabBase + i) else none
    | none => none

/-- The link entry of a slab is read (R408). -/
def State.readLink (s : State) (k : Nat) (x : Slab) : State :=
  s.issue (x.chan ^^^ 8) false k (2 ^ 32) [64 * 258048 + x.no / 8]

/-- The copies of a queue with a byte in a retired pseudo-channel's slabs are lost; the chain goes on through the link table,
unless that is retired too (R423). How many copies were lost here. -/
def State.retireQueue (s : State) (c k : Nat) : Nat × State :=
  let q := s.queueAt k
  let s1 := match q.slabs.getLast? with
    | some y => if y.chan = c then s.closeTail k else s
    | none => s
  let dead (r : MidRec) : Bool := (q.chansOf r).contains c
  let s2 := match s1.chainEnd k with
    | some n => s1.breakChain k (n + 1) dead
    | none => (s1.loseMid k dead).2
  ((q.mid.filter dead).length, s2.each ((s2.queueAt k).slabs.filter fun x => x.chan == c && x.next.isSome) fun s x => s.readLink k x)

/-- A pseudo-channel is retired for a failed training (R423). The requests that waited for it are answered as losses. -/
def State.retire (s : State) (c why : Nat) : State :=
  let t := c / 16
  let s1 := ((s.setCh c 5).setFld (pgChan c) Reg.CRUCC.CH_STAT_STEP_FAIL why).raise (pgChan c) 4
  let (n, s2) := (s1.teamQueues t).foldl (fun (x : Nat × State) k =>
    let (m, s2) := x.2.retireQueue c k
    (x.1 + m, s2)) (0, s1)
  let s3 := (s2.chanCount c Reg.CRUCC.RETIRED_FRAMES n).halfCount t Reg.CRUCH.RETIRE_LOST n
  let s4 := s3.onChan c fun h => { h with fresh := 258048, freed := [], rows := [], retry := [], waiting := [] }
  let s5 := s4.onHalf t fun h => { h with badChans := c :: h.badChans.filter fun i => i != c }
  if (teamChans t).all fun i => s5.chState i == 5 then s5.failHalf t else s5

/-- A team's image is bad (R430): some block has no good copy, because each copy is bad or lies in a pseudo-channel that is
retired or has lost it. -/
def State.imageBad (s : State) (t : Nat) : Bool :=
  let h := s.halfAt t
  let gone (c : Nat) : Bool := s.chState c == 5 || h.badChans.contains c
  (teamChans t).any fun c => gone (c ^^^ 8) && (gone c || h.badCopies.any fun e => e.1 == c) ||
    h.badCopies.any fun e => e.1 == c && h.badCopies.contains (c ^^^ 8, e.2)

/-- An uncorrectable error in the crucible, by its place (R419: 0 frame bytes, 1 spill record, 2 slab header,
3 slab header and link, 4 free list, 5 image block); `k` the queue's key, `n` the copy's MOVE_SEQ,
the slab's number in the queue, or the image block. -/
def State.crucibleUe (s : State) (c place k n : Nat) : State :=
  let t := c / 16
  match place with
  | 0 => s.onQueue k fun q => { q with mid := q.mid.map fun r => if r.moveSeq = n then { r with bad := true } else r }
  | 1 =>
    match (s.queueAt k).mid.find? fun r => r.moveSeq == n with
    | some r => (s.loseMid k fun m => m.first == r.first && decide (r.start ≤ m.start)).2
    | none => s
  | 2 | 3 =>
    match (s.queueAt k).slab n with
    | none => s
    | some x =>
      let s1 := s.readLink k x
      if place = 3 ∨ s.chState (c ^^^ 8) = 5 then s1.breakChain k n else (s1.loseMid k fun m => m.first == n).2
  | 4 => ((s.onChan c fun h => { h with fresh := 258048, freed := [] }).halfCount t Reg.CRUCH.FREE_LOST).raise (pgHalf t) 2
  | _ =>
    if c = (imagePlace t n false).1 ∨ c = (imagePlace t n true).1 then
      s.onHalf t fun h => { h with badCopies := h.badCopies ++ [(c, n % 14336)] }
    else s

/-- HBM_ECC_ERROR: a read of a pseudo-channel finds a corrected error, or an uncorrectable one at a place of R419 (0 frame bytes,
1 spill record, 2 slab header, 3 slab header and link, 4 free list, 5 image block). -/
def hbmEccError (c : ChanId) (ue : Bool) (place : Fin 6) (b : BenchId) (q : Fin 512) (n : Nat) (s : State) : State :=
  if s.chState c = 0 ∨ s.chState c = 5 then s
  else if ue then ((s.chanCount c Reg.CRUCC.UE).raise (pgChan c) 0).crucibleUe c place (qkey b q) n
  else
    let s1 := s.chanCount c Reg.CRUCC.CE
    let h := s1.chanAt c
    let fresh := decide (1024 ≤ s.gridTick - h.ceFrom)
    let ce := if fresh then 1 else h.ce + 1
    let s2 := s1.putChan c { h with ce := ce, ceFrom := if fresh then s.gridTick else h.ceFrom }
    let lim := s.fld (pgChan c) Reg.CRUCC.CH_CFG_CE_RETRAIN
    if lim ≠ 0 ∧ lim ≤ ce then s2.retrain c else s2
def execHbmEccError (c : ChanId) (ue : Bool) (place : Fin 6) (b : BenchId) (q : Fin 512) (n : Nat) (s : State) :
    Host.Outcome State Fault Refusal := finish (hbmEccError c ue place b q n s)

/-! ### Training (R421, R422) -/

/-- The stack temperature in °C. -/
def State.stackTemp (s : State) : Int := signed 8 (s.fld pgPhy Reg.CRUCP.PHY_STAT_STACK_TEMP)
/-- The lehr holds training results for the current point: they carry their own valid bits (R467). -/
def State.trainValid (s : State) : Bool := bit s.lehr.train (s.fld pgPhy Reg.CRUCP.PHY_STAT_POINT)

/-- A pseudo-channel has no training before it: it is in RUN or RETIRED, or rests in self-refresh with its half. -/
def State.chSettled (s : State) (c : Nat) : Bool :=
  s.chState c == 2 || s.chState c == 5 || (s.chState c == 4 && (s.chanAt c).toSref)

/-- A half leaves TRAINING when none of its pseudo-channels has a training before it. -/
def State.halfTrack (s : State) (t : Nat) : State :=
  if s.halfState t = 1 ∧ (teamChans t).all s.chSettled then
    s.setHalf t (if (teamChans t).any fun c => (s.chanAt c).toSref then 3 else 2)
  else s

/-- TRAINING_START: a pseudo-channel in OFF, or one that leaves self-refresh (R425, R454, R484), begins training, verify-only when
the lehr holds results for the point. -/
def trainingStart (c : ChanId) (s : State) : State :=
  let t := c.val / 16
  if (s.chState c ≠ 0 ∧ s.chState c ≠ 4) ∨ s.halfState t = 4 ∨ !s.domOn (domHalf t) ∨ !s.domOn domPhy ∨ s.pins.hbmLost then s
  else
    let s1 := (s.setCh c 1).onChan c fun h => { h with full := !s.trainValid, repeated := false, step := 0, toSref := false }
    let s2 := s1.setFld pgPhy Reg.CRUCP.PHY_STAT_LOCKED 1
    if s.halfState t = 0 ∨ s.halfState t = 3 then s2.setHalf t 1 else s2
def execTrainingStart (c : ChanId) (s : State) : Host.Outcome State Fault Refusal := finish (trainingStart c s)

/-- The training of a pseudo-channel has passed its last step. -/
def State.trained (s : State) (c : Nat) : State :=
  let retraining := s.chState c == 3
  let s1 := (s.setCh c (if (s.chanAt c).toSref then 4 else 2)).onChan c fun h => { h with
    temp := s.fld pgPhy Reg.CRUCP.PHY_STAT_STACK_TEMP, repeated := false }
  let valid := s1.lehr.train ||| 2 ^ s1.fld pgPhy Reg.CRUCP.PHY_STAT_POINT
  let s2 := { s1 with lehr := { s1.lehr with train := valid } }.setL pgPhy Reg.CRUCP.PHY_STAT_TRAIN_VALID valid
  ((if retraining then s2.raise (pgChan c) 2 else s2).halfTrack (c / 16)).serve c

/-- The spares of a kind that are left: their valid and lane fields. -/
def State.spares (s : State) (c : Nat) (l : List (Fld × Fld)) : List (Fld × Fld) := l.filter fun e => !s.flag (pgChan c) e.1

/-- Map the failing CA and DQ lanes onto spares (R422): none where those of one kind outnumber the spares left. -/
def State.repair (s : State) (c : Nat) (ca dq : List Nat) : Option State :=
  let p := pgChan c
  let caLeft := s.spares c [(Reg.CRUCC.CH_REPAIR_CA_V, Reg.CRUCC.CH_REPAIR_CA_LANE)]
  let dqLeft := s.spares c [(Reg.CRUCC.CH_REPAIR_DQ0_V, Reg.CRUCC.CH_REPAIR_DQ0_LANE),
    (Reg.CRUCC.CH_REPAIR_DQ1_V, Reg.CRUCC.CH_REPAIR_DQ1_LANE)]
  if caLeft.length < ca.length ∨ dqLeft.length < dq.length then none
  else some (s.each (ca.zip caLeft ++ dq.zip dqLeft) fun s e =>
    ((s.setFld p e.2.1 1).setL p e.2.2 e.1 |>.chanCount c Reg.CRUCC.LANE_REPAIRS).raise p 3)

/-- TRAINING_STEP_DONE: the running step, the next one or the one that a repair repeats, passes, or fails on the identified CA and
DQ lanes. -/
def trainingStepDone (c : ChanId) (pass : Bool) (ca lanes : List (Fin 256)) (s : State) : State :=
  if s.chState c ≠ 1 ∧ s.chState c ≠ 3 then s
  else
    let h := s.chanAt c
    let step := if h.repeated then h.step else if h.full then h.step % 6 + 1 else if h.step = 1 then 6 else 1
    let s1 := (s.setFld (pgChan c) Reg.CRUCC.CH_STAT_STEP step).onChan c fun h => { h with step := step }
    let s2 :=
      if pass then
        let s2 := s1.onChan c fun h => { h with repeated := false }
        if step = 6 then s2.trained c else s2
      else if h.repeated then (s1.retire c 2).halfTrack (c.val / 16)
      else match s1.repair c (ca.map fun l => l.val) (lanes.map fun l => l.val) with
        | none => (s1.retire c 1).halfTrack (c.val / 16)
        | some s2 => s2.onChan c fun h => { h with repeated := true }
    s2.stepOver c
def execTrainingStepDone (c : ChanId) (pass : Bool) (ca lanes : List (Fin 256)) (s : State) :
    Host.Outcome State Fault Refusal := finish (trainingStepDone c pass ca lanes s)

/-- A write of CH_CMD. -/
def State.chCmdWrite (s : State) (c : Nat) (v : W32) : State := if bit v.toNat 31 then s.retrain c else s
/-- CH_RETRAIN_CMD: a host write of CH_CMD with RETRAIN = 1. -/
def chRetrainCmd (c : ChanId) (s : State) : State :=
  s.wordWrite (pgChan c) 0x04C 0x80000000 fun s => s.chCmdWrite c 0x80000000
def execChRetrainCmd (c : ChanId) (s : State) : Host.Outcome State Fault Refusal := finish (chRetrainCmd c s)

/-- The stack temperature is read as `t`; TEMP_HIGH is raised as it first exceeds 85 °C (R436). -/
def State.setStackTemp (s : State) (t : Nat) : State :=
  let s1 := s.setFld pgPhy Reg.CRUCP.PHY_STAT_STACK_TEMP t
  let hot := decide (85 < s1.stackTemp)
  let s2 := { s1 with phy := { s1.phy with hot := hot } }
  if hot && !s.phy.hot then s2.raise pgPhy 3 else s2

/-- STACK_TEMP_HIGH: the stack's temperature, read as `t`. -/
def stackTempHigh (t : Byte) (s : State) : State := s.setStackTemp t.toNat
def execStackTempHigh (t : Byte) (s : State) : Host.Outcome State Fault Refusal := finish (stackTempHigh t s)

/-- TEMP_RETRAIN: the stack's temperature, read as `t`, has moved 20 °C since a channel's last training. -/
def tempRetrain (c : ChanId) (t : Byte) (s : State) : State :=
  let s1 := s.setStackTemp t.toNat
  let moved := (s1.stackTemp - signed 8 (s1.chanAt c).temp).natAbs
  if 20 ≤ moved then s1.retrain c else s1
def execTempRetrain (c : ChanId) (t : Byte) (s : State) : Host.Outcome State Fault Refusal := finish (tempRetrain c t s)

/-! ### Frequency points (R425) -/

/-- A write of FREQ_CTRL. -/
def State.freqCtrlWrite (s : State) (v : W32) : State := if bit v.toNat 31 then s.freqRequest (bits v.toNat 1 0) else s
/-- FREQ_REQUEST: a host write of FREQ_CTRL. -/
def freqRequest (v : W32) (s : State) : State := s.hostWrite pgPhy fun s => s.freqCtrlWrite v
def execFreqRequest (v : W32) (s : State) : Host.Outcome State Fault Refusal := finish (freqRequest v s)

/-- FREQ_CHANGE_DONE: every pseudo-channel that left self-refresh at the new point has been trained and is back in RUN. -/
def freqChangeDone (s : State) : State :=
  match s.phy.change with
  | none => s
  | some _ =>
    if (List.range 32).all fun c => s.chState c == 0 || s.chSettled c then
      let s1 := { s with phy := { s.phy with change := none } }
      let s2 := s1.each (List.range 32) State.serve
      let s3 := ((s2.setFld pgPhy Reg.CRUCP.PHY_STAT_LOCKED 1).bump pgPhy Reg.CRUCP.FREQ_CHANGES).raise pgPhy 0
      if s3.flag pgPhy Reg.CRUCP.PHY_STAT_PENDING then s3.freqStart (s3.fld pgPhy Reg.CRUCP.PHY_STAT_PEND_POINT) else s3
    else s
def execFreqChangeDone (s : State) : Host.Outcome State Fault Refusal := finish (freqChangeDone s)

/-! ### Failure and the image (R426, R428) -/

/-- HALF_FAILED: a half's engine or controller is found faulty, or the PHY fails with both halves. -/
def halfFailed (t : Team) (phy : Bool) (s : State) : State :=
  if phy then ((s.failHalf 0).failHalf 1).raise pgPhy 2 else s.failHalf (teamNo t)
def execHalfFailed (t : Team) (phy : Bool) (s : State) : Host.Outcome State Fault Refusal := finish (halfFailed t phy s)

/-- A write of IMG_CTRL of a half. -/
def State.imgCtrlWrite (s : State) (t : Nat) (v : W32) : State :=
  let s1 := if bit v.toNat 31 then
      (s.onHalf t fun h => { h with armed := true, copied := false }).setFld (pgHalf t) Reg.CRUCH.IMG_STAT_COPYING 1
    else s
  if bit v.toNat 30 then
    ((s1.onHalf t fun h => { h with armed := false, copied := false, kept := none }).setFld (pgHalf t) Reg.CRUCH.IMG_STAT_COPYING 0).setFld
      (pgHalf t) Reg.CRUCH.IMG_STAT_VALID 0
  else s1

/-- IMAGE_ARM: a host write of IMG_CTRL with ARM = 1. -/
def imageArm (t : Team) (s : State) : State :=
  s.wordWrite (pgHalf (teamNo t)) Reg.CRUCH.IMG_CTRL.off 0x80000000 fun s => s.imgCtrlWrite (teamNo t) 0x80000000
def execImageArm (t : Team) (s : State) : Host.Outcome State Fault Refusal := finish (imageArm t s)

/-- IMAGE_COPY_DONE: the full copy ends; VALID is due at the next edge. -/
def imageCopyDone (t : Team) (s : State) : State :=
  let n := teamNo t
  if s.flag (pgHalf n) Reg.CRUCH.IMG_STAT_COPYING then
    let s1 := (s.setFld (pgHalf n) Reg.CRUCH.IMG_STAT_COPYING 0).onHalf n fun h => { h with
      copied := true, kept := some (s.tableImage n), badCopies := [], badChans := (teamChans n).filter fun c => s.chState c == 5 }
    s1.each (teamChans n) fun s c => if s.chState c = 5 then s else s.imageAccess c 229376
  else s
def execImageCopyDone (t : Team) (s : State) : Host.Outcome State Fault Refusal := finish (imageCopyDone t s)

/-- VALID is set at the edge after the copy's end. -/
def State.imageEdge (s : State) (t : Nat) : State :=
  if (s.halfAt t).copied then
    ((s.onHalf t fun h => { h with copied := false }).setFld (pgHalf t) Reg.CRUCH.IMG_STAT_VALID 1).raise (pgHalf t) 3
  else s

/-- IMAGE_DISARM: a host write of IMG_CTRL with DISARM = 1. -/
def imageDisarm (t : Team) (s : State) : State :=
  s.wordWrite (pgHalf (teamNo t)) Reg.CRUCH.IMG_CTRL.off 0x40000000 fun s => s.imgCtrlWrite (teamNo t) 0x40000000
def execImageDisarm (t : Team) (s : State) : Host.Outcome State Fault Refusal := finish (imageDisarm t s)

end Sys2Proof.Machine
end

