-- ==== Sys2Proof/Machine/Ports.lean ====
section
/-! DEFINITION. Lanes, quads, link states and MDIO (R75 to R86, R90, R92 to R98, R101 to R108). -/

namespace Sys2Proof.Machine

/-! ### What holds of a link (R80, R83 to R85, R93) -/

/-- PCFG.FEC is supported for the port type of the quad's rate (R83, R84); field ports ignore it. -/
def State.fecSupported (s : State) (p : Nat) : Bool :=
  let r := s.quadRate (portQuad p)
  !isTrunk p || (match s.portFld p Reg.PORT.PCFG_FEC with
    | 1 => r == 0 || r == 1
    | 2 => r == 1
    | _ => true)
/-- FEC runs on the port; a value that its rate does not support never does. -/
def State.fecOn (s : State) (p : Nat) : Bool :=
  let f := s.portFld p Reg.PORT.PCFG_FEC
  isTrunk p && (f == 1 || f == 2) && s.fecSupported p
/-- The quad's reference, PLL and power allow its lanes to work. -/
def State.quadGood (s : State) (q : Nat) : Bool :=
  s.domOn q && s.flag (pgSerdes q) Reg.SERDES.QSTAT_REF_OK && s.flag (pgSerdes q) Reg.SERDES.QSTAT_PLL_LOCK

/-- The link of a port is good (R93). -/
def State.linkGood (s : State) (p : Nat) : Bool :=
  let q := portQuad p
  let k := s.linkAt p
  let byp := s.portFlag p Reg.PORT.PCFG_AN_BYPASS
  s.quadGood q && !s.flag (pgSerdes q) (Reg.SERDES.PRBS_GEN_EN (portLane p % 4)) && s.fecSupported p && k.lock &&
  (if !isTrunk p then
    (if byp then decide (s.portFld p Reg.PORT.PCFG_FORCE_SPEED ≤ 3) else k.up && !k.half && decide (k.speed ≤ 3))
  else if s.quadRate q = 2 then k.an == 1 || byp
  else (!s.fecOn p || k.fecLock) && !k.loc && !k.remote)

/-- The speed code of a port: by rate on trunk ports, by in-band status or FORCE_SPEED on field ports. -/
def State.linkSpeed (s : State) (p : Nat) : Nat :=
  if isTrunk p then (match s.quadRate (portQuad p) with
    | 0 => 4
    | 1 => 5
    | _ => 1)
  else
    let k := s.linkAt p
    let v := if s.portFlag p Reg.PORT.PCFG_AN_BYPASS then s.portFld p Reg.PORT.PCFG_FORCE_SPEED else k.speed
    if v ≤ 3 then v else s.speedCode p

/-- PSTAT follows the link. -/
def State.linkTrack (s : State) (p : Nat) : State :=
  let k := s.linkAt p
  let s1 := (s.setPortFld p Reg.PORT.PSTAT_SPEED (s.linkSpeed p)).setPortFld p Reg.PORT.PSTAT_LOCAL_FAULT
    (b2n (!s.linkGood p))
  ((s1.setPortFld p Reg.PORT.PSTAT_REMOTE_FAULT (b2n k.remote)).setPortFld p Reg.PORT.PSTAT_LOCK (b2n k.lock)).setPortFld p
    Reg.PORT.PSTAT_INBAND_UP (b2n (!isTrunk p && k.up))

/-! ### Recovered clocks (R72) -/

/-- The lane that feeds a recovered-clock output. -/
def State.rclkLane (s : State) (i : Nat) : Nat :=
  let l := s.fld pgTime (Reg.TIME.RCLK_CFG_LANE i)
  if l < 224 then l else 0
/-- The output is squelched: its lane has lost CDR lock, or no link on it is good. The link on a field lane is that of any of
its four ports, and an output that is not enabled is not squelched (the model's choices, log 230). -/
def State.rclkDown (s : State) (i : Nat) : Bool :=
  let l := s.rclkLane i
  s.flag pgTime (Reg.TIME.RCLK_CFG_EN i) && s.flag pgTime (Reg.TIME.RCLK_CFG_SQUELCH_EN i) &&
  (!s.flag (pgSerdes (l / 4)) (Reg.SERDES.RXSTAT_CDR_LOCK (l % 4)) || (lanePorts l).all fun p => !s.linkGood p)
/-- SQUELCHED follows, and its cause is raised on entry. -/
def State.rclkTrack (s : State) : State :=
  s.each [0, 1] fun s i =>
    let now := s.rclkDown i
    (s.setFld pgTime (Reg.TIME.RCLK_CFG_SQUELCHED i) (b2n now)).ifDo
      (now && !s.flag pgTime (Reg.TIME.RCLK_CFG_SQUELCHED i)) fun s => s.raise pgTime 9

/-- PSTAT of several ports follows, and the recovered clocks. -/
def State.linksTrack (s : State) (ps : List Nat) : State := (s.each ps State.linkTrack).rclkTrack

/-! ### Port states (R90, R92, R94, R96) -/

/-- VERIFY_STATUS and TX_ACTIVE follow the port's state and MMCFG (R90). -/
def State.mmTrack (s : State) (p : Nat) : State :=
  let en := s.portFlag p Reg.PORT.MMCFG_MM_EN
  let dis := s.portFlag p Reg.PORT.MMCFG_VERIFY_DIS
  let v := s.portFld p Reg.PORT.MMCFG_VERIFY_STATUS
  let v' := if !en || dis then 0 else if !s.portUp p then 1 else if v ≤ 1 then 2 else v
  (s.setPortFld p Reg.PORT.MMCFG_VERIFY_STATUS v').setPortFld p Reg.PORT.MMCFG_TX_ACTIVE (b2n (en && (dis || v' == 3)))

/-- A port changes state (R94). -/
def State.setLstate (s : State) (p n : Nat) : State :=
  if s.lstate p = n then s
  else
    let s1 := (s.setPortFld p Reg.PORT.PSTAT_LSTATE n).setPortFld p Reg.PORT.PSTAT_LINK_CHG 1
    let g := pgPort (portGroup p)
    let s2 := (s1.setFld g ⟨0x040, portSlot p, portSlot p⟩ (b2n (n == 2))).onLink p fun k => { k with owes := false }
    ((s2.portRaise p (portSlot p)).mmTrack p).sagPlanPort p

/-- The queues of a port are flushed into DOWN_DISCARD: the waiting remainder, every copy not in transmission, and the
copies in the crucible (R94, R96, R414). -/
def State.portFlush (s : State) (p : Nat) : State :=
  let s0 := match s.txAt (512 + p) with
    | some t =>
      ((((s.putTx (512 + p) none).portCount p Reg.PORT.DOWN_DISCARD).popHead (portQueue p t.cls)).culled t.copy).settleUnit
        (portBench p) t.copy.bench t.copy.desc
    | none => s
  s0.each (List.range 8) fun s c =>
    let k := portQueue p c
    let s1 := s.discardCopies k (fun c => c.begun) fun s _ => s.portCount p Reg.PORT.DOWN_DISCARD
    (s1.portCount p Reg.PORT.DOWN_DISCARD (s1.queueAt k).mid.length).flushMid k

/-- FLUSH_ON_DOWN: the removal of the learned entries of a port is left for every bench's edge that ends the tick (R98). -/
def State.learnedFlush (s : State) (p : Nat) : State :=
  if s.portFlag p Reg.PORT.HOLDCFG_FLUSH_ON_DOWN then
    s.each (List.range 8) fun s b => s.onFdb b fun f => { f with flushPorts := f.flushPorts ++ [(p, s.gridTick)] }
  else s

/-- The actions of hold expiry (R94). -/
def State.holdExpired (s : State) (p : Nat) : State :=
  ((((s.portFlush p).learnedFlush p).setLstate p 1).setPortFld p Reg.PORT.PSTAT_HOLD_EXP 1).portRaise p 16

/-- A copy in transmission is lost if the port's transmit path is (R96). -/
def State.checkPath (s : State) (p : Nat) : State := if s.txPath p then s else s.pathLost p

/-- A mode is refused (R80, R84, R85). -/
def State.unsupported (s : State) (p : Nat) : State := (s.setPortFld p Reg.PORT.PSTAT_UNSUP_MODE 1).portRaise p 17

/-- A port finds a restored FEC value unsupported (R84). -/
def State.fecTrack (s : State) (p : Nat) : State :=
  if s.fecSupported p || s.portFlag p Reg.PORT.PSTAT_UNSUP_MODE then s else s.unsupported p

/-- A write of a port's PCFG (R80, R84, R94). -/
def State.pcfgWrite (s : State) (p : Nat) (v : W32) : State :=
  let g := pgPort (portGroup p)
  let s1 := s.plainWrite g (Reg.PORT.PCFG (portSlot p)).off 0 v
  let was := s.portFlag p Reg.PORT.PCFG_EN
  let now := s1.portFlag p Reg.PORT.PCFG_EN
  let s2 :=
    if was && !now then (((s1.portFlush p).learnedFlush p).setLstate p 0).checkPath p
    else if !was && now then s1.setLstate p 1
    else s1
  let fresh := s.fecSupported p || s.portFld p Reg.PORT.PCFG_FEC != s2.portFld p Reg.PORT.PCFG_FEC
  (s2.ifDo (fresh && !s2.fecSupported p) fun s => s.unsupported p).linksTrack [p]

/-- The PCFG word of a port with one of its fields replaced. -/
def State.pcfgWith (s : State) (p : Nat) (f : Nat → Fld) (v : Nat) : W32 :=
  let r := f (portSlot p)
  BitVec.ofNat 32 (setBits (s.rd (pgPort (portGroup p)) r.off).toNat r.hi r.lo v)

/-- A host write of one field of PCFG. -/
def State.pcfgField (s : State) (p : Nat) (f : Nat → Fld) (v : Nat) : State :=
  let r := f (portSlot p)
  s.wordWrite (pgPort (portGroup p)) r.off (BitVec.ofNat 32 (setBits 0 r.hi r.lo v)) (fun s => s.pcfgWrite p (s.pcfgWith p f v))
    (BitVec.ofNat 32 (setBits 0xFFFFFFFF r.hi r.lo 0))

/-- PORT_DISABLE: a host write of EN = 0. -/
def portDisable (p : PortId) (s : State) : State :=
  s.pcfgField p Reg.PORT.PCFG_EN 0
def execPortDisable (p : PortId) (s : State) : Host.Outcome State Fault Refusal := finish (portDisable p s)

/-- PORT_ENABLE: a host write of EN = 1. -/
def portEnable (p : PortId) (s : State) : State :=
  s.pcfgField p Reg.PORT.PCFG_EN 1
def execPortEnable (p : PortId) (s : State) : Host.Outcome State Fault Refusal := finish (portEnable p s)

/-- FEC_WRITE: a host write of PCFG.FEC. -/
def fecWrite (p : PortId) (fec : Fin 4) (s : State) : State :=
  s.pcfgField p Reg.PORT.PCFG_FEC fec
def execFecWrite (p : PortId) (fec : Fin 4) (s : State) : Host.Outcome State Fault Refusal := finish (fecWrite p fec s)

/-! ### What the transmitters send (R78, R81, R92, R96, R107) -/

/-- What a port's transmitter puts on its lane or channel: electrical idle, a PRBS, the received data sent back, frames and idle
between them, local or remote fault ordered sets, or the restart of Clause 37. -/
inductive TxSignal where
  | idle | prbs (pattern : Nat) | echo | frames | localFault | remoteFault | anRestart
  deriving DecidableEq, Repr

/-- A lane sends electrical idle: its team has failed (R575), its quad is asleep or without a reference, TX_DIS is 1, or every
port on it is DISABLED and has nothing left in transmission. -/
def State.laneIdle (s : State) (l : Nat) : Bool :=
  (s.teamAt (l / 112)).failed || !s.domOn (l / 4) || !s.flag (pgSerdes (l / 4)) Reg.SERDES.QSTAT_REF_OK ||
  s.flag (pgSerdes (l / 4)) (Reg.SERDES.LCFG_TX_DIS (l % 4)) ||
  (lanePorts l).all fun p => s.lstate p == 0 && (s.txAt p).isNone

/-- The pattern of a lane's PRBS generator and checker (R107): 0 to 4 for PRBS7, 9, 15, 23 and 31. -/
def State.prbsPattern (s : State) (l : Nat) : Nat := min 4 (s.fld (pgSerdes (l / 4)) (Reg.SERDES.PRBS_PAT (l % 4)))

/-- The transmit taps that a lane applies (R107): pre-cursor, main and post-cursor, each within its range and their sum at most
63. -/
def State.txTaps (s : State) (l : Nat) : Nat × Nat × Nat :=
  let f (r : Nat → Fld) : Nat := s.fld (pgSerdes (l / 4)) (r (l % 4))
  let pre := min 15 (f Reg.SERDES.TXEQ_PRE)
  let post := min 31 (f Reg.SERDES.TXEQ_POST)
  (pre, min (min 63 (f Reg.SERDES.TXEQ_MAIN)) (63 - pre - post), post)

/-- What a port sends. A field port in DOWN or HOLD sends local fault, as R81 says (log 231). Idle of the lane comes before the
far-end loop, and that before PRBS (log 266). -/
def State.txSignal (s : State) (p : Nat) : TxSignal :=
  let l := portLane p
  if s.laneIdle l then .idle
  else if s.fld (pgSerdes (l / 4)) (Reg.SERDES.LCFG_LOOP (l % 4)) = 2 then .echo
  else if s.flag (pgSerdes (l / 4)) (Reg.SERDES.PRBS_GEN_EN (l % 4)) then .prbs (s.prbsPattern l)
  else if s.portUp p || (s.txAt p).isSome then .frames
  else if !isTrunk p then .localFault
  else if s.quadRate (l / 4) = 2 then .anRestart
  else .remoteFault

/-! ### Link events -/

/-- INBAND_STATUS: a field PHY's in-band word, which the device acknowledges (R80). -/
def inbandStatus (p : PortId) (up : Bool) (speed : Fin 8) (half : Bool) (s : State) : State :=
  if isTrunk p || s.portFlag p Reg.PORT.PCFG_AN_BYPASS then s
  else
    let s1 := s.onLink p fun k => { k with up := up, speed := speed, half := half, ack := true }
    (s1.ifDo (half || decide (3 < speed.val)) fun s => s.unsupported p).linksTrack [p.val]
def execInbandStatus (p : PortId) (up : Bool) (speed : Fin 8) (half : Bool) (s : State) :
    Host.Outcome State Fault Refusal := finish (inbandStatus p up speed half s)

/-- A lane loses CDR lock, if it had it (R108); its PRBS checker loses synchronisation with it. -/
def State.cdrLost (s : State) (l : Nat) : State :=
  let page := pgSerdes (l / 4)
  let i := l % 4
  let s1 := (s.each (lanePorts l) fun s p => s.onLink p fun k => { k with lock := false }).setFld page
    (Reg.SERDES.PRBS_CHK_LOCK i) 0
  if s.flag page (Reg.SERDES.RXSTAT_CDR_LOCK i) then
    ((s1.setFld page ⟨(Reg.SERDES.RXSTAT i).off, 2, 1⟩ 0).bump page (Reg.SERDES.CDR_LOSS_CNT i)).raise page i
  else s1

/-- What the PRBS checker of a lane finds (R107): whether it is synchronised, and the bit errors it has seen. -/
def State.prbsSeen (s : State) (l : Nat) (sync : Bool) (errs : Nat) : State :=
  let page := pgSerdes (l / 4)
  let i := l % 4
  let on := sync && s.flag page (Reg.SERDES.PRBS_CHK_EN i) && s.flag page (Reg.SERDES.RXSTAT_CDR_LOCK i)
  let s1 := s.setFld page (Reg.SERDES.PRBS_CHK_LOCK i) (b2n on)
  s1.ifDo on fun s => s.addCtr page (Reg.SERDES.PRBS_ERR i) errs

/-- What a lane's receiver finds (R107): a signal at the balls, and a stream that it locks to. -/
def State.rxSeen (s : State) (l : Nat) (sig locked : Bool) : State :=
  let q := l / 4
  if locked then s.setFld (pgSerdes q) ⟨(Reg.SERDES.RXSTAT (l % 4)).off, 2, 0⟩ 7
  else if sig && s.domOn q then s.setFld (pgSerdes q) (Reg.SERDES.RXSTAT_SIG_DET (l % 4)) 1
  else (s.cdrLost l).setFld (pgSerdes q) (Reg.SERDES.RXSTAT_SIG_DET (l % 4)) 0

/-- LINK_FAULT: the receive conditions of a port's link are now these (R82, R85, R93): block lock or code-group sync
(shared by the ports of a lane), faults received, FEC lock, the Clause 37 result, a signal at the balls, and what a PRBS checker
finds. -/
def linkFault (p : PortId) (lock remote loc fecLock : Bool) (an : Fin 3) (sig prbs : Bool) (errs : Nat) (s : State) : State :=
  let l := portLane p
  let q := l / 4
  let locked := lock && s.quadGood q
  let half := isTrunk p && s.quadRate q == 2 && an.val == 2 && (s.linkAt p).an != 2 &&
    !s.portFlag p Reg.PORT.PCFG_AN_BYPASS
  let s1 := (s.rxSeen l sig (locked || prbs && s.quadGood q)).each (lanePorts l) fun s i => s.onLink i fun k => { k with lock := locked }
  let s2 := s1.onLink p fun k => { k with remote := remote, loc := loc, fecLock := fecLock, an := an }
  ((s2.prbsSeen l prbs errs).ifDo half fun s => s.unsupported p).linksTrack (lanePorts l)
def execLinkFault (p : PortId) (lock remote loc fecLock : Bool) (seen : LaneSeen) (s : State) :
    Host.Outcome State Fault Refusal := finish (linkFault p lock remote loc fecLock seen.an seen.sig seen.prbs seen.errs s)

/-- LINK_UP_QUALIFIED: the link has been good for UP_QUAL µs in DOWN or HOLD. -/
def linkUpQualified (p : PortId) (s : State) : State :=
  if s.linkGood p ∧ (s.lstate p = 1 ∨ s.lstate p = 3) then s.setLstate p 2 else s
def execLinkUpQualified (p : PortId) (s : State) : Host.Outcome State Fault Refusal := finish (linkUpQualified p s)

/-- LINK_DOWN_QUALIFIED: a fault has lasted DOWN_QUAL µs in UP. -/
def linkDownQualified (p : PortId) (s : State) : State :=
  if s.portUp p && !s.linkGood p then
    let s1 := s.portCount p Reg.PORT.LINK_DOWN_EVENTS
    (if s.portFld p Reg.PORT.HOLDCFG_HOLD = 0 then s1.holdExpired p else s1.setLstate p 3).checkPath p
  else s
def execLinkDownQualified (p : PortId) (s : State) : Host.Outcome State Fault Refusal := finish (linkDownQualified p s)

/-- HOLD_EXPIRY: HOLD µs have passed in HOLD. -/
def holdExpiry (p : PortId) (s : State) : State := if s.lstate p = 3 then s.holdExpired p else s
def execHoldExpiry (p : PortId) (s : State) : Host.Outcome State Fault Refusal := finish (holdExpiry p s)

/-- A write of a port's MMCFG (R90). -/
def State.mmcfgWrite (s : State) (p : Nat) (v : W32) : State :=
  (s.plainWrite (pgPort (portGroup p)) (Reg.PORT.MMCFG (portSlot p)).off 0 v).mmTrack p

/-- verifyTime in ms as it acts (R90, R104): how long each verify attempt waits for its response. -/
def State.verifyTime (s : State) (p : Nat) : Nat := min 128 (max 1 (s.portFld p Reg.PORT.MMCFG_VERIFY_TIME))

/-- MM_VERIFY: the verify protocol ends in success or failure (R90). -/
def mmVerify (p : PortId) (ok : Bool) (s : State) : State :=
  if s.portFld p Reg.PORT.MMCFG_VERIFY_STATUS = 2 then
    let s1 := (s.setPortFld p Reg.PORT.MMCFG_VERIFY_STATUS (if ok then 3 else 4)).mmTrack p
    s1.ifDo (!ok) fun s => (s.setPortFld p Reg.PORT.PSTAT_MM_VERIFY_FAIL 1).portRaise p 18
  else s
def execMmVerify (p : PortId) (ok : Bool) (s : State) : Host.Outcome State Fault Refusal := finish (mmVerify p ok s)

/-! ### Quads and lanes (R75 to R78, R107, R108) -/

/-- A write of QCFG.RATE (R75, R76). -/
def State.rateWrite (s : State) (q rate : Nat) : State :=
  let page := pgSerdes q
  if quadIsField q || rate == s.quadRate q then s
  else if rate = 3 ∨ (quadPorts q).any (fun p => s.portFlag p Reg.PORT.PCFG_EN) then
    (s.setFld page Reg.SERDES.QSTAT_RATE_REJECT 1).raise page 6
  else
    let s1 := s.setL page Reg.SERDES.QCFG_RATE rate
    (s1.each (quadPorts q) fun x p => x.ifDo (!x.fecSupported p) fun x => x.unsupported p).linksTrack (quadPorts q)

/-- RATE_WRITE: a host write of QCFG. -/
def rateWrite (q : QuadId) (rate : Fin 4) (s : State) : State :=
  s.wordWrite (pgSerdes q) 0x040 (BitVec.ofNat 32 (setBits 0 Reg.SERDES.QCFG_RATE.hi Reg.SERDES.QCFG_RATE.lo rate)) fun s =>
    s.rateWrite q rate
def execRateWrite (q : QuadId) (rate : Fin 4) (s : State) : Host.Outcome State Fault Refusal := finish (rateWrite q rate s)

/-- The lanes of a quad stop: their CDR lock and the copies in transmission are lost (R78, R96). -/
def State.quadStopped (s : State) (q : Nat) : State :=
  let s1 := s.each (List.range 4) fun s i => s.cdrLost (4 * q + i)
  (s1.each (quadPorts q) State.pathLost).linksTrack (quadPorts q)

/-- CDR_LOSS: a lane loses CDR lock. -/
def cdrLoss (l : LaneId) (s : State) : State := (s.cdrLost l).linksTrack (lanePorts l)
def execCdrLoss (l : LaneId) (s : State) : Host.Outcome State Fault Refusal := finish (cdrLoss l s)

/-- The quad PLL loses lock. -/
def State.quadPllLost (s : State) (q : Nat) : State :=
  if s.flag (pgSerdes q) Reg.SERDES.QSTAT_PLL_LOCK then
    ((s.setFld (pgSerdes q) Reg.SERDES.QSTAT_PLL_LOCK 0).raise (pgSerdes q) 5).quadStopped q
  else s

/-- SDREF_LOSS: a quad's reference is lost, and its PLL is held in reset (R78). -/
def sdrefLoss (q : QuadId) (s : State) : State :=
  if s.flag (pgSerdes q) Reg.SERDES.QSTAT_REF_OK then
    (((s.setFld (pgSerdes q) Reg.SERDES.QSTAT_REF_OK 0).raise (pgSerdes q) 4).quadPllLost q).quadStopped q
  else s
def execSdrefLoss (q : QuadId) (s : State) : Host.Outcome State Fault Refusal := finish (sdrefLoss q s)

/-- SDREF_RESTORE: the reference has been good for 1 ms, and the PLL is released. -/
def sdrefRestore (q : QuadId) (s : State) : State := s.setFld (pgSerdes q) Reg.SERDES.QSTAT_REF_OK 1
def execSdrefRestore (q : QuadId) (s : State) : Host.Outcome State Fault Refusal := finish (sdrefRestore q s)

/-- QUAD_PLL_LOCK: a quad's released PLL locks. -/
def quadPllLock (q : QuadId) (s : State) : State :=
  if s.flag (pgSerdes q) Reg.SERDES.QSTAT_REF_OK && s.domOn q then
    (s.setFld (pgSerdes q) Reg.SERDES.QSTAT_PLL_LOCK 1).linksTrack (quadPorts q)
  else s
def execQuadPllLock (q : QuadId) (s : State) : Host.Outcome State Fault Refusal := finish (quadPllLock q s)

/-- QUAD_PLL_UNLOCK: a quad's PLL loses lock. -/
def quadPllUnlock (q : QuadId) (s : State) : State := s.quadPllLost q
def execQuadPllUnlock (q : QuadId) (s : State) : Host.Outcome State Fault Refusal := finish (quadPllUnlock q s)

/-- A write of a lane's LCFG: TX_DIS cuts short what the lane sends (R96), and nothing more is looped once LOOP is not
near-end. -/
def State.lcfgWrite (s : State) (q i : Nat) (v : W32) : State :=
  (s.plainWrite (pgSerdes q) (Reg.SERDES.LCFG i).off 0 v).each (lanePorts (4 * q + i)) fun s p =>
    (if s.nearLoop p then s else s.onLink p fun k => { k with looped := [] }).checkPath p
/-- A write of a lane's PRBS register: a running generator is a fault of the lane's links (R93); a checker switched off is not
synchronised. -/
def State.prbsWrite (s : State) (q i : Nat) (v : W32) : State :=
  let s1 := s.plainWrite (pgSerdes q) (Reg.SERDES.PRBS i).off 0 v
  (s1.ifDo (!s1.flag (pgSerdes q) (Reg.SERDES.PRBS_CHK_EN i)) fun s => s.setFld (pgSerdes q) (Reg.SERDES.PRBS_CHK_LOCK i) 0).linksTrack (lanePorts (4 * q + i))

/-! ### MDIO (R101 to R103) -/

/-- The page of an MDIO bus. -/
def mdioPage (m : Nat) : Nat := pgPort (8 * m)

/-- A frame ends: with data, or with ERR. -/
def State.mdioEnd (s : State) (m : Nat) (err : Bool) (data : Nat) : State :=
  let s1 := (s.putMdio m none).wr (mdioPage m) Reg.PORT.MDIO_RESULT.off
    (BitVec.ofNat 32 (2 ^ 31 + b2n err * 2 ^ 29 + if err then 0 else data % 65536))
  (s1.raise (mdioPage m) 19).ifDo err fun s => s.raise (mdioPage m) 20

/-- A write of MDIO_CMD. -/
def State.mdioCmdWrite (s : State) (m : Nat) (v : W32) : State :=
  let page := mdioPage m
  if s.flag page Reg.PORT.MDIO_RESULT_BUSY then s.setFld page Reg.PORT.MDIO_STAT_CMD_LOST 1
  else
    let op := bits v.toNat 30 29
    let bad := op == 3 || (op == 0 && !bit v.toNat 31) || !s.flag pgTime Reg.TIME.STAT_REF_OK
    if bad then s.mdioEnd m true 0
    else (s.wr page Reg.PORT.MDIO_RESULT.off 0x40000000).putMdio m (some v)

/-- The 25 MHz reference is absent: the frame in progress ends with ERR (R103). -/
def State.mdioAbort (s : State) (m : Nat) : State := if (s.mdioAt m).isSome then s.mdioEnd m true 0 else s

/-- An MDIO_CMD word with its OP field set. -/
def mdioWord (v : W32) (op : Nat) : W32 := BitVec.ofNat 32 (setBits v.toNat 30 29 op)

/-- A host write of MDIO_CMD of a bus. -/
def State.mdioCmd (s : State) (m : Nat) (v : W32) : State :=
  s.wordWrite (mdioPage m) Reg.PORT.MDIO_CMD.off v fun s => s.mdioCmdWrite m v

/-- MDIO_ADDRESS: an MDIO_CMD write with OP 0. -/
def mdioAddress (m : Fin 4) (v : W32) (s : State) : State := s.mdioCmd m (mdioWord v 0)
def execMdioAddress (m : Fin 4) (v : W32) (s : State) : Host.Outcome State Fault Refusal := finish (mdioAddress m v s)
/-- MDIO_WRITE: an MDIO_CMD write with OP 1. -/
def mdioWrite (m : Fin 4) (v : W32) (s : State) : State := s.mdioCmd m (mdioWord v 1)
def execMdioWrite (m : Fin 4) (v : W32) (s : State) : Host.Outcome State Fault Refusal := finish (mdioWrite m v s)
/-- MDIO_READ: an MDIO_CMD write with OP 2. -/
def mdioRead (m : Fin 4) (v : W32) (s : State) : State := s.mdioCmd m (mdioWord v 2)
def execMdioRead (m : Fin 4) (v : W32) (s : State) : Host.Outcome State Fault Refusal := finish (mdioRead m v s)
/-- MDIO_RESERVED: an MDIO_CMD write with OP 3. -/
def mdioReserved (m : Fin 4) (v : W32) (s : State) : State := s.mdioCmd m (mdioWord v 3)
def execMdioReserved (m : Fin 4) (v : W32) (s : State) : Host.Outcome State Fault Refusal := finish (mdioReserved m v s)

/-- MDIO_DONE: a frame has run its 64 MDC periods; a read finds the turnaround bit driven low (`ack`) and reads `data`. Before
forwarding begins MDC and MDIO are not driven (R504), so no PHY answers (log 284). -/
def mdioDone (m : Fin 4) (ack : Bool) (data : W16) (s : State) : State :=
  match s.mdioAt m with
  | some v =>
    if !s.flag (mdioPage m) Reg.PORT.MDIO_CFG_EN then s
    else if bits v.toNat 30 29 = 2 then s.mdioEnd m (!(ack && s.boot.forwards)) data.toNat
    else s.mdioEnd m false 0
  | none => s
def execMdioDone (m : Fin 4) (ack : Bool) (data : W16) (s : State) : Host.Outcome State Fault Refusal :=
  finish (mdioDone m ack data s)

end Sys2Proof.Machine
end

