-- ==== Sys2Proof/Machine/TimeUnit.lean ====
section
/-! DEFINITION. The time unit (R61 to R74): setting and adjusting the time, its validity, the grid modes, and PPS. -/

namespace Sys2Proof.Machine

/-! ### Rate and course (R61) -/

/-- FREQ_ADJ is out of range. -/
def freqOut (v : W32) : Bool := decide (0x20C49BA6 < v.toInt ∨ v.toInt < -0x20C49BA6)
/-- The rate that acts. -/
def State.freqRate (s : State) : Int := max (-0x20C49BA6) (min 0x20C49BA6 (s.rd pgTime Reg.TIME.FREQ_ADJ.off).toInt)

/-- One clock of the time unit: 4 ns scaled by the rate, while the time runs. -/
def State.timeClock (s : State) : State :=
  if s.timeValid then
    let x := s.time.sub + (4 * ((2 ^ 40 : Int) + s.freqRate)).toNat
    { s with time := { s.time with now := s.time.now + x / 2 ^ 40, sub := x % 2 ^ 40 } }
  else s

/-! ### The grid's course (R45, R63 to R65) -/

/-- The first grid point at or after an instant. -/
def gridPoint (t : Nat) : Nat := ceilDiv t 1280 * 1280
/-- The benches take edges from the grid. -/
def State.gridOn (s : State) : Bool := s.flag pgTime Reg.TIME.STAT_GRID_MODE_A
def State.setGridMode (s : State) (v : Nat) : State :=
  (s.setFld pgTime Reg.TIME.STAT_GRID_MODE_A v).setFld pgTime Reg.TIME.STAT_GRID_MODE_B v

/-- The core clocks that `ns` nanoseconds take, at 1.05 GHz (R46). -/
def clocksOf (ns : Int) : Int := ns * 21 / 20

/-- A bench comes onto the grid, the grid tick `n` having run `ran` clocks and ending in `left`, and its own tick having run
`own`: its tick is the running one, a later one, or an earlier one, whose grid edge has passed (R48, R63). -/
def TickSt.join (h : TickSt) (n own ran left : Nat) : TickSt :=
  let m := h.num.toNat
  let ahead : Int := 1344 * ((m : Int) - n)
  if n ≤ m then { h with grid := own + left + ahead, longer := [] }
  else { h with grid := (own : Int) - ran + ahead + 1344, longer := [(n, (ran : Int) + left - 1344)] }

/-- Grid mode is entered: the running grid tick and each bench's free tick have run some clocks, free values, and the grid tick
ends at the first grid point from now (R63). -/
def State.enterGrid (s : State) : State :=
  let edge := gridPoint s.time.now
  let left := (clocksOf ((edge : Int) - s.time.now)).toNat
  let (ran, s0) := s.free 11
  let s1 := { s0.setGridMode 1 with time := { s0.time with nextEdge := edge, realign := none } }
  s1.each (List.range 8) fun s b =>
    let (v, s1) := s.free 11
    s1.onTick b fun h => h.join s.gridTick (v % (h.len + 1)) (ran % 1345) left

/-- Grid mode is left (R65): the tick being counted keeps its length. -/
def State.leaveGrid (s : State) : State :=
  let s1 := s.setGridMode 0
  { s1 with time := { s1.time with src := 0, alone := 0, realign := none } }

/-- Every pending config change whose time has come completes (R323, R324), the gate modes follow (R320), and what the ports
send follows their gates (R330, R333). -/
def State.gatesFollow (s : State) : State :=
  let s1 := s.each (List.range 512) fun s p => if s.gateEn p then s.gateTrack p else s
  let s2 := s1.each (s.gate.map Prod.fst) fun s p =>
    let s1 := s.onGate p fun g => { g with seen := none }
    let s2 := if s1.timeValid && s1.gatePending p && decide (s1.cct p ≤ s1.time.now) then s1.changeComplete p else s1
    s2.gateTrack p
  s2.each ((s2.tx.map Prod.fst).filter fun p => p < 512) State.gateFollow

/-- The course of the time as it becomes valid. -/
def TimeSt.found (t : TimeSt) : List TimeEvent :=
  match t.hist with
  | e :: rest => { e with after := t.now } :: rest
  | [] => [{ lost := true, before := none, after := t.now }]

/-- TIME_VALID and the grid modes follow the reference, the PLL, TIME_EN and GRID_EN (R64, R65). -/
def State.timeTrack (s : State) : State :=
  let was := s.timeValid
  let now := s.flag pgTime Reg.TIME.STAT_REF_OK && s.flag pgTime Reg.TIME.STAT_TIME_PLL_LOCK &&
    s.flag pgTime Reg.TIME.CTRL_TIME_EN && s.domOn domTime
  let s1 := s.setFld pgTime Reg.TIME.STAT_TIME_VALID (b2n now)
  let s2 := if was && !now then
      ({ s1 with time := { s1.time with
        ppsOut := false, hist := { lost := true, before := some s1.time.now, after := s1.time.now } :: s1.time.hist } }).sagPlanAll.gatesFollow
    else if !was && now then ({ s1 with time := { s1.time with hist := s1.time.found } }).gatesFollow
    else s1
  let grid := now && s2.flag pgTime Reg.TIME.CTRL_GRID_EN
  if grid && !s2.gridOn then s2.enterGrid
  else if !grid && s2.gridOn then s2.leaveGrid
  else s2

/-! ### Setting the time (R62, R63) -/

/-- Times wrap at 2⁴⁸ seconds. -/
def timeSpan : Nat := 2 ^ 48 * 1000000000

/-- The time becomes `t`: the running grid tick ends at the first grid point from there, earlier or later than it would have
(R63); gates and gated units follow (R321, R461). -/
def State.timeStep (s : State) (t : Nat) : State :=
  let old := s.time
  let edge := gridPoint t
  let left : Int := clocksOf ((old.nextEdge : Int) - old.now) + old.realign.getD 0
  let added := left - clocksOf ((edge : Int) - t)
  let hist := if s.timeValid then { lost := false, before := some old.now, after := t } :: old.hist else old.hist
  let s1 := { (s.sagShift t) with time := { old with now := t, sub := 0, hist := hist } }
  let s2 := if s1.gridOn then
      { s1 with time := { s1.time with nextEdge := edge, realign := some (min 1345 added) } }
    else s1
  let s3 := if s2.timeValid then s2.gatesFollow else s2
  s3.sagPlanAll

/-- A write of CMD.SET. -/
def State.timeSetCmd (s : State) : State :=
  let ns := s.fld pgTime Reg.TIME.SET_NS
  if 1000000000 ≤ ns then s.raise pgTime 8
  else s.timeStep ((s.fld pgTime Reg.TIME.SET_SEC_HI * 2 ^ 32 + s.fld pgTime Reg.TIME.SET_SEC_LO) * 1000000000 + ns)

/-- TIME_SET: a host write of CMD with SET = 1. -/
def timeSet (s : State) : State := s.hostWrite pgTime State.timeSetCmd
def execTimeSet (s : State) : Host.Outcome State Fault Refusal := finish (timeSet s)

/-- A write of ADJ_NS. -/
def State.timeAdjustCmd (s : State) (v : W32) : State :=
  if 999999999 < v.toInt.natAbs then s.raise pgTime 8
  else s.timeStep ((((s.time.now : Int) + v.toInt) % (timeSpan : Int)).toNat)

/-- TIME_ADJUST: a host write of ADJ_NS. -/
def timeAdjust (v : W32) (s : State) : State := s.hostWrite pgTime fun s => s.timeAdjustCmd v
def execTimeAdjust (v : W32) (s : State) : Host.Outcome State Fault Refusal := finish (timeAdjust v s)

/-- A write of FREQ_ADJ (R61). -/
def State.freqAdjWrite (s : State) (v : W32) : State :=
  let s1 := (s.wrL pgTime Reg.TIME.FREQ_ADJ.off v).setFld pgTime Reg.TIME.STAT_FREQ_CLAMPED (b2n (freqOut v))
  s1.ifDo (freqOut v) fun s => s.raise pgTime 7

/-- FREQ_ADJ_WRITE: a host write of FREQ_ADJ. -/
def freqAdjWrite (v : W32) (s : State) : State := s.hostWrite pgTime fun s => s.freqAdjWrite v
def execFreqAdjWrite (v : W32) (s : State) : Host.Outcome State Fault Refusal := finish (freqAdjWrite v s)

/-- A write of TIME.CTRL (R64, R65, R71). -/
def State.timeCtrlWrite (s : State) (v : W32) : State :=
  let s1 := (s.plainWrite pgTime Reg.TIME.CTRL.off 0 v).timeTrack
  if s1.flag pgTime Reg.TIME.CTRL_PPS_OUT_EN then s1 else { s1 with time := { s1.time with ppsOut := false } }

/-- GRID_EN_WRITE: a host write of CTRL.GRID_EN. -/
def gridEnWrite (en : Bool) (s : State) : State :=
  s.hostWrite pgTime fun s =>
    s.timeCtrlWrite (BitVec.ofNat 32 (setBits (s.rd pgTime Reg.TIME.CTRL.off).toNat 1 1 (b2n en)))
def execGridEnWrite (en : Bool) (s : State) : Host.Outcome State Fault Refusal := finish (gridEnWrite en s)

/-! ### Reference and PLL (R64, R103, R450) -/

/-- The 25 MHz reference is absent: the teams run on their RC oscillators (R450). -/
def State.noRef (s : State) : State := (s.wr pgDev Reg.PWRD.CLK_STAT.off 0x80).raise pgDev 5

/-- TIME_REF_LOSS: REFCLK25 has made no edge for 2 µs. The time goes invalid, MDIO frames end, and the teams run on their
RC oscillators. -/
def timeRefLoss (s : State) : State :=
  if s.flag pgTime Reg.TIME.STAT_REF_OK then
    let s1 := ((s.setFld pgTime Reg.TIME.STAT_REF_OK 0).setFld pgTime Reg.TIME.STAT_TIME_PLL_LOCK 0).raise pgTime 0
    (s1.noRef.each [0, 1, 2, 3] State.mdioAbort).timeTrack
  else s
def execTimeRefLoss (s : State) : Host.Outcome State Fault Refusal := finish (timeRefLoss s)

/-- TIME_PLL_UNLOCK: the time PLL loses lock while the reference is present. -/
def timePllUnlock (s : State) : State :=
  if s.flag pgTime Reg.TIME.STAT_TIME_PLL_LOCK && s.flag pgTime Reg.TIME.STAT_REF_OK then
    ((s.setFld pgTime Reg.TIME.STAT_TIME_PLL_LOCK 0).raise pgTime 1).timeTrack
  else s
def execTimePllUnlock (s : State) : Host.Outcome State Fault Refusal := finish (timePllUnlock s)

/-- TIME_VALID: the reference is present and the time PLL locks; the time is valid while TIME_EN = 1. -/
def timeValid (s : State) : State :=
  if s.domOn domTime then
    let s1 := (s.setFld pgTime Reg.TIME.STAT_REF_OK 1).setFld pgTime Reg.TIME.STAT_TIME_PLL_LOCK 1
    (s1.setFld pgDev Reg.PWRD.CLK_STAT_NO_REF 0).timeTrack
  else s
def execTimeValid (s : State) : Host.Outcome State Fault Refusal := finish (timeValid s)

/-! ### PPS (R70, R71) -/

/-- PPS_IN_CAPTURE: an edge of PPS_IN, falling or rising. -/
def ppsInCapture (falling : Bool) (s : State) : State :=
  if s.flag pgTime Reg.TIME.CTRL_PPS_IN_EN && s.flag pgTime Reg.TIME.CTRL_PPS_IN_FALL == falling && s.domOn domTime then
    let t := s.stamp
    let s1 := s.ifDo (s.flag pgTime Reg.TIME.PPS_IN_SEC_HI_NEW) fun s => s.bump pgTime Reg.TIME.PPS_IN_LOST
    let s2 := s1.wr pgTime Reg.TIME.PPS_IN_NS.off (BitVec.ofNat 32 (nsOf t))
    ({ s2 with time := { s2.time with capSec := secOf t } }.setFld pgTime Reg.TIME.PPS_IN_SEC_HI_NEW 1).raise pgTime 2
  else s
def execPpsInCapture (falling : Bool) (s : State) : Host.Outcome State Fault Refusal := finish (ppsInCapture falling s)

/-- PPS_OUT_OFFSET and PPS_OUT_WIDTH (ns) as they act. -/
def State.ppsOffset (s : State) : Nat := min 999999999 (s.fld pgTime Reg.TIME.PPS_OUT_OFFSET)
def State.ppsWidth (s : State) : Nat := 1000 * min 999999 (max 1 (s.fld pgTime Reg.TIME.PPS_OUT_WIDTH))

/-- PPS_OUT_RISE: the next second plus PPS_OUT_OFFSET comes. Before forwarding begins the ball stays high impedance (R504). -/
def ppsOutRise (s : State) : State :=
  if s.boot.forwards && s.timeValid && s.flag pgTime Reg.TIME.CTRL_PPS_OUT_EN && !s.time.ppsOut then
    let o := s.ppsOffset
    let t := s.time.now / 1000000000 * 1000000000 + o
    let s1 := s.reach (if t < s.time.now then t + 1000000000 else t)
    { s1 with time := { s1.time with ppsOut := true } }
  else s
def execPpsOutRise (s : State) : Host.Outcome State Fault Refusal := finish (ppsOutRise s)

/-- PPS_OUT_FALL: PPS_OUT_WIDTH has passed since the last rise. -/
def ppsOutFall (s : State) : State :=
  if s.time.ppsOut then
    let since := (s.time.now + 1000000000 - s.ppsOffset) % 1000000000
    let s1 := s.reach (s.time.now - since + s.ppsWidth)
    { s1 with time := { s1.time with ppsOut := false } }
  else s
def execPpsOutFall (s : State) : Host.Outcome State Fault Refusal := finish (ppsOutFall s)

/-! ### Reads that latch (R70, R73) -/

/-- A read of NOW_NS. -/
def State.nowRead (s : State) : W32 × State :=
  let t := s.time.now
  (BitVec.ofNat 32 (nsOf t), (s.setFld pgTime Reg.TIME.NOW_SEC_LO (secOf t)).setFld pgTime Reg.TIME.NOW_SEC_HI (secOf t / 2 ^ 32))
/-- NOW_NS_READ: a host read of NOW_NS. -/
def nowNsRead (s : State) : State := s.hostRead pgTime State.nowRead
def execNowNsRead (s : State) : Host.Outcome State Fault Refusal := finish (nowNsRead s)

/-- A read of GRID_TICK_LO. -/
def State.gridTickRead (s : State) : W32 × State :=
  let t := s.time.edge
  let n := s.gridTick
  let s1 := (s.setFld pgTime Reg.TIME.GRID_TICK_HI (n / 2 ^ 32)).setFld pgTime Reg.TIME.EDGE_NS (nsOf t)
  (BitVec.ofNat 32 n, (s1.setFld pgTime Reg.TIME.EDGE_SEC_LO (secOf t)).setFld pgTime Reg.TIME.EDGE_SEC_HI (secOf t / 2 ^ 32))
/-- GRID_TICK_LO_READ: a host read of GRID_TICK_LO. -/
def gridTickLoRead (s : State) : State := s.hostRead pgTime State.gridTickRead
def execGridTickLoRead (s : State) : Host.Outcome State Fault Refusal := finish (gridTickLoRead s)

/-- A read of PPS_IN_NS. -/
def State.ppsInRead (s : State) : W32 × State :=
  let t := s.time.capSec
  (s.rd pgTime Reg.TIME.PPS_IN_NS.off,
    (s.setFld pgTime Reg.TIME.PPS_IN_SEC_LO t).wr pgTime Reg.TIME.PPS_IN_SEC_HI.off (BitVec.ofNat 32 (t / 2 ^ 32 % 65536)))
/-- PPS_IN_NS_READ: a host read of PPS_IN_NS. -/
def ppsInNsRead (s : State) : State := s.hostRead pgTime State.ppsInRead
def execPpsInNsRead (s : State) : Host.Outcome State Fault Refusal := finish (ppsInNsRead s)

/-- A read of ETS0 of a bench. -/
def State.etsRead (s : State) (b : Nat) : W32 × State :=
  match (s.tickAt b).ets with
  | [] => (0, s)
  | (p, tag, t) :: rest =>
    let s1 := s.onTick b fun h => { h with ets := rest }
    (BitVec.ofNat 32 (2 ^ 31 + p % 512 * 65536 + tag % 65536),
      ((s1.setFld pgTime (Reg.TIME.ETS1 b) (nsOf t)).setFld pgTime (Reg.TIME.ETS2 b) (secOf t)).setFld pgTime
        (Reg.TIME.ETS3 b) (secOf t / 2 ^ 32))
/-- ETS0_READ: a host read of a bench's ETS0. -/
def ets0Read (b : BenchId) (s : State) : State := s.hostRead pgTime fun s => s.etsRead b
def execEts0Read (b : BenchId) (s : State) : Host.Outcome State Fault Refusal := finish (ets0Read b s)

end Sys2Proof.Machine
end

