-- ==== Sys2Proof/Machine/Restore.lean ====
section
/-! DEFINITION. Registers that a domain loses and takes back (R14, R442, R464, R466): clearing pages, applying the lehr
image, and what follows from restored settings. -/

namespace Sys2Proof.Machine

/-- Registers, counters, snapshots and latches of the pages that meet `f` take their factory values. -/
def State.clearPages (s : State) (f : Nat → Bool) : State :=
  let g (k : Nat) : Bool := f (k / 4096 / 1024)
  { s with regs := s.regs.clear g, ctrs := s.ctrs.clear g, snaps := s.snaps.clear g, vlatch := s.vlatch.clear g,
           clatch := s.clatch.clear fun k => f (k / 2), failLog := s.failLog.clear f }

/-- What a domain's pages lose with its supply: all but the common registers, so that a page that was pending stays pending
(R525). -/
def State.clearBlocks (s : State) (f : Nat → Bool) : State :=
  let t := s.clearPages f
  { t with regs := s.regs.clear fun k => f (k / 4096 / 1024) && decide (8 ≤ k / 4096 % 1024) }

/-! ### What follows from restored settings -/

/-- A port follows its restored PCFG and MMCFG (R92). -/
def State.portHook (s : State) (p : Nat) : State :=
  let en := s.portFlag p Reg.PORT.PCFG_EN
  let s1 :=
    if en && s.lstate p == 0 then s.setLstate p 1
    else if !en && s.lstate p != 0 then (((s.setLstate p 0).portFlush p).learnedFlush p).checkPath p
    else s
  (s1.mmTrack p).fecTrack p

/-- The MIRR words a bench commits. -/
def State.mirrWords (s : State) : Tab W32 :=
  (s.regs.filter fun e => decide (e.1 / 4096 / 1024 = pgMirr) && decide (rwBits pgMirr (e.1 / 4096 % 1024 * 4) ≠ 0)).foldl
    (fun t e => Tab.set (fun _ => (0 : W32)) t (e.1 / 4096 % 1024 * 4) e.2) []

/-- The hardware follows the restored settings of a page. -/
def State.pageHook (s : State) (p : Nat) : State :=
  let i := p % 256
  let live (b : Nat) : List Nat := (List.range 64).map (localPort b)
  match pageKind p with
  | some .port =>
    let ps := (List.range 16).map (groupPort i)
    (s.each ps State.portHook).linksTrack ps
  | some .serdes => (s.each (quadPorts i) fun s p => (s.fecTrack p).checkPath p).linksTrack (quadPorts i)
  | some .time =>
    let v := s.rd pgTime Reg.TIME.FREQ_ADJ.off
    ((s.setFld pgTime Reg.TIME.STAT_FREQ_CLAMPED (b2n (freqOut v))).timeTrack).rclkTrack
  | some .fdb => s.onFdb i fun f => { f with wait := s.ageDiv i, tracking := s.flag p Reg.FDB.LCFG_FLAP_EN }
  | some .cls =>
    if i % 4 = 0 then
      s.each (teamBenches (i / 4)) fun s b => s.onTabs b fun t => { t with
        rtclass := (List.range 16).foldl (fun m c =>
          Tab.set (fun _ => 0) m c (s.rd p (Reg.CLS.RTCLASS c).off).toNat) t.rtclass }
    else s
  | some .mirr =>
    let m := s.mirrWords
    s.each (List.range 8) fun s b => s.onMirror b fun x => { x with mirr := m }
  | some .gate => s.each (live i) fun s p => (s.gateTrack p).gateFollow p
  | some .crucp => s.setFld pgPhy Reg.CRUCP.PHY_STAT_TRAIN_VALID s.lehr.train
  | _ => s

/-! ### The lehr image (R442, R464) -/

/-- A ·L field takes its restored value: CH_CFG of a channel beyond TRAINING takes none, and a change of it is rejected (R404; log
278). -/
def State.restoreWord (s : State) (w : ImgWord) : State :=
  let m := lehrBits w.page w.off
  let old := s.rd w.page w.off w.idx
  let new := BitVec.ofNat 32 ((old.toNat &&& (0xFFFFFFFF ^^^ m)) ||| (w.val &&& m))
  if pageKind w.page = some .crucc ∧ w.off = 0x044 ∧ 1 < s.chState (w.page % 256) then
    if new = old then s else s.raise w.page 5
  else s.wr w.page w.off new w.idx

/-- The lehr image is applied to the pages that meet `f`. -/
def State.takeImage (s : State) (f : Nat → Bool) : State :=
  ((s.image_.1.filter fun w => f w.page && w.names && lehrBits w.page w.off != 0).foldl State.restoreWord s).each (allPages.filter f) State.pageHook
/-- Pages take the image at a wake or a start, and note it in RESTORED (R518). -/
def State.applyImage (s : State) (f : Nat → Bool) : State :=
  (s.each (allPages.filter f) fun s p => s.setFld p Reg.COMMON.RESTORED 1).takeImage f

/-- Skipped records of an image that is applied (R464). -/
def State.countSkipped (s : State) : State := s.addCtr pgDev Reg.PWRD.SKIPPED (badRecords s.image_.1)

/-- A domain returns to ON from a state that lost it: its pages at factory values but for the ·L fields, which the
image gives while it is valid (R442). -/
def State.restoreDomain (s : State) (d : Nat) : State :=
  let f (p : Nat) : Bool := pageDomain p == d
  if s.lehrValid then s.applyImage f else s.each (allPages.filter f) State.pageHook

/-! ### What a bench, a port and a domain hold -/

/-- A bench's side of buffers, core, queues, bridge and transmission is gone. -/
def State.dropBench (s : State) (b : Nat) : State :=
  let ports := (List.range 64).map (localPort b)
  let mine (p : Nat) : Bool := ports.contains (p % 512)
  { s with
    buf := s.buf.clear (· == b), core := s.core.clear (· == b), mar := s.mar.clear (· == b),
    fdb := s.fdb.clear (· == b), queue := s.queue.clear (· / 1024 == b),
    tx := s.tx.clear mine, rx := s.rx.clear mine, sched := s.sched.clear mine }

/-- What a port's receive side holds of the frame in reception is gone, as its quad goes OFF (log 267). -/
def State.dropRx (s : State) (p : Nat) : State :=
  ((s.onLink p fun k => { k with asm := none }).putRx p {}).putRx (512 + p) {}

/-- Tables that a team's table banks hold (see the assumption log). -/
def State.dropTables (s : State) (t : Nat) : State :=
  let s1 := { s with tabs := s.tabs.clear (· / 4 == t) }
  s1.onTeam t fun m => { m with meters := [], filters := [], seqs := [], changes := [] }

/-- A new device key is drawn (R393). -/
def State.drawKey (s : State) (c : Nat) : State :=
  let (a, s1) := s.free 128
  let (b, s2) := s1.free 128
  s2.putCiph c { devKey := a * 2 ^ 128 + b }

/-- A domain has lost its supply: registers and arrays are gone (R440, R442); the common registers take their factory values as it
returns (R518, R525). -/
def State.loseDomain (s : State) (d : Nat) : State :=
  let s1 := s.clearBlocks fun p => pageDomain p == d
  if d < 56 then
    let s2 := s1.each (quadPorts d) fun s p => ((s.onLink p fun _ => {}).dropRx p).pathLost p
    s2.linksTrack (quadPorts d)
  else if d < 64 then
    let b := d - 56
    let s2 := { s1 with mar := s1.mar.clear (· == b), fdb := s1.fdb.clear (· == b) }
    { s2 with boot := { s2.boot with imgLost := (b :: s2.boot.imgLost).eraseDups, open_ := s2.boot.open_.filter (· != b) } }
  else if d < 72 then
    let b := d - 64
    let ports := (List.range 64).map (localPort b)
    let s2 := s1.each ports State.pathLost
    { s2 with core := s2.core.clear (· == b), queue := s2.queue.clear (· / 1024 == b),
              gate := s2.gate.clear ports.contains, sched := s2.sched.clear ports.contains }
  else if d < 88 then s1.dropTables ((d - 72) / 8)
  else if d < 96 then
    let b := d - 88
    { s1 with buf := s1.buf.clear (· == b), boot := { s1.boot with open_ := s1.boot.open_.filter (· != b) } }
  else if d < 100 then s1.drawKey (d - 96)
  else if d < 102 then
    let t := d - 100
    { s1 with half := s1.half.clear (· == t), chan := s1.chan.clear (· / 16 == t) }.stepOver 32
  else if d = domTime then s1.timeTrack
  else s1

end Sys2Proof.Machine
end

