-- ==== Sys2Proof/Machine/Reset.lean ====
section
/-! DEFINITION. What ends a team or the whole device: a failed team (R24, R41, R575), full reset (R478 to R483), cold
reset (R480, R550, R551), and the events of the supplies. -/

namespace Sys2Proof.Machine

/-! ### The BOOT page (R506) -/

/-- A BOOT.CMD result becomes final. -/
def State.cmdFinal (s : State) (status : Nat) : State :=
  ({ s with boot := { s.boot with cmdWait := 0 } }.wr pgBoot Reg.BOOT.CMD_RESULT.off
    (BitVec.ofNat 32 (2 ^ 31 + status * 2 ^ 27))).raise pgBoot 5

/-- The stage of the start changes (R484). -/
def State.setStage (s : State) (n : Nat) : State :=
  { s with boot := { s.boot with stage := n } }.setFld pgBoot Reg.BOOT.STAGE_STAGE n

/-- A bench can open admission: its team, hub and domains stand (R499). -/
def State.benchCan (s : State) (b : Nat) : Bool :=
  s.hubUp (benchTeam b) && s.domSteady (domIngress b) && s.domSteady (domEgress b) && s.domSteady (domBuffer b)

/-- A GO whose benches have all opened or failed is final (R499); its result shows where no BOOT.CMD has been written since
(R506). -/
def State.goCheck (s : State) : State :=
  if s.boot.stage ≠ 8 ∨ s.pins.sharedDown then s
  else
    let wait := s.boot.going.filter fun b => s.benchCan b && !s.flag (pgBuf b) Reg.BUF.BUFSTAT_CFG_ERR
    let s1 := { s with boot := { s.boot with going := wait } }
    if !wait.isEmpty then s1
    else
      let all := (List.range 8).all s.boot.open_.contains
      let s2 :=
        if all then
          let (v, s2) := (s1.setStage 9).free 32
          { (s2.wr pgBoot Reg.BOOT.START_US.off (BitVec.ofNat 32 v)).raise pgBoot 1 with
            boot := { s2.boot with warned := false } }
        else s1.setStage 7
      if s.boot.goCmd then s2.ifDo (s.boot.cmdWait == 1) (·.cmdFinal (if all then 0 else 1))
      else if all then s2 else s2.raise pgBoot 0

/-! ### A failed team (R24, R41, R575) -/

/-- A team is found failed: everything in it stops, its lanes go idle, and its hub gives no answer, until full reset. -/
def State.teamFail (s : State) (t : Nat) : State :=
  if (s.teamAt t).failed then s
  else
    let s1 := s.onTeam t fun m => { m with failed := true }
    let s2 := (teamBenches t).foldl State.dropBench (s1.dropUnits t)
    let s3 := s2.each ((List.range 512).filter fun p => benchTeam (portBench p) == t) State.dropRx
    let s4 := s3.each (List.range 4) fun s i =>
      (s.onBridge (4 * t + i) fun x => { x with fifo := [], sent := 0 }).onBridge (4 * (1 - t) + i) fun x => { x with xfer := none }
    let gone (b : Nat) : Bool := benchTeam b == t
    { s4 with boot := { s4.boot with open_ := s4.boot.open_.filter fun b => !gone b } }.goCheck

/-- TEAM_RAIL_FALL: a core rail of the team falls below its operating range (R552): the team is found failed, and its HBM half
with it (R426). -/
def teamRailFall (t : Team) (s : State) : State := (s.failHalf (teamNo t)).teamFail (teamNo t)
def execTeamRailFall (t : Team) (s : State) : Host.Outcome State Fault Refusal := finish (teamRailFall t s)

/-- A team's bit of a pair in CLK_CTRL or CLK_STAT. -/
def clkBit (t : Nat) (a b : Fld) : Fld := if t = 0 then a else b
def clkSel (t : Nat) : Fld := clkBit t Reg.PWRD.CLK_CTRL_SEL_A Reg.PWRD.CLK_CTRL_SEL_B
def clkOn (t : Nat) : Fld := clkBit t Reg.PWRD.CLK_STAT_ON_PLL_A Reg.PWRD.CLK_STAT_ON_PLL_B
def clkLock (t : Nat) : Fld := clkBit t Reg.PWRD.CLK_STAT_LOCK_A Reg.PWRD.CLK_STAT_LOCK_B

/-- TEAM_PLL_UNLOCK: the team PLL loses lock; after the switch of R449 the team is found failed (R575), and its HBM half with it
(R426). -/
def teamPllUnlock (t : Team) (s : State) : State :=
  let n := teamNo t
  let s1 := s.setFld pgDev (clkLock n) 0
  if s.flag pgDev (clkOn n) then (s1.failHalf n).teamFail n else s1
def execTeamPllUnlock (t : Team) (s : State) : Host.Outcome State Fault Refusal := finish (teamPllUnlock t s)

/-- SHARED_RAIL_FALL: VCORE_S falls: the host, time and gaffer domains and the HBM PHY stop (R552). -/
def sharedRailFall (s : State) : State :=
  if s.pins.sharedDown then s
  else
    let s1 := (((s.failHalf 0).failHalf 1).raise pgPhy 2).setFld pgTime Reg.TIME.STAT_TIME_PLL_LOCK 0
    { s1.timeTrack with pins := { s.pins with sharedDown := true }, pcie := {} }
def execSharedRailFall (s : State) : Host.Outcome State Fault Refusal := finish (sharedRailFall s)

/-! ### Full reset (R478 to R483) -/

/-- A pseudo-channel enters self-refresh at a full reset, or is in it (R429). -/
def State.selfRefresh (s : State) (c : Nat) : Bool := !s.pins.hbmLost && (s.chState c == 2 || s.chState c == 4)

/-- The image that a half keeps over a full reset (R429): none where IMG_STAT.VALID falls. -/
def State.keptImage (s : State) (t : Nat) : Option TableImage :=
  if s.pins.hbmLost ∨ s.halfState t = 4 ∨ !(teamChans t).any s.selfRefresh then none
  else if s.flag (pgHalf t) Reg.CRUCH.IMG_STAT_VALID then (s.halfAt t).kept
  else none

/-- A start is running (R481). -/
def State.starting (s : State) : Bool := decide (1 ≤ s.boot.stage ∧ s.boot.stage ≤ 6 ∨ s.boot.stage = 8 ∧ !s.boot.goCmd)

/-- Free bytes over a run of the boot flash (R483, R571). -/
def State.flashOpen (s : State) (a n : Nat) : State :=
  { s with flash := Tab.setList zeroByte s.flash a ((List.range n).map fun i => (Config.freeValue (s.nonce + i)).setWidth 8),
           nonce := s.nonce + n }

/-- A flash program or erase in progress is abandoned (R483). -/
def State.flashAbandon (s : State) : State :=
  match s.boot.flash with
  | some (1, a, _) => s.flashOpen a 256
  | some (2, a, _) => s.flashOpen a 4096
  | _ => s

/-- Every domain OFF but the always-on island, and the HBM domains whose pseudo-channels are in self-refresh (R482). -/
def State.resetDoms (s : State) : Tab DomSt :=
  let held (d : Nat) : Bool :=
    (d == domHalf 0 && (teamChans 0).any s.selfRefresh) || (d == domHalf 1 && (teamChans 1).any s.selfRefresh) ||
    (d == domPhy && (List.range 32).any s.selfRefresh)
  (List.range 111).map fun d => (d, { st := if held d then 2 else 3 })

/-- Words of registers that a full reset leaves: those of the always-on pages past the common registers, the kept
registers of BOOT, and the pages of HBM domains in NAP. -/
def State.keptReg (s : State) (k : Nat) : Bool :=
  let p := k / 4096 / 1024
  let off := k / 4096 % 1024 * 4
  let nap := (Tab.get (fun _ => ({} : DomSt)) s.resetDoms (pageDomain p)).st == 2
  decide (0x20 ≤ off) && ((decide (p / 256 = 4 ∨ p / 256 = 5)) || nap) ||
  p == pgBoot && (off == Reg.BOOT.RSTCAUSE.off || off == Reg.BOOT.FUSE.off)
/-- Counters that a full reset leaves. -/
def State.keptCtr (s : State) (k : Nat) : Bool := s.keptReg k || k / 4096 / 1024 == pgBoot

/-- The steps of R482: what is left of the device once a full reset is asserted. -/
def State.assertReset (s : State) : State :=
  let s0 := s.flashAbandon
  let s1 := if s0.flag pgLehr Reg.LEHR.LCTRL_HOLD then
      ({ s0 with lehr := { s0.lehr with held := [], lost := false } }.setLehrValid false).setFld pgLehr Reg.LEHR.LSTAT_HELD 0
    else s0
  let t : State :=
    { pending := s1.pending, nonce := s1.nonce, resp := s1.resp,
      regs := s1.regs.filter fun e => s.keptReg e.1,
      ctrs := s1.ctrs.filter fun e => s.keptCtr e.1,
      irq := { sent := s1.irq.sent },
      chan := ((List.range 32).filter s.selfRefresh).foldl (fun m c =>
        Tab.set (fun _ => ({} : ChanSt)) m c { temp := (s.chanAt c).temp }) [],
      half := [0, 1].foldl (fun m t =>
        let img := s.keptImage t
        Tab.set (fun _ => ({} : HalfSt)) m t
          { kept := img, badCopies := if img.isSome then (s.halfAt t).badCopies else [],
            badChans := if img.isSome then (teamChans t).filter (fun c =>
              !s.selfRefresh c || (s.halfAt t).badChans.contains c) else [] }) [],
      dom := s.resetDoms,
      dev := { logPos := s1.dev.logPos, unread := s1.dev.unread, ledPos := s1.dev.ledPos, ledHeld := s1.dev.ledHeld },
      lehr := { s1.lehr with load := false },
      boot := { warm := true, record := s.boot.record, pbRecord := s.boot.pbRecord, burn := s.boot.burn },
      fuse := s.fuse, flash := s1.flash, hostMem := s1.hostMem, pins := { s1.pins with sharedDown := false } }
  let t1 := (t.wr pgDev Reg.PWRD.CLK_STAT.off (s.rd pgDev Reg.PWRD.CLK_STAT.off &&& 0x80)).wr pgDev Reg.PWRD.DEV_STAT.off 0
  let t2 := t1.each (List.range 32) fun x c => x.setCh c (if s.selfRefresh c then 4 else 0)
  t2.each [0, 1] fun x h =>
    let valid := (s.keptImage h).isSome
    let x1 := x.setHalf h (if (teamChans h).any s.selfRefresh then 3 else 0)
    let x2 := (x1.setFld (pgHalf h) Reg.CRUCH.IMG_STAT_COPYING 0).setFld (pgHalf h) Reg.CRUCH.IMG_STAT_VALID (b2n valid)
    x2.ifDo (s.flag (pgHalf h) Reg.CRUCH.IMG_STAT_VALID && !valid) fun x => x.raise (pgHalf h) 4

/-- A full reset is requested (R478, R481): by the pin (1), the host (2), I2C (3), a wake in ANNEAL (4), the watchdog
(5) or a wedge (6). -/
def State.fullReset (s : State) (src : Nat) : State :=
  if s.dev.st = 3 then s
  else
    let t := s.assertReset
    if s.boot.warm && (s.boot.asserted || s.starting) then t
    else
      let t1 := (t.wr pgBoot Reg.BOOT.RSTCAUSE.off (BitVec.ofNat 32 (2 ^ 30 + src * 2 ^ 26))).bump pgBoot Reg.BOOT.FULL_RESETS
      if src = 5 then t1.bump pgBoot Reg.BOOT.WDOG_RESETS
      else if src = 6 then t1.bump pgBoot Reg.BOOT.WEDGE_RESETS
      else t1

/-- RESET_PIN: RESET_N has been low for 1 µs. -/
def resetPin (s : State) : State :=
  let s1 := s.fullReset 1
  { s1 with pins := { s1.pins with resetLow := true } }
def execResetPin (s : State) : Host.Outcome State Fault Refusal := finish (resetPin s)

/-! ### Cold reset and the supplies (R478, R480, R550 to R553) -/

/-- What cold reset leaves: the fuses, the boot flash, what host memory holds, and the pins, THERM_TRIP_N released (R543, R562).
-/
def State.coldReset (s : State) : State :=
  let s1 := s.flashAbandon
  { pending := s.pending, nonce := s1.nonce, resp := s.resp,
    regs := s.regs.filter fun e => e.1 == rkey pgBoot Reg.BOOT.FUSE.off 0,
    irq := { sent := s.irq.sent }, fuse := s.fuse, flash := s1.flash, hostMem := s.hostMem,
    pins := { s.pins with trip := false },
    dev := { st := 3 }, dom := (List.range 112).map fun d => (d, { st := 3 }) }

/-- AON_SUPPLY_LOSS: VAON or VAON_IO leaves its range, or PWRON_RST_N goes low. -/
def aonSupplyLoss (s : State) : State := s.coldReset
def execAonSupplyLoss (s : State) : Host.Outcome State Fault Refusal := finish (aonSupplyLoss s)

/-- HBM_SUPPLY_LOSS: an HBM rail leaves its operating range: a valid image is lost (R429, R434, R553). -/
def hbmSupplyLoss (s : State) : State :=
  ({ s with pins := { s.pins with hbmLost := true } }).each [0, 1] fun s h =>
    let s1 := s.onHalf h fun x => { x with kept := none, armed := false, copied := false }
    if s.flag (pgHalf h) Reg.CRUCH.IMG_STAT_VALID then
      (s1.setFld (pgHalf h) Reg.CRUCH.IMG_STAT_VALID 0).raise (pgHalf h) 4
    else s1
def execHbmSupplyLoss (s : State) : Host.Outcome State Fault Refusal := finish (hbmSupplyLoss s)

/-- The sensors read as given (R560, R562): one at 115 °C or more drives THERM_TRIP_N low but in COLD, and all at 105 °C or less
release it. -/
def State.sense (s : State) (r : Readings) : State :=
  let hot := decide (115 ≤ r.a.toInt ∨ 115 ≤ r.b.toInt ∨ 115 ≤ r.aon.toInt) && s.dev.st != 3
  let cool := decide (r.a.toInt ≤ 105 ∧ r.b.toInt ≤ 105 ∧ r.aon.toInt ≤ 105)
  { s with pins := { s.pins with temp := r, trip := hot || (s.pins.trip && !cool) } }

/-- A start begins: the host and gaffer domains run, each cluster draws its device key (R393, R484), and the PCIe link trains,
to a free speed and width or not at all (R504, R538); the sensors read free values until a reading comes (log 209). -/
def State.beginStart (s : State) (warm : Bool) : State :=
  let s1 := { s with
    boot := { s.boot with asserted := false, warm := warm },
    pins := { s.pins with resetLow := false, hbmLost := false },
    dom := (Tab.set (fun _ => ({} : DomSt)) (Tab.set (fun _ => ({} : DomSt)) (Tab.set (fun _ => ({} : DomSt)) s.dom domHost {})
      domGaffer {}) domAon {}) }
  let s2 := ((s1.setStage 1).setFld pgHost Reg.HOST.I2C_CFG_ADDR (0x2C + s.pins.strap)).each (List.range 4) State.drawKey
  let (v, s3) := s2.free 8
  let (hot, s4) := s3.free 24
  let (speed, width) := if v % 5 = 0 then (0, 0) else (v % 5, 2 ^ (v / 5 % 3))
  let now : Readings := { a := BitVec.ofNat 8 hot, b := BitVec.ofNat 8 (hot / 256), aon := BitVec.ofNat 8 (hot / 65536) }
  ((s4.sense now).setFld pgHost Reg.HOST.HSTAT_LINK_SPEED speed).setFld pgHost Reg.HOST.HSTAT_LINK_WIDTH width

/-- COLD_START: PWRON_RST_N is released with the supplies good, or the always-on supply becomes good; the I2C address
straps read `strap` (R545). -/
def coldStart (strap : Fin 4) (s : State) : State :=
  if s.dev.st = 3 ∨ (s.boot.asserted ∧ !s.boot.warm) then
    let c := s.coldReset
    let s1 := { c with dev := {}, pins := { c.pins with strap := strap, sharedDown := false } }
    s1.beginStart false
  else s
def execColdStart (strap : Fin 4) (s : State) : Host.Outcome State Fault Refusal := finish (coldStart strap s)

/-- FULL_RESET_RELEASE: the assertion steps are complete and RESET_N is high; the start sequence begins (R480). -/
def fullResetRelease (s : State) : State :=
  if s.boot.asserted ∧ s.dev.st ≠ 3 ∧ s.boot.burn = none then s.beginStart s.boot.warm else s
def execFullResetRelease (s : State) : Host.Outcome State Fault Refusal := finish (fullResetRelease s)

end Sys2Proof.Machine
end

