-- ==== Sys2Proof/Machine/Power.lean ====
section
/-! DEFINITION. Power domains and device states (R437 to R457, R469, R470): requests, transitions, wakes and their
failure, DOZE and ANNEAL, the team clocks. -/

namespace Sys2Proof.Machine

/-! ### Domains (R437, R438) -/

/-- The parents of a domain past the always-on one (R438). -/
def domParents (d : Nat) : List Nat :=
  if d < 56 then [domClock (d / 28)]
  else if d < 64 then
    let b := d - 56
    domClock (b / 4) :: domBuffer b :: (List.range 8).map fun k => domTable (8 * (b / 4) + k)
  else if d < 72 then
    let t := (d - 64) / 4
    domClock t :: (teamBenches t).map domBuffer
  else if d < 88 then [domClock ((d - 72) / 8)]
  else if d < 96 then [domClock ((d - 88) / 4)]
  else if d < 100 then [domClock ((d - 96) / 2)]
  else if d < 102 then [domClock (d - 100), domPhy]
  else if d = 104 ∨ d = 105 then [domClock (d - 104), domHalf (d - 104)]
  else []

/-- Every domain above one, the farthest first. -/
def domAncestors (d : Nat) : List Nat :=
  ((domParents d).flatMap fun p => domParents p ++ [p]).eraseDups

/-- States the host may request of a domain in RUN (R437): 2 NAP, 3 OFF. -/
def domAllows (d target : Nat) : Bool :=
  if d < 56 ∨ 96 ≤ d ∧ d < 100 ∨ d = 104 ∨ d = 105 ∨ d = domMirror then target == 2 || target == 3
  else if d < 72 ∨ d = 100 ∨ d = 101 then target == 2
  else false

/-- The condition of R437 holds for a request. -/
def State.domFree (s : State) (d : Nat) : Bool :=
  let disabled (ps : List Nat) : Bool := ps.all fun p => s.lstate p == 0
  let bench (b : Nat) : List Nat := (List.range 64).map (localPort b)
  if d < 56 then disabled (quadPorts d)
  else if d < 64 then disabled (bench (d - 56))
  else if d < 72 then disabled (bench (d - 64))
  else if 96 ≤ d ∧ d < 100 then
    let p := pgCiph (d - 96)
    ((List.range 32).all fun j => !s.flag p (Reg.CIPH.PCFG_MACSEC_EN j)) &&
    ((List.range 16).all fun j => !s.flag p (Reg.CIPH.JQ_CFG_EN j))
  else if d = 100 ∨ d = 101 then
    let m := s.domAt (domSpill (d - 100))
    (m.st == 2 || m.st == 3) && (m.trans.map Prod.fst) != some 0
  else if d = 104 ∨ d = 105 then s.cdescUsed (d - 104) == 0
  else true

/-- A domain is in WAKE_FAIL. -/
def State.domFailed (s : State) (d : Nat) : Bool := (s.domAt d).st == 4

/-! ### Wakes and requests (R443 to R446) -/

def State.devBump (s : State) (c : Nat) : State := s.bump pgDev c

/-- A domain begins to wake, from a source. -/
def State.domBegin (s : State) (d src : Nat) : State :=
  (s.onDom d fun m => { m with trans := some (0, false) }).setFld pgDev Reg.PWRD.DSTAT_LAST_SRC src d

/-- Whether an entry to a deeper state has passed its commit point: once it has been seen past it, it is past it. A
bench-ingress domain with a routine in progress is not (R445). -/
def State.commitSeen (s : State) (d : Nat) : Bool × State :=
  match (s.domAt d).trans with
  | none => (false, s)
  | some (_, true) => (true, s)
  | some (0, false) => (false, s)
  | some (t, false) =>
    let busy := decide (56 ≤ d ∧ d < 64) && (s.marAt (d - 56)).engines.any fun e => e.2.isSome
    if busy then (false, s)
    else
      let (v, s1) := s.free 1
      if v = 1 then (true, s1.onDom d fun m => { m with trans := some (t, true) }) else (false, s1)

/-- Wake one domain, its parents being seen to: from NAP, OFF or an entry in progress (R444 to R446). `retry` lets it
leave WAKE_FAIL (R448). -/
def State.wakeOne (s : State) (d src : Nat) (retry : Bool) : State :=
  let m := s.domAt d
  match m.trans with
  | some (0, _) => s.devBump Reg.PWRD.DROPPED
  | some (t, _) =>
    let (past, s1) := s.commitSeen d
    if m.latched.isSome then s1.devBump Reg.PWRD.DROPPED
    else if past then (s1.onDom d fun m => { m with latched := some src }).devBump Reg.PWRD.LATCHED_WAKES
    else
      let s2 := s1.onDom d fun m => { m with trans := none, pend := none }
      let s3 := if m.pend.isSome then s2.devBump Reg.PWRD.SUPERSEDED else s2
      ((((s3.domCount d Reg.PWRD.ABORTS).raise pgDev 1).refusal (some d) t 1 src)).setFld pgDev Reg.PWRD.DSTAT_LAST_SRC src d
  | none =>
    if m.st ≤ 1 then s.devBump Reg.PWRD.DROPPED
    else if m.st = 4 ∧ !retry then s.refusal (some d) 0 6 src
    else s.domBegin d src

/-- Wake a domain: every parent that it needs first, with source DEPENDENT; refused where one is in WAKE_FAIL (R438,
R447). -/
def State.domWake (s : State) (d src : Nat) (retry : Bool) : State :=
  let up := domAncestors d
  if up.any s.domFailed then s.refusal (some d) 0 4 src
  else
    let need := up.filter fun p => !s.domOn p && (s.domAt p).trans.isNone || ((s.domAt p).trans.map Prod.fst).getD 0 != 0
    (s.each need fun s p => s.wakeOne p 6 false).wakeOne d src retry

/-- Start a request on a domain that is in no transition (R437). -/
def State.domStart (s : State) (d target : Nat) : State :=
  if target = 0 then s.domWake d 0 true
  else if s.domFailed d ∨ !domAllows d target then s.refusal (some d) target 6 0
  else if !s.domFree d then s.refusal (some d) target 5 0
  else s.onDom d fun m => { m with trans := some (target, false) }

/-- The target a domain is bound for (R444). -/
def DomSt.goal (m : DomSt) : Nat :=
  match m.pend, m.trans with
  | some p, _ => p
  | none, some (t, _) => t
  | none, none => if m.st ≤ 1 then 0 else m.st

/-- A host request for a domain takes effect (R443, R444, R452). -/
def State.domRequest (s : State) (d target : Nat) : State :=
  let m := s.domAt d
  if s.dev.st ≠ 0 ∨ s.dev.trans.isSome then s.refusal (some d) target 7 0
  else if m.goal = target then s.devBump Reg.PWRD.DROPPED
  else match m.trans with
    | none => s.domStart d target
    | some (t, _) =>
      if target < t then s.domWake d 0 true
      else
        let s1 := if m.pend.isSome then s.devBump Reg.PWRD.SUPERSEDED else s
        s1.onDom d fun m => { m with pend := some target }

/-- The requests that wait for a domain's edge take effect, in order (R55, R443). -/
def State.domEdge (s : State) (d : Nat) : State :=
  let l := (s.domAt d).req
  if l.isEmpty then s else (s.onDom d fun m => { m with req := [] }).each l fun s t => s.domRequest d t

/-- A domain has come to rest: a latched wake starts at once, else its pending request does (R444, R446). -/
def State.domRest (s : State) (d : Nat) : State :=
  let s0 := match (s.domAt d).latched with
    | some src => (s.onDom d fun m => { m with latched := none }).domWake d src true
    | none => s
  let m := s0.domAt d
  match m.trans, m.pend with
  | none, some t =>
    let s1 := s0.onDom d fun m => { m with pend := none }
    if t = (if m.st ≤ 1 then 0 else m.st) then s1.devBump Reg.PWRD.DROPPED else s1.domStart d t
  | _, _ => s0

/-- The bench whose clock a bench domain has. -/
def domBench (d : Nat) : Option Nat :=
  if 56 ≤ d ∧ d < 64 then some (d - 56) else if 64 ≤ d ∧ d < 72 then some (d - 64) else none

/-- A half goes to NAP: every pseudo-channel of team `t` in RUN enters self-refresh (R453, R455), and one in training or
in a frequency change stays there as that ends. -/
def State.halfRest (s : State) (t : Nat) : State :=
  let s1 := s.each (teamChans t) fun s c =>
    if s.chState c = 2 then (s.setCh c 4).onChan c fun h => { h with toSref := true, rows := [] }
    else if s.chState c = 1 ∨ s.chState c = 3 ∨ s.chState c = 4 then s.onChan c fun h => { h with toSref := true }
    else s
  if s1.halfState t = 2 then s1.setHalf t 3 else s1
/-- It wakes: they may leave self-refresh, and a training returns them to RUN (R420, R454, R484). -/
def State.halfRise (s : State) (t : Nat) : State :=
  let s1 := s.each (teamChans t) fun s c => s.onChan c fun h => { h with toSref := false }
  if s1.halfState t = 3 then s1.setHalf t 1 else s1

/-- A domain that has been OFF has lost everything: its pages take their factory values, and the lehr's ·L values (R442). -/
def State.domFresh (s : State) (d : Nat) : State := (s.clearPages fun p => pageDomain p == d).restoreDomain d

/-- A domain reaches ON (R442): from OFF or WAKE_FAIL it starts afresh, and one that slept in NAP through a LOAD takes that image
(R468). A bench resumes at the grid's tick. -/
def State.domArrive (s : State) (d : Nat) : State :=
  let was := (s.domAt d).st
  let s1 := s.onDom d fun m => { m with st := 0, trans := none, stale := false }
  let s2 := if 3 ≤ was then s1.domFresh d
    else (s1.ifDo (s.domAt d).stale (·.restoreDomain d)).ifDo (was == 2 && decide (100 ≤ d ∧ d < 102)) (·.halfRise (d - 100))
  let s3 := if 56 ≤ d ∧ d < 64 then s2.onTick (d - 56) fun h => { h with num := s2.time.tick, lag := 0 } else s2
  if d < 56 then s3.linksTrack (quadPorts d) else if d = domTime then s3.timeTrack else s3

/-- A domain enters NAP or OFF; one that goes from OFF to NAP holds nothing but what it would wake with (log 161). -/
def State.domSleep (s : State) (d t : Nat) : State :=
  let s1 := (s.onDom d fun m => { m with st := t, trans := none }).domCount d Reg.PWRD.ENTRIES
  if t = 3 then s1.loseDomain d
  else if (s.domAt d).st = 3 then s1.domFresh d
  else if d < 56 then s1.quadStopped d
  else if 100 ≤ d ∧ d < 102 then s1.halfRest (d - 100)
  else s1

/-- A routine runs in a bench: its ingress domain enters NAP or OFF only when it has ended (R113). -/
def State.engineBusy (s : State) (b : Nat) : Bool := (s.marAt b).engines.any fun e => e.2.isSome

/-- The children of a domain allow it the state `t` (R438): in NAP none of them is ON or IDLE, in OFF each is OFF too, but for
an HBM half in NAP under its team's clocking domain. -/
def State.childrenRest (s : State) (d t : Nat) : Bool :=
  (List.range 112).all fun c => !(domParents c).contains d ||
    decide ((if t = 3 ∧ ¬ (100 ≤ c ∧ c < 102 ∧ d ≠ domPhy) then 3 else 2) ≤ (s.domAt c).st)

/-! ### The order of a device entry (R453, R455) -/

/-- A domain of a step rests as deep as the step takes it; one in WAKE_FAIL holds nothing to put to rest. -/
def State.stepRest (s : State) (e : Nat × Nat) : Bool := (s.domAt e.1).trans.isNone && decide (e.2 ≤ (s.domAt e.1).st)
/-- A domain of a step begins its entry, once a transition in progress has ended (R444). -/
def State.stepStart (s : State) (e : Nat × Nat) : State :=
  if (s.domAt e.1).trans.isNone then s.onDom e.1 fun m => { m with trans := some (e.2, false) } else s
/-- The first step that has domains not yet at rest begins or goes on. -/
def State.entryFrom (s : State) : List (List (Nat × Nat)) → State
  | [] => { s with dev := { s.dev with todo := [] } }
  | g :: rest =>
    let left := g.filter fun e => !s.stepRest e
    if left.isEmpty then s.entryFrom rest
    else { s with dev := { s.dev with todo := left :: rest } }.each left State.stepStart
def State.entryStep (s : State) : State := if s.dev.todo.isEmpty then s else s.entryFrom s.dev.todo

/-- A domain of a step completes what it is in and its entry; a wake latched for it then starts (R446). -/
def State.stepEnd (s : State) (e : Nat × Nat) : State :=
  let s1 := match (s.domAt e.1).trans with
    | some (k, _) => s.domSleep e.1 k
    | none => s
  (s1.ifDo (decide ((s1.domAt e.1).st < e.2)) fun s => s.domSleep e.1 e.2).domRest e.1

/-- An entry may end: no domain that has still to rest is waking. -/
def State.entryReady (s : State) : Bool :=
  s.dev.todo.flatten.all fun e => ((s.domAt e.1).trans.map Prod.fst) != some 0

/-- What is left of an entry completes, step by step. -/
def State.entryEnd (s : State) : State :=
  { s with dev := { s.dev with todo := [] } }.each (s.dev.todo.flatten.filter fun e => !s.stepRest e) State.stepEnd

/-- DOMAIN_TRANSITION_DONE: the transition of a domain completes. -/
def domainTransitionDone (d : DomainId) (s : State) : State :=
  match (s.domAt d).trans with
  | none => s
  | some (0, _) => if (domParents d).all s.domOn then ((s.domArrive d).domRest d).entryStep else s
  | some (t, _) =>
    if 56 ≤ d.val ∧ d.val < 64 ∧ s.engineBusy (d - 56) ∨ !s.childrenRest d t then s
    else ((s.domSleep d t).domRest d).entryStep
def execDomainTransitionDone (d : DomainId) (s : State) : Host.Outcome State Fault Refusal := finish (domainTransitionDone d s)

/-- The dependents of a domain that wait for it are refused (R447); a request pending there then runs (R444). -/
def State.refuseWaiting (s : State) (d : Nat) : State :=
  s.each ((List.range 112).filter fun c => (domAncestors c).contains d && ((s.domAt c).trans.map Prod.fst) == some 0)
    fun s c => ((s.onDom c fun m => { m with trans := none }).refusal (some c) 0 4 6).domRest c

/-- WAKE_TIMEOUT: power-good, or what the time domain's oscillator needs, has not come in time (R447); NO_REF tells an absent
reference (R450). -/
def wakeTimeout (d : DomainId) (osc : WakeWait) (s : State) : State :=
  if ((s.domAt d).trans.map Prod.fst) = some 0 ∧ (osc = .supply ∨ d.val = domTime) then
    let s0 := s.ifDo (osc == .reference && !s.flag pgDev Reg.PWRD.CLK_STAT_NO_REF) State.noRef
    let s1 := s0.onDom d fun m => { m with st := 4, trans := none, latched := none }
    let s2 := ((s1.refusal (some d.val) 0 (if osc = .supply then 2 else 3) (s.fld pgDev Reg.PWRD.DSTAT_LAST_SRC d)).devBump
      Reg.PWRD.WAKE_FAILS).raise pgDev 2
    let s3 := (s2.loseDomain d).refuseWaiting d
    let s4 := if d.val = 102 ∨ d.val = 103 then s3.teamFail (d - 102) else s3
    (s4.domRest d).entryStep
  else s
def execWakeTimeout (d : DomainId) (osc : WakeWait) (s : State) : Host.Outcome State Fault Refusal := finish (wakeTimeout d osc s)

/-- A write of DCTRL, for the domain in DIDX (R474). -/
def State.dctrlWrite (s : State) (v : W32) : State :=
  let d := s.fld pgDev Reg.PWRD.DIDX
  if 111 < d then s
  else
    let s1 := s.plainWrite pgDev Reg.PWRD.DCTRL.off d v
    if bit v.toNat 31 then
      let t := bits v.toNat 30 29
      s1.onDom d fun m => { m with req := m.req ++ [if t = 1 then 0 else t] }
    else s1
/-- A host write of DIDX and of DCTRL with REQ = 1, a target and IDLE_EN. -/
def State.dctrlCommand (s : State) (d target : Nat) (idle : Bool) : State :=
  s.hostWrite pgDev fun s =>
    (s.wr pgDev Reg.PWRD.DIDX.off (BitVec.ofNat 32 d)).dctrlWrite (BitVec.ofNat 32 (2 ^ 31 + target * 2 ^ 29 + b2n idle * 2 ^ 28))

/-- DOMAIN_REQUEST_ON: a DCTRL request for ON; it waits for its edge (R443). -/
def domainRequestOn (d : DomainId) (idle : Bool) (s : State) : State := s.dctrlCommand d 0 idle
def execDomainRequestOn (d : DomainId) (idle : Bool) (s : State) : Host.Outcome State Fault Refusal :=
  finish (domainRequestOn d idle s)
/-- DOMAIN_REQUEST_NAP: a DCTRL request for NAP. -/
def domainRequestNap (d : DomainId) (idle : Bool) (s : State) : State := s.dctrlCommand d 2 idle
def execDomainRequestNap (d : DomainId) (idle : Bool) (s : State) : Host.Outcome State Fault Refusal :=
  finish (domainRequestNap d idle s)
/-- DOMAIN_REQUEST_OFF: a DCTRL request for OFF. -/
def domainRequestOff (d : DomainId) (idle : Bool) (s : State) : State := s.dctrlCommand d 3 idle
def execDomainRequestOff (d : DomainId) (idle : Bool) (s : State) : Host.Outcome State Fault Refusal :=
  finish (domainRequestOff d idle s)

/-- DOMAIN_IDLE_ENTRY: 64 core clocks without activity with IDLE_EN = 1 (R441). -/
def domainIdleEntry (d : DomainId) (s : State) : State :=
  if (s.domAt d).st = 0 ∧ (s.domAt d).trans = none ∧ s.flag pgDev Reg.PWRD.DCTRL_IDLE_EN d then
    s.onDom d fun m => { m with st := 1 }
  else s
def execDomainIdleEntry (d : DomainId) (s : State) : Host.Outcome State Fault Refusal := finish (domainIdleEntry d s)
/-- DOMAIN_IDLE_EXIT: activity in an IDLE domain (R441). -/
def domainIdleExit (d : DomainId) (s : State) : State :=
  if (s.domAt d).st = 1 then s.onDom d fun m => { m with st := 0 } else s
def execDomainIdleExit (d : DomainId) (s : State) : Host.Outcome State Fault Refusal := finish (domainIdleExit d s)

/-! ### Device states (R451 to R456) -/

/-- The record of a wake (R470). -/
def State.noteWake (s : State) (src : Nat) : State :=
  let v := src * 2 ^ 28 + s.dev.st * 2 ^ 26
  let s1 := s.wrL pgDev Reg.PWRD.LAST_WAKE.off (BitVec.ofNat 32 v)
  let s2 := s1.wrL pgDev Reg.PWRD.LAST_WAKE_TICK.off (BitVec.ofNat 32 s.gridTick)
  (s2.setLehrWord 0x132000 v).setLehrWord 0x132004 (s.gridTick % 2 ^ 32)

/-- The domains of step 3 of DOZE entry, in order (R453). -/
def dozeSteps : List (List Nat) :=
  [[domMirror], (List.range 4).map domCipher, (List.range 8).map domEgress, (List.range 8).map domIngress,
   (List.range 8).map domBuffer, (List.range 16).map domTable, [domSpill 0, domSpill 1], [domHalf 0, domHalf 1], [domPhy]]
/-- The domains and targets of steps 3 and 4 of ANNEAL entry, in order (R455): the HBM goes to `hbm`, the rest OFF. -/
def annealSteps (hbm : Nat) : List (List (Nat × Nat)) :=
  let off (l : List Nat) : List (Nat × Nat) := l.map fun d => (d, 3)
  [off [domSpill 0, domSpill 1], [(domHalf 0, hbm), (domHalf 1, hbm)], [(domPhy, hbm)], off (List.range 56),
   off ((List.range 8).map domEgress ++ (List.range 8).map domIngress),
   off ((List.range 8).map domBuffer ++ (List.range 16).map domTable),
   off ((List.range 4).map domCipher), off [domMirror, domGaffer], off [domClock 0, domClock 1]]

/-- Copies still held at the end of the drain are flushed (R453). -/
def State.dozeFlush (s : State) : State :=
  let note (s : State) (b : Nat) : State := s.bump (pgPwr (benchTeam b)) Reg.PWRT.DOZE_FLUSH
  s.each (s.queue.map Prod.fst) fun s k =>
    let b := k / 1024
    let s1 := s.discardCopies k (fun c => c.begun) fun s _ => note s b
    ((s1.queueAt k).mid.foldl (fun s _ => note s b) s1).flushMid k

/-- An entry passes its commit point and its steps begin (R445, R453, R455). Its requests take the place of those that pend at the
domains (R444). -/
def State.sleepBegin (s : State) (l : List (List (Nat × Nat))) : State :=
  let s1 := { s with dev := { s.dev with committed := true, closed := List.range 8, todo := l } }
  (s1.each l.flatten fun s e =>
    if (s.domAt e.1).pend.isSome then (s.onDom e.1 fun m => { m with pend := none }).devBump Reg.PWRD.SUPERSEDED else s).entryStep

/-- A domain is ON or on its way there. -/
def State.domUp (s : State) (d : Nat) : Bool :=
  let m := s.domAt d
  match m.trans with
  | some (t, _) => t == 0
  | none => decide (m.st ≤ 1)

/-- A DOZE entry puts its domains on the way to NAP (R453, step 3). -/
def State.dozeSleep (s : State) : State :=
  ({ s with dev := { s.dev with dozed := dozeSteps.flatten.filter s.domUp } }).sleepBegin
    (dozeSteps.map fun (l : List Nat) => l.map fun d => (d, 2))

/-- An ANNEAL entry passes its commit point: its domains go OFF, and the HBM halves to NAP or OFF; halves that keep an image have
completed its write-through (R428, R455). -/
def State.annealSleep (s : State) : State :=
  let keep := s.flag (pgHalf 0) Reg.CRUCH.IMG_STAT_VALID && s.flag (pgHalf 1) Reg.CRUCH.IMG_STAT_VALID
  s.sleepBegin (annealSteps (if keep then 2 else 3))

/-- A device transition begins. -/
def State.devBegin (s : State) (target : Nat) : State :=
  let s1 := { s with dev := { s.dev with trans := some target, committed := false } }
  if target = 0 then
    { s1 with dev := { s1.dev with stopping := false } }.each s.dev.dozed.reverse fun s d =>
      if s.domOn d && (s.domAt d).trans.isNone then s else s.domWake d 6 false
  else if s.dev.st = 1 then s1.annealSleep
  else { s1 with dev := { s1.dev with stopping := true } }

/-- A wake of the device (R444 to R446, R452, R456). -/
def State.devWake (s : State) (src : Nat) : State :=
  match s.dev.trans with
  | some 0 => s.devBump Reg.PWRD.DROPPED
  | some t =>
    if s.dev.latched.isSome then s.devBump Reg.PWRD.DROPPED
    else if s.dev.committed then
      { s with dev := { s.dev with latched := some src } }.devBump Reg.PWRD.LATCHED_WAKES
    else
      let s1 := { s with dev := { s.dev with trans := none, stopping := false, pend := none } }
      let s2 := if s.dev.pend.isSome then s1.devBump Reg.PWRD.SUPERSEDED else s1
      (((s2.devBump Reg.PWRD.DEV_ABORTS).raise pgDev 1).refusal none t 1 src).noteWake src
  | none =>
    if s.dev.st = 0 then s.devBump Reg.PWRD.DROPPED
    else if s.dev.st = 1 then (s.noteWake src).devBegin 0
    else (s.noteWake src).fullReset 4

/-- A wake source is enabled: HOST always is (R452, R474). -/
def State.wakeEnabled (s : State) (src : Nat) : Bool :=
  src == 0 || bit (s.rd pgDev Reg.PWRD.WAKE_EN.off).toNat src
/-- A wake from a source of the device. -/
def State.wakeFrom (s : State) (src : Nat) : State := if s.wakeEnabled src then s.devWake src else s

/-- The target the device is bound for (R444). -/
def DevSt.goal (v : DevSt) : Nat := v.pend.getD (v.trans.getD v.st)

/-- A request for a device state that starts (R452). -/
def State.devStart (s : State) (target : Nat) : State :=
  if target < s.dev.st ∧ target = 0 then s.devWake 0
  else if s.dev.st = 2 then s.refusal none target 6 0
  else s.devBegin target

/-- A host request for a device state takes effect at the grid edge (R443, R444, R485). -/
def State.devRequest (s : State) (target : Nat) : State :=
  if s.boot.stage ≠ 9 then s.refusal none target 7 0
  else if s.dev.goal = target then s.devBump Reg.PWRD.DROPPED
  else match s.dev.trans with
    | none => s.devStart target
    | some t =>
      if target < t then s.devWake 0
      else
        let s1 := if s.dev.pend.isSome then s.devBump Reg.PWRD.SUPERSEDED else s
        { s1 with dev := { s1.dev with pend := some target } }

/-- The device requests that wait for a grid edge take effect. -/
def State.devEdge (s : State) : State :=
  let l := s.dev.req
  if l.isEmpty then s else { s with dev := { s.dev with req := [] } }.each l State.devRequest

/-- A write of DEV_CMD: TARGET 3 is dropped (R474). -/
def State.devCmdWrite (s : State) (v : W32) : State :=
  let t := bits v.toNat 1 0
  if !bit v.toNat 31 then s
  else if t = 3 then s.devBump Reg.PWRD.DROPPED
  else { s with dev := { s.dev with req := s.dev.req ++ [t] } }
def devRequestWrite (t : Nat) (s : State) : State := s.hostWrite pgDev fun s => s.devCmdWrite (BitVec.ofNat 32 (2 ^ 31 + t))

/-- DEV_REQUEST_RUN: a DEV_CMD request for RUN. -/
def devRequestRun (s : State) : State := devRequestWrite 0 s
def execDevRequestRun (s : State) : Host.Outcome State Fault Refusal := finish (devRequestRun s)
/-- DEV_REQUEST_DOZE: a DEV_CMD request for DOZE. -/
def devRequestDoze (s : State) : State := devRequestWrite 1 s
def execDevRequestDoze (s : State) : Host.Outcome State Fault Refusal := finish (devRequestDoze s)
/-- DEV_REQUEST_ANNEAL: a DEV_CMD request for ANNEAL. -/
def devRequestAnneal (s : State) : State := devRequestWrite 2 s
def execDevRequestAnneal (s : State) : Host.Outcome State Fault Refusal := finish (devRequestAnneal s)
/-- DEV_REQUEST_RESERVED: a DEV_CMD request with TARGET 3. -/
def devRequestReserved (s : State) : State := devRequestWrite 3 s
def execDevRequestReserved (s : State) : Host.Outcome State Fault Refusal := finish (devRequestReserved s)

/-- DOZE_DRAIN_END: every queue is empty or DRAIN_MAX has passed; copies still held are flushed, and the entry passes
its commit point. -/
def dozeDrainEnd (s : State) : State :=
  if s.dev.committed then s
  else match s.dev.trans with
    | some 1 => { s.dozeFlush with dev := { s.dozeFlush.dev with stopping := false } }.dozeSleep
    | some 2 => { s.dozeFlush with dev := { s.dozeFlush.dev with stopping := false } }.annealSleep
    | _ => s
def execDozeDrainEnd (s : State) : Host.Outcome State Fault Refusal := finish (dozeDrainEnd s)

/-- DEVICE_TRANSITION_DONE: the device reaches its target. The domains under way come to rest with it. -/
def deviceTransitionDone (s : State) : State :=
  match s.dev.trans with
  | none => s
  | some t =>
    if t ≠ 0 ∧ (!s.dev.committed ∨ (List.range 8).any s.engineBusy ∨ !s.entryReady) then s
    else
      let s2 := if t = 0 then
          s.each (s.dev.dozed.reverse.filter fun d => ((s.domAt d).trans.map Prod.fst) == some 0) fun s d => s.domArrive d
        else s.entryEnd
      let s3 := { s2 with dev := { s2.dev with st := t, trans := none, committed := false } }
      let s4 := (s3.sagPlanAll.devBump Reg.PWRD.DEV_TRANSITIONS).raise pgDev 0
      match s.dev.latched with
      | some src => { s4 with dev := { s4.dev with latched := none } }.devWake src
      | none =>
        match s.dev.pend with
        | none => s4
        | some p =>
          let s5 := { s4 with dev := { s4.dev with pend := none } }
          if p = t then s5.devBump Reg.PWRD.DROPPED else s5.devStart p
def execDeviceTransitionDone (s : State) : Host.Outcome State Fault Refusal := finish (deviceTransitionDone s)

/-! ### Wake sources (R470) -/

/-- WAKE_EVENT: a wake of the device from a source, or of one domain (R443, R446). -/
def wakeEvent (d : Option DomainId) (src : Fin 7) (s : State) : State :=
  match d with
  | none => s.wakeFrom src
  | some d => s.domWake d src (src == 0)
def execWakeEvent (d : Option DomainId) (src : Fin 7) (s : State) : Host.Outcome State Fault Refusal := finish (wakeEvent d src s)

/-- A write of WAKE_CMD. -/
def State.wakeCmdWrite (s : State) (v : W32) : State := if bit v.toNat 31 then s.devWake 0 else s
/-- HOST_WAKE: a host write of WAKE_CMD with WAKE = 1. -/
def hostWake (s : State) : State := s.hostWrite pgDev fun s => s.wakeCmdWrite 0x80000000
def execHostWake (s : State) : Host.Outcome State Fault Refusal := finish (hostWake s)
/-- PIN_WAKE: WAKE_N has fallen and been low for 1 µs. -/
def pinWake (s : State) : State := s.wakeFrom 1
def execPinWake (s : State) : Host.Outcome State Fault Refusal := finish (pinWake s)

/-- The instant of the ALARM registers (R470). -/
def State.alarmTime (s : State) : Nat :=
  (s.fld pgDev Reg.PWRD.ALARM_SEC_HI * 2 ^ 32 + s.fld pgDev Reg.PWRD.ALARM_SEC_LO) * 1000000000 +
  min 999999999 (s.fld pgDev Reg.PWRD.ALARM_NS)
/-- TIME_ALARM: the valid time reaches the ALARM registers. -/
def timeAlarm (s : State) : State :=
  if s.timeValid ∧ s.time.now ≤ s.alarmTime then (s.reach s.alarmTime).wakeFrom 4 else s
def execTimeAlarm (s : State) : Host.Outcome State Fault Refusal := finish (timeAlarm s)

/-- HBM_AUTO_IDLE: CDESC_USED of both halves has been 0 for 1,024 grid ticks and no copy has been offered (R457). -/
def hbmAutoIdle (s : State) : State :=
  if s.flag pgDev Reg.PWRD.DOZE_CFG_HBM_AUTO ∧ s.dev.st = 0 ∧ s.cdescUsed 0 = 0 ∧ s.cdescUsed 1 = 0 then
    s.freqRequest (s.fld pgDev Reg.PWRD.DOZE_CFG_HBM_LOW_POINT)
  else s
def execHbmAutoIdle (s : State) : Host.Outcome State Fault Refusal := finish (hbmAutoIdle s)

/-! ### Team clocks (R449) -/

/-- CLK_SELECT: a host write of CLK_CTRL. -/
def clkSelect (v : Fin 4) (s : State) : State :=
  s.hostWrite pgDev fun s => s.plainWrite pgDev Reg.PWRD.CLK_CTRL.off 0 (BitVec.ofNat 32 v)
def execClkSelect (v : Fin 4) (s : State) : Host.Outcome State Fault Refusal := finish (clkSelect v s)

/-- TEAM_PLL_LOCK: a started team PLL locks; the clock switches at the team's next local edge. -/
def teamPllLock (t : Team) (s : State) : State :=
  let n := teamNo t
  if s.flag pgDev (clkSel n) ∧ s.domOn (domClock n) ∧ !s.flag pgDev Reg.PWRD.CLK_STAT_NO_REF ∧ !(s.teamAt n).failed then
    s.setFld pgDev (clkLock n) 1
  else s
def execTeamPllLock (t : Team) (s : State) : Host.Outcome State Fault Refusal := finish (teamPllLock t s)

/-- TEAM_PLL_TIMEOUT: the PLL has not locked within 2 ms of the write. -/
def teamPllTimeout (t : Team) (s : State) : State :=
  let n := teamNo t
  if s.flag pgDev (clkSel n) ∧ !s.flag pgDev (clkLock n) then s.refusal (some (domClock n)) 0 3 0 else s
def execTeamPllTimeout (t : Team) (s : State) : Host.Outcome State Fault Refusal := finish (teamPllTimeout t s)

/-- A team's core clock follows its PLL at a local edge of the team. -/
def State.clkEdge (s : State) (t : Nat) : State :=
  let go := s.flag pgDev (clkSel t) && s.flag pgDev (clkLock t)
  if go && !s.flag pgDev (clkOn t) then (s.setFld pgDev (clkOn t) 1).raise pgDev 6
  else if !s.flag pgDev (clkSel t) && s.flag pgDev (clkOn t) then (s.setFld pgDev (clkOn t) 0).setFld pgDev (clkLock t) 0
  else s

end Sys2Proof.Machine
end

