-- ==== Sys2Proof/Machine/LehrCmd.lean ====
section
/-! DEFINITION. The lehr's commands (R463, R467, R468, R477) and the energy ledger (R472, R473). -/

namespace Sys2Proof.Machine

/-! ### HOLD, LOAD, INVALIDATE (R467, R468) -/

/-- The held changes are written through (R468). -/
def State.writeHeld (s : State) : State :=
  let l := s.lehr.held
  let s1 := ({ s with lehr := { s.lehr with held := [] } }).setFld pgLehr Reg.LEHR.LSTAT_HELD 0
  if s1.lehrValid && !l.isEmpty then
    { s1 with lehr := { s1.lehr with wt := some s.gridTick } }.each l fun s e => s.putImage e.1 e.2.1 e.2.2.1 e.2.2.2
  else s1

/-- HOLD is released. -/
def State.holdRelease (s : State) : State :=
  let lost := s.lehr.lost
  let s1 := { s.writeHeld with lehr := { s.writeHeld.lehr with lost := false } }
  if lost then s1.setLehrValid false else s1

/-- The check of an image to be loaded: magic, format, and the CRC-32C of word 3 up to and including the end record. -/
def State.imageGood (s : State) : Bool :=
  let e := s.image_.2
  s.lehrWord 0 == 0x4C454852 && s.lehrWord 4 == 1 && decide (e + 4 ≤ imgHi) && s.lehrWord e == 0 &&
  s.lehrWord 12 == crc32c (Tab.getList zeroByte s.lehr.mem imgLo (e + 4 - imgLo))

/-- A write of LCTRL.LOAD. -/
def State.lehrLoad (s : State) : State :=
  if s.imageGood then
    ({ s with lehr := { s.lehr with load := true } }.setLehrValid true).setFld pgLehr Reg.LEHR.LSTAT_LOAD_ERR 0
  else ((s.setLehrValid false).setFld pgLehr Reg.LEHR.LSTAT_LOAD_ERR 1).raise pgLehr 1

/-- At the grid edge after a LOAD that passed, the image is applied to the pages whose domain is ON or IDLE; the held
changes follow on top, and HOLD clears. Sleeping domains take the image as they wake. -/
def State.loadEdge (s : State) : State :=
  if s.lehr.load then
    let l := s.lehr.held
    let s0 := ({ s with lehr := { s.lehr with load := false } }.countSkipped).takeImage fun p => s.domOn (pageDomain p)
    let s1 := s0.each ((List.range 112).filter fun d => !s.domOn d) fun s d => s.onDom d fun m => { m with stale := true }
    let s2 := s1.each l fun s e => s.restoreWord
      { hdr := 0, pos := 0, page := e.1, off := e.2.1, idx := e.2.2.1, val := e.2.2.2.toNat }
    ((s2.holdRelease).setFld pgLehr Reg.LEHR.LCTRL_HOLD 0).raise pgLehr 0
  else s

/-- A write of LCTRL. -/
def State.lctrlWrite (s : State) (v : W32) : State :=
  let was := s.flag pgLehr Reg.LEHR.LCTRL_HOLD
  let now := bit v.toNat 31
  let s1 := s.setFld pgLehr Reg.LEHR.LCTRL_HOLD (b2n now)
  let s2 := if was && !now then s1.holdRelease else s1
  let s3 := if bit v.toNat 30 then s2.lehrLoad else s2
  if bit v.toNat 29 then s3.setLehrValid false else s3

/-- LEHR_HOLD: a host write of LCTRL.HOLD. -/
def lehrHold (hold : Bool) (s : State) : State :=
  s.hostWrite pgLehr fun s => s.lctrlWrite (BitVec.ofNat 32 (b2n hold * 2 ^ 31))
def execLehrHold (hold : Bool) (s : State) : Host.Outcome State Fault Refusal := finish (lehrHold hold s)
/-- LEHR_LOAD: a host write of LCTRL with LOAD = 1 and HOLD as given. -/
def lehrLoad (hold : Bool) (s : State) : State :=
  s.hostWrite pgLehr fun s => s.lctrlWrite (BitVec.ofNat 32 (b2n hold * 2 ^ 31 + 2 ^ 30))
def execLehrLoad (hold : Bool) (s : State) : Host.Outcome State Fault Refusal := finish (lehrLoad hold s)
/-- LEHR_INVALIDATE: a host write of LCTRL with INVALIDATE = 1 and HOLD as given. -/
def lehrInvalidate (hold : Bool) (s : State) : State :=
  s.hostWrite pgLehr fun s => s.lctrlWrite (BitVec.ofNat 32 (b2n hold * 2 ^ 31 + 2 ^ 29))
def execLehrInvalidate (hold : Bool) (s : State) : Host.Outcome State Fault Refusal := finish (lehrInvalidate hold s)

/-- LEHR_SCRUB: the scrub of the lehr finds `ce` corrected errors, and perhaps an uncorrectable one in the header or the
register image. -/
def lehrScrub (ce : Nat) (ue : Bool) (s : State) : State :=
  let s1 := s.addCtr pgLehr Reg.LEHR.LEHR_CE ce
  if ue then ((s1.setLehrValid false).bump pgLehr Reg.LEHR.LEHR_UE).raise pgLehr 2 else s1
def execLehrScrub (ce : Nat) (ue : Bool) (s : State) : Host.Outcome State Fault Refusal := finish (lehrScrub ce ue s)

/-! ### The window (R463, R477) -/

/-- A read of LSTAT. WT_BUSY: a change is in the image within 4 µs, so until 4 grid ticks have passed whether it already is is a
free value, and once seen there it is so (R465; log 279). -/
def State.lstatRead (s : State) : W32 × State :=
  let word (b : Nat) : W32 := BitVec.ofNat 32 (setBits (s.rd pgLehr Reg.LEHR.LSTAT.off).toNat 30 30 b)
  match s.lehr.wt with
  | none => (word 0, s)
  | some t =>
    if t + 4 < s.gridTick then (word 0, s)
    else
      let (v, s1) := s.free 1
      (word v, if v = 0 then { s1 with lehr := { s1.lehr with wt := none } } else s1)

/-- The lehr byte address of word `k` of LWIN_DATA. -/
def State.lwinAt (s : State) (k : Nat) : Nat := (s.rd pgLehr Reg.LEHR.LWIN_ADDR.off).toNat + 4 * k
/-- A read of LWIN_DATA: the gaffer area reads 0, and the training results, whose contents no rule gives, a free value. -/
def State.lwinRead (s : State) (k : Nat) : W32 × State :=
  let a := s.lwinAt k
  if 0x140000 ≤ a ∧ a < 0x180000 then (0, s)
  else if 0x100000 ≤ a ∧ a < 0x130000 then let (v, s1) := s.free 32; (BitVec.ofNat 32 v, s1)
  else (BitVec.ofNat 32 (s.lehrWord a), s)
/-- A write of LWIN_DATA: the header and the image while HOLD = 1, the host area always. -/
def State.lwinWrite (s : State) (k : Nat) (v : W32) : State :=
  let a := s.lwinAt k
  if a < 0x100000 ∧ s.flag pgLehr Reg.LEHR.LCTRL_HOLD ∨ 0x180000 ≤ a ∧ a < 0x200000 then s.setLehrWord a v.toNat else s

/-- LEHR_WINDOW_ACCESS: a read (no value) or a write of word `k` of LWIN_DATA. -/
def lehrWindowAccess (k : Fin 64) (w : Option W32) (s : State) : State :=
  match w with
  | none => s.hostRead pgLehr fun s => s.lwinRead k
  | some v => s.hostWrite pgLehr fun s => s.lwinWrite k v
def execLehrWindowAccess (k : Fin 64) (w : Option W32) (s : State) : Host.Outcome State Fault Refusal :=
  finish (lehrWindowAccess k w s)

/-! ### The ledger (R472, R473) -/

/-- A 32-bit field that saturates. -/
def sat32 (n : Nat) : Nat := min n 0xFFFFFFFF
/-- pJ per bit with 16 fraction bits, of an energy in 0.1 µJ. -/
def pjPerBit (e bits : Nat) : Nat := if bits = 0 then 0xFFFFFFFF else sat32 (e * 100000 * 65536 / bits)

/-- LEDGER_PERIOD_END: a period ends at the grid tick with counter bits [9:0] = 0, with the energies sampled in units of
0.1 µJ. -/
def ledgerPeriodEnd (ea eb es : Nat) (s : State) : State :=
  if s.gridTick % 1024 ≠ 0 then s
  else
    let ba := s.dev.bitsA
    let bb := s.dev.bitsB
    let pj := pjPerBit (ea + eb + es) (ba + bb)
    let sat := [ea, eb, es, ba, bb].any fun n => decide (0xFFFFFFFF < n)
    let overflow := decide (ba + bb ≠ 0 ∧ 0xFFFFFFFF < (ea + eb + es) * 100000 * 65536 / (ba + bb))
    let w := [s.gridTick % 2 ^ 32, sat32 ea, sat32 eb, sat32 es, sat32 ba, sat32 bb, pj,
      2 ^ 31 + b2n (sat || overflow) * 2 ^ 30 + b2n s.dev.freeTicks * 2 ^ 29 + s.dev.st]
    let a := 0x131000 + 32 * (s.dev.ledPos % 64)
    let s1 := (List.range 8).foldl (fun s k =>
      (s.setLehrWord (a + 4 * k) (w[k]?.getD 0)).wr pgDev (Reg.PWRD.LEDGER k).off (BitVec.ofNat 32 (w[k]?.getD 0))) s
    let s2 := if s.dev.ledHeld = 64 then s1.bump pgDev Reg.PWRD.LEDGER_OVERWRITTEN else s1
    let s3 := { s2 with dev := { s2.dev with
      ledPos := (s.dev.ledPos + 1) % 64, ledHeld := min 64 (s.dev.ledHeld + 1), bitsA := 0, bitsB := 0,
      freeTicks := !s.gridOn } }
    let team (s : State) (t e b : Nat) : State :=
      ((s.wr (pgPwr t) Reg.PWRT.T_E.off (BitVec.ofNat 32 (sat32 e))).wr (pgPwr t) Reg.PWRT.T_BITS.off
        (BitVec.ofNat 32 (sat32 b))).wr (pgPwr t) Reg.PWRT.T_PJPB.off (BitVec.ofNat 32 (pjPerBit e b))
    (team (team s3 0 ea ba) 1 eb bb).raise pgDev 7
def execLedgerPeriodEnd (ea eb es : Nat) (s : State) : Host.Outcome State Fault Refusal := finish (ledgerPeriodEnd ea eb es s)

/-- A word that a read of another register latches (R12). -/
def State.latch (s : State) (p off : Nat) (v : W32) : State :=
  { s with vlatch := Tab.set (fun _ => (0 : W32)) s.vlatch (rkey p off 0) v }

/-- A read of LEDGER0 latches LEDGER1 to LEDGER7. -/
def State.ledgerLatch (s : State) : W32 × State :=
  (s.rd pgDev (Reg.PWRD.LEDGER 0).off, s.each (List.range 7) fun s i =>
    s.latch pgDev (Reg.PWRD.LEDGER (i + 1)).off (s.rd pgDev (Reg.PWRD.LEDGER (i + 1)).off))
/-- LEDGER_READ: a host read of LEDGER0. -/
def ledgerRead (s : State) : State := s.hostRead pgDev State.ledgerLatch
def execLedgerRead (s : State) : Host.Outcome State Fault Refusal := finish (ledgerRead s)

/-- A read of REF_LOG0 pops the oldest unread entry and latches REF_LOG1 (R471). -/
def State.refLogPop (s : State) : W32 × State :=
  let put (s : State) (v : Nat) : State := s.latch pgDev Reg.PWRD.REF_LOG1.off (BitVec.ofNat 32 v)
  if s.dev.unread = 0 then (0, put s 0)
  else
    let a := 0x130000 + 8 * ((s.dev.logPos + 64 - s.dev.unread) % 64)
    let s1 := put s (s.lehrWord (a + 4))
    (BitVec.ofNat 32 (s.lehrWord a), { s1 with dev := { s1.dev with unread := s.dev.unread - 1 } })
/-- REF_LOG_READ: a host read of REF_LOG0. -/
def refLogRead (s : State) : State := s.hostRead pgDev State.refLogPop
def execRefLogRead (s : State) : Host.Outcome State Fault Refusal := finish (refLogRead s)

end Sys2Proof.Machine
end

