-- ==== Sys2Proof/Machine/Sign.lean ====
section
/-! DEFINITION. SHA-384 (FIPS 180-4) and the check of an ECDSA signature on P-384 (FIPS 186-5), which the checks of images use
(R490, R491). -/

namespace Sys2Proof.Sign

/-! ### SHA-384 -/

/-- The 80 round constants of 64 bits, the first one highest. -/
def roundConsts : Nat := 0x428A2F98D728AE227137449123EF65CDB5C0FBCFEC4D3B2FE9B5DBA58189DBBC3956C25BF348B53859F111F1B605D019923F82A4AF194F9BAB1C5ED5DA6D8118D807AA98A303024212835B0145706FBE243185BE4EE4B28C550C7DC3D5FFB4E272BE5D74F27B896F80DEB1FE3B1696B19BDC06A725C71235C19BF174CF692694E49B69C19EF14AD2EFBE4786384F25E30FC19DC68B8CD5B5240CA1CC77AC9C652DE92C6F592B02754A7484AA6EA6E4835CB0A9DCBD41FBD476F988DA831153B5983E5152EE66DFABA831C66D2DB43210B00327C898FB213FBF597FC7BEEF0EE4C6E00BF33DA88FC2D5A79147930AA72506CA6351E003826F142929670A0E6E7027B70A8546D22FFC2E1B21385C26C9264D2C6DFC5AC42AED53380D139D95B3DF650A73548BAF63DE766A0ABB3C77B2A881C2C92E47EDAEE692722C851482353BA2BFE8A14CF10364A81A664BBC423001C24B8B70D0F89791C76C51A30654BE30D192E819D6EF5218D69906245565A910F40E35855771202A106AA07032BBD1B819A4C116B8D2D0C81E376C085141AB532748774CDF8EEB9934B0BCB5E19B48A8391C0CB3C5C95A634ED8AA4AE3418ACB5B9CCA4F7763E373682E6FF3D6B2B8A3748F82EE5DEFB2FC78A5636F43172F6084C87814A1F0AB728CC702081A6439EC90BEFFFA23631E28A4506CEBDE82BDE9BEF9A3F7B2C67915C67178F2E372532BCA273ECEEA26619CD186B8C721C0C207EADA7DD6CDE0EB1EF57D4F7FEE6ED17806F067AA72176FBA0A637DC5A2C898A6113F9804BEF90DAE1B710B35131C471B28DB77F523047D8432CAAB7B40C724933C9EBE0A15C9BEBC431D67C49C100D4C4CC5D4BECB3E42B6597F299CFC657E2A5FCB6FAB3AD6FAEC6C44198C4A475817
/-- The eight words of the initial hash value, the first one highest. -/
def startHash : Nat := 0xCBBB9D5DC1059ED8629A292A367CD5079159015A3070DD17152FECD8F70E593967332667FFC00B318EB44A8768581511DB0C2E0D64F98FA747B5481DBEFA4FA4

/-- Word `i` of `n` words of 64 bits, the first one highest. -/
def word64 (v n i : Nat) : Nat := (v >>> (64 * (n - 1 - i))) % 2 ^ 64

def rotr (n x : Nat) : Nat := (x >>> n) ||| (x <<< (64 - n)) % 2 ^ 64

/-- The message schedule, latest word first. -/
def schedule : Nat → List Nat → List Nat
  | 0, w => w
  | n + 1, w =>
    let a := w.getD 14 0
    let b := w.getD 1 0
    let s0 := rotr 1 a ^^^ rotr 8 a ^^^ (a >>> 7)
    let s1 := rotr 19 b ^^^ rotr 61 b ^^^ (b >>> 6)
    schedule n (((w.getD 15 0 + s0 + w.getD 6 0 + s1) % 2 ^ 64) :: w)

/-- One round on the eight working variables. -/
def shaRound (v : List Nat) (kw : Nat) : List Nat :=
  match v with
  | [a, b, c, d, e, f, g, h] =>
    let t1 := h + (rotr 14 e ^^^ rotr 18 e ^^^ rotr 41 e) + ((e &&& f) ^^^ ((2 ^ 64 - 1 - e) &&& g)) + kw
    let t2 := (rotr 28 a ^^^ rotr 34 a ^^^ rotr 39 a) + ((a &&& b) ^^^ (a &&& c) ^^^ (b &&& c))
    [(t1 + t2) % 2 ^ 64, a, b, c, (d + t1) % 2 ^ 64, e, f, g]
  | _ => v

/-- One block of 128 bytes. -/
def shaBlock (h : List Nat) (b : List Byte) : List Nat :=
  let m := beNat b
  let w := (schedule 64 ((List.range 16).map fun i => word64 m 16 i).reverse).reverse
  let v := w.zipIdx.foldl (fun v e => shaRound v (word64 roundConsts 80 e.2 + e.1)) h
  List.zipWith (fun x y => (x + y) % 2 ^ 64) h v

/-- The blocks of a message, from the first. -/
def shaBlocks : Nat → List Nat → List Byte → List Nat
  | 0, h, _ => h
  | n + 1, h, m => shaBlocks n (shaBlock h (m.take 128)) (m.drop 128)

/-- SHA-384 of a message, as a number of 384 bits. -/
def sha384 (m : List Byte) : Nat :=
  let l := m.length
  let padded := m ++ [0x80] ++ List.replicate ((239 - l % 128) % 128) 0 ++ natBE 16 (8 * l)
  ((shaBlocks (padded.length / 128) ((List.range 8).map fun i => word64 startHash 8 i) padded).take 6).foldl
    (fun a x => a * 2 ^ 64 + x) 0

/-! ### P-384 -/

/-- The field's prime, the group's order, the curve's b and the base point. -/
def fieldP : Nat := 2 ^ 384 - 2 ^ 128 - 2 ^ 96 + 2 ^ 32 - 1
def orderN : Nat := 0xFFFFFFFFFFFFFFFFFFFFFFFFFFFFFFFFFFFFFFFFFFFFFFFFC7634D81F4372DDF581A0DB248B0A77AECEC196ACCC52973
def curveB : Nat := 0xB3312FA7E23EE7E4988E056BE3F82D19181D9C6EFE8141120314088F5013875AC656398D8A2ED19D2A85C8EDD3EC2AEF
def baseX : Nat := 0xAA87CA22BE8B05378EB1C71EF320AD746E1D3B628BA79B9859F741E082542A385502F25DBF55296C3A545E3872760AB7
def baseY : Nat := 0x3617DE4A96262C6F5D9E98BF9292DC29F8F41DBD289A147CE9DA3113B5F0B8C00A60B1CE1D7E819D7A431D7C90EA0E5F

/-- Difference in the field. -/
def fsub (a b : Nat) : Nat := (a + fieldP - b % fieldP) % fieldP

/-- A point in Jacobian coordinates; Z = 0 at infinity. -/
structure Point where
  x : Nat
  y : Nat
  z : Nat
  deriving DecidableEq, Repr

def Point.dbl (q : Point) : Point :=
  let yy := q.y * q.y % fieldP
  let zz := q.z * q.z % fieldP
  let s := 4 * q.x * yy % fieldP
  let m := 3 * (fsub q.x zz * (q.x + zz) % fieldP) % fieldP
  let x := fsub (m * m) (2 * s)
  { x := x, y := fsub (m * fsub s x) (8 * yy * yy), z := 2 * q.y * q.z % fieldP }

def Point.add (q r : Point) : Point :=
  if q.z = 0 then r
  else if r.z = 0 then q
  else
    let qz := q.z * q.z % fieldP
    let rz := r.z * r.z % fieldP
    let u := q.x * rz % fieldP
    let s := q.y * (rz * r.z % fieldP) % fieldP
    let h := fsub (r.x * qz) u
    let d := fsub (r.y * (qz * q.z % fieldP)) s
    if h = 0 then (if d = 0 then q.dbl else { x := 1, y := 1, z := 0 })
    else
      let hh := h * h % fieldP
      let hhh := hh * h % fieldP
      let v := u * hh % fieldP
      let x := fsub (d * d) (hhh + 2 * v)
      { x := x, y := fsub (d * fsub v x) (s * hhh), z := q.z * r.z * h % fieldP }

/-- `k` times a point, over `n` bits from the highest. -/
def Point.mul (q : Point) : Nat → Nat → Point → Point
  | 0, _, a => a
  | n + 1, k, a => Point.mul q n k (if Nat.testBit k n then a.dbl.add q else a.dbl)

/-- A power in a ring of integers, over `n` bits of the exponent from the highest. -/
def powMod (m b : Nat) : Nat → Nat → Nat → Nat
  | 0, _, a => a
  | n + 1, e, a => powMod m b n e (if Nat.testBit e n then a * a % m * b % m else a * a % m)

/-- The inverse in a prime field. -/
def invMod (m b : Nat) : Nat := powMod m (b % m) 384 (m - 2) 1

/-- A signature (`r`, `s`) of a hash under the public key (`x`, `y`) is valid. -/
def verify (x y r s hash : Nat) : Bool :=
  let onCurve := decide (x < fieldP ∧ y < fieldP) &&
    y * y % fieldP == fsub (x * x % fieldP * x + curveB) (3 * x)
  let ranges := decide (0 < r ∧ r < orderN ∧ 0 < s ∧ s < orderN)
  let w := invMod orderN s
  let o : Point := { x := 1, y := 1, z := 0 }
  let a := Point.mul { x := baseX, y := baseY, z := 1 } 384 (hash * w % orderN) o
  let b := Point.mul { x := x, y := y, z := 1 } 384 (r * w % orderN) o
  let c := a.add b
  onCurve && ranges && c.z != 0 && c.x * invMod fieldP (c.z * c.z) % fieldP % orderN == r

end Sys2Proof.Sign
end

