-- ==== Sys2Proof/Machine/Boot.lean ====
section
/-! DEFINITION. The start sequence (R484 to R499), the boot commands, the fuses, the watchdog, wedges, and the flash
mailbox (R488 to R509). -/

namespace Sys2Proof.Machine

/-! ### GO (R499) -/

/-- GO: every BUF page that answers with READY = 0 has START written, and benches not yet open wait to open. -/
def State.goStart (s : State) (cmd : Bool) : State :=
  let todo := (List.range 8).filter fun b => !s.boot.open_.contains b && s.benchCan b
  let pages := (List.range 8).filter fun b => s.hubUp (benchTeam b) && s.domSteady (domBuffer b) && !s.bufReady b
  let s1 := ({ s with boot := { s.boot with going := todo, goCmd := cmd } }).setStage 8
  (s1.each pages State.poolStart).goCheck

/-- At a local edge, a bench whose pools are ready opens admission for a GO. -/
def State.openEdge (s : State) (b : Nat) : State :=
  if s.boot.stage = 8 ∧ s.boot.going.contains b ∧ s.bufReady b then
    ({ s with boot := { s.boot with
      open_ := b :: s.boot.open_, going := s.boot.going.filter (· != b), forwards := true } }).goCheck
  else s

/-- POOL_BUILD_DONE: every buffer of a bench has been threaded. -/
def poolBuildDone (b : BenchId) (s : State) : State := (s.poolBuilt b).goCheck
def execPoolBuildDone (b : BenchId) (s : State) : Host.Outcome State Fault Refusal := finish (poolBuildDone b s)

/-! ### Stages (R484, R497) -/

/-- STAGE follows the work that is complete; at its end the start goes to CONFIG or issues GO. -/
def State.startTrack (s : State) : State :=
  let b := s.boot
  if b.stage < 3 ∨ 6 < b.stage then s
  else if !b.self then s.setStage 3
  else if !b.hbm then s.setStage 4
  else if !b.patch then s.setStage 5
  else if b.warm ∧ b.restored.isNone then s.setStage 6
  else if b.restored = some true ∧ s.flag pgBoot Reg.BOOT.BCFG_AUTO_GO then s.goStart false
  else (s.setStage 7).raise pgBoot 0

/-! ### Flash structures (R488 to R491) -/

/-- Bytes of the boot flash. -/
def State.flashBytes (s : State) (a n : Nat) : List Byte := (Tab.getList zeroByte s.flash a n).map fun b => ~~~ b

/-- A copy of the directory that passes its check. -/
def State.dirCopy (s : State) (a : Nat) : Option (List Byte) :=
  let d := s.flashBytes a 64
  if leNat (d.take 4) = 0x44574452 ∧ leNat ((d.drop 60).take 4) = crc32c (d.take 60) then some d else none
/-- The directory that is used (R489). -/
def State.directory (s : State) : Option (List Byte) :=
  let seq (d : List Byte) : Nat := leNat ((d.drop 4).take 4)
  match s.dirCopy 0, s.dirCopy 0x1000 with
  | some a, some b => some (if seq a < seq b then b else a)
  | some a, none => some a
  | none, b => b

/-- The flash offset of a slot of a kind (0 firmware, 1 bundle). -/
def slotOff (d : List Byte) (kind slot : Nat) : Nat := leNat ((d.drop (8 + 8 * kind + 4 * slot)).take 4)
/-- The preferred slot of a kind. -/
def slotPref (d : List Byte) (kind : Nat) : Nat := b2n (bit (leNat ((d.drop 24).take 4)) kind)

/-- The header of an image is well formed (R490, check 2). -/
def headerGood (h : List Byte) (kind : Nat) : Bool :=
  leNat (h.take 4) == (if kind = 0 then 0x44574657 else 0x44575042) && leNat ((h.drop 4).take 2) == 1 &&
  decide (leNat ((h.drop 8).take 4) ≤ (if kind = 0 then 196608 else 524288)) &&
  ((h.drop 113).take 15).all (· == 0) && ((h.drop 224).take 32).all (· == 0)

/-- Key `k` is fused present and not revoked. -/
def State.keyGood (s : State) (k : Nat) : Bool :=
  decide (k < 4) && bit (s.fld pgBoot Reg.BOOT.FUSE_PRESENT) k && !bit (s.fld pgBoot Reg.BOOT.FUSE_REVOKED) k

/-- The header of the image at a flash offset, and the body that its BODY_LEN gives (R490). -/
def State.imageHdr (s : State) (a : Nat) : List Byte := s.flashBytes a 256
def State.imageBody (s : State) (a : Nat) : List Byte := s.flashBytes (a + 256) (leNat (((s.imageHdr a).drop 8).take 4))

/-- Check 3: the image's key is fused present and not revoked, and its public key has the fused hash (R491). -/
def State.keyRight (s : State) (h : List Byte) : Bool :=
  let k := (h.getD 6 0).toNat
  s.keyGood k && Sign.sha384 ((h.drop 16).take 97) == (s.fuse.keyHash.getD k 0).toNat
/-- Check 4: the signature over bytes 0 to 127 and the body is valid under the public key, an uncompressed point (R490, R491). -/
def sigRight (h body : List Byte) : Bool :=
  let n (i : Nat) : Nat := beNat ((h.drop i).take 48)
  h.getD 16 0 == 4 && Sign.verify (n 17) (n 65) (n 128) (n 176) (Sign.sha384 (h.take 128 ++ body))

/-- The record of an image whose header and body these are, with the fuses as they stand (R492). -/
def State.imageRecord (s : State) (h body : List Byte) : ImageRecord :=
  { digest := BitVec.ofNat 384 (Sign.sha384 (h ++ body)), fuses := s.rd pgBoot Reg.BOOT.FUSE.off }

/-- A bundle's body: the IV, the ciphertext and the tag (R495). -/
def bundleIv (body : List Byte) : List Byte := body.take 12
def bundleText (body : List Byte) : List Byte := (body.drop 12).take (body.length - 28)
/-- Check 6: the bundle's GCM tag passes under the fused patch key (R491, R495). -/
def State.tagRight (s : State) (h body : List Byte) : Bool :=
  let ks := Aes.expand (natBE 32 s.fuse.patchKey.toNat)
  decide (28 ≤ body.length) &&
    Aes.gcmTag ks (bundleIv body) (h.take 128) (bundleText body) == body.drop (body.length - 16)
/-- The whole words of the bundle's plaintext (R488, R495, R496). -/
def State.bundlePlain (s : State) (body : List Byte) : List Nat :=
  let p := Aes.gcmCtr (Aes.expand (natBE 32 s.fuse.patchKey.toNat)) (bundleIv body) (bundleText body)
  (Aes.pieces 4 (p.length / 4) p).map leNat

/-- Checks 1 to 6 of R491 on the image at a flash offset, whose header and body are read or not: the code, and whether the
comparison with the record took the place of checks 3 and 4 (R492). -/
def State.checkImage (s : State) (kind a : Nat) (head body : Bool) (record : Option ImageRecord) : Nat × Bool :=
  let h := s.imageHdr a
  let text := s.imageBody a
  let svn := (h.getD 7 0).toNat
  let fused := s.fld pgBoot (if kind = 0 then Reg.BOOT.FUSE_FW_SVN else Reg.BOOT.FUSE_PB_SVN)
  let quick := s.boot.warm && record == some (s.imageRecord h text)
  let code :=
    if !head then 6
    else if !headerGood h kind then 2
    else if !body then 6
    else if !quick && !s.keyRight h then 3
    else if !quick && !sigRight h text then 4
    else if svn < fused ∨ 63 < svn then 5
    else if kind = 1 && !s.tagRight h text then 7
    else 0
  (code, quick)

/-- VERIFY's field for a slot of a kind. -/
def verifyFld (kind slot : Nat) : Fld :=
  match kind, slot with
  | 0, 0 => Reg.BOOT.VERIFY_FW0
  | 0, _ => Reg.BOOT.VERIFY_FW1
  | _, 0 => Reg.BOOT.VERIFY_PB0
  | _, _ => Reg.BOOT.VERIFY_PB1

/-- With no directory, every slot ends with code NO_DIRECTORY (R489). -/
def State.noDirectory (s : State) : State :=
  (s.each [verifyFld 0 0, verifyFld 0 1, verifyFld 1 0, verifyFld 1 1] fun s f =>
    s.setFld pgBoot f Config.noDirectory.toNat).raise pgBoot 2

/-- Try the slots of a kind, the preferred one first: the slot that passes with its digest path, and the state with the
codes recorded. -/
def State.trySlots (s : State) (kind : Nat) (code : Nat → Nat → Nat × Bool) : Option (Nat × Bool) × State :=
  match s.directory with
  | none => (none, s.noDirectory)
  | some d =>
    let p := slotPref d kind
    [p, 1 - p].foldl (fun (x : Option (Nat × Bool) × State) i =>
      let a := slotOff d kind i
      if x.1.isSome ∨ a = 0 then x
      else
        let (n, quick) := code i a
        let s1 := x.2.setFld pgBoot (verifyFld kind i) n
        if n = 0 then (some (i, quick), s1) else (none, s1.raise pgBoot 2)) (none, s)

/-! ### Firmware (R491 to R493) -/

/-- FIRMWARE_VERIFY_DONE: the gaffer has read and checked the directory and the firmware slots. -/
def firmwareVerifyDone (fw0 fw1 : SlotCheck) (s : State) : State :=
  if s.boot.stage ≠ 1 ∧ s.boot.stage ≠ 2 ∨ s.pins.sharedDown then s
  else
    let io (i : Nat) : Bool := if i = 0 then fw0.io else fw1.io
    let (won, s1) := s.trySlots 0 fun i a => s.checkImage 0 a (io i) (io i) s.boot.record
    match won, s.directory with
    | some (i, quick), some d =>
      let h := s.imageHdr (slotOff d 0 i)
      let fell := slotPref d 0 != i && slotOff d 0 (slotPref d 0) != 0
      let s2 := (s1.setFld pgBoot Reg.BOOT.STAGE_FW_SLOT i).setFld pgBoot Reg.BOOT.STAGE_DIGEST_PATH (b2n quick)
      let s3 := (s2.setFld pgBoot Reg.BOOT.RUNSVN_FW_SVN (h.getD 7 0).toNat).ifDo fell fun s => s.bump pgBoot Reg.BOOT.FW_FALLBACKS
      let s4 := { s3 with boot := { s3.boot with
        fwKey := some (h.getD 6 0).toNat, record := some (s.imageRecord h (s.imageBody (slotOff d 0 i))) } }
      let used := s4.lehrValid
      let s5 := (s4.ifDo used State.countSkipped).setFld pgBoot Reg.BOOT.STAGE_LEHR_USED (b2n used)
      let s6 := s5.each ((List.range 112).filter fun d => !s5.domOn d) fun s d => s.onDom d fun m => { m with trans := some (0, false) }
      ([domHost, domGaffer, domAon].foldl State.restoreDomain s6).setStage 3
    | _, _ => s1.setStage 15
def execFirmwareVerifyDone (fw0 fw1 : SlotCheck) (s : State) : Host.Outcome State Fault Refusal :=
  finish (firmwareVerifyDone fw0 fw1 s)

/-- SELFTEST_DONE: self-test and SRAM clear end; a memory group that cannot be repaired stops a cold start (R486). -/
def selftestDone (bad : Option (Fin 34)) (s : State) : State :=
  let settled := (List.range 112).all fun d => (s.domAt d).trans.isNone
  if s.boot.stage ≠ 3 ∨ s.boot.self ∨ !settled ∨ s.pins.sharedDown then s
  else match bad, s.boot.warm with
    | some g, false => (s.setFld pgBoot Reg.BOOT.STAGE_BIST_FAIL g).setStage 15
    | _, _ =>
      let s1 := s.setFld pgBoot Reg.BOOT.STAGE_BIST_FAIL 0xFF
      ({ s1 with boot := { s1.boot with self := true } }).startTrack
def execSelftestDone (bad : Option (Fin 34)) (s : State) : Host.Outcome State Fault Refusal := finish (selftestDone bad s)

/-- A team's table image is lost (R429, R430, R435). -/
def State.imageLost (s : State) (t : Nat) : State :=
  ((s.setFld (pgHalf t) Reg.CRUCH.IMG_STAT_VALID 0).onHalf t fun h => { h with kept := none }).raise (pgHalf t) 4

/-- HBM_INIT_DONE: the HBM domains have come ON, or failed to (R484); the PHY has locked and every pseudo-channel of the halves
that run has ended its training, those that failed it retired (R421, R423, R486). `late` are pseudo-channels that had not
entered self-refresh within 10 µs of the reset's assertion: the image of their half is not used (R429). -/
def hbmInitDone (late : List ChanId) (s : State) : State :=
  let live (c : Nat) : Bool := s.domOn (domHalf (c / 16)) && s.domOn domPhy && s.halfState (c / 16) != 4
  let settled := [domPhy, domHalf 0, domHalf 1].all fun d => (s.domAt d).trans.isNone
  if s.boot.stage < 3 ∨ 6 < s.boot.stage ∨ s.boot.hbm ∨ !settled ∨ s.pins.sharedDown ∨
      !((List.range 32).all fun c => !live c || s.chSettled c) then s
  else
    let s0 := s.each ([0, 1].filter fun t => s.flag (pgHalf t) Reg.CRUCH.IMG_STAT_VALID && late.any fun c => c.val / 16 == t) State.imageLost
    let s1 := s0.setFld pgPhy Reg.CRUCP.PHY_STAT_LOCKED (b2n (s.domOn domPhy))
    ({ s1 with boot := { s1.boot with hbm := true } }).startTrack
def execHbmInitDone (late : List ChanId) (s : State) : Host.Outcome State Fault Refusal := finish (hbmInitDone late s)

/-! ### The patch bundle (R142, R495, R496) -/

/-- A record of a bundle: type, first address, data words. -/
structure PatchRec where
  type : Nat
  first : Nat
  n : Nat
  data : List Nat

/-- Data words of a record. -/
def recWords (type n : Nat) : Nat := match type with
  | 1 => 6 * n
  | 3 => 2 * n
  | _ => n
/-- Size of the store a record's type writes. -/
def recStore (type : Nat) : Nat := match type with
  | 1 => 16384
  | 2 => 256
  | 3 => 64
  | _ => 6

/-- The records of a plaintext, none where one is not well formed (R496). -/
def patchRecs : Nat → List Nat → Option (List PatchRec)
  | 0, _ => none
  | _, [] => none
  | fuel + 1, h :: rest =>
    let type := bits h 31 28
    let first := bits h 27 14
    let n := bits h 13 0
    if type = 0 then some []
    else if 4 < type ∨ recStore type < first + n ∨ rest.length < recWords type n then none
    else (patchRecs fuel (rest.drop (recWords type n))).map fun l =>
      { type := type, first := first, n := n, data := rest.take (recWords type n) } :: l

/-- The address of ENTRY register `i` (R496). -/
def entryFld (i : Nat) : Nat :=
  if i < 4 then (Reg.MARVER.ENTRY i).off else if i = 4 then Reg.MARVER.ENTRY_CPU.off else Reg.MARVER.ENTRY_PUNTY.off

/-- A record is applied: to the image, and for ENTRY registers to every bench. -/
def State.applyRec (s : State) (r : PatchRec) : State :=
  let w (i : Nat) : Nat := r.data.getD i 0
  (List.range r.n).foldl (fun s i =>
    let k := r.first + i
    match r.type with
    | 1 =>
      let v := (List.range 6).foldl (fun a j => a * 2 ^ 32 + w (6 * i + j)) 0
      { s with image := { s.image with words := Tab.set (fun _ => none) s.image.words k (some (BitVec.ofNat 192 v)) } }
    | 2 => { s with image := { s.image with disp := Tab.set (fun _ => none) s.image.disp k (some (BitVec.ofNat 32 (w i))) } }
    | 3 => { s with image := { s.image with
        pmt := Tab.set (fun _ => none) s.image.pmt k (some (BitVec.ofNat 39 (w (2 * i) * 2 ^ 32 + w (2 * i + 1)))) } }
    | _ => s.each (List.range 8) fun s b => s.wr (pgMarver b) (entryFld k) (BitVec.ofNat 32 (w i % 16384))) s

/-- PATCH_LOAD_DONE: the gaffer has loaded the base image and applied or rejected the bundle; `pb0` and `pb1` say that a slot's
header is read, `body0` and `body1` its body. -/
def patchLoadDone (pb0 pb1 : SlotCheck) (body0 body1 : Bool) (s : State) : State :=
  let ready := (List.range 8).all fun b => ((s.domAt (domIngress b)).trans).isNone
  if s.boot.stage < 3 ∨ 6 < s.boot.stage ∨ s.boot.patch ∨ !ready ∨ s.pins.sharedDown then s
  else
    let on := (List.range 8).filter fun b => s.domOn (domIngress b)
    let base := ({ s with image := {}, boot := { s.boot with imgLost := [] } }).each on fun s b =>
      s.each (List.range 6) fun s i => s.wr (pgMarver b) (entryFld i) (BitVec.ofNat 32 (baseEntryAt i))
    let recs (a : Nat) : Option (List PatchRec) :=
      let l := s.bundlePlain (s.imageBody a)
      patchRecs (l.length + 1) l
    let (won, s1) := base.trySlots 1 fun i a =>
      let (n, quick) := base.checkImage 1 a (if i = 0 then pb0.io else pb1.io) (if i = 0 then body0 else body1) s.boot.pbRecord
      (if n = 0 ∧ (recs a).isNone then 8 else n, quick)
    let tried := [Reg.BOOT.VERIFY_PB0, Reg.BOOT.VERIFY_PB1].any fun f =>
      s1.fld pgBoot f != 0xF && s1.fld pgBoot f != 0 && base.directory.isSome
    let s2 := match won, base.directory with
      | some (i, _), some d =>
        let h := s.imageHdr (slotOff d 1 i)
        let rec_ := s.imageRecord h (s.imageBody (slotOff d 1 i))
        let s2 := ((recs (slotOff d 1 i)).getD []).foldl State.applyRec { s1 with boot := { s1.boot with pbRecord := some rec_ } }
        let s3 := (s2.setFld pgBoot Reg.BOOT.STAGE_PB_SLOT i).setFld pgBoot Reg.BOOT.RUNSVN_PB_SVN (h.getD 7 0).toNat
        s3.each on fun s b =>
          (s.wr (pgMarver b) Reg.MARVER.IMAGE.off (BitVec.ofNat 32 (leNat ((h.drop 12).take 4)))).setFld (pgMarver b)
            Reg.MARVER.IMGSTAT_PATCH_APPLIED 1
      | _, _ =>
        if tried then s1.each on fun s b =>
          (s.setFld (pgMarver b) Reg.MARVER.IMGSTAT_PATCH_REJECT 1).raise (pgMarver b) 7
        else s1
    let (crc, s3) := s2.free 32
    let s4 := s3.each on fun s b =>
      (s.wr (pgMarver b) Reg.MARVER.CS_CRC.off (BitVec.ofNat 32 crc)).setFld (pgMarver b) Reg.MARVER.IMGSTAT_LOADED 1
    ({ s4 with boot := { s4.boot with patch := true } }).startTrack
def execPatchLoadDone (pb0 pb1 : SlotCheck) (body0 body1 : Bool) (s : State) : Host.Outcome State Fault Refusal :=
  finish (patchLoadDone pb0 pb1 body0 body1 s)

/-! ### Restore (R430, R497) -/

/-- A team's tables take the kept image. -/
def State.restoreTables (s : State) (t : Nat) (img : TableImage) : State :=
  let s1 := (List.range 4).foldl (fun s i =>
    match img.tabs[i]? with
    | some x => s.onTabs (4 * t + i) fun old => { x with rtclass := old.rtclass }
    | none => s) s
  let a := (s1.tabsAt (4 * t)).active
  let s2 := s1.onTeam t fun m => { m with
    meters := img.meters.foldl (fun l e => Tab.set (fun _ => ({} : Meter)) l e.1 (({} : Meter).write e.2)) [],
    filters := img.filters.foldl (fun l e => Tab.set (fun _ => ({} : Filter)) l e.1 { w := e.2 }) [],
    seqs := img.seqs }
  let s3 := s2.setFld (pgCls (4 * t)) Reg.CLS.SWAP_STAT_ACTIVE a
  (s3.onHalf t fun h => { h with armed := true }).each (teamChans t) fun s c => s.imageAccess c 229376

/-- A team's part of the restore: false where its image is lost. -/
def State.restoreTeam (s : State) (t : Nat) (bad : Bool) : Bool × State :=
  match (s.halfAt t).kept with
  | none => (false, s.imageLost t)
  | some img =>
    if bad ∨ s.imageBad t ∨ s.halfState t = 4 then (false, (s.bump (pgHalf t) Reg.CRUCH.IMG_BAD).imageLost t)
    else (true, (s.restoreTables t img).setFld pgBoot
      (if t = 0 then Reg.BOOT.STAGE_IMG_A_USED else Reg.BOOT.STAGE_IMG_B_USED) 1)

/-- RESTORE_DONE: the restore of the crucible table images ends; `badA` and `badB` say that a block of a team's image
was bad in both copies. -/
def restoreDone (badA badB : Bool) (s : State) : State :=
  if !s.boot.warm ∨ !s.boot.self ∨ !s.boot.hbm ∨ s.boot.restored.isSome ∨ 6 < s.boot.stage ∨ s.pins.sharedDown then s
  else
    let (ok, s1) :=
      if !s.lehrValid then
        (false, s.each [0, 1] fun s t =>
          (s.setFld (pgHalf t) Reg.CRUCH.IMG_STAT_VALID 0).onHalf t fun h => { h with kept := none })
      else
        let (a, s1) := s.restoreTeam 0 badA
        let (b, s2) := s1.restoreTeam 1 badB
        (a && b, s2)
    ({ s1 with boot := { s1.boot with restored := some ok } }).startTrack
def execRestoreDone (badA badB : Bool) (s : State) : Host.Outcome State Fault Refusal := finish (restoreDone badA badB s)

/-! ### BOOT.CMD (R494, R503, R506) -/

/-- A write of BOOT.CMD; a burn takes the SVNs of the image that runs (R494). -/
def State.bootCmdWrite (s : State) (v : W32) : State :=
  let op := bits v.toNat 31 28
  let key := bits v.toNat 25 24
  let sure := bits v.toNat 7 0 == 0xA5
  let s1 := { s with boot := { s.boot with cmdWait := op } }.wr pgBoot Reg.BOOT.CMD_RESULT.off 0
  let stage := s.boot.stage
  match op with
  | 1 => if stage = 7 then s1.goStart true else s1.cmdFinal 2
  | 2 => if sure then (s1.cmdFinal 0).fullReset 2 else s1.cmdFinal 3
  | 3 => ({ s1 with boot := { s1.boot with warned := false } }).cmdFinal 0
  | 4 =>
    if !sure then s1.cmdFinal 3
    else if stage ≠ 7 ∧ stage ≠ 9 ∨ s.boot.burn.isSome then s1.cmdFinal 4
    else { s1 with boot := { s1.boot with
      burn := some (.svn (s.fld pgBoot Reg.BOOT.RUNSVN_FW_SVN) (s.fld pgBoot Reg.BOOT.RUNSVN_PB_SVN)) } }
  | 5 =>
    let left := (List.range 4).any fun k => k != key && s.keyGood k
    if !sure then s1.cmdFinal 3
    else if s.boot.fwKey = some key ∨ !left ∨ s.boot.burn.isSome then s1.cmdFinal 4
    else { s1 with boot := { s1.boot with burn := some (.revoke key) } }
  | _ => s1.cmdFinal 3

/-- A host write of BOOT.CMD with an operation, a key and CONFIRM. -/
def State.bootCommand (s : State) (op key confirm : Nat) : State :=
  s.hostWrite pgBoot fun s => s.bootCmdWrite (BitVec.ofNat 32 (op * 2 ^ 28 + key * 2 ^ 24 + confirm))

/-- BOOT_GO: BOOT.CMD GO. -/
def bootGo (s : State) : State := s.bootCommand 1 0 0
def execBootGo (s : State) : Host.Outcome State Fault Refusal := finish (bootGo s)
/-- BOOT_RESET: BOOT.CMD RESET with CONFIRM 0xA5. -/
def bootReset (s : State) : State := s.bootCommand 2 0 0xA5
def execBootReset (s : State) : Host.Outcome State Fault Refusal := finish (bootReset s)
/-- WDOG_KICK: BOOT.CMD WDOG_KICK. -/
def wdogKick (s : State) : State := s.bootCommand 3 0 0
def execWdogKick (s : State) : Host.Outcome State Fault Refusal := finish (wdogKick s)
/-- SVN_COMMIT: BOOT.CMD SVN_COMMIT with CONFIRM 0xA5. -/
def svnCommit (s : State) : State := s.bootCommand 4 0 0xA5
def execSvnCommit (s : State) : Host.Outcome State Fault Refusal := finish (svnCommit s)
/-- KEY_REVOKE: BOOT.CMD KEY_REVOKE with CONFIRM 0xA5. -/
def keyRevoke (key : Fin 4) (s : State) : State := s.bootCommand 5 key 0xA5
def execKeyRevoke (key : Fin 4) (s : State) : Host.Outcome State Fault Refusal := finish (keyRevoke key s)
/-- BOOT_CMD_BAD: BOOT.CMD with an OP that is none of the commands, or without the CONFIRM its OP requires. -/
def bootCmdBad (op : Fin 16) (confirm : Byte) (s : State) : State :=
  if op.val = 0 ∨ 5 < op.val ∨ ((op.val = 2 ∨ op.val = 4 ∨ op.val = 5) ∧ confirm.toNat ≠ 0xA5) then
    s.bootCommand op 0 confirm.toNat
  else s
def execBootCmdBad (op : Fin 16) (confirm : Byte) (s : State) : Host.Outcome State Fault Refusal :=
  finish (bootCmdBad op confirm s)

/-- What a burn changes (R494). -/
def State.burnt (s : State) : Burn → State
  | .svn fw pb =>
    (s.setFld pgBoot Reg.BOOT.FUSE_FW_SVN (max (s.fld pgBoot Reg.BOOT.FUSE_FW_SVN) fw)).setFld pgBoot Reg.BOOT.FUSE_PB_SVN
      (max (s.fld pgBoot Reg.BOOT.FUSE_PB_SVN) pb)
  | .revoke key => s.setFld pgBoot Reg.BOOT.FUSE_REVOKED (s.fld pgBoot Reg.BOOT.FUSE_REVOKED ||| 2 ^ key)

/-- FUSE_BURN_DONE: a burn ends; `ok` when it reads back (R494). Its result shows where no BOOT.CMD has been written since
(R506). -/
def fuseBurnDone (ok : Bool) (s : State) : State :=
  match s.boot.burn with
  | none => s
  | some b =>
    if s.pins.sharedDown then s
    else
      let s1 := { s with boot := { s.boot with burn := none } }.ifDo ok (·.burnt b)
      s1.ifDo (decide (4 ≤ s.boot.cmdWait)) (·.cmdFinal (if ok then 0 else 5))
def execFuseBurnDone (ok : Bool) (s : State) : Host.Outcome State Fault Refusal := finish (fuseBurnDone ok s)

/-! ### Watchdog and wedges (R502, R503) -/

/-- A write of BCFG: a change of WDOG_EN or WDOG_MS restarts the count. -/
def State.bcfgWrite (s : State) (v : W32) : State :=
  let s1 := s.plainWrite pgBoot Reg.BOOT.BCFG.off 0 v
  let same := s1.fld pgBoot Reg.BOOT.BCFG_WDOG_EN == s.fld pgBoot Reg.BOOT.BCFG_WDOG_EN &&
    s1.fld pgBoot Reg.BOOT.BCFG_WDOG_MS == s.fld pgBoot Reg.BOOT.BCFG_WDOG_MS
  if same then s1 else { s1 with boot := { s1.boot with warned := false } }
/-- BCFG_WRITE: a host write of BCFG. -/
def bcfgWrite (v : W32) (s : State) : State := s.hostWrite pgBoot fun s => s.bcfgWrite v
def execBcfgWrite (v : W32) (s : State) : Host.Outcome State Fault Refusal := finish (bcfgWrite v s)

/-- The watchdog counts: the gaffer runs it, while VCORE_S stands (R552). -/
def State.wdogOn (s : State) : Bool := s.flag pgBoot Reg.BOOT.BCFG_WDOG_EN && s.boot.stage == 9 && !s.pins.sharedDown
/-- WATCHDOG_WARN: half the watchdog time has passed without a kick. -/
def watchdogWarn (s : State) : State :=
  if s.wdogOn && !s.boot.warned then ({ s with boot := { s.boot with warned := true } }).raise pgBoot 4 else s
def execWatchdogWarn (s : State) : Host.Outcome State Fault Refusal := finish (watchdogWarn s)
/-- WATCHDOG_EXPIRY: the watchdog time has passed without a kick. -/
def watchdogExpiry (s : State) : State := if s.wdogOn && s.boot.warned then s.fullReset 5 else s
def execWatchdogExpiry (s : State) : Host.Outcome State Fault Refusal := finish (watchdogExpiry s)

/-- WEDGE_DETECT: the gaffer reports a function as wedged: a bench (0 to 7), a team hub (8, 9), or a half's spill engine
(10, 11), whose half is then FAILED (R426). -/
def wedgeDetect (k : Fin 12) (s : State) : State :=
  let i := k.val
  let t := if i < 8 then i / 4 else i % 2
  let up := s.domOn domGaffer &&
    (if i < 8 then s.domOn (domIngress i) else if i < 10 then s.domOn (domClock t) else s.domOn (domSpill t) && s.halfState t == 2)
  if !up then s
  else
    let s1 := (s.wr pgBoot Reg.BOOT.WEDGE.off (s.rd pgBoot Reg.BOOT.WEDGE.off ||| BitVec.ofNat 32 (2 ^ i))).raise pgBoot 3
    let s2 := if i = 8 ∨ i = 9 then { s1 with hub := { s1.hub with faulty := (t :: s1.hub.faulty).eraseDups } } else s1
    let s3 := (s2.ifDo (decide (10 ≤ i)) (·.failHalf t)).teamFail t
    if s.flag pgBoot Reg.BOOT.BCFG_AUTO_RESET then s3.fullReset 6 else s3
def execWedgeDetect (k : Fin 12) (s : State) : Host.Outcome State Fault Refusal := finish (wedgeDetect k s)

/-! ### The flash mailbox (R507) -/

/-- A flash result becomes final. -/
def State.flFinal (s : State) (status : Nat) : State :=
  ({ s with boot := { s.boot with flWait := false } }.wr pgBoot Reg.BOOT.FL_RESULT.off
    (BitVec.ofNat 32 (2 ^ 31 + status * 2 ^ 27))).raise pgBoot 6
/-- The 256 bytes of FL_DATA. -/
def State.flData (s : State) : List Byte :=
  (List.range 64).flatMap fun k => natBE 4 (s.rd pgBoot (Reg.BOOT.FL_DATA k).off).toNat

/-- A write of FL_CMD; `ok` tells whether a READ succeeds. -/
def State.flCmdWrite (s : State) (v : W32) (ok : Bool) : State :=
  let op := bits v.toNat 31 28
  let a := (s.rd pgBoot Reg.BOOT.FL_ADDR.off).toNat
  let s1 := s.wr pgBoot Reg.BOOT.FL_RESULT.off 0
  let stage := s.boot.stage
  if (stage ≠ 7 ∧ stage ≠ 9 ∧ stage ≠ 15) ∨ s.boot.flash.isSome then s1.flFinal 1
  else if 2 < op ∨ (op ≠ 0 ∧ bits v.toNat 7 0 ≠ 0xA5) ∨ a % (if op = 2 then 4096 else 256) ≠ 0 then s1.flFinal 2
  else if op = 0 then
    if ok then
      ((List.range 64).foldl (fun s k =>
        s.wr pgBoot (Reg.BOOT.FL_DATA k).off (BitVec.ofNat 32 (beNat (s.flashBytes (a + 4 * k) 4)))) s1).flFinal 0
    else s1.flFinal 3
  else { s1 with boot := { s1.boot with flash := some (op, a, if op = 1 then s.flData else []), flWait := true } }

/-- A host write of FL_CMD. -/
def State.flCommand (s : State) (op confirm : Nat) (ok : Bool) : State :=
  s.hostWrite pgBoot fun s => s.flCmdWrite (BitVec.ofNat 32 (op * 2 ^ 28 + confirm)) ok

/-- FLASH_READ: FL_CMD READ; `ok` when the flash answers. -/
def flashRead (ok : Bool) (s : State) : State := s.flCommand 0 0 ok
def execFlashRead (ok : Bool) (s : State) : Host.Outcome State Fault Refusal := finish (flashRead ok s)
/-- FLASH_PROGRAM: FL_CMD PROGRAM. -/
def flashProgram (confirm : Byte) (s : State) : State := s.flCommand 1 confirm.toNat true
def execFlashProgram (confirm : Byte) (s : State) : Host.Outcome State Fault Refusal := finish (flashProgram confirm s)
/-- FLASH_ERASE: FL_CMD ERASE. -/
def flashErase (confirm : Byte) (s : State) : State := s.flCommand 2 confirm.toNat true
def execFlashErase (confirm : Byte) (s : State) : Host.Outcome State Fault Refusal := finish (flashErase confirm s)
/-- FLASH_BAD_OP: FL_CMD with OP 3 to 15. -/
def flashBadOp (op : Fin 13) (s : State) : State := s.flCommand (3 + op) 0 true
def execFlashBadOp (op : Fin 13) (s : State) : Host.Outcome State Fault Refusal := finish (flashBadOp op s)

/-- FLASH_DONE: a program or erase completes, `ok` or with FLASH_ERR. A program clears bits, and an erase sets them. The result
shows where no FL_CMD has been written since (R506). -/
def flashDone (ok : Bool) (s : State) : State :=
  match s.boot.flash with
  | none => s
  | some (op, a, data) =>
    if s.pins.sharedDown then s
    else
      let stored := if op = 1 then
          ((Tab.getList zeroByte s.flash a 256).zip data).map fun e => e.1 ||| ~~~ e.2
        else List.replicate 4096 0
      let s1 := { s with
        boot := { s.boot with flash := none }, flash := if ok then Tab.setList zeroByte s.flash a stored else s.flash }
      s1.ifDo s.boot.flWait (·.flFinal (if ok then 0 else 3))
def execFlashDone (ok : Bool) (s : State) : Host.Outcome State Fault Refusal := finish (flashDone ok s)

end Sys2Proof.Machine
end

