-- ==== Sys2Proof/Machine/Jobs.lean ====
section
/-! DEFINITION. Lookaside jobs and the known-answer test (R387 to R398). A job arrives with what the cluster reads of host
memory for it; what it writes goes to `hostMem`. -/

namespace Sys2Proof

/-! ### Descriptors (R388) -/

/-- Word `i` of a descriptor. -/
def JobIn.word (j : JobIn) (i : Nat) : Nat := leNat (slice j.desc (4 * i) 4)
/-- The address in words `i` and `i + 1`. -/
def JobIn.addr (j : JobIn) (i : Nat) : Nat := j.word i + 2 ^ 32 * j.word (i + 1)
def JobIn.op (j : JobIn) : Nat := bits (j.word 0) 31 28
def JobIn.first (j : JobIn) : Bool := bit (j.word 0) 27
def JobIn.last (j : JobIn) : Bool := bit (j.word 0) 26
def JobIn.wrap (j : JobIn) : Bool := bit (j.word 0) 25
def JobIn.tagLen (j : JobIn) : Nat := bits (j.word 0) 24 20
def JobIn.key (j : JobIn) : Nat := bits (j.word 0) 10 0
def JobIn.len (j : JobIn) : Nat := bits (j.word 6) 24 0
def JobIn.aadLen (j : JobIn) : Nat := bits (j.word 7) 15 0
def JobIn.data (j : JobIn) : List Byte := slice j.src 0 j.len

/-- A job ends with BAD_DESC (R389, R390). -/
def JobIn.bad (j : JobIn) : Bool :=
  decide (12 ≤ j.op) || (!j.last && (j.len == 0 || j.len % 16 != 0)) || ((j.op == 1 || j.op == 2) && j.len % 16 != 0) ||
  decide (j.len < j.aadLen) || (!j.first && j.aadLen != 0) ||
  (decide (5 ≤ j.op ∧ j.op ≤ 10) && !decide (4 ≤ j.tagLen ∧ j.tagLen ≤ 16)) ||
  j.addr 8 % 64 != 0 || bits (j.word 0) 19 11 != 0 || j.word 15 != 0

end Sys2Proof

namespace Sys2Proof.Machine

/-! ### Contexts (R391, R392) -/

/-- A chain's state (R392), with the key it runs under. -/
structure JobCtx where
  slot : Nat := 0
  gen : Nat := 0
  keyLen : Nat := 0
  key : List Byte := []
  aad : Nat := 0
  done : Nat := 0
  a : List Byte := []
  b : List Byte := []
  deriving DecidableEq, Repr

/-- AES-KW of RFC 3394: one step of the wrap over the registers, with the step counter. -/
def kwStep (ks : List (List Nat)) (x : List Byte × List (List Byte)) (t : Nat) : List Byte × List (List Byte) :=
  match x.2 with
  | [] => x
  | r :: rest =>
    let b := Aes.enc ks (x.1 ++ r)
    (xorBytes (b.take 8) (natBE 8 (t + 1)), rest ++ [b.drop 8])

/-- AES key wrap (RFC 3394) of a whole number of 8-byte pieces. -/
def kwWrap (key p : List Byte) : List Byte :=
  let rs := Aes.pieces 8 (p.length / 8) p
  let x := (List.range (6 * rs.length)).foldl (kwStep (Aes.expand key)) (List.replicate 8 0xA6, rs)
  x.1 ++ x.2.flatten

/-- One step of the unwrap. -/
def kwBack (ks : List (List Nat)) (x : List Byte × List (List Byte)) (t : Nat) : List Byte × List (List Byte) :=
  match x.2.reverse with
  | [] => x
  | r :: rest =>
    let b := Aes.dec ks (xorBytes x.1 (natBE 8 (t + 1)) ++ r)
    (b.take 8, b.drop 8 :: rest.reverse)

/-- AES key unwrap; none where the integrity check fails. -/
def kwUnwrap (key c : List Byte) : Option (List Byte) :=
  let rs := Aes.pieces 8 (c.length / 8) (c.drop 8)
  let x := (List.range (6 * rs.length)).reverse.foldl (kwBack (Aes.expand key)) (c.take 8, rs)
  if x.1 = List.replicate 8 0xA6 then some x.2.flatten else none

/-- The clear bytes 8 to 71 of a context; `pad` fills what R392 does not name. -/
def JobCtx.body (c : JobCtx) (pad : List Byte) : List Byte :=
  natLE 4 (c.keyLen * 2 ^ 27 + c.slot * 2 ^ 16 + c.gen) ++ pad.take 4 ++ natLE 8 c.aad ++ natLE 8 c.done ++
    slice c.a 0 16 ++ slice c.b 0 16 ++ List.replicate 8 0

/-- A context of bytes 8 to 71. -/
def JobCtx.ofBody (l : List Byte) : JobCtx :=
  let w := leNat (slice l 0 4)
  { slot := bits w 26 16, gen := bits w 15 0, keyLen := bits w 27 27, aad := leNat (slice l 8 8), done := leNat (slice l 16 8),
    a := slice l 24 16, b := slice l 40 16 }

/-- The 128 bytes of a saved context; `pad` (128 bytes) fills what R392 does not name. -/
def JobCtx.saved (c : JobCtx) (dev : List Byte) (op : Nat) (wrap : Bool) (pad : List Byte) : List Byte :=
  let head (f : Nat) := natLE 4 (f * 2 ^ 24 + leNat (pad.take 4) % 2 ^ 20 * 16 + op) ++ slice pad 4 4
  if wrap then head 2 ++ kwWrap dev (c.body (pad.drop 8) ++ slice c.key 0 32) ++ slice pad 12 16
  else head 1 ++ c.body (pad.drop 8) ++ slice pad 12 56

/-! ### The operations (R389) -/

/-- What a job gives: the bytes for DST, the tag, and the chain's state after it. -/
structure JobOut where
  out : List Byte := []
  tag : List Byte := []
  ctx : JobCtx := {}
  deriving DecidableEq, Repr

/-- The last 16 bytes. -/
def lastBlock (dflt l : List Byte) : List Byte := if l.length < 16 then dflt else l.drop (l.length - 16)

/-- A counter block plus `n` in its low `w` bits. -/
def incrBy (w n : Nat) (b : List Byte) : List Byte :=
  let v := beNat b
  natBE 16 (v / 2 ^ w * 2 ^ w + (v + n) % 2 ^ w)

/-- GHASH from an accumulator. -/
def ghashOn (h y : Nat) (l : List (List Byte)) : Nat :=
  l.foldl (fun y b => Aes.ghMul 128 (y ^^^ beNat (slice b 0 16)) h 0) y

/-- CTR, CBC and CFB. -/
def runBlocks (op : Nat) (c : JobCtx) (d : List Byte) : JobOut :=
  let ks := Aes.expand c.key
  let bs := Aes.blocks d
  let after (out a : List Byte) : JobOut := { out := out, ctx := { c with a := a, done := c.done + d.length } }
  match op with
  | 0 => after (Aes.ctr ks 128 c.a bs) (incrBy 128 bs.length c.a)
  | 1 => let o := (Aes.cbcEnc ks c.a bs).flatten; after o (lastBlock c.a o)
  | 2 => after (Aes.cbcDec ks c.a bs).flatten (lastBlock c.a d)
  | 3 => let o := (Aes.cfbEnc ks c.a bs).flatten; after o (lastBlock c.a o)
  | _ => after (Aes.cfbDec ks c.a bs).flatten (lastBlock c.a d)

/-- GHASH over bytes that begin `off` bytes into a block: an unfinished block is added and not yet multiplied. -/
def ghashOpen (h y off : Nat) (l : List Byte) : Nat :=
  (Aes.blocks (List.replicate off 0 ++ l)).foldl (fun y b =>
    if b.length = 16 then Aes.ghMul 128 (y ^^^ beNat b) h 0 else y ^^^ beNat (slice b 0 16)) y

/-- GHASH with the last block, unfinished where `n` bytes are no whole number of blocks, filled with zeros. -/
def ghashShut (h y n : Nat) : Nat := if n % 16 = 0 then y else Aes.ghMul 128 y h 0

/-- GCM and GMAC: block A is the accumulator, which between jobs of a chain holds an unfinished block of data (log 135), block B
is J0. -/
def runGcm (enc : Bool) (c : JobCtx) (aad d : List Byte) : JobOut :=
  let ks := Aes.expand c.key
  let h := beNat (Aes.enc ks (List.replicate 16 0))
  let off := c.done % 16
  let o := (Aes.ctr ks 32 (incrBy 32 (1 + c.done / 16) c.b) (Aes.blocks (List.replicate off 0 ++ d))).drop off
  let ct := if enc then o else d
  let y := ghashOpen h (ghashOn h (beNat c.a) (Aes.padded aad)) off ct
  let na := c.aad + aad.length
  let nd := c.done + d.length
  let s := ghashOn h (ghashShut h y nd) [natBE 8 (8 * na) ++ natBE 8 (8 * nd)]
  { out := o, tag := xorBytes (natBE 16 s) (Aes.enc ks c.b), ctx := { c with aad := na, done := nd, a := natBE 16 y } }

/-- CMAC: block A is the CBC-MAC state, block B the block held. -/
def runCmac (first : Bool) (c : JobCtx) (d : List Byte) : JobOut :=
  let ks := Aes.expand c.key
  let bs := Aes.blocks ((if first then [] else c.b) ++ d)
  let held := bs.getLast?.getD []
  let y := bs.dropLast.foldl (fun y b => Aes.enc ks (xorBytes b y)) c.a
  let k1 := Aes.dbl (beNat (Aes.enc ks (List.replicate 16 0)))
  let x := if held.length = 16 then xorBytes held (natBE 16 k1)
    else xorBytes (slice (held ++ [0x80]) 0 16) (natBE 16 (Aes.dbl k1))
  { tag := Aes.enc ks (xorBytes x y), ctx := { c with a := y, b := held, done := c.done + d.length } }

/-- A job's work on its chain's state. -/
def jobWork (j : JobIn) (c : JobCtx) : JobOut :=
  let d := j.data
  match j.op with
  | 5 => runGcm true c (d.take j.aadLen) (d.drop j.aadLen)
  | 6 => runGcm false c (d.take j.aadLen) (d.drop j.aadLen)
  | 7 | 8 => { runGcm true c d [] with out := [] }
  | 9 | 10 => runCmac j.first c d
  | op => runBlocks op c d

/-- The state a chain begins with. -/
def jobBegin (j : JobIn) (slot : Nat) (k : KeySlot) : JobCtx :=
  let c : JobCtx := { slot := slot, gen := k.gen, keyLen := k.len, key := natBE k.bytes k.key }
  match j.op with
  | 0 | 1 | 2 | 3 | 4 => { c with a := slice j.iv 0 16 }
  | 5 | 6 | 7 | 8 => { c with a := List.replicate 16 0, b := slice j.iv 0 12 ++ [0, 0, 0, 1] }
  | _ => { c with a := List.replicate 16 0 }

/-! ### Running a job -/

/-- `n` free bytes. -/
def State.freeBytes (s : State) (n : Nat) : List Byte × State :=
  (List.range n).foldl (fun x _ => let (v, t) := x.2.free 8; (x.1 ++ [BitVec.ofNat 8 v], t)) ([], s)

/-- The key slot serves jobs (R371, R395). -/
def KeySlot.serves (k : KeySlot) : Bool := k.loaded && k.use == 1

/-- The device key's bytes. -/
def State.devKeyOf (s : State) (c : Nat) : List Byte := natBE 32 (s.ciphAt c).devKey

/-- The chain's state that a job starts from, or the statuses that end it. Where more than one holds, a free value says
which (R391, R392, R395). -/
def State.jobStart (s : State) (c : Nat) (j : JobIn) : List Nat × JobCtx :=
  let k := s.keySlot c j.key
  let noKey := if k.serves then [] else [2]
  if j.first then
    (if !k.serves then [2] else if (j.op == 5 || j.op == 7) && decide (2 ^ 32 ≤ k.invoc + 1) then [3] else [], jobBegin j j.key k)
  else
    let head := leNat (slice j.ctx 0 4)
    if bits head 31 24 = 2 then
      match kwUnwrap (s.devKeyOf c) (slice j.ctx 8 104) with
      | none => ([6], {})
      | some l =>
        let x := JobCtx.ofBody l
        ([], { x with key := (l.drop 64).take (if x.keyLen = 1 then 32 else 16) })
    else if bits head 31 24 = 1 then
      let x := JobCtx.ofBody (slice j.ctx 8 64)
      let differs := x.slot != j.key || bits head 3 0 != j.op
      (noKey ++ (if differs then [5] else if x.gen ≠ k.gen then [4] else []),
        { x with key := natBE k.bytes k.key, keyLen := k.len })
    else (noKey ++ [5], {})

/-- A job counts an invocation of its slot (R394). -/
def State.countInvoc (s : State) (c : Nat) (j : JobIn) : State :=
  if j.first && (j.op == 5 || j.op == 7) then
    let k := s.keySlot c j.key
    s.onCiph c fun x => { x with keys := Tab.set (fun _ => {}) x.keys j.key { k with invoc := k.invoc + 1 } }
  else s

/-- Bytes written to host memory. -/
def State.hostPut (s : State) (a : Nat) (l : List Byte) : State :=
  { s with hostMem := Tab.setList zeroByte s.hostMem a l }

/-- What a job that runs writes and its status (R391, R395, R396): plaintext, ciphertext or tag, and its context. -/
def State.jobRun (s : State) (c : Nat) (j : JobIn) (x : JobCtx) : Nat × State :=
  let r := jobWork j x
  let s2 := s.countInvoc c j
  let s3 := s2.hostPut (j.addr 4) r.out
  if !j.last then
    let (pad, s4) := s3.freeBytes 128
    (0, s4.hostPut (j.addr 8) (r.ctx.saved (s.devKeyOf c) j.op j.wrap pad))
  else if j.op = 5 ∨ j.op = 7 ∨ j.op = 9 then (0, s3.hostPut (j.addr 12) (r.tag.take j.tagLen))
  else if j.op = 6 ∨ j.op = 8 ∨ j.op = 10 then
    (if r.tag.take j.tagLen = slice j.tag 0 j.tagLen then 0 else 1, s3)
  else (0, s3)

/-- Run a job: its status, with its effects (R395). NOP completes OK (R389). -/
def State.jobStatus (s : State) (c : Nat) (j : JobIn) : Nat × State :=
  if j.bad then (7, s)
  else if j.op = 11 then (0, s)
  else
    let (sts, x) := s.jobStart c j
    match sts with
    | [] => s.jobRun c j x
    | [e] => (e, s)
    | e :: rest => let (v, s1) := s.free 8; (((e :: rest)[v % (rest.length + 1)]?).getD e, s1)

/-- Entries in a job queue (R399): 2^SIZE_LOG2. -/
def ringSize (n : Nat) : Nat := 2 ^ max 4 (min 12 n)

/-- The address of the descriptor at JQ_HEAD. -/
def State.jobAddr (s : State) (c q : Nat) : Nat :=
  let p := pgCiph c
  (s.rd p (Reg.CIPH.JQ_BASE_LO q).off).toNat + 2 ^ 32 * (s.rd p (Reg.CIPH.JQ_BASE_HI q).off).toNat +
    64 * (s.fld p (Reg.CIPH.JQ_HEAD q) % ringSize (s.fld p (Reg.CIPH.JQ_CFG_SIZE_LOG2 q)))

/-- The endpoint can reach host memory (R510, R524): Bus Master Enable, D0, and its supplies. -/
def State.dmaUp (s : State) : Bool := s.pcie.bme && !s.pcie.d3 && !s.hostGone

/-- A job of the queue can run: its cluster and the PCIe path serve it, and a descriptor waits (R387, R395). -/
def State.jobReady (s : State) (c q : Nat) : Bool :=
  let p := pgCiph c
  s.domOn (domCipher c) && s.hubUp (c / 2) && s.dmaUp && s.flag p (Reg.CIPH.JQ_CFG_EN q) && !s.flag p (Reg.CIPH.JQ_STAT_STOPPED q) &&
    s.fld p (Reg.CIPH.JQ_HEAD q) != s.fld p (Reg.CIPH.JQ_TAIL q)

/-- The queue whose turn it is: the first with a job that can run, round robin after the one served last (R387). -/
def State.jobTurn (s : State) (c : Nat) : Option Nat :=
  ((List.range 16).map fun k => ((s.ciphAt c).jobLast + 1 + k) % 16).find? fun q => s.jobReady c q

/-- A job completes with a status: counters, JQ_HEAD and the JOB_DONE cause (R387, R399). -/
def State.jobEnd (s : State) (c q st : Nat) : State :=
  let p := pgCiph c
  let s1 := ((s.onCiph c fun x => { x with jobLast := q }).bump p Reg.CIPH.JOBS_DONE).ifDo (decide (2 ≤ st)) (·.bump p Reg.CIPH.JOB_ERRS)
  (s1.setFld p (Reg.CIPH.JQ_HEAD q) (s.fld p (Reg.CIPH.JQ_HEAD q) + 1)).raise p (16 + q)

/-- A job's status word in its descriptor (R388); its bits [30:4] are free. -/
def State.jobWord (s : State) (c q st : Nat) : State :=
  let (v, s1) := s.free 27
  s1.hostPut (s.jobAddr c q + 4) (natLE 4 (2 ^ 31 + v * 16 + st))

/-- A job at the head of the queue whose turn it is, its descriptor naming one of the operations `ops`. -/
def runJob (ops : List Nat) (c : ClusterId) (q : Fin 16) (j : JobIn) (s : State) : State :=
  if s.jobTurn c == some q.val && ops.contains j.op then
    let (st, s1) := s.jobStatus c j
    (s1.jobWord c q st).jobEnd c q st
  else s

def jobCtr (c : ClusterId) (q : Fin 16) (j : JobIn) (s : State) : State := runJob [0] c q j s
def execJobCtr (c : ClusterId) (q : Fin 16) (j : JobIn) (s : State) : Host.Outcome State Fault Refusal := finish (jobCtr c q j s)
def jobCbcEnc (c : ClusterId) (q : Fin 16) (j : JobIn) (s : State) : State := runJob [1] c q j s
def execJobCbcEnc (c : ClusterId) (q : Fin 16) (j : JobIn) (s : State) : Host.Outcome State Fault Refusal := finish (jobCbcEnc c q j s)
def jobCbcDec (c : ClusterId) (q : Fin 16) (j : JobIn) (s : State) : State := runJob [2] c q j s
def execJobCbcDec (c : ClusterId) (q : Fin 16) (j : JobIn) (s : State) : Host.Outcome State Fault Refusal := finish (jobCbcDec c q j s)
def jobCfbEnc (c : ClusterId) (q : Fin 16) (j : JobIn) (s : State) : State := runJob [3] c q j s
def execJobCfbEnc (c : ClusterId) (q : Fin 16) (j : JobIn) (s : State) : Host.Outcome State Fault Refusal := finish (jobCfbEnc c q j s)
def jobCfbDec (c : ClusterId) (q : Fin 16) (j : JobIn) (s : State) : State := runJob [4] c q j s
def execJobCfbDec (c : ClusterId) (q : Fin 16) (j : JobIn) (s : State) : Host.Outcome State Fault Refusal := finish (jobCfbDec c q j s)
def jobGcmEnc (c : ClusterId) (q : Fin 16) (j : JobIn) (s : State) : State := runJob [5] c q j s
def execJobGcmEnc (c : ClusterId) (q : Fin 16) (j : JobIn) (s : State) : Host.Outcome State Fault Refusal := finish (jobGcmEnc c q j s)
def jobGcmDec (c : ClusterId) (q : Fin 16) (j : JobIn) (s : State) : State := runJob [6] c q j s
def execJobGcmDec (c : ClusterId) (q : Fin 16) (j : JobIn) (s : State) : Host.Outcome State Fault Refusal := finish (jobGcmDec c q j s)
def jobGmacGen (c : ClusterId) (q : Fin 16) (j : JobIn) (s : State) : State := runJob [7] c q j s
def execJobGmacGen (c : ClusterId) (q : Fin 16) (j : JobIn) (s : State) : Host.Outcome State Fault Refusal := finish (jobGmacGen c q j s)
def jobGmacVer (c : ClusterId) (q : Fin 16) (j : JobIn) (s : State) : State := runJob [8] c q j s
def execJobGmacVer (c : ClusterId) (q : Fin 16) (j : JobIn) (s : State) : Host.Outcome State Fault Refusal := finish (jobGmacVer c q j s)
def jobCmacGen (c : ClusterId) (q : Fin 16) (j : JobIn) (s : State) : State := runJob [9] c q j s
def execJobCmacGen (c : ClusterId) (q : Fin 16) (j : JobIn) (s : State) : Host.Outcome State Fault Refusal := finish (jobCmacGen c q j s)
def jobCmacVer (c : ClusterId) (q : Fin 16) (j : JobIn) (s : State) : State := runJob [10] c q j s
def execJobCmacVer (c : ClusterId) (q : Fin 16) (j : JobIn) (s : State) : Host.Outcome State Fault Refusal := finish (jobCmacVer c q j s)
def jobNop (c : ClusterId) (q : Fin 16) (j : JobIn) (s : State) : State := runJob [11] c q j s
def execJobNop (c : ClusterId) (q : Fin 16) (j : JobIn) (s : State) : Host.Outcome State Fault Refusal := finish (jobNop c q j s)
def jobBadOp (c : ClusterId) (q : Fin 16) (j : JobIn) (s : State) : State := runJob [12, 13, 14, 15] c q j s
def execJobBadOp (c : ClusterId) (q : Fin 16) (j : JobIn) (s : State) : Host.Outcome State Fault Refusal := finish (jobBadOp c q j s)

/-- JOB_DMA_ERROR: a PCIe access of the job at JQ_HEAD failed; `desc` is what the cluster had read of its descriptor and
context, and `wrote` says that the status word still reached host memory (R395). -/
def jobDmaError (c : ClusterId) (q : Fin 16) (desc : Option JobIn) (wrote : Bool) (s : State) : State :=
  if s.jobTurn c = some q.val then
    let p := pgCiph c
    let h := s.fld p (Reg.CIPH.JQ_HEAD q)
    let s1 := match desc with
      | some j => if j.bad || (s.jobStart c j).1 != [] then s else s.countInvoc c j
      | none => s
    let s2 := ((s1.ifDo wrote fun s => s.jobWord c q 8).jobEnd c q 8).setFld p (Reg.CIPH.JQ_STAT_STOPPED q) 1
    (s2.setFld p (Reg.CIPH.JQ_STAT_STOP_IDX q) h).raise p 5
  else s
def execJobDmaError (c : ClusterId) (q : Fin 16) (desc : Option JobIn) (wrote : Bool) (s : State) :
    Host.Outcome State Fault Refusal := finish (jobDmaError c q desc wrote s)

/-! ### The queues' registers (R399) and the known-answer test (R398) -/

/-- A write of JQ_TAIL (R387). -/
def State.jqTail (s : State) (c q : Nat) (v : W32) : State := s.plainWrite (pgCiph c) (Reg.CIPH.JQ_TAIL q).off 0 v

/-- JQ_TAIL_WRITE. -/
def jqTailWrite (c : ClusterId) (q : Fin 16) (v : W32) (s : State) : State :=
  s.wordWrite (pgCiph c) (Reg.CIPH.JQ_TAIL q).off v (·.jqTail c q v)
def execJqTailWrite (c : ClusterId) (q : Fin 16) (v : W32) (s : State) : Host.Outcome State Fault Refusal :=
  finish (jqTailWrite c q v s)

/-- A write of JQ_CFG: EN from 0 to 1 zeroes JQ_HEAD and JQ_TAIL and restarts the queue (R395). -/
def State.jqCfg (s : State) (c q : Nat) (v : W32) : State :=
  let p := pgCiph c
  let was := s.flag p (Reg.CIPH.JQ_CFG_EN q)
  let s1 := s.plainWrite p (Reg.CIPH.JQ_CFG q).off 0 v
  if !was && bit v.toNat 31 then
    ((s1.setFld p (Reg.CIPH.JQ_HEAD q) 0).setFld p (Reg.CIPH.JQ_TAIL q) 0).setFld p (Reg.CIPH.JQ_STAT_STOPPED q) 0
  else s1

/-- JQ_ENABLE: the host writes JQ_CFG with EN = 1. -/
def jqEnable (c : ClusterId) (q : Fin 16) (size : Fin 16) (s : State) : State :=
  let v := BitVec.ofNat 32 (2 ^ 31 + size)
  s.wordWrite (pgCiph c) (Reg.CIPH.JQ_CFG q).off v (·.jqCfg c q v)
def execJqEnable (c : ClusterId) (q : Fin 16) (size : Fin 16) (s : State) : Host.Outcome State Fault Refusal :=
  finish (jqEnable c q size s)

/-- A write of CCTRL: KAT starts, unless one runs. -/
def State.cctrl (s : State) (c : Nat) (v : W32) : State :=
  if bit v.toNat 31 then s.setFld (pgCiph c) Reg.CIPH.CSTAT_KAT_BUSY 1 else s

/-- KAT_START. -/
def katStart (c : ClusterId) (s : State) : State :=
  s.wordWrite (pgCiph c) Reg.CIPH.CCTRL.off 0x80000000 (·.cctrl c 0x80000000)
def execKatStart (c : ClusterId) (s : State) : Host.Outcome State Fault Refusal := finish (katStart c s)

/-- KAT_DONE: the test ends with the failing engines `mask`. -/
def katDone (c : ClusterId) (mask : BitVec 16) (s : State) : State :=
  let p := pgCiph c
  if s.flag p Reg.CIPH.CSTAT_KAT_BUSY then
    let s1 := ((s.setFld p Reg.CIPH.CSTAT_KAT_BUSY 0).setFld p Reg.CIPH.CSTAT_KAT_FAILMASK mask.toNat).raise p 3
    s1.ifDo (mask != 0) (·.raise p 4)
  else s
def execKatDone (c : ClusterId) (mask : BitVec 16) (s : State) : Host.Outcome State Fault Refusal := finish (katDone c mask s)

end Sys2Proof.Machine
end

