-- ==== Sys2Proof/Machine/Marver.lean ====
section
/-! DEFINITION. The marver pool of a bench (R109 to R134): dispatch, execution, control-store errors, aborts, the end of a
routine, and the scrubber. -/

namespace Sys2Proof.Machine

/-- Count in a bench's MARVER page. -/
def State.marCount (s : State) (b c : Nat) (n : Nat := 1) : State := s.addCtr (pgMarver b) c n

def MarverSt.engine (m : MarverSt) (e : Nat) : Option Routine := Tab.get (fun _ => none) m.engines e
def MarverSt.setEngine (m : MarverSt) (e : Nat) (r : Option Routine) : MarverSt :=
  { m with engines := Tab.set (fun _ => none) m.engines e r }

/-- The bench runs routines: its image is loaded and held, its team lives and its ingress domain is ON (R109, R144). -/
def State.marverRuns (s : State) (b : Nat) : Bool :=
  s.flag (pgMarver b) Reg.MARVER.IMGSTAT_LOADED && !s.boot.imgLost.contains b && s.domOn (domIngress b) &&
  !(s.teamAt (benchTeam b)).failed

/-! ### HEADER_DISPATCH (R50, R110, R120, R164) -/

/-- A local port's ENTRY_SEL. -/
def State.entrySel (s : State) (b i : Nat) : Nat :=
  bits (s.fld (pgMarver b) (Reg.MARVER.ENTRY_SEL_SEL (i / 16))) (2 * (i % 16) + 1) (2 * (i % 16))

/-- The entry address of a header (R110). -/
def State.entryOf (s : State) (b : Nat) (h : Header) : Nat :=
  if h.punty then s.fld (pgMarver b) Reg.MARVER.ENTRY_PUNTY
  else if h.cpu.isSome then s.fld (pgMarver b) Reg.MARVER.ENTRY_CPU
  else s.fld (pgMarver b) (Reg.MARVER.ENTRY (s.entrySel b h.port))

/-- The header of the oldest admission: the smallest admission number (R50). -/
def oldestHeader : List Header → Option Header
  | [] => none
  | h :: t => match oldestHeader t with
    | some g => some (if g.no < h.no then g else h)
    | none => some h

/-- The header that dispatch takes next and the pool without it (R50): punty headers while fewer than 33 have gone in the
tick, then port headers, then CPU-port headers, each oldest first. -/
def MarverSt.take (m : MarverSt) (punted : Nat) : Option (Header × MarverSt) :=
  match m.punty, decide (punted < 33) with
  | h :: rest, true => some (h, { m with punty := rest })
  | _, _ =>
    match (oldestHeader (m.fifo.filter fun h => h.cpu.isNone)).or (oldestHeader m.fifo) with
    | some h => some (h, { m with fifo := m.fifo.erase h })
    | none => none

/-- A header as its routine starts: its length when its frame has wholly arrived, whether its tag is pending (R120), and
its epoch when this is its first pass (R164). -/
def State.readyHeader (s : State) (b : Nat) (h : Header) : Header :=
  let v := (s.descAt b h.desc).getD {}
  { h with
    len := if v.done then v.len else h.len
    rxsc := if bit h.rxsc 15 then setBits h.rxsc 14 14 (b2n v.tagWait) else h.rxsc
    epoch := if h.punty then h.epoch else (s.tabsAt b).active }

/-- HEADER_DISPATCH: the next header goes to the lowest-numbered idle engine. -/
def headerDispatch (b : BenchId) (s : State) : State :=
  let k := s.tickAt b
  match findFrom (fun e => ((s.marAt b).engine e).isNone) 0 24, (s.marAt b).take k.punted with
  | some e, some (h0, m) =>
    if !s.marverRuns b || decide (1024 ≤ k.dispatched) then s
    else
      let h := s.readyHeader b h0
      let pc := s.entryOf b h
      let base := s.image.graphIntact && [0, 4, 5].any fun i => baseEntryAt i == pc
      let s1 := (s.putMar b (m.setEngine e (some (Routine.start h pc base)))).putTick b
        { k with dispatched := k.dispatched + 1, punted := k.punted + b2n h.punty }
      let s2 := s1.onDesc b h.desc fun v => { v with epoch := h.epoch, passes := h.passes }
      if h.punty then s2
      else s2.setFld (pgCls b) (Reg.CLS.PDRAIN h.epoch) (s2.fld (pgCls b) (Reg.CLS.PDRAIN h.epoch) + 1)
  | _, _ => s
def execHeaderDispatch (b : BenchId) (s : State) : Host.Outcome State Fault Refusal := finish (headerDispatch b s)

/-! ### Aborts (R130 to R133) -/

/-- The epoch of a frame drains by one (R166). -/
def State.drained (s : State) (b e : Nat) : State :=
  s.setFld (pgCls b) (Reg.CLS.PDRAIN e) (s.fld (pgCls b) (Reg.CLS.PDRAIN e) - 1)

/-- The first abort since ABORT_LOG0.VALID was cleared is logged (R133). -/
def State.abortLog (s : State) (b e : Nat) (r : Routine) (cause pc : Nat) : State :=
  if s.flag (pgMarver b) Reg.MARVER.ABORT_LOG0_VALID then s
  else
    (s.wr (pgMarver b) Reg.MARVER.ABORT_LOG0.off (BitVec.ofNat 32
      (2 ^ 31 + cause * 2 ^ 29 + e * 2 ^ 24 + bits (r.reg 14) 15 10 * 2 ^ 16 + b2n r.h.punty * 2 ^ 15 +
        pc % 16384))).wr (pgMarver b) Reg.MARVER.ABORT_LOG1.off (BitVec.ofNat 32 r.h.tick)

/-- A routine aborts at an address for a cause of ABORT_LOG0 (R133): its frame goes by the cullet path, and its header
is complete. -/
def State.abort (s : State) (b e : Nat) (r : Routine) (cause pc : Nat) : State :=
  let (c, i) := match cause with
    | 2 => (Reg.MARVER.CS_UE_ABORT, 1)
    | 3 => (Reg.MARVER.CS_END_ABORT, 2)
    | _ => (Reg.MARVER.WD_ABORT, 0)
  let s1 := (s.onMar b fun m => m.setEngine e none).abortLog b e r cause pc
  let s2 := (((s1.marCount b c).marCount b Reg.MARVER.CLEN_STRETCH r.stretch).raise (pgMarver b) i).drained b r.h.epoch
  (s2.cullet b r.h.desc 71).bump (pgBuf b) Reg.BUF.CULLET_ABORT

/-- The watchdog's cause when a routine has run out (R130): 1 past its 640th clock, 0 at a 257th word. -/
def Routine.expired (r : Routine) : Option Nat :=
  if r.ended then none
  else if 640 ≤ r.clocks then some 1
  else if 256 ≤ r.words then some 0
  else none

/-- WATCHDOG_ABORT: a routine that would begin a 257th word, or that has not ended by its 640th clock, aborts. -/
def watchdogAbort (b : BenchId) (e : Fin 24) (s : State) : State :=
  match (s.marAt b).engine e with
  | none => s
  | some r =>
    match r.expired with
    | some c => s.abort b e r c r.pc
    | none => s
def execWatchdogAbort (b : BenchId) (e : Fin 24) (s : State) : Host.Outcome State Fault Refusal :=
  finish (watchdogAbort b e s)

/-! ### Control-store reads (R131) -/

/-- The copy an engine fetches from (R111). -/
def homeCopy (e : Nat) : Nat := if e < 12 then 0 else 1

/-- What a read of a word finds, one already bad in both copies staying so (R134). -/
def State.csFind (s : State) (b addr : Nat) (f : CsFind) : CsFind :=
  if (s.marAt b).bad.contains (addr, 0) ∧ (s.marAt b).bad.contains (addr, 1) then .both else f

/-- A read of a word of the control store, dispatch table or PMT from one copy: corrections and repairs counted, that copy
rewritten from the other, a word bad in both copies remembered. -/
def State.csRead (s : State) (b addr copy : Nat) (f : CsFind) : State :=
  match f with
  | .clean => s
  | .ce => s.marCount b Reg.MARVER.CS_CE
  | .ue => ((s.onMar b fun m => { m with bad := m.bad.filter fun e => e != (addr, copy) }).marCount b Reg.MARVER.CS_REPAIR).raise
      (pgMarver b) 3
  | .both => s.onMar b fun m => { m with bad := (m.bad ++ [(addr, 0), (addr, 1)]).eraseDups }

/-- What the reads of some words find: each word, and what is found of it. -/
def State.csFinds (s : State) (b : Nat) (addrs : List Nat) (finds : List (Fin 16704 × CsFind)) : List (Nat × CsFind) :=
  addrs.map fun a => (a, s.csFind b a (((finds.find? fun f => f.1.val == a).map Prod.snd).getD .clean))

/-! ### MICROWORD_EXECUTE (R116 to R132) -/

/-- Count a parse exception (R128). -/
def State.pexc (s : State) (b e : Nat) : State := s.marCount b (Reg.MARVER.PEXC e)

/-- One word of a routine, read from its home copy or the other. A word that is still running as the 640th clock closes
leaves the routine at its address, not ended (R130). -/
def State.runWord (s : State) (b e : Nat) (r : Routine) (other : Bool) : State :=
  let w := s.image.word r.pc
  let s2 := s.ifDo (mw w 180 180 == 1) fun s => s.pexc b (mw w 179 176)
  let clocks := r.clocks + wordClocks w other
  if 640 < clocks ∨ (clocks = 640 ∧ mw w 181 181 = 0) then
    s2.onMar b fun m => m.setEngine e (some { r with words := r.words + 1, clocks := clocks, stretch := r.stretch + wordStretch w })
  else match stepWord s.image w other r with
    | some r' => s2.onMar b fun m => m.setEngine e (some r')
    | none => s2.abort b e { r with stretch := r.stretch + wordStretch w } 3 r.pc

/-- A routine of the shipped graph runs whole: its words and clocks are free values within the limits of R130. -/
def State.runBase (s : State) (b e : Nat) (r : Routine) : State :=
  let (r1, exc) := baseParse r
  let (x, s1) := s.free 8
  let (y, s2) := s1.free 10
  let words := x + 1
  let r2 := { r1 with words := words, clocks := words + y % (641 - words) }
  (exc.foldl (fun s k => s.pexc b k) s2).onMar b fun m => m.setEngine e (some r2)

/-- The address that the abort for a bad word logs (R133, R145): the word's, where it is a control-store word; else that of the
word that needed the entry. -/
def Routine.badPc (r : Routine) (found : List (Nat × CsFind)) : Nat :=
  if r.base then ((found.find? fun x => x.2 == .both && decide (x.1 < 16384)).map Prod.fst).getD r.pc else r.pc

/-- MICROWORD_EXECUTE: an engine executes one word, read with its dispatch entry and PMT entries from the engine's home copies
(R111); `finds` is what the reads find other than a clean word. A word bad in both copies aborts the routine (R131) before any
of the word's work, and a dispatch or PMT entry taken from the other copy costs no clocks (log 270). A routine of the shipped
graph, whose words the spec does not give, runs as a whole, its reads those that `finds` lists; one aborted for a bad word
counts no parse exception (log 271). -/
def microwordExecute (b : BenchId) (e : Fin 24) (finds : List (Fin 16704 × CsFind)) (s : State) : State :=
  match (s.marAt b).engine e with
  | none => s
  | some r =>
    if r.ended || r.expired.isSome then s
    else
      let addrs := if r.base then (r.pc :: finds.map fun f => f.1.val).eraseDups else wordReads s.image r.pc
      let found := s.csFinds b addrs finds
      let s1 := s.each found fun s x => s.csRead b x.1 (homeCopy e) x.2
      if found.any fun x => x.2 == .both then s1.abort b e r 2 (r.badPc found)
      else if r.base then s1.runBase b e r
      else s1.runWord b e r (found.contains (r.pc, .ue))
def execMicrowordExecute (b : BenchId) (e : Fin 24) (finds : List (Fin 16704 × CsFind)) (s : State) :
    Host.Outcome State Fault Refusal := finish (microwordExecute b e finds s)

/-! ### ROUTINE_END (R112, R129) -/

/-- ROUTINE_END: a routine that has reached END leaves its engine idle and holds its results. ROUTINES, ENGINE_CLOCKS and the
other counts of R146 rise here and not as the results are released (log 241). -/
def routineEnd (b : BenchId) (e : Fin 24) (s : State) : State :=
  match (s.marAt b).engine e with
  | none => s
  | some r =>
    if !r.ended then s
    else
      let s1 := s.onMar b fun m => { m.setEngine e none with results := m.results ++ [r] }
      let s2 := ((s1.marCount b Reg.MARVER.ROUTINES).marCount b Reg.MARVER.ENGINE_CLOCKS r.clocks).marCount b
        Reg.MARVER.CLEN_STRETCH r.stretch
      let s3 := s2.ifDo r.keyOver fun s => s.marCount b Reg.MARVER.KEY_OVF
      let s4 := s3.ifDo (r.cqOvf != 0) fun s => (s.marCount b Reg.MARVER.CQ_OVF r.cqOvf).raise (pgMarver b) 5
      let bad := (r.cq.filter fun q => decide (3 < q.1)).length
      let s5 := s4.ifDo (bad != 0) fun s => (s.marCount b Reg.MARVER.CQ_BAD bad).raise (pgMarver b) 5
      s5.ifDo (r.editOvf != 0) fun s => (s.marCount b Reg.MARVER.EDIT_OVF r.editOvf).raise (pgMarver b) 6
def execRoutineEnd (b : BenchId) (e : Fin 24) (s : State) : Host.Outcome State Fault Refusal := finish (routineEnd b e s)

/-! ### SCRUB_READ (R134) -/

/-- Words of a copy: the control store, the dispatch table and the PMT. -/
def csWords : Nat := 16384 + 256 + 64

/-- SCRUB_READ: the scrubber reads its next word copy, alternating copies. -/
def scrubRead (b : BenchId) (find : CsFind) (s : State) : State :=
  if !s.flag (pgMarver b) Reg.MARVER.SCRUB_EN || !s.marverRuns b then s
  else
    let n := (s.marAt b).scrub
    let f := s.csFind b (n / 2) find
    let s1 := (s.csRead b (n / 2) (n % 2) f).onMar b fun m => { m with scrub := (n + 1) % (2 * csWords) }
    if f = .both then s1.raise (pgMarver b) 4 else s1
def execScrubRead (b : BenchId) (find : CsFind) (s : State) : Host.Outcome State Fault Refusal := finish (scrubRead b find s)

end Sys2Proof.Machine
end

