-- ==== Sys2Proof/Machine/Stage5.lean ====
section
/-! DEFINITION. Stage 5 (chapters 05, 06, 09, 10): the commit queue's issue, the rule lookup and its action, the punty path,
routes, spread groups, forwarding domains, streams, policing, and the hand-off. -/

namespace Sys2Proof.Machine

/-! ### Table reads (R152, R189) -/

/-- Count an error found: stream tables on the STRM page, the others on the FDB page (R224, R227). -/
def State.tblCount (s : State) (b : Nat) (r : TblRead) (ue : Bool) : State :=
  if r = .sidMac ∨ r = .sidIp ∨ r = .ctx then
    if ue then (s.bump (pgStrm b) Reg.STRM.TBL_UE).raise (pgStrm b) 3 else s.bump (pgStrm b) Reg.STRM.TBL_CE
  else
    if ue then (s.bump (pgFdb b) Reg.FDB.TBL_UE).raise (pgFdb b) 5 else s.bump (pgFdb b) Reg.FDB.TBL_CE

/-- The number a hash table has among the slots found uncorrectable. -/
def slotCode : HKind → Nat
  | .bank i => if i = 0 then 0 else 1
  | .route => 2
  | .sid => 3
  | .mac => 4

/-- A lookup in a hash table as committed in a bench: the entry and whether it stands in the stash. An uncorrectable slot
misses, and its entry is removed at the next edge. -/
def State.hashRead (s : State) (b : Nat) (k : HKind) (r : TblRead) (key : List Byte) (wide : Bool)
    (errs : List TblErr) : Option (HEntry × Bool) × State :=
  let t := (s.tabsAt b).hget k
  let sp := s.hspec b k
  let mine := errs.filter fun e => e.read == r
  let lost := (mine.filter fun e => e.ue).flatMap fun e => sp.place e.way { key := key, wide := wide }
  let s1 := s.each mine fun s e => s.tblCount b r e.ue
  let s2 := s1.onFdb b fun f => { f with
    badSlots := f.badSlots ++ ((lost.filterMap t.slot).map fun e => (slotCode k, e.key)).eraseDups }
  match t.find sp key wide with
  | some (.way l, e) => (if l.any lost.contains then none else some (e, false), s2)
  | some (.stash _, e) => (some (e, true), s2)
  | none => (none, s2)

/-- A read of a direct table entry: none where it is uncorrectable and the frame is discarded. -/
def State.directRead (s : State) (b : Nat) (k : DKind) (r : TblRead) (i : Nat) (errs : List TblErr) :
    Option Nat × State :=
  let mine := errs.filter fun e => e.read == r
  let s1 := s.each mine fun s e => s.tblCount b r e.ue
  (if mine.any fun e => e.ue then none else some ((s.tabsAt b).dget k i), s1)

/-- Whether a read of a stateful entry (filter, meter) finds it uncorrectable, with the error counted. -/
def State.stateRead (s : State) (b : Nat) (r : TblRead) (errs : List TblErr) : Bool × State :=
  let mine := errs.filter fun e => e.read == r
  (mine.any fun e => e.ue, s.each mine fun s e => s.tblCount b r e.ue)

/-! ### Fields of a header at stage 5 -/

def Header.m (h : Header) (k : Nat) : Nat := (h.md[k]?).getD 0
def Header.l (h : Header) (k : Nat) : Nat := (h.lo[k]?).getD 0
/-- A bit of m0 (R135). -/
def Header.is (h : Header) (i : Nat) : Bool := bit (h.m 0) i
def Header.v4 (h : Header) : Bool := h.is 4
/-- A frame that a patch gives both marks counts as IPv4 (R175; DESIGN CHOICE, log 276). -/
def Header.v6 (h : Header) : Bool := !h.is 4 && h.is 5
/-- Window bytes. -/
def Header.bytes (h : Header) (o n : Nat) : List Byte := (List.range n).map fun k => BitVec.ofNat 8 (h.byte (o + k))
def Header.dmac (h : Header) : Nat := beNat (h.bytes 0 6)
def Header.smac (h : Header) : Nat := beNat (h.bytes 6 6)
/-- The local port whose settings a frame uses: its ingress port's, or SRC_LPORT's (R120, R528). -/
def Header.lport (h : Header) : Nat :=
  match h.cpu with
  | some c => c.lport
  | none => h.port
/-- The ingress port of a frame; 0x1FF and above for one from the CPU port (R531). -/
def Header.ingress (h : Header) (b : Nat) : Nat := if h.cpu.isSome then 512 else localPort b h.port

/-- Append an edit entry. -/
def Header.edit (h : Header) (e : Nat) : Header := { h with edits := h.edits ++ [e] }

/-- The domain ID that a bench forms of an m8 value (R190). -/
def State.domainOf (s : State) (b lport v : Nat) : Nat :=
  if s.flag (pgFdb b) (Reg.FDB.PORTCFG_DOM_MODE lport) then v
  else
    s.fld (pgFdb b) (Reg.FDB.PORTCFG_VSPACE lport) * 4096 +
      (if v % 4096 = 0 then s.fld (pgFdb b) (Reg.FDB.PORTCFG_PVID lport) else v % 4096)

/-! ### The commit queue (R112, R127, R197) -/

/-- One commit-queue entry issues. -/
def State.cqIssueOne (s : State) (b : Nat) (h : Header) (q : Nat × Nat × Nat) : Header × State :=
  match q.1 with
  | 0 => (h, s.addCtr (pgMarver b) Reg.MARVER.UCNT 1 q.2.1)
  | 1 => (h, s.addCtr (pgMarver b) Reg.MARVER.UCNT q.2.2 q.2.1)
  | 2 =>
    let dom := s.domainOf b h.lport q.2.2
    let bad := ((s.descAt b h.desc).map fun d => d.err).getD false
    ({ h with learn := some dom }, s.onFdb b fun f => { f with
      reqs := f.reqs ++ [{ dom := dom, addr := h.smac, port := localPort b h.lport, bench := b, desc := h.desc, bad := bad }] })
  | 3 => ({ h with meterCq := some (q.2.2 % 64 * 4096 + q.2.1) }, s)
  | _ => (h, s)

/-- A routine's commit queue issues in order. -/
def State.cqIssue (s : State) (b : Nat) (h : Header) (cq : List (Nat × Nat × Nat)) : Header × State :=
  cq.foldl (fun x q => x.2.cqIssueOne b x.1 q) (h, s)

/-! ### The rule lookup (R158, R171) -/

/-- The action of a pass (R158): the matching entry's, or a miss action; none where its profile is uncorrectable. -/
def State.ruleAction (s : State) (b : Nat) (r : Routine) (errs : List TblErr) : Option Nat × State :=
  let c (s : State) (k : Nat) : State := s.bump (pgCls b) k
  match r.closed, r.keyOver with
  | some p, false =>
    let (e, s1) := s.directRead b .prof .profile p errs
    match e with
    | none => (none, s1)
    | some e =>
      if 56 < r.key.length then (some e, c s1 Reg.CLS.KEY_LONG)
      else if p = 0 ∨ !bit e 127 then (some e, s1)
      else
        let (hit, s2) := s1.hashRead b (.bank r.h.epoch) .rule (ruleKey p r.key) (decide (24 < r.key.length)) errs
        let s3 := c s2 Reg.CLS.LOOKUPS
        match hit with
        | some (x, stash) =>
          (some x.data, (c s3 Reg.CLS.HITS).ifDo stash fun s => c s Reg.CLS.STASH_HITS)
        | none => (some e, c s3 Reg.CLS.MISSES)
  | _, _ =>
    let (e, s1) := s.directRead b .prof .profile 0 errs
    (e, c s1 Reg.CLS.NO_KEY)

/-- The held fields after an action (R171, R161). -/
def HeldRule.merge (h : HeldRule) (a : Nat) : HeldRule :=
  { mirror := if bit a 83 then some (bits a 82 80) else h.mirror
    meter := if bit a 79 then some (bits a 78 61) else h.meter
    cls := if bit a 60 then some (bits a 59 57) else h.cls
    colour := if bit a 56 then some (bits a 55 54 % 3) else h.colour
    stream := if bit a 53 then some (bits a 52 33) else h.stream
    sc := if bit a 32 then some (bits a 31 20) else h.sc
    ets := h.ets || bit a 19 }

/-- Where a frame goes: ports, a CPU ring with its reason, the next hop of SET_DMAC_NH entries without one, the class of an
indirection entry, and whether step 3 of R195 sent it. No port and no ring: the frame is discarded. -/
structure Dest where
  ports : List Nat := []
  ring : Option (Nat × Nat) := none
  nextHop : Option Nat := none
  cls : Option Nat := none
  stream : Bool := false
  deriving DecidableEq, Repr

/-! ### Streams (R209 to R214) -/

/-- The key of a MAC stream identification (R209, R210). -/
def Header.sidMacKey (h : Header) (t : Nat) : List Byte :=
  natBE 1 t ++ (if t = 2 then h.bytes 6 6 else h.bytes 0 6) ++ natBE 2 (h.m 1 % 4096)

/-- The key of an IP stream identification. -/
def Header.sidIpKey (h : Header) : List Byte :=
  let a := h.l 3
  let ports := if h.is 6 || h.is 7 then natBE 2 (h.m 5) ++ natBE 2 (h.m 6) else natBE 4 0
  let dscp := if h.v4 then h.byte (a + 1) / 4 else (h.byte a * 256 + h.byte (a + 1)) / 16 % 256 / 4
  natBE 1 (if h.v4 then 4 else 5) ++ h.bytes 0 6 ++ natBE 2 (h.m 1 % 4096) ++
    (if h.v4 then h.bytes (a + 12) 8 else h.bytes (a + 8) 32) ++ natBE 1 dscp ++ natBE 1 (h.m 4) ++ ports

/-- Stream identification (R211): the frame's stream handle. Where both lookups hit, the winner's counts alone (DESIGN CHOICE, log
277). -/
def State.identify (s : State) (b : Nat) (h : Header) (errs : List TblErr) : Option Nat × State :=
  let c (s : State) (k : Nat) : State := s.bump (pgStrm b) k
  let t := s.fld (pgStrm b) (Reg.STRM.SIDCFG_SID_MAC h.lport)
  let ip := s.flag (pgStrm b) (Reg.STRM.SIDCFG_SID_IP h.lport) && (h.v4 || h.v6)
  let (mh, s1) := if t = 0 then (none, s) else s.hashRead b .sid .sidMac (h.sidMacKey t) false errs
  let (ih, s2) := if ip then s1.hashRead b .sid .sidIp h.sidIpKey h.v6 errs else (none, s1)
  let s3 := if t = 0 ∧ !ip then s2 else c s2 Reg.STRM.SID_LOOKUPS
  let (found, s4) := match ih, mh with
    | some (e, _), _ => (some (e.data % 2 ^ 20), c s3 Reg.STRM.SID_IP_HITS)
    | none, some (e, _) => (some (e.data % 2 ^ 20), c s3 Reg.STRM.SID_MAC_HITS)
    | none, none => (none, if t = 0 ∧ !ip then s3 else c s3 Reg.STRM.SID_MISS)
  match h.held.stream with
  | some v => (some v, c s4 Reg.STRM.RULE_HANDLE)
  | none => (found, s4)

/-- The stream context of a handle (R213, R214): none without a valid one. The first part says that the entry is
uncorrectable. -/
def State.context (s : State) (b : Nat) (handle : Option Nat) (errs : List TblErr) : Bool × Option Nat × State :=
  match handle with
  | none => (false, none, s)
  | some i =>
    let (e, s1) := s.directRead b .ctx .ctx i errs
    match e with
    | none => (true, none, s1)
    | some e => if bit e 127 then (false, some e, s1) else (false, none, s1.bump (pgStrm b) Reg.STRM.CTX_INVALID)

/-- FRER_FN of a context (R213). -/
def ctxFn (e : Nat) : Nat := if 3 < bits e 126 124 then 0 else bits e 126 124

/-! ### Flooding and the MAC table (R191 to R195) -/

/-- The port mask of a flood group, as the bench has committed it (R192). -/
def State.floodMask (s : State) (b g : Nat) : Nat :=
  let q (i : Nat) : Nat := (s.tabsAt b).dget .flood (4 * g + i)
  q 0 + q 1 * 2 ^ 128 + q 2 * 2 ^ 256 + q 3 * 2 ^ 384

/-- The ports of a flood group. -/
def maskPorts (m : Nat) : List Nat := (List.range 512).filter fun p => Nat.testBit m p

/-- A flood: every port of the group but the ingress port, counted once (R195 step 6). -/
def State.flood (s : State) (b g ingress : Nat) (errs : List TblErr) : Option (List Nat) × State :=
  let (ue, s1) := s.stateRead b .flood errs
  if ue then (none, s1)
  else (some ((maskPorts (s1.floodMask b g)).filter fun p => p != ingress), s1.bump (pgFdb b) Reg.FDB.FLOODS)

/-- A miss or broadcast decided by a field of the domain (R191). -/
def State.unknown (s : State) (b v act ingress : Nat) (errs : List TblErr) : Dest × State :=
  let ring := (bits v 55 52, 2)
  match act with
  | 1 => ({}, s)
  | 2 => ({ ring := some ring }, s)
  | _ =>
    match s.flood b (bits v 51 40) ingress errs with
    | (some ps, s1) => ({ ports := ps, ring := if act = 3 then some ring else none }, s1)
    | (none, s1) => ({}, s1)

/-- The MAC lookup and what it decides (R195 steps 4 to 6). -/
def State.macForward (s : State) (b : Nat) (h : Header) (dom v : Nat) (errs : List TblErr) : Dest × State :=
  let c (s : State) (k : Nat) : State := s.bump (pgFdb b) k
  let ing := h.ingress b
  let (hit, s1) := (c s Reg.FDB.DA_LOOKUPS).hashRead b .mac .mac (natBE 2 dom ++ natBE 6 h.dmac) false errs
  match hit with
  | some (e, _) =>
    let s2 := c s1 Reg.FDB.DA_HITS
    let s3 := s2.ifDo (s2.flag (pgFdb b) Reg.FDB.LCFG_DST_HIT) fun s =>
      s.onFdb b fun f => { f with hits := f.hits ++ [(dom, h.dmac)] }
    match bits e.data 29 28 with
    | 0 => if bits e.data 8 0 = ing then ({}, c s3 Reg.FDB.SAME_PORT) else ({ ports := [bits e.data 8 0] }, s3)
    | 1 => let (ps, s4) := s3.flood b (bits e.data 11 0) ing errs; ({ ports := ps.getD [] }, s4)
    | 2 => ({ ring := some (bits e.data 3 0, 3) }, s3)
    | _ => ({}, s3)
  | none =>
    let act := if h.dmac = 2 ^ 48 - 1 then bits v 57 56
      else if bit h.dmac 40 then bits v 59 58 else bits v 61 60
    (c s1 Reg.FDB.DA_MISS).unknown b v act ing errs

/-- FWD = NORMAL (R195). -/
def State.forwardNormal (s : State) (b : Nat) (h : Header) (ctx : Option Nat) (errs : List TblErr) : Dest × State :=
  let dom := s.domainOf b h.lport (h.m 8)
  let (e, s1) := s.directRead b .dom .dom dom errs
  match e with
  | none => ({}, s1)
  | some v =>
    if !bit v 63 then ({}, s1.bump (pgFdb b) Reg.FDB.DOMAIN_INVALID)
    else
      let (ue, s2) := if bit v 27 then s1.stateRead b .member errs else (false, s1)
      if ue then ({}, s2)
      else if bit v 27 ∧ !Nat.testBit (s2.floodMask b (bits v 39 28)) (localPort b h.lport) then
        ({}, s2.bump (pgFdb b) Reg.FDB.DOMAIN_FILTER)
      else match ctx with
        | some x =>
          if bit x 64 then
            let two := bit x 86 && decide (ctxFn x < 2)
            ({ ports := (bits x 104 96 :: if two then [bits x 95 87] else []).eraseDups, stream := true },
              s2.bump (pgStrm b) Reg.STRM.STREAM_EGRESS)
          else s2.macForward b h dom v errs
        | none => s2.macForward b h dom v errs

/-! ### Load spreading (R178 to R180) -/

/-- The Toeplitz hash: the 32-bit window of the key at each set bit of the input. -/
def toeplitz (key : List Byte) (input : List Byte) : Nat :=
  let k := beNat key
  let n := 8 * key.length
  let v := beNat input
  let len := 8 * input.length
  (List.range len).foldl (fun a i =>
    if Nat.testBit v (len - 1 - i) then a ^^^ (k >>> (n - 32 - i)) % 2 ^ 32 else a) 0

/-- The hash input of a frame (R179). -/
def Header.hashInput (h : Header) (b fields : Nat) (stream : Option Nat) : List Byte :=
  let a := h.l 3
  let ip := h.v4 || h.v6
  let f (i : Nat) (c : Bool) (l : List Byte) : List Byte := if bit fields i && c then l else []
  f 0 true (natBE 2 (if h.cpu.isSome then 0x1FF else localPort b h.port)) ++ f 1 true (h.bytes 0 6) ++
  f 2 true (h.bytes 6 6) ++ f 3 (h.is 0 || h.is 1) (natBE 2 (h.m 1 % 4096)) ++ f 4 true (natBE 2 (h.m 3)) ++
  f 5 ip (if h.v4 then h.bytes (a + 12) 4 else h.bytes (a + 8) 16) ++
  f 6 ip (if h.v4 then h.bytes (a + 16) 4 else h.bytes (a + 24) 16) ++ f 7 ip (natBE 1 (h.m 4)) ++
  f 8 (h.is 6 || h.is 7) (natBE 2 (h.m 5)) ++ f 9 (h.is 6 || h.is 7) (natBE 2 (h.m 6)) ++
  f 10 h.v6 (natBE 3 (beNat (h.bytes (a + 1) 3) % 2 ^ 20)) ++
  f 11 stream.isSome (natBE 3 (stream.getD 0))

/-- A spread group's choice for a frame (R178, R180). -/
def State.spreadTo (s : State) (b g : Nat) (h : Header) (stream : Option Nat) (errs : List TblErr) : Dest × State :=
  let (e, s1) := s.directRead b .spread .spread g errs
  match e with
  | none => ({}, s1)
  | some v =>
    let input := h.hashInput b (bits v 11 0) stream
    let key := (List.range 17).flatMap fun k =>
      natBE 4 (s1.rd (pgCls (4 * benchTeam b)) (Reg.CLS.TKEY k).off).toNat
    let hash := match bits v 29 28 with
      | 1 => crc32 input
      | 2 => toeplitz key input
      | _ => crc32c input
    let i := (bits v 23 12 + hash % 2 ^ min 12 (bits v 27 24)) % 4096
    let (x, s2) := s1.directRead b .indir .indir i errs
    match x with
    | none => ({}, s2)
    | some x =>
      if !bit x 15 then ({}, s2.bump (pgCls b) Reg.CLS.SPREAD_INVALID)
      else ({ ports := [bits x 8 0], nextHop := some (bits x 63 16),
              cls := if bit x 14 then some (bits x 13 11) else none }, s2)

/-! ### Routing (R174 to R177) -/

/-- The route lookup of a frame: the hit of the longest PLEN, the lower class first. -/
def State.routeFind (s : State) (b : Nat) (h : Header) (errs : List TblErr) : Option Nat × State :=
  let rt := (s.tabsAt b).rtclass
  let probe (x : Option (Nat × Nat) × State) (c : Nat) : Option (Nat × Nat) × State :=
    let w := Tab.get (fun _ => 0) rt c
    if !bit w 31 || bit w 30 != h.v6 then x
    else
      let plen := bits w 23 16
      let len := if h.v6 then 128 else 32
      let addr := beNat (h.bytes (h.l 3 + (if h.v6 then 24 else 16)) (len / 8))
      let masked := addr / 2 ^ (len - plen) * 2 ^ (len - plen)
      let key := natBE 1 (h.m 9) ++ natBE 1 c ++ natBE (len / 8) masked
      let (hit, s1) := x.2.hashRead b .route .route key false errs
      match hit, x.1 with
      | some (e, _), some (best, d) => (some (if best < plen then (plen, e.data) else (best, d)), s1)
      | some (e, _), none => (some (plen, e.data), s1)
      | none, old => (old, s1)
  let (r, s1) := (List.range 16).foldl probe (none, s)
  (r.map Prod.snd, s1)

/-- A route miss (R175 step 6). -/
def State.routeMiss (s : State) (b : Nat) : Dest × State :=
  let p := pgCls (4 * benchTeam b)
  ({ ring := if s.flag p Reg.CLS.RTCFG_MISS_ACT then some (s.fld p Reg.CLS.RTCFG_MISS_RING, 1) else none },
    s.bump (pgCls b) Reg.CLS.RT_MISS)

/-- FWD = ROUTE (R175 to R177): where the frame goes, and its header with the route's edits. -/
def State.forwardRoute (s : State) (b : Nat) (h : Header) (stream : Option Nat) (errs : List TblErr) :
    Dest × Header × State :=
  if !h.v4 && !h.v6 then let (d, s1) := s.routeMiss b; (d, h, s1)
  else
    let (r, s1) := s.routeFind b h errs
    match r with
    | none => let (d, s2) := s1.routeMiss b; (d, h, s2)
    | some r =>
      let s2 := s1.bump (pgCls b) Reg.CLS.RT_HITS
      match bits r 15 14 with
      | 2 => ({ ring := some (bits r 3 0, 1) }, h, s2)
      | 3 => ({}, h, s2.bump (pgCls b) Reg.CLS.RT_DISCARD)
      | t =>
        let (d, s3) := if t = 1 then s2.spreadTo b (bits r 7 0) h stream errs
          else ({ ports := [bits r 8 0], nextHop := some (bits r 63 16) }, s2)
        if d.ports.isEmpty then (d, h, s3)
        else if 5 < h.edits.length then ({}, h, s3.bump (pgCls b) Reg.CLS.RT_EDIT_FULL)
        else
          let h1 := (h.edit (editEntry 1 0 0 0 (d.nextHop.getD 0))).edit (editEntry 2 0 0 0)
          (d, h1.edit (editEntry 6 (h.l 3) (b2n h.v6) 0), s3)

/-! ### The decision of a last pass (R162, R170) -/

/-- Where a frame whose last pass has FWD `fwd` goes; `refused` is a ring that a refused punty request sends it to. -/
def State.destOf (s : State) (b : Nat) (h : Header) (fwd target : Nat) (stream ctx : Option Nat)
    (errs : List TblErr) : Dest × Header × State :=
  match fwd with
  | 1 => ({}, h, s.bump (pgCls b) Reg.CLS.RULE_DROPS)
  | 2 => ({ ports := [target] }, h, s)
  | 3 => let (d, s1) := s.spreadTo b (target % 256) h stream errs; ({ d with nextHop := none }, h, s1)
  | 4 => ({ ring := some (target % 16, 0) }, h, s)
  | 5 => s.forwardRoute b h stream errs
  | 6 =>
    (if s.flag (pgCls b) Reg.CLS.PCFG_EXC_ACT then { ring := some (s.fld (pgCls b) Reg.CLS.PCFG_EXC_RING, 4) } else {},
      h, s)
  | _ => let (d, s1) := s.forwardNormal b h ctx errs; (d, h, s1)

/-- The two edits of an active stream identification (R214). -/
def State.activeEdits (s : State) (b : Nat) (h : Header) (d : Dest) (ctx : Option Nat) : Dest × Header × State :=
  match ctx with
  | none => (d, h, s)
  | some x =>
    if !bit x 60 || (d.ports.isEmpty && d.ring.isNone) then (d, h, s)
    else if 6 < h.edits.length then ({}, h, s.bump (pgStrm b) Reg.STRM.ACT_EDIT_FULL)
    else
      let h1 := h.edit (editEntry 1 0 0 0 (bits x 47 0))
      let vid := bits x 59 48
      (d, h1.edit (if h.is 0 || h.is 1 then editEntry 5 (h.l 1) 1 vid else editEntry 3 (h.l 1) 0 vid), s)

/-- SET_DMAC_NH entries that a routine appended take the route's next hop; without one, the address is a free value. -/
def State.fillHops (s : State) (kept : Nat) (h : Header) (d : Dest) : Header × State :=
  let fill (x : List Nat × State) (e : Nat) : List Nat × State :=
    if editOp e = 1 ∧ x.1.length < kept then
      match d.nextHop with
      | some a => (x.1 ++ [e % 2 ^ 32 + a * 2 ^ 32], x.2)
      | none => let (a, s1) := x.2.free 48; (x.1 ++ [e % 2 ^ 32 + a * 2 ^ 32], s1)
    else (x.1 ++ [e], x.2)
  let (l, s1) := h.edits.foldl fill ([], s)
  ({ h with edits := l }, s1)

/-! ### Class, filter, meter (R302 to R314) -/

/-- What policing leaves of a frame: whether it is discarded, its class before a rule's or an indirection entry's, and its
colour. -/
structure Policed where
  drop : Bool := false
  cls : Nat := 0
  colour : Nat := 0
  deriving DecidableEq, Repr

/-- The port class of a header (R302). -/
def State.portClass (s : State) (b : Nat) (h : Header) : Nat :=
  match h.cpu with
  | some c => c.cls
  | none => bits (s.fld (pgMeter b) (Reg.METER.ICLS_PRI_MAP h.port)) (3 * h.pri + 2) (3 * h.pri)

/-- The input colour of a header (R304). -/
def State.inputColour (s : State) (b : Nat) (h : Header) : Nat :=
  match h.held.colour with
  | some c => c
  | none => if h.dei && s.flag (pgMeter b) (Reg.METER.ICLS_DEI_YELLOW h.lport) then 1 else 0

/-- The frame's length when it is known now. -/
def State.lenKnown (s : State) (b d : Nat) : Option Nat :=
  match s.descAt b d with
  | some v => if v.len = 0 then none else some v.len
  | none => none

/-- The end of reception came before metering: a charge for an unknown length is returned at once (R310). -/
def State.meterLate (s : State) (b d : Nat) : State :=
  match s.descAt b d with
  | some v => match v.meter with
    | some m => if v.done then (s.meterReturn b m none).onDesc b d fun v => { v with meter := none } else s
    | none => s
  | none => s

/-- Filtering and metering of a frame whose last pass has ended (R307, R310, R313, R314). -/
def State.police (s : State) (b : Nat) (h : Header) (ctx : Option Nat) (errs : List TblErr) : Policed × State :=
  let len := s.lenKnown b h.desc
  let cin := s.inputColour b h
  let port := s.portClass b h
  let filt := ctx.bind fun x => if bit x 83 then some (bits x 82 65) else none
  let (bad, f, s1) := match filt with
    | none => (false, ({ } : Filtered), s)
    | some i =>
      let (ue, s0) := s.stateRead b .filter errs
      if ue then (true, ({ } : Filtered), s0) else let (f, s1) := s0.filterFrame b i len; (false, f, s1)
  let s2 := if f.late then s1.onDesc b h.desc fun v => { v with filter := if v.done then none else filt } else s1
  let cls := f.ipv.getD port
  if bad || f.drop then ({ drop := true, cls := cls, colour := cin }, s2)
  else match (h.held.meter.or f.meter).or h.meterCq with
    | none => ({ cls := cls, colour := cin }, s2)
    | some m =>
      let (ue, s3) := s2.stateRead b .meter errs
      if ue then ({ drop := true, cls := cls, colour := cin }, s3)
      else
        let (r, s4) := s3.meterFrame b m (len.getD (s3.maxFrame (localPort b h.lport))) cin
        let s5 := if len.isNone then
            (s4.onDesc b h.desc fun v => { v with meter := some (m, r.tc, r.te) }).meterLate b h.desc
          else s4
        let s6 := match filt with
          | some i => if r.drop && f.applied then s5.teamChange (benchTeam b) (s5.localTick b) (.meterDrop i) else s5
          | none => s5
        ({ drop := r.drop, cls := cls, colour := r.colour }, s6)

/-! ### The hand-off (R266, R346 to R349, R294) -/

/-- One-step PTP applies to the frame (R69): an event message over IEEE 802.3 or UDP/IPv4. -/
def Header.oneStepOn (h : Header) : Bool :=
  h.is 11 && decide (h.byte (h.l 7) % 16 ≤ 3) &&
  (h.m 3 == 0x88F7 || (h.v4 && h.is 6 && h.m 6 == 319))

/-- Where a copy's IP header is. -/
def Header.ipOf (h : Header) : Copy := { ipv6 := h.v6, l3off := h.l 3, ecn := h.v4 || h.v6 }

/-- What every copy of a frame carries (R274), its port, ring and reason apart. -/
def Header.copyOf (h : Header) (b colour : Nat) (f : Frer) (n : Nat) : Copy :=
  let (etsEn, etsTag) := match h.cpu with
    | some c => if c.etsEn then (true, c.etsTag) else (h.held.ets, if h.is 11 then beNat (h.bytes (h.l 7 + 30) 2) else 0)
    | none => (h.held.ets, if h.is 11 then beNat (h.bytes (h.l 7 + 30) 2) else 0)
  { h.ipOf with
    edits := h.edits, onestep := h.oneStepOn, ptpOff := h.l 7,
    colour := colour, frerOp := frerOpOf f, seq := n, etsEn := etsEn, etsTag := etsTag,
    scEn := h.held.sc.isSome, sc := h.held.sc.getD 0, bench := b, desc := h.desc }

/-- The R-TAG a frame came with: its number, 0 without one (R349). -/
def Header.rtag (h : Header) : Frer := { seq := if h.is 2 then h.m 7 else 0, tagged := h.is 2 }

/-- The FRER function of a frame that is sent, and FRER_SKIP (R346, R347). -/
def State.frerOf (s : State) (b : Nat) (h : Header) (d : Dest) (ctx : Option Nat) : Frer × State :=
  let plain := h.rtag
  match ctx with
  | none => (plain, s)
  | some x =>
    if d.stream then
      ({ plain with fn := ctxFn x, seqIdx := bits x 123 105, push := bit x 85, pop := bit x 84 }, s)
    else if ctxFn x ≠ 0 ∧ !(d.ports.isEmpty && d.ring.isNone) then (plain, s.bump (pgStrm b) Reg.STRM.FRER_SKIP)
    else (plain, s)

/-- The frame is discarded after stage 5 (R259). -/
def State.dropFrame (s : State) (b : Nat) (h : Header) (sessions : List Nat) : State :=
  (s.mirrorAll b h.desc h.tick h.ipOf sessions).cullet b h.desc 71

/-- A frame leaves stage 5 for its destinations: its number is assigned, its copies and mirror copies are handed to the
core, and the ingress bench releases it. -/
def State.handOff (s : State) (b : Nat) (h : Header) (d : Dest) (f : Frer) (cls colour : Nat) (ing : List Nat)
    (errs : List TblErr) : State :=
  let ue := errs.any fun e => e.read == .seq && e.ue
  let s0 := s.seqCorrected b (f.fn == 1 && errs.any fun e => e.read == .seq && !e.ue)
  let (n, s1) := if f.fn = 1 then s0.seqGenerate b f.seqIdx ue else (some f.seq, s0)
  match n with
  | none => s1.dropFrame b h ing
  | some n =>
    let base := h.copyOf b colour f n
    let copies := (d.ports.map fun p => { base with port := p, cls := cls }) ++
      (match d.ring with
        | some (r, why) => [{ base with port := 512 + r, cls := cls, reason := why }]
        | none => [])
    let learn := h.learn.map fun dom => (dom, h.smac, localPort b h.lport)
    let s2 := s1.handCopies { bench := b, desc := h.desc, src := b, tick := h.tick, copies := copies, frer := f, learn := learn }
    let s3 := s2.mirrorAll b h.desc h.tick h.ipOf (ing ++ d.ports.flatMap fun p => s2.egSession b p)
    s3.relHold b h.desc (if h.cpu.isSome then 64 else h.port)

/-- Everything after the last pass of a frame (R196, R303). -/
def State.lastPass (s : State) (b : Nat) (h : Header) (fwd target : Nat) (lost : Bool) (errs : List TblErr) : State :=
  let (found, s1) := s.identify b h errs
  let (ctxUe, ctx, s2) := s1.context b found errs
  let stream := if ctx.isSome then found else none
  let (d, h1, s3) := if lost then ({}, h, s2) else s2.destOf b h fwd target stream ctx errs
  let kept := h.edits.length
  let (d, h2, s4) := s3.activeEdits b h1 d ctx
  let (pol, s5) := s4.police b h2 ctx errs
  let (h3, s6) := s5.fillHops kept h2 d
  let cls := (h.held.cls.or d.cls).getD pol.cls
  let s7 := s6.onDesc b h.desc fun v => { v with
    cls := cls, colour := pol.colour, stream := stream.getD 0, streamV := stream.isSome }
  let ing := (if h.cpu.isSome then [] else s7.ingSession b (localPort b h.port)) ++ h.held.mirror.toList
  if lost || ctxUe || pol.drop || (d.ports.isEmpty && d.ring.isNone) then s7.dropFrame b h3 ing
  else
    let (f, s8) := s7.frerOf b h3 d ctx
    s8.handOff b h3 d f cls pol.colour ing errs

/-- A DIRECT frame of the CPU port: no lookup, meter or filter (R530). -/
def State.directPass (s : State) (b : Nat) (h : Header) (c : CpuTx) (errs : List TblErr) : State :=
  let d : Dest := { ports := [c.dest] }
  let (h1, s1) := s.fillHops h.edits.length h d
  let s2 := s1.onDesc b h.desc fun v => { v with cls := c.cls, colour := 0 }
  s2.handOff b h1 d h.rtag c.cls 0 [] errs

/-! ### The punty path (R169, R170) -/

/-- MAX_PASSES as it acts. -/
def State.maxPasses (s : State) (b : Nat) : Nat := min 4 (max 1 (s.fld (pgCls b) Reg.CLS.PCFG_MAX_PASSES))

/-- A punty request refused (R170): the FIFO's number in the counters and causes. -/
def State.puntyRefused (s : State) (b : Nat) (depth : Bool) : State :=
  if depth then (s.bump (pgCls b) Reg.CLS.PUNTY_DEPTH).raise (pgCls b) 3
  else (s.bump (pgCls b) Reg.CLS.PUNTY_FULL).raise (pgCls b) 2

/-- A pass of a frame ends stage 5. -/
def State.endPass (s : State) (b : Nat) (h : Header) (a : Option Nat) (errs : List TblErr) : State :=
  let act := a.getD 0
  let s1 := if bit act 18 then s.addCtr (pgMarver b) Reg.MARVER.UCNT 1 (bits act 17 6) else s
  let h1 := { h with held := h.held.merge act }
  if bits act 95 93 = 6 ∧ a.isSome then
    let depth := decide (s1.maxPasses b ≤ h.passes + 1)
    if depth || decide (33 ≤ (s1.marAt b).punty.length) then
      ((s1.puntyRefused b depth).drained b h.epoch).lastPass b h1 6 0 false errs
    else
      let s2 := s1.onMar b fun m => { m with
        next := m.next + 1,
        punty := m.punty ++ [{ h1 with
          passes := h.passes + 1, punty := true, arg := bits act 91 84, tick := s1.localTick b, no := m.next }] }
      s2.bump (pgCls b) Reg.CLS.PUNTY_PASSES
  else (s1.drained b h.epoch).lastPass b h1 (bits act 95 93) (bits act 92 84) a.isNone errs

/-! ### RESULT_RELEASE (R112) -/

/-- Headers a bench has admitted that still wait for their grants. -/
def State.admitting (s : State) (b : Nat) : List Nat :=
  (s.requested b).filterMap fun r => match r with
    | .header _ _ _ _ _ _ no _ => some no
    | _ => none

/-- The places of a bench's admission FIFO that are taken (R51): by headers that wait there, and by those admitted and transmit
descriptors fetched that wait for their grants. -/
def State.admitted (s : State) (b : Nat) : Nat := (s.marAt b).fifo.length + (s.admitting b).length + (s.takesAt b).length

/-- The ended routine whose results leave next: the earliest admitted of the bench, none while an earlier header waits or
runs. -/
def State.due (s : State) (b : BenchId) : Option Routine :=
  let m := s.marAt b
  let waiting := (m.fifo ++ m.punty).map (fun h => h.no) ++ (m.engines.filterMap fun e => e.2.map fun r => r.h.no) ++ s.admitting b
  m.results.find? fun r => waiting.all (fun n => decide (r.h.no < n)) && m.results.all fun x => decide (r.h.no ≤ x.h.no)

/-- RESULT_RELEASE: the next results of the bench leave the pool; `errs` are the errors that stage 5's table reads find. -/
def resultRelease (b : BenchId) (errs : List TblErr) (s : State) : State :=
  match s.due b with
  | none => s
  | some r =>
    let s1 := s.onMar b fun m => { m with results := m.results.erase r }
    let (h, s2) := s1.cqIssue b r.h r.cq
    match h.cpu with
    | some c =>
      if c.direct then (s2.drained b h.epoch).directPass b h c errs
      else let (a, s3) := s2.ruleAction b { r with h := h } errs; s3.endPass b h a errs
    | none => let (a, s3) := s2.ruleAction b { r with h := h } errs; s3.endPass b h a errs
def execResultRelease (b : BenchId) (errs : List TblErr) (s : State) : Host.Outcome State Fault Refusal :=
  finish (resultRelease b errs s)

end Sys2Proof.Machine
end

