-- ==== Sys2Proof/Machine/Receive.lean ====
section
/-! DEFINITION. Reception (R49 to R51, R60, R87 to R91, R235, R250 to R252, R377 to R382, R576): admission of headers, the
allocator's answers, the end of a frame, MAC merge fragments, and tag results. A MAC is named by its port, 512 + port for the
preemptable one. -/

namespace Sys2Proof.Machine

/-! ### Admission priority (R60) -/

/-- The TCI of the outermost VLAN tag from an offset, one R-TAG passed over. -/
def outerTag (w : List Byte) : Nat → Nat → Option Nat
  | 0, _ => none
  | n + 1, p =>
    let v := beAt w p 2
    if w.length < p + 4 then none
    else if v = 0x8100 ∨ v = 0x88A8 then some (beAt w (p + 2) 2)
    else if v = 0xF1C1 then outerTag w n (p + 6)
    else none

/-- The admission priority and DEI of a frame (R60). -/
def State.admissionPri (s : State) (p : Nat) (w : List Byte) : Nat × Bool :=
  match outerTag (w.take 256) 2 12 with
  | some tci => (tci / 8192, bit tci 12)
  | none => (s.portFld p Reg.PORT.PCFG_DEFAULT_PRI, false)

/-- The port's critical mask admits a priority (R60). -/
def State.critical (s : State) (b lport pri : Nat) : Bool :=
  bit (s.rd pgTime (0x400 + 0x40 * b + 4 * (lport / 4))).toNat (8 * (lport % 4) + pri)

/-! ### MACsec at stage 1 (R377, R378) -/

/-- Count in a trunk port's counters of the CIPH page. -/
def State.ciphCount (s : State) (p : Nat) (c : Nat → Nat) : State := s.bump (pgCiph (ciphOf p)) (c (ciphPort p))

/-- A valid receive SC of a port. -/
def scServes (p e : Nat) : Bool := scValid e && !scTx e && scPort e == ciphPort p

/-- The SC that a frame without SCI would match under RXDEF (R377, R378): its local number. -/
def State.rxDefSc (s : State) (p : Nat) : Option Nat :=
  let c := ciphOf p
  if s.flag (pgCiph c) (Reg.CIPH.PRX_RXDEF_EN (ciphPort p)) then
    let n := s.fld (pgCiph c) (Reg.CIPH.PRX_RXDEF (ciphPort p))
    if n / 1024 = c ∧ scServes p (s.scEntry c (n % 1024)) then some (n % 1024) else none
  else none

/-- The receive SC of a tagged frame (R378 check 2): its local number. -/
def State.rxSc (s : State) (p : Nat) (f : List Byte) : Option Nat :=
  let tci := beAt f 14 1
  if bit tci 5 ∨ bit tci 6 then
    let sci := if bit tci 5 then beAt f 20 8 else beAt f 6 6 * 65536 + 1
    ((s.ciphAt (ciphOf p)).scs.find? fun e => scServes p e.2 && scSci e.2 == sci).map Prod.fst
  else s.rxDefSc p

/-- The recovered PN (R379), modulo 2⁶⁴. -/
def recoverPn (ent lo pn32 : Nat) : Nat :=
  if scXpn ent then
    let hi := lo / 2 ^ 32 * 2 ^ 32 + pn32
    (if pn32 < lo % 2 ^ 32 then hi + 2 ^ 32 else hi) % 2 ^ 64
  else pn32

/-- Check 1 of R378. -/
def secTagOk (f : List Byte) : Bool :=
  let t := beAt f 14 1
  !bit t 7 && !bit t 4 && !(bit t 5 && bit t 6) && !(bit t 3 && !bit t 2) && decide (beAt f 15 1 < 48)

/-- The checks of R378 on a tagged frame: its MACsec state, none where it is discarded. -/
def State.inspectTagged (s : State) (p : Nat) (f : List Byte) : Option RxSec × State :=
  let c := ciphOf p
  if !secTagOk f then (none, s.ciphCount p Reg.CIPH.RX_BADTAG)
  else match s.rxSc p f with
    | none => (none, s.ciphCount p Reg.CIPH.RX_NO_SC)
    | some i =>
      let an := beAt f 14 1 % 4
      let e := s.scEntry c i
      let sa := s.saWork c (4 * i + an)
      let pn := recoverPn e (lowest e sa) (beAt f 16 4)
      if !saValid sa then (none, s.scCount c i 5)
      else if scReplay e ∧ pn < lowest e sa then (none, s.scCount c i 3)
      else
        let k := s.keySlot c (saKey sa)
        (some { ent := e, sc := c * 1024 + i, an := an, key := k.key, keyLen := k.bytes, iv := macsecIv e sa k.salt pn,
                pn32 := beAt f 16 4, enc := bit (beAt f 14 1) 3, gen := Tab.get (fun _ => 0) (s.ciphAt c).gens (4 * i + an),
                off := confOffset (Config.rxConfOffset (c * 1024 + i)).toNat, sl := beAt f 15 1,
                tag := if bit (beAt f 14 1) 5 then 16 else 8 }, s)

/-- What a cluster finds of a received frame (R377): discarded (none), passed as it is, or a protected frame. -/
def State.inspect (s : State) (p : Nat) (f : List Byte) : Option (Option RxSec) × State :=
  let c := ciphOf p
  let j := ciphPort p
  if !isTrunk p || !s.flag (pgCiph c) (Reg.CIPH.PCFG_MACSEC_EN j) then (some none, s)
  else if beAt f 12 2 ≠ 0x88E5 then
    let strict := match s.rxDefSc p with
      | some i => scStrict (s.scEntry c i)
      | none => false
    if s.bypassed c (beAt f 12 2) then (some none, s.ciphCount p Reg.CIPH.RX_BYPASS)
    else if s.flag (pgCiph c) (Reg.CIPH.PCFG_RX_UNTAGGED j) ∧ !strict then (some none, s.ciphCount p Reg.CIPH.RX_UNTAGGED)
    else (none, s.ciphCount p Reg.CIPH.RX_NOTAG_DROP)
  else
    let (r, s1) := s.inspectTagged p f
    (r.map some, s1)

/-- The plaintext of a protected frame's bytes so far, without ICV or FCS. -/
def rxPlain (r : RxSec) (f : List Byte) : List Byte :=
  let secure := f.drop (12 + r.tag)
  let off := if r.enc then r.off else secure.length
  f.take 12 ++ secure.take off ++ Aes.gcmCtr (Aes.expand (natBE r.keyLen r.key)) r.iv (secure.drop off)

/-- A whole frame as it is stored (R122): the bytes received, or the plaintext with its own FCS; and for a protected one,
whether its ICV and its short length are right, and its secure octets (R379). -/
def storedFrame (r : Option RxSec) (f : List Byte) : List Byte × (Bool × Bool × Nat) :=
  match r with
  | none => (f, true, true, 0)
  | some r =>
    let body := f.take (f.length - 4)
    let (plain, ok) := unprotect r body
    let n := body.length - 12 - r.tag - 16
    (plain ++ fcsBytes plain, ok, r.sl == 0 || r.sl == n, n)

/-! ### The offer of a header (R49, R252) -/

/-- What a bench that does not take headers does with a header: before GO, and for DOZE (R453, R485); none where it takes them. -/
def State.closedTo (s : State) (b : Nat) : Option State :=
  if s.dev.closed.contains b then some (s.bump (pgPwr (benchTeam b)) Reg.PWRT.DOZE_DISCARD)
  else if !s.boot.open_.contains b then some (s.bump pgBoot Reg.BOOT.PREGO_DISCARD)
  else none

/-- Checks 1 and 2 of R252, counted where a header fails; none where it passes. -/
def State.admitCheck (s : State) (p : Nat) (w : List Byte) : Option State :=
  let b := portBench p
  let (pri, _) := s.admissionPri p w
  if s.fld pgTime (Reg.TIME.BTICK_STAT_STATE b) = 3 ∧ !s.critical b (portLocal p) pri then
    some ((s.bump pgTime (Reg.TIME.OVR_REFUSED b)).portCount p Reg.PORT.OVR_REFUSED)
  else if 256 ≤ s.admitted b then
    some ((s.bump pgTime (Reg.TIME.ADMIT_FULL b)).portCount p Reg.PORT.ADMIT_FULL)
  else none

/-- A MAC offers a frame's header for admission: `bytes` as received so far, `whole` when they are the frame. The frame
takes no buffer where it is discarded here. -/
def State.offer (s : State) (x : Nat) (bytes : List Byte) (whole : Bool) (age : Nat) : State :=
  let p := x % 512
  let b := portBench p
  let s0 := s.putRx x { active := true }
  match s0.closedTo b with
  | some s1 => s1
  | none =>
    let (r, s1) := s0.inspect p bytes
    match r with
    | none => s1
    | some sec =>
      let (stored, check) := if whole then storedFrame sec bytes
        else (match sec with
          | some r => rxPlain r bytes
          | none => bytes, true, true, 0)
      match s1.admitCheck p stored with
      | some s2 => s2
      | none =>
        let (t, s1) := s1.stampAgo (age + if isTrunk p then 0 else s1.portFld p Reg.PORT.PHYDLY_PHY_RX_DLY)
        let ts := shortStamp t
        let no := (s1.marAt b).next
        let s2 := s1.onMar b fun m => { m with next := m.next + 1 }
        let s3 := s2.request b (portLocal p) p (if whole then some stored.length else none)
          (.header x stored whole ts sec (s1.localTick b) no check)
        s3.putRx x { active := true, waiting := true, ts := ts, sec := sec }

/-- The bytes that must have come before a header window is complete (R122, R235): 256, and a SecTAG and ICV. -/
def State.windowNeed (s : State) (p : Nat) (bytes : List Byte) : Nat :=
  match (s.inspect p bytes).1 with
  | some (some r) => 256 + r.tag + 16
  | _ => 256

/-- A MAC receives for its port (R576): the port is UP, or the frame began while it was. A frame that began in DOWN or HOLD is
received where the port has come UP by its window or end (log 268). -/
def State.receives (s : State) (p : Nat) (early : Bool) : Bool :=
  (s.lstate p == 2 || early) && !(s.teamAt (benchTeam (portBench p))).failed

/-- The bytes that a port's MAC receives: those that come, or on a lane looped at its near end those of the oldest frame sent and
not received (R107). -/
def State.incoming (s : State) (p : Nat) (bytes : List Byte) : Option (List Byte) :=
  if s.nearLoop p then (s.linkAt p).looped.head? else some bytes

/-- HEADER_ADMIT: the header window of a frame longer than 256 bytes completes at a MAC. `bytes` are those received so far,
`age` the ns since the first, `early` that reception began while the port was UP, `preempt` the preemptable MAC. -/
def headerAdmit (p : PortId) (bytes : List Byte) (early preempt : Bool) (age : Nat) (s : State) : State :=
  let x := if preempt then 512 + p.val else p.val
  let bytes := ((s.incoming p bytes).getD []).take bytes.length
  if (s.rxAt x).active || !s.receives p early || bytes.length < s.windowNeed p bytes then s
  else if beAt bytes 12 2 = 0x8808 then s.putRx x { active := true }
  else s.offer x bytes false age
def execHeaderAdmit (p : PortId) (bytes : List Byte) (early preempt : Bool) (age : Nat) (s : State) :
    Host.Outcome State Fault Refusal := finish (headerAdmit p bytes early preempt age s)

/-! ### ALLOC_ANSWER (R250, R251) -/

/-- A frame that was decrypted waits for its tag result (R379). -/
def State.awaitTag (s : State) (x : Nat) (desc : Option Nat) (gone : Option Desc) (sec : RxSec)
    (check : Bool × Bool × Nat) : State :=
  s.onCiph (ciphOf (x % 512)) fun c => { c with tags := c.tags ++
    [{ port := x % 512, mac := x, desc := desc, gone := gone, sec := sec, tagOk := check.1, slOk := check.2.1, octets := check.2.2 }] }

/-- A port acts on the answer to its header's request (R49, R235, R251). Conditions 5 and 7 of R100 are settled here. -/
def State.answerAdmit (s : State) (b : Nat) (a : Answer) (x : Nat) (bytes : List Byte) (whole : Bool)
    (sec : Option RxSec) (tick no : Nat) (check : Bool × Bool × Nat) : State :=
  let p := x % 512
  let held := (sec.map fun r => !scCt r.ent).getD false
  let merged := decide (512 ≤ x) && s.portFlag p Reg.PORT.MMCFG_MM_EN
  match a with
  | .granted i _ =>
    let (fit, s2) := (s.onDesc b i fun v => { v with noCt := held || merged }).storeFrame b i bytes mostBuffers
    let (pri, dei) := s.admissionPri p bytes
    let h : Header :=
      { port := portLocal p, desc := i, tick := tick, no := no, win := bytes.take 256, len := if whole then bytes.length else 0,
        pri := pri, dei := dei, rxsc := (sec.map fun r => 2 ^ 15 + 2 ^ 14 + r.sc % 4096).getD 0 }
    let s3 := s2.onMar b fun m => { m with fifo := m.fifo ++ [h] }
    let s4 := if whole then s3.putRx x {}
      else s3.onRx x fun k => { k with waiting := false, desc := some i }
    let s5 := match whole, sec with
      | true, some r => s4.awaitTag x (some i) none r check
      | _, _ => s4
    s5.storeCut b i fit
  | .noDesc => answerNone (s.countBound b)
  | .noBuf => answerNone s
where
  answerNone (s : State) : State :=
    let s1 := if whole then s.putRx x {} else s.onRx x fun k => { k with waiting := false }
    match whole, sec with
    | true, some r => s1.awaitTag x none none r check
    | _, _ => s1

/-- The bridge receiving side acts on the answer to a transfer's request (R271); where the transfer has been abandoned, a grant
goes back by the cullet path (R259). -/
def State.answerBridge (s : State) (e : Nat) (a : Answer) (k : Nat) : State :=
  match (s.bridgeAt k).xfer, a with
  | none, .granted i _ => s.cullet e i 68
  | none, _ => s
  | some y, .granted i _ => s.onBridge k fun x => { x with xfer := some { y with desc := some i, answered := true } }
  | some y, _ =>
    (s.bump (pgCore (4 * (e / 4))) Reg.CORE.BR_RX_NOBUF).onBridge k fun x => { x with xfer := some { y with answered := true } }

/-! ### FRAME_RECEIVE (R87 to R91, R237, R290, R310, R470) -/

/-- How a frame's reception ended (R87, R88). -/
inductive RxEnd where
  | good | trunc | undersize | oversize | fcs
  deriving DecidableEq, Repr

/-- The FCS of a frame is right. -/
def fcsOk (f : List Byte) : Bool := fcsBytes (f.take (f.length - 4)) == f.drop (f.length - 4)

/-- The first of R88 that applies, or good; `hit` that an uncorrectable FEC codeword carried the frame (R86). -/
def State.rxEnd (s : State) (p : Nat) (f : List Byte) (lost hit : Bool) : RxEnd :=
  let max := s.maxFrame p
  if lost && decide (f.length ≤ max) then .trunc
  else if f.length < 64 then .undersize
  else if max < f.length then .oversize
  else if fcsOk f && !hit then .good else .fcs

/-- Count a frame's end (R87 to R89). -/
def State.rxEndCount (s : State) (p : Nat) (f : List Byte) (e : RxEnd) : State :=
  match e with
  | .good =>
    if beAt f 12 2 = 0x8808 then s.portCount p Reg.PORT.RX_MAC_CTRL
    else (s.portCount p Reg.PORT.RX_FRAMES).portCount p Reg.PORT.RX_OCTETS f.length
  | .trunc => s.portCount p Reg.PORT.RX_LINK_TRUNC
  | .undersize => s.portCount p Reg.PORT.RX_UNDERSIZE
  | .oversize => s.portCount p Reg.PORT.RX_OVERSIZE
  | .fcs => s.portCount p Reg.PORT.RX_FCS_ERR

/-- What a frame left to settle whose descriptor was freed before its end: its meter's return, its filter's test, and its
learn (R198, R308, R310). `len` is none where it did not wholly come, `bad` that it ended with a receive error. -/
def State.settleGone (s : State) (x : Nat) (v : Desc) (len : Option Nat) (bad : Bool := len.isNone) : State :=
  let b := portBench (x % 512)
  let s1 := match v.meter with
    | some m => s.meterReturn b m len
    | none => s
  let s2 := match v.filter, len with
    | some i, some l =>
      let f := s1.filterWork (benchTeam b) i
      if f.maxSdu ≠ 0 ∧ f.maxSdu < l then
        (s1.filterSdu b i).bump (pgMeter b) (if v.begun then Reg.METER.FILT_SDU_LATE else Reg.METER.FILT_SDU_DROP)
      else s1
    | _, _ => s1
  s2.eachLearn fun r => if r.bench = b ∧ r.desc = macPlace x then { r with desc := noPlace, bad := r.bad || bad } else r

/-- The end of a frame whose header was offered. -/
def State.endOffered (s : State) (x : Nat) (bytes : List Byte) (e : RxEnd) (err : SeqErr) : State :=
  let p := x % 512
  let b := portBench p
  let k := s.rxAt x
  let s0 := s.putRx x {}
  let (stored, check) := if e = .good then storedFrame k.sec bytes
    else (match k.sec with
      | some r => rxPlain r bytes
      | none => bytes, false, false, 0)
  let reason := if e = .trunc then 14 else 13
  let (fit, s2) : Fit × State := match k.desc with
    | none => (if (k.gone.map Desc.shut).getD false then Fit.shut else Fit.stored, s0)
    | some d =>
      let (fit, s1) := s0.storeFrame b d stored mostBuffers
      (fit, (s1.storeCut b d fit).trimChain b d)
  let good := e == .good && fit == .stored
  let s3 := match k.desc with
    | none => s2
    | some d => if good then s2.receptionGood b d stored.length err
      else s2.receptionBad b d stored.length (if fit = .stored then reason else 15)
  match k.sec with
  | some r =>
    if good then s3.awaitTag x k.desc k.gone r check
    else match k.gone with
      | some v => s3.settleGone x v none (e != .good)
      | none => s3
  | none => match k.gone with
    | some v => s3.settleGone x v (if good then some stored.length else none) (e != .good)
    | none => s3

/-- A good frame received in DOZE on a port whose WAKE_RX bit is 1 wakes the device (R470). -/
def State.rxWake (s : State) (p : Nat) : State :=
  if s.dev.st = 1 ∧ bit (s.rd (pgPwr (benchTeam (portBench p))) (0x080 + 4 * (p / 32))).toNat (p % 32) then s.wakeFrom 3
  else s

/-- A frame cannot end yet: its header's request waits, or it is longer than its window and has not been offered. -/
def State.rxBlocked (s : State) (x : Nat) (bytes : List Byte) (early : Bool) : Bool :=
  let k := s.rxAt x
  k.waiting || (!k.active && s.receives (x % 512) early && decide (s.windowNeed (x % 512) bytes < bytes.length))

/-- A frame that ends bad within its header window: its cluster has inspected it as its EtherType and SecTAG came (R377, R378). -/
def State.inspectBad (s : State) (p : Nat) (bytes : List Byte) : State :=
  let need := if beAt bytes 12 2 = 0x88E5 then (if bit (beAt bytes 14 1) 5 then 28 else 20) else 14
  if bytes.length < need ∨ beAt bytes 12 2 = 0x8808 ∨ (s.closedTo (portBench p)).isSome then s else (s.inspect p bytes).2

/-- A MAC ends the reception of a frame. -/
def State.endFrame (s : State) (x : Nat) (bytes : List Byte) (lost early hit : Bool) (age : Nat) (err : SeqErr) : State :=
  let p := x % 512
  let k := s.rxAt x
  let bytes := bytes.take (s.maxFrame p + 1)
  if (s.teamAt (benchTeam (portBench p))).failed then s
  else if !k.active && !s.receives p early then
    if s.lstate p = 0 then s else s.portCount p Reg.PORT.RX_NOT_UP
  else
    let e := s.rxEnd p bytes lost hit
    let s1 := s.rxEndCount p bytes e
    let s2 := if k.active then s1.endOffered x bytes e err
      else if e = .good ∧ beAt bytes 12 2 ≠ 0x8808 then
        let s2 := s1.offer x bytes true age
        if (s2.rxAt x).waiting then s2 else s2.putRx x {}
      else s1.inspectBad p bytes
    if e = .good then s2.rxWake p else s2

/-- Codewords of a port with FEC on are counted (R86); a DISABLED port counts nothing (R576). -/
def State.fecCount (s : State) (p : Nat) (f : FecSeen) : State :=
  if s.fecOn p && s.lstate p != 0 then
    (s.portCount p Reg.PORT.FEC_CORR f.corr).portCount p Reg.PORT.FEC_UNCORR f.uncorr
  else s

/-- FRAME_RECEIVE: the MAC ends the reception of a frame. `bytes` run from its destination address to where reception
ended, `lost` says that the link was lost there, `age` is the ns since its first byte, `fec` the codewords since the frame before,
and `err` the errors that sequence recovery of its copies finds. A frame of 256 bytes or fewer is offered for admission here. On a
lane looped at its near end the frame is the oldest one sent and not received. -/
def frameReceive (p : PortId) (bytes : List Byte) (lost early preempt : Bool) (age : Nat) (fec : FecSeen) (err : SeqErr)
    (s : State) : State :=
  let x := if preempt then 512 + p.val else p.val
  match s.incoming p bytes with
  | none => s
  | some bytes =>
    if s.rxBlocked x bytes early then s
    else
      let s1 := if preempt then s.onLink p fun k => { k with asm := none } else s
      let s2 := (s1.fecCount p fec).onLink p fun k => { k with looped := k.looped.drop 1 }
      s2.endFrame x bytes lost early (fec.hit && s.fecOn p) age err
def execFrameReceive (p : PortId) (bytes : List Byte) (lost early preempt : Bool) (age : Nat) (seen : RxSeen) (s : State) :
    Host.Outcome State Fault Refusal := finish (frameReceive p bytes lost early preempt age seen.fec seen.err s)

/-! ### FRAGMENT_RECEIVE (R91) -/

/-- The next expected fragment count after a fragment is taken (IEEE 802.3br: modulo 4). -/
def nextFrag (n : Nat) : Nat := (n + 1) % 4

/-- The frame in reassembly is dropped for an error (R91). -/
def State.assyError (s : State) (p : Nat) : State :=
  if (s.linkAt p).asm.isSome then
    let s1 := (s.onLink p fun k => { k with asm := none }).portCount p Reg.PORT.MM_ASSY_ERR
    let k := s1.rxAt (512 + p)
    let s2 := s1.putRx (512 + p) {}
    let s3 := match k.desc with
      | some d => (s2.trimChain (portBench p) d).receptionBad (portBench p) d (s2.storedLen (portBench p) d) 13
      | none => s2
    match k.gone with
    | some v => s3.settleGone (512 + p) v none
    | none => s3
  else s

/-- A fragment of a port that is not UP (R576): the frame is counted once, as its last fragment comes. -/
def State.fragmentIdle (s : State) (p : Nat) (last : Bool) : State :=
  if last && decide (s.lstate p = 1 ∨ s.lstate p = 3) then s.portCount p Reg.PORT.RX_NOT_UP else s

/-- FRAGMENT_RECEIVE: a MAC-merge fragment comes: its SMD, its bytes without an mCRC, and whether it is its frame's last; or a
verify request, or the response to one (R90). -/
def fragmentReceive (p : PortId) (smd : Smd) (bytes : List Byte) (last early : Bool) (age : Nat) (err : SeqErr) (s : State) :
    State :=
  let x := 512 + p.val
  if !s.portFlag p Reg.PORT.MMCFG_MM_EN || (s.rxAt x).waiting || s.nearLoop p || (s.teamAt (benchTeam (portBench p))).failed then s
  else
    let on := (s.rxAt x).active || s.receives p early
    let take (s : State) (n next : Nat) (all : List Byte) : State :=
      if last then
        if s.rxBlocked x all early then s.onLink p fun k => { k with asm := some (n, next, all) }
        else (s.onLink p fun k => { k with asm := none }).endFrame x all false early false age err
      else s.onLink p fun k => { k with asm := some (n, next, all) }
    match smd with
    | .verify => if s.portUp p then s.onLink p fun k => { k with owes := true } else s
    | .respond => if s.portUp p then mmVerify p true s else s
    | .unknown => if on then s.portCount p Reg.PORT.MM_SMD_ERR else s
    | .start n => if on then take (s.assyError p) n 0 bytes else s.fragmentIdle p last
    | .cont n c =>
      if !on then s.fragmentIdle p last
      else match (s.linkAt p).asm with
      | none => s.portCount p Reg.PORT.MM_SMD_ERR
      | some (n0, c0, sofar) =>
        if n.val = n0 ∧ c.val = c0 then take s n (nextFrag c0) (sofar ++ bytes)
        else if n.val = n0 then (s.portCount p Reg.PORT.MM_SMD_ERR).assyError p
        else s.assyError p
def execFragmentReceive (p : PortId) (smd : Smd) (bytes : List Byte) (last early : Bool) (age : Nat) (err : SeqErr) (s : State) :
    Host.Outcome State Fault Refusal := finish (fragmentReceive p smd bytes last early age err s)

/-! ### TAG_RESULT (R379, R380) -/

/-- The final check of a frame: whether it passes, and the counts and SA update it makes. The update is discarded where the SA has
since been invalidated (R376), and under a suite without extended numbers NEXT_PN keeps to 32 bits (R374, log 234). -/
def State.tagCheck (s : State) (t : TagWait) : Bool × State :=
  let c := ciphOf t.port
  let i := t.sec.sc % 1024
  let sai := 4 * i + t.sec.an
  let sa := s.saWork c sai
  let lo := lowest t.sec.ent sa
  let pn := recoverPn t.sec.ent lo t.sec.pn32
  let ok := t.tagOk && t.slOk
  if ok ∧ scReplay t.sec.ent ∧ pn < lo then (false, s.scCount c i 3)
  else if !ok then (false, (s.scCount c i 2).raise (pgCiph c) 2)
  else
    let s1 := if pn < lo then s.scCount c i 4 else s
    let next := (pn + 1) % (if scXpn t.sec.ent then 2 ^ 64 else 2 ^ 32)
    let s2 := if saPn sa ≤ pn ∧ t.sec.gen = Tab.get (fun _ => 0) (s.ciphAt c).gens sai then
        s1.onCiph c fun k => { k with ups := k.ups ++
          [{ bench := portBench t.port, tick := s1.localTick (portBench t.port), sa := sai, pn := next }] }
      else s1
    (true, (s2.scCount c i 0).scCount c i 1 t.octets)

/-- TAG_RESULT: the tag result of a port's oldest decrypted frame is known. -/
def tagResult (p : PortId) (err : SeqErr) (s : State) : State :=
  let c := ciphOf p
  match (s.ciphAt c).tags.find? fun t => t.port == p.val with
  | none => s
  | some t =>
    let s0 := s.onCiph c fun k => { k with tags := k.tags.erase t }
    let (ok, s1) := s0.tagCheck t
    let b := portBench p
    let s2 := match t.desc with
      | none => s1
      | some d => if ok then s1.tagPassed b d err else s1.receptionBad b d ((t.octets + 16)) 18
    match t.gone with
    | some v => s2.settleGone t.mac v (if ok then some (t.octets + 16) else none)
    | none => s2
def execTagResult (p : PortId) (err : SeqErr) (s : State) : Host.Outcome State Fault Refusal := finish (tagResult p err s)

end Sys2Proof.Machine
end

