-- ==== Sys2Proof/Machine/Rings.lean ====
section
/-! DEFINITION. The CPU port's DMA rings (R527 to R534). A descriptor and a frame's bytes come with the command as the
device reads them of host memory; what it writes goes to `hostMem`. Rings are 0 to 15 transmit, 16 to 31 receive. -/

namespace Sys2Proof.Machine

/-- A register access to BAR2, which the endpoint serves itself (R510, R512). -/
def State.bar2 (s : State) (f : State → State) : State :=
  if s.pcie.d3 || s.hostGone || !s.domSteady domHost then s else f s

/-- An index and the position in host memory of the descriptor there (R527). -/
def State.ringDesc (s : State) (i k : Nat) : Nat :=
  let p := ringPage i
  (s.rd p Reg.TXRING.BASE_LO.off).toNat + 2 ^ 32 * (s.rd p Reg.TXRING.BASE_HI.off).toNat +
    32 * (k % ringSize (s.fld p Reg.TXRING.CFG_SIZE_LOG2))

/-- Descriptors that the ring owns (R527). -/
def State.owned (s : State) (i : Nat) : Nat :=
  (s.fld (ringPage i) Reg.TXRING.TAIL + 65536 - s.fld (ringPage i) Reg.TXRING.HEAD) % 65536

/-- A ring runs: enabled, not stopped, and DMA possible. -/
def State.ringRuns (s : State) (i : Nat) : Bool :=
  s.dmaUp && s.domOn domHost && s.flag (ringPage i) Reg.TXRING.CFG_EN && !s.flag (ringPage i) Reg.TXRING.STAT_STOPPED

/-- HEAD advances by `n`: STAT.IRQ is set, or waits for COAL's end (R532). -/
def State.headPast (s : State) (i n : Nat) : State :=
  let p := ringPage i
  let s1 := s.setFld p Reg.TXRING.HEAD (s.fld p Reg.TXRING.HEAD + n)
  if (s.ringAt i).cooling then s1.onRing i fun r => { r with waiting := true } else s1.setFld p Reg.TXRING.STAT_IRQ 1

/-! ### Transmit (R528 to R530) -/

/-- Word `i` of a descriptor. -/
def txWord (d : List Byte) (i : Nat) : Nat := leNat (slice d (4 * i) 4)

/-- A transmit descriptor ends with BAD_DESC (R529): DEST has 9 bits, so none is above 511. -/
def txBad (d : List Byte) : Bool :=
  let w := txWord d 0
  let len := bits w 13 0
  len == 0 || decide (9724 < len) || bits w 31 28 != 0 || bits (txWord d 1) 9 0 != 0 || bits (txWord d 5) 31 16 != 0 ||
    txWord d 6 != 0 || txWord d 7 != 0

/-- The ring that a bench serves next: the first one after the last served that has a descriptor (R529); none while the bench's
DMA requester has a request waiting (R250). -/
def State.txTurn (s : State) (b : Nat) : Option Nat :=
  let last := (s.ringAt (32 + b)).last
  if !(s.takesAt b).isEmpty then none
  else ((List.range 16).map fun k => (last + 1 + k) % 16).find? fun i =>
    s.ringRuns i && s.fld (pgTx i) Reg.TXRING.CFG_BENCH == b && s.owned i != 0 && (s.takesOf i).isEmpty

/-- A bench admits CPU-port headers: open, and its admission FIFO has room (R51, R485). -/
def State.cpuRoom (s : State) (b : Nat) : Bool :=
  s.boot.open_.contains b && !s.dev.closed.contains b && s.domOn (domIngress b) &&
    !(s.teamAt (benchTeam b)).failed && decide (s.admitted b < 256)

/-- A descriptor completes: word 4 is written and HEAD advances (R528, R529). -/
def State.txDone (s : State) (i st : Nat) : State :=
  (s.hostPut (s.ringDesc i (s.fld (pgTx i) Reg.TXRING.HEAD) + 16) (natLE 4 (2 ^ 31 + st))).headPast i 1
/-- A descriptor that a ring holds completes: `wrote` says that word 4 reaches host memory; HEAD advances where the ring has not
been restarted since (R533). -/
def State.takeDone (s : State) (t : CpuTake) (st : Nat) (wrote : Bool) : State :=
  (s.ifDo (wrote && s.dmaUp) (·.hostPut (t.at_ + 16) (natLE 4 (2 ^ 31 + st)))).ifDo t.fresh (·.headPast t.ring 1)

/-- The CPU-port frame of a granted descriptor is stored and its header admitted (R49, R529). -/
def State.txAdmit (s : State) (b i g : Nat) (d frame : List Byte) : State :=
  let (_, s1) := s.storeFrame b g frame mostBuffers
  let w := txWord d 0
  let w1 := txWord d 1
  let c : CpuTx := { ring := i, direct := bit w 26, cls := bits w 25 23, dest := bits w 22 14, etsEn := bit w 27,
                     etsTag := bits w1 31 16, lport := bits w1 15 10 }
  let (pri, dei) := match outerTag (frame.take 256) 2 12 with
    | some tci => (tci / 8192, bit tci 12)
    | none => (0, false)
  let h : Header := { port := 0, cpu := some c, desc := g, tick := s1.localTick b, no := (s1.marAt b).next,
                      win := frame.take 256, len := frame.length, pri := pri, dei := dei }
  s1.onMar b fun m => { m with next := m.next + 1, fifo := m.fifo ++ [h] }

/-- The descriptor of a ring as it is fetched, with the frame that it names: the bytes it takes of `bytes`, padded, and an FCS. -/
def State.take (s : State) (i : Nat) (d bytes : List Byte) : CpuTake :=
  let body := padBody (slice bytes 0 (bits (txWord d 0) 13 0))
  { ring := i, at_ := s.ringDesc i (s.fld (pgTx i) Reg.TXRING.HEAD), desc := d, frame := body ++ fcsBytes body }

/-- TX_DESCRIPTOR_FETCH: ring `i` takes its next descriptor, whose frame's bytes are `bytes`. It requests as slot 64 (R249), and
the ring holds the descriptor until the answer. -/
def txDescriptorFetch (i : Fin 16) (d bytes : List Byte) (s : State) : State :=
  let b := s.fld (pgTx i) Reg.TXRING.CFG_BENCH
  if s.txTurn b = some i.val ∧ s.cpuRoom b then
    let s0 := s.onRing (32 + b) fun r => { r with last := i }
    if txBad d then (s0.bump (pgTx i) Reg.TXRING.DROPS).txDone i 2
    else
      let t := s.take i d bytes
      s0.request b 64 512 (some t.frame.length) (.cpu t)
  else s
def execTxDescriptorFetch (i : Fin 16) (d bytes : List Byte) (s : State) : Host.Outcome State Fault Refusal :=
  finish (txDescriptorFetch i d bytes s)

/-- A transmit ring acts on the answer for the descriptor it holds: the frame is admitted, or the descriptor ends with
NO_BUFFER, which is no admission refusal (R251). The frame's ingress timestamp, which no rule gives (R67, R528, R529), is 0 (log
238). The grant for a descriptor that has been dropped goes back by the cullet path. -/
def State.answerCpu (s : State) (b : Nat) (a : Answer) (t : CpuTake) : State :=
  match a, t.gone with
  | .granted g _, true => s.cullet b g 64
  | _, true => s
  | .granted g _, false => ((s.txAdmit b t.ring g t.desc t.frame).bump (pgTx t.ring) Reg.TXRING.FRAMES).takeDone t 0 true
  | _, false => (s.bump (pgTx t.ring) Reg.TXRING.DROPS).takeDone t 1 true

/-! ### The allocator's answers (R249 to R251) -/

/-- A requester acts on its answer. -/
def State.deliver (s : State) (b : Nat) (r : AllocReq) (a : Answer) : State :=
  match r.what with
  | .header x bytes whole _ sec tick no check => s.answerAdmit b a x bytes whole sec tick no check
  | .bridge t k => s.answerBridge b a (t * 4 + k)
  | .cpu t => s.answerCpu b a t
  | _ => s

/-- ALLOC_ANSWER: one clock of a bench's allocator, in which the first 8 waiting requests are answered and RR_PTR advances; the
requesters answered so far act. -/
def allocAnswer (b : BenchId) (s : State) : State :=
  let s1 := s.allocClock b
  (s1.onBuf b fun u => { u with answers := [] }).each (s1.bufAt b).answers fun s e => s.deliver b e.1 e.2
def execAllocAnswer (b : BenchId) (s : State) : Host.Outcome State Fault Refusal := finish (allocAnswer b s)

/-! ### Receive (R531, R532) -/

/-- A short timestamp rebuilt against the time (R66): the instant within 2 s of it. -/
def rebuild (now short : Nat) : Nat :=
  let age := (now + 4000000000 - (short / 2 ^ 30 * 1000000000 + short % 2 ^ 30) % 4000000000) % 4000000000
  if age < 2000000000 then now - age else now + 4000000000 - age

/-- The bytes of a frame as a receive ring writes it: whole, or truncated with a new FCS (R295, R531). -/
def State.rxBytes (s : State) (c : Copy) : List Byte :=
  let f := s.frameBytes c.bench c.desc
  let l := s.copyLen c
  if l < f.length then let b := f.take (l - 4); b ++ fcsBytes b else f

/-- Buffer size of a receive ring in bytes (R534). -/
def State.rxBuf (s : State) (r : Nat) : Nat :=
  let n := s.fld (pgRx r) Reg.RXRING.CFG_BUF_SIZE
  256 * (if n = 0 then 64 else n)

/-- A CPU queue's oldest copy can leave: its frame has wholly come. -/
def State.rxReady (s : State) (r b : Nat) : Option Copy :=
  if s.domOn (domEgress b) && !(s.teamAt (benchTeam b)).failed then
    (s.queueAt (qkey b (512 + r))).head.head?.filter fun c => ((s.descAt c.bench c.desc).map fun d => d.done).getD false
  else none

/-- The bench whose frame a receive ring takes next: the first after the last served that has one (R532). -/
def State.rxTurn (s : State) (r : Nat) : Option (Nat × Copy) :=
  let last := (s.ringAt (16 + r)).last
  ((List.range 8).map fun k => (last + 1 + k) % 8).findSome? fun b => (s.rxReady r b).map fun c => (b, c)

/-- Words 2 to 7 of a receive descriptor (R531). -/
def State.rxWords (s : State) (c : Copy) (v : Desc) (total n : Nat) (first last : Bool) : List Byte :=
  let t := if s.timeValid then rebuild s.time.now v.ts else 0
  let w2 := 2 ^ 31 + b2n first * 2 ^ 30 + b2n last * 2 ^ 29 + b2n v.secured * 2 ^ 28 + c.reason * 2 ^ 24 + c.cls * 2 ^ 21 + n
  let w3 := b2n v.streamV * 2 ^ 31 + min v.port 0x1FF * 2 ^ 20 + v.stream
  natLE 4 w2 ++ natLE 4 w3 ++ natLE 4 (nsOf t) ++ natLE 4 (secOf t) ++ natLE 4 (secOf t / 2 ^ 32) ++ natLE 4 total

/-- Write a frame's pieces and descriptors from ring index `k`; `addrs` are the buffers. -/
def State.rxWrite (s : State) (r : Nat) (c : Copy) (v : Desc) (total size : Nat) : Nat → List (BitVec 64) → List Byte → State
  | _, [], _ => s
  | k, a :: rest, f =>
    let piece := f.take size
    let s1 := s.hostPut a.toNat piece
    let s2 := s1.hostPut (s.ringDesc (16 + r) (s.fld (pgRx r) Reg.RXRING.HEAD + k) + 8)
      (s.rxWords c v total piece.length (k == 0) rest.isEmpty)
    s2.rxWrite r c v total size (k + 1) rest (f.drop size)

/-- A CPU queue's oldest copy leaves and its frame's holder settles. -/
def State.rxLeave (s : State) (r b : Nat) (c : Copy) : State :=
  (s.popHead (qkey b (512 + r))).settleUnit (8 + b) c.bench c.desc

/-- RX_FRAME_WRITE: a receive ring writes its next frame to the buffers `addrs` that its descriptors name. -/
def rxFrameWrite (r : Fin 16) (addrs : List (BitVec 64)) (s : State) : State :=
  match s.rxTurn r with
  | none => s
  | some (b, c) =>
    let f := s.rxBytes c
    let n := ceilDiv f.length (s.rxBuf r)
    if s.ringRuns (16 + r) && decide (n ≤ s.owned (16 + r)) && addrs.length == n then
      let v := (s.descAt c.bench c.desc).getD {}
      let s1 := s.rxWrite r c v f.length (s.rxBuf r) 0 addrs f
      let s2 := (s1.bump (pgRx r) Reg.RXRING.FRAMES).headPast (16 + r) n
      let s3 := (s2.onRing (16 + r) fun x => { x with last := b }).forwarded (benchTeam b) f.length
      s3.rxLeave r b c
    else s
def execRxFrameWrite (r : Fin 16) (addrs : List (BitVec 64)) (s : State) : Host.Outcome State Fault Refusal :=
  finish (rxFrameWrite r addrs s)

/-- IRQ_COALESCE_END: COAL µs have passed since the ring's message (R532). -/
def irqCoalesceEnd (i : Fin 32) (s : State) : State :=
  let k := s.ringAt i
  if k.cooling then
    (s.onRing i fun r => { r with cooling := false, waiting := false }).ifDo k.waiting
      (·.setFld (ringPage i) Reg.TXRING.STAT_IRQ 1)
  else s
def execIrqCoalesceEnd (i : Fin 32) (s : State) : Host.Outcome State Fault Refusal := finish (irqCoalesceEnd i s)

/-! ### Enable, disable, errors (R533) -/

/-- A write of a ring's CFG: EN from 0 to 1 zeroes HEAD and TAIL and restarts the ring, whose held descriptors complete apart from
it (log 285). -/
def State.ringCfg (s : State) (i : Nat) (v : W32) : State :=
  let p := ringPage i
  let was := s.flag p Reg.TXRING.CFG_EN
  let s1 := s.plainWrite p Reg.TXRING.CFG.off 0 v
  if !was && bit v.toNat 31 then
    (((s1.setFld p Reg.TXRING.HEAD 0).setFld p Reg.TXRING.TAIL 0).setFld p Reg.TXRING.STAT_STOPPED 0).eachTake fun t =>
      if t.ring = i then { t with fresh := false } else t
  else s1

/-- RING_ENABLE: a write of CFG with EN = 1. -/
def ringEnable (i : Fin 32) (v : BitVec 31) (s : State) : State :=
  s.bar2 fun s => s.ringCfg i (BitVec.ofNat 32 (2 ^ 31 + v.toNat))
def execRingEnable (i : Fin 32) (v : BitVec 31) (s : State) : Host.Outcome State Fault Refusal := finish (ringEnable i v s)
/-- RING_DISABLE: a write of CFG with EN = 0. -/
def ringDisable (i : Fin 32) (v : BitVec 31) (s : State) : State :=
  s.bar2 fun s => s.ringCfg i (BitVec.ofNat 32 v.toNat)
def execRingDisable (i : Fin 32) (v : BitVec 31) (s : State) : Host.Outcome State Fault Refusal := finish (ringDisable i v s)

/-- A receive ring's frame in writing is discarded (R533). -/
def State.dmaDrop (s : State) (r : Nat) : State :=
  match s.rxTurn r with
  | none => s
  | some (b, c) =>
    ((s.bump (pgRx r) Reg.RXRING.DROPS).onRing (16 + r) fun x => { x with last := b }).rxLeave r b c

/-- RING_DMA_ERROR: an access for descriptor HEAD + `k` failed, for a transmit ring the descriptor it holds if it holds one;
`wrote` says that a transmit descriptor's word 4 still reached host memory. -/
def ringDmaError (i : Fin 32) (k : BitVec 16) (wrote : Bool) (s : State) : State :=
  let p := ringPage i
  let at_ := if i < 16 then s.fld p Reg.TXRING.HEAD else s.fld p Reg.TXRING.HEAD + k.toNat
  let held := s.takesOf i
  if s.ringRuns i && s.owned i != 0 || s.dmaUp && !held.isEmpty then
    let s1 := match held with
      | t :: _ => (s.takeDone t 3 wrote).eachTake fun x => if x = t then { x with gone := true } else x
      | [] => if i < 16 then (if wrote then s.txDone i 3 else s.headPast i 1) else s.dmaDrop (i - 16)
    ((s1.setFld p Reg.TXRING.STAT_STOPPED 1).setFld p Reg.TXRING.STAT_STOP_IDX at_).raise pgHost 3
  else s
def execRingDmaError (i : Fin 32) (k : BitVec 16) (wrote : Bool) (s : State) : Host.Outcome State Fault Refusal :=
  finish (ringDmaError i k wrote s)

end Sys2Proof.Machine
end

