-- ==== Sys2Proof/Machine/Host.lean ====
section
/-! DEFINITION. Counters and snapshots (R519 to R522), interrupts (R517, R523 to R526), the endpoint (R479, R510), and the
pins of the HOST page (R537, R562). -/

namespace Sys2Proof.Machine

/-! ### The identity in configuration space (R511) -/

/-- What configuration space reports of the device (R511): vendor and device, revision, class code, subsystem vendor and
subsystem, and the Device Serial Number. -/
structure PcieId where
  vendor : Nat
  device : Nat
  revision : Nat
  classCode : Nat
  subVendor : Nat
  subsystem : Nat
  serial : Nat
  deriving DecidableEq, Repr

/-- The identity of this device (R6, R511): its serial number is IDENT's. It is fixed: no command changes it, and the
opcode table has no row that reads configuration space. -/
def State.pcieIdentity (s : State) : PcieId :=
  { vendor := 0x1F4C, device := 0x5120, revision := 0xB0, classCode := 0x020000,
    subVendor := 0x1F4C, subsystem := 0,
    serial := s.fld pgIdent Reg.IDENT.SERIAL_HI * 2 ^ 32 + s.fld pgIdent Reg.IDENT.SERIAL_LO }

/-! ### Counters (R519, R520) -/

/-- The window index of a row at an offset, 0 where it has none; none where the index register is beyond the window. -/
def State.winIndex (s : State) (p off : Nat) : Option Nat :=
  match winOf p off with
  | none => some 0
  | some (r, m) => let i := (s.rd p r).toNat; if i ≤ m then some i else none

/-- A counter as it reads: live, or its snapshot while SNAP_READ = 1 (R520, R521). -/
def State.counterNow (s : State) (p off w : Nat) (direct : Bool) : Nat × State :=
  if direct && s.flag p Reg.COMMON.SNAP_READ then
    if s.flag p Reg.COMMON.SNAP_VALID then ((Tab.get zeroCtr s.snaps (rkey p off w)).toNat, s) else s.free 64
  else ((s.ctr p off w).toNat, s)

/-- The latch of a page and path. -/
def latchKey (path : Path) (p : Nat) : Nat := 2 * p + (match path with | .pcie => 0 | .i2c => 1)

/-- A read of a counter's low word (R519). -/
def State.counterLow (s : State) (path : Path) (p off w : Nat) (direct : Bool) : W32 × State :=
  let (v, s1) := s.counterNow p off w direct
  (BitVec.ofNat 32 v,
    { s1 with clatch := Tab.set (fun _ => none) s1.clatch (latchKey path p) (some (rkey p off w, BitVec.ofNat 32 (v / 2 ^ 32))) })

/-- A read of a counter's high word (R519). -/
def State.counterHigh (s : State) (path : Path) (p off w : Nat) (direct : Bool) : W32 × State :=
  match Tab.get (fun _ => none) s.clatch (latchKey path p) with
  | some (k, h) =>
    if k = rkey p off w then (h, s)
    else let (v, s1) := s.counterNow p off w direct; (BitVec.ofNat 32 (v / 2 ^ 32), s1)
  | none => let (v, s1) := s.counterNow p off w direct; (BitVec.ofNat 32 (v / 2 ^ 32), s1)

/-- A read at an offset that holds a counter: its low or its high word; none where no counter lies there. -/
def State.counterRead (s : State) (path : Path) (p off : Nat) : Option (W32 × State) :=
  match rowAt p off with
  | none => none
  | some (r, i) =>
    if !r.cnt then none
    else match s.winIndex p off with
    | none => some (0, s)
    | some w =>
      let base := r.off + i * r.stride
      some (if off = base then s.counterLow path p base w r.direct else s.counterHigh path p base w r.direct)

/-- The pages that the I2C target reaches (R536). -/
def i2cPage (p : Nat) : Bool := decide (p ≤ 0x500) && (pageKind p).isSome

/-- A read over a path: PCIe reaches every page and BAR2, I2C the pages of R536. -/
def State.pathRead (s : State) (path : Path) (p off : Nat) (f : State → W32 × State) (asleep : W32 := 0) : State :=
  match path with
  | .pcie =>
    if p < 0x4000 then s.wordRead p off f asleep
    else if s.pcie.d3 || s.hostGone || !s.domSteady domHost then { s with resp := [0xFFFFFFFF] }
    else State.respond (f s)
  | .i2c =>
    if s.hostGone then s
    else if i2cPage p then State.respond (s.fromPage p f asleep)
    else { ((s.bump pgHost Reg.HOST.I2C_DENIED).raise pgHost 2) with resp := [0xFFFFFFFF] }

/-- A read of UCNT_LO: the counter that UCNT_IDX names. -/
def State.ucntLow (s : State) (path : Path) (b : Nat) : W32 × State :=
  s.counterLow path (pgMarver b) Reg.MARVER.UCNT (s.fld (pgMarver b) Reg.MARVER.UCNT_IDX) false
/-- UCNT_LO_READ: a read of a bench's UCNT_LO, which latches UCNT_HI (R147). -/
def ucntLoRead (b : BenchId) (s : State) : State := s.wordRead (pgMarver b) 0x284 fun s => s.ucntLow .pcie b
def execUcntLoRead (b : BenchId) (s : State) : Host.Outcome State Fault Refusal := finish (ucntLoRead b s)

/-- A read of BRDROP_LO: the counter that BRDROP_IDX names. -/
def State.brdropLow (s : State) (path : Path) (t : Nat) : W32 × State :=
  s.counterLow path (pgCore (4 * t)) Reg.CORE.BRDROP (s.fld (pgCore (4 * t)) Reg.CORE.BRDROP_IDX) false
/-- BRDROP_LO_READ: a read of a team's BRDROP_LO, which latches BRDROP_HI (R298). -/
def brdropLoRead (t : Team) (s : State) : State :=
  s.wordRead (pgCore (4 * teamNo t)) 0x10C fun s => s.brdropLow .pcie (teamNo t)
def execBrdropLoRead (t : Team) (s : State) : Host.Outcome State Fault Refusal := finish (brdropLoRead t s)

/-- The page, register and current quantity of a register that records an extreme (R13). -/
def State.extreme (s : State) : Extreme → Nat × Fld × Nat
  | .btickMaxLag b => (pgTime, Reg.TIME.BTICK_MAXLAG b, min 0xFFFF (s.tickAt b).lag)
  | .poolMin b i => (pgBuf b, ⟨0x090 + 4 * i, 16, 0⟩, s.poolFree b i)
  | .qeMin b => (pgCore b, Reg.CORE.QE_MIN, s.qeFree b)
  | .cdescMax t => (pgHalf (teamNo t), Reg.CRUCH.CDESC_MAX, s.cdescUsed (teamNo t))

/-- A read of such a register: the extreme; it restarts from the current value. -/
def State.extremeRead (s : State) (x : Extreme) : W32 × State :=
  let (p, f, now) := s.extreme x
  (s.rd p f.off, s.setFld p f now)

/-- RC_EXTREME_READ. -/
def rcExtremeRead (x : Extreme) (s : State) : State :=
  s.wordRead (s.extreme x).1 (s.extreme x).2.1.off fun s => s.extremeRead x
def execRcExtremeRead (x : Extreme) (s : State) : Host.Outcome State Fault Refusal := finish (rcExtremeRead x s)

/-! ### Snapshots (R521, R522) -/

/-- A snapshot or a clear of a page is accepted in this grid tick. -/
def State.snapAccept (s : State) (p : Nat) (snap clear : Bool) : State :=
  if snap || clear then { s with hub := { s.hub with snaps := s.hub.snaps ++ [(p, s.gridTick, snap, clear)] } } else s

/-- A write of PAGE_CTRL (R516). -/
def State.pageCtrl (s : State) (p : Nat) (v : W32) : State :=
  (s.wr p 0x008 (v &&& 0xBF000100)).snapAccept p (bit v.toNat 0) (bit v.toNat 1)

/-- PAGE_SNAP: a write of PAGE_CTRL with SNAP = 1. -/
def pageSnap (p : Fin 16384) (v : W32) (s : State) : State :=
  if (pageKind p).isSome then s.wordWrite p 0x008 (v ||| 1) fun s => s.pageCtrl p (v ||| 1) else s
def execPageSnap (p : Fin 16384) (v : W32) (s : State) : Host.Outcome State Fault Refusal := finish (pageSnap p v s)
/-- PAGE_COUNTER_CLEAR: a write of PAGE_CTRL with CNT_CLR = 1. -/
def pageCounterClear (p : Fin 16384) (v : W32) (s : State) : State :=
  if (pageKind p).isSome then s.wordWrite p 0x008 (v ||| 2) fun s => s.pageCtrl p (v ||| 2) else s
def execPageCounterClear (p : Fin 16384) (v : W32) (s : State) : Host.Outcome State Fault Refusal :=
  finish (pageCounterClear p v s)

/-- A write of HOST.SNAP with REQ = 1: every page whose hub answers takes it as if SNAP had been written on it (R522). -/
def State.snapAll (s : State) : State :=
  let s1 := s.acceptWrite { kind := .snap, page := pgHost }
  s1.each (allPages.filter fun p => s.pageUp p && !s.pageLost p) fun s p =>
    if s.domSteady (pageDomain p) then s.snapAccept p true false else s.downWrite

/-- DEVICE_SNAP. -/
def deviceSnap (s : State) : State := s.hostWrite pgHost State.snapAll
def execDeviceSnap (s : State) : Host.Outcome State Fault Refusal := finish (deviceSnap s)

/-- Keys of a page's direct counters that are not 0. -/
def State.directKeys (s : State) (p : Nat) : List Nat :=
  (s.ctrs.map Prod.fst).filter fun k => k / 4096 / 1024 == p &&
    (match rowAt p (k / 4096 % 1024 * 4) with
      | some (r, _) => r.direct
      | none => false)

/-- One page's snapshot and clear at its edge (R521): the snapshot first. -/
def State.snapPage (s : State) (r : Nat × Nat × Bool × Bool) : State :=
  let (p, n, snap, clear) := r
  if 2 < (s.domAt (pageDomain p)).st then s
  else
    let ks := s.directKeys p
    let s1 := if snap then
        let held := (s.snaps.clear fun k => k / 4096 / 1024 == p)
        let t := ks.foldl (fun t k => Tab.set zeroCtr t k (Tab.get zeroCtr s.ctrs k)) held
        ({ s with snaps := t }.setFld p Reg.COMMON.SNAP_VALID 1).setFld p Reg.COMMON.SNAP_TICK (n % 65536)
      else s
    if clear then { s1 with ctrs := s1.ctrs.clear fun k => ks.contains k } else s1

/-- The snapshots and clears of pages that meet `f`, of ticks up to `n`, commit. -/
def State.snapCommit (s : State) (f : Nat → Bool) (n : Nat) : State :=
  let due (r : Nat × Nat × Bool × Bool) : Bool := f r.1 && decide (r.2.1 ≤ n)
  let l := s.hub.snaps.filter due
  { s with hub := { s.hub with snaps := s.hub.snaps.filter fun r => !due r } }.each l State.snapPage

/-- A page of a bench, which commits at the bench's local edges (R521). -/
def benchPage (b p : Nat) : Bool := decide (0xA ≤ p / 256 ∧ p / 256 ≤ 0x12) && p % 256 == b

/-! ### Interrupts (R517, R524) -/

/-- A write of INT_FORCE. -/
def State.intForce (s : State) (p : Nat) (v : W32) : State :=
  s.wr p 0x010 (s.rd p 0x010 ||| (v &&& BitVec.ofNat 32 (pageCauses p)))

/-- INT_FORCE_WRITE. -/
def intForceWrite (p : Fin 16384) (v : W32) (s : State) : State :=
  if (pageKind p).isSome then s.wordWrite p 0x018 v fun s => s.intForce p v else s
def execIntForceWrite (p : Fin 16384) (v : W32) (s : State) : Host.Outcome State Fault Refusal := finish (intForceWrite p v s)

/-- A write of VEC_EOI: an active vector sends a new message. -/
def State.vecEoi (s : State) (v : Nat) : State := if bit s.irq.active.toNat v then s.message v else s

/-- VEC_EOI. -/
def vecEoi (v : Fin 64) (s : State) : State := s.hostWrite pgHost fun s => s.vecEoi v
def execVecEoi (v : Fin 64) (s : State) : Host.Outcome State Fault Refusal := finish (vecEoi v s)

/-- Vectors whose message waited are sent where nothing holds them any more (R524). -/
def State.sendHeld (s : State) (l : List Nat) : State :=
  s.each (l.filter fun v => bit s.irq.pba.toNat v) State.message

/-- A write of a vector's mask, MSI-X Enable or the function mask. -/
def State.vectorMask (s : State) (v : Nat) (on : Bool) : State :=
  let s1 := s.setFld pgMsix (Reg.MSIX.VCTL_MASK v) (b2n on)
  if s.flag pgMsix (Reg.MSIX.VCTL_MASK v) && !on then s1.sendHeld [v] else s1
def State.setMsix (s : State) (on : Bool) : State :=
  let s1 := { s with pcie := { s.pcie with msix := on } }
  if !s.pcie.msix && on then s1.sendHeld (List.range 64) else s1
def State.setFmask (s : State) (on : Bool) : State :=
  let s1 := { s with pcie := { s.pcie with fmask := on } }
  if s.pcie.fmask && !on then s1.sendHeld (List.range 64) else s1

/-- MSIX_UNMASK. Configuration requests are served in D3hot too (R510). -/
def msixUnmask (u : Unmask) (s : State) : State :=
  match u with
  | .vector v => s.bar2 fun s => s.vectorMask v false
  | .function => if s.hostGone then s else s.setFmask false
  | .enable => if s.hostGone then s else s.setMsix true
def execMsixUnmask (u : Unmask) (s : State) : Host.Outcome State Fault Refusal := finish (msixUnmask u s)

/-! ### The lehr's withholding (R518) -/

/-- Every register word of a page that has a ·L field, with its window index. -/
def lehrWords (p : Nat) : List (Nat × Nat) :=
  match pageKind p with
  | none => []
  | some k => (k.rows.filter fun r => r.lehr != 0 && scopeHas p r.scope).flatMap fun r =>
      (List.range r.count).flatMap fun i => match r.win with
        | none => [(r.off + i * r.stride, 0)]
        | some (_, m) => (List.range (m + 1)).map fun w => (r.off + i * r.stride, w)

/-- A write of LEHR_CTRL: WITHHOLD going from 1 to 0 writes the page's ·L values through. -/
def State.lehrCtrl (s : State) (p : Nat) (v : W32) : State :=
  let was := s.flag p Reg.COMMON.WITHHOLD
  let on := bit v.toNat 31
  let s1 := s.setFld p Reg.COMMON.WITHHOLD (b2n on)
  if was && !on then s1.each (lehrWords p) fun s x => s.through p x.1 x.2 else s1

/-- WITHHOLD_RELEASE: a write of LEHR_CTRL with WITHHOLD = 0. -/
def withholdRelease (p : Fin 16384) (s : State) : State :=
  if (pageKind p).isSome then s.wordWrite p 0x01C 0 fun s => s.lehrCtrl p 0 else s
def execWithholdRelease (p : Fin 16384) (s : State) : Host.Outcome State Fault Refusal := finish (withholdRelease p s)

/-! ### Hubs, the endpoint, pins -/

/-- HUB_TIMEOUT: team hub `t` gives no answer to an access; `stays` says that it is faulty from now on, or answers the
next (R32, R526). -/
def hubTimeout (t : Team) (write stays : Bool) (s : State) : State :=
  let k := teamNo t
  let f := s.hub.faulty.filter fun x => x != k
  let s1 := (if s.pcie.d3 || s.hostGone then s else s.hubMissing k write)
  { s1 with hub := { s1.hub with faulty := if stays then k :: f else f },
            resp := if write || s.pcie.d3 || s.hostGone then s1.resp else [0xFFFFFFFF] }
def execHubTimeout (t : Team) (write stays : Bool) (s : State) : Host.Outcome State Fault Refusal :=
  finish (hubTimeout t write stays s)

/-- HOST_INTERFACE_RESET: the endpoint and its rings reset (R479, R533), and every job queue is disabled (R399); `writing` are
the receive rings that were writing a frame, and the link then trains to a speed code and width. -/
def hostInterfaceReset (writing : List (Fin 16)) (speed width : Fin 5) (s : State) : State :=
  if s.hostGone then s
  else
    let s1 := s.each ((writing.map fun r => r.val).filter fun r => s.ringRuns (16 + r)) fun s r => s.dmaDrop r
    let s2 := s1.clearPages fun p => decide (0x4000 ≤ p)
    let s3 := { s2 with pcie := {}, ring := s2.ring.clear fun k => decide (k < 32), irq := { s2.irq with pba := 0 } }
    let s3 := s3.each (List.range 64) fun s k => s.setFld (pgCiph (k / 16)) (Reg.CIPH.JQ_CFG_EN (k % 16)) 0
    let s3 := s3.dropTakes
    let s4 := (s3.setFld pgHost Reg.HOST.HSTAT_LINK_SPEED speed).setFld pgHost Reg.HOST.HSTAT_LINK_WIDTH width
    s4.bump pgBoot Reg.BOOT.HIF_RESETS
def execHostInterfaceReset (writing : List (Fin 16)) (speed width : Fin 5) (s : State) : Host.Outcome State Fault Refusal :=
  finish (hostInterfaceReset writing speed width s)

/-- PCI_POWER_STATE: the function enters D3hot or returns to D0 (R510). -/
def pciPowerState (d3 : Bool) (s : State) : State := if s.hostGone then s else { s with pcie := { s.pcie with d3 := d3 } }
def execPciPowerState (d3 : Bool) (s : State) : Host.Outcome State Fault Refusal := finish (pciPowerState d3 s)

/-- The GPIO pins that are outputs: none before forwarding begins (R504, R537). -/
def State.gpioDir (s : State) : Nat := if s.boot.forwards then s.fld pgHost ⟨0x0C0, 7, 0⟩ else 0
/-- The levels of the GPIO pins (R537). -/
def State.gpioIn (s : State) : Nat :=
  let dir := s.gpioDir
  (s.fld pgHost ⟨0x0C4, 7, 0⟩ &&& dir) ||| (s.pins.gpio &&& (0xFF ^^^ dir))

/-- GPIO_EDGE: a GPIO pin is driven to a level from outside (R537). -/
def gpioEdge (n : Fin 8) (level : Bool) (s : State) : State :=
  if bit s.pins.gpio n = level then s
  else
    let s1 := { s with pins := { s.pins with gpio := s.pins.gpio ^^^ 2 ^ n.val } }
    let sel := s.fld pgHost ⟨0x0CC, 2 * n + 1, 2 * n⟩
    let input := !bit s.gpioDir n
    s1.ifDo (input && bit sel (if level then 0 else 1) && !s.hostGone) (·.raise pgHost (8 + n))
def execGpioEdge (n : Fin 8) (level : Bool) (s : State) : Host.Outcome State Fault Refusal := finish (gpioEdge n level s)

/-- THERMAL_TRIP: a sensor reads 115 °C or more. -/
def thermalTrip (r : Readings) (s : State) : State := s.sense r
def execThermalTrip (r : Readings) (s : State) : Host.Outcome State Fault Refusal := finish (thermalTrip r s)
/-- THERMAL_TRIP_RELEASE: every sensor reads 105 °C or less. -/
def thermalTripRelease (a b c : BitVec 8) (s : State) : State := s.sense { a := a, b := b, aon := c }
def execThermalTripRelease (a b c : BitVec 8) (s : State) : Host.Outcome State Fault Refusal :=
  finish (thermalTripRelease a b c s)

end Sys2Proof.Machine
end

