-- ==== Sys2Proof/Machine/RegWrite.lean ====
section
/-! DEFINITION. A write of any register by page and offset (R12, R27, R513). Registers whose write does more than
store are sent to their own operation. -/

namespace Sys2Proof.Machine

/-! ### Writes, page kind by page kind -/

/-- A register with nothing but access bits, through its window if it has one (R12, R15). -/
def State.storeWrite (s : State) (p off : Nat) (v : W32) : State :=
  match s.winIndex p off with
  | some w => s.plainWrite p off w v
  | none => s

/-- BOOT (R506). `ok` stands for what a flash READ finds. -/
def State.writeBoot (s : State) (off : Nat) (v : W32) : State :=
  match off with
  | 0x04C => s.bcfgWrite v
  | 0x050 => s.bootCmdWrite v
  | 0x084 => let (x, s1) := s.free 1; s1.flCmdWrite v (x == 1)
  | _ => s.storeWrite pgBoot off v

/-- TIME (R73). -/
def State.writeTime (s : State) (off : Nat) (v : W32) : State :=
  match off with
  | 0x040 => s.timeCtrlWrite v
  | 0x048 => s.freqAdjWrite v
  | 0x04C => s.timeAdjustCmd v
  | 0x05C => if bit v.toNat 0 then s.timeSetCmd else s
  | 0x098 | 0x09C => (s.storeWrite pgTime off v).rclkTrack
  | _ => s.storeWrite pgTime off v

/-- The device page (R474). -/
def State.writeDev (s : State) (off : Nat) (v : W32) : State :=
  match off with
  | 0x044 => s.devCmdWrite v
  | 0x050 => s.wakeCmdWrite v
  | 0x084 => s.dctrlWrite v
  | _ => s.storeWrite pgDev off v

/-- LEHR (R477). -/
def State.writeLehr (s : State) (off : Nat) (v : W32) : State :=
  if off = 0x040 then s.lctrlWrite v
  else if 0x800 ≤ off ∧ off < 0x900 then s.lwinWrite ((off - 0x800) / 4) v
  else s.storeWrite pgLehr off v

/-- PORT (R104): `i` is the page. -/
def State.writePort (s : State) (g off : Nat) (v : W32) : State :=
  let port := groupPort g ((off - 0x100) / 0x40)
  let o := (off - 0x100) % 0x40
  if 0x100 ≤ off ∧ off < 0x500 ∧ o = 0x00 then s.pcfgWrite port v
  else if 0x100 ≤ off ∧ off < 0x500 ∧ o = (Reg.PORT.MMCFG 0).off - 0x100 then s.mmcfgWrite port v
  else if off = Reg.PORT.MDIO_CMD.off ∧ g % 8 = 0 then s.mdioCmdWrite (g / 8) v
  else s.storeWrite (pgPort g) off v

/-- SERDES (R107). -/
def State.writeSerdes (s : State) (q off : Nat) (v : W32) : State :=
  let i := (off - 0x100) / 0x40
  let o := (off - 0x100) % 0x40
  if off = 0x040 then s.rateWrite q (bits v.toNat Reg.SERDES.QCFG_RATE.hi Reg.SERDES.QCFG_RATE.lo)
  else if 0x100 ≤ off ∧ i < 4 ∧ o = 0 then s.lcfgWrite q i v
  else if 0x100 ≤ off ∧ i < 4 ∧ o = (Reg.SERDES.PRBS 0).off - 0x100 then s.prbsWrite q i v
  else s.storeWrite (pgSerdes q) off v

/-- CLS (R185): team registers on pages 0 and 4. -/
def State.writeCls (s : State) (b off : Nat) (v : W32) : State :=
  let p := pgCls b
  let team := b % 4 == 0
  let seed (base : Nat) (k : HKind) : State := s.seedWrite b k ((off - base) / 4) v
  if team ∧ off = Reg.CLS.SWAP.off then
    if bit v.toNat Reg.CLS.SWAP_REQ.lo then s.swapRequest (b / 4) (bit v.toNat Reg.CLS.SWAP_COPY.lo) else s
  else if team ∧ 0x090 ≤ off ∧ off < 0x0A0 then seed 0x090 (.bank 0)
  else if team ∧ 0x0A0 ≤ off ∧ off < 0x0B0 then seed 0x0A0 (.bank 1)
  else if team ∧ 0x0B0 ≤ off ∧ off < 0x0C0 then seed 0x0B0 .route
  else if team ∧ (Reg.CLS.RTCLASS 0).off ≤ off ∧ off < (Reg.CLS.RTCLASS 0).off + 64 then
    s.rtclassWrite (b / 4) ((off - (Reg.CLS.RTCLASS 0).off) / 4) v
  else if off = Reg.CLS.TW_CMD.off ∧ (rowAt p off).isSome then s.twCmd p v.toNat
  else s.storeWrite p off v

/-- FDB (R223). -/
def State.writeFdb (s : State) (b off : Nat) (v : W32) : State :=
  let p := pgFdb b
  if off = Reg.FDB.LCFG.off then s.lcfgFdbWrite b v
  else if off = Reg.FDB.AGECFG.off then s.agecfgWrite b v
  else if 0x050 ≤ off ∧ off < 0x060 then s.seedWrite b .mac ((off - 0x050) / 4) v
  else if off = Reg.FDB.TW_CMD.off ∧ (rowAt p off).isSome then s.twCmd p v.toNat
  else if off = Reg.FDB.SRCH_CMD.off ∧ (rowAt p off).isSome then s.srchCmd p v.toNat
  else s.storeWrite p off v

/-- STRM (R226, R362). -/
def State.writeStrm (s : State) (b off : Nat) (v : W32) : State :=
  let p := pgStrm b
  let team := b % 4 == 0
  let slot := (List.range 32).find? fun k => off == (Reg.STRM.WCFG k).off || off == (Reg.STRM.LEDCFG k).off
  match slot with
  | some k => if team then s.watchCfgWrite (b / 4) k off v else s.storeWrite p off v
  | none =>
    if team ∧ 0x050 ≤ off ∧ off < 0x060 then s.seedWrite b .sid ((off - 0x050) / 4) v
    else if off = Reg.STRM.TW_CMD.off ∧ (rowAt p off).isSome then s.twCmd p v.toNat
    else if off = Reg.STRM.SQ_CMD.off ∧ (rowAt p off).isSome then s.sqCmd p v.toNat
    else s.storeWrite p off v

/-- BUF (R263). A RECLAIM's finding of its chain's reads is a free value here. -/
def State.writeBuf (s : State) (b off : Nat) (v : W32) : State :=
  let p := pgBuf b
  if off = Reg.BUF.BUFCTL.off then if bit v.toNat Reg.BUF.BUFCTL_START.lo then s.poolStart b else s
  else if 0x050 ≤ off ∧ off < 0x060 then if s.bufReady b then s.cfgIgnored b else s.storeWrite p off v
  else if off = Reg.BUF.OWN_RES.off then s.ownResWrite b (s.fld p Reg.BUF.OWN_IDX) (v.toNat % 2 ^ 18)
  else if off = Reg.BUF.OWN_DESC.off then s.ownDescWrite b (s.fld p Reg.BUF.OWN_IDX) v
  else if off = Reg.BUF.BCMD.off then let (x, s1) := s.free 1; s1.bcmdWrite b v.toNat (x == 1)
  else if off = Reg.BUF.DFREE_LOGCTL.off then if bit v.toNat Reg.BUF.DFREE_LOGCTL_CLR.lo then s.dfreeClear b else s
  else if (Reg.BUF.BWIN_DATA 0).off ≤ off ∧ (rowAt p off).map Prod.fst = (rowAt p (Reg.BUF.BWIN_DATA 0).off).map Prod.fst then
    s.bwinWrite b ((off - (Reg.BUF.BWIN_DATA 0).off) / 4) v
  else s.storeWrite p off v

/-- CORE (R298): SPILL_EN ignores writes on CPU queues; colour 3 of a WRED profile is reserved but for ECN_TH's word. -/
def State.writeCore (s : State) (b off : Nat) (v : W32) : State :=
  let p := pgCore b
  if off = Reg.CORE.QCFG.off ∧ 511 < s.fld p Reg.CORE.QIDX_QUEUE then s.storeWrite p off (v &&& 0x7FFFFFFF)
  else if off = Reg.CORE.WCFG0.off ∧ s.fld p Reg.CORE.WIDX_COLOUR = 3 then s.storeWrite p off (v &&& 0xF)
  else if (off = Reg.CORE.WCFG1.off ∨ off = Reg.CORE.WCFG2.off) ∧ s.fld p Reg.CORE.WIDX_COLOUR = 3 then s
  else s.storeWrite p off v

/-- GATE (R340): a gated unit plans again when GATE_EN is cleared or a change is requested (R461). -/
def State.writeGate (s : State) (b off : Nat) (v : W32) : State :=
  let port := s.gatePort b
  match off with
  | 0x044 => ((s.gctrlWrite port v).ifDo (bit v.toNat 30 || !bit v.toNat 31) (·.sagPlanPort port)).gateFollow port
  | 0x108 => s.gclHiWrite port v
  | _ => s.storeWrite (pgGate b) off v

/-- CIPH (R399, R400): TW_KEY keeps what is written until its command is final, though it reads 0. -/
def State.writeCiph (s : State) (c off : Nat) (v : W32) : State :=
  let p := pgCiph c
  let q := (off - 0x400) / 0x40
  let o := (off - 0x400) % 0x40
  if off = Reg.CIPH.CCTRL.off then s.cctrl c v
  else if off = Reg.CIPH.TW_CMD.off then s.twCmd p v.toNat
  else if 0x200 ≤ off ∧ off < 0x238 then s.wr p off v
  else if 0x400 ≤ off ∧ q < 16 ∧ o = 0x08 then s.jqCfg c q v
  else if 0x400 ≤ off ∧ q < 16 ∧ o = 0x0C then s.jqTail c q v
  else s.storeWrite p off v

/-- CRUC channel page (R404, R432): CH_CFG takes a write only while the channel is OFF or TRAINING. -/
def State.writeChan (s : State) (c off : Nat) (v : W32) : State :=
  let p := pgChan c
  match off with
  | 0x044 => if s.chState c ≤ 1 then s.storeWrite p off v else s.raise p 5
  | 0x04C => s.chCmdWrite c v
  | _ => s.storeWrite p off v

/-- A ring block or the MSI-X table in BAR2 (R512, R534). -/
def State.writeBar2 (s : State) (p off : Nat) (v : W32) : State :=
  if p < 0x4020 then
    if off = Reg.TXRING.CFG.off then s.ringCfg (p - 0x4000) v else s.storeWrite p off v
  else if p = 0x4020 ∧ off % 16 = 12 ∧ off < 0x400 then s.vectorMask (off / 16) (bit v.toNat 0)
  else s.storeWrite p off v

/-- The common registers of a page (R516 to R518). -/
def State.writeCommon (s : State) (p off : Nat) (v : W32) : State :=
  match off with
  | 0x008 => s.pageCtrl p v
  | 0x010 => s.wr p off (s.rd p off &&& ~~~ v)
  | 0x014 => s.wr p off (v &&& BitVec.ofNat 32 (pageCauses p))
  | 0x018 => s.intForce p v
  | 0x01C => s.lehrCtrl p v
  | _ => s

/-- A write of a word of a page that answers. -/
def State.writeWord (s : State) (p off : Nat) (v : W32) : State :=
  if off < 0x20 then s.writeCommon p off v
  else
    let i := p % 256
    match pageKind p with
    | none => s
    | some .host =>
      if off = Reg.HOST.SNAP.off then (if bit v.toNat 31 then s.snapAll else s)
      else if off = Reg.HOST.VEC_EOI.off then s.vecEoi (v.toNat % 64)
      else s.storeWrite p off v
    | some .boot => s.writeBoot off v
    | some .time => s.writeTime off v
    | some .pwrd => s.writeDev off v
    | some .pwrt => (s.storeWrite p off v).ifDo (decide (off < 0x080)) State.sagPlanAll
    | some .lehr => s.writeLehr off v
    | some .mirr => s.mirrWrite off v
    | some .port => s.writePort i off v
    | some .serdes => s.writeSerdes i off v
    | some .cls => s.writeCls i off v
    | some .fdb => s.writeFdb i off v
    | some .strm => s.writeStrm i off v
    | some .buf => s.writeBuf i off v
    | some .core => s.writeCore i off v
    | some .gate => s.writeGate i off v
    | some .meter => if off = Reg.METER.TW_CMD.off then s.twCmd p v.toNat else s.storeWrite p off v
    | some .ciph => s.writeCiph i off v
    | some .crucc => s.writeChan i off v
    | some .cruch => if off = Reg.CRUCH.IMG_CTRL.off then s.imgCtrlWrite (i - 0x80) v else s.storeWrite p off v
    | some .crucp => if off = Reg.CRUCP.FREQ_CTRL.off then s.freqCtrlWrite v else s.storeWrite p off v
    | some _ => s.storeWrite p off v

/-! ### REGISTER_WRITE (R12, R28, R513) -/

/-- A page of BAR0 that no page number has ignores writes (R28). -/
def State.busWrite (s : State) (p off : Nat) (v : W32) : State :=
  if 0x4000 ≤ p then s.bar2 fun s => s.writeBar2 p off v
  else if (pageKind p).isSome then s.wordWrite p off v fun s => s.writeWord p off v
  else s

/-- REGISTER_WRITE: one aligned word of a PCIe write; `whole` is false where its TLP has byte enables other than all ones
or more than 16 words (R513). -/
def registerWrite (a : Place) (v : W32) (whole : Bool) (s : State) : State :=
  if s.hostGone then s
  else match a with
  | .word p w =>
    if s.pcie.d3 then s
    else if whole then s.busWrite p (4 * w) v
    else (s.bump pgHost Reg.HOST.BAD_ACCESS).raise pgHost 1
  | .busMaster => { s with pcie := { s.pcie with bme := bit v.toNat 0 } }
  | .msixEnable => s.setMsix (bit v.toNat 0)
  | .functionMask => s.setFmask (bit v.toNat 0)
def execRegisterWrite (a : Place) (v : W32) (whole : Bool) (s : State) : Host.Outcome State Fault Refusal :=
  finish (registerWrite a v whole s)

end Sys2Proof.Machine
end

