-- ==== Sys2Proof/Machine/RegRead.lean ====
section
/-! DEFINITION. A read of any register by page and offset (R12, R28, R439, R513): registers that show what the state holds are
computed from it; and the I2C target (R535, R536). -/

namespace Sys2Proof.Machine

/-! ### Registers that show the state -/

/-- A class code has a pending page (R525). -/
def State.classPending (s : State) (c : Nat) : Bool := s.statusPages.any fun p => p / 256 == c && s.pagePending p

/-- HOST's live registers (R525, R526, R537, R538). -/
def State.readHost (s : State) (off : Nat) : Option (W32 × State) :=
  let w (n : Nat) : Option (W32 × State) := some (BitVec.ofNat 32 n, s)
  if off = 0x040 then
    w ((s.rd pgHost off).toNat + b2n (s.hub.reported.contains 1) * 4 + b2n (s.hub.reported.contains 0) * 2 + b2n s.pcie.bme)
  else if off = 0x048 then w (s.pins.temp.b.toNat * 256 + s.pins.temp.a.toNat)
  else if off = 0x050 then w (((List.range 21).map fun c => b2n (s.classPending c) * 2 ^ c).sum)
  else if 0x060 ≤ off ∧ off < 0x080 then
    let base := s.fld pgHost Reg.HOST.ISUM_SEL * 256 + 8 * (off - 0x060)
    w (((List.range 32).map fun i => b2n (s.statusPages.contains (base + i) && s.pagePending (base + i)) * 2 ^ i).sum)
  else if off = 0x080 then w s.irq.active.toNat
  else if off = 0x084 then w (s.irq.active.toNat / 2 ^ 32)
  else if off = 0x0C8 then w s.gpioIn
  else if off = 0x0E0 then w ((s.rd pgHost off).toNat / 128 * 128 + (0x2C + s.pins.strap) % 128)
  else none

/-- The end of the ROM stage has no command of its own: where STAGE is looked at in it, whether the work of the stage is
complete is a free value, and once seen complete it is so (R484). -/
def State.romSeen (s : State) : State :=
  if s.boot.stage = 1 then
    let (v, s1) := s.free 1
    if v = 1 then s1.setStage 2 else s1
  else s
/-- A read of BOOT.STAGE. -/
def State.stageRead (s : State) : W32 × State := (s.romSeen.rd pgBoot Reg.BOOT.STAGE.off, s.romSeen)

/-- A field of an optional target: whether there is one, and its code. -/
def optField (o : Option Nat) (v t : Nat) : Nat :=
  match o with
  | some n => 2 ^ v + n % 4 * 2 ^ t
  | none => 0

/-- DEV_STAT (R474). -/
def State.devStat (s : State) : Nat :=
  let d := s.dev
  d.st * 2 ^ 30 + optField d.trans 29 27 + b2n d.committed * 2 ^ 26 + optField d.pend 25 23 + b2n d.latched.isSome * 2 ^ 22

/-- DSTAT of the domain in DIDX (R474). -/
def State.dstat (s : State) : W32 × State :=
  let i := s.fld pgDev Reg.PWRD.DIDX
  if 111 < i then (0, s)
  else
    let m := s.domAt i
    let (c, s1) := s.commitSeen i
    (BitVec.ofNat 32 (m.st * 2 ^ 29 + optField (m.trans.map Prod.fst) 28 26 + b2n c * 2 ^ 25 + optField m.pend 24 22 +
      b2n m.latched.isSome * 2 ^ 21 + (s.rd pgDev 0x088 i).toNat % 2 ^ 21), s1)

/-- Live registers of the TIME page (R73). -/
def State.readTime (s : State) (off : Nat) : Option (W32 × State) :=
  let b := (off - 0x100) / 0x40
  if off = 0x060 then some s.nowRead
  else if off = 0x06C then some s.gridTickRead
  else if off = Reg.TIME.PPS_IN_NS.off then some s.ppsInRead
  else if 0x100 ≤ off ∧ b < 8 ∧ off % 0x40 = 0 then
    some (BitVec.ofNat 32 (setBits (s.rd pgTime off).toNat (Reg.TIME.BTICK_STAT_LAG b).hi (Reg.TIME.BTICK_STAT_LAG b).lo
      (min 0xFFFF (s.tickAt b).lag)), s)
  else if 0x100 ≤ off ∧ b < 8 ∧ off % 0x40 = 4 then
    some (s.rd pgTime off, s.setFld pgTime (Reg.TIME.BTICK_MAXLAG b) (min 0xFFFF (s.tickAt b).lag))
  else if 0x600 ≤ off ∧ off < 0x680 ∧ off % 0x10 = 0 then some (s.etsRead ((off - 0x600) / 0x10))
  else none

/-- The device page (R471, R474). -/
def State.readDev (s : State) (off : Nat) : Option (W32 × State) :=
  if off = 0x040 then some (BitVec.ofNat 32 s.devStat, s)
  else if off = 0x088 then some s.dstat
  else if off = Reg.PWRD.REF_LOG0.off then some s.refLogPop
  else if off = Reg.PWRD.REF_LOG1.off ∨ ((Reg.PWRD.LEDGER 0).off < off ∧ off < (Reg.PWRD.LEDGER 0).off + 32) then
    some (Tab.get (fun _ => (0 : W32)) s.vlatch (rkey pgDev off 0), s)
  else if off = (Reg.PWRD.LEDGER 0).off then some s.ledgerLatch
  else none

/-- PORT.GROUP: whether the group is a trunk group, and its ports that are UP (R104). -/
def State.groupWord (s : State) (g : Nat) : Nat :=
  b2n (g % 4 == 3) * 2 ^ 16 + ((List.range 16).map fun i => b2n (s.lstate (groupPort g i) == 2) * 2 ^ i).sum

/-- ENGSTAT.BUSY (R145). -/
def State.readMarver (s : State) (b off : Nat) : Option (W32 × State) :=
  if off = 0x040 then
    some (BitVec.ofNat 32 ((List.range 24).map fun e => b2n ((s.marAt b).engine e).isSome * 2 ^ e).sum, s)
  else none

/-- ENTRIES of a hash table: STASH and COUNT. -/
def HTab.entriesWord (t : HTab) : Nat := t.stash.length * 2 ^ 24 + t.inWays.length

/-- CLS: PSTAT, BANKSTAT, ENTRIES, RTCNT and FAIL_LOG (R185). -/
def State.readCls (s : State) (b off : Nat) : Option (W32 × State) :=
  let t := s.tabsAt b
  let w (n : Nat) : Option (W32 × State) := some (BitVec.ofNat 32 n, s)
  if off = 0x044 then w (s.marAt b).punty.length
  else if off = 0x050 then w (b2n (s.fld (pgCls b) (Reg.CLS.PDRAIN (1 - t.active)) != 0) * 2 + t.active)
  else if off = 0x190 then w t.bank0.entriesWord
  else if off = 0x194 then w t.bank1.entriesWord
  else if off = 0x198 then w t.route.entriesWord
  else if 0x1C0 ≤ off ∧ off < 0x200 then w (t.routes ((off - 0x1C0) / 4))
  else if off = Reg.CLS.FAIL_LOG.off then some (s.failLogPop (pgCls b))
  else none

/-- FDB: ENTRIES and the logs (R223). -/
def State.readFdb (s : State) (b off : Nat) : Option (W32 × State) :=
  if off = 0x048 then some (BitVec.ofNat 32 (s.tabsAt b).mac.entriesWord, s)
  else if off = Reg.FDB.FLAP_LOG0.off then some (s.flapLogPop b)
  else if off = Reg.FDB.SIG_LOG.off then some (s.sigLogPop (benchTeam b))
  else if off = Reg.FDB.FAIL_LOG.off then some (s.failLogPop (pgFdb b))
  else none

/-- STRM: ENTRIES and FAIL_LOG (R226). -/
def State.readStrm (s : State) (b off : Nat) : Option (W32 × State) :=
  if off = 0x040 then some (BitVec.ofNat 32 (s.tabsAt b).sid.entriesWord, s)
  else if off = Reg.STRM.FAIL_LOG.off then some (s.failLogPop (pgStrm b))
  else none

/-- BUF: the pools' state, the accounts' totals, the account of owner `w` (R263), and the window (R262). DESC_FREE reads its
factory value until the pools are built. -/
def State.readBuf (s : State) (b off w : Nat) : Option (W32 × State) :=
  let r (n : Nat) : Option (W32 × State) := some (BitVec.ofNat 32 n, s)
  let pool := (off / 4) % 4
  if 0x060 ≤ off ∧ off < 0x070 then r (s.poolFree b pool)
  else if 0x070 ≤ off ∧ off < 0x080 then r (s.poolCul b pool)
  else if 0x090 ≤ off ∧ off < 0x0A0 then
    some (s.rd (pgBuf b) off, s.setFld (pgBuf b) ⟨0x090 + 4 * pool, 16, 0⟩ (s.poolFree b pool))
  else if off = 0x0A0 then r (s.freeCells b)
  else if off = 0x0A4 then r (s.unusedRes b)
  else if off = 0x0A8 then r (s.resSum b)
  else if off = 0x0AC then r (if s.bufReady b then s.descFree b else 0)
  else if off = 0x0B0 then r (s.unusedResDesc b)
  else if off = 0x0B4 then r (s.resDescSum b)
  else if off = 0x0D0 then r ((s.bufAt b).cellsOf w)
  else if off = 0x0D4 then r ((s.bufAt b).descsOf w)
  else if 0x800 ≤ off ∧ off < 0x900 then some (s.bwinRead b ((off - 0x800) / 4))
  else none

/-- CORE: free queue entries, queue `w`, and the bridge's credits and drops (R298). -/
def State.readCore (s : State) (b off w : Nat) : Option (W32 × State) :=
  let q := s.queueAt (qkey b w)
  let r (n : Nat) : Option (W32 × State) := some (BitVec.ofNat 32 n, s)
  if off = 0x040 then r (s.qeFree b)
  else if off = 0x044 then some (s.rd (pgCore b) off, s.setFld (pgCore b) Reg.CORE.QE_MIN (s.qeFree b))
  else if off = 0x05C then r (q.state * 2 ^ 30 + q.headCells)
  else if off = 0x060 then r q.stageCells
  else if off = 0x064 then r q.mid.length
  else if off = 0x068 then r q.midCells
  else if off = 0x06C then r (q.avg / 256)
  else if off = 0x104 then r ((List.range 4).map fun k => (s.bridgeAt (b + k)).cred * 2 ^ (8 * k)).sum
  else none

/-- SCHED: VTIME and PSSTAT of a port (R337): the class of a remainder that may resume is eligible too (R328). -/
def State.readSched (s : State) (p off : Nat) : Option (W32 × State) :=
  let classes (f : Nat → Bool) : Nat := ((List.range 8).map fun c => b2n (f c) * 2 ^ c).sum
  if off = 0x070 then some (BitVec.ofNat 32 (s.schedAt p).v, s)
  else if off = 0x074 then
    let s := s.sagSeen p
    some (BitVec.ofNat 32 (b2n (s.schedAt p).hold * 2 ^ 17 + b2n (s.txAt (512 + p)).isSome * 2 ^ 16 +
      classes (fun c => !(s.queueAt (portQueue p c)).head.isEmpty) * 2 ^ 8 +
      classes fun c => s.eligible p c || (s.resumes p && (s.txAt (512 + p)).any fun t => t.cls == c)), s)
  else none

/-- GSTAT of a port: what is stored, and MODE, the oper entry in force (0 while none is) and the gates at the MAC (R340). -/
def State.gstatWord (s : State) (p : Nat) : Nat :=
  let entry := if s.gateMode p = 1 then ((s.segAt p s.time.now).map fun g => g.idx).getD 0 else 0
  setBits (setBits (setBits (s.rd (pgGate (portBench p)) Reg.GATE.GSTAT_MODE.off (portLocal p)).toNat 30 29 (s.gateMode p))
    25 16 entry) 7 0 (s.gatesAt p s.time.now)

/-- GATE: GSTAT, MAXWIN and the list window of a port (R340). -/
def State.readGate (s : State) (p off : Nat) : Option (W32 × State) :=
  if off = 0x048 then some (BitVec.ofNat 32 (s.gstatWord p), s)
  else if 0x0C0 ≤ off ∧ off < 0x0E0 then
    some ((s.maxWin p ((off - 0x0C0) / 4)).elim (0xFFFFFFFF : W32) (BitVec.ofNat 32), s)
  else if off = 0x104 then some (s.gclLoRead p)
  else if off = 0x108 then some (s.gclHiRead p)
  else none

/-- DEVKEY_KCV: the first four bytes of AES of a zero block under the device key (R393). -/
def State.devKcv (s : State) (c : Nat) : Nat :=
  beNat ((Aes.enc (Aes.expand (s.devKeyOf c)) (List.replicate 16 0)).take 4)

/-- CIPH: CSTAT, the PN log, the check value, and the key words, which read 0 (R399, R400). When a cluster becomes ready the
spec does not say: READY reads 1 while no full reset is asserted (DESIGN CHOICE, log 69). -/
def State.readCiph (s : State) (c off : Nat) : Option (W32 × State) :=
  if off = 0x040 then
    some (BitVec.ofNat 32 (setBits (s.rd (pgCiph c) off).toNat 31 31 (b2n !s.boot.asserted)), s)
  else if off = Reg.CIPH.PN_LOG.off then some (s.pnLogPop c)
  else if off = Reg.CIPH.DEVKEY_KCV.off then some (BitVec.ofNat 32 (s.devKcv c), s)
  else if off = Reg.CIPH.FAIL_LOG.off then some (s.failLogPop (pgCiph c))
  else if 0x200 ≤ off ∧ off < 0x238 then some (0, s)
  else none

/-- The crucible's pages: free slabs and descriptors (R432, R434). -/
def State.readHalf (s : State) (t off : Nat) : Option (W32 × State) :=
  if off = 0x040 then
    some (BitVec.ofNat 32 (setBits (s.rd (pgHalf t) off).toNat 22 0 ((teamChans t).map s.freeSlabs).sum), s)
  else if off = 0x048 then some (BitVec.ofNat 32 (s.cdescUsed t), s)
  else if off = 0x04C then some (s.rd (pgHalf t) off, s.setFld (pgHalf t) Reg.CRUCH.CDESC_MAX (s.cdescUsed t))
  else none

/-- What a register that shows the state reads, with what the read changes; none for a register that holds a word. `w` is the
register's window index. -/
def State.live (s : State) (p off w : Nat) : Option (W32 × State) :=
  let i := p % 256
  match pageKind p with
  | some .host => s.readHost off
  | some .boot => if off = Reg.BOOT.STAGE.off then some s.stageRead else none
  | some .time => s.readTime off
  | some .pwrd => s.readDev off
  | some .lehr => if off = Reg.LEHR.LSTAT.off then some s.lstatRead
      else if 0x800 ≤ off ∧ off < 0x900 then some (s.lwinRead ((off - 0x800) / 4)) else none
  | some .port => if off = 0x040 then some (BitVec.ofNat 32 (s.groupWord i), s) else none
  | some .marver => s.readMarver i off
  | some .cls => s.readCls i off
  | some .fdb => s.readFdb i off
  | some .strm => s.readStrm i off
  | some .buf => s.readBuf i off w
  | some .core => s.readCore i off w
  | some .sched => s.readSched (localPort i w) off
  | some .gate => s.readGate (localPort i w) off
  | some .meter => if off = Reg.METER.FAIL_LOG.off then some (s.failLogPop p) else none
  | some .ciph => s.readCiph i off
  | some .crucc => if off = 0x040 then
      some (BitVec.ofNat 32 (setBits (s.rd p off).toNat 17 0 (s.freeSlabs i)), s) else none
  | some .cruch => s.readHalf (i - 0x80) off
  | _ => none

/-- UCNT and BRDROP, which an index register selects (R147, R298): their words are a counter's (R519). -/
def State.selected (s : State) (path : Path) (p off : Nat) : Option (W32 × State) :=
  match pageKind p with
  | some .marver =>
    if off = Reg.MARVER.UCNT then some (s.ucntLow path (p % 256))
    else if off = Reg.MARVER.UCNT_HI.off then
      some (s.counterHigh path p Reg.MARVER.UCNT (s.fld p Reg.MARVER.UCNT_IDX) false)
    else none
  | some .core =>
    if off = Reg.CORE.BRDROP then some (s.brdropLow path (benchTeam (p % 256)))
    else if off = Reg.CORE.BRDROP_HI.off then
      some (s.counterHigh path p Reg.CORE.BRDROP (s.fld p Reg.CORE.BRDROP_IDX) false)
    else none
  | _ => none

/-- A read of BAR2: the ring blocks, the MSI-X table and the pending bits; other offsets read 0 (R512). -/
def State.readBar2 (s : State) (path : Path) (p off : Nat) : W32 × State :=
  if p = 0x4030 then (if off < 8 then BitVec.ofNat 32 (s.irq.pba.toNat / 2 ^ (8 * off)) else 0, s)
  else if p < 0x4010 ∧ off = Reg.TXRING.STAT.off then
    (BitVec.ofNat 32 (setBits (s.rd p off).toNat 30 30 (b2n (s.takesOf (p - 0x4000)).isEmpty)), s)
  else (s.counterRead path p off).getD (if (rowAt p off).isSome then s.rd p off else 0, s)

/-- A read of a word of a page that answers (R15, R515 to R519): a reserved offset, and a window beyond its index, read 0. -/
def State.readWord (s : State) (path : Path) (p off : Nat) : W32 × State :=
  if 0x4000 ≤ p then s.readBar2 path p off
  else if off = 0x00C then
    (BitVec.ofNat 32 (setBits (s.rd p off).toNat 29 29 (b2n ((s.rd p 0x010 &&& s.rd p 0x014) != 0))), s)
  else if off < 0x20 then (s.rd p off, s)
  else match rowAt p off, s.winIndex p off with
  | some (row, _), some w =>
    if row.cnt && (winOf p off).isNone then (s.counterRead path p off).getD (0, s)
    else match (s.selected path p off).orElse fun _ => s.live p off w with
      | some r => r
      | none => (s.counterRead path p off).getD (s.rd p off w, s)
  | _, _ => (0, s)

/-- A read of a word over a path. PAGE_ID reads its normal value on a page whose domain sleeps (R439). -/
def State.readAt (s : State) (path : Path) (p off : Nat) : State :=
  s.pathRead path p off (fun s => s.readWord path p off) (if off = 0 then s.rd p 0 else 0)

/-- COUNTER_LOW_READ: a read of a counter's low word over a path, or of whatever register stands at that place. -/
def counterLowRead (path : Path) (p : Fin 16448) (w : Fin 1024) (s : State) : State := s.readAt path p (4 * w)
def execCounterLowRead (path : Path) (p : Fin 16448) (w : Fin 1024) (s : State) : Host.Outcome State Fault Refusal :=
  finish (counterLowRead path p w s)

/-! ### The I2C target (R535, R536) -/

/-- A transfer with a wrong packet error code is discarded; in reset the target does not answer (R504, R536). -/
def State.i2c (s : State) (pec : Bool) (f : State → State) : State :=
  if s.hostGone || s.boot.asserted || (s.flag pgHost Reg.HOST.I2C_CFG_PEC_EN && !pec) then s else f s

/-- The page of an offset that the target reaches, none for any other. -/
def i2cAt (a : W32) : Option Nat :=
  let p := a.toNat / 4096
  if i2cPage p then some p else none

/-- I2C_READ. -/
def i2cRead (a : W32) (pec : Bool) (s : State) : State :=
  s.i2c pec fun s => s.readAt .i2c (a.toNat / 4096) (a.toNat % 4096 / 4 * 4)
def execI2cRead (a : W32) (pec : Bool) (s : State) : Host.Outcome State Fault Refusal := finish (i2cRead a pec s)

/-- I2C_WRITE. -/
def i2cWrite (a v : W32) (pec : Bool) (s : State) : State :=
  s.i2c pec fun s => match i2cAt a with
    | some p => s.onPage p fun s => s.writeWord p (a.toNat % 4096 / 4 * 4) v
    | none => (s.bump pgHost Reg.HOST.I2C_DENIED).raise pgHost 2
def execI2cWrite (a v : W32) (pec : Bool) (s : State) : Host.Outcome State Fault Refusal := finish (i2cWrite a v pec s)

/-- I2C_WAKE. -/
def i2cWake (pec : Bool) (s : State) : State := s.i2c pec fun s => s.wakeFrom 2
def execI2cWake (pec : Bool) (s : State) : Host.Outcome State Fault Refusal := finish (i2cWake pec s)

/-- I2C_RESET: the RESET command with 0xA5. -/
def i2cReset (pec : Bool) (s : State) : State := s.i2c pec fun s => s.fullReset 3
def execI2cReset (pec : Bool) (s : State) : Host.Outcome State Fault Refusal := finish (i2cReset pec s)

/-- I2C_STATUS. -/
def i2cStatus (pec : Bool) (s : State) : State :=
  s.i2c pec fun s => let s := s.romSeen; { s with resp := [BitVec.ofNat 32 (s.boot.stage % 16 * 16 + s.dev.st % 4 * 4)] }
def execI2cStatus (pec : Bool) (s : State) : Host.Outcome State Fault Refusal := finish (i2cStatus pec s)

/-- I2C_BAD_COMMAND: any other command byte, or RESET without 0xA5: NACKed, with no effect. -/
def i2cBadCommand (_cmd _arg : Byte) (s : State) : State := s
def execI2cBadCommand (cmd arg : Byte) (s : State) : Host.Outcome State Fault Refusal := finish (i2cBadCommand cmd arg s)

end Sys2Proof.Machine
end

