-- ==== Sys2Proof/Machine/Release.lean ====
section
/-! DEFINITION. The hubs take the accesses that waited, in their order (R31, R53, R181, R221, R261). -/

namespace Sys2Proof.Machine

/-- A team hub takes an access that waited. The data of a read are the last of those completed. -/
def State.runAcc (s : State) (a : HubAcc) : State :=
  match a with
  | .cmd c => (s.hubBack c.team).submit c
  | .write p off v keep => s.onPage p fun s => s.writeWord p off ((s.rd p off &&& keep) ||| (v &&& ~~~ keep))
  | .mbox b v pass => s.onPage (pgBuf b) fun s => s.bcmdWrite b v pass
  | .read p off =>
    let (v, s1) := s.fromPage p (fun s => s.readWord .pcie p off) (if off = 0 then s.rd p 0 else 0)
    { s1 with resp := s.resp ++ [v] }

/-- Hubs take, in order, the accesses they have room for; one behind a command that a hub holds again waits on. -/
def State.hubRelease (s : State) : State :=
  { s with hub := { s.hub with held := [] } }.each s.hub.held fun s a =>
    if s.hub.held.any fun h => h.team == a.team then s.hold a else s.runAcc a

/-- MBOX_DONE: the result of a page's mailbox becomes final (R261). -/
def mboxDone (b : BenchId) (s : State) : State := (s.mboxFinal b).hubRelease
def execMboxDone (b : BenchId) (s : State) : Host.Outcome State Fault Refusal := finish (mboxDone b s)

/-- SEARCH_DONE: the result of a page's walk or flush becomes final (R222). -/
def searchDone (b : BenchId) (s : State) : State := (s.searchFinal b).hubRelease
def execSearchDone (b : BenchId) (s : State) : Host.Outcome State Fault Refusal := finish (searchDone b s)

end Sys2Proof.Machine
end

