-- ==== Sys2Proof/Machine/Edges.lean ====
section
/-! DEFINITION. The grid edge and the benches' local edges (R45 to R60, R63, R65): what commits at each, the lag, and the
length of the next tick. -/

namespace Sys2Proof.Machine

/-! ### Headers not yet finished (R52, R267) -/

/-- A header of `b` admitted before tick `n` has not completed its ingress processing: it waits, runs, holds results, waits
for its allocation, or its hand-off record to a bench of its team has not been accepted. -/
def State.unfinished (s : State) (b n : Nat) : Bool :=
  let m := s.marAt b
  let old (h : Header) : Bool := decide (h.tick < n)
  m.fifo.any old || m.punty.any old || m.engines.any (fun e => e.2.any fun r => old r.h) || m.results.any (fun r => old r.h) ||
  ((s.requested b).any fun r => match r with
    | .header _ _ _ _ _ t _ _ => decide (t < n)
    | _ => false) ||
  (List.range 8).any fun x => (s.coreAt x).inbox.any fun r => r.1 != 4 && r.2.src == b && decide (r.2.tick < n)

/-! ### Heads during HOLD (R95) -/

/-- The age in ns of a frame with a short timestamp, now. -/
def State.residence (s : State) (ts : Nat) : Nat :=
  (s.time.now % 4000000000 + 4000000000 - (ts / 2 ^ 30 * 1000000000 + ts % 2 ^ 30)) % 4000000000

/-- MAXRES of a port's class, in µs. -/
def State.maxRes (s : State) (p c : Nat) : Nat :=
  s.portFld p fun i => ⟨(Reg.PORT.MAXRES0 i).off + 4 * (c / 2), 16 * (c % 2) + 15, 16 * (c % 2)⟩

/-- A head of that timestamp has stayed longer than its class's MAXRES. -/
def State.tooOld (s : State) (p c ts : Nat) : Bool :=
  s.maxRes p c != 0xFFFF && ts != 0 && decide (1000 * s.maxRes p c < s.residence ts)

/-- The timestamp of a copy's frame. -/
def State.copyTs (s : State) (c : Copy) : Nat := ((s.descAt c.bench c.desc).map fun d => d.ts).getD 0

/-- The heads of a class queue are examined, the oldest first; at most `n` of them. -/
def State.holdQueue (s : State) (p c : Nat) : Nat → State
  | 0 => s
  | n + 1 =>
    let k := portQueue p c
    let q := s.queueAt k
    let gone (s : State) (x : Copy) : State :=
      ((s.culled x).portCount p Reg.PORT.HOLD_RES_DISCARD).settleUnit (copyUnit x) x.bench x.desc
    match q.head, q.mid, q.stage with
    | x :: _, _, _ =>
      if !x.begun && s.tooOld p c (s.copyTs x) then (gone (s.popHead k) x).holdQueue p c n else s
    | [], r :: _, _ =>
      if s.tooOld p c r.desc.ts then
        ((s.loseMid k fun m => m.moveSeq == r.moveSeq).2.portCount p Reg.PORT.HOLD_RES_DISCARD).holdQueue p c n
      else s
    | [], [], x :: rest =>
      if s.tooOld p c (s.copyTs x) then (gone (s.setQueue k { q with stage := rest }) x).holdQueue p c n else s
    | [], [], [] => s

/-- The heads of a bench's ports in HOLD are examined while the time is valid. -/
def State.holdHeads (s : State) (b : Nat) : State :=
  if !s.timeValid then s
  else s.each (((List.range 64).map (localPort b)).filter fun p => s.lstate p == 3) fun s p =>
    s.each (List.range 8) fun s c =>
      let q := s.queueAt (portQueue p c)
      s.holdQueue p c (q.head.length + q.mid.length + q.stage.length)

/-! ### What commits at an edge (R55) -/

/-- INSERT and DELETE commands of tick `n` on a hash table of a bench. -/
def State.hashCommands (s : State) (b n : Nat) (k : HKind) : Nat :=
  (s.hub.cmds.filter fun c => c.kind == .table && c.left.contains b && c.tick == n && decide (c.op ≤ 1) &&
    c.tkind == some (.hash k)).length

/-- Stash entries are retried with the command capacity that the tick left (R156); the replicas of a team copy count the
moves once, by the team's first bench. -/
def State.stashRetry (s : State) (b used : Nat) (k : HKind) : State :=
  let h := (s.tabsAt b).hget k
  if h.stash.isEmpty then s
  else
    let (h', moved) := h.retry (s.hspec b k) (96 - used) 0
    let s1 := (s.imageHash b k h').onTabs b fun t => t.hput k h'
    match k with
    | .mac => s1.addCtr (pgFdb b) Reg.FDB.STASH_MOVES moved
    | .sid => if b % 4 = 0 then s1.addCtr (pgStrm b) Reg.STRM.STASH_MOVES moved else s1
    | _ => if b % 4 = 0 then s1.addCtr (pgCls b) Reg.CLS.STASH_MOVES moved else s1

/-- The hash tables of a bench. -/
def hashKinds : List HKind := [.bank 0, .bank 1, .route, .sid, .mac]

/-- A search walk that has reached a bench's stash goes on behind the entries it has passed, of which some have left (R220). -/
def State.walkFollow (s : State) (b : Nat) (before : List HEntry) : State :=
  s.onFdb b fun f =>
    if 262144 < f.walkPos then
      let past := (before.take (f.walkPos - 262144)).map HEntry.key
      { f with walkPos := 262144 + ((s.macTab b).stash.takeWhile fun e => past.contains e.key).length }
    else f

/-- Orders 1 to 7 of R55 for what bench `b` commits alone at the end of tick `n`. -/
def State.commitTick (s : State) (b n : Nat) : State :=
  let used := hashKinds.map fun k => s.hashCommands b n k
  let s1 := ((s.fdbEdge b n).unitCommit b n).mirrCommit b n
  let s2 := ((hashKinds.zip used).foldl (fun s e => s.stashRetry b e.2 e.1) s1).walkFollow b (s.macTab b).stash
  let s3 := ((s2.snapCommit (benchPage b) n).swapCommit b n).swapDrain (benchTeam b)
  s3.each [domIngress b, domEgress b, domBuffer b] State.domEdge

/-- A team's units commit every tick that its four benches have ended: its changes, its host writes, its refill (R315). -/
def State.teamTicks (s : State) (t : Nat) : State :=
  let ended := ((teamBenches t).map s.localTick).foldl min (s.localTick (4 * t))
  let first := (s.teamAt t).done
  s.each ((List.range (ended - first)).map fun i => first + i) fun s n =>
    ((s.onTeam t fun m => m.commitChanges n).unitCommit (8 + t) n).onTeam t TeamSt.refill

/-- A cluster commits every tick that its two benches have ended: frames' changes of its SAs, then host writes (R376). -/
def State.clusterTicks (s : State) (c : Nat) : State :=
  let ended := min (s.localTick (2 * c)) (s.localTick (2 * c + 1))
  let due := (s.ciphAt c).ups.filter fun u => decide (u.tick < ended)
  let s1 := if due.isEmpty then s
    else s.onCiph c fun k => { k with
      sas := due.foldl (fun t u => Tab.set (fun _ => 0) t u.sa (saApply (Tab.get (fun _ => 0) t u.sa) u)) k.sas,
      ups := k.ups.filter fun u => !decide (u.tick < ended) }
  if ended = 0 then s1 else s1.unitCommit (10 + c) (ended - 1)

/-- Bench `b` has ended tick `n`: it commits, and its team and cluster commit what is due with it. -/
def State.endTick (s : State) (b n : Nat) : State :=
  let s1 := (s.commitTick b n).onTick b fun h => { h with num := BitVec.ofNat 64 (n + 1), dispatched := 0, punted := 0 }
  (s1.teamTicks (benchTeam b)).clusterTicks (b / 2)

/-! ### The grid edge (R47, R55, R65) -/

/-- The benches of a live team that make no edges, their ingress domain not being on: they commit with the grid. -/
def State.sleepers (s : State) : List Nat :=
  (List.range 8).filter fun b => !s.domOn (domIngress b) && !(s.teamAt (benchTeam b)).failed

/-- The grid tick counter advances, and what commits at the grid edge does. -/
def State.gridAdvance (s : State) : State :=
  let n := s.gridTick
  let edge := if s.gridOn then s.time.nextEdge - 1280 else s.stamp
  let s1 := { s with time := { s.time with tick := s.time.tick + 1, edge := edge },
                     dev := { s.dev with freeTicks := s.dev.freeTicks || !s.gridOn } }
  let s2 := s1.each s1.sleepers fun s b => s.endTick b n
  let s3 := s2.snapCommit (fun p => !(List.range 8).any fun b => benchPage b p) n
  let s4 := s3.each ((List.range 112).filter fun d => 2 ≤ (s.domAt d).st) fun s d => s.domCount d Reg.PWRD.ASLEEP_TICKS
  let s5 := (s4.devEdge.loadEdge).each ((List.range 112).filter fun d =>
    !(decide (56 ≤ d ∧ d < 72) || decide (88 ≤ d ∧ d < 96))) State.domEdge
  (((s5.imageEdge 0).imageEdge 1).each [0, 1] fun s t => s.onSig t fun g => { g with wait := g.wait - 1 }).hubRelease

/-- A grid tick that a time step cut short by `a` clocks, or lengthened (`a` below 0), ends: its grid edge is so much earlier or
later for each bench, one that still counts an earlier tick finding it so when it counts that tick (R48, R63). -/
def State.realignTick (s : State) (b : Nat) (a : Int) : State :=
  s.onTick b fun h =>
    if h.num.toNat < s.gridTick then { h with longer := (s.gridTick, -a) :: h.longer } else { h with grid := h.grid - a }

/-- GRID_EDGE: the time reaches the next grid point; what a time step did to the running grid tick reaches each bench (R63). -/
def gridEdge (s : State) : State :=
  if s.gridOn && !s.boot.asserted then
    let s1 := s.reach s.time.nextEdge
    let s2 := match s.time.realign with
      | none => s1
      | some a => s1.each (List.range 8) fun s b => s.realignTick b a
    { s2 with time := { s2.time with nextEdge := s.time.nextEdge + 1280, realign := none } }.gridAdvance
  else s
def execGridEdge (s : State) : Host.Outcome State Fault Refusal := finish (gridEdge s)

/-! ### The local edge (R48, R52, R58, R59, R65) -/

/-- The counter follows the free edges of its source bench (R65). -/
def State.freeSource (s : State) (b : Nat) : State :=
  if b = 0 then { s with time := { s.time with src := 0, alone := 0 } }.gridAdvance
  else if b = 4 then
    let n := s.time.alone + 1
    if !s.domOn (domIngress 0) ∨ 4 ≤ n ∨ s.time.src = 4 then { s with time := { s.time with src := 4, alone := n } }.gridAdvance
    else { s with time := { s.time with alone := n } }
  else s

/-- The lag of a bench at an edge that comes `clk` clocks after the one before (R48). -/
def State.lagAt (s : State) (b clk : Nat) : Nat :=
  let h := s.tickAt b
  if s.gridOn then ((h.lag : Int) + clk - h.grid).toNat else 0

/-- The state that a lag gives (R58, R59, R65): 0 FREE, 1 ON_GRID, 2 CATCHUP, 3 OVERRUN. -/
def State.tickState (s : State) (b lag : Nat) : Nat :=
  if !s.gridOn then 0
  else if 5376 < lag then 3
  else if s.fld pgTime (Reg.TIME.BTICK_STAT_STATE b) = 3 ∧ 0 < lag then 3
  else if lag = 0 then 1
  else 2

/-- The length in clocks of the next grid tick: 1,343 to 1,345 while the team is on its PLL (R46). -/
def State.nextGrid (s : State) (b len : Nat) : Nat :=
  if !s.gridOn then 1344
  else if s.flag pgDev (clkOn (benchTeam b)) then min 1345 (max 1343 len)
  else len

/-- The clocks that a time step added to the tick that a bench begins to count (R63). -/
def State.longerBy (s : State) (b : Nat) : Int :=
  if s.gridOn then (((s.tickAt b).longer.filter fun e => e.1 == s.localTick b).map Prod.snd).sum else 0

/-- The clock after the last edge at which the next is due but for R52: the end of the tick's length, and no earlier than the
grid edge (R48, R58). -/
def State.edgeClock (s : State) (b : Nat) : Nat :=
  let h := s.tickAt b
  if s.gridOn then max h.len (h.grid - h.lag).toNat else h.len

/-- Lag, state and next length at an edge (R58, R59), a tick that was cut short costing lag and no length (R63); an edge later
than it was due was held by R52 (R73). -/
def State.paceEdge (s : State) (b clk gridLen : Nat) : State :=
  let h := s.tickAt b
  let lag := s.lagAt b clk
  let was := s.fld pgTime (Reg.TIME.BTICK_STAT_STATE b)
  let now := s.tickState b lag
  let longer := s.longerBy b
  let s1 := if s.edgeClock b < clk then s.bump pgTime (Reg.TIME.LATE_EDGES b) else s
  let s2 := (s1.putTick b { h with lag := lag, grid := s.nextGrid b gridLen + longer,
                                   len := s.nextGrid b gridLen + longer.toNat - min lag 168,
                                   longer := h.longer.filter fun e => decide (h.num.toNat < e.1) }).setFld pgTime
    (Reg.TIME.BTICK_STAT_STATE b) now
  let s3 := s2.setFld pgTime (Reg.TIME.BTICK_MAXLAG b) (min 0xFFFF (max lag (s.fld pgTime (Reg.TIME.BTICK_MAXLAG b))))
  let s4 := if now = 3 ∧ was ≠ 3 then (s3.bump pgTime (Reg.TIME.OVR_ENTRIES b)).raise pgTime 3 else s3
  if was = 3 ∧ now ≠ 3 then s4.raise pgTime 4 else s4

/-- A bench stops admission at its edge while a device entry asks it to, and admits again at its first edge with its domains ON
once the entry has been aborted or the device leaves DOZE (R453, R454). -/
def State.admitEdge (s : State) (b : Nat) : State :=
  let rest := s.dev.closed.filter fun x => x != b
  if s.dev.stopping then { s with dev := { s.dev with closed := b :: rest } }
  else if s.dev.committed || (s.dev.st != 0 && s.dev.trans != some 0) ||
      !([domIngress b, domEgress b, domBuffer b].all s.domOn) then s
  else { s with dev := { s.dev with closed := rest } }

/-- The edge of a bench can fire: its length has run, no header of an earlier tick holds it, and the grid edge that ends the
tick has come. -/
def State.edgeDue (s : State) (b clk : Nat) : Bool :=
  !s.boot.asserted && !(s.teamAt (benchTeam b)).failed && s.domOn (domIngress b) && decide ((s.tickAt b).len ≤ clk) &&
  !s.unfinished b (s.localTick b) && (!s.gridOn || decide (s.localTick b < s.gridTick))

/-- LOCAL_EDGE: bench `b` fires its local edge, `clk` clocks after the one before; the next grid tick has `gridLen` clocks.
It does not fire while it is not due. -/
def localEdge (b : BenchId) (clk gridLen : Nat) (s : State) : State :=
  if s.edgeDue b clk then
    let n := s.localTick b
    let s1 := (s.endTick b n).paceEdge b clk gridLen
    let s2 := ((s1.holdHeads b).openEdge b).admitEdge b
    let s3 := (s2.clkEdge (benchTeam b)).hubRelease
    if s.gridOn then s3 else s3.freeSource b
  else s
def execLocalEdge (b : BenchId) (clk gridLen : Nat) (s : State) : Host.Outcome State Fault Refusal :=
  finish (localEdge b clk gridLen s)

end Sys2Proof.Machine
end

