-- ==== Sys2Proof/Machine/Dispatch.lean ====
section
/-! DEFINITION. One arm per command: a direct call of its meaning, or a refusal by name while it has none. -/

namespace Sys2Proof.Machine

def exec (i : Instr) (s : State) : Host.Outcome State Fault Refusal :=
  match i with
  | .registerWrite a v whole => Sys2Proof.Machine.execRegisterWrite a v whole s
  | .hubTimeout t write stays => Sys2Proof.Machine.execHubTimeout t write stays s
  | .rcExtremeRead x => Sys2Proof.Machine.execRcExtremeRead x s
  | .counterLowRead path p w => Sys2Proof.Machine.execCounterLowRead path p w s
  | .nowNsRead => Sys2Proof.Machine.execNowNsRead s
  | .gridTickLoRead => Sys2Proof.Machine.execGridTickLoRead s
  | .ppsInNsRead => Sys2Proof.Machine.execPpsInNsRead s
  | .ets0Read b => Sys2Proof.Machine.execEts0Read b s
  | .ucntLoRead b => Sys2Proof.Machine.execUcntLoRead b s
  | .brdropLoRead t => Sys2Proof.Machine.execBrdropLoRead t s
  | .failLogRead w => Sys2Proof.Machine.execFailLogRead w s
  | .flapLogRead b => Sys2Proof.Machine.execFlapLogRead b s
  | .sigLogRead t => Sys2Proof.Machine.execSigLogRead t s
  | .pnLogRead c => Sys2Proof.Machine.execPnLogRead c s
  | .refLogRead => Sys2Proof.Machine.execRefLogRead s
  | .ledgerRead => Sys2Proof.Machine.execLedgerRead s
  | .gridEdge => Sys2Proof.Machine.execGridEdge s
  | .seqScanVisit t => Sys2Proof.Machine.execSeqScanVisit t s
  | .localEdge b clk gridLen => Sys2Proof.Machine.execLocalEdge b clk gridLen s
  | .headerAdmit p bytes early preempt age => Sys2Proof.Machine.execHeaderAdmit p bytes early preempt age s
  | .headerDispatch b => Sys2Proof.Machine.execHeaderDispatch b s
  | .microwordExecute b e finds => Sys2Proof.Machine.execMicrowordExecute b e finds s
  | .watchdogAbort b e => Sys2Proof.Machine.execWatchdogAbort b e s
  | .routineEnd b e => Sys2Proof.Machine.execRoutineEnd b e s
  | .resultRelease b errs => Sys2Proof.Machine.execResultRelease b errs s
  | .learnRequest b => Sys2Proof.Machine.execLearnRequest b s
  | .agingVisit b => Sys2Proof.Machine.execAgingVisit b s
  | .signatureCheck t => Sys2Proof.Machine.execSignatureCheck t s
  | .handoffAccept b src => Sys2Proof.Machine.execHandoffAccept b src s
  | .bridgeSend t k => Sys2Proof.Machine.execBridgeSend t k s
  | .bridgeCredit t k => Sys2Proof.Machine.execBridgeCredit t k s
  | .peerMarkDown t k => Sys2Proof.Machine.execPeerMarkDown t k s
  | .bridgeReceiveBegin t k => Sys2Proof.Machine.execBridgeReceiveBegin t k s
  | .bridgeReceiveEnd t k ok err => Sys2Proof.Machine.execBridgeReceiveEnd t k ok err s
  | .bridgeAbandon t k => Sys2Proof.Machine.execBridgeAbandon t k s
  | .spillMove b q bad => Sys2Proof.Machine.execSpillMove b q bad s
  | .spillWriteComplete b q seq => Sys2Proof.Machine.execSpillWriteComplete b q seq s
  | .stagePromote b q => Sys2Proof.Machine.execStagePromote b q s
  | .returnRound b q => Sys2Proof.Machine.execReturnRound b q s
  | .spillReturn b q => Sys2Proof.Machine.execSpillReturn b q s
  | .txSelect p sent => Sys2Proof.Machine.execTxSelect p sent s
  | .frameTransmitEnd p => Sys2Proof.Machine.execFrameTransmitEnd p s
  | .txUnderrun p => Sys2Proof.Machine.execTxUnderrun p s
  | .frameReceive p bytes lost early preempt age seen => Sys2Proof.Machine.execFrameReceive p bytes lost early preempt age seen s
  | .tagResult p err => Sys2Proof.Machine.execTagResult p err s
  | .fragmentReceive p smd bytes last early age err => Sys2Proof.Machine.execFragmentReceive p smd bytes last early age err s
  | .inbandStatus p up speed half => Sys2Proof.Machine.execInbandStatus p up speed half s
  | .linkFault p lock remote loc fecLock seen => Sys2Proof.Machine.execLinkFault p lock remote loc fecLock seen s
  | .linkUpQualified p => Sys2Proof.Machine.execLinkUpQualified p s
  | .linkDownQualified p => Sys2Proof.Machine.execLinkDownQualified p s
  | .holdExpiry p => Sys2Proof.Machine.execHoldExpiry p s
  | .portDisable p => Sys2Proof.Machine.execPortDisable p s
  | .portEnable p => Sys2Proof.Machine.execPortEnable p s
  | .fecWrite p fec => Sys2Proof.Machine.execFecWrite p fec s
  | .mmVerify p ok => Sys2Proof.Machine.execMmVerify p ok s
  | .rateWrite q rate => Sys2Proof.Machine.execRateWrite q rate s
  | .sdrefLoss q => Sys2Proof.Machine.execSdrefLoss q s
  | .sdrefRestore q => Sys2Proof.Machine.execSdrefRestore q s
  | .quadPllLock q => Sys2Proof.Machine.execQuadPllLock q s
  | .quadPllUnlock q => Sys2Proof.Machine.execQuadPllUnlock q s
  | .cdrLoss l => Sys2Proof.Machine.execCdrLoss l s
  | .mdioAddress m v => Sys2Proof.Machine.execMdioAddress m v s
  | .mdioWrite m v => Sys2Proof.Machine.execMdioWrite m v s
  | .mdioRead m v => Sys2Proof.Machine.execMdioRead m v s
  | .mdioReserved m v => Sys2Proof.Machine.execMdioReserved m v s
  | .mdioDone m ack data => Sys2Proof.Machine.execMdioDone m ack data s
  | .freqAdjWrite v => Sys2Proof.Machine.execFreqAdjWrite v s
  | .timeSet => Sys2Proof.Machine.execTimeSet s
  | .timeAdjust v => Sys2Proof.Machine.execTimeAdjust v s
  | .gridEnWrite en => Sys2Proof.Machine.execGridEnWrite en s
  | .timeRefLoss => Sys2Proof.Machine.execTimeRefLoss s
  | .timePllUnlock => Sys2Proof.Machine.execTimePllUnlock s
  | .timeValid => Sys2Proof.Machine.execTimeValid s
  | .ppsInCapture falling => Sys2Proof.Machine.execPpsInCapture falling s
  | .ppsOutRise => Sys2Proof.Machine.execPpsOutRise s
  | .ppsOutFall => Sys2Proof.Machine.execPpsOutFall s
  | .scrubRead b find => Sys2Proof.Machine.execScrubRead b find s
  | .twInsert w table => Sys2Proof.Machine.execTwInsert w table s
  | .twDelete w table => Sys2Proof.Machine.execTwDelete w table s
  | .twSearch w table => Sys2Proof.Machine.execTwSearch w table s
  | .twRead w table => Sys2Proof.Machine.execTwRead w table s
  | .twWrite w table => Sys2Proof.Machine.execTwWrite w table s
  | .twBadOp w table op => Sys2Proof.Machine.execTwBadOp w table op s
  | .keySlotLoad c => Sys2Proof.Machine.execKeySlotLoad c s
  | .keySlotZero c => Sys2Proof.Machine.execKeySlotZero c s
  | .seedWrite k w v => Sys2Proof.Machine.execSeedWrite k w v s
  | .swapRequest t copy => Sys2Proof.Machine.execSwapRequest t copy s
  | .rtclassWrite t c v => Sys2Proof.Machine.execRtclassWrite t c v s
  | .flapEnWrite b v => Sys2Proof.Machine.execFlapEnWrite b v s
  | .agecfgWrite b v => Sys2Proof.Machine.execAgecfgWrite b v s
  | .searchFirst b => Sys2Proof.Machine.execSearchFirst b s
  | .searchNext b => Sys2Proof.Machine.execSearchNext b s
  | .searchFlush b mask => Sys2Proof.Machine.execSearchFlush b mask s
  | .searchReserved b => Sys2Proof.Machine.execSearchReserved b s
  | .searchDone b => Sys2Proof.Machine.execSearchDone b s
  | .poolStart b => Sys2Proof.Machine.execPoolStart b s
  | .poolBuildDone b => Sys2Proof.Machine.execPoolBuildDone b s
  | .allocAnswer b => Sys2Proof.Machine.execAllocAnswer b s
  | .holderRelease b agent desc n => Sys2Proof.Machine.execHolderRelease b agent desc n s
  | .freeListError b p => Sys2Proof.Machine.execFreeListError b p s
  | .listRebuildDone b late => Sys2Proof.Machine.execListRebuildDone b late s
  | .bufferDataUe b ce place => Sys2Proof.Machine.execBufferDataUe b ce place s
  | .bufferHeaderUe b g => Sys2Proof.Machine.execBufferHeaderUe b g s
  | .ownResWrite b v => Sys2Proof.Machine.execOwnResWrite b v s
  | .ownDescWrite b v => Sys2Proof.Machine.execOwnDescWrite b v s
  | .mboxAlloc b pool => Sys2Proof.Machine.execMboxAlloc b pool s
  | .mboxFree b handle => Sys2Proof.Machine.execMboxFree b handle s
  | .mboxAddref b handle => Sys2Proof.Machine.execMboxAddref b handle s
  | .mboxReadhdr b handle => Sys2Proof.Machine.execMboxReadhdr b handle s
  | .mboxReclaim b pass => Sys2Proof.Machine.execMboxReclaim b pass s
  | .mboxBadOp b op => Sys2Proof.Machine.execMboxBadOp b op s
  | .dfreeLogClear b => Sys2Proof.Machine.execDfreeLogClear b s
  | .bufferWindowAccess b k w => Sys2Proof.Machine.execBufferWindowAccess b k w s
  | .mirrWrite k v => Sys2Proof.Machine.execMirrWrite k v s
  | .gateEntryBegin p sent => Sys2Proof.Machine.execGateEntryBegin p sent s
  | .holdAssert p sent => Sys2Proof.Machine.execHoldAssert p sent s
  | .configChangeRequest b v => Sys2Proof.Machine.execConfigChangeRequest b v s
  | .configChangeComplete p => Sys2Proof.Machine.execConfigChangeComplete p s
  | .gclHiWrite b v => Sys2Proof.Machine.execGclHiWrite b v s
  | .gclLoRead b => Sys2Proof.Machine.execGclLoRead b s
  | .gclHiRead b => Sys2Proof.Machine.execGclHiRead b s
  | .sqRead b => Sys2Proof.Machine.execSqRead b s
  | .sqWrite b => Sys2Proof.Machine.execSqWrite b s
  | .sqReset b => Sys2Proof.Machine.execSqReset b s
  | .sqBadOp b op => Sys2Proof.Machine.execSqBadOp b op s
  | .watchTest t k => Sys2Proof.Machine.execWatchTest t k s
  | .watchCfgWrite t k led v => Sys2Proof.Machine.execWatchCfgWrite t k led v s
  | .teamRailFall t => Sys2Proof.Machine.execTeamRailFall t s
  | .sharedRailFall => Sys2Proof.Machine.execSharedRailFall s
  | .teamPllUnlock t => Sys2Proof.Machine.execTeamPllUnlock t s
  | .jqTailWrite c q v => Sys2Proof.Machine.execJqTailWrite c q v s
  | .jobCtr c q j => Sys2Proof.Machine.execJobCtr c q j s
  | .jobCbcEnc c q j => Sys2Proof.Machine.execJobCbcEnc c q j s
  | .jobCbcDec c q j => Sys2Proof.Machine.execJobCbcDec c q j s
  | .jobCfbEnc c q j => Sys2Proof.Machine.execJobCfbEnc c q j s
  | .jobCfbDec c q j => Sys2Proof.Machine.execJobCfbDec c q j s
  | .jobGcmEnc c q j => Sys2Proof.Machine.execJobGcmEnc c q j s
  | .jobGcmDec c q j => Sys2Proof.Machine.execJobGcmDec c q j s
  | .jobGmacGen c q j => Sys2Proof.Machine.execJobGmacGen c q j s
  | .jobGmacVer c q j => Sys2Proof.Machine.execJobGmacVer c q j s
  | .jobCmacGen c q j => Sys2Proof.Machine.execJobCmacGen c q j s
  | .jobCmacVer c q j => Sys2Proof.Machine.execJobCmacVer c q j s
  | .jobNop c q j => Sys2Proof.Machine.execJobNop c q j s
  | .jobBadOp c q j => Sys2Proof.Machine.execJobBadOp c q j s
  | .jobDmaError c q desc wrote => Sys2Proof.Machine.execJobDmaError c q desc wrote s
  | .jqEnable c q size => Sys2Proof.Machine.execJqEnable c q size s
  | .katStart c => Sys2Proof.Machine.execKatStart c s
  | .katDone c mask => Sys2Proof.Machine.execKatDone c mask s
  | .hbmRefresh c bank busy => Sys2Proof.Machine.execHbmRefresh c bank busy s
  | .retryWindowExit c n stall => Sys2Proof.Machine.execRetryWindowExit c n stall s
  | .parityAlert c => Sys2Proof.Machine.execParityAlert c s
  | .hbmEccError c ue place b q n => Sys2Proof.Machine.execHbmEccError c ue place b q n s
  | .trainingStart c => Sys2Proof.Machine.execTrainingStart c s
  | .trainingStepDone c pass ca lanes => Sys2Proof.Machine.execTrainingStepDone c pass ca lanes s
  | .chRetrainCmd c => Sys2Proof.Machine.execChRetrainCmd c s
  | .tempRetrain c t => Sys2Proof.Machine.execTempRetrain c t s
  | .stackTempHigh t => Sys2Proof.Machine.execStackTempHigh t s
  | .freqRequest v => Sys2Proof.Machine.execFreqRequest v s
  | .freqChangeDone => Sys2Proof.Machine.execFreqChangeDone s
  | .halfFailed t phy => Sys2Proof.Machine.execHalfFailed t phy s
  | .imageArm t => Sys2Proof.Machine.execImageArm t s
  | .imageCopyDone t => Sys2Proof.Machine.execImageCopyDone t s
  | .imageDisarm t => Sys2Proof.Machine.execImageDisarm t s
  | .domainRequestOn d idle => Sys2Proof.Machine.execDomainRequestOn d idle s
  | .domainRequestNap d idle => Sys2Proof.Machine.execDomainRequestNap d idle s
  | .domainRequestOff d idle => Sys2Proof.Machine.execDomainRequestOff d idle s
  | .domainTransitionDone d => Sys2Proof.Machine.execDomainTransitionDone d s
  | .wakeEvent d src => Sys2Proof.Machine.execWakeEvent d src s
  | .wakeTimeout d osc => Sys2Proof.Machine.execWakeTimeout d osc s
  | .domainIdleEntry d => Sys2Proof.Machine.execDomainIdleEntry d s
  | .domainIdleExit d => Sys2Proof.Machine.execDomainIdleExit d s
  | .clkSelect v => Sys2Proof.Machine.execClkSelect v s
  | .teamPllLock t => Sys2Proof.Machine.execTeamPllLock t s
  | .teamPllTimeout t => Sys2Proof.Machine.execTeamPllTimeout t s
  | .devRequestRun => Sys2Proof.Machine.execDevRequestRun s
  | .devRequestDoze => Sys2Proof.Machine.execDevRequestDoze s
  | .devRequestAnneal => Sys2Proof.Machine.execDevRequestAnneal s
  | .devRequestReserved => Sys2Proof.Machine.execDevRequestReserved s
  | .dozeDrainEnd => Sys2Proof.Machine.execDozeDrainEnd s
  | .deviceTransitionDone => Sys2Proof.Machine.execDeviceTransitionDone s
  | .hostWake => Sys2Proof.Machine.execHostWake s
  | .pinWake => Sys2Proof.Machine.execPinWake s
  | .timeAlarm => Sys2Proof.Machine.execTimeAlarm s
  | .hbmAutoIdle => Sys2Proof.Machine.execHbmAutoIdle s
  | .sagGate u => Sys2Proof.Machine.execSagGate u s
  | .sagWake u => Sys2Proof.Machine.execSagWake u s
  | .sliceWakeFail u => Sys2Proof.Machine.execSliceWakeFail u s
  | .sliceWakeRetry u ok => Sys2Proof.Machine.execSliceWakeRetry u ok s
  | .lehrHold hold => Sys2Proof.Machine.execLehrHold hold s
  | .lehrLoad hold => Sys2Proof.Machine.execLehrLoad hold s
  | .lehrInvalidate hold => Sys2Proof.Machine.execLehrInvalidate hold s
  | .lehrScrub ce ue => Sys2Proof.Machine.execLehrScrub ce ue s
  | .lehrWindowAccess k w => Sys2Proof.Machine.execLehrWindowAccess k w s
  | .ledgerPeriodEnd ea eb es => Sys2Proof.Machine.execLedgerPeriodEnd ea eb es s
  | .coldStart strap => Sys2Proof.Machine.execColdStart strap s
  | .aonSupplyLoss => Sys2Proof.Machine.execAonSupplyLoss s
  | .resetPin => Sys2Proof.Machine.execResetPin s
  | .fullResetRelease => Sys2Proof.Machine.execFullResetRelease s
  | .firmwareVerifyDone fw0 fw1 => Sys2Proof.Machine.execFirmwareVerifyDone fw0 fw1 s
  | .selftestDone bad => Sys2Proof.Machine.execSelftestDone bad s
  | .hbmInitDone late => Sys2Proof.Machine.execHbmInitDone late s
  | .patchLoadDone pb0 pb1 plain0 plain1 => Sys2Proof.Machine.execPatchLoadDone pb0 pb1 plain0 plain1 s
  | .restoreDone badA badB => Sys2Proof.Machine.execRestoreDone badA badB s
  | .bootGo => Sys2Proof.Machine.execBootGo s
  | .bootReset => Sys2Proof.Machine.execBootReset s
  | .wdogKick => Sys2Proof.Machine.execWdogKick s
  | .svnCommit => Sys2Proof.Machine.execSvnCommit s
  | .keyRevoke key => Sys2Proof.Machine.execKeyRevoke key s
  | .bootCmdBad op confirm => Sys2Proof.Machine.execBootCmdBad op confirm s
  | .bcfgWrite v => Sys2Proof.Machine.execBcfgWrite v s
  | .watchdogWarn => Sys2Proof.Machine.execWatchdogWarn s
  | .watchdogExpiry => Sys2Proof.Machine.execWatchdogExpiry s
  | .wedgeDetect k => Sys2Proof.Machine.execWedgeDetect k s
  | .flashRead ok => Sys2Proof.Machine.execFlashRead ok s
  | .flashProgram confirm => Sys2Proof.Machine.execFlashProgram confirm s
  | .flashErase confirm => Sys2Proof.Machine.execFlashErase confirm s
  | .flashBadOp op => Sys2Proof.Machine.execFlashBadOp op s
  | .hostInterfaceReset writing speed width => Sys2Proof.Machine.execHostInterfaceReset writing speed width s
  | .pciPowerState d3 => Sys2Proof.Machine.execPciPowerState d3 s
  | .intForceWrite p v => Sys2Proof.Machine.execIntForceWrite p v s
  | .vecEoi v => Sys2Proof.Machine.execVecEoi v s
  | .msixUnmask u => Sys2Proof.Machine.execMsixUnmask u s
  | .pageSnap p v => Sys2Proof.Machine.execPageSnap p v s
  | .pageCounterClear p v => Sys2Proof.Machine.execPageCounterClear p v s
  | .deviceSnap => Sys2Proof.Machine.execDeviceSnap s
  | .withholdRelease p => Sys2Proof.Machine.execWithholdRelease p s
  | .txDescriptorFetch k d bytes => Sys2Proof.Machine.execTxDescriptorFetch k d bytes s
  | .rxFrameWrite r addrs => Sys2Proof.Machine.execRxFrameWrite r addrs s
  | .irqCoalesceEnd n => Sys2Proof.Machine.execIrqCoalesceEnd n s
  | .ringEnable n v => Sys2Proof.Machine.execRingEnable n v s
  | .ringDisable n v => Sys2Proof.Machine.execRingDisable n v s
  | .ringDmaError n k wrote => Sys2Proof.Machine.execRingDmaError n k wrote s
  | .i2cRead a pec => Sys2Proof.Machine.execI2cRead a pec s
  | .i2cWrite a v pec => Sys2Proof.Machine.execI2cWrite a v pec s
  | .i2cWake pec => Sys2Proof.Machine.execI2cWake pec s
  | .i2cReset pec => Sys2Proof.Machine.execI2cReset pec s
  | .i2cStatus pec => Sys2Proof.Machine.execI2cStatus pec s
  | .i2cBadCommand cmd arg => Sys2Proof.Machine.execI2cBadCommand cmd arg s
  | .gpioEdge n level => Sys2Proof.Machine.execGpioEdge n level s
  | .thermalTrip t => Sys2Proof.Machine.execThermalTrip t s
  | .thermalTripRelease a b c => Sys2Proof.Machine.execThermalTripRelease a b c s
  | .flashDone ok => Sys2Proof.Machine.execFlashDone ok s
  | .fuseBurnDone ok => Sys2Proof.Machine.execFuseBurnDone ok s
  | .mboxDone b => Sys2Proof.Machine.execMboxDone b s
  | .hbmSupplyLoss => Sys2Proof.Machine.execHbmSupplyLoss s

end Sys2Proof.Machine
end

