-- ==== Sys2Proof/Safety.lean ====
section
/-! DEFINITION. The terms the statements use: a page that takes host accesses, a cause that is set, what a command leaves
alone, and the invariants: of the interrupt tree, of the memories, and of the hash tables. -/

namespace Sys2Proof.Machine

/-- A page takes a host access (R31, R32, R439, R493, R510): the link is not in D3hot, the shared half is powered, the start has
not failed, the page's hub answers and has taken every access before, and its domain is steady in ON or IDLE. -/
def State.takes (s : State) (p : Nat) : Prop :=
  s.pcie.d3 = false ∧ s.hostGone = false ∧ s.pageLost p = false ∧ s.pageUp p = true ∧ s.domSteady (pageDomain p) = true ∧
    s.waits p = false

/-- Cause `i` of a page is set in INT_STATUS (R517). -/
def State.caused (s : State) (p i : Nat) : Prop := bit (s.rd p 0x010).toNat i = true

/-- What a command leaves alone. `t` has every field of `s` but registers and counters, the interrupt messages and the
COAL timers that messages start; and on the pages outside `P` every register and counter of `s` (HOST counts messages
that have no address). -/
structure Touches (s t : State) (P : Nat → Prop) : Prop where
  rest : t = { s with regs := t.regs, ctrs := t.ctrs, irq := t.irq, ring := t.ring }
  regs : ∀ p off w, off < 4096 → w < 4096 → ¬ P p → t.rd p off w = s.rd p off w
  ctrs : ∀ p off w, off < 4096 → w < 4096 → ¬ P p → p ≠ pgHost → t.ctr p off w = s.ctr p off w
  rings : ∀ i, t.ringAt i = { s.ringAt i with cooling := (t.ringAt i).cooling }

/-- The interrupt tree is settled (R523, R524): the active vectors are those of the pending pages and rings, and only the
pending bits of active vectors are set. -/
def State.settled (s : State) : Prop :=
  s.irq.active = BitVec.ofNat 64 s.vectors ∧ s.irq.pba &&& ~~~ s.irq.active = 0

/-- A hash table is sound (R149 to R152): a key stands once. Entries of one key in the ways stand at one placement that its
hash gives, and fill it; a key in the stash stands nowhere else. -/
def HTab.sound (t : HTab) (sp : HSpec) : Prop :=
  (∀ i j e f, t.slot i = some e → t.slot j = some f → e.key = f.key →
    ∃ w, w < 4 ∧ i ∈ sp.place w e ∧ j ∈ sp.place w e ∧ ∀ k ∈ sp.place w e, t.slot k = some e) ∧
  (∀ e ∈ t.stash, ∀ i f, t.slot i = some f → f.key ≠ e.key) ∧
  t.stash.Pairwise fun a b => a.key ≠ b.key

/-- Every hash table of every bench is sound for the seeds as they stand, its entries as wide as their keys say, its stash of at
most 64 (R150 to R153). -/
def State.tablesSound (s : State) : Prop :=
  ∀ b k, b < 8 → k ∈ hashKinds → let t := (s.tabsAt b).hget k
    Tab.wf (fun _ => none) t.slots = true ∧ t.sound (s.hspec b k) ∧ t.stash.length ≤ 64 ∧
    (∀ i e, t.slot i = some e → e.wide = k.wideKey e.key) ∧ ∀ e ∈ t.stash, e.wide = k.wideKey e.key

/-- The memories stand in their canonical form: the buffers' banks, the flash, the lehr, and host memory. -/
def State.memoriesWf (s : State) : Prop :=
  Memory.wf s.bank = true ∧ Memory.wf s.flash = true ∧ Memory.wf s.lehr.mem = true ∧ Memory.wf s.hostMem = true

end Sys2Proof.Machine
end

