-- ==== Sys2Proof/Certificates/Slice0/Obligations.lean ====
section
/-! DEFINITION. The statements for the provers: what each command does, by the rules of the spec, and what every step keeps. -/

open Sys2Proof Sys2Proof.Machine

/-- The model's step: with a command at the front of the queue, it is exec of that command on the state with the queue's rest;
with none, one clock of the time unit passes (log 2); and every command answers a next state. -/
def Obligations.StepRunsFrontCommand : Prop :=
  (∀ (c : Instr) (rest : List Instr) (s : State),
    Sys2Proof.Machine.step { s with pending := c :: rest } = Sys2Proof.Machine.exec c { s with pending := rest }) ∧
  (∀ s : State, s.pending = [] → Sys2Proof.Machine.step s = .next s.timeClock) ∧
  (∀ (c : Instr) (s : State), ∃ t, Sys2Proof.Machine.exec c s = .next t)

/-- R14, R517: what reset leaves. The queue is empty, no page has a cause set or enabled, no counter has counted, the
interrupt tree is settled, the time is invalid, no command is held, and every memory (buffer banks, boot flash, lehr, host
memory) lists nothing. (The values of registers and memories that the spec gives no reset value are the model's choice, logs 1
and 7; which pages answer before the start is its choice too, log 3.) -/
def Obligations.ResetState : Prop :=
  State.reset.pending = [] ∧ State.reset.settled ∧ State.reset.timeValid = false ∧ State.reset.gridTick = 0 ∧
  (∀ p, p < 0x4000 → State.reset.rd p 0x010 = 0 ∧ State.reset.rd p 0x014 = 0) ∧
  (∀ p off w, State.reset.ctr p off w = 0) ∧ State.reset.hub.held = [] ∧ State.reset.irq.pba = 0 ∧
  (Memory.wf State.reset.bank = true ∧ State.reset.bank = []) ∧ State.reset.flash = [] ∧ State.reset.hostMem = [] ∧
  State.reset.lehr.mem = []

/-- R523, R524: the interrupt tree stays settled. In every state a step leaves, from a settled one: the active vectors are
exactly those of the pending pages and rings, and no inactive vector keeps a pending bit. -/
def Obligations.InterruptTreeStaysSettled : Prop :=
  ∀ s t : State, s.settled → Sys2Proof.Machine.step s = .next t → t.settled

/-- R80, R82, R90, R93, R94: the link events of a port. LINK_UP_QUALIFIED with a good link brings a port of DOWN or HOLD to
UP. LINK_DOWN_QUALIFIED with a fault in UP counts LINK_DOWN_EVENTS and brings the port to HOLD, or with HOLD = 0 takes the
actions of hold expiry. HOLD_EXPIRY in HOLD takes those actions: the queues flushed, the learned entries' removal, DOWN,
HOLD_EXP and cause 16. A state change sets LINK_CHG and the port's cause. INBAND_STATUS gives a field port its word and
acknowledges it, a half-duplex or reserved speed setting UNSUP_MODE and cause 17; on a trunk port or with AN_BYPASS = 1 it
does nothing. LINK_FAULT gives the port its receive conditions, and the lane's ports their lock, which needs the quad ON or
IDLE with reference and PLL. MM_VERIFY ends the verification with VERIFY_STATUS 3 or 4, and failure sets MM_VERIFY_FAIL and
cause 18. -/
def Obligations.LinkEventsTakeEffect : Prop :=
  (∀ (s : State) (p : PortId), s.linkGood p = true → s.lstate p = 1 ∨ s.lstate p = 3 →
    Sys2Proof.Machine.exec (.linkUpQualified p) s = .next (settle (s.setLstate p 2))) ∧
  (∀ (s : State) (p : PortId), s.lstate p = 2 → s.linkGood p = false →
    Sys2Proof.Machine.exec (.linkDownQualified p) s = .next (settle (
      (if s.portFld p Reg.PORT.HOLDCFG_HOLD = 0 then (s.portCount p Reg.PORT.LINK_DOWN_EVENTS).holdExpired p
        else (s.portCount p Reg.PORT.LINK_DOWN_EVENTS).setLstate p 3).checkPath p))) ∧
  (∀ (s : State) (p : PortId), s.lstate p = 3 →
    Sys2Proof.Machine.exec (.holdExpiry p) s = .next (settle (s.holdExpired p)) ∧
    s.holdExpired p = ((((s.portFlush p).learnedFlush p).setLstate p 1).setPortFld p Reg.PORT.PSTAT_HOLD_EXP 1).portRaise p 16) ∧
  (∀ (s : State) (p : PortId) (n : Nat), n < 4 → s.lstate p ≠ n → let t := s.setLstate p n
    t.lstate p = n ∧ t.portFlag p Reg.PORT.PSTAT_LINK_CHG = true ∧ t.caused (pgPort (portGroup p)) (portSlot p)) ∧
  (∀ (s : State) (p : PortId) (up : Bool) (speed : Fin 8) (half : Bool),
    (p.val < 384 → s.portFlag p Reg.PORT.PCFG_AN_BYPASS = false →
      ∃ t, Sys2Proof.Machine.exec (.inbandStatus p up speed half) s = .next t ∧
        t.linkAt p = { s.linkAt p with up := up, speed := speed, half := half, ack := true } ∧
        (∀ q, q ≠ p.val → t.linkAt q = s.linkAt q) ∧
        (half = true ∨ 3 < speed.val → t.portFlag p Reg.PORT.PSTAT_UNSUP_MODE = true ∧
          t.caused (pgPort (portGroup p)) 17) ∧
        Touches { s with link := t.link } t (fun g => g = pgPort (portGroup p) ∨ g = pgTime)) ∧
    (384 ≤ p.val ∨ s.portFlag p Reg.PORT.PCFG_AN_BYPASS = true →
      Sys2Proof.Machine.exec (.inbandStatus p up speed half) s = .next (settle s))) ∧
  (∀ (s : State) (p : PortId) (lock remote loc fecLock : Bool) (an : Fin 3) (sig prbs : Bool) (errs : Nat),
    ∃ t, Sys2Proof.Machine.exec (.linkFault p lock remote loc fecLock ⟨an, sig, prbs, errs⟩) s = .next t ∧
      t.linkAt p = { s.linkAt p with lock := lock && s.quadGood (portQuad p), remote := remote, loc := loc, fecLock := fecLock, an := an } ∧
      (∀ q, q ∈ lanePorts (portLane p) → q ≠ p.val → t.linkAt q = { s.linkAt q with lock := lock && s.quadGood (portQuad p) }) ∧
      (∀ q, q ∉ lanePorts (portLane p) → t.linkAt q = s.linkAt q) ∧
      Touches { s with link := t.link } t (fun g => g = pgSerdes (portQuad p) ∨ g / 256 = 8 ∨ g = pgTime)) ∧
  (∀ (s : State) (p : PortId), s.portFld p Reg.PORT.MMCFG_VERIFY_STATUS = 2 →
    Sys2Proof.Machine.exec (.mmVerify p true) s =
      .next (settle ((s.setPortFld p Reg.PORT.MMCFG_VERIFY_STATUS 3).mmTrack p)) ∧
    Sys2Proof.Machine.exec (.mmVerify p false) s =
      .next (settle ((((s.setPortFld p Reg.PORT.MMCFG_VERIFY_STATUS 4).mmTrack p).setPortFld p
        Reg.PORT.PSTAT_MM_VERIFY_FAIL 1).portRaise p 18)))

/-- R83, R84, R94: PORT_DISABLE, PORT_ENABLE and FEC_WRITE are host writes of PCFG that replace EN or FEC and leave the
register's other bits. A write that takes EN from 1 to 0 flushes the port's queues, removes its learned entries if
FLUSH_ON_DOWN = 1, and brings it to DISABLED; one that takes EN from 0 to 1 brings it to DOWN; any other leaves its state.
Where the port first finds its FEC value unsupported, UNSUP_MODE and cause 17 are set. PSTAT then follows the link. -/
def Obligations.PortConfigWrites : Prop :=
  (∀ (s : State) (p : PortId), s.takes (pgPort (portGroup p)) →
    Sys2Proof.Machine.exec (.portDisable p) s = .next (settle ((s.hubAnswered (pgPort (portGroup p))).pcfgWrite p
      (s.pcfgWith p Reg.PORT.PCFG_EN 0))) ∧
    Sys2Proof.Machine.exec (.portEnable p) s = .next (settle ((s.hubAnswered (pgPort (portGroup p))).pcfgWrite p
      (s.pcfgWith p Reg.PORT.PCFG_EN 1))) ∧
    ∀ f : Fin 4, Sys2Proof.Machine.exec (.fecWrite p f) s = .next (settle ((s.hubAnswered (pgPort (portGroup p))).pcfgWrite p
      (s.pcfgWith p Reg.PORT.PCFG_FEC f)))) ∧
  (∀ (s : State) (p : PortId) (v i : Nat), i < 32 → let old := (s.rd (pgPort (portGroup p)) (Reg.PORT.PCFG (portSlot p)).off).toNat
    let en := Reg.PORT.PCFG_EN (portSlot p)
    let fec := Reg.PORT.PCFG_FEC (portSlot p)
    bit (s.pcfgWith p Reg.PORT.PCFG_EN v).toNat i = (if en.lo ≤ i ∧ i ≤ en.hi then bit v (i - en.lo) else bit old i) ∧
    bit (s.pcfgWith p Reg.PORT.PCFG_FEC v).toNat i = (if fec.lo ≤ i ∧ i ≤ fec.hi then bit v (i - fec.lo) else bit old i)) ∧
  (∀ (s : State) (p : PortId) (v : W32), let s1 := s.plainWrite (pgPort (portGroup p)) (Reg.PORT.PCFG (portSlot p)).off 0 v
    let then_ := fun w : State => (if (s.fecSupported p = true ∨ s.portFld p Reg.PORT.PCFG_FEC ≠ w.portFld p Reg.PORT.PCFG_FEC) ∧
      w.fecSupported p = false then (w.setPortFld p Reg.PORT.PSTAT_UNSUP_MODE 1).portRaise p 17 else w).linksTrack [p.val]
    (s.portFlag p Reg.PORT.PCFG_EN = true → s1.portFlag p Reg.PORT.PCFG_EN = false →
      s.pcfgWrite p v = then_ ((((s1.portFlush p).learnedFlush p).setLstate p 0).checkPath p)) ∧
    (s.portFlag p Reg.PORT.PCFG_EN = false → s1.portFlag p Reg.PORT.PCFG_EN = true → s.pcfgWrite p v = then_ (s1.setLstate p 1)) ∧
    (s.portFlag p Reg.PORT.PCFG_EN = s1.portFlag p Reg.PORT.PCFG_EN → s.pcfgWrite p v = then_ s1)) ∧
  (∀ (s : State) (p : PortId) (v : W32), s.portFlag p Reg.PORT.PCFG_EN = false → bit v.toNat 0 = true →
    (s.pcfgWrite p v).lstate p = 1 ∧ (s.pcfgWrite p v).portFlag p Reg.PORT.PCFG_EN = true)

/-- R75, R76, R78, R108: the quad and lane events. RATE_WRITE of another rate to a trunk quad is refused with RATE_REJECT and
cause 6 where the rate is 3 or a port of the quad is enabled, and takes effect otherwise, UNSUP_MODE and cause 17 being set on
each port whose FEC value the rate does not have. SDREF_LOSS clears REF_OK with cause 4, drops the PLL lock and stops the
quad's lanes; SDREF_RESTORE sets REF_OK; QUAD_PLL_LOCK of a quad ON or IDLE with its reference sets PLL_LOCK; QUAD_PLL_UNLOCK
clears it with cause 5 and stops the quad's lanes. CDR_LOSS clears the lane's CDR_LOCK and the lock of its ports, counts, and
raises the lane's cause. -/
def Obligations.QuadAndLaneEvents : Prop :=
  (∀ (s : State) (q : QuadId) (r : Fin 4), s.takes (pgSerdes q) → quadIsField q = false → r.val ≠ s.quadRate q →
    (r.val = 3 ∨ (quadPorts q).any (fun p => s.portFlag p Reg.PORT.PCFG_EN) = true →
      Sys2Proof.Machine.exec (.rateWrite q r) s = .next (settle (((s.hubAnswered (pgSerdes q)).setFld (pgSerdes q)
        Reg.SERDES.QSTAT_RATE_REJECT 1).raise (pgSerdes q) 6))) ∧
    (r.val ≠ 3 → (quadPorts q).any (fun p => s.portFlag p Reg.PORT.PCFG_EN) = false →
      Sys2Proof.Machine.exec (.rateWrite q r) s = .next (settle ((((s.hubAnswered (pgSerdes q)).setL (pgSerdes q)
        Reg.SERDES.QCFG_RATE r).each (quadPorts q) fun x p => x.ifDo (!x.fecSupported p) fun x => x.unsupported p).linksTrack
          (quadPorts q))) ∧
      ∃ t, Sys2Proof.Machine.exec (.rateWrite q r) s = .next t ∧ t.quadRate q = r.val)) ∧
  (∀ (s : State) (q : QuadId), s.flag (pgSerdes q) Reg.SERDES.QSTAT_REF_OK = true →
    Sys2Proof.Machine.exec (.sdrefLoss q) s = .next (settle ((((s.setFld (pgSerdes q) Reg.SERDES.QSTAT_REF_OK 0).raise
      (pgSerdes q) 4).quadPllLost q).quadStopped q))) ∧
  (∀ (s : State) (q : QuadId), Sys2Proof.Machine.exec (.sdrefRestore q) s =
    .next (settle (s.setFld (pgSerdes q) Reg.SERDES.QSTAT_REF_OK 1))) ∧
  (∀ (s : State) (q : QuadId), s.flag (pgSerdes q) Reg.SERDES.QSTAT_REF_OK = true → s.domOn q = true →
    ∃ t, Sys2Proof.Machine.exec (.quadPllLock q) s = .next t ∧ t.flag (pgSerdes q) Reg.SERDES.QSTAT_PLL_LOCK = true ∧
      Touches s t (fun g => g = pgSerdes q ∨ g / 256 = 8 ∨ g = pgTime)) ∧
  (∀ (s : State) (q : QuadId), s.flag (pgSerdes q) Reg.SERDES.QSTAT_PLL_LOCK = true →
    Sys2Proof.Machine.exec (.quadPllUnlock q) s = .next (settle (((s.setFld (pgSerdes q) Reg.SERDES.QSTAT_PLL_LOCK 0).raise
      (pgSerdes q) 5).quadStopped q))) ∧
  (∀ (s : State) (l : LaneId), s.flag (pgSerdes (l / 4)) (Reg.SERDES.RXSTAT_CDR_LOCK (l % 4)) = true →
    ∃ t, Sys2Proof.Machine.exec (.cdrLoss l) s = .next t ∧
      t.flag (pgSerdes (l / 4)) (Reg.SERDES.RXSTAT_CDR_LOCK (l % 4)) = false ∧ t.caused (pgSerdes (l / 4)) (l % 4) ∧
      t.ctr (pgSerdes (l / 4)) (Reg.SERDES.CDR_LOSS_CNT (l % 4)) =
        s.ctr (pgSerdes (l / 4)) (Reg.SERDES.CDR_LOSS_CNT (l % 4)) + 1 ∧
      (∀ p ∈ lanePorts l, t.linkAt p = { s.linkAt p with lock := false }) ∧
      (∀ p, p ∉ lanePorts l → t.linkAt p = s.linkAt p) ∧
      Touches { s with link := t.link } t (fun g => g = pgSerdes (l / 4) ∨ g / 256 = 8 ∨ g = pgTime))

/-- R101 to R103: the MDIO commands, each a write of MDIO_CMD with its OP. While a frame is in progress the command is lost
with CMD_LOST. Otherwise, with the 25 MHz reference present, an address frame of Clause 45 form, a write and a read start a
frame with RESULT BUSY; OP 3 always, an address frame of Clause 22 form, and every command while the reference is absent end
at once with DONE, ERR and causes 19 and 20. The end of a read gives its data with DONE and cause 19, or ERR and cause 20 as
well where no device drove the turnaround, which none does before forwarding begins (R504, log 284); the end of a write or an
address frame gives DONE. -/
def Obligations.MdioFrames : Prop :=
  (∀ (s : State) (m : Fin 4) (v : W32), s.takes (mdioPage m) → s.flag (mdioPage m) Reg.PORT.MDIO_RESULT_BUSY = true →
    let lost : Host.Outcome State Fault Refusal :=
      .next (settle ((s.hubAnswered (mdioPage m)).setFld (mdioPage m) Reg.PORT.MDIO_STAT_CMD_LOST 1))
    Sys2Proof.Machine.exec (.mdioAddress m v) s = lost ∧ Sys2Proof.Machine.exec (.mdioWrite m v) s = lost ∧
    Sys2Proof.Machine.exec (.mdioRead m v) s = lost ∧ Sys2Proof.Machine.exec (.mdioReserved m v) s = lost) ∧
  (∀ (s : State) (m : Fin 4) (v : W32), s.takes (mdioPage m) → s.flag (mdioPage m) Reg.PORT.MDIO_RESULT_BUSY = false →
    let begun := fun op => (Host.Outcome.next (settle (((s.hubAnswered (mdioPage m)).wr (mdioPage m) Reg.PORT.MDIO_RESULT.off
      0x40000000).putMdio m (some (mdioWord v op)))) : Host.Outcome State Fault Refusal)
    let failed : Host.Outcome State Fault Refusal := .next (settle (((((s.hubAnswered (mdioPage m)).putMdio m none).wr
      (mdioPage m) Reg.PORT.MDIO_RESULT.off 0xA0000000).raise (mdioPage m) 19).raise (mdioPage m) 20))
    (s.flag pgTime Reg.TIME.STAT_REF_OK = true →
      (bit v.toNat 31 = true → Sys2Proof.Machine.exec (.mdioAddress m v) s = begun 0) ∧
      (bit v.toNat 31 = false → Sys2Proof.Machine.exec (.mdioAddress m v) s = failed) ∧
      Sys2Proof.Machine.exec (.mdioWrite m v) s = begun 1 ∧ Sys2Proof.Machine.exec (.mdioRead m v) s = begun 2) ∧
    (s.flag pgTime Reg.TIME.STAT_REF_OK = false → Sys2Proof.Machine.exec (.mdioAddress m v) s = failed ∧
      Sys2Proof.Machine.exec (.mdioWrite m v) s = failed ∧ Sys2Proof.Machine.exec (.mdioRead m v) s = failed) ∧
    Sys2Proof.Machine.exec (.mdioReserved m v) s = failed) ∧
  (∀ (s : State) (m : Fin 4) (v : W32) (ack : Bool) (data : W16), s.mdioAt m = some v →
    s.flag (mdioPage m) Reg.PORT.MDIO_CFG_EN = true →
    ∃ t, Sys2Proof.Machine.exec (.mdioDone m ack data) s = .next t ∧ t.mdioAt m = none ∧
      t.rd (mdioPage m) Reg.PORT.MDIO_RESULT.off = (if bits v.toNat 30 29 ≠ 2 then 0x80000000 else
        if ack && s.boot.forwards then 0x80000000 ||| data.setWidth 32 else 0xA0000000) ∧
      t.caused (mdioPage m) 19 ∧ (bits v.toNat 30 29 = 2 → (ack && s.boot.forwards) = false → t.caused (mdioPage m) 20) ∧
      Touches { s with mdio := t.mdio } t (· = mdioPage m))

/-- R70, R73: the reads of the time unit that latch. NOW_NS gives the nanoseconds of the time and latches its seconds in
NOW_SEC. GRID_TICK_LO gives the low word of the grid tick and latches its high word and the time of its edge. PPS_IN_NS gives
the captured nanoseconds, latches the captured seconds in PPS_IN_SEC and clears NEW. ETS0 of a bench gives the oldest entry of
its capture FIFO with its VALID bit, latches its time in ETS1 to ETS3 and removes it; with the FIFO empty it gives 0 and
changes nothing. Each read leaves every other field of the state, and every other page, as it was. And R70, R71: pulse per
second. An edge of PPS_IN of the selected sense, while capture is enabled and the unit is on, records the time, sets NEW,
raises cause 2, and counts in PPS_IN_LOST the unread capture it overwrites. PPS_OUT rises, once forwarding has begun (R504),
while enabled and the time valid, at the next second plus its offset; it falls its width after that instant (the model's
instants: the time moves on to them). -/
def Obligations.TimeReadsAndPulses : Prop :=
  ((∀ s : State, s.takes pgTime → ∃ t, Sys2Proof.Machine.exec .nowNsRead s = .next t ∧
    t.resp = [BitVec.ofNat 32 (nsOf s.time.now)] ∧ t.fld pgTime Reg.TIME.NOW_SEC_LO = secOf s.time.now % 2 ^ 32 ∧
    t.fld pgTime Reg.TIME.NOW_SEC_HI = secOf s.time.now / 2 ^ 32 % 2 ^ 16 ∧
    Touches { s with resp := t.resp } t (· = pgTime)) ∧
  (∀ s : State, s.takes pgTime → ∃ t, Sys2Proof.Machine.exec .gridTickLoRead s = .next t ∧
    t.resp = [BitVec.ofNat 32 s.gridTick] ∧ t.fld pgTime Reg.TIME.GRID_TICK_HI = s.gridTick / 2 ^ 32 % 2 ^ 32 ∧
    t.fld pgTime Reg.TIME.EDGE_NS = nsOf s.time.edge ∧ t.fld pgTime Reg.TIME.EDGE_SEC_LO = secOf s.time.edge % 2 ^ 32 ∧
    t.fld pgTime Reg.TIME.EDGE_SEC_HI = secOf s.time.edge / 2 ^ 32 % 2 ^ 16 ∧
    Touches { s with resp := t.resp } t (· = pgTime)) ∧
  (∀ s : State, s.takes pgTime → ∃ t, Sys2Proof.Machine.exec .ppsInNsRead s = .next t ∧
    t.resp = [s.rd pgTime Reg.TIME.PPS_IN_NS.off] ∧ t.fld pgTime Reg.TIME.PPS_IN_SEC_LO = s.time.capSec % 2 ^ 32 ∧
    t.rd pgTime Reg.TIME.PPS_IN_SEC_HI.off = BitVec.ofNat 32 (s.time.capSec / 2 ^ 32 % 65536) ∧
    t.flag pgTime Reg.TIME.PPS_IN_SEC_HI_NEW = false ∧ t.rd pgTime Reg.TIME.PPS_IN_NS.off = s.rd pgTime Reg.TIME.PPS_IN_NS.off ∧
    Touches { s with resp := t.resp } t (· = pgTime)) ∧
  (∀ (s : State) (b : BenchId) (p tag u : Nat) (rest : List (Nat × Nat × Nat)), s.takes pgTime →
    (s.tickAt b).ets = (p, tag, u) :: rest → ∃ t, Sys2Proof.Machine.exec (.ets0Read b) s = .next t ∧
    t.resp = [BitVec.ofNat 32 (2 ^ 31 + p % 512 * 65536 + tag % 65536)] ∧ t.tickAt b = { s.tickAt b with ets := rest } ∧
    (∀ c, c ≠ b.val → t.tickAt c = s.tickAt c) ∧
    t.fld pgTime (Reg.TIME.ETS1 b) = nsOf u ∧ t.fld pgTime (Reg.TIME.ETS2 b) = secOf u % 2 ^ 32 ∧
    t.fld pgTime (Reg.TIME.ETS3 b) = secOf u / 2 ^ 32 % 2 ^ 16 ∧
    Touches { s with resp := t.resp, tick := t.tick } t (· = pgTime)) ∧
  (∀ (s : State) (b : BenchId), s.takes pgTime → (s.tickAt b).ets = [] →
    Sys2Proof.Machine.exec (.ets0Read b) s = .next (settle { s with resp := [0] }))) ∧
  ((∀ (s : State) (fall : Bool), s.flag pgTime Reg.TIME.CTRL_PPS_IN_EN = true → s.flag pgTime Reg.TIME.CTRL_PPS_IN_FALL = fall →
    s.domOn domTime = true → ∃ t, Sys2Proof.Machine.exec (.ppsInCapture fall) s = .next t ∧
      t.rd pgTime Reg.TIME.PPS_IN_NS.off = BitVec.ofNat 32 (nsOf s.stamp) ∧ t.time = { s.time with capSec := secOf s.stamp } ∧
      t.flag pgTime Reg.TIME.PPS_IN_SEC_HI_NEW = true ∧ t.caused pgTime 2 ∧
      t.ctr pgTime Reg.TIME.PPS_IN_LOST = s.ctr pgTime Reg.TIME.PPS_IN_LOST +
        BitVec.ofNat 64 (b2n (s.flag pgTime Reg.TIME.PPS_IN_SEC_HI_NEW)) ∧
      Touches { s with time := t.time } t (· = pgTime)) ∧
  (∀ s : State, s.boot.forwards = true → s.timeValid = true → s.flag pgTime Reg.TIME.CTRL_PPS_OUT_EN = true → s.time.ppsOut = false →
    ∃ t, Sys2Proof.Machine.exec .ppsOutRise s = .next t ∧ t.time.ppsOut = true ∧
      t.time.now % 1000000000 = s.ppsOffset ∧ s.time.now ≤ t.time.now ∧ t.time.now < s.time.now + 1000000000 ∧
      t.time = { s.time with now := t.time.now, sub := t.time.sub, ppsOut := true } ∧
      Touches { s with time := t.time } t (fun _ => False)) ∧
  (∀ s : State, s.time.ppsOut = true → let since := (s.time.now + 1000000000 - s.ppsOffset) % 1000000000
    ∃ t, Sys2Proof.Machine.exec .ppsOutFall s = .next t ∧ t.time.ppsOut = false ∧
      t.time.now = max s.time.now (s.time.now - since + s.ppsWidth) ∧
      t.time = { s.time with now := t.time.now, sub := t.time.sub, ppsOut := false } ∧
      Touches { s with time := t.time } t (fun _ => False)))

/-- R61 to R65: setting the time. TIME_SET with SET_NS of 10⁹ or more, and TIME_ADJUST by more than 999,999,999 ns either way,
raise cause 8 and change nothing else; otherwise the time steps to the time in SET_SEC and SET_NS, or by the written amount
modulo 2⁴⁸ seconds. FREQ_ADJ stores what is written, and FREQ_CLAMPED tells whether that is outside ±500 ppm, which raises
cause 7; only the pages TIME, LEHR and PWRD (lost lehr writes) may change. GRID_EN is a write of CTRL that replaces bit 1. -/
def Obligations.TimeCommands : Prop :=
  (∀ s : State, s.takes pgTime →
    (1000000000 ≤ s.fld pgTime Reg.TIME.SET_NS →
      Sys2Proof.Machine.exec .timeSet s = .next (settle (s.raise pgTime 8))) ∧
    (s.fld pgTime Reg.TIME.SET_NS < 1000000000 →
      Sys2Proof.Machine.exec .timeSet s = .next (settle (s.timeStep ((s.fld pgTime Reg.TIME.SET_SEC_HI * 2 ^ 32 +
        s.fld pgTime Reg.TIME.SET_SEC_LO) * 1000000000 + s.fld pgTime Reg.TIME.SET_NS))))) ∧
  (∀ (s : State) (v : W32), s.takes pgTime →
    (999999999 < v.toInt.natAbs → Sys2Proof.Machine.exec (.timeAdjust v) s = .next (settle (s.raise pgTime 8))) ∧
    (v.toInt.natAbs ≤ 999999999 → Sys2Proof.Machine.exec (.timeAdjust v) s = .next (settle (s.timeStep
      (((s.time.now : Int) + v.toInt) % ((2 ^ 48 * 1000000000 : Nat) : Int)).toNat)))) ∧
  (∀ (s : State) (v : W32), s.takes pgTime → ∃ t, Sys2Proof.Machine.exec (.freqAdjWrite v) s = .next t ∧
    t.rd pgTime Reg.TIME.FREQ_ADJ.off = v ∧ t.flag pgTime Reg.TIME.STAT_FREQ_CLAMPED = freqOut v ∧
    (freqOut v = true → t.caused pgTime 7) ∧
    Touches { s with lehr := t.lehr } t (fun p => p = pgTime ∨ p = pgLehr ∨ p = pgDev)) ∧
  (∀ (s : State) (en : Bool), s.takes pgTime → Sys2Proof.Machine.exec (.gridEnWrite en) s = .next (settle
    (s.timeCtrlWrite (BitVec.ofNat 32 (setBits (s.rd pgTime Reg.TIME.CTRL.off).toNat 1 1 (b2n en))))))

/-- R61: while the time is valid, each clock of the time unit (a step with no command waiting) adds 4 ns scaled by the rate,
exactly in units of 2⁻⁴⁰ ns; while it is invalid, the time stands. Nothing else changes. (That a step with no command waiting
is one clock is the model's choice, log 2, as is the exact accumulation, log 225.) -/
def Obligations.TimeRunsAtItsRate : Prop :=
  (∀ s : State, s.pending = [] → s.timeValid = true → ∃ t, Sys2Proof.Machine.step s = .next t ∧
    ((t.time.now * 2 ^ 40 + t.time.sub : Nat) : Int) = (s.time.now * 2 ^ 40 + s.time.sub : Nat) + 4 * (2 ^ 40 + s.freqRate) ∧
    t.time.sub < 2 ^ 40 ∧ t = { s with time := { s.time with now := t.time.now, sub := t.time.sub } }) ∧
  (∀ s : State, s.pending = [] → s.timeValid = false → Sys2Proof.Machine.step s = .next s)

/-- R64, R65, R103, R449, R450: the reference, the PLL and the validity of the time. Losing REFCLK25 clears REF_OK and
TIME_PLL_LOCK, raises TIME cause 0, puts both teams on their RC oscillators (CLK_STAT shows NO_REF alone, log 17) with PWRD
cause 5, and ends every MDIO frame; losing the PLL's lock alone clears its bit and raises cause 1; a locked PLL with the
reference present sets both bits. TIME_VALID and the grid modes then follow. -/
def Obligations.TimeReferenceEvents : Prop :=
  (∀ s : State, s.flag pgTime Reg.TIME.STAT_REF_OK = true → Sys2Proof.Machine.exec .timeRefLoss s = .next (settle
    ((((((((((s.setFld pgTime Reg.TIME.STAT_REF_OK 0).setFld pgTime Reg.TIME.STAT_TIME_PLL_LOCK 0).raise pgTime 0).wr pgDev
      Reg.PWRD.CLK_STAT.off 0x80).raise pgDev 5).mdioAbort 0).mdioAbort 1).mdioAbort 2).mdioAbort 3).timeTrack))) ∧
  (∀ s : State, s.flag pgTime Reg.TIME.STAT_REF_OK = true → s.flag pgTime Reg.TIME.STAT_TIME_PLL_LOCK = true →
    Sys2Proof.Machine.exec .timePllUnlock s = .next (settle
      ((s.setFld pgTime Reg.TIME.STAT_TIME_PLL_LOCK 0).raise pgTime 1).timeTrack)) ∧
  (∀ s : State, s.domOn domTime = true → Sys2Proof.Machine.exec .timeValid s = .next (settle
    ((((s.setFld pgTime Reg.TIME.STAT_REF_OK 1).setFld pgTime Reg.TIME.STAT_TIME_PLL_LOCK 1).setFld pgDev
      Reg.PWRD.CLK_STAT_NO_REF 0).timeTrack)))

/-- R443, R474: a domain request, a host write of DIDX and of DCTRL with REQ = 1, leaves its target (ON, NAP or OFF) to wait
for the domain's edge, stores IDLE_EN for that domain, and changes no other domain. And R441 to R447: domain transitions. A
completed entry puts the domain in NAP or OFF (a bench-ingress domain once its engines are idle, R113; one with children once
they rest, R438), a completed wake, its parents being ON (R438), puts it ON, and its latched wake or pending request then
starts (domRest), as does the next step of a device entry (entryStep). WAKE_TIMEOUT of a waking domain leaves it in WAKE_FAIL,
logs a refusal with code 2, or 3 where the time domain lacks its reference or PLL, counts WAKE_FAILS, raises PWRD cause 2,
loses the domain, refuses its waiting dependents, and fails the team of a clocking domain (R41, R448); an absent reference
sets NO_REF. IDLE is entered from ON at rest with IDLE_EN = 1, and left. -/
def Obligations.DomainRequestsAndTransitions : Prop :=
  (∀ (s : State) (d : DomainId) (idle : Bool), s.takes pgDev →
    let waits := fun (o : Host.Outcome State Fault Refusal) (n : Nat) => ∃ t, o = .next t ∧
      t.domAt d = { s.domAt d with req := (s.domAt d).req ++ [n] } ∧ (∀ c, c ≠ d.val → t.domAt c = s.domAt c) ∧
      t.flag pgDev Reg.PWRD.DCTRL_IDLE_EN d = idle ∧ t.rd pgDev Reg.PWRD.DIDX.off = BitVec.ofNat 32 d ∧
      Touches { s with dom := t.dom, lehr := t.lehr } t (fun p => p = pgDev ∨ p = pgLehr)
    waits (Sys2Proof.Machine.exec (.domainRequestOn d idle) s) 0 ∧ waits (Sys2Proof.Machine.exec (.domainRequestNap d idle) s) 2 ∧
    waits (Sys2Proof.Machine.exec (.domainRequestOff d idle) s) 3) ∧
  ((∀ (s : State) (d : DomainId) (c : Bool) (k : Nat), (s.domAt d).trans = some (k + 1, c) →
    (56 ≤ d.val ∧ d.val < 64 → (s.marAt (d - 56)).engines.any (fun e => e.2.isSome) = false) → s.childrenRest d (k + 1) = true →
    Sys2Proof.Machine.exec (.domainTransitionDone d) s = .next (settle ((s.domSleep d (k + 1)).domRest d).entryStep)) ∧
  (∀ (s : State) (d : DomainId) (c : Bool), (s.domAt d).trans = some (0, c) → (domParents d).all s.domOn = true →
    Sys2Proof.Machine.exec (.domainTransitionDone d) s = .next (settle ((s.domArrive d).domRest d).entryStep)) ∧
  (∀ (s : State) (d : DomainId) (c : Bool) (w : WakeWait), (s.domAt d).trans = some (0, c) → w = .supply ∨ d.val = domTime →
    let s0 := if w = .reference ∧ s.flag pgDev Reg.PWRD.CLK_STAT_NO_REF = false then s.noRef else s
    let u := ((((s0.onDom d fun m => { m with st := 4, trans := none, latched := none }).refusal (some d.val) 0
      (if w = .supply then 2 else 3) (s.fld pgDev Reg.PWRD.DSTAT_LAST_SRC d)).bump pgDev Reg.PWRD.WAKE_FAILS).raise pgDev 2).loseDomain
        d |>.refuseWaiting d
    Sys2Proof.Machine.exec (.wakeTimeout d w) s =
      .next (settle ((if d.val = 102 ∨ d.val = 103 then u.teamFail (d - 102) else u).domRest d).entryStep)) ∧
  (∀ (s : State) (d : DomainId), (s.domAt d).st = 0 → (s.domAt d).trans = none → s.flag pgDev Reg.PWRD.DCTRL_IDLE_EN d = true →
    Sys2Proof.Machine.exec (.domainIdleEntry d) s = .next (settle (s.onDom d fun m => { m with st := 1 }))) ∧
  (∀ (s : State) (d : DomainId), (s.domAt d).st = 1 →
    Sys2Proof.Machine.exec (.domainIdleExit d) s = .next (settle (s.onDom d fun m => { m with st := 0 }))))

/-- R443 to R446, R470: wakes. WAKE_EVENT of a domain at rest in NAP, its ancestors being ON or IDLE and at rest, begins its
way to ON and records the source, leaving every other domain. A wake of the device (devWake) comes from WAKE_EVENT with an
enabled source, from HOST_WAKE, from PIN_WAKE with source 1 enabled, and from TIME_ALARM, the valid time reaching the alarm's,
with source 4 enabled. A device at rest in DOZE whose list of domains is empty then begins its way to RUN; a wake in RUN at
rest counts DROPPED and does nothing else. -/
def Obligations.WakesBegin : Prop :=
  (∀ (s : State) (d : DomainId) (src : Fin 7), (s.domAt d).st = 2 → (s.domAt d).trans = none →
    (∀ p ∈ domAncestors d, s.domOn p = true ∧ (s.domAt p).trans = none) →
    ∃ t, Sys2Proof.Machine.exec (.wakeEvent (some d) src) s = .next t ∧
      t.domAt d = { s.domAt d with trans := some (0, false) } ∧ (∀ c, c ≠ d.val → t.domAt c = s.domAt c) ∧
      t.fld pgDev Reg.PWRD.DSTAT_LAST_SRC d = src.val ∧ Touches { s with dom := t.dom } t (· = pgDev)) ∧
  (∀ (s : State) (src : Fin 7), s.wakeEnabled src = true →
    Sys2Proof.Machine.exec (.wakeEvent none src) s = .next (settle (s.devWake src))) ∧
  (∀ s : State, s.takes pgDev → Sys2Proof.Machine.exec .hostWake s = .next (settle (s.devWake 0))) ∧
  (∀ s : State, s.wakeEnabled 1 = true → Sys2Proof.Machine.exec .pinWake s = .next (settle (s.devWake 1))) ∧
  (∀ s : State, s.timeValid = true → s.time.now ≤ s.alarmTime → s.wakeEnabled 4 = true →
    Sys2Proof.Machine.exec .timeAlarm s = .next (settle ((s.reach s.alarmTime).devWake 4))) ∧
  (∀ (s : State) (src : Nat), s.dev.st = 1 → s.dev.trans = none → s.dev.dozed = [] →
    (s.devWake src).dev.trans = some 0 ∧ (s.devWake src).dev.st = 1) ∧
  (∀ (s : State) (src : Nat), s.dev.st = 0 → s.dev.trans = none → s.devWake src = s.bump pgDev Reg.PWRD.DROPPED)

/-- R443, R452, R453, R455, R474: device states. DEV_CMD leaves its request to wait for the grid edge, TARGET 3 being dropped
and counted. The end of the drain flushes the copies still held, ends the closing of admission and passes the entry's commit
point: the domains of DOZE, or those of ANNEAL, begin their way down, step by step. A completed transition, the entry having
passed its commit point, the engines being idle and no domain that has still to rest waking, brings those domains to rest in
order (entryEnd), or a wake's domains ON, puts the device in its target, counts DEV_TRANSITIONS and raises PWRD cause 0; a
latched wake then acts. What gating no longer holds for wakes (R459; the instants are the model's choice, log 265). -/
def Obligations.DeviceStates : Prop :=
  (∀ s : State, s.takes pgDev →
    Sys2Proof.Machine.exec .devRequestRun s = .next (settle { s with dev := { s.dev with req := s.dev.req ++ [0] } }) ∧
    Sys2Proof.Machine.exec .devRequestDoze s = .next (settle { s with dev := { s.dev with req := s.dev.req ++ [1] } }) ∧
    Sys2Proof.Machine.exec .devRequestAnneal s = .next (settle { s with dev := { s.dev with req := s.dev.req ++ [2] } }) ∧
    Sys2Proof.Machine.exec .devRequestReserved s = .next (settle (s.bump pgDev Reg.PWRD.DROPPED))) ∧
  (∀ s : State, s.dev.committed = false →
    let u := { s.dozeFlush with dev := { s.dozeFlush.dev with stopping := false } }
    (s.dev.trans = some 1 → ∃ t, Sys2Proof.Machine.exec .dozeDrainEnd s = .next t ∧ t = settle u.dozeSleep ∧ t.dev.committed = true ∧
      t.dev.stopping = false ∧ t.dev.closed = List.range 8) ∧
    (s.dev.trans = some 2 → ∃ t, Sys2Proof.Machine.exec .dozeDrainEnd s = .next t ∧ t = settle u.annealSleep ∧ t.dev.committed = true ∧
      t.dev.stopping = false ∧ t.dev.closed = List.range 8)) ∧
  (∀ (s : State) (k : Nat), s.dev.trans = some k →
    k = 0 ∨ s.dev.committed = true ∧ (List.range 8).any s.engineBusy = false ∧ s.entryReady = true →
    let waking := s.dev.dozed.reverse.filter fun d => ((s.domAt d).trans.map Prod.fst) == some 0
    let u := if k = 0 then s.each waking fun s d => s.domArrive d else s.entryEnd
    let v := ({ u with dev := { u.dev with st := k, trans := none, committed := false } }.sagPlanAll.bump pgDev
      Reg.PWRD.DEV_TRANSITIONS).raise pgDev 0
    (s.dev.latched = none → s.dev.pend = none → ∃ t, Sys2Proof.Machine.exec .deviceTransitionDone s = .next t ∧ t = settle v ∧
      t.dev.st = k ∧ t.dev.trans = none ∧ t.dev.committed = false ∧ t.caused pgDev 0) ∧
    (∀ src, s.dev.latched = some src → Sys2Proof.Machine.exec .deviceTransitionDone s =
      .next (settle ({ v with dev := { v.dev with latched := none } }.devWake src))))

/-- R449, R450, R457: team clocks and the HBM's automatic low point. CLK_SELECT stores the selections; TEAM_PLL_LOCK of a
selected PLL, its team's clocking domain being ON or IDLE, the reference present and the team not failed, sets the lock bit;
TEAM_PLL_TIMEOUT of a selected PLL without lock logs a refusal with code 3; HBM_AUTO_IDLE in RUN with HBM_AUTO set and no copy
in the crucible requests the low frequency point. -/
def Obligations.TeamClocks : Prop :=
  (∀ (s : State) (v : Fin 4), s.takes pgDev → ∃ t, Sys2Proof.Machine.exec (.clkSelect v) s = .next t ∧
    t.flag pgDev (clkSel 0) = bit v.val 0 ∧ t.flag pgDev (clkSel 1) = bit v.val 1 ∧
    Touches { s with lehr := t.lehr } t (fun p => p = pgDev ∨ p = pgLehr)) ∧
  (∀ (s : State) (t : Team), s.flag pgDev (clkSel (teamNo t)) = true → s.domOn (domClock (teamNo t)) = true →
    s.flag pgDev Reg.PWRD.CLK_STAT_NO_REF = false → (s.teamAt (teamNo t)).failed = false →
    Sys2Proof.Machine.exec (.teamPllLock t) s = .next (settle (s.setFld pgDev (clkLock (teamNo t)) 1))) ∧
  (∀ (s : State) (t : Team), s.flag pgDev (clkSel (teamNo t)) = true → s.flag pgDev (clkLock (teamNo t)) = false →
    Sys2Proof.Machine.exec (.teamPllTimeout t) s = .next (settle (s.refusal (some (domClock (teamNo t))) 0 3 0))) ∧
  (∀ s : State, s.flag pgDev Reg.PWRD.DOZE_CFG_HBM_AUTO = true → s.dev.st = 0 → s.cdescUsed 0 = 0 → s.cdescUsed 1 = 0 →
    Sys2Proof.Machine.exec .hbmAutoIdle s = .next (settle (s.freqRequest (s.fld pgDev Reg.PWRD.DOZE_CFG_HBM_LOW_POINT))))

/-- R478, R481 to R483, R551, R553, R562: resets. RESET_PIN asserts a full reset from source 1 and notes the pin low. From any
state but cold reset, with HOLD = 0 and no flash operation in progress, the start falls back to STAGE 0 asserted, queues,
tables, buffers, links and transmissions are lost, the boot flash, the fuses, host memory and the lehr's bytes stay, and where
no start of a warm reset is under way RSTCAUSE names source 1 and FULL_RESETS counts. AON_SUPPLY_LOSS leaves cold reset: the
flash (no operation in progress) and the fuses stay, every other register takes its factory value, and THERM_TRIP_N is
released. HBM_SUPPLY_LOSS loses both kept images, disarms both halves, and clears IMG_STAT.VALID, with cause 4 where it was
set (R429, R434; that it does so at once is the model's reading, log 252). And R480, R484, R545: starts. In cold reset, or in
a full reset that no start has preceded, COLD_START begins a cold start at STAGE 1 with the I2C address 0x2C plus the straps
and the host, gaffer and always-on domains ON. FULL_RESET_RELEASE of an asserted full reset, the device not in cold reset and
no fuse burn being in progress, begins a start at STAGE 1, warm as the reset was, with those domains ON. -/
def Obligations.ResetsAndStarts : Prop :=
  ((∀ s : State, Sys2Proof.Machine.exec .resetPin s =
    .next (settle { s.fullReset 1 with pins := { (s.fullReset 1).pins with resetLow := true } })) ∧
  (∀ s : State, s.dev.st ≠ 3 → s.flag pgLehr Reg.LEHR.LCTRL_HOLD = false → s.boot.flash = none →
    ∃ t, Sys2Proof.Machine.exec .resetPin s = .next t ∧ t.pins.resetLow = true ∧ t.boot.asserted = true ∧ t.boot.stage = 0 ∧
      t.boot.warm = true ∧ t.lehr.mem = s.lehr.mem ∧ t.flash = s.flash ∧ t.fuse = s.fuse ∧ t.hostMem = s.hostMem ∧
      t.pending = s.pending ∧ t.queue = [] ∧ t.tabs = [] ∧ t.buf = [] ∧ t.link = [] ∧ t.tx = [] ∧ t.rx = [] ∧ t.bank = [] ∧ t.dev.st = 0 ∧
      (s.boot.warm = false ∨ s.boot.asserted = false ∧ s.starting = false →
        t.rd pgBoot Reg.BOOT.RSTCAUSE.off = 0x44000000 ∧
        t.ctr pgBoot Reg.BOOT.FULL_RESETS = s.ctr pgBoot Reg.BOOT.FULL_RESETS + 1)) ∧
  (∀ s : State, s.boot.flash = none → ∃ t, Sys2Proof.Machine.exec .aonSupplyLoss s = .next t ∧ t.dev = { st := 3 } ∧
    t.flash = s.flash ∧ t.fuse = s.fuse ∧ t.hostMem = s.hostMem ∧ t.pins.trip = false ∧ t.lehr = {} ∧
    t.boot = {} ∧ t.queue = [] ∧ t.tabs = [] ∧ t.ctrs = [] ∧
    t.rd pgBoot Reg.BOOT.FUSE.off = s.rd pgBoot Reg.BOOT.FUSE.off ∧
    ∀ k, k ≠ rkey pgBoot Reg.BOOT.FUSE.off 0 → Tab.get factory t.regs k = factory k) ∧
  (∀ s : State, ∃ t, Sys2Proof.Machine.exec .hbmSupplyLoss s = .next t ∧ t.pins = { s.pins with hbmLost := true } ∧
    (∀ h, t.halfAt h = if h < 2 then { s.halfAt h with kept := none, armed := false, copied := false } else s.halfAt h) ∧
    (∀ h, h < 2 → t.flag (pgHalf h) Reg.CRUCH.IMG_STAT_VALID = false ∧
      (s.flag (pgHalf h) Reg.CRUCH.IMG_STAT_VALID = true → t.caused (pgHalf h) 4)) ∧
    Touches { s with pins := t.pins, half := t.half } t (fun p => p = pgHalf 0 ∨ p = pgHalf 1))) ∧
  ((∀ (s : State) (k : Fin 4), s.dev.st = 3 ∨ (s.boot.asserted = true ∧ s.boot.warm = false) →
    ∃ t, Sys2Proof.Machine.exec (.coldStart k) s = .next t ∧ t.boot.stage = 1 ∧ t.boot.warm = false ∧ t.boot.asserted = false ∧
      t.dev = {} ∧ t.pins.strap = k.val ∧ t.fld pgHost Reg.HOST.I2C_CFG_ADDR = 0x2C + k.val ∧
      t.domAt domHost = {} ∧ t.domAt domGaffer = {} ∧ t.domAt domAon = {}) ∧
  (∀ s : State, s.boot.asserted = true → s.dev.st ≠ 3 → s.boot.burn = none →
    ∃ t, Sys2Proof.Machine.exec .fullResetRelease s = .next t ∧ t.boot.stage = 1 ∧ t.boot.warm = s.boot.warm ∧
      t.boot.asserted = false ∧ t.pins.resetLow = false ∧ t.domAt domHost = {} ∧ t.domAt domGaffer = {} ∧ t.domAt domAon = {}))

/-- R484 to R497: the stages of a start. FIRMWARE_VERIFY_DONE leads to STAGE 3 where a slot passes its checks, and to FAILED
(15) where none does (the checks are those of checkImage). SELFTEST_DONE, the domains at rest, records 0xFF and notes the
test, but on a cold start a memory group that cannot be repaired is recorded and the start FAILS. HBM_INIT_DONE, the HBM
domains being in no transition and every pseudo-channel of a half that runs being trained or retired, notes the HBM and shows
whether the PHY is locked; the image of a half with a pseudo-channel that was late for self-refresh is lost, with cause 4
(R429; log 261). PATCH_LOAD_DONE, the ingress domains at rest, notes the patch and marks the image loaded in every bench that
is on; with no directory the image is the base image. RESTORE_DONE of a warm start notes whether the tables came back: not
without a valid lehr or where a block is bad. STAGE then follows the work that is complete, to CONFIG with cause 0, or to GO
where the restore succeeded and AUTO_GO = 1. -/
def Obligations.StartStages : Prop :=
  (∀ (s : State) (f0 f1 : SlotCheck), s.boot.stage = 1 ∨ s.boot.stage = 2 → s.pins.sharedDown = false →
    let io := fun i : Nat => if i = 0 then f0.io else f1.io
    let tried := s.trySlots 0 fun i a => s.checkImage 0 a (io i) (io i) s.boot.record
    (tried.1 = none → Sys2Proof.Machine.exec (.firmwareVerifyDone f0 f1) s = .next (settle (tried.2.setStage 15))) ∧
    (tried.1.isSome = true → s.directory.isSome = true →
      ∃ t, Sys2Proof.Machine.exec (.firmwareVerifyDone f0 f1) s = .next t ∧ t.boot.stage = 3 ∧
        t.fld pgBoot Reg.BOOT.STAGE_STAGE = 3)) ∧
  (∀ s : State, s.boot.stage = 3 → s.boot.self = false → (∀ d, d < 112 → (s.domAt d).trans = none) → s.pins.sharedDown = false →
    let u := s.setFld pgBoot Reg.BOOT.STAGE_BIST_FAIL 0xFF
    let passed : Host.Outcome State Fault Refusal := .next (settle { u with boot := { u.boot with self := true } }.startTrack)
    Sys2Proof.Machine.exec (.selftestDone none) s = passed ∧
    ∀ g : Fin 34, (s.boot.warm = true → Sys2Proof.Machine.exec (.selftestDone (some g)) s = passed) ∧
      (s.boot.warm = false → Sys2Proof.Machine.exec (.selftestDone (some g)) s =
        .next (settle ((s.setFld pgBoot Reg.BOOT.STAGE_BIST_FAIL g).setStage 15)))) ∧
  (∀ (s : State) (late : List ChanId), 3 ≤ s.boot.stage → s.boot.stage ≤ 6 → s.boot.hbm = false → s.pins.sharedDown = false →
    (∀ d ∈ [domPhy, domHalf 0, domHalf 1], (s.domAt d).trans = none) →
    (∀ c, c < 32 → s.domOn (domHalf (c / 16)) = true → s.domOn domPhy = true → s.halfState (c / 16) ≠ 4 → s.chSettled c = true) →
    let lost := [0, 1].filter fun t => s.flag (pgHalf t) Reg.CRUCH.IMG_STAT_VALID && late.any fun c => c.val / 16 == t
    let u := (s.each lost State.imageLost).setFld pgPhy Reg.CRUCP.PHY_STAT_LOCKED (b2n (s.domOn domPhy))
    (∀ t ∈ lost, (s.imageLost t).flag (pgHalf t) Reg.CRUCH.IMG_STAT_VALID = false ∧ (s.imageLost t).caused (pgHalf t) 4 ∧
      ((s.imageLost t).halfAt t).kept = none) ∧
    Sys2Proof.Machine.exec (.hbmInitDone late) s = .next (settle { u with boot := { u.boot with hbm := true } }.startTrack)) ∧
  (∀ (s : State) (p0 p1 : SlotCheck) (w0 w1 : Bool), 3 ≤ s.boot.stage → s.boot.stage ≤ 6 → s.boot.patch = false →
    (∀ b, b < 8 → (s.domAt (domIngress b)).trans = none) → s.pins.sharedDown = false →
    ∃ u : State, Sys2Proof.Machine.exec (.patchLoadDone p0 p1 w0 w1) s = .next (settle u.startTrack) ∧
      u.boot = { s.boot with patch := true, imgLost := [], pbRecord := u.boot.pbRecord } ∧
      (∀ b, b < 8 → s.domOn (domIngress b) = true → u.flag (pgMarver b) Reg.MARVER.IMGSTAT_LOADED = true) ∧
      (s.directory = none → u.image = {} ∧ u.boot.pbRecord = s.boot.pbRecord)) ∧
  (∀ (s : State) (a b : Bool), s.boot.warm = true → s.boot.self = true → s.boot.hbm = true → s.boot.restored = none →
    s.boot.stage ≤ 6 → s.pins.sharedDown = false →
    ∃ (u : State) (ok : Bool), Sys2Proof.Machine.exec (.restoreDone a b) s = .next (settle u.startTrack) ∧
      u.boot = { s.boot with restored := some ok } ∧ (s.lehrValid = false → ok = false) ∧
      (a = true ∨ b = true → ok = false)) ∧
  (∀ s : State, 3 ≤ s.boot.stage → s.boot.stage ≤ 6 →
    (s.boot.self = false → s.startTrack.boot.stage = 3) ∧
    (s.boot.self = true → s.boot.hbm = false → s.startTrack.boot.stage = 4) ∧
    (s.boot.self = true → s.boot.hbm = true → s.boot.patch = false → s.startTrack.boot.stage = 5) ∧
    (s.boot.self = true → s.boot.hbm = true → s.boot.patch = true → s.boot.warm = true → s.boot.restored = none →
      s.startTrack.boot.stage = 6) ∧
    (s.boot.self = true → s.boot.hbm = true → s.boot.patch = true → s.boot.warm = true → s.boot.restored = some true →
      s.flag pgBoot Reg.BOOT.BCFG_AUTO_GO = true → s.startTrack = s.goStart false) ∧
    (s.boot.self = true → s.boot.hbm = true → s.boot.patch = true → s.boot.warm = false → s.boot.restored = none →
      s.startTrack.boot.stage = 7 ∧ s.startTrack.caused pgBoot 0))

/-- R494, R499, R502, R503, R506: the boot commands. Each clears CMD_RESULT. GO in CONFIG starts the benches, and in another
stage is BAD_STATE (2); RESET with its CONFIRM completes and asserts a full reset from source 2; WDOG_KICK restarts the
watchdog; SVN_COMMIT in CONFIG or RUN, and KEY_REVOKE of a key that is not the firmware's while another good one is left,
begin a burn, no burn being in progress; any other OP, or RESET, SVN_COMMIT or KEY_REVOKE without its CONFIRM, is BAD_ARG (3).
A burn that reads back raises the fused security versions to those that ran at its command, or adds the key to REVOKED; its
result, OK or FUSE_FAIL (5), shows with cause 5 where no BOOT.CMD has been written since. BCFG is stored, a change of WDOG_EN
or WDOG_MS restarting the watchdog. -/
def Obligations.BootCommands : Prop :=
  (∀ s : State, s.takes pgBoot →
    let s1 := fun op : Nat => { s with boot := { s.boot with cmdWait := op } }.wr pgBoot Reg.BOOT.CMD_RESULT.off 0
    (s.boot.stage = 7 → Sys2Proof.Machine.exec .bootGo s = .next (settle ((s1 1).goStart true))) ∧
    (s.boot.stage ≠ 7 → Sys2Proof.Machine.exec .bootGo s = .next (settle ((s1 1).cmdFinal 2))) ∧
    Sys2Proof.Machine.exec .bootReset s = .next (settle (((s1 2).cmdFinal 0).fullReset 2)) ∧
    Sys2Proof.Machine.exec .wdogKick s =
      .next (settle ({ s1 3 with boot := { (s1 3).boot with warned := false } }.cmdFinal 0)) ∧
    (s.boot.stage = 7 ∨ s.boot.stage = 9 → s.boot.burn = none →
      let now := Burn.svn (s.fld pgBoot Reg.BOOT.RUNSVN_FW_SVN) (s.fld pgBoot Reg.BOOT.RUNSVN_PB_SVN)
      Sys2Proof.Machine.exec .svnCommit s = .next (settle { s1 4 with boot := { (s1 4).boot with burn := some now } })) ∧
    (∀ k : Fin 4, s.boot.fwKey ≠ some k.val → (∃ j, j < 4 ∧ j ≠ k.val ∧ s.keyGood j = true) → s.boot.burn = none →
      Sys2Proof.Machine.exec (.keyRevoke k) s =
        .next (settle { s1 5 with boot := { (s1 5).boot with burn := some (.revoke k.val) } })) ∧
    (∀ (op : Fin 16) (c : Byte), op.val = 0 ∨ 5 < op.val ∨ (op.val = 2 ∨ op.val = 4 ∨ op.val = 5) ∧ c.toNat ≠ 0xA5 →
      Sys2Proof.Machine.exec (.bootCmdBad op c) s = .next (settle ((s1 op).cmdFinal 3)))) ∧
  (∀ s : State, s.pins.sharedDown = false →
    let shown := fun t : State => if 4 ≤ s.boot.cmdWait then t.rd pgBoot Reg.BOOT.CMD_RESULT.off = 0x80000000 ∧ t.caused pgBoot 5
      else t.rd pgBoot Reg.BOOT.CMD_RESULT.off = s.rd pgBoot Reg.BOOT.CMD_RESULT.off
    (∀ fw pb, fw < 64 → pb < 64 → s.boot.burn = some (.svn fw pb) →
      ∃ t, Sys2Proof.Machine.exec (.fuseBurnDone true) s = .next t ∧ t.boot.burn = none ∧
        t.fld pgBoot Reg.BOOT.FUSE_FW_SVN = max (s.fld pgBoot Reg.BOOT.FUSE_FW_SVN) fw ∧
        t.fld pgBoot Reg.BOOT.FUSE_PB_SVN = max (s.fld pgBoot Reg.BOOT.FUSE_PB_SVN) pb ∧ shown t) ∧
    (∀ k, k < 4 → s.boot.burn = some (.revoke k) → ∃ t, Sys2Proof.Machine.exec (.fuseBurnDone true) s = .next t ∧
      t.boot.burn = none ∧ t.fld pgBoot Reg.BOOT.FUSE_REVOKED = s.fld pgBoot Reg.BOOT.FUSE_REVOKED ||| 2 ^ k ∧ shown t) ∧
    (∀ b, s.boot.burn = some b → let u := { s with boot := { s.boot with burn := none } }
      Sys2Proof.Machine.exec (.fuseBurnDone false) s = .next (settle (if 4 ≤ s.boot.cmdWait then u.cmdFinal 5 else u)))) ∧
  (∀ (s : State) (v : W32), s.takes pgBoot → Sys2Proof.Machine.exec (.bcfgWrite v) s = .next (settle (s.bcfgWrite v)) ∧
    (let u := s.plainWrite pgBoot Reg.BOOT.BCFG.off 0 v
     (u.fld pgBoot Reg.BOOT.BCFG_WDOG_EN ≠ s.fld pgBoot Reg.BOOT.BCFG_WDOG_EN ∨
       u.fld pgBoot Reg.BOOT.BCFG_WDOG_MS ≠ s.fld pgBoot Reg.BOOT.BCFG_WDOG_MS →
       s.bcfgWrite v = { u with boot := { u.boot with warned := false } }) ∧
     (u.fld pgBoot Reg.BOOT.BCFG_WDOG_EN = s.fld pgBoot Reg.BOOT.BCFG_WDOG_EN →
       u.fld pgBoot Reg.BOOT.BCFG_WDOG_MS = s.fld pgBoot Reg.BOOT.BCFG_WDOG_MS → s.bcfgWrite v = u)))

/-- R502, R503: the watchdog and wedges. With the watchdog enabled in RUN, WATCHDOG_WARN raises BOOT cause 4 once, and
WATCHDOG_EXPIRY, after the warning, asserts a full reset from source 5 while VCORE_S stands (R552). WEDGE_DETECT of a bench (0
to 7), a team hub (8, 9) or a spill engine of a running half (10, 11), its domain and the gaffer's being ON or IDLE, sets its
bit of WEDGE, raises BOOT cause 3 and fails its team, a wedged hub being faulty as well and a wedged spill engine's half
FAILED (R426; log 262); with AUTO_RESET = 1 a full reset from source 6 is then asserted. -/
def Obligations.WatchdogAndWedges : Prop :=
  (∀ s : State, s.flag pgBoot Reg.BOOT.BCFG_WDOG_EN = true → s.boot.stage = 9 → s.pins.sharedDown = false →
    (s.boot.warned = false → Sys2Proof.Machine.exec .watchdogWarn s =
      .next (settle ({ s with boot := { s.boot with warned := true } }.raise pgBoot 4))) ∧
    (s.boot.warned = true → Sys2Proof.Machine.exec .watchdogExpiry s = .next (settle (s.fullReset 5)))) ∧
  (∀ (s : State) (k : Fin 12), s.domOn domGaffer = true → s.pins.sharedDown = false →
    let noted := (s.wr pgBoot Reg.BOOT.WEDGE.off (s.rd pgBoot Reg.BOOT.WEDGE.off ||| BitVec.ofNat 32 (2 ^ k.val))).raise pgBoot 3
    let ends := fun u : State => (Host.Outcome.next (settle (if s.flag pgBoot Reg.BOOT.BCFG_AUTO_RESET then u.fullReset 6 else u)) :
      Host.Outcome State Fault Refusal)
    (k.val < 8 → s.domOn (domIngress k) = true →
      Sys2Proof.Machine.exec (.wedgeDetect k) s = ends (noted.teamFail (k.val / 4))) ∧
    (8 ≤ k.val → k.val < 10 → s.domOn (domClock (k.val % 2)) = true → Sys2Proof.Machine.exec (.wedgeDetect k) s =
      ends ({ noted with hub := { noted.hub with faulty := (k.val % 2 :: noted.hub.faulty).eraseDups } }.teamFail (k.val % 2))) ∧
    (10 ≤ k.val → s.domOn (domSpill (k.val % 2)) = true → s.halfState (k.val % 2) = 2 →
      Sys2Proof.Machine.exec (.wedgeDetect k) s = ends ((noted.failHalf (k.val % 2)).teamFail (k.val % 2))))

/-- R507: the flash mailbox, in CONFIG, RUN or FAILED with no operation in progress. FL_CMD clears FL_RESULT. READ of a
256-byte page gives its bytes in FL_DATA, first byte most significant, with DONE and cause 6, or ends with status 3 where the
flash does not answer; PROGRAM of a page and ERASE of a sector with CONFIRM 0xA5 begin, and without it, at another alignment,
or with an operation above 2 the command ends with BAD_ARG (2). In another stage, or with an operation in progress, every
command ends NOT_READY (1). A completed PROGRAM ANDs the data into the page's bytes and an ERASE sets the 4,096 bytes of its
sector to 0xFF (as NOR flash does, the model's assumption, log 193); no other byte of the flash changes, and its list keeps
its canonical form. An operation that fails ends with status 3 and changes no byte. Where FL_CMD has been written since, no
result shows (R506). -/
def Obligations.FlashMailbox : Prop :=
  (∀ s : State, s.takes pgBoot → s.boot.stage = 7 ∨ s.boot.stage = 9 ∨ s.boot.stage = 15 → s.boot.flash = none →
    let a := (s.rd pgBoot Reg.BOOT.FL_ADDR.off).toNat
    let s1 := s.wr pgBoot Reg.BOOT.FL_RESULT.off 0
    (a % 256 = 0 → (∃ t, Sys2Proof.Machine.exec (.flashRead true) s = .next t ∧
        (∀ k, k < 64 → t.rd pgBoot (Reg.BOOT.FL_DATA k).off = BitVec.ofNat 32 (beNat (s.flashBytes (a + 4 * k) 4))) ∧
        t.rd pgBoot Reg.BOOT.FL_RESULT.off = 0x80000000 ∧ t.caused pgBoot 6 ∧ Touches s t (· = pgBoot)) ∧
      Sys2Proof.Machine.exec (.flashRead false) s = .next (settle (s1.flFinal 3))) ∧
    (∀ ok, a % 256 ≠ 0 → Sys2Proof.Machine.exec (.flashRead ok) s = .next (settle (s1.flFinal 2))) ∧
    (a % 256 = 0 → Sys2Proof.Machine.exec (.flashProgram 0xA5) s =
      .next (settle { s1 with boot := { s1.boot with flash := some (1, a, s.flData), flWait := true } })) ∧
    (∀ c : Byte, c ≠ 0xA5 ∨ a % 256 ≠ 0 → Sys2Proof.Machine.exec (.flashProgram c) s = .next (settle (s1.flFinal 2))) ∧
    (a % 4096 = 0 → Sys2Proof.Machine.exec (.flashErase 0xA5) s =
      .next (settle { s1 with boot := { s1.boot with flash := some (2, a, []), flWait := true } })) ∧
    (∀ c : Byte, c ≠ 0xA5 ∨ a % 4096 ≠ 0 → Sys2Proof.Machine.exec (.flashErase c) s = .next (settle (s1.flFinal 2))) ∧
    (∀ op : Fin 13, Sys2Proof.Machine.exec (.flashBadOp op) s = .next (settle (s1.flFinal 2)))) ∧
  (∀ s : State, s.takes pgBoot → (s.boot.stage ≠ 7 ∧ s.boot.stage ≠ 9 ∧ s.boot.stage ≠ 15) ∨ s.boot.flash.isSome = true →
    let busy : Host.Outcome State Fault Refusal := .next (settle ((s.wr pgBoot Reg.BOOT.FL_RESULT.off 0).flFinal 1))
    (∀ ok, Sys2Proof.Machine.exec (.flashRead ok) s = busy) ∧ (∀ c, Sys2Proof.Machine.exec (.flashProgram c) s = busy) ∧
    (∀ c, Sys2Proof.Machine.exec (.flashErase c) s = busy) ∧ (∀ op, Sys2Proof.Machine.exec (.flashBadOp op) s = busy)) ∧
  (∀ (s : State) (a : Nat) (data : List Byte), s.boot.flash = some (1, a, data) → data.length = 256 → s.pins.sharedDown = false →
    s.boot.flWait = true →
    ∃ t, Sys2Proof.Machine.exec (.flashDone true) s = .next t ∧ t.boot.flash = none ∧ t.caused pgBoot 6 ∧
      (∀ i (h : i < data.length), t.flashBytes (a + i) 1 = (s.flashBytes (a + i) 1).map fun x => x &&& data[i]) ∧
      (∀ i, i < a ∨ a + 256 ≤ i → t.flashBytes i 1 = s.flashBytes i 1) ∧ (Memory.wf s.flash = true → Memory.wf t.flash = true)) ∧
  (∀ (s : State) (a : Nat) (data : List Byte), s.boot.flash = some (2, a, data) → s.pins.sharedDown = false → s.boot.flWait = true →
    ∃ t, Sys2Proof.Machine.exec (.flashDone true) s = .next t ∧ t.boot.flash = none ∧ t.caused pgBoot 6 ∧
      (∀ i, i < 4096 → t.flashBytes (a + i) 1 = [0xFF]) ∧
      (∀ i, i < a ∨ a + 4096 ≤ i → t.flashBytes i 1 = s.flashBytes i 1) ∧ (Memory.wf s.flash = true → Memory.wf t.flash = true)) ∧
  (∀ (s : State) (x : Nat × Nat × List Byte), s.boot.flash = some x → s.pins.sharedDown = false →
    (s.boot.flWait = true → Sys2Proof.Machine.exec (.flashDone false) s =
      .next (settle ({ s with boot := { s.boot with flash := none } }.flFinal 3))) ∧
    (s.boot.flWait = false → ∀ ok, ∃ t, Sys2Proof.Machine.exec (.flashDone ok) s = .next t ∧ t.boot.flash = none ∧
      t.rd pgBoot Reg.BOOT.FL_RESULT.off = s.rd pgBoot Reg.BOOT.FL_RESULT.off))

/-- R463, R467, R468: the lehr's control. A write of LCTRL stores HOLD, and its release from 1 writes the held changes through
(holdRelease, log 169); LOAD then checks the image: a good one is marked valid and waits for the grid edge, a bad one makes
the lehr invalid, with LOAD_ERR and cause 1; INVALIDATE clears VALID. The scrub counts corrected errors in LEHR_CE, and an
uncorrectable one clears VALID and counts in LEHR_UE with cause 2. And R463, R477: the lehr window, at the byte address
LWIN_ADDR plus four times the word's number. A read gives the four bytes there, first byte most significant, and 0 in the
gaffer area; in the training results, 0x100000 to 0x12FFFF, whose contents no rule gives, it completes with some word (log
260). A write to the host area, or to the header or the image while HOLD = 1 (the header by log 168), stores its four bytes
there and no other, and keeps the memory's canonical form; a write to any other place changes nothing. -/
def Obligations.LehrControlAndWindow : Prop :=
  ((∀ (s : State) (hold : Bool), s.takes pgLehr →
    let s1 := s.setFld pgLehr Reg.LEHR.LCTRL_HOLD (b2n hold)
    let s2 := if s.flag pgLehr Reg.LEHR.LCTRL_HOLD && !hold then s1.holdRelease else s1
    Sys2Proof.Machine.exec (.lehrHold hold) s = .next (settle s2) ∧
    Sys2Proof.Machine.exec (.lehrLoad hold) s = .next (settle s2.lehrLoad) ∧
    Sys2Proof.Machine.exec (.lehrInvalidate hold) s = .next (settle (s2.setLehrValid false))) ∧
  (∀ s : State, (s.imageGood = true → s.lehrLoad.lehrValid = true ∧ s.lehrLoad.lehr.load = true) ∧
    (s.imageGood = false → s.lehrLoad.lehrValid = false ∧ s.lehrLoad.flag pgLehr Reg.LEHR.LSTAT_LOAD_ERR = true ∧
      s.lehrLoad.caused pgLehr 1) ∧ (s.setLehrValid false).lehrValid = false) ∧
  (∀ (s : State) (n : Nat), Sys2Proof.Machine.exec (.lehrScrub n false) s =
      .next (settle (s.addCtr pgLehr Reg.LEHR.LEHR_CE n)) ∧
    ∃ t, Sys2Proof.Machine.exec (.lehrScrub n true) s = .next t ∧ t.lehrValid = false ∧ t.caused pgLehr 2 ∧
      t.ctr pgLehr Reg.LEHR.LEHR_CE = s.ctr pgLehr Reg.LEHR.LEHR_CE + BitVec.ofNat 64 n ∧
      t.ctr pgLehr Reg.LEHR.LEHR_UE = s.ctr pgLehr Reg.LEHR.LEHR_UE + 1)) ∧
  (∀ (s : State) (k : Fin 64), s.takes pgLehr →
    let a := (s.rd pgLehr Reg.LEHR.LWIN_ADDR.off).toNat + 4 * k.val
    let writable := 0x180000 ≤ a ∧ a < 0x200000 ∨ a < 0x100000 ∧ s.flag pgLehr Reg.LEHR.LCTRL_HOLD = true
    (a < 0x100000 ∨ 0x130000 ≤ a → Sys2Proof.Machine.exec (.lehrWindowAccess k none) s =
      .next (settle { s with resp := [if 0x140000 ≤ a ∧ a < 0x180000 then 0 else BitVec.ofNat 32 (s.lehrWord a)] })) ∧
    (0x100000 ≤ a → a < 0x130000 → ∃ v n, Sys2Proof.Machine.exec (.lehrWindowAccess k none) s =
      .next (settle { s with resp := [v], nonce := n })) ∧
    ∀ v : W32,
      (writable →
        ∃ t, Sys2Proof.Machine.exec (.lehrWindowAccess k (some v)) s = .next t ∧ t.lehrWord a = v.toNat ∧
          (∀ i, i < a ∨ a + 4 ≤ i → Tab.get zeroByte t.lehr.mem i = Tab.get zeroByte s.lehr.mem i) ∧
          (Memory.wf s.lehr.mem = true → Memory.wf t.lehr.mem = true) ∧
          Touches { s with lehr := { s.lehr with mem := t.lehr.mem } } t (fun _ => False)) ∧
      (¬ writable → Sys2Proof.Machine.exec (.lehrWindowAccess k (some v)) s = .next (settle s)))

/-- R471 to R473, R12: the ledger and the refusal log. A period ends at a tick whose low ten bits are 0: LEDGER0 to LEDGER6
take the tick, the three energies, the teams' forwarded bits and the energy per bit, the teams' pages their energy and bits,
the bit counts start again, and PWRD cause 7 is raised. Reading LEDGER0 gives it and latches the seven others. Reading
REF_LOG0 gives the oldest unread refusal's first word, latches its second and marks it read; an empty log gives 0 and latches
0. -/
def Obligations.LedgerAndRefusalLog : Prop :=
  (∀ (s : State) (ea eb es : Nat), s.gridTick % 1024 = 0 → ∃ t, Sys2Proof.Machine.exec (.ledgerPeriodEnd ea eb es) s = .next t ∧
    (∀ k, k < 7 → t.rd pgDev (Reg.PWRD.LEDGER k).off = BitVec.ofNat 32 (([s.gridTick % 2 ^ 32, min ea 0xFFFFFFFF, min eb 0xFFFFFFFF,
      min es 0xFFFFFFFF, min s.dev.bitsA 0xFFFFFFFF, min s.dev.bitsB 0xFFFFFFFF,
      if s.dev.bitsA + s.dev.bitsB = 0 then 0xFFFFFFFF
        else min ((ea + eb + es) * 100000 * 65536 / (s.dev.bitsA + s.dev.bitsB)) 0xFFFFFFFF] : List Nat).getD k 0)) ∧
    t.rd (pgPwr 0) Reg.PWRT.T_E.off = BitVec.ofNat 32 (min ea 0xFFFFFFFF) ∧
    t.rd (pgPwr 1) Reg.PWRT.T_E.off = BitVec.ofNat 32 (min eb 0xFFFFFFFF) ∧
    t.rd (pgPwr 0) Reg.PWRT.T_BITS.off = BitVec.ofNat 32 (min s.dev.bitsA 0xFFFFFFFF) ∧
    t.rd (pgPwr 1) Reg.PWRT.T_BITS.off = BitVec.ofNat 32 (min s.dev.bitsB 0xFFFFFFFF) ∧
    t.dev.bitsA = 0 ∧ t.dev.bitsB = 0 ∧ t.caused pgDev 7) ∧
  (∀ s : State, s.takes pgDev → ∃ t, Sys2Proof.Machine.exec .ledgerRead s = .next t ∧ t.resp = [s.rd pgDev (Reg.PWRD.LEDGER 0).off] ∧
    (∀ i, i < 7 → Tab.get (fun _ => (0 : W32)) t.vlatch (rkey pgDev (Reg.PWRD.LEDGER (i + 1)).off 0) =
      s.rd pgDev (Reg.PWRD.LEDGER (i + 1)).off) ∧
    Touches { s with resp := t.resp, vlatch := t.vlatch } t (fun _ => False)) ∧
  (∀ s : State, s.takes pgDev →
    (s.dev.unread = 0 → ∃ t, Sys2Proof.Machine.exec .refLogRead s = .next t ∧ t.resp = [0] ∧
      Tab.get (fun _ => (0 : W32)) t.vlatch (rkey pgDev Reg.PWRD.REF_LOG1.off 0) = 0 ∧
      Touches { s with resp := t.resp, vlatch := t.vlatch } t (fun _ => False)) ∧
    (∀ n, s.dev.unread = n + 1 →
      let a := 0x130000 + 8 * ((s.dev.logPos + 64 - (n + 1)) % 64)
      ∃ t, Sys2Proof.Machine.exec .refLogRead s = .next t ∧ t.resp = [BitVec.ofNat 32 (s.lehrWord a)] ∧
        t.dev = { s.dev with unread := n } ∧
        Tab.get (fun _ => (0 : W32)) t.vlatch (rkey pgDev Reg.PWRD.REF_LOG1.off 0) = BitVec.ofNat 32 (s.lehrWord (a + 4)) ∧
        Touches { s with resp := t.resp, vlatch := t.vlatch, dev := t.dev } t (fun _ => False)))

/-- R12, R15, R513, R516 to R518: register writes. A whole word reaches its page: an INT_STATUS bit written 1 clears, INT_EN
takes the page's causes only, the identification words take nothing. A write with other byte enables counts BAD_ACCESS with
HOST cause 1 and writes nothing. INT_FORCE sets causes the page has; WITHHOLD going to 0 writes the page's values through to
the lehr. -/
def Obligations.RegisterWritesReachPages : Prop :=
  (∀ (s : State) (p : Fin 16448) (w : Fin 1024) (v : W32), p.val < 16384 → (pageKind p).isSome = true → s.takes p →
    Sys2Proof.Machine.exec (.registerWrite (.word p w) v true) s =
      .next (settle ((s.hubAnswered p).writeWord p (4 * w) v))) ∧
  (∀ (s : State) (p : Fin 16448) (v : W32), p.val < 16384 → (pageKind p).isSome = true → s.takes p →
    (∃ t, Sys2Proof.Machine.exec (.registerWrite (.word p 4) v true) s = .next t ∧ t.rd p 0x010 = s.rd p 0x010 &&& ~~~ v ∧
      ∀ q off w, off < 4096 → w < 4096 → q ≠ p.val ∨ off ≠ 0x010 ∧ off % 4 = 0 → t.rd q off w = s.rd q off w) ∧
    (∃ t, Sys2Proof.Machine.exec (.registerWrite (.word p 5) v true) s = .next t ∧
      t.rd p 0x014 = v &&& BitVec.ofNat 32 (pageCauses p) ∧
      ∀ q off w, off < 4096 → w < 4096 → q ≠ p.val ∨ off ≠ 0x014 ∧ off % 4 = 0 → t.rd q off w = s.rd q off w) ∧
    Sys2Proof.Machine.exec (.registerWrite (.word p 0) v true) s = .next (settle (s.hubAnswered p)) ∧
    Sys2Proof.Machine.exec (.registerWrite (.word p 1) v true) s = .next (settle (s.hubAnswered p))) ∧
  (∀ (s : State) (p : Fin 16448) (w : Fin 1024) (v : W32), s.hostGone = false → s.pcie.d3 = false →
    Sys2Proof.Machine.exec (.registerWrite (.word p w) v false) s =
      .next (settle ((s.bump pgHost Reg.HOST.BAD_ACCESS).raise pgHost 1))) ∧
  (∀ (s : State) (p : Fin 16384) (v : W32), (pageKind p).isSome = true → s.takes p →
    (∃ t, Sys2Proof.Machine.exec (.intForceWrite p v) s = .next t ∧
      t.rd p 0x010 = s.rd p 0x010 ||| (v &&& BitVec.ofNat 32 (pageCauses p)) ∧ Touches (s.hubAnswered p) t (· = p.val)) ∧
    (s.flag p Reg.COMMON.WITHHOLD = true → Sys2Proof.Machine.exec (.withholdRelease p) s =
      .next (settle (((s.hubAnswered p).setFld p Reg.COMMON.WITHHOLD 0).each (lehrWords p) fun s x => s.through p x.1 x.2))))

/-- R13, R147, R298, R519: reads that latch. A counter's low word latches its high word for the page and path; UCNT_LO and
BRDROP_LO latch theirs; a register that records an extreme gives it and restarts from the current value. -/
def Obligations.CounterReadsLatch : Prop :=
  (∀ (s : State) (p : Fin 16448) (w : Fin 1024) (r : RegRow) (i : Nat), p.val < 16384 → s.takes p →
    rowAt p (4 * w) = some (r, i) → r.cnt = true → r.off + i * r.stride = 4 * w.val → winOf p (4 * w) = none →
    s.flag p Reg.COMMON.SNAP_READ = false →
    ∃ t, Sys2Proof.Machine.exec (.counterLowRead .pcie p w) s = .next t ∧
      t.resp = [BitVec.ofNat 32 (s.ctr p (4 * w)).toNat] ∧
      Tab.get (fun _ => none) t.clatch (2 * p.val) =
        some (rkey p (4 * w) 0, BitVec.ofNat 32 ((s.ctr p (4 * w)).toNat / 2 ^ 32)) ∧
      Touches { s.hubAnswered p with resp := t.resp, clatch := t.clatch } t (fun _ => False)) ∧
  (∀ (s : State) (b : BenchId), s.takes (pgMarver b) →
    let v := (s.ctr (pgMarver b) Reg.MARVER.UCNT (s.fld (pgMarver b) Reg.MARVER.UCNT_IDX)).toNat
    ∃ t, Sys2Proof.Machine.exec (.ucntLoRead b) s = .next t ∧ t.resp = [BitVec.ofNat 32 v] ∧
      Tab.get (fun _ => none) t.clatch (2 * pgMarver b) = some (rkey (pgMarver b) Reg.MARVER.UCNT
        (s.fld (pgMarver b) Reg.MARVER.UCNT_IDX), BitVec.ofNat 32 (v / 2 ^ 32)) ∧
      Touches { s.hubAnswered (pgMarver b) with resp := t.resp, clatch := t.clatch } t (fun _ => False)) ∧
  (∀ (s : State) (k : Team), s.takes (pgCore (4 * teamNo k)) →
    let p := pgCore (4 * teamNo k)
    let v := (s.ctr p Reg.CORE.BRDROP (s.fld p Reg.CORE.BRDROP_IDX)).toNat
    ∃ t, Sys2Proof.Machine.exec (.brdropLoRead k) s = .next t ∧ t.resp = [BitVec.ofNat 32 v] ∧
      Tab.get (fun _ => none) t.clatch (2 * p) =
        some (rkey p Reg.CORE.BRDROP (s.fld p Reg.CORE.BRDROP_IDX), BitVec.ofNat 32 (v / 2 ^ 32)) ∧
      Touches { s.hubAnswered p with resp := t.resp, clatch := t.clatch } t (fun _ => False)) ∧
  (∀ (s : State) (x : Extreme), s.takes (s.extreme x).1 → Sys2Proof.Machine.exec (.rcExtremeRead x) s =
    .next (settle { (s.hubAnswered (s.extreme x).1).setFld (s.extreme x).1 (s.extreme x).2.1 (s.extreme x).2.2 with
      resp := [s.rd (s.extreme x).1 (s.extreme x).2.1.off] }))

/-- R516, R521, R522: snapshots. PAGE_CTRL with SNAP or CNT_CLR leaves the request for the page's edge with the number of the
grid tick, and HOST.SNAP asks a snapshot of every page that answers. -/
def Obligations.SnapshotsAreAccepted : Prop :=
  (∀ (s : State) (p : Fin 16384) (v : W32), (pageKind p).isSome = true → s.takes p →
    (∃ t, Sys2Proof.Machine.exec (.pageSnap p v) s = .next t ∧ t.hub.snaps = s.hub.snaps ++ [(p.val, s.gridTick, true, bit v.toNat 1)]) ∧
    (∃ t, Sys2Proof.Machine.exec (.pageCounterClear p v) s = .next t ∧
      t.hub.snaps = s.hub.snaps ++ [(p.val, s.gridTick, bit v.toNat 0, true)])) ∧
  (∀ s : State, s.takes pgHost → Sys2Proof.Machine.exec .deviceSnap s = .next (settle s.snapAll)) ∧
  (∀ (s : State) (p : Nat), p ∈ allPages → s.pageUp p = true → s.pageLost p = false → s.domSteady (pageDomain p) = true →
    (p, s.gridTick, true, false) ∈ s.snapAll.hub.snaps)

/-- R524: MSI-X. VEC_EOI of an active vector sends its message again; clearing a vector's mask, clearing the function mask, or
setting MSI-X Enable sends the messages that waited. A message that nothing holds and that has an address is sent and clears
its pending bit; a held one sets its pending bit. -/
def Obligations.MessagesAreSent : Prop :=
  (∀ (s : State) (v : Fin 64), s.takes pgHost → bit s.irq.active.toNat v = true →
    Sys2Proof.Machine.exec (.vecEoi v) s = .next (settle (s.message v))) ∧
  (∀ (s : State) (v : Fin 64), s.pcie.d3 = false → s.hostGone = false → s.domSteady domHost = true →
    s.flag pgMsix (Reg.MSIX.VCTL_MASK v) = true → Sys2Proof.Machine.exec (.msixUnmask (.vector v)) s =
      .next (settle ((s.setFld pgMsix (Reg.MSIX.VCTL_MASK v) 0).sendHeld [v.val]))) ∧
  (∀ s : State, s.hostGone = false →
    (s.pcie.fmask = true → Sys2Proof.Machine.exec (.msixUnmask .function) s =
      .next (settle ({ s with pcie := { s.pcie with fmask := false } }.sendHeld (List.range 64)))) ∧
    (s.pcie.msix = false → Sys2Proof.Machine.exec (.msixUnmask .enable) s =
      .next (settle ({ s with pcie := { s.pcie with msix := true } }.sendHeld (List.range 64))))) ∧
  (∀ (s : State) (v : Nat), v < 64 →
    (s.msixHeld v = true → bit (s.message v).irq.pba.toNat v = true ∧ (s.message v).irq.sent = s.irq.sent) ∧
    (s.msixHeld v = false → s.rd pgMsix (Reg.MSIX.ADDR_LO v).off ≠ 0 →
      bit (s.message v).irq.pba.toNat v = false ∧ (s.message v).irq.sent = v :: s.irq.sent))

/-- R6, R32, R479, R510, R511, R526, R537, R562: the endpoint and the pins. An access whose hub gives no answer counts
HUB_TIMEOUTS (and a discarded write), reports the hub once with cause 0, and a read returns all ones; a host-interface reset
drops the frames that receive rings were writing and the descriptors that transmit rings held, clears the endpoint's
registers, disables every job queue (R399; log 250), records the link and counts; D3hot is entered and left; a GPIO pin takes
its level and raises its cause where it is an input that selects the edge (before forwarding begins every pin is an input,
R504); a sensor at 115 °C trips, and all three at 105 °C or less release. Configuration space shows this device: vendor
0x1F4C, device 0x5120, revision 0xB0, class 0x020000. -/
def Obligations.EndpointAndPins : Prop :=
  (∀ (s : State) (k : Team) (write stays : Bool), s.pcie.d3 = false → s.hostGone = false →
    ∃ t, Sys2Proof.Machine.exec (.hubTimeout k write stays) s = .next t ∧
      t.resp = (if write then s.resp else [0xFFFFFFFF]) ∧ teamNo k ∈ t.hub.reported ∧
      (teamNo k ∈ t.hub.faulty ↔ stays = true) ∧
      t.ctr pgHost Reg.HOST.HUB_TIMEOUTS = s.ctr pgHost Reg.HOST.HUB_TIMEOUTS + 1 ∧
      t.ctr pgHost Reg.HOST.HUB_WR_DISCARD = s.ctr pgHost Reg.HOST.HUB_WR_DISCARD + BitVec.ofNat 64 (b2n write) ∧
      (s.hub.reported.contains (teamNo k) = false → t.caused pgHost 0)) ∧
  (∀ (s : State) (speed width : Fin 5), s.hostGone = false →
    ∃ t, Sys2Proof.Machine.exec (.hostInterfaceReset [] speed width) s = .next t ∧ t.pcie = {} ∧
      t.fld pgHost Reg.HOST.HSTAT_LINK_SPEED = speed.val ∧ t.fld pgHost Reg.HOST.HSTAT_LINK_WIDTH = width.val ∧
      t.ctr pgBoot Reg.BOOT.HIF_RESETS = s.ctr pgBoot Reg.BOOT.HIF_RESETS + 1 ∧
      (∀ k, k < 64 → t.flag (pgCiph (k / 16)) (Reg.CIPH.JQ_CFG_EN (k % 16)) = false) ∧
      (∀ p off w, 0x4000 ≤ p → off < 4096 → w < 4096 → t.rd p off w = factory (rkey p off w))) ∧
  (∀ (s : State) (writing : List (Fin 16)) (speed width : Fin 5), s.hostGone = false →
    let u := s.each ((writing.map fun r => r.val).filter fun r => s.ringRuns (16 + r)) fun s r => s.dmaDrop r
    u.hostGone = false → Sys2Proof.Machine.exec (.hostInterfaceReset writing speed width) s =
      Sys2Proof.Machine.exec (.hostInterfaceReset [] speed width) u) ∧
  (∀ (s : State) (d3 : Bool), s.hostGone = false → Sys2Proof.Machine.exec (.pciPowerState d3) s =
    .next (settle { s with pcie := { s.pcie with d3 := d3 } })) ∧
  (∀ (s : State) (n : Fin 8) (level : Bool), bit s.pins.gpio n ≠ level →
    ∃ t, Sys2Proof.Machine.exec (.gpioEdge n level) s = .next t ∧ bit t.pins.gpio n = level ∧
      (∀ m, m ≠ n.val → bit t.pins.gpio m = bit s.pins.gpio m) ∧
      (bit s.gpioDir n = false → bit (s.fld pgHost ⟨0x0CC, 2 * n + 1, 2 * n⟩) (if level then 0 else 1) = true →
        s.hostGone = false → t.caused pgHost (8 + n)) ∧
      Touches { s with pins := t.pins } t (· = pgHost)) ∧
  (∀ s : State, (s.boot.forwards = false → ∀ n, bit s.gpioDir n = false) ∧
    (s.boot.forwards = true → s.gpioDir = s.fld pgHost ⟨0x0C0, 7, 0⟩)) ∧
  (∀ (s : State) (r : Readings), 115 ≤ r.a.toInt ∨ 115 ≤ r.b.toInt ∨ 115 ≤ r.aon.toInt → s.dev.st ≠ 3 →
    Sys2Proof.Machine.exec (.thermalTrip r) s = .next (settle { s with pins := { s.pins with temp := r, trip := true } })) ∧
  (∀ (s : State) (a b c : BitVec 8), a.toInt ≤ 105 → b.toInt ≤ 105 → c.toInt ≤ 105 →
    Sys2Proof.Machine.exec (.thermalTripRelease a b c) s =
      .next (settle { s with pins := { s.pins with temp := { a := a, b := b, aon := c }, trip := false } })) ∧
  (∀ s : State, s.pcieIdentity.vendor = 0x1F4C ∧ s.pcieIdentity.device = 0x5120 ∧ s.pcieIdentity.revision = 0xB0 ∧
    s.pcieIdentity.classCode = 0x020000 ∧ s.pcieIdentity.subVendor = 0x1F4C)

/-- R504, R535, R536: the I2C target, out of reset, a transfer's error code being right or unchecked. A read or write of a
shared page reaches it; of another page it is denied, counted, and raises HOST cause 2; WAKE wakes from source 2, RESET with
0xA5 asserts a full reset from source 3, STATUS gives the stage and the device state (in stage 1 the ROM may have completed by
then, which is free: the model's choice, log 258), and any other command does nothing. -/
def Obligations.I2cTarget : Prop :=
  ∀ (s : State) (pec : Bool), s.hostGone = false → s.boot.asserted = false →
    s.flag pgHost Reg.HOST.I2C_CFG_PEC_EN = false ∨ pec = true →
    (∀ a : W32, i2cPage (a.toNat / 4096) = true → s.pageLost (a.toNat / 4096) = false →
      s.domSteady (pageDomain (a.toNat / 4096)) = true →
      let p := a.toNat / 4096
      Sys2Proof.Machine.exec (.i2cRead a pec) s =
        .next (settle { (s.readWord .i2c p (a.toNat % 4096 / 4 * 4)).2 with resp := [(s.readWord .i2c p (a.toNat % 4096 / 4 * 4)).1] }) ∧
      ∀ v : W32, Sys2Proof.Machine.exec (.i2cWrite a v pec) s = .next (settle (s.writeWord p (a.toNat % 4096 / 4 * 4) v))) ∧
    (∀ a v : W32, i2cPage (a.toNat / 4096) = false →
      Sys2Proof.Machine.exec (.i2cRead a pec) s =
        .next (settle { (s.bump pgHost Reg.HOST.I2C_DENIED).raise pgHost 2 with resp := [0xFFFFFFFF] }) ∧
      Sys2Proof.Machine.exec (.i2cWrite a v pec) s =
        .next (settle ((s.bump pgHost Reg.HOST.I2C_DENIED).raise pgHost 2))) ∧
    (s.wakeEnabled 2 = true → Sys2Proof.Machine.exec (.i2cWake pec) s = .next (settle (s.devWake 2))) ∧
    Sys2Proof.Machine.exec (.i2cReset pec) s = .next (settle (s.fullReset 3)) ∧
    (let u := s.romSeen
     Sys2Proof.Machine.exec (.i2cStatus pec) s =
       .next (settle { u with resp := [BitVec.ofNat 32 (u.boot.stage % 16 * 16 + u.dev.st % 4 * 4)] }) ∧
     u.dev = s.dev ∧ (s.boot.stage ≠ 1 → u = s) ∧ (s.boot.stage = 1 → u.boot.stage = 1 ∨ u.boot.stage = 2)) ∧
    (∀ c x : Byte, Sys2Proof.Machine.exec (.i2cBadCommand c x) s = .next (settle s))

/-- R527 to R534: the rings. A write of CFG that takes EN from 0 to 1 zeroes HEAD and TAIL and clears STOPPED (a descriptor
that the ring still holds completes apart from it, log 285), and one that takes it from 1 to 0 stops its fetching, with
STAT.IDLE reading 1 while it holds no descriptor. The descriptor of a transmit ring whose turn it is, its bench having room: a
bad one is dropped with status 2; any other is held, with a request of slot 64 for its frame. Answered in an allocator's clock
that answers nothing else, one whose frame is granted is admitted to its bench and completes with status 0, one that is
refused is dropped with status 1, and one dropped before gives its grant back (log 286). A running receive ring whose bench's
copy is ready writes it when it owns enough descriptors, HEAD moves on, and the copy leaves its queue. The end of COAL
delivers the interrupt that waited. A failed access stops a running ring that owns descriptors, at the index that failed, with
HOST cause 3. -/
def Obligations.RingCommands : Prop :=
  (∀ (s : State) (i : Fin 32) (v : BitVec 31), s.pcie.d3 = false → s.hostGone = false → s.domSteady domHost = true →
    (s.flag (ringPage i) Reg.TXRING.CFG_EN = false → ∃ t, Sys2Proof.Machine.exec (.ringEnable i v) s = .next t ∧
      t.fld (ringPage i) Reg.TXRING.HEAD = 0 ∧ t.fld (ringPage i) Reg.TXRING.TAIL = 0 ∧
      t.flag (ringPage i) Reg.TXRING.STAT_STOPPED = false ∧
      Touches (s.eachTake fun x => if x.ring = i.val then { x with fresh := false } else x) t (· = ringPage i)) ∧
    (s.flag (ringPage i) Reg.TXRING.CFG_EN = true → ∃ t, Sys2Proof.Machine.exec (.ringDisable i v) s = .next t ∧
      t.ringRuns i = false ∧ (i.val < 16 →
        bit (t.readBar2 .pcie (ringPage i) Reg.TXRING.STAT.off).1.toNat 30 = (s.takesOf i).isEmpty) ∧
      Touches s t (· = ringPage i))) ∧
  (∀ (s : State) (i : Fin 16) (d bytes : List Byte), s.txTurn (s.fld (pgTx i) Reg.TXRING.CFG_BENCH) = some i.val →
    s.cpuRoom (s.fld (pgTx i) Reg.TXRING.CFG_BENCH) = true →
    let b := s.fld (pgTx i) Reg.TXRING.CFG_BENCH
    let s0 := s.onRing (32 + b) fun r => { r with last := i }
    (txBad d = true → Sys2Proof.Machine.exec (.txDescriptorFetch i d bytes) s =
      .next (settle ((s0.bump (pgTx i) Reg.TXRING.DROPS).txDone i 2))) ∧
    (txBad d = false →
      let body := padBody (slice bytes 0 (bits (txWord d 0) 13 0))
      let frame := body ++ fcsBytes body
      Sys2Proof.Machine.exec (.txDescriptorFetch i d bytes) s = .next (settle (s0.request b 64 512 (some frame.length)
        (.cpu { ring := i, at_ := s.ringDesc i (s.fld (pgTx i) Reg.TXRING.HEAD), desc := d, frame := frame }))))) ∧
  (∀ (s : State) (b : BenchId) (r : AllocReq) (a : Answer) (x : CpuTake), ((s.allocClock b).bufAt b).answers = [(r, a)] →
    r.what = .cpu x →
    let u := (s.allocClock b).onBuf b fun u => { u with answers := [] }
    (x.gone = true → ∀ g n, a = .granted g n → Sys2Proof.Machine.exec (.allocAnswer b) s = .next (settle (u.cullet b g 64))) ∧
    (x.gone = true → (∀ g n, a ≠ .granted g n) → Sys2Proof.Machine.exec (.allocAnswer b) s = .next (settle u)) ∧
    (x.gone = false → ∀ g n, a = .granted g n → Sys2Proof.Machine.exec (.allocAnswer b) s = .next (settle
      (((u.txAdmit b x.ring g x.desc x.frame).bump (pgTx x.ring) Reg.TXRING.FRAMES).takeDone x 0 true))) ∧
    (x.gone = false → (∀ g n, a ≠ .granted g n) → Sys2Proof.Machine.exec (.allocAnswer b) s =
      .next (settle ((u.bump (pgTx x.ring) Reg.TXRING.DROPS).takeDone x 1 true)))) ∧
  (∀ (s : State) (x : CpuTake) (st : Nat), s.takeDone x st true =
    let u := if s.dmaUp then s.hostPut (x.at_ + 16) (natLE 4 (2 ^ 31 + st)) else s
    if x.fresh then u.headPast x.ring 1 else u) ∧
  (∀ (s : State) (r : Fin 16) (b : Nat) (c : Copy) (addrs : List (BitVec 64)), s.rxTurn r = some (b, c) →
    s.ringRuns (16 + r) = true → ceilDiv (s.rxBytes c).length (s.rxBuf r) ≤ s.owned (16 + r) →
    addrs.length = ceilDiv (s.rxBytes c).length (s.rxBuf r) →
    let f := s.rxBytes c
    Sys2Proof.Machine.exec (.rxFrameWrite r addrs) s = .next (settle ((((((
      s.rxWrite r c ((s.descAt c.bench c.desc).getD {}) f.length (s.rxBuf r) 0 addrs f).bump (pgRx r) Reg.RXRING.FRAMES).headPast
      (16 + r) addrs.length).onRing (16 + r) fun x => { x with last := b }).forwarded (benchTeam b) f.length).rxLeave r b c))) ∧
  (∀ (s : State) (i : Fin 32), (s.ringAt i).cooling = true → ∃ t, Sys2Proof.Machine.exec (.irqCoalesceEnd i) s = .next t ∧
    ((s.ringAt i).waiting = true → t.flag (ringPage i) Reg.TXRING.STAT_IRQ = true) ∧ (t.ringAt i).waiting = false ∧
    Touches { s with ring := t.ring } t (· = ringPage i)) ∧
  (∀ (s : State) (i : Fin 32) (k : BitVec 16) (wrote : Bool), s.ringRuns i = true → s.owned i ≠ 0 →
    ∃ t, Sys2Proof.Machine.exec (.ringDmaError i k wrote) s = .next t ∧
      t.flag (ringPage i) Reg.TXRING.STAT_STOPPED = true ∧
      t.fld (ringPage i) Reg.TXRING.STAT_STOP_IDX =
        (s.fld (ringPage i) Reg.TXRING.HEAD + (if i.val < 16 then 0 else k.toNat)) % 2 ^ 16 ∧ t.caused pgHost 3)

/-- R53, R181 to R183, R372: the table windows. A TW_CMD write whose hub has room and has taken every access before is taken
at once: startTable of the command that the window's table number, operation, key, data, argument and mask registers make. An
operation above 4 ends at once with DONE. A key-slot load or zeroing is a WRITE of the key table with LOAD set or clear. -/
def Obligations.TableWindowCommands : Prop :=
  (∀ (s : State) (w : Window) (k : Fin 16), s.takes (windowPage w) →
    let p := windowPage w
    let s1 := s.hubAnswered p
    let cmd := fun op => s1.twRead p (k * 2 ^ 28 + op * 2 ^ 24)
    (s1.hubsFull (cmd 0) = false → Sys2Proof.Machine.exec (.twInsert w k) s = .next (settle (s1.startTable (cmd 0)))) ∧
    (s1.hubsFull (cmd 1) = false → Sys2Proof.Machine.exec (.twDelete w k) s = .next (settle (s1.startTable (cmd 1)))) ∧
    (s1.hubsFull (cmd 2) = false → Sys2Proof.Machine.exec (.twSearch w k) s = .next (settle (s1.startTable (cmd 2)))) ∧
    (s1.hubsFull (cmd 3) = false → Sys2Proof.Machine.exec (.twRead w k) s = .next (settle (s1.startTable (cmd 3)))) ∧
    (s1.hubsFull (cmd 4) = false → Sys2Proof.Machine.exec (.twWrite w k) s = .next (settle (s1.startTable (cmd 4)))) ∧
    (∀ op : Fin 11, s1.hubsFull (cmd (5 + op)) = false → ∃ t, Sys2Proof.Machine.exec (.twBadOp w k op) s = .next t ∧
      t = settle (s1.startTable (cmd (5 + op))) ∧ bit (t.rd p 0x254).toNat 31 = true)) ∧
  (∀ (s : State) (c : ClusterId), s.takes (pgCiph c) →
    let s1 := fun load => (s.hubAnswered (pgCiph c)).setFld (pgCiph c) ⟨0x23C, 31, 31⟩ load
    let cmd := fun load => (s1 load).twRead (pgCiph c) (2 * 2 ^ 28 + 4 * 2 ^ 24)
    ((s1 1).hubsFull (cmd 1) = false →
      Sys2Proof.Machine.exec (.keySlotLoad c) s = .next (settle ((s1 1).startTable (cmd 1)))) ∧
    ((s1 0).hubsFull (cmd 0) = false →
      Sys2Proof.Machine.exec (.keySlotZero c) s = .next (settle ((s1 0).startTable (cmd 0)))))

/-- R53, R55, R181: a table write that is well formed, every team it addresses answering, and that is no write of a rule bank,
waits in the hub with the number of the grid tick for the units that hold the table, while TW_RESULT reads 0; it changes no
table. A hub with 64 commands not yet final, or with a limit of the tick used up, holds further ones back in order, and any
access to its pages behind one waits too (R31). -/
def Obligations.TableWritesWait : Prop :=
  (∀ (s : State) (c : HostCmd), c.kind = .table → c.bad = false → c.writes = true → (∀ t ∈ c.teams, s.hubUp t = true) →
    c.teams.flatMap c.units ≠ [] → (∀ i, c.tkind ≠ some (.hash (.bank i))) →
    (s.startTable c).rd c.page 0x254 = 0 ∧ (s.startTable c).tabs = s.tabs ∧
    ∃ l, (s.startTable c).hub.cmds = l ++ [{ c with tick := s.gridTick, left := c.teams.flatMap c.units, stats := [] }]) ∧
  (∀ (s : State) (c : HostCmd), s.hubsFull c = true →
    s.submit c = { s with hub := { s.hub with held := s.hub.held ++ [.cmd c] } }) ∧
  (∀ (s : State) (c : HostCmd), 64 ≤ s.hubLoad c.team ∨ s.overQuota c = true → s.hubsFull c = true) ∧
  (∀ (s : State) (a : HubAcc) (f : State → State), s.waits a.page = true → s.pcie.d3 = false → s.hostGone = false →
    s.hubAccess a f = { s with hub := { s.hub with held := s.hub.held ++ [a] } })

/-- R362: the sequence window, its hub having room. A READ gives the entry as committed in SR_DATA with DONE at once; WRITE
and RESET, every team they address answering, wait for their units with SQ_RESULT 0; OP above 2 ends at once with DONE. And
R220 to R222: the search mailbox, its hub having room. With no command of the page in progress, FIRST, NEXT and FLUSH start
with the result registers at 0, FIRST and NEXT leaving their result to wait; a reserved OP gives DONE with BAD_ARG and cause 6
at once. Each write during a command is lost and noted. SEARCH_DONE shows the five result words that wait, a lost write in bit
27, with cause 6, and changes no table. -/
def Obligations.SequenceWindowAndSearch : Prop :=
  (∀ (s : State) (b : BenchId), s.takes (pgStrm b) →
    let p := pgStrm b
    let s1 := s.hubAnswered p
    let data := ((List.range 4).map fun k => (s.rd p (Reg.STRM.SQ_DATA k).off).toNat * 2 ^ (32 * k)).sum
    let idx := (s.rd p Reg.STRM.SQ_IDX.off).toNat
    let cmd := fun op => ({ kind := .sq, page := p, op := op, arg := idx, data := data } : HostCmd)
    let waits := fun (op : Nat) (t : State) => (∀ m ∈ (cmd op).teams, s.hubUp m = true) → t.rd p Reg.STRM.SQ_RESULT.off = 0 ∧
      ∃ l, t.hub.cmds = l ++ [{ cmd op with tick := s.gridTick, left := (cmd op).teams.flatMap (cmd op).units }]
    (s1.hubsFull (cmd 0) = false → ∃ t, Sys2Proof.Machine.exec (.sqRead b) s = .next t ∧ t = settle (s1.startSq (cmd 0)) ∧
      (∀ k, k < 4 → t.rd p (Reg.STRM.SR_DATA k).off = BitVec.ofNat 32 (s.seqEntry (b / 4) (bits idx 18 0) / 2 ^ (32 * k))) ∧
      bit (t.rd p Reg.STRM.SQ_RESULT.off).toNat 31 = true) ∧
    (s1.hubsFull (cmd 1) = false → ∃ t, Sys2Proof.Machine.exec (.sqWrite b) s = .next t ∧ t = settle (s1.startSq (cmd 1)) ∧ waits 1 t) ∧
    (s1.hubsFull (cmd 2) = false → ∃ t, Sys2Proof.Machine.exec (.sqReset b) s = .next t ∧ t = settle (s1.startSq (cmd 2)) ∧ waits 2 t) ∧
    (∀ op : Fin 13, s1.hubsFull (cmd (3 + op)) = false → ∃ t, Sys2Proof.Machine.exec (.sqBadOp b op) s = .next t ∧
      bit (t.rd p Reg.STRM.SQ_RESULT.off).toNat 31 = true)) ∧
  ((∀ (s : State) (b : BenchId), s.takes (pgFdb b) →
    let p := pgFdb b
    let s1 := s.hubAnswered p
    let arg := (s.rd p Reg.FDB.SRCH_SEL.off).toNat + (s.rd p Reg.FDB.SRCH_DOM.off).toNat * 2 ^ 32
    let cmd := fun op mask => ({ kind := if op = 2 then .flush else .walk, page := p, op := op, mask := mask, arg := arg } : HostCmd)
    let clear := fun t : State => ∀ o ∈ [0x30C, 0x310, 0x314, 0x318, 0x31C], t.rd p o = 0
    let lost : Host.Outcome State Fault Refusal := .next (settle (s1.onFdb b fun f => { f with lost := true }))
    (s1.hubsFull (cmd 0 0) = false → (s.searching p = true → Sys2Proof.Machine.exec (.searchFirst b) s = lost) ∧
      (s.searching p = false → ∃ t, Sys2Proof.Machine.exec (.searchFirst b) s = .next t ∧ t = settle (s1.startSearch (cmd 0 0)) ∧ clear t ∧
        (t.fdbAt b).walk.isSome = true)) ∧
    (s1.hubsFull (cmd 1 0) = false → (s.searching p = true → Sys2Proof.Machine.exec (.searchNext b) s = lost) ∧
      (s.searching p = false → ∃ t, Sys2Proof.Machine.exec (.searchNext b) s = .next t ∧ t = settle (s1.startSearch (cmd 1 0)) ∧ clear t ∧
        (t.fdbAt b).walk.isSome = true)) ∧
    (∀ m : Byte, s1.hubsFull (cmd 2 m.toNat) = false → (s.searching p = true → Sys2Proof.Machine.exec (.searchFlush b m) s = lost) ∧
      (s.searching p = false → ∃ t, Sys2Proof.Machine.exec (.searchFlush b m) s = .next t ∧
        t = settle (s1.startSearch (cmd 2 m.toNat)) ∧ clear t)) ∧
    (s1.hubsFull (cmd 3 0) = false → (s.searching p = true → Sys2Proof.Machine.exec (.searchReserved b) s = lost) ∧
      (s.searching p = false → ∃ t, Sys2Proof.Machine.exec (.searchReserved b) s = .next t ∧
        t.rd p 0x30C = 0x90000000 ∧ t.caused p 6))) ∧
  (∀ (s : State) (b : BenchId) (l : List Nat), (s.fdbAt b).walk = some l → s.hub.held = [] →
    ∃ t, Sys2Proof.Machine.exec (.searchDone b) s = .next t ∧ (t.fdbAt b).walk = none ∧ (t.fdbAt b).lost = false ∧
      t.rd (pgFdb b) 0x30C = BitVec.ofNat 32 (l.getD 0 0 + b2n (s.fdbAt b).lost * 2 ^ 27) ∧
      t.rd (pgFdb b) 0x310 = BitVec.ofNat 32 (l.getD 1 0) ∧ t.rd (pgFdb b) 0x314 = BitVec.ofNat 32 (l.getD 2 0) ∧
      t.rd (pgFdb b) 0x318 = BitVec.ofNat 32 (l.getD 3 0) ∧ t.rd (pgFdb b) 0x31C = BitVec.ofNat 32 (l.getD 4 0) ∧
      t.caused (pgFdb b) 6 ∧ (∀ i, t.tabsAt i = s.tabsAt i)))

/-- R157, R165 to R168, R174: seeds, route classes and swaps. A SEED write is stored while no bench that holds its table has
an entry in it, and is otherwise refused with cause 7, or 4 for the stream table. An RTCLASS write, its reserved bits dropped,
is accepted as a write for its team's benches. A swap request is rejected, counted, with cause 6 while a swap of a team copy
it addresses is under way; otherwise each such copy starts its swap with the grid tick's number, STATE 1 and SWAP_TICK; with
COPY = 1 the other team's is addressed where its hub answers, and noted missing where it does not. -/
def Obligations.SeedsClassesAndSwaps : Prop :=
  (∀ (s : State) (k : SeedTab) (w : Fin 4) (v : W32), let b := (seedOf k).1
    let h := (seedOf k).2
    let p := (seedAt b h).1
    let benches := if h = .mac then [b] else teamBenches (benchTeam b)
    s.takes p →
    ((∀ x ∈ benches, ((s.tabsAt x).hget h).empty = true) → Sys2Proof.Machine.exec (.seedWrite k w v) s =
      .next (settle ((s.hubAnswered p).wrL p ((seedAt b h).2 + 4 * w) v))) ∧
    ((∃ x ∈ benches, ((s.tabsAt x).hget h).empty = false) → Sys2Proof.Machine.exec (.seedWrite k w v) s =
      .next (settle ((s.hubAnswered p).raise p (if h = .sid then 4 else 7))))) ∧
  (∀ (s : State) (k : Team) (c : Fin 16) (v : W32), s.takes (pgCls (4 * teamNo k)) →
    Sys2Proof.Machine.exec (.rtclassWrite k c v) s = .next (settle ((s.hubAnswered (pgCls (4 * teamNo k))).acceptWrite
      { kind := .rtclass, page := pgCls (4 * teamNo k), table := c, data := (v &&& 0xC0FF0000).toNat }))) ∧
  (∀ (s : State) (k : Team) (copy : Bool), s.takes (pgCls (4 * teamNo k)) →
    let p := pgCls (4 * teamNo k)
    let o := 1 - teamNo k
    let both := copy && s.hubUp o
    let u := if copy ∧ s.hubUp o = false then (s.hubAnswered p).hubMissing o true else s.hubAnswered p
    (s.swapAt (teamNo k) ≠ none ∨ both = true ∧ s.swapAt o ≠ none → Sys2Proof.Machine.exec (.swapRequest k copy) s =
      .next (settle (((u.bump p Reg.CLS.SWAP_REJECT).setFld p Reg.CLS.SWAP_STAT_REJECT 1).raise p 6))) ∧
    (s.swapAt (teamNo k) = none → (both = true → s.swapAt o = none) → Sys2Proof.Machine.exec (.swapRequest k copy) s =
      .next (settle (if both then ((u.swapAccept (teamNo k) true).hubBack o).swapAccept o true
        else u.swapAccept (teamNo k) false)))) ∧
  (∀ (s : State) (n : Nat) (both : Bool), n < 2 → let p := pgCls (4 * n)
    let t := s.swapAccept n both
    t.swapAt n = some { tick := s.gridTick, left := teamBenches n, both := both } ∧ t.fld p Reg.CLS.SWAP_STAT_STATE = 1 ∧
    t.rd p Reg.CLS.SWAP_TICK.off = BitVec.ofNat 32 s.gridTick ∧ Touches { s with swap := t.swap } t (· = p))

/-- R184, R198, R202, R205, R215, R216, R223, R297, R386, R399: learning, aging, signatures, and the logs. LEARN_REQUEST takes
the oldest request: past 512 in the tick it counts LEARN_OVF, an ignored one LEARN_IGNORED, whether its frame was bad or not
(log 71), one of a bad frame LEARN_BADFRAME, and any other is handled by learnHandle. AGING_VISIT, aging enabled and its wait
over, notes the next BATCH positions as visited and waits DIV again. SIGNATURE_CHECK, enabled and its wait over, moves to the
next block and counts SIG_BLOCKS; a block that matches leaves the log, one that differs at two visits running is reported
once, with SIG_MISMATCH and cause 8. LCFG and AGECFG writes store and act. A MIRR write is stored and waits at every bench.
Reading a log gives its oldest entry and removes it (FLAP_LOG0 latches the entry's other words); an empty log gives 0 and
changes nothing. -/
def Obligations.LearningAndLogs : Prop :=
  (∀ (s : State) (b : BenchId) (r : LearnReq) (rest : List LearnReq), (s.fdbAt b).reqs = r :: rest →
    let s1 := s.onFdb b fun f => { f with reqs := rest }
    let s2 := s1.onFdb b fun f => { f with handled := f.handled + 1 }
    (512 ≤ (s.fdbAt b).handled → Sys2Proof.Machine.exec (.learnRequest b) s = .next (settle (s1.bump (pgFdb b) Reg.FDB.LEARN_OVF))) ∧
    ((s.fdbAt b).handled < 512 → s2.learnIgnored b r = true →
      Sys2Proof.Machine.exec (.learnRequest b) s = .next (settle (s2.bump (pgFdb b) Reg.FDB.LEARN_IGNORED))) ∧
    ((s.fdbAt b).handled < 512 → s2.learnIgnored b r = false → r.bad = true →
      Sys2Proof.Machine.exec (.learnRequest b) s = .next (settle (s2.bump (pgFdb b) Reg.FDB.LEARN_BADFRAME))) ∧
    ((s.fdbAt b).handled < 512 → s2.learnIgnored b r = false → r.bad = false →
      Sys2Proof.Machine.exec (.learnRequest b) s = .next (settle (s2.learnHandle b r)))) ∧
  (∀ (s : State) (b : BenchId), s.flag (pgFdb b) Reg.FDB.AGECFG_EN = true → (s.fdbAt b).wait = 0 →
    ∃ t, Sys2Proof.Machine.exec (.agingVisit b) s = .next t ∧
      t.fdbAt b = { s.fdbAt b with
        wait := s.ageDiv b, pos := ((s.fdbAt b).pos + s.ageBatch b) % 262208,
        visited := (s.fdbAt b).visited ++ (List.range (s.ageBatch b)).map fun i => ((s.fdbAt b).pos + i) % 262208 } ∧
      (∀ c, c ≠ b.val → t.fdbAt c = s.fdbAt c) ∧ Touches { s with fdb := t.fdb } t (fun _ => False)) ∧
  (∀ (s : State) (k : Team), let n := teamNo k
    let p := pgFdb (4 * n)
    let g := s.sigAt n
    let bad := (s.tabsAt (4 * n)).signature g.pos ≠ (s.tabsAt (4 * n)).dget (sigTable g.pos).2.1 (sigTable g.pos).2.2.1
    s.flag p Reg.FDB.SIGCFG_EN = true → g.wait = 0 → (s.teamAt n).failed = false →
    ∃ t, Sys2Proof.Machine.exec (.signatureCheck k) s = .next t ∧ (t.sigAt n).pos = (g.pos + 1) % 4416 ∧
      (t.sigAt n).wait = max 1 (s.fld p Reg.FDB.SIGCFG_PERIOD) ∧
      t.ctr p Reg.FDB.SIG_BLOCKS = s.ctr p Reg.FDB.SIG_BLOCKS + 1 ∧
      (¬ bad → (t.sigAt n).log = g.log ∧ g.pos ∉ (t.sigAt n).differed) ∧ (bad → g.pos ∈ (t.sigAt n).differed) ∧
      (bad → g.pos ∈ g.differed → g.pos ∉ g.reported → g.pos ∈ (t.sigAt n).reported ∧ t.caused p 8 ∧
        t.ctr p Reg.FDB.SIG_MISMATCH = s.ctr p Reg.FDB.SIG_MISMATCH + 1) ∧
      (¬ bad ∨ g.pos ∉ g.differed ∨ g.pos ∈ g.reported → t.ctr p Reg.FDB.SIG_MISMATCH = s.ctr p Reg.FDB.SIG_MISMATCH) ∧
      Touches { s with sig := t.sig } t (· = p)) ∧
  (∀ (s : State) (b : BenchId) (v : W32), s.takes (pgFdb b) →
    Sys2Proof.Machine.exec (.flapEnWrite b v) s = .next (settle ((s.hubAnswered (pgFdb b)).lcfgFdbWrite b v)) ∧
    Sys2Proof.Machine.exec (.agecfgWrite b v) s = .next (settle ((s.hubAnswered (pgFdb b)).agecfgWrite b v))) ∧
  (∀ (s : State) (k : Fin 1024) (v : W32), s.takes pgMirr → rwBits pgMirr (4 * k) ≠ 0 →
    ∃ t, Sys2Proof.Machine.exec (.mirrWrite k v) s = .next t ∧ t.rd pgMirr (4 * k) = (s.plainWrite pgMirr (4 * k) 0 v).rd pgMirr (4 * k) ∧
      (∀ b, b < 8 → t.mirrorAt b = { s.mirrorAt b with
        pend := (s.mirrorAt b).pend ++ [(s.gridTick, 4 * k.val, t.rd pgMirr (4 * k))] }) ∧
      Touches { s with mirror := t.mirror, lehr := t.lehr } t (fun p => p = pgMirr ∨ p = pgLehr ∨ p = pgDev)) ∧
  (∀ (s : State) (w : Window), s.takes (windowPage w) → let p := windowPage w
    (s.failLogAt p = [] → Sys2Proof.Machine.exec (.failLogRead w) s = .next (settle { s.hubAnswered p with resp := [0] })) ∧
    ∀ r rest, s.failLogAt p = r :: rest → ∃ t, Sys2Proof.Machine.exec (.failLogRead w) s = .next t ∧
      t.resp = [BitVec.ofNat 32 r] ∧ t.failLogAt p = rest ∧ (∀ q, q ≠ p → t.failLogAt q = s.failLogAt q) ∧
      Touches { s.hubAnswered p with resp := t.resp, failLog := t.failLog } t (fun _ => False)) ∧
  (∀ (s : State) (b : BenchId), s.takes (pgFdb b) → let p := pgFdb b
    ((s.fdbAt b).flapLog = [] → Sys2Proof.Machine.exec (.flapLogRead b) s = .next (settle { s.hubAnswered p with resp := [0] })) ∧
    ∀ first refused dom addr tick rest, (s.fdbAt b).flapLog = (first, refused, dom, addr, tick) :: rest →
      ∃ t, Sys2Proof.Machine.exec (.flapLogRead b) s = .next t ∧ t.resp = [BitVec.ofNat 32 (2 ^ 31 + first * 2 ^ 16 + refused)] ∧
        t.fdbAt b = { s.fdbAt b with flapLog := rest } ∧ (∀ c, c ≠ b.val → t.fdbAt c = s.fdbAt c) ∧
        t.rd p Reg.FDB.FLAP_LOG1.off = BitVec.ofNat 32 (dom * 2 ^ 16 + addr / 2 ^ 32 % 2 ^ 16) ∧
        t.rd p Reg.FDB.FLAP_LOG2.off = BitVec.ofNat 32 addr ∧ t.rd p Reg.FDB.FLAP_LOG3.off = BitVec.ofNat 32 tick ∧
        Touches { s.hubAnswered p with resp := t.resp, fdb := t.fdb } t (· = p)) ∧
  (∀ (s : State) (k : Team), let n := teamNo k
    s.takes (pgFdb (4 * n)) →
    ((s.sigAt n).log = [] → Sys2Proof.Machine.exec (.sigLogRead k) s = .next (settle { s.hubAnswered (pgFdb (4 * n)) with resp := [0] })) ∧
    ∀ no blk rest, (s.sigAt n).log = (no, blk) :: rest → ∃ t, Sys2Proof.Machine.exec (.sigLogRead k) s = .next t ∧
      t.resp = [BitVec.ofNat 32 (2 ^ 31 + no * 2 ^ 28 + blk)] ∧ t.sigAt n = { s.sigAt n with log := rest } ∧
      (∀ m, m ≠ n → t.sigAt m = s.sigAt m) ∧
      Touches { s.hubAnswered (pgFdb (4 * n)) with resp := t.resp, sig := t.sig } t (fun _ => False)) ∧
  (∀ (s : State) (c : ClusterId), s.takes (pgCiph c) →
    ((s.ciphAt c).pnLog = [] → Sys2Proof.Machine.exec (.pnLogRead c) s = .next (settle { s.hubAnswered (pgCiph c) with resp := [0] })) ∧
    ∀ r rest, (s.ciphAt c).pnLog = r :: rest → ∃ t, Sys2Proof.Machine.exec (.pnLogRead c) s = .next t ∧
      t.resp = [BitVec.ofNat 32 r] ∧ t.ciphAt c = { s.ciphAt c with pnLog := rest } ∧ (∀ d, d ≠ c.val → t.ciphAt d = s.ciphAt d) ∧
      Touches { s.hubAnswered (pgCiph c) with resp := t.resp, ciph := t.ciph } t (fun _ => False))

/-- R233, R234, R240: the buffer pools. START with READY = 0 begins the build of a valid partition, and with an invalid one
sets CFG_ERR with cause 6; with READY = 1 it is ignored with cause 6. When the build ends the bench is ready, each pool's list
holding its buffers in header order and the cullet list nothing. A bad link of a list that holds buffers empties that list,
moves the buffer whose link failed to the cullet list with RETIRE = 1, counts LIST_REBUILD with cause 4 and, by the model's
choice (log 227), CULLET_IN with cause 9, and begins a rebuild, after the one that runs. The rebuilt list holds the swept
buffers (FREE = 1, RETIRE = 0, in service) in header order, then those freed late in the order of their freeing, and the next
waiting rebuild follows. -/
def Obligations.PoolsAndLists : Prop :=
  (∀ (s : State) (b : BenchId), s.takes (pgBuf b) →
    let s1 := s.hubAnswered (pgBuf b)
    (s.bufReady b = true → Sys2Proof.Machine.exec (.poolStart b) s = .next (settle (s1.raise (pgBuf b) 6))) ∧
    (s.bufReady b = false → s.poolsValid b = true → Sys2Proof.Machine.exec (.poolStart b) s =
      .next (settle ((s1.onBuf b fun u => { u with building := true }).setFld (pgBuf b) Reg.BUF.BUFSTAT_CFG_ERR 0))) ∧
    (s.bufReady b = false → s.poolsValid b = false → Sys2Proof.Machine.exec (.poolStart b) s =
      .next (settle ((s1.setFld (pgBuf b) Reg.BUF.BUFSTAT_CFG_ERR 1).raise (pgBuf b) 6)))) ∧
  (∀ (s : State) (b : BenchId), (s.bufAt b).building = true →
    Sys2Proof.Machine.exec (.poolBuildDone b) s = .next (settle ((s.poolBuilt b).goCheck)) ∧
    (∀ p, p < 4 → ((s.poolBuilt b).bufAt b).list p = s.poolGrans b p) ∧ (s.poolBuilt b).bufReady b = true ∧
    ((s.poolBuilt b).bufAt b).cullet = [] ∧ ((s.poolBuilt b).bufAt b).building = false) ∧
  (∀ (s : State) (b : BenchId) (p : Fin 4) (g : Nat) (l : List Nat), (s.bufAt b).list p = g :: l →
    ∃ t, Sys2Proof.Machine.exec (.freeListError b p) s = .next t ∧ t = settle (s.listError b p) ∧
      (t.bufAt b).list p = [] ∧ (t.bufAt b).cullet = (s.bufAt b).cullet ++ [g] ∧ ((t.bufAt b).hdr g).retire = true ∧
      ((s.bufAt b).rebuild = none → (t.bufAt b).rebuild = some (p.val, []) ∧ (t.bufAt b).alsoBad = (s.bufAt b).alsoBad) ∧
      (∀ e, (s.bufAt b).rebuild = some e →
        (t.bufAt b).rebuild = some e ∧ (t.bufAt b).alsoBad = (s.bufAt b).alsoBad ++ [(p.val, [])]) ∧
      t.ctr (pgBuf b) Reg.BUF.LIST_REBUILD = s.ctr (pgBuf b) Reg.BUF.LIST_REBUILD + 1 ∧
      t.ctr (pgBuf b) Reg.BUF.CULLET_IN = s.ctr (pgBuf b) Reg.BUF.CULLET_IN + 1 ∧
      t.flag (pgBuf b) Reg.BUF.BUFSTAT_REBUILDING = true ∧ t.caused (pgBuf b) 4 ∧ t.caused (pgBuf b) 9) ∧
  (∀ (s : State) (b : BenchId) (late freed : List Nat) (p : Nat), (s.bufAt b).rebuild = some (p, freed) →
    let after := freed.filter fun g => late.contains g && !((s.bufAt b).hdr g).out
    ∃ t, Sys2Proof.Machine.exec (.listRebuildDone b late) s = .next t ∧ (t.bufAt b).rebuild = (s.bufAt b).alsoBad.head? ∧
      (t.bufAt b).alsoBad = (s.bufAt b).alsoBad.drop 1 ∧
      (t.bufAt b).list p = ((s.poolGrans b p).filter fun g => ((s.bufAt b).hdr g).free && !((s.bufAt b).hdr g).retire &&
        !((s.bufAt b).hdr g).out && !after.contains g) ++ after ∧
      t.flag (pgBuf b) Reg.BUF.BUFSTAT_REBUILDING = (s.bufAt b).alsoBad.head?.isSome)

/-- R247, R254 to R258: releases, uncorrectable words and reservations. A holder or, in a ready pool, a reference is released
for its agent. Single-bit errors count in ECC_CE; an uncorrectable data word read for a frame that holds the buffer, or for
none, also counts ECC_UE with cause 2 and retires the buffer, and the frame is dropped by eccFrame. An uncorrectable header
counts HDR_UE with cause 3, sets the buffer out of service, takes it from its list and the cullet list, and drops each frame
that holds it. An OWN_RES or OWN_DESC write that the pools cannot hold is refused with cause 5; no owner above 519 is written.
Clearing the double-free log zeroes it and changes only the page. -/
def Obligations.BufferEvents : Prop :=
  (∀ (s : State) (b : BenchId) (agent : Fin 72) (n : Nat),
    Sys2Proof.Machine.exec (.holderRelease b agent true n) s = .next (settle (s.relHold b (n % 32768) agent)) ∧
    ((s.poolOf b n).isSome = true → s.bufReady b = true →
      Sys2Proof.Machine.exec (.holderRelease b agent false n) s = .next (settle (s.relBuf b n agent)))) ∧
  (∀ (s : State) (b : BenchId) (ce d g : Nat), s.domOn (domBuffer b) = true → s.bufReady b = true →
    (s.poolOf b g).isSome = true →
    let s1 := ((((s.addCtr (pgBuf b) Reg.BUF.ECC_CE ce).bump (pgBuf b) Reg.BUF.ECC_UE).raise (pgBuf b) 2).onBuf b fun u =>
      u.setHdr g { u.hdr g with retire := true })
    Sys2Proof.Machine.exec (.bufferDataUe b ce ⟨none, g⟩) s = .next (settle s1) ∧
    (d ∈ s.holdersOf b g → Sys2Proof.Machine.exec (.bufferDataUe b ce ⟨some d, g⟩) s = .next (settle (s1.eccFrame b d)))) ∧
  (∀ (s : State) (b : BenchId) (g : Nat), s.bufReady b = true → (s.poolOf b g).isSome = true →
    ((s.bufAt b).hdr g).out = false →
    let p := ((s.bufAt b).hdr g).pool
    let u := (((s.bump (pgBuf b) Reg.BUF.HDR_UE).raise (pgBuf b) 3).onBuf b fun u =>
      { (u.setHdr g { u.hdr g with out := true }) with
        free := Tab.set (fun _ => []) u.free p ((u.list p).filter fun x => x != g),
        cullet := u.cullet.filter fun x => x != g }).poolTrack b p (s.poolFree b p)
    Sys2Proof.Machine.exec (.bufferHeaderUe b g) s =
      .next (settle (u.each (s.holdersOf b g) fun s d => s.eccFrame b d)) ∧
    ((u.bufAt b).hdr g).out = true ∧ g ∉ (u.bufAt b).list p ∧ g ∉ (u.bufAt b).cullet ∧ u.caused (pgBuf b) 3 ∧
    u.ctr (pgBuf b) Reg.BUF.HDR_UE = s.ctr (pgBuf b) Reg.BUF.HDR_UE + 1) ∧
  (∀ (s : State) (b : BenchId) (v : W32), s.takes (pgBuf b) →
    let o := s.fld (pgBuf b) Reg.BUF.OWN_IDX
    let s1 := s.hubAnswered (pgBuf b)
    let res := s1.setL (pgBuf b) Reg.BUF.OWN_RES (v.toNat % 2 ^ 18) o
    let desc := s1.wrL (pgBuf b) 0x0CC v o
    (o ≤ 519 →
      (res.resSum b ≤ s1.poolGranules b → Sys2Proof.Machine.exec (.ownResWrite b v) s = .next (settle res)) ∧
      (s1.poolGranules b < res.resSum b →
        Sys2Proof.Machine.exec (.ownResWrite b v) s = .next (settle (s1.raise (pgBuf b) 5))) ∧
      (desc.resDescSum b ≤ 32768 → Sys2Proof.Machine.exec (.ownDescWrite b v) s = .next (settle desc)) ∧
      (32768 < desc.resDescSum b →
        Sys2Proof.Machine.exec (.ownDescWrite b v) s = .next (settle (s1.raise (pgBuf b) 5)))) ∧
    (519 < o → Sys2Proof.Machine.exec (.ownResWrite b v) s = .next (settle s1) ∧
      Sys2Proof.Machine.exec (.ownDescWrite b v) s = .next (settle s1))) ∧
  (∀ (s : State) (b : BenchId), s.takes (pgBuf b) → ∃ t, Sys2Proof.Machine.exec (.dfreeLogClear b) s = .next t ∧
    t.fld (pgBuf b) Reg.BUF.DFREE_LOGCTL_COUNT = 0 ∧ (∀ k, k < 16 → t.rd (pgBuf b) (Reg.BUF.DFREE_LOG k).off = 0) ∧
    Touches (s.hubAnswered (pgBuf b)) t (· = pgBuf b))

/-- R254 to R256, R260, R261: the buffer mailbox, its hub having room and holding nothing back. While a command of the page is
in progress each is ignored; otherwise the result registers are cleared and a result waits: NOT_READY (7) before the pools are
ready, BAD_ARG (4) for an operation above 4 or a HANDLE of another bench or of no buffer's first granule. ALLOC takes a buffer
of its pool for owner 512, or ends 1; FREE and ADDREF release and add a reference, or end 2 on a free buffer, and 3 at 255
references; READHDR takes the header's word; RECLAIM runs on the head of the cullet list. The result is shown, with cause 7,
when it is final. And R262: the buffer window. Through a handle that host software holds, a read gives the four bytes of the
buffer at the window's place, first byte most significant, and a write stores its four bytes there and no other byte, and
keeps the canonical form of the banks; beyond the buffer a read gives 0 and a write does nothing. -/
def Obligations.BufferMailboxAndWindow : Prop :=
  ((∀ (s : State) (b : BenchId), s.takes (pgBuf b) → s.hub.held = [] →
    (∀ c : HostCmd, c.kind = .mbox → c.page = pgBuf b → (s.hubAnswered (pgBuf b)).hubsFull c = false) →
    let a := s.hubAnswered (pgBuf b)
    let u := ((a.wr (pgBuf b) 0x104 0).wr (pgBuf b) 0x108 0).wr (pgBuf b) 0x10C 0
    (∀ (p : Fin 4) (h : Nat) (pass : Bool) (op : Fin 11), ∀ i ∈ ([.mboxAlloc b p, .mboxFree b h, .mboxAddref b h,
        .mboxReadhdr b h, .mboxReclaim b pass, .mboxBadOp b op] : List Instr),
      ((s.bufAt b).mbox.isSome = true → Sys2Proof.Machine.exec i s = .next (settle a)) ∧
      ((s.bufAt b).mbox = none → s.bufReady b = false →
        Sys2Proof.Machine.exec i s = .next (settle (u.mboxHold b 7 0 0)))) ∧
    ((s.bufAt b).mbox = none → s.bufReady b = true →
      (∀ p : Fin 4, (s.poolOf b 0).isSome = true →
        Sys2Proof.Machine.exec (.mboxAlloc b p) s = .next (settle (match u.allocNow b 65 512 none (.pool p) with
          | (.granted _ (g :: _), x) => (x.setHostRef b g 1).mboxHold b 0 (b * 2 ^ 18 + g) 0
          | (_, x) => x.mboxHold b 1 0 0))) ∧
      (∀ h, h < 2 ^ 21 → h / 2 ^ 18 = b.val → (s.poolOf b (h % 2 ^ 18)).isSome = true →
        let g := h % 2 ^ 18
        let hd := (s.bufAt b).hdr g
        Sys2Proof.Machine.exec (.mboxFree b h) s = .next (settle (if hd.free then (u.relBuf b g 65).mboxHold b 2 0 0
          else ((u.relBuf b g 65).setHostRef b g (s.hostRef b g - 1)).mboxHold b 0 0 0)) ∧
        Sys2Proof.Machine.exec (.mboxAddref b h) s = .next (settle (if hd.free then (u.doubleFree b 65 false g).mboxHold b 2 0 0
          else if 255 ≤ hd.refcnt then (u.bump (pgBuf b) Reg.BUF.REF_SAT).mboxHold b 3 0 0
          else ((u.onBuf b fun x => x.setHdr g { hd with refcnt := hd.refcnt + 1 }).setHostRef b g
            (s.hostRef b g + 1)).mboxHold b 0 0 0)) ∧
        Sys2Proof.Machine.exec (.mboxReadhdr b h) s = .next (settle (u.mboxHold b 0 0 hd.word))) ∧
      (∀ h, h < 2 ^ 21 → (h / 2 ^ 18 ≠ b.val ∨ s.poolOf b (h % 2 ^ 18) = none) →
        ∀ i ∈ ([.mboxFree b h, .mboxAddref b h, .mboxReadhdr b h] : List Instr),
          Sys2Proof.Machine.exec i s = .next (settle (u.mboxHold b 4 0 0))) ∧
      (∀ pass : Bool, (s.poolOf b 0).isSome = true →
        Sys2Proof.Machine.exec (.mboxReclaim b pass) s = .next (settle (u.mboxReclaim b pass)) ∧
        ((s.bufAt b).cullet = [] → u.mboxReclaim b pass = u.mboxHold b 5 0 0) ∧
        (∀ g l, (s.bufAt b).cullet = g :: l → ∃ x : State,
          (pass = true → u.mboxReclaim b pass = x.mboxHold b 0 (b * 2 ^ 18 + g) 0 ∧ (x.bufAt b).cullet = l) ∧
          (pass = false → u.mboxReclaim b pass = x.mboxHold b 6 0 0 ∧ (x.bufAt b).cullet = l ++ [g]))) ∧
      (∀ (p : Fin 4) (pass : Bool), s.poolOf b 0 = none →
        Sys2Proof.Machine.exec (.mboxAlloc b p) s = .next (settle (u.mboxHold b 4 0 0)) ∧
        Sys2Proof.Machine.exec (.mboxReclaim b pass) s = .next (settle (u.mboxHold b 4 0 0))) ∧
      (∀ op : Fin 11, Sys2Proof.Machine.exec (.mboxBadOp b op) s = .next (settle (u.mboxHold b 4 0 0))))) ∧
  (∀ (s : State) (b : BenchId) (st h hdr : Nat), (s.bufAt b).mbox = some (st, h, hdr) → s.hub.held = [] →
    ∃ t, Sys2Proof.Machine.exec (.mboxDone b) s = .next t ∧ (t.bufAt b).mbox = none ∧
      t.rd (pgBuf b) 0x104 = BitVec.ofNat 32 (2 ^ 31 + st * 2 ^ 27 + h) ∧ t.rd (pgBuf b) 0x108 = BitVec.ofNat 32 hdr ∧
      t.rd (pgBuf b) 0x10C = BitVec.ofNat 32 (hdr / 2 ^ 32) ∧ t.caused (pgBuf b) 7)) ∧
  (∀ (s : State) (b : BenchId) (k : Fin 64), s.takes (pgBuf b) →
    (s.bwinAt b k = none →
      Sys2Proof.Machine.exec (.bufferWindowAccess b k none) s = .next (settle { s.hubAnswered (pgBuf b) with resp := [0] }) ∧
      ∀ v, Sys2Proof.Machine.exec (.bufferWindowAccess b k (some v)) s = .next (settle (s.hubAnswered (pgBuf b)))) ∧
    (∀ g o, s.bwinAt b k = some (g, o) → s.hostRef b g ≠ 0 →
      Sys2Proof.Machine.exec (.bufferWindowAccess b k none) s = .next (settle { s.hubAnswered (pgBuf b) with
        resp := [BitVec.ofNat 32 (beNat (Tab.getList zeroByte s.bank (bankAt b g + o) 4))] }) ∧
      ∀ v : W32, ∃ t, Sys2Proof.Machine.exec (.bufferWindowAccess b k (some v)) s = .next t ∧
        beNat (Tab.getList zeroByte t.bank (bankAt b g + o) 4) = v.toNat ∧
        (∀ i, i < bankAt b g + o ∨ bankAt b g + o + 4 ≤ i → Tab.get zeroByte t.bank i = Tab.get zeroByte s.bank i) ∧
        (Memory.wf s.bank = true → Memory.wf t.bank = true) ∧
        Touches { s.hubAnswered (pgBuf b) with bank := t.bank } t (fun _ => False)))

/-- R416 to R418: refresh, the retry window and parity alerts of a pseudo-channel. A refresh of an idle bank is issued and
closes its row; of a busy bank it is postponed, and at 8 postponed intervals forced and counted; in OFF, SREF and RETIRED
there is none (log 147). Commands leave the window from its front; in RUN, with no frequency change, waiting ones enter as it
has room for 1,024; RETRY_STALL counts a full window's stall. An alert, but in OFF and RETIRED, closes every row, counts
itself and the whole window as replayed, and issues the window to the banks again in order; when the fourth replay in a row
ends in an alert, REPLAY_FAIL is counted and the channel retrains instead of another replay (log 264). And R419, R422, R426:
errors of the stack; a pseudo-channel in OFF or RETIRED reports none. A corrected error counts in CE and, in RUN at the limit
of CE_RETRAIN within 1,024 grid ticks (from where is log 146), retrains the pseudo-channel, with cause 1; an uncorrectable one
counts in UE with cause 0 and is handled by where it lies: frame bytes mark their copy bad, a free-list word loses the list,
counted with cause 2. A half that fails enters FAILED with cause 0; a half in FAILED is left as it is; the PHY's failure fails
both, with its cause 2. -/
def Obligations.RefreshReplayAndErrors : Prop :=
  ((∀ (s : State) (c : ChanId) (bank : Fin 16) (busy : Bool),
    (s.chState c = 0 ∨ s.chState c = 4 ∨ s.chState c = 5 →
      Sys2Proof.Machine.exec (.hbmRefresh c bank busy) s = .next (settle s)) ∧
    (s.chState c ≠ 0 → s.chState c ≠ 4 → s.chState c ≠ 5 →
    let n := Tab.get (fun _ => 0) (s.chanAt c).postponed bank
    ∃ t, Sys2Proof.Machine.exec (.hbmRefresh c bank busy) s = .next t ∧
      Tab.get (fun _ => 0) (t.chanAt c).postponed bank =
        (if busy then n + 1 else 0) ∧
      (busy = false ∨ 8 ≤ n + 1 → Tab.get (fun _ => none) (t.chanAt c).rows bank = none) ∧
      (∀ x, x ≠ bank.val → Tab.get (fun _ => none) (t.chanAt c).rows x = Tab.get (fun _ => none) (s.chanAt c).rows x) ∧
      (busy = true → n + 1 < 8 → (t.chanAt c).rows = (s.chanAt c).rows) ∧
      t.ctr (pgChan c) Reg.CRUCC.REF_FORCED =
        s.ctr (pgChan c) Reg.CRUCC.REF_FORCED + (if busy = true ∧ 8 ≤ n + 1 then 1 else 0) ∧
      Touches { s with chan := t.chan } t (· = pgChan c))) ∧
  (∀ (s : State) (c : ChanId) (n stall : Nat), let h := s.chanAt c
    let rest := (leaveWindow n h.retry).2
    let room := if s.chState c ≠ 2 ∨ s.phy.change.isSome then 0 else 1024 - commands rest
    ∃ t, Sys2Proof.Machine.exec (.retryWindowExit c n stall) s = .next t ∧
      (t.chanAt c).retry = rest ++ (leaveWindow room h.waiting).1 ∧ (t.chanAt c).waiting = (leaveWindow room h.waiting).2 ∧
      (commands h.retry ≤ 1024 → commands (t.chanAt c).retry ≤ 1024) ∧
      t.ctr (pgChan c) Reg.CRUCC.RETRY_STALL = s.ctr (pgChan c) Reg.CRUCC.RETRY_STALL +
        BitVec.ofNat 64 (if 1024 ≤ commands h.retry ∧ h.waiting ≠ [] then stall else 0)) ∧
  (∀ (s : State) (c : ChanId),
    (s.chState c = 0 ∨ s.chState c = 5 → Sys2Proof.Machine.exec (.parityAlert c) s = .next (settle s)) ∧
    (s.chState c ≠ 0 → s.chState c ≠ 5 →
    let w := (s.chanAt c).retry
    let again := if 0 < (s.chanAt c).replay then (s.chanAt c).alerts + 1 else 0
    let u := (s.chanCount c Reg.CRUCC.PARITY_ALERTS).onChan c fun h => { h with rows := [], replay := commands w, alerts := again }
    Sys2Proof.Machine.exec (.parityAlert c) s = .next (settle (
      if 4 ≤ again then (u.chanCount c Reg.CRUCC.REPLAY_FAIL).retrain c
      else (u.chanCount c Reg.CRUCC.REPLAY_CMDS (commands w)).accessAll c w))))) ∧
  ((∀ (s : State) (c : ChanId) (ue : Bool) (place : Fin 6) (b : BenchId) (q : Fin 512) (n : Nat),
    s.chState c = 0 ∨ s.chState c = 5 → Sys2Proof.Machine.exec (.hbmEccError c ue place b q n) s = .next (settle s)) ∧
  (∀ (s : State) (c : ChanId) (place : Fin 6) (b : BenchId) (q : Fin 512) (n : Nat), s.chState c ≠ 0 → s.chState c ≠ 5 →
    let u := (s.chanCount c Reg.CRUCC.UE).raise (pgChan c) 0
    Sys2Proof.Machine.exec (.hbmEccError c true place b q n) s = .next (settle (u.crucibleUe c place (qkey b q) n)) ∧
    (u.crucibleUe c 0 (qkey b q) n).queueAt (qkey b q) = { s.queueAt (qkey b q) with
      mid := (s.queueAt (qkey b q)).mid.map fun r => if r.moveSeq = n then { r with bad := true } else r } ∧
    (let v := u.crucibleUe c 4 (qkey b q) n
     v.freeSlabs c = 0 ∧ v.caused (pgHalf (c.val / 16)) 2 ∧
       v.ctr (pgHalf (c.val / 16)) Reg.CRUCH.FREE_LOST = s.ctr (pgHalf (c.val / 16)) Reg.CRUCH.FREE_LOST + 1) ∧
    (let ce := if 1024 ≤ s.gridTick - (s.chanAt c).ceFrom then 1 else (s.chanAt c).ce + 1
     let lim := s.fld (pgChan c) Reg.CRUCC.CH_CFG_CE_RETRAIN
     (lim ≠ 0 → lim ≤ ce → s.chState c = 2 → ∃ t, Sys2Proof.Machine.exec (.hbmEccError c false place b q n) s = .next t ∧
        t.chState c = 3 ∧ t.caused (pgChan c) 1 ∧ t.ctr (pgChan c) Reg.CRUCC.CE = s.ctr (pgChan c) Reg.CRUCC.CE + 1) ∧
     (lim = 0 ∨ ce < lim ∨ s.chState c ≠ 2 → ∃ t, Sys2Proof.Machine.exec (.hbmEccError c false place b q n) s = .next t ∧
        t.chState c = s.chState c ∧ (t.chanAt c).ce = ce ∧
        t.ctr (pgChan c) Reg.CRUCC.CE = s.ctr (pgChan c) Reg.CRUCC.CE + 1 ∧
        Touches { s with chan := t.chan } t (· = pgChan c)))) ∧
  (∀ (s : State) (t : Team), Sys2Proof.Machine.exec (.halfFailed t false) s = .next (settle (s.failHalf (teamNo t))) ∧
    Sys2Proof.Machine.exec (.halfFailed t true) s = .next (settle (((s.failHalf 0).failHalf 1).raise pgPhy 2)) ∧
    (s.halfState (teamNo t) = 4 → s.failHalf (teamNo t) = s) ∧
    (s.halfState (teamNo t) ≠ 4 →
      (s.failHalf (teamNo t)).halfState (teamNo t) = 4 ∧ (s.failHalf (teamNo t)).caused (pgHalf (teamNo t)) 0)))

/-- R421, R422, R436: training and temperature. A pseudo-channel in OFF or SREF begins training, no step of it run and verify-
only when results are held, where its half has not failed and half, PHY and supply stand. In training or retraining, a passed
step moves STEP on and the last one ends the training, in RUN or back in SREF; a failed step whose lanes, of CA and of DQ, can
be repaired is repeated, STEP standing at it; one that cannot, or a failed repeat, retires the channel (reasons 1 and 2). A
frequency change that waited for the steps running as it was requested starts after the last of them (R425). A retraining
command, and a stack 20 °C from the channel's last training, retrain a channel in RUN alone, with RETRAINS and cause 1. Each
reading of the stack temperature stands in STACK_TEMP; the first above 85 °C raises cause 3. -/
def Obligations.TrainingAndTemperature : Prop :=
  (∀ (s : State) (c : ChanId),
    (s.chState c = 0 ∨ s.chState c = 4 → s.halfState (c / 16) ≠ 4 → s.domOn (domHalf (c / 16)) = true →
      s.domOn domPhy = true → s.pins.hbmLost = false →
      ∃ t, Sys2Proof.Machine.exec (.trainingStart c) s = .next t ∧ t.chState c = 1 ∧
      (t.chanAt c).full = !s.trainValid ∧ (t.chanAt c).repeated = false ∧ (t.chanAt c).step = 0 ∧
      t.fld (pgChan c) Reg.CRUCC.CH_STAT_STEP = s.fld (pgChan c) Reg.CRUCC.CH_STAT_STEP ∧
      t.flag pgPhy Reg.CRUCP.PHY_STAT_LOCKED = true ∧
      t.halfState (c / 16) = (if s.halfState (c / 16) = 0 ∨ s.halfState (c / 16) = 3 then 1 else s.halfState (c / 16)) ∧
      Touches { s with chan := t.chan } t (fun g => g = pgChan c ∨ g = pgPhy ∨ g = pgHalf (c / 16))) ∧
    (s.chState c ≠ 0 ∧ s.chState c ≠ 4 ∨ s.halfState (c / 16) = 4 ∨ s.domOn (domHalf (c / 16)) = false ∨
      s.domOn domPhy = false ∨ s.pins.hbmLost = true → Sys2Proof.Machine.exec (.trainingStart c) s = .next (settle s))) ∧
  (∀ (s : State) (c : ChanId) (ca lanes : List (Fin 256)), s.chState c = 1 ∨ s.chState c = 3 →
    let before := (s.chanAt c).step
    let step := if (s.chanAt c).repeated then before else if (s.chanAt c).full then before % 6 + 1 else if before = 1 then 6 else 1
    let u := (s.setFld (pgChan c) Reg.CRUCC.CH_STAT_STEP step).onChan c fun h => { h with step := step }
    let w := u.onChan c fun h => { h with repeated := false }
    let ends := fun x : State => (.next (settle (x.stepOver c)) : Host.Outcome State Fault Refusal)
    let repaired := u.repair c (ca.map fun l => l.val) (lanes.map fun l => l.val)
    (step ≠ 6 → Sys2Proof.Machine.exec (.trainingStepDone c true ca lanes) s = ends w) ∧
    (step = 6 → Sys2Proof.Machine.exec (.trainingStepDone c true ca lanes) s = ends (w.trained c) ∧
      (w.trained c).chState c = (if (s.chanAt c).toSref then 4 else 2)) ∧
    ((s.chanAt c).repeated = true →
      Sys2Proof.Machine.exec (.trainingStepDone c false ca lanes) s = ends ((u.retire c 2).halfTrack (c.val / 16))) ∧
    ((s.chanAt c).repeated = false →
      (repaired = none →
        Sys2Proof.Machine.exec (.trainingStepDone c false ca lanes) s = ends ((u.retire c 1).halfTrack (c.val / 16))) ∧
      (∀ x, repaired = some x → Sys2Proof.Machine.exec (.trainingStepDone c false ca lanes) s =
          ends (x.onChan c fun h => { h with repeated := true })))) ∧
  (∀ (s : State) (c : Nat), (s.phy.waiting = [] → s.stepOver c = s) ∧ (s.phy.waiting ≠ [] →
    let w := s.phy.waiting.filter fun i => i != c && (s.chState i == 1 || s.chState i == 3)
    (w = [] → s.stepOver c = s.freqStart (s.fld pgPhy Reg.CRUCP.PHY_STAT_PEND_POINT)) ∧
    (w ≠ [] → s.stepOver c = { s with phy := { s.phy with waiting := w } }))) ∧
  (∀ (s : State) (c : ChanId) (pass : Bool) (ca lanes : List (Fin 256)), s.chState c ≠ 1 → s.chState c ≠ 3 →
    Sys2Proof.Machine.exec (.trainingStepDone c pass ca lanes) s = .next (settle s)) ∧
  (∀ (s : State) (c : ChanId),
    (s.takes (pgChan c) →
      Sys2Proof.Machine.exec (.chRetrainCmd c) s = .next (settle ((s.hubAnswered (pgChan c)).retrain c))) ∧
    (s.chState c ≠ 2 → s.retrain c = s) ∧
    (s.chState c = 2 → (s.retrain c).chState c = 3 ∧ (s.retrain c).caused (pgChan c) 1 ∧
      (s.retrain c).ctr (pgChan c) Reg.CRUCC.RETRAINS = s.ctr (pgChan c) Reg.CRUCC.RETRAINS + 1)) ∧
  (∀ (s : State) (c : ChanId) (x : Byte), let u := s.setStackTemp x.toNat
    Sys2Proof.Machine.exec (.stackTempHigh x) s = .next (settle u) ∧
    Sys2Proof.Machine.exec (.tempRetrain c x) s = .next (settle (
      if 20 ≤ (u.stackTemp - signed 8 (u.chanAt c).temp).natAbs then u.retrain c else u)) ∧
    u.fld pgPhy Reg.CRUCP.PHY_STAT_STACK_TEMP = x.toNat ∧
    (s.phy.hot = false → 85 < u.stackTemp → u.caused pgPhy 3))

/-- R425, R428: frequency points and the table image. A host write of FREQ_CTRL without GO does nothing. A request for no
point, or for the point that holds or is held, does nothing; one while another is held supersedes it, counted with cause 1;
one during a change is held; one while a channel trains is held and counted FREQ_DEFERRED; any other starts. The change ends
when every channel is settled or OFF: the channels serve again, it locks, counts with cause 0, and a held point starts. ARM
sets COPYING; the end of the copy clears it, the image holding what host software wrote of the team's tables, and VALID with
cause 3 follows at the half's edge; DISARM clears VALID and COPYING, and the image is kept no more. -/
def Obligations.PointsAndImage : Prop :=
  (∀ (s : State) (v : W32), s.takes pgPhy →
    Sys2Proof.Machine.exec (.freqRequest v) s = .next (settle (if bit v.toNat 31 then
      (s.hubAnswered pgPhy).freqRequest (bits v.toNat 1 0) else s.hubAnswered pgPhy))) ∧
  (∀ (s : State) (point : Nat), let pending := s.flag pgPhy Reg.CRUCP.PHY_STAT_PENDING
    let t := s.freqRequest point
    (2 < point ∨ point = (if pending then s.fld pgPhy Reg.CRUCP.PHY_STAT_PEND_POINT
      else s.fld pgPhy Reg.CRUCP.PHY_STAT_POINT) → t = s) ∧
    (point ≤ 2 → pending = true → point ≠ s.fld pgPhy Reg.CRUCP.PHY_STAT_PEND_POINT →
      t.fld pgPhy Reg.CRUCP.PHY_STAT_PEND_POINT = point ∧
      t.ctr pgPhy Reg.CRUCP.FREQ_SUPERSEDED = s.ctr pgPhy Reg.CRUCP.FREQ_SUPERSEDED + 1 ∧ t.caused pgPhy 1) ∧
    (point ≤ 2 → pending = false → point ≠ s.fld pgPhy Reg.CRUCP.PHY_STAT_POINT →
      (s.phy.change.isSome = true → t.flag pgPhy Reg.CRUCP.PHY_STAT_PENDING = true ∧
        t.fld pgPhy Reg.CRUCP.PHY_STAT_PEND_POINT = point) ∧
      (s.phy.change = none → (∃ c, c < 32 ∧ (s.chState c = 1 ∨ s.chState c = 3)) →
        t.flag pgPhy Reg.CRUCP.PHY_STAT_PENDING = true ∧ t.fld pgPhy Reg.CRUCP.PHY_STAT_PEND_POINT = point ∧
        t.phy.waiting = (List.range 32).filter (fun c => s.chState c == 1 || s.chState c == 3) ∧ t.ctr pgPhy Reg.CRUCP.FREQ_DEFERRED = s.ctr pgPhy Reg.CRUCP.FREQ_DEFERRED + 1) ∧
      (s.phy.change = none → (∀ c, c < 32 → s.chState c ≠ 1 ∧ s.chState c ≠ 3) → t = s.freqStart point))) ∧
  (∀ (s : State) (point : Nat), s.phy.change = some point →
    ((∀ c, c < 32 → s.chState c = 0 ∨ s.chSettled c = true) →
      let u := ({ s with phy := { s.phy with change := none } } : State).each (List.range 32) State.serve
      let w := ((u.setFld pgPhy Reg.CRUCP.PHY_STAT_LOCKED 1).bump pgPhy Reg.CRUCP.FREQ_CHANGES).raise pgPhy 0
      Sys2Proof.Machine.exec .freqChangeDone s = .next (settle (if w.flag pgPhy Reg.CRUCP.PHY_STAT_PENDING then
        w.freqStart (w.fld pgPhy Reg.CRUCP.PHY_STAT_PEND_POINT) else w)))) ∧
  (∀ (s : State) (tm : Team), s.takes (pgHalf (teamNo tm)) →
    (∃ t, Sys2Proof.Machine.exec (.imageArm tm) s = .next t ∧ (t.halfAt (teamNo tm)).armed = true ∧
      (t.halfAt (teamNo tm)).copied = false ∧ t.flag (pgHalf (teamNo tm)) Reg.CRUCH.IMG_STAT_COPYING = true ∧
      Touches { s.hubAnswered (pgHalf (teamNo tm)) with half := t.half } t (· = pgHalf (teamNo tm))) ∧
    (∃ t, Sys2Proof.Machine.exec (.imageDisarm tm) s = .next t ∧ (t.halfAt (teamNo tm)).armed = false ∧
      (t.halfAt (teamNo tm)).copied = false ∧ (t.halfAt (teamNo tm)).kept = none ∧
      t.flag (pgHalf (teamNo tm)) Reg.CRUCH.IMG_STAT_COPYING = false ∧ t.flag (pgHalf (teamNo tm)) Reg.CRUCH.IMG_STAT_VALID = false ∧
      Touches { s.hubAnswered (pgHalf (teamNo tm)) with half := t.half } t (· = pgHalf (teamNo tm)))) ∧
  (∀ (s : State) (tm : Team), s.flag (pgHalf (teamNo tm)) Reg.CRUCH.IMG_STAT_COPYING = true →
    ∃ t, Sys2Proof.Machine.exec (.imageCopyDone tm) s = .next t ∧ (t.halfAt (teamNo tm)).copied = true ∧
      t.flag (pgHalf (teamNo tm)) Reg.CRUCH.IMG_STAT_COPYING = false ∧
      (t.halfAt (teamNo tm)).kept = some (s.tableImage (teamNo tm)) ∧ (t.halfAt (teamNo tm)).badCopies = [] ∧
      Touches { s with half := t.half, nonce := t.nonce } t
        (fun g => g = pgHalf (teamNo tm) ∨ ∃ c ∈ teamChans (teamNo tm), g = pgChan c)) ∧
  (∀ (s : State) (n : Nat), n < 2 → (s.halfAt n).copied = true →
    (s.imageEdge n).flag (pgHalf n) Reg.CRUCH.IMG_STAT_VALID = true ∧ (s.imageEdge n).caused (pgHalf n) 3 ∧
    ((s.imageEdge n).halfAt n).copied = false)

/-- R279 to R281, R407, R409, R411 to R413: the spill path. STAGE's front copy, whole, good and enabled, with the crucible's
domain ON and no frequency change, is offered: a half not in RUN refuses it with REFUSE_STATE, one with no descriptor with
REFUSE_DESC, one that finds no slab with REFUSE_SLAB; otherwise it moves, with the queue's next MOVE_SEQ, to MID's end. Its
record has 96 bytes and what it stores is whole units. Its last write releases the egress bench's holder. A return round
begins below RETURN_LO. The oldest MID copy of the queue whose turn it is enters HEAD, or waits with QE_DEFER without a queue
entry, and a bad one is discarded with UE_DISCARD. With MID empty the oldest STAGE copy moves to HEAD's end, counted, the
crucible's channels and halves untouched (R280). -/
def Obligations.SpillPath : Prop :=
  (∀ (s : State) (b : BenchId) (q : Fin 512) (bad : Bool) (c : Copy) (rest : List Copy) (d : Desc),
    let k := qkey b q
    (s.queueAt k).stage = c :: rest → s.descAt c.bench c.desc = some d → s.spillEn k = true → d.done = true → d.bad = 0 →
    d.tagWait = false → s.phy.change = none → s.domOn (domSpill (benchTeam b)) = true →
    let u := if bad then s.badWord k c d else s
    (s.halfState (benchTeam b) ≠ 2 → Sys2Proof.Machine.exec (.spillMove b q bad) s =
      .next (settle (s.refuseMove k Reg.CRUCH.REFUSE_STATE).pointForSpill)) ∧
    (s.halfState (benchTeam b) = 2 → 2097152 ≤ s.cdescUsed (benchTeam b) → Sys2Proof.Machine.exec (.spillMove b q bad) s =
      .next (settle (s.refuseMove k Reg.CRUCH.REFUSE_DESC).pointForSpill)) ∧
    (s.halfState (benchTeam b) = 2 → s.cdescUsed (benchTeam b) < 2097152 → u.takeMove k c d = none →
      Sys2Proof.Machine.exec (.spillMove b q bad) s = .next (settle (u.refuseMove k Reg.CRUCH.REFUSE_SLAB).pointForSpill)) ∧
    (∀ v, s.halfState (benchTeam b) = 2 → s.cdescUsed (benchTeam b) < 2097152 → u.takeMove k c d = some v →
      Sys2Proof.Machine.exec (.spillMove b q bad) s = .next (settle v.pointForSpill) ∧ (v.queueAt k).stage = rest ∧
      (v.queueAt k).moveSeq = ((s.queueAt k).moveSeq + 1) % 2 ^ 32 ∧
      ∃ r, (v.queueAt k).mid = (s.queueAt k).mid ++ [r] ∧ r.copy = c ∧
        r.moveSeq = (s.queueAt k).moveSeq)) ∧
  (∀ (r : MidRec) (k : Nat), (r.record k).length = 96 ∧ 32 ∣ (r.stored k).length) ∧
  (∀ (s : State) (b : BenchId) (q : Fin 512) (seq : W32) (r : MidRec), let x := s.queueAt (qkey b q)
    (x.mid.find? fun r => r.moveSeq == seq.toNat && r.pend == 1) = some r →
    Sys2Proof.Machine.exec (.spillWriteComplete b q seq) s = .next (settle (((s.putQueue (qkey b q) { x with
      mid := x.mid.map fun m => if m.moveSeq = seq.toNat then { m with pend := 0 } else m }).settleUnit b r.copy.bench
        r.copy.desc).readFront (qkey b q)))) ∧
  (∀ (s : State) (b : BenchId) (q : Fin 512), let k := qkey b q
    let x := s.queueAt k
    (x.round = false → x.mid ≠ [] → x.headCells < s.spillFld k Reg.CORE.RETURN_LO →
      Sys2Proof.Machine.exec (.returnRound b q) s = .next (settle ((s.putQueue k { x with round := true }).readFront k))) ∧
    (x.round = true → Sys2Proof.Machine.exec (.returnRound b q) s = .next (settle (s.readFront k))) ∧
    (∀ r rest, x.mid = r :: rest → s.returnTurn (benchTeam b) = some k →
      let u := s.onHalf (benchTeam b) fun h => { h with served := k }
      (r.bad = false → Sys2Proof.Machine.exec (.spillReturn b q) s = .next (settle (u.enterHead k r)) ∧
        (s.qeFree b = 0 → u.enterHead k r = u.coreCount b Reg.CORE.QE_DEFER)) ∧
      (r.bad = true → Sys2Proof.Machine.exec (.spillReturn b q) s = .next (settle (((u.halfCount (benchTeam b)
        Reg.CRUCH.UE_DISCARD).bump (pgBuf b) Reg.BUF.CULLET_FRAMES).leaveMid k)))) ∧
    (s.returnTurn (benchTeam b) ≠ some k → Sys2Proof.Machine.exec (.spillReturn b q) s = .next (settle s)) ∧
    (∀ c rest, x.stage = c :: rest → x.mid = [] → x.headCells < s.spillFld k Reg.CORE.RETURN_LO →
      Sys2Proof.Machine.exec (.stagePromote b q) s = .next (settle (((s.putQueue k { x with stage := rest }).pushHead
        k c).coreCount b Reg.CORE.STAGE_PROMOTE)))) ∧
  (∀ (s : State) (b : BenchId) (q : Fin 512) (c : Copy) (rest : List Copy), let k := qkey b q
    (s.queueAt k).mid = [] → (s.queueAt k).headCells < s.spillFld k Reg.CORE.RETURN_LO → (s.queueAt k).stage = c :: rest →
    ∃ t, Sys2Proof.Machine.exec (.stagePromote b q) s = .next t ∧ (t.queueAt k).stage = rest ∧
      (t.queueAt k).head = (s.queueAt k).head ++ [c] ∧ (t.queueAt k).mid = [] ∧ t.chan = s.chan ∧ t.half = s.half ∧
      t.ctr (pgCore b) Reg.CORE.STAGE_PROMOTE = s.ctr (pgCore b) Reg.CORE.STAGE_PROMOTE + 1)

/-- R290 to R292, R326 to R331, R334, R96: selection and transmission. A copy that began preemptable and whose remainder is
long enough at the first permitted point is preempted there, and waits, when an express class is eligible or the MAC is held
(in an invalid time whether a wake is over is free, log 280); a MAC that is then free, with the path there, answers a verify
request and selects. The class selected is an eligible one, and there is one whenever a class is eligible. The last byte of a
marked frame, or one wholly received, ends the transmission by endTx; without the path it is lost; an underrun marks it with
reason 20, raises cause 5 and ends it. Elsewhere each changes nothing. -/
def Obligations.SelectionAndTransmission : Prop :=
  (∀ (s : State) (p : PortId) (sent : Nat), let u := s.sagSeen p
    (s.timeValid = true → u = s) ∧ (s.txAt p = none → s.txPath p = true →
      Sys2Proof.Machine.exec (.txSelect p sent) s = .next (settle ((u.answerVerify p).selectNow p))) ∧
    (s.txAt p = none → s.txPath p = false → Sys2Proof.Machine.exec (.txSelect p sent) s = .next (settle u)) ∧
    (∀ x, s.txAt p = some x → (u.expressReady p = true ∨ (s.schedAt p).hold = true) → u.canPreempt p x sent = true →
      let w := u.preempt p sent
      w.txAt (512 + p) = some { x with gone := s.cutPoint p x sent } ∧ w.txAt p = none ∧
      Sys2Proof.Machine.exec (.txSelect p sent) s =
        .next (settle (if w.txPath p then (w.answerVerify p).selectNow p else w))) ∧
    (∀ x, s.txAt p = some x → (u.expressReady p = false ∧ (s.schedAt p).hold = false ∨ u.canPreempt p x sent = false) →
      Sys2Proof.Machine.exec (.txSelect p sent) s = .next (settle u)) ∧
    (∀ c, s.selects p = some c → c < 8 ∧ s.eligible p c = true) ∧
    (s.selects p = none → ∀ c, c < 8 → s.eligible p c = false)) ∧
  (∀ (s : State) (p : PortId),
    (s.txAt p = none → Sys2Proof.Machine.exec (.frameTransmitEnd p) s = .next (settle s) ∧
      Sys2Proof.Machine.exec (.txUnderrun p) s = .next (settle s)) ∧
    (∀ x, s.txAt p = some x →
      (s.txPath p = false → Sys2Proof.Machine.exec (.frameTransmitEnd p) s = .next (settle (s.pathLost p))) ∧
      (s.txPath p = true → x.marked.isSome = true →
        Sys2Proof.Machine.exec (.frameTransmitEnd p) s = .next (settle (s.endTx p x))) ∧
      (∀ d, s.descAt x.copy.bench x.copy.desc = some d →
        (s.txPath p = true → d.done = true →
          Sys2Proof.Machine.exec (.frameTransmitEnd p) s = .next (settle (s.endTx p x))) ∧
        (s.txPath p = true → x.marked = none → d.done = false →
          Sys2Proof.Machine.exec (.frameTransmitEnd p) s = .next (settle s)) ∧
        (d.done = true → Sys2Proof.Machine.exec (.txUnderrun p) s = .next (settle s)) ∧
        (d.done = false → x.marked = none → let u := (s.markTx p 20).raise (pgCore (portBench p)) 5
          ∃ y, u.txAt p = some y ∧ y.marked = some (20, s.heldBytes x.copy) ∧
            Sys2Proof.Machine.exec (.txUnderrun p) s = .next (settle (u.endTx p y)))) ∧
      (x.marked.isSome = true → Sys2Proof.Machine.exec (.txUnderrun p) s = .next (settle s))))

/-- R318 to R324, R331, R340: gates. With the list in force the next oper entry acts as it begins, at its instant; with hold
advance, hold is asserted HOLD_ADV ns before the next entry that sets it, of the oper list or from CCT of the pending one. A
GCTRL write with CONFIG_CHANGE requests a change, rejected with cause 1 for a length, cycle or base out of range or an invalid
time, and otherwise pending for its CCT; it completes at CCT, the banks exchanging roles, with cause 0. GCL_HI writes a word
of the bank that does not operate, no other, and moves INDEX on; while a change is pending it is refused with cause 2. Reads
of GCL_LO latch the word's high half, which GCL_HI returns, moving INDEX on. -/
def Obligations.GateEvents : Prop :=
  (∀ (s : State) (p : PortId) (sent : Nat),
    (∀ t, s.gateMode p = 1 → s.boundary p = some t →
      Sys2Proof.Machine.exec (.gateEntryBegin p sent) s = .next (settle ((s.reach t).entryBegin p sent))) ∧
    (s.gateMode p ≠ 1 ∨ s.boundary p = none → Sys2Proof.Machine.exec (.gateEntryBegin p sent) s = .next (settle s)) ∧
    (∀ t, s.holdNext p = some t → s.txActive p = true → (s.schedAt p).hold = false →
      Sys2Proof.Machine.exec (.holdAssert p sent) s =
        .next (settle ((s.reach (t - s.gfld p Reg.GATE.HOLD_ADV)).holdMac p sent))) ∧
    (s.holdNext p = none ∨ s.txActive p = false ∨ (s.schedAt p).hold = true →
      Sys2Proof.Machine.exec (.holdAssert p sent) s = .next (settle s)) ∧
    (∀ u : State, u.txAt p = none → (u.schedAt p).hold = false → ((u.holdMac p sent).schedAt p).hold = true)) ∧
  (∀ (s : State) (b : BenchId) (v : W32), s.takes (pgGate b) →
    let p := s.gatePort b
    let s1 := s.hubAnswered (pgGate b)
    Sys2Proof.Machine.exec (.configChangeRequest b v) s =
      .next (settle (((s1.gctrlWrite p (v ||| 0x40000000)).sagPlanPort p).gateFollow p)) ∧
    (s.gatePending p = true → Sys2Proof.Machine.exec (.gclHiWrite b v) s =
      .next (settle ((s1.gateCount p Reg.GATE.GCL_WR_REJECT).gateRaise p 2))) ∧
    (s.gatePending p = false → ∃ t, Sys2Proof.Machine.exec (.gclHiWrite b v) s = .next t ∧
      Tab.get (fun _ => 0) (t.gateAt p).banks ((1 - s.operBank p) * 1024 + s.gfld p Reg.GATE.GCL_IDX_INDEX) =
        (v.toNat &&& 0xC00000FF) * 2 ^ 32 + s.gfld p Reg.GATE.GCL_LO ∧
      (∀ k, k ≠ (1 - s.operBank p) * 1024 + s.gfld p Reg.GATE.GCL_IDX_INDEX →
        Tab.get (fun _ => 0) (t.gateAt p).banks k = Tab.get (fun _ => 0) (s.gateAt p).banks k) ∧
      t.gfld p Reg.GATE.GCL_IDX_INDEX = (s.gfld p Reg.GATE.GCL_IDX_INDEX + 1) % 1024) ∧
    (let w := s.gclWord p (s.gfld p Reg.GATE.GCL_IDX_BANK) (s.gfld p Reg.GATE.GCL_IDX_INDEX)
     ∃ t, Sys2Proof.Machine.exec (.gclLoRead b) s = .next t ∧ t.resp = [BitVec.ofNat 32 w] ∧
      (t.gateAt p).hiLatch = BitVec.ofNat 32 (w / 2 ^ 32) ∧ Touches { s1 with gate := t.gate, resp := t.resp } t (fun _ => False)) ∧
    (∃ t, Sys2Proof.Machine.exec (.gclHiRead b) s = .next t ∧ t.resp = [(s.gateAt p).hiLatch] ∧ t.gate = s.gate ∧
      t.gfld p Reg.GATE.GCL_IDX_INDEX = (s.gfld p Reg.GATE.GCL_IDX_INDEX + 1) % 1024)) ∧
  (∀ (s : State) (p : PortId), let len := s.gfld p Reg.GATE.ADM_LEN
    let cycle := s.gfld p Reg.GATE.ADM_CYCLE
    let ns := s.gfld p Reg.GATE.ADM_BASE_NS
    let base := timeOf (s.gfld p Reg.GATE.ADM_BASE_SEC_HI) (s.gfld p Reg.GATE.ADM_BASE_SEC_LO) ns
    let t := s.changeRequest p
    (len = 0 ∨ 1024 < len ∨ cycle = 0 ∨ 1000000000 < cycle ∨ 1000000000 ≤ ns ∨ s.timeValid = false →
      t = ((s.gateCount p Reg.GATE.CONFIG_REJECT).setGfld p Reg.GATE.GSTAT_CHG_REJ 1).gateRaise p 1) ∧
    (1 ≤ len → len ≤ 1024 → 1 ≤ cycle → cycle ≤ 1000000000 → ns < 1000000000 → s.timeValid = true →
      t.gatePending p = true ∧ (t.gateAt p).pend = some (base, cycle, s.gfld p Reg.GATE.ADM_EXT, len) ∧
      (changeTime base cycle (s.time.now + 10000) < 2 ^ 48 * 1000000000 →
        t.cct p = changeTime base cycle (s.time.now + 10000)))) ∧
  (∀ base cycle t : Nat, 1 ≤ cycle → t ≤ changeTime base cycle t ∧ base ≤ changeTime base cycle t ∧
    (∃ n, changeTime base cycle t = base + n * cycle) ∧ ∀ n, t ≤ base + n * cycle → changeTime base cycle t ≤ base + n * cycle) ∧
  (∀ (s : State) (p : PortId),
    (s.gatePending p = true → s.timeValid = true → Sys2Proof.Machine.exec (.configChangeComplete p) s =
      .next (settle ((((s.reach (s.cct p)).changeComplete p).gateTrack p).sagPlanPort p))) ∧
    (s.gatePending p = false ∨ s.timeValid = false →
      Sys2Proof.Machine.exec (.configChangeComplete p) s = .next (settle s))) ∧
  (∀ (s : State) (p : PortId) (base cycle ext len : Nat), (s.gateAt p).pend = some (base, cycle, ext, len) →
    let t := s.changeComplete p
    (t.gateAt p).pend = none ∧ (t.gateAt p).first = true ∧ (t.gateAt p).banks = (s.gateAt p).banks ∧
    t.operBank p = 1 - s.operBank p ∧ t.gatePending p = false ∧ t.caused (pgGate (portBench p)) 0)

/-- R459 to R462: slices and groups. A unit that may be gated is gated as its window allows, noted and counted, and one that
may not is left; a gated unit begins its wake at its window's end less its wake time and GUARD, and a pipeline slice still
gated with a port of its group awake wakes too (what a gated unit needs to stay gated is log 265); a failed wake takes the
unit's ports out of service with cause 1; a retry that succeeds brings the unit back, and changes nothing else. -/
def Obligations.SlicesAreGated : Prop :=
  (∀ (s : State) (u : Fin 544),
    (s.sagAllowed u = false ∨ s.sagChoice u = 0 → Sys2Proof.Machine.exec (.sagGate u) s = .next (settle s)) ∧
    (s.sagAllowed u = true → s.sagChoice u ≠ 0 → ∃ t, Sys2Proof.Machine.exec (.sagGate u) s = .next t ∧
      t.sagAt u = { s.sagAt u with gated := s.sagChoice u, since := s.time.now } ∧
      (∀ v, v ≠ u.val → t.sagAt v = s.sagAt v) ∧
      (let c := if s.sagChoice u = 2 then Reg.PWRT.SAG_NAPS else Reg.PWRT.SAG_IDLES
       t.ctr (pgPwr (sagTeam u)) c = s.ctr (pgPwr (sagTeam u)) c + 1) ∧
      Touches { s with sag := t.sag } t (· = pgPwr (sagTeam u)))) ∧
  (∀ (s : State) (u : Fin 544), let g := s.sagAt u
    (∀ e, g.gated ≠ 0 → g.failed = false → s.unitEnd u = some e → Sys2Proof.Machine.exec (.sagWake u) s =
      let t := (s.reach (e - sagWakeTime u g.gated - s.sagGuard)).sagUngate u
      .next (settle (if u.val < 512 then t.sagPlan (512 + portGroup u) else t))) ∧
    (g.gated = 0 ∨ g.failed = true ∨ s.unitEnd u = none →
      Sys2Proof.Machine.exec (.sagWake u) s = .next (settle s))) ∧
  (∀ (s : State) (p : PortId), (s.sagAt p).gated = 0 → (s.sagAt (512 + portGroup p)).failed = false →
    ((s.sagPlan (512 + portGroup p)).sagAt (512 + portGroup p)).gated = 0) ∧
  (∀ (s : State) (u : Fin 544), ((s.sagUngate u).sagAt u).gated = 0 ∧
    ((s.sagUngate u).sagAt u).ready = s.time.now + sagWakeTime u (s.sagAt u).gated) ∧
  (∀ (s : State) (u : Fin 544),
    ((s.sagAt u).failed = false → ∃ t, Sys2Proof.Machine.exec (.sliceWakeFail u) s = .next t ∧
      (t.sagAt u).failed = true ∧ (∀ p ∈ sagPorts u, (t.sagAt p).off = true) ∧ t.caused (pgPwr (sagTeam u)) 1) ∧
    ((s.sagAt u).failed = true →
      Sys2Proof.Machine.exec (.sliceWakeFail u) s = .next (settle s) ∧
      (∃ t, Sys2Proof.Machine.exec (.sliceWakeRetry u true) s = .next t ∧
        t.sagAt u = { s.sagAt u with failed := false, gated := 0 } ∧ (∀ v, v ≠ u.val → t.sagAt v = s.sagAt v) ∧
        Touches { s with sag := t.sag } t (fun _ => False)) ∧
      Sys2Proof.Machine.exec (.sliceWakeRetry u false) s = .next (settle s))) ∧
  (∀ (s : State) (u : Fin 544) (p : Nat), p ∈ sagPorts u → p < 512 → (s.sagAt u).failed = true → s.sagReady p = false)

/-- R354, R358: the sequence scanner and the latent-error tests. A visit moves POS on and resets a recovery entry that has
expired, counted and noted in its watch slots; it makes none while disabled or the team's domain is down. A test that is due
takes the counters as its new baseline and, unless it is skipped, counts LATENT and raises cause 18 where the growth of PASSED
exceeds that of DISCARDED by more than DIFF; one not due changes nothing. A write of a slot's configuration takes a new
baseline and skips the next test. -/
def Obligations.ScansAndWatches : Prop :=
  (∀ (s : State) (tm : Team), let n := teamNo tm
    (s.flag (strmTeam n) Reg.STRM.SQSCAN_EN = false ∨ s.domOn (domIngress (4 * n)) = false ∨ (s.teamAt n).failed = true →
      Sys2Proof.Machine.exec (.seqScanVisit tm) s = .next (settle s)) ∧
    (s.flag (strmTeam n) Reg.STRM.SQSCAN_EN = true → s.domOn (domIngress (4 * n)) = true → (s.teamAt n).failed = false →
    let i := s.fld (strmTeam n) Reg.STRM.SQSCAN_POS
    let e := s.seqWork n i
    let u := s.setFld (strmTeam n) Reg.STRM.SQSCAN_POS ((i + 1) % 524288)
    Sys2Proof.Machine.exec (.seqScanVisit tm) s = .next (settle (
      if seqValid e && seqRecovery e && seqExpired e (unitCount s.gridTick) then
        ((u.teamChange n s.gridTick (.seq i .reset)).bump (strmTeam n) Reg.STRM.SEQ_RESETS).watchReset n i
      else u)))) ∧
  (∀ (s : State) (tm : Team) (k : Fin 32) (bp bd : Nat) (skip : Bool), let p := strmTeam (teamNo tm)
    let due := s.flag p (Reg.STRM.WCFG_EN k) = true ∧ s.fld p (Reg.STRM.LEDCFG_PERIOD k) ≠ 0 ∧
      s.gridTick % (s.fld p (Reg.STRM.LEDCFG_PERIOD k) * 1024) = 0
    (¬ due → Sys2Proof.Machine.exec (.watchTest tm k) s = .next (settle s)) ∧
    (due → Tab.get (fun _ => (0, 0, false)) (s.teamAt (teamNo tm)).watch k = (bp, bd, skip) →
    let passed := (s.ctr p (Reg.STRM.PASSED k)).toNat
    let gone := (s.ctr p (Reg.STRM.DISCARDED k)).toNat
    let latent := skip = false ∧ grown gone bd + s.fld p (Reg.STRM.LEDCFG_DIFF k) < grown passed bp
    ∃ t, Sys2Proof.Machine.exec (.watchTest tm k) s = .next t ∧
      Tab.get (fun _ => (0, 0, false)) (t.teamAt (teamNo tm)).watch k = (passed, gone, false) ∧
      (latent → t.caused p 18 ∧
        t.fld p (Reg.STRM.LATENT k) = (s.fld p (Reg.STRM.LATENT k) + 1) % 2 ^ 32) ∧
      (¬ latent → t.fld p (Reg.STRM.LATENT k) = s.fld p (Reg.STRM.LATENT k) ∧ (t.caused p 18 ↔ s.caused p 18)) ∧
      Touches { s with team := t.team } t (· = p))) ∧
  (∀ (s : State) (tm : Team) (k : Fin 32) (led : Bool) (v : W32), let p := strmTeam (teamNo tm)
    s.takes p → ∃ t, Sys2Proof.Machine.exec (.watchCfgWrite tm k led v) s = .next t ∧
      t = settle ((s.hubAnswered p).watchCfgWrite (teamNo tm) k
        (if led then (Reg.STRM.LEDCFG k).off else (Reg.STRM.WCFG k).off) v) ∧
      Tab.get (fun _ => (0, 0, false)) (t.teamAt (teamNo tm)).watch k =
        ((s.ctr p (Reg.STRM.PASSED k)).toNat, (s.ctr p (Reg.STRM.DISCARDED k)).toNat, true))

/-- R49, R87 to R91, R107, R576: reception. A whole header window of a MAC that receives and has offered none is offered for
admission, a MAC control frame's being taken by the MAC. Where an untagged frame passes the checks, the offer makes one
request and the MAC waits. A frame's end, unless its window's request waits, is handled by endFrame: a team that failed does
nothing; a port that does not receive counts RX_NOT_UP, and in DISABLED nothing; a frame offered before is counted by the
first of R88 that applies and ended; one that was not is counted and, good and no MAC control frame, offered whole, a bad
one's SecTAG being inspected as it came. Fragments of a port with MM_EN, whose MAC receives and does not wait, are assembled
in order; a stray or unknown one counts MM_SMD_ERR, a wrong one ends the assembly; one of a MAC that does not receive counts
RX_NOT_UP at its frame's last; a verify request is owed an answer, and a response ends verification. (How fragments are
numbered and told apart is log 33; a frame that began before the port was UP is log 268.) -/
def Obligations.FramesAreReceived : Prop :=
  (∀ (s : State) (p : PortId) (bytes : List Byte) (early pre : Bool) (age : Nat), let x := if pre then 512 + p.val else p.val
    let f := ((s.incoming p bytes).getD []).take bytes.length
    ((s.rxAt x).active = true ∨ s.receives p early = false ∨ f.length < s.windowNeed p f →
      Sys2Proof.Machine.exec (.headerAdmit p bytes early pre age) s = .next (settle s)) ∧
    ((s.rxAt x).active = false → s.receives p early = true → s.windowNeed p f ≤ f.length →
      (beAt f 12 2 = 0x8808 → Sys2Proof.Machine.exec (.headerAdmit p bytes early pre age) s =
        .next (settle (s.putRx x { active := true }))) ∧
      (beAt f 12 2 ≠ 0x8808 → Sys2Proof.Machine.exec (.headerAdmit p bytes early pre age) s =
        .next (settle (s.offer x f false age))))) ∧
  (∀ (s : State) (x : Nat) (bytes : List Byte) (whole : Bool) (age : Nat), let p := x % 512
    let b := portBench p
    let u := s.putRx x { active := true }
    u.closedTo b = none → u.inspect p bytes = (some none, u) → u.admitCheck p bytes = none →
    let t := s.offer x bytes whole age
    (t.rxAt x).waiting = true ∧ ∃ r, (t.bufAt b).reqs = (s.bufAt b).reqs ++ [r] ∧ r.slot = portLocal p ∧ r.owner = p ∧
      r.length = if whole then some bytes.length else none) ∧
  (∀ (s : State) (p : PortId) (bytes : List Byte) (lost early pre : Bool) (age : Nat) (fec : FecSeen) (err : SeqErr),
    let x := if pre then 512 + p.val else p.val
    (s.incoming p bytes = none →
      Sys2Proof.Machine.exec (.frameReceive p bytes lost early pre age ⟨fec, err⟩) s = .next (settle s)) ∧
    (∀ f, s.incoming p bytes = some f →
      (s.rxBlocked x f early = true →
        Sys2Proof.Machine.exec (.frameReceive p bytes lost early pre age ⟨fec, err⟩) s = .next (settle s)) ∧
      (s.rxBlocked x f early = false →
        let u := (if pre then s.onLink p fun k => { k with asm := none } else s).fecCount p fec
        Sys2Proof.Machine.exec (.frameReceive p bytes lost early pre age ⟨fec, err⟩) s =
          .next (settle ((u.onLink p fun k => { k with looped := k.looped.drop 1 }).endFrame x f lost early
            (fec.hit && s.fecOn p) age err))))) ∧
  (∀ (s : State) (x : Nat) (bytes : List Byte) (lost early hit : Bool) (age : Nat) (err : SeqErr), let p := x % 512
    let f := bytes.take (s.maxFrame p + 1)
    let e := s.rxEnd p f lost hit
    let t := s.endFrame x bytes lost early hit age err
    let wake := fun u : State => if e = .good then u.rxWake p else u
    ((s.teamAt (benchTeam (portBench p))).failed = true → t = s) ∧
    ((s.teamAt (benchTeam (portBench p))).failed = false →
      ((s.rxAt x).active = false → s.receives p early = false →
        t = if s.lstate p = 0 then s else s.portCount p Reg.PORT.RX_NOT_UP) ∧
      ((s.rxAt x).active = true → t = wake ((s.rxEndCount p f e).endOffered x f e err)) ∧
      ((s.rxAt x).active = false → s.receives p early = true → e ≠ .good ∨ beAt f 12 2 = 0x8808 →
        t = wake ((s.rxEndCount p f e).inspectBad p f)) ∧
      ((s.rxAt x).active = false → s.receives p early = true → e = .good → beAt f 12 2 ≠ 0x8808 →
        let w := (s.rxEndCount p f e).offer x f true age
        t = wake (if (w.rxAt x).waiting then w else w.putRx x {})))) ∧
  (∀ (s : State) (p : PortId) (bytes : List Byte) (last early : Bool) (age : Nat) (err : SeqErr),
    let x := 512 + p.val
    let run := fun smd => Sys2Proof.Machine.exec (.fragmentReceive p smd bytes last early age err) s
    let on := (s.rxAt x).active || s.receives p early
    let keep := fun (u : State) (n c : Nat) (all : List Byte) => u.onLink p fun k => { k with asm := some (n, c, all) }
    let take := fun (u : State) (n c : Nat) (all : List Byte) =>
      if last = true ∧ u.rxBlocked x all early = false then
        (u.onLink p fun k => { k with asm := none }).endFrame x all false early false age err
      else keep u n c all
    (s.portFlag p Reg.PORT.MMCFG_MM_EN = false ∨ (s.rxAt x).waiting = true ∨ s.nearLoop p = true ∨
      (s.teamAt (benchTeam (portBench p))).failed = true → ∀ smd, run smd = .next (settle s)) ∧
    (s.portFlag p Reg.PORT.MMCFG_MM_EN = true → (s.rxAt x).waiting = false → s.nearLoop p = false →
      (s.teamAt (benchTeam (portBench p))).failed = false →
      run .verify = .next (settle (if s.portUp p then s.onLink p fun k => { k with owes := true } else s)) ∧
      run .respond = .next (settle (if s.portUp p then mmVerify p true s else s)) ∧
      run .unknown = .next (settle (if on then s.portCount p Reg.PORT.MM_SMD_ERR else s)) ∧
      (∀ n, run (.start n) = .next (settle (if on then take (s.assyError p) n.val 0 bytes else s.fragmentIdle p last))) ∧
      (on = false → ∀ n c, run (.cont n c) = .next (settle (s.fragmentIdle p last))) ∧
      (on = true → (s.linkAt p).asm = none → ∀ n c,
        run (.cont n c) = .next (settle (s.portCount p Reg.PORT.MM_SMD_ERR))) ∧
      (on = true → ∀ n0 c0 sofar, (s.linkAt p).asm = some (n0, c0, sofar) → ∀ n c : Fin 4,
        (n.val = n0 → c.val = c0 → run (.cont n c) = .next (settle (take s n.val (nextFrag c0) (sofar ++ bytes)))) ∧
        (n.val = n0 → c.val ≠ c0 →
          run (.cont n c) = .next (settle ((s.portCount p Reg.PORT.MM_SMD_ERR).assyError p))) ∧
        (n.val ≠ n0 → run (.cont n c) = .next (settle (s.assyError p))))))

/-- R50, R111, R112, R129 to R134, R249, R379: the engines of a bench. A clock of the allocator answers at most 8 requests,
and each answer is delivered. The next header goes to the lowest idle engine, counted, while routines run and fewer than 1,024
went in the tick. An engine's word, its dispatch entry and its PMT entries are read from its home copy; a word bad in both
copies aborts its routine with ABORT_LOG0.CAUSE 2 (its interrupt is cause 1) before any of the word's work (log 270);
otherwise the word runs, or the whole routine where it is one of the shipped graph (log 42). A routine that has run out
aborts; an ended one leaves its engine and holds its results, counted then (log 241); results leave in order. The scrubber
moves on, an error in both copies raising cause 4, a repair counted with cause 3. A tag result passes its frame, or makes its
end an error with reason 18: it passes with its tag and short length right and, under replay protection, its number not below
the lowest. -/
def Obligations.EnginesRun : Prop :=
  (∀ (s : State) (b : BenchId),
    (let u := s.allocClock b
     Sys2Proof.Machine.exec (.allocAnswer b) s = .next (settle ((u.onBuf b fun x => { x with answers := [] }).each
       (u.bufAt b).answers fun s e => s.deliver b e.1 e.2))) ∧
    ∀ rr, (s.answered b rr).length ≤ 8) ∧
  (∀ (s : State) (b : BenchId), let k := s.tickAt b
    let idle := findFrom (fun e => ((s.marAt b).engine e).isNone) 0 24
    let next := (s.marAt b).take k.punted
    (idle = none ∨ next = none ∨ s.marverRuns b = false ∨ 1024 ≤ k.dispatched →
      Sys2Proof.Machine.exec (.headerDispatch b) s = .next (settle s)) ∧
    (∀ e h m, idle = some e → next = some (h, m) → s.marverRuns b = true → k.dispatched < 1024 →
      let g := s.readyHeader b h
      let base := s.image.graphIntact && [0, 4, 5].any fun i => baseEntryAt i == s.entryOf b g
      ∃ t, Sys2Proof.Machine.exec (.headerDispatch b) s = .next t ∧
        t.marAt b = m.setEngine e (some (Routine.start g (s.entryOf b g) base)) ∧
        t.tickAt b = { k with dispatched := k.dispatched + 1, punted := k.punted + b2n g.punty })) ∧
  (∀ (s : State) (b : BenchId) (e : Fin 24) (finds : List (Fin 16704 × CsFind)),
    ((s.marAt b).engine e = none → Sys2Proof.Machine.exec (.microwordExecute b e finds) s = .next (settle s) ∧
      Sys2Proof.Machine.exec (.watchdogAbort b e) s = .next (settle s) ∧
      Sys2Proof.Machine.exec (.routineEnd b e) s = .next (settle s)) ∧
    (∀ r, (s.marAt b).engine e = some r →
      (r.ended = true ∨ r.expired.isSome = true →
        Sys2Proof.Machine.exec (.microwordExecute b e finds) s = .next (settle s)) ∧
      (r.ended = false → r.expired = none →
        let addrs := if r.base then (r.pc :: finds.map fun f => f.1.val).eraseDups else wordReads s.image r.pc
        let found := s.csFinds b addrs finds
        let u := s.each found fun s x => s.csRead b x.1 (if e.val < 12 then 0 else 1) x.2
        ((∃ x ∈ found, x.2 = .both) →
          Sys2Proof.Machine.exec (.microwordExecute b e finds) s = .next (settle (u.abort b e r 2 (r.badPc found)))) ∧
        ((∀ x ∈ found, x.2 ≠ .both) →
          (r.base = true → Sys2Proof.Machine.exec (.microwordExecute b e finds) s = .next (settle (u.runBase b e r))) ∧
          (r.base = false → Sys2Proof.Machine.exec (.microwordExecute b e finds) s =
            .next (settle (u.runWord b e r (found.contains (r.pc, .ue))))))) ∧
      (∀ c, r.expired = some c →
        Sys2Proof.Machine.exec (.watchdogAbort b e) s = .next (settle (s.abort b e r c r.pc))) ∧
      (r.expired = none → Sys2Proof.Machine.exec (.watchdogAbort b e) s = .next (settle s)) ∧
      (r.ended = false → Sys2Proof.Machine.exec (.routineEnd b e) s = .next (settle s)) ∧
      (r.ended = true → ∃ t, Sys2Proof.Machine.exec (.routineEnd b e) s = .next t ∧ (t.marAt b).engine e = none ∧
        (t.marAt b).results = (s.marAt b).results ++ [r] ∧
        t.ctr (pgMarver b) Reg.MARVER.ROUTINES = s.ctr (pgMarver b) Reg.MARVER.ROUTINES + 1 ∧
        t.ctr (pgMarver b) Reg.MARVER.ENGINE_CLOCKS =
          s.ctr (pgMarver b) Reg.MARVER.ENGINE_CLOCKS + BitVec.ofNat 64 r.clocks ∧
        (r.cqOvf ≠ 0 ∨ (∃ q ∈ r.cq, 3 < q.1) → t.caused (pgMarver b) 5) ∧ (r.editOvf ≠ 0 → t.caused (pgMarver b) 6) ∧
        Touches { s with mar := t.mar } t (· = pgMarver b)))) ∧
  (∀ (s : State) (b : BenchId) (errs : List TblErr),
    (s.due b = none → Sys2Proof.Machine.exec (.resultRelease b errs) s = .next (settle s)) ∧
    (∀ r, s.due b = some r →
    let s1 := s.onMar b fun m => { m with results := m.results.erase r }
    let h := (s1.cqIssue b r.h r.cq).1
    let s2 := (s1.cqIssue b r.h r.cq).2
    (∀ c, h.cpu = some c → c.direct = true → Sys2Proof.Machine.exec (.resultRelease b errs) s =
      .next (settle ((s2.drained b h.epoch).directPass b h c errs))) ∧
    (h.cpu = none ∨ (∃ c, h.cpu = some c ∧ c.direct = false) → Sys2Proof.Machine.exec (.resultRelease b errs) s =
      .next (settle ((s2.ruleAction b { r with h := h } errs).2.endPass b h (s2.ruleAction b { r with h := h } errs).1 errs))))) ∧
  (∀ (s : State) (b : BenchId) (find : CsFind), let n := (s.marAt b).scrub
    let f := s.csFind b (n / 2) find
    (s.flag (pgMarver b) Reg.MARVER.SCRUB_EN = false ∨ s.marverRuns b = false →
      Sys2Proof.Machine.exec (.scrubRead b find) s = .next (settle s)) ∧
    (s.flag (pgMarver b) Reg.MARVER.SCRUB_EN = true → s.marverRuns b = true →
      ∃ t, Sys2Proof.Machine.exec (.scrubRead b find) s = .next t ∧ (t.marAt b).scrub = (n + 1) % (2 * csWords) ∧
      (f = .both → t.caused (pgMarver b) 4) ∧
      (f = .ue → t.caused (pgMarver b) 3 ∧
        t.ctr (pgMarver b) Reg.MARVER.CS_REPAIR = s.ctr (pgMarver b) Reg.MARVER.CS_REPAIR + 1) ∧
      Touches { s with mar := t.mar } t (· = pgMarver b))) ∧
  (∀ (s : State) (p : PortId) (err : SeqErr), let c := ciphOf p
    let b := portBench p
    let found := (s.ciphAt c).tags.find? fun t => t.port == p.val
    (found = none → Sys2Proof.Machine.exec (.tagResult p err) s = .next (settle s)) ∧
    (∀ r, found = some r →
      let u := (s.onCiph c fun k => { k with tags := k.tags.erase r }).tagCheck r
      let w := match r.desc with
        | none => u.2
        | some d => if u.1 then u.2.tagPassed b d err else u.2.receptionBad b d (r.octets + 16) 18
      Sys2Proof.Machine.exec (.tagResult p err) s = .next (settle (match r.gone with
        | some v => w.settleGone r.mac v (if u.1 then some (r.octets + 16) else none)
        | none => w)))) ∧
  (∀ (s : State) (r : TagWait), let lo := lowest r.sec.ent (s.saWork (ciphOf r.port) (4 * (r.sec.sc % 1024) + r.sec.an))
    (s.tagCheck r).1 = (r.tagOk && r.slOk && !(scReplay r.sec.ent && decide (recoverPn r.sec.ent lo r.sec.pn32 < lo))))

/-- R25, R26, R268 to R273, R359: hand-off and the bridge. The oldest record of a source is accepted. The head frame goes on
in pieces of 256 bytes, or the rest of a whole one, each on a credit; wholly sent to a failed team it leaves. Bytes that leave
the bridge buffer give a credit back, which restarts the stall timer. An expired timer of a frame that waits for a credit
marks the peer down, with cause 2, and drops its FIFOs. The receiving side requests a descriptor for a new transfer, ends it
by its CRC once its request is answered, the frame has ended and its bytes have come, counting a bad CRC with cause 4 whether
or not it was stored, with every credit back; and abandons one that stalls, counted. -/
def Obligations.HandoffAndBridge : Prop :=
  (∀ (s : State) (b : BenchId) (src : Fin 5) (err : SeqErr),
    let found := (s.coreAt b).inbox.find? fun r => r.1 == src.val
    (found = none → Sys2Proof.Machine.exec (.handoffAccept b ⟨src, err⟩) s = .next (settle s)) ∧
    (∀ r, found = some r → Sys2Proof.Machine.exec (.handoffAccept b ⟨src, err⟩) s = .next (settle (((s.onCore b fun h => { h with
      inbox := h.inbox.erase r }).accept b r.2 err).settleUnit b r.2.bench r.2.desc)))) ∧
  (∀ (s : State) (tm : Team) (k : Fin 4), let x := s.bridgeAt (brKey tm k)
    (x.fifo = [] ∨ (s.teamAt (teamNo tm)).failed = true → Sys2Proof.Machine.exec (.bridgeSend tm k) s = .next (settle s)) ∧
    (∀ r rest, x.fifo = r :: rest → (s.teamAt (teamNo tm)).failed = false →
      let n := s.brStored r - x.sent
      let whole := ((s.descAt r.bench r.desc).map fun d => d.done).getD false
      let lost := ((s.descAt r.bench r.desc).map fun d => d.done && !d.tagWait).getD false && (s.teamAt (1 - teamNo tm)).failed
      let u := s.onBridge (brKey tm k) fun x => { x with sent := x.sent + min 256 n, cred := x.cred - 1 }
      (n = 0 → Sys2Proof.Machine.exec (.bridgeSend tm k) s = .next (settle (if lost then s.brLost (brKey tm k) r else s))) ∧
      (n ≠ 0 → x.cred = 0 ∨ n < 256 ∧ whole = false → Sys2Proof.Machine.exec (.bridgeSend tm k) s = .next (settle s)) ∧
      (n ≠ 0 → x.cred ≠ 0 → 256 ≤ n ∨ whole = true → Sys2Proof.Machine.exec (.bridgeSend tm k) s =
        .next (settle (if lost = true ∧ n ≤ 256 then u.brLost (brKey tm k) r else u))))) ∧
  (∀ (s : State) (tm : Team) (k : Fin 4), let key := brKey tm k
    let x := s.bridgeAt key
    (128 ≤ x.cred ∨ (s.teamAt (1 - teamNo tm)).failed = true →
      Sys2Proof.Machine.exec (.bridgeCredit tm k) s = .next (settle s)) ∧
    (x.cred < 128 → (s.teamAt (1 - teamNo tm)).failed = false →
      (∀ y, x.xfer = some y → y.answered = true → x.fifo ≠ [] → Sys2Proof.Machine.exec (.bridgeCredit tm k) s =
        .next (settle ((s.xferStore key (min x.sent (y.bytes + 256)) false).creditBack key (x.cred + 1)))) ∧
      (x.xfer = none ∨ x.fifo = [] ∨ (∃ y, x.xfer = some y ∧ y.answered = false) →
        Sys2Proof.Machine.exec (.bridgeCredit tm k) s = .next (settle (s.creditBack key (x.cred + 1))))) ∧
    (∀ c, (s.creditBack key c).bridgeAt key = { x with cred := c, expired := false })) ∧
  (∀ (s : State) (tm : Team) (k : Fin 4), let pg := pgCore (4 * teamNo tm)
    let u := s.onBridge (brKey tm k) fun x => { x with expired := true }
    (s.brStalled (brKey tm k) = false → Sys2Proof.Machine.exec (.peerMarkDown tm k) s = .next (settle s)) ∧
    (s.brStalled (brKey tm k) = true → s.peerDown (teamNo tm) = true →
      Sys2Proof.Machine.exec (.peerMarkDown tm k) s = .next (settle u)) ∧
    (s.brStalled (brKey tm k) = true → s.peerDown (teamNo tm) = false → Sys2Proof.Machine.exec (.peerMarkDown tm k) s =
      .next (settle ((((u.setFld pg Reg.CORE.BR_STAT_PEER_DOWN 1).bump pg Reg.CORE.BR_DOWN_EVENTS).raise pg 2).dropFifos
        (teamNo tm))))) ∧
  (∀ (s : State) (tm : Team) (k : Fin 4), let x := s.bridgeAt (brKey tm k)
    (∀ r rest d, x.fifo = r :: rest → x.xfer = none → s.descAt r.bench r.desc = some d → x.sent ≠ 0 →
      (s.teamAt (1 - teamNo tm)).failed = false →
      Sys2Proof.Machine.exec (.bridgeReceiveBegin tm k) s = .next (settle ((s.onBridge (brKey tm k) fun x => { x with
        xfer := some { hand := r, owner := d.owner } }).request (brBench (brKey tm k)) 67 d.owner
          (if d.done then some d.len else none) (.bridge (teamNo tm) k)))) ∧
    (x.fifo = [] ∨ x.xfer.isSome = true ∨ x.sent = 0 ∨ (s.teamAt (1 - teamNo tm)).failed = true →
      Sys2Proof.Machine.exec (.bridgeReceiveBegin tm k) s = .next (settle s))) ∧
  (∀ (s : State) (tm : Team) (k : Fin 4) (r : HandRec) (rest : List HandRec) (d : Desc) (y : Xfer) (ok : Bool) (err : SeqErr),
    let key := brKey tm k
    let e := brBench key
    let far := pgCore (4 * (1 - teamNo tm))
    let x := s.bridgeAt key
    x.fifo = r :: rest → x.xfer = some y → s.descAt r.bench r.desc = some d →
    (y.answered = false ∨ d.done = false ∨ d.tagWait = true ∨ x.sent < s.brStored r ∨
      (s.teamAt (1 - teamNo tm)).failed = true → Sys2Proof.Machine.exec (.bridgeReceiveEnd tm k ok err) s = .next (settle s)) ∧
    (y.answered = true → d.done = true → d.tagWait = false → s.brStored r ≤ x.sent → (s.teamAt (1 - teamNo tm)).failed = false →
      let u := (s.bump (pgCore (4 * teamNo tm)) Reg.CORE.BR_TX_FRAMES).bump far Reg.CORE.BR_RX_FRAMES
      let v := if ok then u else (u.bump far Reg.CORE.BR_RX_CRC).raise far 4
      let ended := fun w : State => ((w.xferOver key (rxFault y.bad)).creditAll key).brNext key r
      (y.desc = none → Sys2Proof.Machine.exec (.bridgeReceiveEnd tm k ok err) s = .next (settle (ended v))) ∧
      (∀ i, y.desc = some i → ((v.xferStore key (s.brStored r) true).bridgeAt key).xfer.bind (fun z => z.desc) = some i →
        let w := (v.xferStore key (s.brStored r) true).trimChain e i
        Sys2Proof.Machine.exec (.bridgeReceiveEnd tm k ok err) s =
          .next (settle (ended (if ok then w.xferGood e i d.len y err else w.receptionBad e i d.len 17)))))) ∧
  (∀ (s : State) (tm : Team) (k : Fin 4), let x := s.bridgeAt (brKey tm k)
    (x.xfer = none → Sys2Proof.Machine.exec (.bridgeAbandon tm k) s = .next (settle s)) ∧
    (∀ y, x.xfer = some y → y.desc = none → x.fifo = [] →
      ∃ t, Sys2Proof.Machine.exec (.bridgeAbandon tm k) s = .next t ∧ (t.bridgeAt (brKey tm k)).xfer = none ∧
        t.ctr (pgCore (4 * (1 - teamNo tm))) Reg.CORE.BR_RX_ABANDON =
          s.ctr (pgCore (4 * (1 - teamNo tm))) Reg.CORE.BR_RX_ABANDON + 1))

/-- R387 to R389, R394, R395, R399: lookaside jobs. A job at the head of the queue whose turn it is, its operation the
command's, runs, writes its status word, and ends: JQ_HEAD moves on, JOBS_DONE counts, JOB_ERRS counts a status of 2 or more,
the queue's JOB_DONE cause is set, and the turn has been the queue's. Any other changes nothing. OP 12 to 15 end with BAD_DESC
(7), and a NOP with a good descriptor completes OK with nothing else done; a good FIRST job of a slot that does not serve ends
2, one of GCM encryption or GMAC generation past 2^32 - 1 invocations 3, and any other runs. -/
def Obligations.CipherJobs : Prop :=
  (∀ (s : State) (c : ClusterId) (q : Fin 16) (j : JobIn),
    let r := s.jobStatus c j
    let out := fun ops : List Nat => (.next (settle (if s.jobTurn c = some q.val ∧ j.op ∈ ops then
      (r.2.jobWord c q r.1).jobEnd c q r.1 else s)) : Host.Outcome State Fault Refusal)
    Sys2Proof.Machine.exec (.jobCtr c q j) s = out [0] ∧
    Sys2Proof.Machine.exec (.jobCbcEnc c q j) s = out [1] ∧
    Sys2Proof.Machine.exec (.jobCbcDec c q j) s = out [2] ∧
    Sys2Proof.Machine.exec (.jobCfbEnc c q j) s = out [3] ∧
    Sys2Proof.Machine.exec (.jobCfbDec c q j) s = out [4] ∧
    Sys2Proof.Machine.exec (.jobGcmEnc c q j) s = out [5] ∧
    Sys2Proof.Machine.exec (.jobGcmDec c q j) s = out [6] ∧
    Sys2Proof.Machine.exec (.jobGmacGen c q j) s = out [7] ∧
    Sys2Proof.Machine.exec (.jobGmacVer c q j) s = out [8] ∧
    Sys2Proof.Machine.exec (.jobCmacGen c q j) s = out [9] ∧
    Sys2Proof.Machine.exec (.jobCmacVer c q j) s = out [10] ∧
    Sys2Proof.Machine.exec (.jobNop c q j) s = out [11] ∧
    Sys2Proof.Machine.exec (.jobBadOp c q j) s = out [12, 13, 14, 15]) ∧
  (∀ (s : State) (c : ClusterId) (j : JobIn), let k := s.keySlot c j.key
    (12 ≤ j.op → s.jobStatus c j = (7, s)) ∧
    (j.op = 11 → j.bad = false → s.jobStatus c j = (0, s)) ∧
    (j.op ≤ 10 → j.bad = false → j.first = true →
      (k.serves = false → s.jobStatus c j = (2, s)) ∧
      (k.serves = true → (j.op = 5 ∨ j.op = 7) → 2 ^ 32 ≤ k.invoc + 1 → s.jobStatus c j = (3, s)) ∧
      (k.serves = true → (j.op ≠ 5 ∧ j.op ≠ 7) ∨ k.invoc + 1 < 2 ^ 32 →
        s.jobStatus c j = s.jobRun c j (jobBegin j j.key k)))) ∧
  (∀ (s : State) (c : ClusterId), (∀ q, s.jobTurn c = some q → q < 16 ∧ s.jobReady c q = true) ∧
    (s.jobTurn c = none → ∀ q, q < 16 → s.jobReady c q = false)) ∧
  (∀ (s : State) (c : ClusterId) (q : Fin 16) (st : Nat), let t := s.jobEnd c q st
    t.fld (pgCiph c) (Reg.CIPH.JQ_HEAD q) = (s.fld (pgCiph c) (Reg.CIPH.JQ_HEAD q) + 1) % 2 ^ 16 ∧
    t.ctr (pgCiph c) Reg.CIPH.JOBS_DONE = s.ctr (pgCiph c) Reg.CIPH.JOBS_DONE + 1 ∧
    t.ctr (pgCiph c) Reg.CIPH.JOB_ERRS = s.ctr (pgCiph c) Reg.CIPH.JOB_ERRS + BitVec.ofNat 64 (b2n (decide (2 ≤ st))) ∧
    t.caused (pgCiph c) (16 + q) ∧ (t.ciphAt c).jobLast = q ∧ Touches { s with ciph := t.ciph } t (· = pgCiph c))

/-- R387, R395, R398, R399: job queues and the known-answer test. JQ_TAIL takes its value; EN from 0 to 1 zeroes both pointers
and restarts the queue, and EN written 1 again leaves them; a failed PCIe access of the job whose turn it is ends it, counted
in JOB_ERRS, stops the queue at its index with cause 5, and sets its JOB_DONE cause; KAT sets KAT_BUSY, and its end gives the
failing engines with cause 3, and 4 where there are any. -/
def Obligations.JobQueuesAndKat : Prop :=
  (∀ (s : State) (c : ClusterId) (q : Fin 16) (v : W32), s.takes (pgCiph c) →
    ∃ t, Sys2Proof.Machine.exec (.jqTailWrite c q v) s = .next t ∧ t = settle ((s.hubAnswered (pgCiph c)).jqTail c q v) ∧
      t.fld (pgCiph c) (Reg.CIPH.JQ_TAIL q) = v.toNat % 2 ^ 16 ∧ Touches (s.hubAnswered (pgCiph c)) t (· = pgCiph c)) ∧
  (∀ (s : State) (c : ClusterId) (q size : Fin 16), s.takes (pgCiph c) → let was := s.flag (pgCiph c) (Reg.CIPH.JQ_CFG_EN q)
    ∃ t, Sys2Proof.Machine.exec (.jqEnable c q size) s = .next t ∧ t.flag (pgCiph c) (Reg.CIPH.JQ_CFG_EN q) = true ∧
      t.fld (pgCiph c) (Reg.CIPH.JQ_CFG_SIZE_LOG2 q) = size.val ∧
      t.fld (pgCiph c) (Reg.CIPH.JQ_HEAD q) = (if was then s.fld (pgCiph c) (Reg.CIPH.JQ_HEAD q) else 0) ∧
      t.fld (pgCiph c) (Reg.CIPH.JQ_TAIL q) = (if was then s.fld (pgCiph c) (Reg.CIPH.JQ_TAIL q) else 0) ∧
      (t.flag (pgCiph c) (Reg.CIPH.JQ_STAT_STOPPED q) = (was && s.flag (pgCiph c) (Reg.CIPH.JQ_STAT_STOPPED q))) ∧
      Touches (s.hubAnswered (pgCiph c)) t (· = pgCiph c)) ∧
  (∀ (s : State) (c : ClusterId) (q : Fin 16) (desc : Option JobIn) (wrote : Bool),
    (s.jobTurn c ≠ some q.val → Sys2Proof.Machine.exec (.jobDmaError c q desc wrote) s = .next (settle s)) ∧
    (s.jobTurn c = some q.val → ∃ t, Sys2Proof.Machine.exec (.jobDmaError c q desc wrote) s = .next t ∧
      t.flag (pgCiph c) (Reg.CIPH.JQ_STAT_STOPPED q) = true ∧
      t.fld (pgCiph c) (Reg.CIPH.JQ_STAT_STOP_IDX q) = s.fld (pgCiph c) (Reg.CIPH.JQ_HEAD q) % 2 ^ 16 ∧
      t.ctr (pgCiph c) Reg.CIPH.JOB_ERRS = s.ctr (pgCiph c) Reg.CIPH.JOB_ERRS + 1 ∧ t.caused (pgCiph c) 5 ∧
      t.caused (pgCiph c) (16 + q) ∧ t.jobReady c q = false)) ∧
  (∀ (s : State) (c : ClusterId), s.takes (pgCiph c) → ∃ t, Sys2Proof.Machine.exec (.katStart c) s = .next t ∧
    t.flag (pgCiph c) Reg.CIPH.CSTAT_KAT_BUSY = true ∧ Touches (s.hubAnswered (pgCiph c)) t (· = pgCiph c)) ∧
  (∀ (s : State) (c : ClusterId) (mask : BitVec 16),
    (s.flag (pgCiph c) Reg.CIPH.CSTAT_KAT_BUSY = false → Sys2Proof.Machine.exec (.katDone c mask) s = .next (settle s)) ∧
    (s.flag (pgCiph c) Reg.CIPH.CSTAT_KAT_BUSY = true →
    ∃ t, Sys2Proof.Machine.exec (.katDone c mask) s = .next t ∧ t.flag (pgCiph c) Reg.CIPH.CSTAT_KAT_BUSY = false ∧
      t.fld (pgCiph c) Reg.CIPH.CSTAT_KAT_FAILMASK = mask.toNat ∧ t.caused (pgCiph c) 3 ∧
      (mask ≠ 0 → t.caused (pgCiph c) 4) ∧ Touches s t (· = pgCiph c)))

/-- R388, R390: a job whose turn it is and whose descriptor breaks one of the rule's conditions ends with BAD_DESC (7), with
no other effect than its end; and the context of a CMAC job that is not LAST holds its last 16 bytes, unprocessed. (Which
reserved fields are checked is the model's reading, log 53.) -/
def Obligations.BadDescriptorsEndJobs : Prop :=
  (∀ (s : State) (c : ClusterId) (q : Fin 16) (j : JobIn) (x : Instr × List Nat), s.jobTurn c = some q.val →
    x ∈ [(.jobCtr c q j, [0]), (.jobCbcEnc c q j, [1]), (.jobCbcDec c q j, [2]), (.jobCfbEnc c q j, [3]), (.jobCfbDec c q j, [4]),
      (.jobGcmEnc c q j, [5]), (.jobGcmDec c q j, [6]), (.jobGmacGen c q j, [7]), (.jobGmacVer c q j, [8]),
      (.jobCmacGen c q j, [9]), (.jobCmacVer c q j, [10]), (.jobNop c q j, [11]), (.jobBadOp c q j, [12, 13, 14, 15])] →
    j.op ∈ x.2 →
    (j.last = false ∧ (j.len = 0 ∨ j.len % 16 ≠ 0)) ∨ ((j.op = 1 ∨ j.op = 2) ∧ j.len % 16 ≠ 0) ∨
      j.len < j.aadLen ∨ (j.first = false ∧ j.aadLen ≠ 0) ∨
      (5 ≤ j.op ∧ j.op ≤ 10 ∧ (j.tagLen < 4 ∨ 16 < j.tagLen)) ∨ j.addr 8 % 64 ≠ 0 ∨
      bits (j.word 0) 19 11 ≠ 0 ∨ j.word 15 ≠ 0 →
    Sys2Proof.Machine.exec x.1 s = .next (settle ((s.jobWord c q 7).jobEnd c q 7))) ∧
  (∀ (j : JobIn) (x : JobCtx), j.op = 9 ∨ j.op = 10 → j.last = false → j.bad = false →
    j.first = true ∨ x.b.length = 16 → (jobWork j x).ctx.b = j.data.drop (j.len - 16))

/-- R389: CTR, CFB encryption and CFB decryption under one key and one starting block: decrypting what was encrypted gives the
data back, whatever its length, and CTR is its own inverse. -/
def Obligations.StreamModesInvert : Prop :=
  ∀ (j k : JobIn) (x : JobCtx), x.key.length = 16 ∨ x.key.length = 32 → x.a.length = 16 →
    (j.op = 0 ∧ k.op = 0) ∨ (j.op = 3 ∧ k.op = 4) → k.data = (jobWork j x).out →
    (jobWork k x).out = j.data ∧ (jobWork j x).out.length = j.data.length

/-- R45 to R48, R55, R63, R65: edges. While the time is on the grid and the device is not in reset, the grid edge comes at its
time (its instant is log 12), the next being 1,280 ns later; what a time step did to the running grid tick reaches each bench
by realignTick (log 18), in the tick it counts or, where it still counts an earlier one, in the later tick; and gridAdvance
commits what commits there (in the order of log 23). A local edge that is due ends its bench's tick, which commits, then paces
the bench, examines held heads, opens the next tick, lets the team's clock change and the hubs take what waited; off the grid
it carries the grid tick counter where its bench is the source. An edge that is not due does nothing. -/
def Obligations.EdgesCommit : Prop :=
  (∀ s : State,
    (s.gridOn = true → s.boot.asserted = false → let u := s.reach s.time.nextEdge
      let w := match s.time.realign with
        | none => u
        | some a => u.each (List.range 8) fun s b => s.realignTick b a
      Sys2Proof.Machine.exec .gridEdge s = .next (settle
        ({ w with time := { w.time with nextEdge := s.time.nextEdge + 1280, realign := none } }.gridAdvance))) ∧
    (s.gridOn = false ∨ s.boot.asserted = true → Sys2Proof.Machine.exec .gridEdge s = .next (settle s))) ∧
  (∀ (s : State) (b : BenchId) (a : Int), let h := s.tickAt b
    (s.gridTick ≤ h.num.toNat → (s.realignTick b a).tickAt b = { h with grid := h.grid - a }) ∧
    (h.num.toNat < s.gridTick → (s.realignTick b a).tickAt b = { h with longer := (s.gridTick, -a) :: h.longer }) ∧
    (∀ c, c ≠ b.val → (s.realignTick b a).tickAt c = s.tickAt c)) ∧
  (∀ (s : State) (b : BenchId) (clk len : Nat),
    let v := (((s.endTick b (s.localTick b)).paceEdge b clk len).holdHeads b).openEdge b
    let u := ((v.admitEdge b).clkEdge (benchTeam b)).hubRelease
    (s.edgeDue b clk = true → s.gridOn = true → Sys2Proof.Machine.exec (.localEdge b clk len) s = .next (settle u)) ∧
    (s.edgeDue b clk = true → s.gridOn = false →
      Sys2Proof.Machine.exec (.localEdge b clk len) s = .next (settle (u.freeSource b))) ∧
    (s.edgeDue b clk = false → Sys2Proof.Machine.exec (.localEdge b clk len) s = .next (settle s)))

/-- R59: the OVERRUN state at a local edge of a bench on the grid. The edge enters OVERRUN where its lag exceeds 5,376 clocks,
counted and with the OVERRUN_ENTRY cause, and leaves it where its lag is 0, with the OVERRUN_EXIT cause; between, the state
stays as it was. -/
def Obligations.OverrunFollowsLag : Prop :=
  ∀ (s : State) (b : BenchId) (clk len : Nat), s.gridOn = true →
    let lag := s.lagAt b clk
    let inOvr := s.fld pgTime (Reg.TIME.BTICK_STAT_STATE b) = 3
    let t := s.paceEdge b clk len
    let inOvr' := t.fld pgTime (Reg.TIME.BTICK_STAT_STATE b) = 3
    (5376 < lag → inOvr') ∧ (lag = 0 → ¬ inOvr') ∧ (lag ≠ 0 → lag ≤ 5376 → (inOvr' ↔ inOvr)) ∧
    (inOvr' → ¬ inOvr → t.ctr pgTime (Reg.TIME.OVR_ENTRIES b) = s.ctr pgTime (Reg.TIME.OVR_ENTRIES b) + 1 ∧ t.caused pgTime 3) ∧
    (¬ inOvr' ∨ inOvr → t.ctr pgTime (Reg.TIME.OVR_ENTRIES b) = s.ctr pgTime (Reg.TIME.OVR_ENTRIES b)) ∧
    (inOvr → ¬ inOvr' → t.caused pgTime 4)

/-- R25, R426, R449, R552, R575: failures. A fallen core rail fails its team and its HBM half (the half is log 262); a lost
team PLL clears its lock bit and fails the team and its half where it runs on that PLL; a failed team stays failed, unchanged.
A fallen shared rail, the first, fails both HBM halves with the PHY's cause, unlocks the time PLL and resets the endpoint (log
222); another changes nothing. -/
def Obligations.FailuresStopParts : Prop :=
  (∀ (s : State) (tm : Team), Sys2Proof.Machine.exec (.teamRailFall tm) s =
    .next (settle ((s.failHalf (teamNo tm)).teamFail (teamNo tm)))) ∧
  (∀ (s : State) (tm : Team), let u := s.setFld pgDev (clkLock (teamNo tm)) 0
    (s.flag pgDev (clkOn (teamNo tm)) = true →
      Sys2Proof.Machine.exec (.teamPllUnlock tm) s = .next (settle ((u.failHalf (teamNo tm)).teamFail (teamNo tm)))) ∧
    (s.flag pgDev (clkOn (teamNo tm)) = false → Sys2Proof.Machine.exec (.teamPllUnlock tm) s = .next (settle u)) ∧
    u.flag pgDev (clkLock (teamNo tm)) = false) ∧
  (∀ s : State, (s.pins.sharedDown = true → Sys2Proof.Machine.exec .sharedRailFall s = .next (settle s)) ∧
    (s.pins.sharedDown = false →
      let u := ((((s.failHalf 0).failHalf 1).raise pgPhy 2).setFld pgTime Reg.TIME.STAT_TIME_PLL_LOCK 0).timeTrack
      Sys2Proof.Machine.exec .sharedRailFall s = .next (settle { u with
        pins := { u.pins with sharedDown := true }, pcie := {} }))) ∧
  (∀ (s : State) (n : Nat), (s.teamAt n).failed = true → s.teamFail n = s)

/-- R229, R463, R488: an invariant that every step keeps, whatever the command: the frame buffers' banks, the flash, the
lehr's bytes and the host memory that the device has written stand in their one canonical form, addresses rising and no byte
listed that reads as an unlisted one does. The state after reset has it. -/
def Obligations.MemoriesKeepTheirForm : Prop :=
  State.reset.memoriesWf ∧
  ∀ s t : State, s.memoriesWf → Sys2Proof.Machine.step s = .next t → t.memoriesWf

/-- R132: a routine that would fall through from address 0x3FFF (its word neither ends it nor takes a branch) aborts, counted
in CS_END_ABORT, with cause 2. Its word, dispatch entry and PMT entries are read good in some copy. -/
def Obligations.FallThroughPastTheEndAborts : Prop :=
  ∀ (s : State) (b : BenchId) (e : Fin 24) (r : Routine) (finds : List (Fin 16704 × CsFind)),
    (s.marAt b).engine e = some r → r.ended = false → r.expired = none → r.base = false → r.pc = 0x3FFF →
    let found := s.csFinds b (wordReads s.image r.pc) finds
    (∀ x ∈ found, x.2 ≠ .both) →
    let w := s.image.word r.pc
    let d := s.image.dispatch (mw w 191 184)
    mw w 181 181 = 0 → r.clocks + wordClocks w (found.contains (r.pc, .ue)) < 640 →
    bits d.toNat 31 31 = 0 ∨ takenAddr d (wordEffect s.image w r) = none →
    ∃ t, Sys2Proof.Machine.exec (.microwordExecute b e finds) s = .next t ∧ (t.marAt b).engine e = none ∧
      t.ctr (pgMarver b) Reg.MARVER.CS_END_ABORT = s.ctr (pgMarver b) Reg.MARVER.CS_END_ABORT + 1 ∧ t.caused (pgMarver b) 2

/-- R353: no number passes twice in a row. Once a recovery entry passes a tagged copy, the same number, requested before the
entry's timeout expires, is discarded, whatever the algorithm and history. -/
def Obligations.NoNumberPassesTwice : Prop :=
  ∀ e u v n : Nat, n < 65536 → u < 65536 → (seqDecide e u n true).pass = true →
    seqExpired (seqDecide e u n true).entry v = false →
    (seqDecide (seqDecide e u n true).entry v n true).pass = false ∧
    (seqDecide (seqDecide e u n true).entry v n true).rogue = 0 ∧
    (seqDecide (seqDecide e u n true).entry v n true).entry = (seqDecide e u n true).entry

/-- R154: a DELETE removes the entry with the given key, whether it stands in a way or in the stash, and its status is DELETED
(3); every other entry stays where it is, but for the stash's order closing up. A DELETE for a key that is not present changes
nothing and gives NOT_FOUND (6). The table is one in which a key stands once and where its hash puts it. -/
def Obligations.DeleteRemovesTheEntry : Prop :=
  ∀ (t : HTab) (sp : HSpec) (key : List Byte) (wide : Bool), t.sound sp → sp.per % 2 = 0 →
    (∀ i e, t.slot i = some e → e.key = key → e.wide = wide) → (∀ e ∈ t.stash, e.key = key → e.wide = wide) →
    let r := t.delete sp key wide
    ((∃ i e, t.slot i = some e ∧ e.key = key) ∨ (∃ e ∈ t.stash, e.key = key) → r.status = 3) ∧
    ((∀ i e, t.slot i = some e → e.key ≠ key) → (∀ e ∈ t.stash, e.key ≠ key) → r.status = 6 ∧ r.tab = t) ∧
    (∀ i, r.tab.slot i = (t.slot i).filter fun e => e.key != key) ∧
    r.tab.stash = t.stash.filter (fun e => e.key != key) ∧ r.tab.sound sp

/-- R150 to R157: an invariant over State. The hash tables of the benches are all sound: a key stands once, at a place that
its hash gives or in the stash, a wide entry in both slots of its pair, no stash beyond 64 entries. Every step keeps it,
whatever the command, as long as the seeds of a table that holds an entry stand after the step as before (R157; a domain that
returns, or a LOAD that is being applied, sets seeds otherwise) and the crucible image is not put back (R430, whose entries
stand where they stood as it was taken). The state after reset has it, its tables being empty. And an INSERT loses no entry:
where it does not end FULL (7), the new entry is found by its key and every other key is found as before, moved or not (which
moves are made for an occupied pair is log 274); the table stays sound. Entries of one key have one width. -/
def Obligations.TablesStaySound : Prop :=
  State.reset.tablesSound ∧
  (∀ s t : State, s.tablesSound → s.lehr.load = false → (∀ x y, s.pending.head? ≠ some (.restoreDone x y)) →
    Sys2Proof.Machine.step s = .next t →
    (∀ b k, b < 8 → k ∈ hashKinds → ((t.tabsAt b).hget k).empty = true ∨ t.hspec b k = s.hspec b k) → t.tablesSound) ∧
  (∀ (t : HTab) (sp : HSpec) (e : HEntry), t.sound sp → 0 < sp.per → sp.per % 2 = 0 →
    (∀ i f, t.slot i = some f → f.key = e.key → f.wide = e.wide) → (∀ f ∈ t.stash, f.key = e.key → f.wide = e.wide) →
    let r := t.insert sp e
    r.tab.sound sp ∧ (r.status = 7 → r.tab = t) ∧
    (r.status ≠ 7 → ∃ p, r.tab.find sp e.key e.wide = some (p, e)) ∧
    (∀ key wide, key ≠ e.key → (∀ i f, t.slot i = some f → f.key = key → f.wide = wide) →
      (∀ f ∈ t.stash, f.key = key → f.wide = wide) → ((r.tab.find sp key wide).map Prod.snd) = (t.find sp key wide).map Prod.snd))
end

