-- ==== Sys2Proof/Laws/Tab.lean ====
section
/-! SUPPORT. The laws of sparse tables: read after write, writes elsewhere, and the canonical form. -/

namespace Sys2Proof

variable {α : Type}

theorem Tab.get_ins_same (d : Nat → α) (t : Tab α) (k : Nat) (v : α) : Tab.get d (Tab.ins t k v) k = v := by
  induction t with
  | nil => simp [Tab.ins, Tab.get]
  | cons e t ih =>
    obtain ⟨j, w⟩ := e
    by_cases h1 : k < j
    · simp [Tab.ins, h1, Tab.get]
    · by_cases h2 : j = k
      · simp [Tab.ins, h2, Tab.get]
      · simp [Tab.ins, h1, h2, Tab.get, ih]

theorem Tab.get_ins_ne (d : Nat → α) (t : Tab α) {k j : Nat} (v : α) (h : j ≠ k) :
    Tab.get d (Tab.ins t k v) j = Tab.get d t j := by
  induction t with
  | nil => simp [Tab.ins, Tab.get, Ne.symm h]
  | cons e t ih =>
    obtain ⟨i, w⟩ := e
    by_cases h1 : k < i
    · simp [Tab.ins, h1, Tab.get, Ne.symm h]
    · by_cases h2 : i = k
      · subst h2; simp [Tab.ins, Tab.get, Ne.symm h]
      · simp only [Tab.ins, h1, h2, if_false, Tab.get, ih]

theorem Tab.get_filter_same (d : Nat → α) (t : Tab α) (k : Nat) :
    Tab.get d (t.filter (fun e => e.1 != k)) k = d k := by
  induction t with
  | nil => rfl
  | cons e t ih =>
    obtain ⟨i, w⟩ := e
    by_cases h : i = k
    · simp [h, ih]
    · simp [h, Tab.get, ih]

theorem Tab.get_filter_ne (d : Nat → α) (t : Tab α) {k j : Nat} (h : j ≠ k) :
    Tab.get d (t.filter (fun e => e.1 != k)) j = Tab.get d t j := by
  induction t with
  | nil => rfl
  | cons e t ih =>
    obtain ⟨i, w⟩ := e
    by_cases h1 : i = k
    · subst h1; simp [Tab.get, Ne.symm h, ih]
    · by_cases h2 : i = j
      · subst h2; simp [h1, Tab.get]
      · simp [h1, h2, Tab.get, ih]

section
variable [DecidableEq α]

/-- A read after a write of the same key gives the value written. -/
@[simp] theorem Tab.get_set_same (d : Nat → α) (t : Tab α) (k : Nat) (v : α) : Tab.get d (Tab.set d t k v) k = v := by
  unfold Tab.set
  split
  · next h => rw [Tab.get_filter_same, h]
  · exact Tab.get_ins_same d t k v

/-- A write leaves every other key alone. -/
theorem Tab.get_set_ne (d : Nat → α) (t : Tab α) {k j : Nat} (v : α) (h : j ≠ k) :
    Tab.get d (Tab.set d t k v) j = Tab.get d t j := by
  unfold Tab.set
  split
  · exact Tab.get_filter_ne d t h
  · exact Tab.get_ins_ne d t v h

theorem Tab.get_set (d : Nat → α) (t : Tab α) (k j : Nat) (v : α) :
    Tab.get d (Tab.set d t k v) j = if j = k then v else Tab.get d t j := by
  split
  · next h => subst h; exact Tab.get_set_same d t j v
  · next h => exact Tab.get_set_ne d t v h

/-- A run of entries leaves every key outside it alone. -/
theorem Tab.get_setList_outside (d : Nat → α) (l : List α) :
    ∀ (t : Tab α) (k j : Nat), j < k ∨ k + l.length ≤ j → Tab.get d (Tab.setList d t k l) j = Tab.get d t j := by
  induction l with
  | nil => intro t k j _; rfl
  | cons v vs ih =>
    intro t k j h
    simp only [List.length_cons] at h
    rw [Tab.setList, ih _ _ _ (by omega), Tab.get_set_ne d t v (by omega)]

/-- A run of entries reads back. -/
theorem Tab.get_setList_inside (d : Nat → α) (l : List α) :
    ∀ (t : Tab α) (k i : Nat) (h : i < l.length), Tab.get d (Tab.setList d t k l) (k + i) = l[i] := by
  induction l with
  | nil => intro t k i h; simp at h
  | cons v vs ih =>
    intro t k i h
    cases i with
    | zero =>
      rw [Tab.setList, Tab.get_setList_outside d vs _ _ _ (by omega)]
      simp
    | succ i =>
      have hi : i < vs.length := by simpa using h
      have e := ih (Tab.set d t k v) (k + 1) i hi
      rw [show k + 1 + i = k + (i + 1) by omega] at e
      simpa [Tab.setList] using e

/-- A run of entries reads back whole. -/
theorem Tab.getList_setList (d : Nat → α) (l : List α) :
    ∀ (t : Tab α) (k : Nat), Tab.getList d (Tab.setList d t k l) k l.length = l := by
  induction l with
  | nil => intro t k; rfl
  | cons v vs ih =>
    intro t k
    simp only [Tab.setList, List.length_cons, Tab.getList]
    rw [ih (Tab.set d t k v) (k + 1), Tab.get_setList_outside d vs _ _ _ (by omega)]
    simp

end

/-! ### The canonical form -/

/-- Every key of `t` lies above `n`. -/
theorem Tab.sorted_cons (i : Nat) (v : α) (t : Tab α) :
    Tab.sorted ((i, v) :: t) = true ↔ (∀ e ∈ t, i < e.1) ∧ Tab.sorted t = true := by
  induction t generalizing i v with
  | nil => simp [Tab.sorted]
  | cons e t ih =>
    obtain ⟨j, w⟩ := e
    simp only [Tab.sorted, Bool.and_eq_true, decide_eq_true_eq, List.mem_cons, forall_eq_or_imp]
    rw [ih]
    constructor
    · rintro ⟨h, h1, h2⟩
      exact ⟨⟨h, fun e he => Nat.lt_trans h (h1 e he)⟩, h1, h2⟩
    · rintro ⟨⟨h, _⟩, h1, h2⟩
      exact ⟨h, h1, h2⟩

theorem Tab.sorted_filter (p : Nat × α → Bool) (t : Tab α) (h : Tab.sorted t = true) :
    Tab.sorted (t.filter p) = true := by
  induction t with
  | nil => exact h
  | cons e t ih =>
    obtain ⟨i, v⟩ := e
    rw [Tab.sorted_cons] at h
    by_cases hp : p (i, v)
    · rw [List.filter_cons_of_pos hp, Tab.sorted_cons]
      exact ⟨fun e he => h.1 e (List.mem_filter.1 he).1, ih h.2⟩
    · rw [List.filter_cons_of_neg hp]
      exact ih h.2

theorem Tab.mem_ins (t : Tab α) (k : Nat) (v : α) (e : Nat × α) (h : e ∈ Tab.ins t k v) : e = (k, v) ∨ e ∈ t := by
  induction t with
  | nil => simpa [Tab.ins] using h
  | cons x t ih =>
    obtain ⟨j, w⟩ := x
    unfold Tab.ins at h
    split at h
    · simpa using h
    · split at h
      · rcases List.mem_cons.1 h with h | h
        · exact .inl h
        · exact .inr (List.mem_cons_of_mem _ h)
      · rcases List.mem_cons.1 h with h | h
        · exact .inr (h ▸ List.mem_cons_self)
        · rcases ih h with h | h
          · exact .inl h
          · exact .inr (List.mem_cons_of_mem _ h)

theorem Tab.sorted_ins (t : Tab α) (k : Nat) (v : α) (h : Tab.sorted t = true) : Tab.sorted (Tab.ins t k v) = true := by
  induction t with
  | nil => rfl
  | cons x t ih =>
    obtain ⟨j, w⟩ := x
    have hs := (Tab.sorted_cons j w t).1 h
    unfold Tab.ins
    split
    · next hk =>
      rw [Tab.sorted_cons]
      refine ⟨fun e he => ?_, h⟩
      rcases List.mem_cons.1 he with rfl | he
      · exact hk
      · exact Nat.lt_trans hk (hs.1 e he)
    · next hk =>
      split
      · next hj =>
        subst hj
        exact (Tab.sorted_cons _ _ _).2 hs
      · next hj =>
        rw [Tab.sorted_cons]
        refine ⟨fun e he => ?_, ih hs.2⟩
        rcases Tab.mem_ins t k v e he with rfl | he
        · show j < k
          omega
        · exact hs.1 e he

section
variable [DecidableEq α]

/-- A write keeps the canonical form. -/
theorem Tab.wf_set (d : Nat → α) (t : Tab α) (k : Nat) (v : α) (h : Tab.wf d t = true) : Tab.wf d (Tab.set d t k v) = true := by
  simp only [Tab.wf, Bool.and_eq_true, List.all_eq_true, decide_eq_true_eq] at h ⊢
  unfold Tab.set
  split
  · exact ⟨Tab.sorted_filter _ t h.1, fun e he => h.2 e (List.mem_filter.1 he).1⟩
  · next hv =>
    refine ⟨Tab.sorted_ins t k v h.1, fun e he => ?_⟩
    rcases Tab.mem_ins t k v e he with rfl | he
    · exact hv
    · exact h.2 e he

/-- A run of entries keeps the canonical form. -/
theorem Tab.wf_setList (d : Nat → α) (l : List α) :
    ∀ (t : Tab α) (k : Nat), Tab.wf d t = true → Tab.wf d (Tab.setList d t k l) = true := by
  induction l with
  | nil => intro t k h; exact h
  | cons v vs ih => intro t k h; exact ih _ _ (Tab.wf_set d t k v h)

/-- Clearing keys keeps the canonical form. -/
theorem Tab.wf_filter (d : Nat → α) (p : Nat × α → Bool) (t : Tab α) (h : Tab.wf d t = true) : Tab.wf d (t.filter p) = true := by
  simp only [Tab.wf, Bool.and_eq_true, List.all_eq_true, decide_eq_true_eq] at h ⊢
  exact ⟨Tab.sorted_filter p t h.1, fun e he => h.2 e (List.mem_filter.1 he).1⟩

end

end Sys2Proof
end

