-- ==== Sys2Proof/Laws/State.lean ====
section
/-! SUPPORT. What each update of the state leaves alone: one lemma per field and update, true by rfl; and the read after
the write of the field it changes. -/

namespace Sys2Proof.Machine

/-! wr -/
@[simp] theorem State.wr_pending (s : State) (p off : Nat) (v : W32) (w : Nat) : (s.wr p off v w).pending = s.pending := rfl
@[simp] theorem State.wr_nonce (s : State) (p off : Nat) (v : W32) (w : Nat) : (s.wr p off v w).nonce = s.nonce := rfl
@[simp] theorem State.wr_resp (s : State) (p off : Nat) (v : W32) (w : Nat) : (s.wr p off v w).resp = s.resp := rfl
@[simp] theorem State.wr_ctrs (s : State) (p off : Nat) (v : W32) (w : Nat) : (s.wr p off v w).ctrs = s.ctrs := rfl
@[simp] theorem State.wr_snaps (s : State) (p off : Nat) (v : W32) (w : Nat) : (s.wr p off v w).snaps = s.snaps := rfl
@[simp] theorem State.wr_clatch (s : State) (p off : Nat) (v : W32) (w : Nat) : (s.wr p off v w).clatch = s.clatch := rfl
@[simp] theorem State.wr_bank (s : State) (p off : Nat) (v : W32) (w : Nat) : (s.wr p off v w).bank = s.bank := rfl
@[simp] theorem State.wr_time (s : State) (p off : Nat) (v : W32) (w : Nat) : (s.wr p off v w).time = s.time := rfl
@[simp] theorem State.wr_irq (s : State) (p off : Nat) (v : W32) (w : Nat) : (s.wr p off v w).irq = s.irq := rfl
@[simp] theorem State.wr_hub (s : State) (p off : Nat) (v : W32) (w : Nat) : (s.wr p off v w).hub = s.hub := rfl
@[simp] theorem State.wr_tick (s : State) (p off : Nat) (v : W32) (w : Nat) : (s.wr p off v w).tick = s.tick := rfl
@[simp] theorem State.wr_buf (s : State) (p off : Nat) (v : W32) (w : Nat) : (s.wr p off v w).buf = s.buf := rfl
@[simp] theorem State.wr_core (s : State) (p off : Nat) (v : W32) (w : Nat) : (s.wr p off v w).core = s.core := rfl
@[simp] theorem State.wr_queue (s : State) (p off : Nat) (v : W32) (w : Nat) : (s.wr p off v w).queue = s.queue := rfl
@[simp] theorem State.wr_bridge (s : State) (p off : Nat) (v : W32) (w : Nat) : (s.wr p off v w).bridge = s.bridge := rfl
@[simp] theorem State.wr_mirror (s : State) (p off : Nat) (v : W32) (w : Nat) : (s.wr p off v w).mirror = s.mirror := rfl
@[simp] theorem State.wr_gate (s : State) (p off : Nat) (v : W32) (w : Nat) : (s.wr p off v w).gate = s.gate := rfl
@[simp] theorem State.wr_sched (s : State) (p off : Nat) (v : W32) (w : Nat) : (s.wr p off v w).sched = s.sched := rfl
@[simp] theorem State.wr_team (s : State) (p off : Nat) (v : W32) (w : Nat) : (s.wr p off v w).team = s.team := rfl
@[simp] theorem State.wr_tabs (s : State) (p off : Nat) (v : W32) (w : Nat) : (s.wr p off v w).tabs = s.tabs := rfl
@[simp] theorem State.wr_fdb (s : State) (p off : Nat) (v : W32) (w : Nat) : (s.wr p off v w).fdb = s.fdb := rfl
@[simp] theorem State.wr_sig (s : State) (p off : Nat) (v : W32) (w : Nat) : (s.wr p off v w).sig = s.sig := rfl
@[simp] theorem State.wr_swap (s : State) (p off : Nat) (v : W32) (w : Nat) : (s.wr p off v w).swap = s.swap := rfl
@[simp] theorem State.wr_failLog (s : State) (p off : Nat) (v : W32) (w : Nat) : (s.wr p off v w).failLog = s.failLog := rfl
@[simp] theorem State.wr_mar (s : State) (p off : Nat) (v : W32) (w : Nat) : (s.wr p off v w).mar = s.mar := rfl
@[simp] theorem State.wr_image (s : State) (p off : Nat) (v : W32) (w : Nat) : (s.wr p off v w).image = s.image := rfl
@[simp] theorem State.wr_link (s : State) (p off : Nat) (v : W32) (w : Nat) : (s.wr p off v w).link = s.link := rfl
@[simp] theorem State.wr_rx (s : State) (p off : Nat) (v : W32) (w : Nat) : (s.wr p off v w).rx = s.rx := rfl
@[simp] theorem State.wr_tx (s : State) (p off : Nat) (v : W32) (w : Nat) : (s.wr p off v w).tx = s.tx := rfl
@[simp] theorem State.wr_mdio (s : State) (p off : Nat) (v : W32) (w : Nat) : (s.wr p off v w).mdio = s.mdio := rfl
@[simp] theorem State.wr_ciph (s : State) (p off : Nat) (v : W32) (w : Nat) : (s.wr p off v w).ciph = s.ciph := rfl
@[simp] theorem State.wr_chan (s : State) (p off : Nat) (v : W32) (w : Nat) : (s.wr p off v w).chan = s.chan := rfl
@[simp] theorem State.wr_half (s : State) (p off : Nat) (v : W32) (w : Nat) : (s.wr p off v w).half = s.half := rfl
@[simp] theorem State.wr_phy (s : State) (p off : Nat) (v : W32) (w : Nat) : (s.wr p off v w).phy = s.phy := rfl
@[simp] theorem State.wr_dom (s : State) (p off : Nat) (v : W32) (w : Nat) : (s.wr p off v w).dom = s.dom := rfl
@[simp] theorem State.wr_dev (s : State) (p off : Nat) (v : W32) (w : Nat) : (s.wr p off v w).dev = s.dev := rfl
@[simp] theorem State.wr_sag (s : State) (p off : Nat) (v : W32) (w : Nat) : (s.wr p off v w).sag = s.sag := rfl
@[simp] theorem State.wr_lehr (s : State) (p off : Nat) (v : W32) (w : Nat) : (s.wr p off v w).lehr = s.lehr := rfl
@[simp] theorem State.wr_boot (s : State) (p off : Nat) (v : W32) (w : Nat) : (s.wr p off v w).boot = s.boot := rfl
@[simp] theorem State.wr_fuse (s : State) (p off : Nat) (v : W32) (w : Nat) : (s.wr p off v w).fuse = s.fuse := rfl
@[simp] theorem State.wr_flash (s : State) (p off : Nat) (v : W32) (w : Nat) : (s.wr p off v w).flash = s.flash := rfl
@[simp] theorem State.wr_hostMem (s : State) (p off : Nat) (v : W32) (w : Nat) : (s.wr p off v w).hostMem = s.hostMem := rfl
@[simp] theorem State.wr_pins (s : State) (p off : Nat) (v : W32) (w : Nat) : (s.wr p off v w).pins = s.pins := rfl
@[simp] theorem State.wr_pcie (s : State) (p off : Nat) (v : W32) (w : Nat) : (s.wr p off v w).pcie = s.pcie := rfl
@[simp] theorem State.wr_ring (s : State) (p off : Nat) (v : W32) (w : Nat) : (s.wr p off v w).ring = s.ring := rfl
@[simp] theorem State.wr_vlatch (s : State) (p off : Nat) (v : W32) (w : Nat) : (s.wr p off v w).vlatch = s.vlatch := rfl

/-! setFld -/
@[simp] theorem State.setFld_pending (s : State) (p : Nat) (f : Fld) (v w : Nat) : (s.setFld p f v w).pending = s.pending := rfl
@[simp] theorem State.setFld_nonce (s : State) (p : Nat) (f : Fld) (v w : Nat) : (s.setFld p f v w).nonce = s.nonce := rfl
@[simp] theorem State.setFld_resp (s : State) (p : Nat) (f : Fld) (v w : Nat) : (s.setFld p f v w).resp = s.resp := rfl
@[simp] theorem State.setFld_ctrs (s : State) (p : Nat) (f : Fld) (v w : Nat) : (s.setFld p f v w).ctrs = s.ctrs := rfl
@[simp] theorem State.setFld_snaps (s : State) (p : Nat) (f : Fld) (v w : Nat) : (s.setFld p f v w).snaps = s.snaps := rfl
@[simp] theorem State.setFld_clatch (s : State) (p : Nat) (f : Fld) (v w : Nat) : (s.setFld p f v w).clatch = s.clatch := rfl
@[simp] theorem State.setFld_bank (s : State) (p : Nat) (f : Fld) (v w : Nat) : (s.setFld p f v w).bank = s.bank := rfl
@[simp] theorem State.setFld_time (s : State) (p : Nat) (f : Fld) (v w : Nat) : (s.setFld p f v w).time = s.time := rfl
@[simp] theorem State.setFld_irq (s : State) (p : Nat) (f : Fld) (v w : Nat) : (s.setFld p f v w).irq = s.irq := rfl
@[simp] theorem State.setFld_hub (s : State) (p : Nat) (f : Fld) (v w : Nat) : (s.setFld p f v w).hub = s.hub := rfl
@[simp] theorem State.setFld_tick (s : State) (p : Nat) (f : Fld) (v w : Nat) : (s.setFld p f v w).tick = s.tick := rfl
@[simp] theorem State.setFld_buf (s : State) (p : Nat) (f : Fld) (v w : Nat) : (s.setFld p f v w).buf = s.buf := rfl
@[simp] theorem State.setFld_core (s : State) (p : Nat) (f : Fld) (v w : Nat) : (s.setFld p f v w).core = s.core := rfl
@[simp] theorem State.setFld_queue (s : State) (p : Nat) (f : Fld) (v w : Nat) : (s.setFld p f v w).queue = s.queue := rfl
@[simp] theorem State.setFld_bridge (s : State) (p : Nat) (f : Fld) (v w : Nat) : (s.setFld p f v w).bridge = s.bridge := rfl
@[simp] theorem State.setFld_mirror (s : State) (p : Nat) (f : Fld) (v w : Nat) : (s.setFld p f v w).mirror = s.mirror := rfl
@[simp] theorem State.setFld_gate (s : State) (p : Nat) (f : Fld) (v w : Nat) : (s.setFld p f v w).gate = s.gate := rfl
@[simp] theorem State.setFld_sched (s : State) (p : Nat) (f : Fld) (v w : Nat) : (s.setFld p f v w).sched = s.sched := rfl
@[simp] theorem State.setFld_team (s : State) (p : Nat) (f : Fld) (v w : Nat) : (s.setFld p f v w).team = s.team := rfl
@[simp] theorem State.setFld_tabs (s : State) (p : Nat) (f : Fld) (v w : Nat) : (s.setFld p f v w).tabs = s.tabs := rfl
@[simp] theorem State.setFld_fdb (s : State) (p : Nat) (f : Fld) (v w : Nat) : (s.setFld p f v w).fdb = s.fdb := rfl
@[simp] theorem State.setFld_sig (s : State) (p : Nat) (f : Fld) (v w : Nat) : (s.setFld p f v w).sig = s.sig := rfl
@[simp] theorem State.setFld_swap (s : State) (p : Nat) (f : Fld) (v w : Nat) : (s.setFld p f v w).swap = s.swap := rfl
@[simp] theorem State.setFld_failLog (s : State) (p : Nat) (f : Fld) (v w : Nat) : (s.setFld p f v w).failLog = s.failLog := rfl
@[simp] theorem State.setFld_mar (s : State) (p : Nat) (f : Fld) (v w : Nat) : (s.setFld p f v w).mar = s.mar := rfl
@[simp] theorem State.setFld_image (s : State) (p : Nat) (f : Fld) (v w : Nat) : (s.setFld p f v w).image = s.image := rfl
@[simp] theorem State.setFld_link (s : State) (p : Nat) (f : Fld) (v w : Nat) : (s.setFld p f v w).link = s.link := rfl
@[simp] theorem State.setFld_rx (s : State) (p : Nat) (f : Fld) (v w : Nat) : (s.setFld p f v w).rx = s.rx := rfl
@[simp] theorem State.setFld_tx (s : State) (p : Nat) (f : Fld) (v w : Nat) : (s.setFld p f v w).tx = s.tx := rfl
@[simp] theorem State.setFld_mdio (s : State) (p : Nat) (f : Fld) (v w : Nat) : (s.setFld p f v w).mdio = s.mdio := rfl
@[simp] theorem State.setFld_ciph (s : State) (p : Nat) (f : Fld) (v w : Nat) : (s.setFld p f v w).ciph = s.ciph := rfl
@[simp] theorem State.setFld_chan (s : State) (p : Nat) (f : Fld) (v w : Nat) : (s.setFld p f v w).chan = s.chan := rfl
@[simp] theorem State.setFld_half (s : State) (p : Nat) (f : Fld) (v w : Nat) : (s.setFld p f v w).half = s.half := rfl
@[simp] theorem State.setFld_phy (s : State) (p : Nat) (f : Fld) (v w : Nat) : (s.setFld p f v w).phy = s.phy := rfl
@[simp] theorem State.setFld_dom (s : State) (p : Nat) (f : Fld) (v w : Nat) : (s.setFld p f v w).dom = s.dom := rfl
@[simp] theorem State.setFld_dev (s : State) (p : Nat) (f : Fld) (v w : Nat) : (s.setFld p f v w).dev = s.dev := rfl
@[simp] theorem State.setFld_sag (s : State) (p : Nat) (f : Fld) (v w : Nat) : (s.setFld p f v w).sag = s.sag := rfl
@[simp] theorem State.setFld_lehr (s : State) (p : Nat) (f : Fld) (v w : Nat) : (s.setFld p f v w).lehr = s.lehr := rfl
@[simp] theorem State.setFld_boot (s : State) (p : Nat) (f : Fld) (v w : Nat) : (s.setFld p f v w).boot = s.boot := rfl
@[simp] theorem State.setFld_fuse (s : State) (p : Nat) (f : Fld) (v w : Nat) : (s.setFld p f v w).fuse = s.fuse := rfl
@[simp] theorem State.setFld_flash (s : State) (p : Nat) (f : Fld) (v w : Nat) : (s.setFld p f v w).flash = s.flash := rfl
@[simp] theorem State.setFld_hostMem (s : State) (p : Nat) (f : Fld) (v w : Nat) : (s.setFld p f v w).hostMem = s.hostMem := rfl
@[simp] theorem State.setFld_pins (s : State) (p : Nat) (f : Fld) (v w : Nat) : (s.setFld p f v w).pins = s.pins := rfl
@[simp] theorem State.setFld_pcie (s : State) (p : Nat) (f : Fld) (v w : Nat) : (s.setFld p f v w).pcie = s.pcie := rfl
@[simp] theorem State.setFld_ring (s : State) (p : Nat) (f : Fld) (v w : Nat) : (s.setFld p f v w).ring = s.ring := rfl
@[simp] theorem State.setFld_vlatch (s : State) (p : Nat) (f : Fld) (v w : Nat) : (s.setFld p f v w).vlatch = s.vlatch := rfl

/-! raise -/
@[simp] theorem State.raise_pending (s : State) (p i : Nat) : (s.raise p i).pending = s.pending := rfl
@[simp] theorem State.raise_nonce (s : State) (p i : Nat) : (s.raise p i).nonce = s.nonce := rfl
@[simp] theorem State.raise_resp (s : State) (p i : Nat) : (s.raise p i).resp = s.resp := rfl
@[simp] theorem State.raise_ctrs (s : State) (p i : Nat) : (s.raise p i).ctrs = s.ctrs := rfl
@[simp] theorem State.raise_snaps (s : State) (p i : Nat) : (s.raise p i).snaps = s.snaps := rfl
@[simp] theorem State.raise_clatch (s : State) (p i : Nat) : (s.raise p i).clatch = s.clatch := rfl
@[simp] theorem State.raise_bank (s : State) (p i : Nat) : (s.raise p i).bank = s.bank := rfl
@[simp] theorem State.raise_time (s : State) (p i : Nat) : (s.raise p i).time = s.time := rfl
@[simp] theorem State.raise_irq (s : State) (p i : Nat) : (s.raise p i).irq = s.irq := rfl
@[simp] theorem State.raise_hub (s : State) (p i : Nat) : (s.raise p i).hub = s.hub := rfl
@[simp] theorem State.raise_tick (s : State) (p i : Nat) : (s.raise p i).tick = s.tick := rfl
@[simp] theorem State.raise_buf (s : State) (p i : Nat) : (s.raise p i).buf = s.buf := rfl
@[simp] theorem State.raise_core (s : State) (p i : Nat) : (s.raise p i).core = s.core := rfl
@[simp] theorem State.raise_queue (s : State) (p i : Nat) : (s.raise p i).queue = s.queue := rfl
@[simp] theorem State.raise_bridge (s : State) (p i : Nat) : (s.raise p i).bridge = s.bridge := rfl
@[simp] theorem State.raise_mirror (s : State) (p i : Nat) : (s.raise p i).mirror = s.mirror := rfl
@[simp] theorem State.raise_gate (s : State) (p i : Nat) : (s.raise p i).gate = s.gate := rfl
@[simp] theorem State.raise_sched (s : State) (p i : Nat) : (s.raise p i).sched = s.sched := rfl
@[simp] theorem State.raise_team (s : State) (p i : Nat) : (s.raise p i).team = s.team := rfl
@[simp] theorem State.raise_tabs (s : State) (p i : Nat) : (s.raise p i).tabs = s.tabs := rfl
@[simp] theorem State.raise_fdb (s : State) (p i : Nat) : (s.raise p i).fdb = s.fdb := rfl
@[simp] theorem State.raise_sig (s : State) (p i : Nat) : (s.raise p i).sig = s.sig := rfl
@[simp] theorem State.raise_swap (s : State) (p i : Nat) : (s.raise p i).swap = s.swap := rfl
@[simp] theorem State.raise_failLog (s : State) (p i : Nat) : (s.raise p i).failLog = s.failLog := rfl
@[simp] theorem State.raise_mar (s : State) (p i : Nat) : (s.raise p i).mar = s.mar := rfl
@[simp] theorem State.raise_image (s : State) (p i : Nat) : (s.raise p i).image = s.image := rfl
@[simp] theorem State.raise_link (s : State) (p i : Nat) : (s.raise p i).link = s.link := rfl
@[simp] theorem State.raise_rx (s : State) (p i : Nat) : (s.raise p i).rx = s.rx := rfl
@[simp] theorem State.raise_tx (s : State) (p i : Nat) : (s.raise p i).tx = s.tx := rfl
@[simp] theorem State.raise_mdio (s : State) (p i : Nat) : (s.raise p i).mdio = s.mdio := rfl
@[simp] theorem State.raise_ciph (s : State) (p i : Nat) : (s.raise p i).ciph = s.ciph := rfl
@[simp] theorem State.raise_chan (s : State) (p i : Nat) : (s.raise p i).chan = s.chan := rfl
@[simp] theorem State.raise_half (s : State) (p i : Nat) : (s.raise p i).half = s.half := rfl
@[simp] theorem State.raise_phy (s : State) (p i : Nat) : (s.raise p i).phy = s.phy := rfl
@[simp] theorem State.raise_dom (s : State) (p i : Nat) : (s.raise p i).dom = s.dom := rfl
@[simp] theorem State.raise_dev (s : State) (p i : Nat) : (s.raise p i).dev = s.dev := rfl
@[simp] theorem State.raise_sag (s : State) (p i : Nat) : (s.raise p i).sag = s.sag := rfl
@[simp] theorem State.raise_lehr (s : State) (p i : Nat) : (s.raise p i).lehr = s.lehr := rfl
@[simp] theorem State.raise_boot (s : State) (p i : Nat) : (s.raise p i).boot = s.boot := rfl
@[simp] theorem State.raise_fuse (s : State) (p i : Nat) : (s.raise p i).fuse = s.fuse := rfl
@[simp] theorem State.raise_flash (s : State) (p i : Nat) : (s.raise p i).flash = s.flash := rfl
@[simp] theorem State.raise_hostMem (s : State) (p i : Nat) : (s.raise p i).hostMem = s.hostMem := rfl
@[simp] theorem State.raise_pins (s : State) (p i : Nat) : (s.raise p i).pins = s.pins := rfl
@[simp] theorem State.raise_pcie (s : State) (p i : Nat) : (s.raise p i).pcie = s.pcie := rfl
@[simp] theorem State.raise_ring (s : State) (p i : Nat) : (s.raise p i).ring = s.ring := rfl
@[simp] theorem State.raise_vlatch (s : State) (p i : Nat) : (s.raise p i).vlatch = s.vlatch := rfl

/-! addCtr -/
@[simp] theorem State.addCtr_pending (s : State) (p off n w : Nat) : (s.addCtr p off n w).pending = s.pending := rfl
@[simp] theorem State.addCtr_nonce (s : State) (p off n w : Nat) : (s.addCtr p off n w).nonce = s.nonce := rfl
@[simp] theorem State.addCtr_resp (s : State) (p off n w : Nat) : (s.addCtr p off n w).resp = s.resp := rfl
@[simp] theorem State.addCtr_regs (s : State) (p off n w : Nat) : (s.addCtr p off n w).regs = s.regs := rfl
@[simp] theorem State.addCtr_snaps (s : State) (p off n w : Nat) : (s.addCtr p off n w).snaps = s.snaps := rfl
@[simp] theorem State.addCtr_clatch (s : State) (p off n w : Nat) : (s.addCtr p off n w).clatch = s.clatch := rfl
@[simp] theorem State.addCtr_bank (s : State) (p off n w : Nat) : (s.addCtr p off n w).bank = s.bank := rfl
@[simp] theorem State.addCtr_time (s : State) (p off n w : Nat) : (s.addCtr p off n w).time = s.time := rfl
@[simp] theorem State.addCtr_irq (s : State) (p off n w : Nat) : (s.addCtr p off n w).irq = s.irq := rfl
@[simp] theorem State.addCtr_hub (s : State) (p off n w : Nat) : (s.addCtr p off n w).hub = s.hub := rfl
@[simp] theorem State.addCtr_tick (s : State) (p off n w : Nat) : (s.addCtr p off n w).tick = s.tick := rfl
@[simp] theorem State.addCtr_buf (s : State) (p off n w : Nat) : (s.addCtr p off n w).buf = s.buf := rfl
@[simp] theorem State.addCtr_core (s : State) (p off n w : Nat) : (s.addCtr p off n w).core = s.core := rfl
@[simp] theorem State.addCtr_queue (s : State) (p off n w : Nat) : (s.addCtr p off n w).queue = s.queue := rfl
@[simp] theorem State.addCtr_bridge (s : State) (p off n w : Nat) : (s.addCtr p off n w).bridge = s.bridge := rfl
@[simp] theorem State.addCtr_mirror (s : State) (p off n w : Nat) : (s.addCtr p off n w).mirror = s.mirror := rfl
@[simp] theorem State.addCtr_gate (s : State) (p off n w : Nat) : (s.addCtr p off n w).gate = s.gate := rfl
@[simp] theorem State.addCtr_sched (s : State) (p off n w : Nat) : (s.addCtr p off n w).sched = s.sched := rfl
@[simp] theorem State.addCtr_team (s : State) (p off n w : Nat) : (s.addCtr p off n w).team = s.team := rfl
@[simp] theorem State.addCtr_tabs (s : State) (p off n w : Nat) : (s.addCtr p off n w).tabs = s.tabs := rfl
@[simp] theorem State.addCtr_fdb (s : State) (p off n w : Nat) : (s.addCtr p off n w).fdb = s.fdb := rfl
@[simp] theorem State.addCtr_sig (s : State) (p off n w : Nat) : (s.addCtr p off n w).sig = s.sig := rfl
@[simp] theorem State.addCtr_swap (s : State) (p off n w : Nat) : (s.addCtr p off n w).swap = s.swap := rfl
@[simp] theorem State.addCtr_failLog (s : State) (p off n w : Nat) : (s.addCtr p off n w).failLog = s.failLog := rfl
@[simp] theorem State.addCtr_mar (s : State) (p off n w : Nat) : (s.addCtr p off n w).mar = s.mar := rfl
@[simp] theorem State.addCtr_image (s : State) (p off n w : Nat) : (s.addCtr p off n w).image = s.image := rfl
@[simp] theorem State.addCtr_link (s : State) (p off n w : Nat) : (s.addCtr p off n w).link = s.link := rfl
@[simp] theorem State.addCtr_rx (s : State) (p off n w : Nat) : (s.addCtr p off n w).rx = s.rx := rfl
@[simp] theorem State.addCtr_tx (s : State) (p off n w : Nat) : (s.addCtr p off n w).tx = s.tx := rfl
@[simp] theorem State.addCtr_mdio (s : State) (p off n w : Nat) : (s.addCtr p off n w).mdio = s.mdio := rfl
@[simp] theorem State.addCtr_ciph (s : State) (p off n w : Nat) : (s.addCtr p off n w).ciph = s.ciph := rfl
@[simp] theorem State.addCtr_chan (s : State) (p off n w : Nat) : (s.addCtr p off n w).chan = s.chan := rfl
@[simp] theorem State.addCtr_half (s : State) (p off n w : Nat) : (s.addCtr p off n w).half = s.half := rfl
@[simp] theorem State.addCtr_phy (s : State) (p off n w : Nat) : (s.addCtr p off n w).phy = s.phy := rfl
@[simp] theorem State.addCtr_dom (s : State) (p off n w : Nat) : (s.addCtr p off n w).dom = s.dom := rfl
@[simp] theorem State.addCtr_dev (s : State) (p off n w : Nat) : (s.addCtr p off n w).dev = s.dev := rfl
@[simp] theorem State.addCtr_sag (s : State) (p off n w : Nat) : (s.addCtr p off n w).sag = s.sag := rfl
@[simp] theorem State.addCtr_lehr (s : State) (p off n w : Nat) : (s.addCtr p off n w).lehr = s.lehr := rfl
@[simp] theorem State.addCtr_boot (s : State) (p off n w : Nat) : (s.addCtr p off n w).boot = s.boot := rfl
@[simp] theorem State.addCtr_fuse (s : State) (p off n w : Nat) : (s.addCtr p off n w).fuse = s.fuse := rfl
@[simp] theorem State.addCtr_flash (s : State) (p off n w : Nat) : (s.addCtr p off n w).flash = s.flash := rfl
@[simp] theorem State.addCtr_hostMem (s : State) (p off n w : Nat) : (s.addCtr p off n w).hostMem = s.hostMem := rfl
@[simp] theorem State.addCtr_pins (s : State) (p off n w : Nat) : (s.addCtr p off n w).pins = s.pins := rfl
@[simp] theorem State.addCtr_pcie (s : State) (p off n w : Nat) : (s.addCtr p off n w).pcie = s.pcie := rfl
@[simp] theorem State.addCtr_ring (s : State) (p off n w : Nat) : (s.addCtr p off n w).ring = s.ring := rfl
@[simp] theorem State.addCtr_vlatch (s : State) (p off n w : Nat) : (s.addCtr p off n w).vlatch = s.vlatch := rfl

/-! bump -/
@[simp] theorem State.bump_pending (s : State) (p off w : Nat) : (s.bump p off w).pending = s.pending := rfl
@[simp] theorem State.bump_nonce (s : State) (p off w : Nat) : (s.bump p off w).nonce = s.nonce := rfl
@[simp] theorem State.bump_resp (s : State) (p off w : Nat) : (s.bump p off w).resp = s.resp := rfl
@[simp] theorem State.bump_regs (s : State) (p off w : Nat) : (s.bump p off w).regs = s.regs := rfl
@[simp] theorem State.bump_snaps (s : State) (p off w : Nat) : (s.bump p off w).snaps = s.snaps := rfl
@[simp] theorem State.bump_clatch (s : State) (p off w : Nat) : (s.bump p off w).clatch = s.clatch := rfl
@[simp] theorem State.bump_bank (s : State) (p off w : Nat) : (s.bump p off w).bank = s.bank := rfl
@[simp] theorem State.bump_time (s : State) (p off w : Nat) : (s.bump p off w).time = s.time := rfl
@[simp] theorem State.bump_irq (s : State) (p off w : Nat) : (s.bump p off w).irq = s.irq := rfl
@[simp] theorem State.bump_hub (s : State) (p off w : Nat) : (s.bump p off w).hub = s.hub := rfl
@[simp] theorem State.bump_tick (s : State) (p off w : Nat) : (s.bump p off w).tick = s.tick := rfl
@[simp] theorem State.bump_buf (s : State) (p off w : Nat) : (s.bump p off w).buf = s.buf := rfl
@[simp] theorem State.bump_core (s : State) (p off w : Nat) : (s.bump p off w).core = s.core := rfl
@[simp] theorem State.bump_queue (s : State) (p off w : Nat) : (s.bump p off w).queue = s.queue := rfl
@[simp] theorem State.bump_bridge (s : State) (p off w : Nat) : (s.bump p off w).bridge = s.bridge := rfl
@[simp] theorem State.bump_mirror (s : State) (p off w : Nat) : (s.bump p off w).mirror = s.mirror := rfl
@[simp] theorem State.bump_gate (s : State) (p off w : Nat) : (s.bump p off w).gate = s.gate := rfl
@[simp] theorem State.bump_sched (s : State) (p off w : Nat) : (s.bump p off w).sched = s.sched := rfl
@[simp] theorem State.bump_team (s : State) (p off w : Nat) : (s.bump p off w).team = s.team := rfl
@[simp] theorem State.bump_tabs (s : State) (p off w : Nat) : (s.bump p off w).tabs = s.tabs := rfl
@[simp] theorem State.bump_fdb (s : State) (p off w : Nat) : (s.bump p off w).fdb = s.fdb := rfl
@[simp] theorem State.bump_sig (s : State) (p off w : Nat) : (s.bump p off w).sig = s.sig := rfl
@[simp] theorem State.bump_swap (s : State) (p off w : Nat) : (s.bump p off w).swap = s.swap := rfl
@[simp] theorem State.bump_failLog (s : State) (p off w : Nat) : (s.bump p off w).failLog = s.failLog := rfl
@[simp] theorem State.bump_mar (s : State) (p off w : Nat) : (s.bump p off w).mar = s.mar := rfl
@[simp] theorem State.bump_image (s : State) (p off w : Nat) : (s.bump p off w).image = s.image := rfl
@[simp] theorem State.bump_link (s : State) (p off w : Nat) : (s.bump p off w).link = s.link := rfl
@[simp] theorem State.bump_rx (s : State) (p off w : Nat) : (s.bump p off w).rx = s.rx := rfl
@[simp] theorem State.bump_tx (s : State) (p off w : Nat) : (s.bump p off w).tx = s.tx := rfl
@[simp] theorem State.bump_mdio (s : State) (p off w : Nat) : (s.bump p off w).mdio = s.mdio := rfl
@[simp] theorem State.bump_ciph (s : State) (p off w : Nat) : (s.bump p off w).ciph = s.ciph := rfl
@[simp] theorem State.bump_chan (s : State) (p off w : Nat) : (s.bump p off w).chan = s.chan := rfl
@[simp] theorem State.bump_half (s : State) (p off w : Nat) : (s.bump p off w).half = s.half := rfl
@[simp] theorem State.bump_phy (s : State) (p off w : Nat) : (s.bump p off w).phy = s.phy := rfl
@[simp] theorem State.bump_dom (s : State) (p off w : Nat) : (s.bump p off w).dom = s.dom := rfl
@[simp] theorem State.bump_dev (s : State) (p off w : Nat) : (s.bump p off w).dev = s.dev := rfl
@[simp] theorem State.bump_sag (s : State) (p off w : Nat) : (s.bump p off w).sag = s.sag := rfl
@[simp] theorem State.bump_lehr (s : State) (p off w : Nat) : (s.bump p off w).lehr = s.lehr := rfl
@[simp] theorem State.bump_boot (s : State) (p off w : Nat) : (s.bump p off w).boot = s.boot := rfl
@[simp] theorem State.bump_fuse (s : State) (p off w : Nat) : (s.bump p off w).fuse = s.fuse := rfl
@[simp] theorem State.bump_flash (s : State) (p off w : Nat) : (s.bump p off w).flash = s.flash := rfl
@[simp] theorem State.bump_hostMem (s : State) (p off w : Nat) : (s.bump p off w).hostMem = s.hostMem := rfl
@[simp] theorem State.bump_pins (s : State) (p off w : Nat) : (s.bump p off w).pins = s.pins := rfl
@[simp] theorem State.bump_pcie (s : State) (p off w : Nat) : (s.bump p off w).pcie = s.pcie := rfl
@[simp] theorem State.bump_ring (s : State) (p off w : Nat) : (s.bump p off w).ring = s.ring := rfl
@[simp] theorem State.bump_vlatch (s : State) (p off w : Nat) : (s.bump p off w).vlatch = s.vlatch := rfl

/-! putCore -/
@[simp] theorem State.putCore_pending (s : State) (k : Nat) (v : CoreSt) : (s.putCore k v).pending = s.pending := rfl
@[simp] theorem State.putCore_nonce (s : State) (k : Nat) (v : CoreSt) : (s.putCore k v).nonce = s.nonce := rfl
@[simp] theorem State.putCore_resp (s : State) (k : Nat) (v : CoreSt) : (s.putCore k v).resp = s.resp := rfl
@[simp] theorem State.putCore_regs (s : State) (k : Nat) (v : CoreSt) : (s.putCore k v).regs = s.regs := rfl
@[simp] theorem State.putCore_ctrs (s : State) (k : Nat) (v : CoreSt) : (s.putCore k v).ctrs = s.ctrs := rfl
@[simp] theorem State.putCore_snaps (s : State) (k : Nat) (v : CoreSt) : (s.putCore k v).snaps = s.snaps := rfl
@[simp] theorem State.putCore_clatch (s : State) (k : Nat) (v : CoreSt) : (s.putCore k v).clatch = s.clatch := rfl
@[simp] theorem State.putCore_bank (s : State) (k : Nat) (v : CoreSt) : (s.putCore k v).bank = s.bank := rfl
@[simp] theorem State.putCore_time (s : State) (k : Nat) (v : CoreSt) : (s.putCore k v).time = s.time := rfl
@[simp] theorem State.putCore_irq (s : State) (k : Nat) (v : CoreSt) : (s.putCore k v).irq = s.irq := rfl
@[simp] theorem State.putCore_hub (s : State) (k : Nat) (v : CoreSt) : (s.putCore k v).hub = s.hub := rfl
@[simp] theorem State.putCore_tick (s : State) (k : Nat) (v : CoreSt) : (s.putCore k v).tick = s.tick := rfl
@[simp] theorem State.putCore_buf (s : State) (k : Nat) (v : CoreSt) : (s.putCore k v).buf = s.buf := rfl
@[simp] theorem State.putCore_queue (s : State) (k : Nat) (v : CoreSt) : (s.putCore k v).queue = s.queue := rfl
@[simp] theorem State.putCore_bridge (s : State) (k : Nat) (v : CoreSt) : (s.putCore k v).bridge = s.bridge := rfl
@[simp] theorem State.putCore_mirror (s : State) (k : Nat) (v : CoreSt) : (s.putCore k v).mirror = s.mirror := rfl
@[simp] theorem State.putCore_gate (s : State) (k : Nat) (v : CoreSt) : (s.putCore k v).gate = s.gate := rfl
@[simp] theorem State.putCore_sched (s : State) (k : Nat) (v : CoreSt) : (s.putCore k v).sched = s.sched := rfl
@[simp] theorem State.putCore_team (s : State) (k : Nat) (v : CoreSt) : (s.putCore k v).team = s.team := rfl
@[simp] theorem State.putCore_tabs (s : State) (k : Nat) (v : CoreSt) : (s.putCore k v).tabs = s.tabs := rfl
@[simp] theorem State.putCore_fdb (s : State) (k : Nat) (v : CoreSt) : (s.putCore k v).fdb = s.fdb := rfl
@[simp] theorem State.putCore_sig (s : State) (k : Nat) (v : CoreSt) : (s.putCore k v).sig = s.sig := rfl
@[simp] theorem State.putCore_swap (s : State) (k : Nat) (v : CoreSt) : (s.putCore k v).swap = s.swap := rfl
@[simp] theorem State.putCore_failLog (s : State) (k : Nat) (v : CoreSt) : (s.putCore k v).failLog = s.failLog := rfl
@[simp] theorem State.putCore_mar (s : State) (k : Nat) (v : CoreSt) : (s.putCore k v).mar = s.mar := rfl
@[simp] theorem State.putCore_image (s : State) (k : Nat) (v : CoreSt) : (s.putCore k v).image = s.image := rfl
@[simp] theorem State.putCore_link (s : State) (k : Nat) (v : CoreSt) : (s.putCore k v).link = s.link := rfl
@[simp] theorem State.putCore_rx (s : State) (k : Nat) (v : CoreSt) : (s.putCore k v).rx = s.rx := rfl
@[simp] theorem State.putCore_tx (s : State) (k : Nat) (v : CoreSt) : (s.putCore k v).tx = s.tx := rfl
@[simp] theorem State.putCore_mdio (s : State) (k : Nat) (v : CoreSt) : (s.putCore k v).mdio = s.mdio := rfl
@[simp] theorem State.putCore_ciph (s : State) (k : Nat) (v : CoreSt) : (s.putCore k v).ciph = s.ciph := rfl
@[simp] theorem State.putCore_chan (s : State) (k : Nat) (v : CoreSt) : (s.putCore k v).chan = s.chan := rfl
@[simp] theorem State.putCore_half (s : State) (k : Nat) (v : CoreSt) : (s.putCore k v).half = s.half := rfl
@[simp] theorem State.putCore_phy (s : State) (k : Nat) (v : CoreSt) : (s.putCore k v).phy = s.phy := rfl
@[simp] theorem State.putCore_dom (s : State) (k : Nat) (v : CoreSt) : (s.putCore k v).dom = s.dom := rfl
@[simp] theorem State.putCore_dev (s : State) (k : Nat) (v : CoreSt) : (s.putCore k v).dev = s.dev := rfl
@[simp] theorem State.putCore_sag (s : State) (k : Nat) (v : CoreSt) : (s.putCore k v).sag = s.sag := rfl
@[simp] theorem State.putCore_lehr (s : State) (k : Nat) (v : CoreSt) : (s.putCore k v).lehr = s.lehr := rfl
@[simp] theorem State.putCore_boot (s : State) (k : Nat) (v : CoreSt) : (s.putCore k v).boot = s.boot := rfl
@[simp] theorem State.putCore_fuse (s : State) (k : Nat) (v : CoreSt) : (s.putCore k v).fuse = s.fuse := rfl
@[simp] theorem State.putCore_flash (s : State) (k : Nat) (v : CoreSt) : (s.putCore k v).flash = s.flash := rfl
@[simp] theorem State.putCore_hostMem (s : State) (k : Nat) (v : CoreSt) : (s.putCore k v).hostMem = s.hostMem := rfl
@[simp] theorem State.putCore_pins (s : State) (k : Nat) (v : CoreSt) : (s.putCore k v).pins = s.pins := rfl
@[simp] theorem State.putCore_pcie (s : State) (k : Nat) (v : CoreSt) : (s.putCore k v).pcie = s.pcie := rfl
@[simp] theorem State.putCore_ring (s : State) (k : Nat) (v : CoreSt) : (s.putCore k v).ring = s.ring := rfl
@[simp] theorem State.putCore_vlatch (s : State) (k : Nat) (v : CoreSt) : (s.putCore k v).vlatch = s.vlatch := rfl

@[simp] theorem State.coreAt_same (s : State) (k : Nat) (v : CoreSt) : (s.putCore k v).coreAt k = v := Tab.get_set_same _ _ _ _
theorem State.coreAt_ne (s : State) {k j : Nat} (v : CoreSt) (h : j ≠ k) : (s.putCore k v).coreAt j = s.coreAt j := Tab.get_set_ne _ _ _ h

/-! putTick -/
@[simp] theorem State.putTick_pending (s : State) (k : Nat) (v : TickSt) : (s.putTick k v).pending = s.pending := rfl
@[simp] theorem State.putTick_nonce (s : State) (k : Nat) (v : TickSt) : (s.putTick k v).nonce = s.nonce := rfl
@[simp] theorem State.putTick_resp (s : State) (k : Nat) (v : TickSt) : (s.putTick k v).resp = s.resp := rfl
@[simp] theorem State.putTick_regs (s : State) (k : Nat) (v : TickSt) : (s.putTick k v).regs = s.regs := rfl
@[simp] theorem State.putTick_ctrs (s : State) (k : Nat) (v : TickSt) : (s.putTick k v).ctrs = s.ctrs := rfl
@[simp] theorem State.putTick_snaps (s : State) (k : Nat) (v : TickSt) : (s.putTick k v).snaps = s.snaps := rfl
@[simp] theorem State.putTick_clatch (s : State) (k : Nat) (v : TickSt) : (s.putTick k v).clatch = s.clatch := rfl
@[simp] theorem State.putTick_bank (s : State) (k : Nat) (v : TickSt) : (s.putTick k v).bank = s.bank := rfl
@[simp] theorem State.putTick_time (s : State) (k : Nat) (v : TickSt) : (s.putTick k v).time = s.time := rfl
@[simp] theorem State.putTick_irq (s : State) (k : Nat) (v : TickSt) : (s.putTick k v).irq = s.irq := rfl
@[simp] theorem State.putTick_hub (s : State) (k : Nat) (v : TickSt) : (s.putTick k v).hub = s.hub := rfl
@[simp] theorem State.putTick_buf (s : State) (k : Nat) (v : TickSt) : (s.putTick k v).buf = s.buf := rfl
@[simp] theorem State.putTick_core (s : State) (k : Nat) (v : TickSt) : (s.putTick k v).core = s.core := rfl
@[simp] theorem State.putTick_queue (s : State) (k : Nat) (v : TickSt) : (s.putTick k v).queue = s.queue := rfl
@[simp] theorem State.putTick_bridge (s : State) (k : Nat) (v : TickSt) : (s.putTick k v).bridge = s.bridge := rfl
@[simp] theorem State.putTick_mirror (s : State) (k : Nat) (v : TickSt) : (s.putTick k v).mirror = s.mirror := rfl
@[simp] theorem State.putTick_gate (s : State) (k : Nat) (v : TickSt) : (s.putTick k v).gate = s.gate := rfl
@[simp] theorem State.putTick_sched (s : State) (k : Nat) (v : TickSt) : (s.putTick k v).sched = s.sched := rfl
@[simp] theorem State.putTick_team (s : State) (k : Nat) (v : TickSt) : (s.putTick k v).team = s.team := rfl
@[simp] theorem State.putTick_tabs (s : State) (k : Nat) (v : TickSt) : (s.putTick k v).tabs = s.tabs := rfl
@[simp] theorem State.putTick_fdb (s : State) (k : Nat) (v : TickSt) : (s.putTick k v).fdb = s.fdb := rfl
@[simp] theorem State.putTick_sig (s : State) (k : Nat) (v : TickSt) : (s.putTick k v).sig = s.sig := rfl
@[simp] theorem State.putTick_swap (s : State) (k : Nat) (v : TickSt) : (s.putTick k v).swap = s.swap := rfl
@[simp] theorem State.putTick_failLog (s : State) (k : Nat) (v : TickSt) : (s.putTick k v).failLog = s.failLog := rfl
@[simp] theorem State.putTick_mar (s : State) (k : Nat) (v : TickSt) : (s.putTick k v).mar = s.mar := rfl
@[simp] theorem State.putTick_image (s : State) (k : Nat) (v : TickSt) : (s.putTick k v).image = s.image := rfl
@[simp] theorem State.putTick_link (s : State) (k : Nat) (v : TickSt) : (s.putTick k v).link = s.link := rfl
@[simp] theorem State.putTick_rx (s : State) (k : Nat) (v : TickSt) : (s.putTick k v).rx = s.rx := rfl
@[simp] theorem State.putTick_tx (s : State) (k : Nat) (v : TickSt) : (s.putTick k v).tx = s.tx := rfl
@[simp] theorem State.putTick_mdio (s : State) (k : Nat) (v : TickSt) : (s.putTick k v).mdio = s.mdio := rfl
@[simp] theorem State.putTick_ciph (s : State) (k : Nat) (v : TickSt) : (s.putTick k v).ciph = s.ciph := rfl
@[simp] theorem State.putTick_chan (s : State) (k : Nat) (v : TickSt) : (s.putTick k v).chan = s.chan := rfl
@[simp] theorem State.putTick_half (s : State) (k : Nat) (v : TickSt) : (s.putTick k v).half = s.half := rfl
@[simp] theorem State.putTick_phy (s : State) (k : Nat) (v : TickSt) : (s.putTick k v).phy = s.phy := rfl
@[simp] theorem State.putTick_dom (s : State) (k : Nat) (v : TickSt) : (s.putTick k v).dom = s.dom := rfl
@[simp] theorem State.putTick_dev (s : State) (k : Nat) (v : TickSt) : (s.putTick k v).dev = s.dev := rfl
@[simp] theorem State.putTick_sag (s : State) (k : Nat) (v : TickSt) : (s.putTick k v).sag = s.sag := rfl
@[simp] theorem State.putTick_lehr (s : State) (k : Nat) (v : TickSt) : (s.putTick k v).lehr = s.lehr := rfl
@[simp] theorem State.putTick_boot (s : State) (k : Nat) (v : TickSt) : (s.putTick k v).boot = s.boot := rfl
@[simp] theorem State.putTick_fuse (s : State) (k : Nat) (v : TickSt) : (s.putTick k v).fuse = s.fuse := rfl
@[simp] theorem State.putTick_flash (s : State) (k : Nat) (v : TickSt) : (s.putTick k v).flash = s.flash := rfl
@[simp] theorem State.putTick_hostMem (s : State) (k : Nat) (v : TickSt) : (s.putTick k v).hostMem = s.hostMem := rfl
@[simp] theorem State.putTick_pins (s : State) (k : Nat) (v : TickSt) : (s.putTick k v).pins = s.pins := rfl
@[simp] theorem State.putTick_pcie (s : State) (k : Nat) (v : TickSt) : (s.putTick k v).pcie = s.pcie := rfl
@[simp] theorem State.putTick_ring (s : State) (k : Nat) (v : TickSt) : (s.putTick k v).ring = s.ring := rfl
@[simp] theorem State.putTick_vlatch (s : State) (k : Nat) (v : TickSt) : (s.putTick k v).vlatch = s.vlatch := rfl

@[simp] theorem State.tickAt_same (s : State) (k : Nat) (v : TickSt) : (s.putTick k v).tickAt k = v := Tab.get_set_same _ _ _ _
theorem State.tickAt_ne (s : State) {k j : Nat} (v : TickSt) (h : j ≠ k) : (s.putTick k v).tickAt j = s.tickAt j := Tab.get_set_ne _ _ _ h

/-! putBuf -/
@[simp] theorem State.putBuf_pending (s : State) (k : Nat) (v : BufSt) : (s.putBuf k v).pending = s.pending := rfl
@[simp] theorem State.putBuf_nonce (s : State) (k : Nat) (v : BufSt) : (s.putBuf k v).nonce = s.nonce := rfl
@[simp] theorem State.putBuf_resp (s : State) (k : Nat) (v : BufSt) : (s.putBuf k v).resp = s.resp := rfl
@[simp] theorem State.putBuf_regs (s : State) (k : Nat) (v : BufSt) : (s.putBuf k v).regs = s.regs := rfl
@[simp] theorem State.putBuf_ctrs (s : State) (k : Nat) (v : BufSt) : (s.putBuf k v).ctrs = s.ctrs := rfl
@[simp] theorem State.putBuf_snaps (s : State) (k : Nat) (v : BufSt) : (s.putBuf k v).snaps = s.snaps := rfl
@[simp] theorem State.putBuf_clatch (s : State) (k : Nat) (v : BufSt) : (s.putBuf k v).clatch = s.clatch := rfl
@[simp] theorem State.putBuf_bank (s : State) (k : Nat) (v : BufSt) : (s.putBuf k v).bank = s.bank := rfl
@[simp] theorem State.putBuf_time (s : State) (k : Nat) (v : BufSt) : (s.putBuf k v).time = s.time := rfl
@[simp] theorem State.putBuf_irq (s : State) (k : Nat) (v : BufSt) : (s.putBuf k v).irq = s.irq := rfl
@[simp] theorem State.putBuf_hub (s : State) (k : Nat) (v : BufSt) : (s.putBuf k v).hub = s.hub := rfl
@[simp] theorem State.putBuf_tick (s : State) (k : Nat) (v : BufSt) : (s.putBuf k v).tick = s.tick := rfl
@[simp] theorem State.putBuf_core (s : State) (k : Nat) (v : BufSt) : (s.putBuf k v).core = s.core := rfl
@[simp] theorem State.putBuf_queue (s : State) (k : Nat) (v : BufSt) : (s.putBuf k v).queue = s.queue := rfl
@[simp] theorem State.putBuf_bridge (s : State) (k : Nat) (v : BufSt) : (s.putBuf k v).bridge = s.bridge := rfl
@[simp] theorem State.putBuf_mirror (s : State) (k : Nat) (v : BufSt) : (s.putBuf k v).mirror = s.mirror := rfl
@[simp] theorem State.putBuf_gate (s : State) (k : Nat) (v : BufSt) : (s.putBuf k v).gate = s.gate := rfl
@[simp] theorem State.putBuf_sched (s : State) (k : Nat) (v : BufSt) : (s.putBuf k v).sched = s.sched := rfl
@[simp] theorem State.putBuf_team (s : State) (k : Nat) (v : BufSt) : (s.putBuf k v).team = s.team := rfl
@[simp] theorem State.putBuf_tabs (s : State) (k : Nat) (v : BufSt) : (s.putBuf k v).tabs = s.tabs := rfl
@[simp] theorem State.putBuf_fdb (s : State) (k : Nat) (v : BufSt) : (s.putBuf k v).fdb = s.fdb := rfl
@[simp] theorem State.putBuf_sig (s : State) (k : Nat) (v : BufSt) : (s.putBuf k v).sig = s.sig := rfl
@[simp] theorem State.putBuf_swap (s : State) (k : Nat) (v : BufSt) : (s.putBuf k v).swap = s.swap := rfl
@[simp] theorem State.putBuf_failLog (s : State) (k : Nat) (v : BufSt) : (s.putBuf k v).failLog = s.failLog := rfl
@[simp] theorem State.putBuf_mar (s : State) (k : Nat) (v : BufSt) : (s.putBuf k v).mar = s.mar := rfl
@[simp] theorem State.putBuf_image (s : State) (k : Nat) (v : BufSt) : (s.putBuf k v).image = s.image := rfl
@[simp] theorem State.putBuf_link (s : State) (k : Nat) (v : BufSt) : (s.putBuf k v).link = s.link := rfl
@[simp] theorem State.putBuf_rx (s : State) (k : Nat) (v : BufSt) : (s.putBuf k v).rx = s.rx := rfl
@[simp] theorem State.putBuf_tx (s : State) (k : Nat) (v : BufSt) : (s.putBuf k v).tx = s.tx := rfl
@[simp] theorem State.putBuf_mdio (s : State) (k : Nat) (v : BufSt) : (s.putBuf k v).mdio = s.mdio := rfl
@[simp] theorem State.putBuf_ciph (s : State) (k : Nat) (v : BufSt) : (s.putBuf k v).ciph = s.ciph := rfl
@[simp] theorem State.putBuf_chan (s : State) (k : Nat) (v : BufSt) : (s.putBuf k v).chan = s.chan := rfl
@[simp] theorem State.putBuf_half (s : State) (k : Nat) (v : BufSt) : (s.putBuf k v).half = s.half := rfl
@[simp] theorem State.putBuf_phy (s : State) (k : Nat) (v : BufSt) : (s.putBuf k v).phy = s.phy := rfl
@[simp] theorem State.putBuf_dom (s : State) (k : Nat) (v : BufSt) : (s.putBuf k v).dom = s.dom := rfl
@[simp] theorem State.putBuf_dev (s : State) (k : Nat) (v : BufSt) : (s.putBuf k v).dev = s.dev := rfl
@[simp] theorem State.putBuf_sag (s : State) (k : Nat) (v : BufSt) : (s.putBuf k v).sag = s.sag := rfl
@[simp] theorem State.putBuf_lehr (s : State) (k : Nat) (v : BufSt) : (s.putBuf k v).lehr = s.lehr := rfl
@[simp] theorem State.putBuf_boot (s : State) (k : Nat) (v : BufSt) : (s.putBuf k v).boot = s.boot := rfl
@[simp] theorem State.putBuf_fuse (s : State) (k : Nat) (v : BufSt) : (s.putBuf k v).fuse = s.fuse := rfl
@[simp] theorem State.putBuf_flash (s : State) (k : Nat) (v : BufSt) : (s.putBuf k v).flash = s.flash := rfl
@[simp] theorem State.putBuf_hostMem (s : State) (k : Nat) (v : BufSt) : (s.putBuf k v).hostMem = s.hostMem := rfl
@[simp] theorem State.putBuf_pins (s : State) (k : Nat) (v : BufSt) : (s.putBuf k v).pins = s.pins := rfl
@[simp] theorem State.putBuf_pcie (s : State) (k : Nat) (v : BufSt) : (s.putBuf k v).pcie = s.pcie := rfl
@[simp] theorem State.putBuf_ring (s : State) (k : Nat) (v : BufSt) : (s.putBuf k v).ring = s.ring := rfl
@[simp] theorem State.putBuf_vlatch (s : State) (k : Nat) (v : BufSt) : (s.putBuf k v).vlatch = s.vlatch := rfl

@[simp] theorem State.bufAt_same (s : State) (k : Nat) (v : BufSt) : (s.putBuf k v).bufAt k = v := Tab.get_set_same _ _ _ _
theorem State.bufAt_ne (s : State) {k j : Nat} (v : BufSt) (h : j ≠ k) : (s.putBuf k v).bufAt j = s.bufAt j := Tab.get_set_ne _ _ _ h

/-! putQueue -/
@[simp] theorem State.putQueue_pending (s : State) (k : Nat) (v : Queue) : (s.putQueue k v).pending = s.pending := rfl
@[simp] theorem State.putQueue_nonce (s : State) (k : Nat) (v : Queue) : (s.putQueue k v).nonce = s.nonce := rfl
@[simp] theorem State.putQueue_resp (s : State) (k : Nat) (v : Queue) : (s.putQueue k v).resp = s.resp := rfl
@[simp] theorem State.putQueue_regs (s : State) (k : Nat) (v : Queue) : (s.putQueue k v).regs = s.regs := rfl
@[simp] theorem State.putQueue_ctrs (s : State) (k : Nat) (v : Queue) : (s.putQueue k v).ctrs = s.ctrs := rfl
@[simp] theorem State.putQueue_snaps (s : State) (k : Nat) (v : Queue) : (s.putQueue k v).snaps = s.snaps := rfl
@[simp] theorem State.putQueue_clatch (s : State) (k : Nat) (v : Queue) : (s.putQueue k v).clatch = s.clatch := rfl
@[simp] theorem State.putQueue_bank (s : State) (k : Nat) (v : Queue) : (s.putQueue k v).bank = s.bank := rfl
@[simp] theorem State.putQueue_time (s : State) (k : Nat) (v : Queue) : (s.putQueue k v).time = s.time := rfl
@[simp] theorem State.putQueue_irq (s : State) (k : Nat) (v : Queue) : (s.putQueue k v).irq = s.irq := rfl
@[simp] theorem State.putQueue_hub (s : State) (k : Nat) (v : Queue) : (s.putQueue k v).hub = s.hub := rfl
@[simp] theorem State.putQueue_tick (s : State) (k : Nat) (v : Queue) : (s.putQueue k v).tick = s.tick := rfl
@[simp] theorem State.putQueue_buf (s : State) (k : Nat) (v : Queue) : (s.putQueue k v).buf = s.buf := rfl
@[simp] theorem State.putQueue_core (s : State) (k : Nat) (v : Queue) : (s.putQueue k v).core = s.core := rfl
@[simp] theorem State.putQueue_bridge (s : State) (k : Nat) (v : Queue) : (s.putQueue k v).bridge = s.bridge := rfl
@[simp] theorem State.putQueue_mirror (s : State) (k : Nat) (v : Queue) : (s.putQueue k v).mirror = s.mirror := rfl
@[simp] theorem State.putQueue_gate (s : State) (k : Nat) (v : Queue) : (s.putQueue k v).gate = s.gate := rfl
@[simp] theorem State.putQueue_sched (s : State) (k : Nat) (v : Queue) : (s.putQueue k v).sched = s.sched := rfl
@[simp] theorem State.putQueue_team (s : State) (k : Nat) (v : Queue) : (s.putQueue k v).team = s.team := rfl
@[simp] theorem State.putQueue_tabs (s : State) (k : Nat) (v : Queue) : (s.putQueue k v).tabs = s.tabs := rfl
@[simp] theorem State.putQueue_fdb (s : State) (k : Nat) (v : Queue) : (s.putQueue k v).fdb = s.fdb := rfl
@[simp] theorem State.putQueue_sig (s : State) (k : Nat) (v : Queue) : (s.putQueue k v).sig = s.sig := rfl
@[simp] theorem State.putQueue_swap (s : State) (k : Nat) (v : Queue) : (s.putQueue k v).swap = s.swap := rfl
@[simp] theorem State.putQueue_failLog (s : State) (k : Nat) (v : Queue) : (s.putQueue k v).failLog = s.failLog := rfl
@[simp] theorem State.putQueue_mar (s : State) (k : Nat) (v : Queue) : (s.putQueue k v).mar = s.mar := rfl
@[simp] theorem State.putQueue_image (s : State) (k : Nat) (v : Queue) : (s.putQueue k v).image = s.image := rfl
@[simp] theorem State.putQueue_link (s : State) (k : Nat) (v : Queue) : (s.putQueue k v).link = s.link := rfl
@[simp] theorem State.putQueue_rx (s : State) (k : Nat) (v : Queue) : (s.putQueue k v).rx = s.rx := rfl
@[simp] theorem State.putQueue_tx (s : State) (k : Nat) (v : Queue) : (s.putQueue k v).tx = s.tx := rfl
@[simp] theorem State.putQueue_mdio (s : State) (k : Nat) (v : Queue) : (s.putQueue k v).mdio = s.mdio := rfl
@[simp] theorem State.putQueue_ciph (s : State) (k : Nat) (v : Queue) : (s.putQueue k v).ciph = s.ciph := rfl
@[simp] theorem State.putQueue_chan (s : State) (k : Nat) (v : Queue) : (s.putQueue k v).chan = s.chan := rfl
@[simp] theorem State.putQueue_half (s : State) (k : Nat) (v : Queue) : (s.putQueue k v).half = s.half := rfl
@[simp] theorem State.putQueue_phy (s : State) (k : Nat) (v : Queue) : (s.putQueue k v).phy = s.phy := rfl
@[simp] theorem State.putQueue_dom (s : State) (k : Nat) (v : Queue) : (s.putQueue k v).dom = s.dom := rfl
@[simp] theorem State.putQueue_dev (s : State) (k : Nat) (v : Queue) : (s.putQueue k v).dev = s.dev := rfl
@[simp] theorem State.putQueue_sag (s : State) (k : Nat) (v : Queue) : (s.putQueue k v).sag = s.sag := rfl
@[simp] theorem State.putQueue_lehr (s : State) (k : Nat) (v : Queue) : (s.putQueue k v).lehr = s.lehr := rfl
@[simp] theorem State.putQueue_boot (s : State) (k : Nat) (v : Queue) : (s.putQueue k v).boot = s.boot := rfl
@[simp] theorem State.putQueue_fuse (s : State) (k : Nat) (v : Queue) : (s.putQueue k v).fuse = s.fuse := rfl
@[simp] theorem State.putQueue_flash (s : State) (k : Nat) (v : Queue) : (s.putQueue k v).flash = s.flash := rfl
@[simp] theorem State.putQueue_hostMem (s : State) (k : Nat) (v : Queue) : (s.putQueue k v).hostMem = s.hostMem := rfl
@[simp] theorem State.putQueue_pins (s : State) (k : Nat) (v : Queue) : (s.putQueue k v).pins = s.pins := rfl
@[simp] theorem State.putQueue_pcie (s : State) (k : Nat) (v : Queue) : (s.putQueue k v).pcie = s.pcie := rfl
@[simp] theorem State.putQueue_ring (s : State) (k : Nat) (v : Queue) : (s.putQueue k v).ring = s.ring := rfl
@[simp] theorem State.putQueue_vlatch (s : State) (k : Nat) (v : Queue) : (s.putQueue k v).vlatch = s.vlatch := rfl

@[simp] theorem State.queueAt_same (s : State) (k : Nat) (v : Queue) : (s.putQueue k v).queueAt k = v := Tab.get_set_same _ _ _ _
theorem State.queueAt_ne (s : State) {k j : Nat} (v : Queue) (h : j ≠ k) : (s.putQueue k v).queueAt j = s.queueAt j := Tab.get_set_ne _ _ _ h

/-! putBridge -/
@[simp] theorem State.putBridge_pending (s : State) (k : Nat) (v : BridgeSt) : (s.putBridge k v).pending = s.pending := rfl
@[simp] theorem State.putBridge_nonce (s : State) (k : Nat) (v : BridgeSt) : (s.putBridge k v).nonce = s.nonce := rfl
@[simp] theorem State.putBridge_resp (s : State) (k : Nat) (v : BridgeSt) : (s.putBridge k v).resp = s.resp := rfl
@[simp] theorem State.putBridge_regs (s : State) (k : Nat) (v : BridgeSt) : (s.putBridge k v).regs = s.regs := rfl
@[simp] theorem State.putBridge_ctrs (s : State) (k : Nat) (v : BridgeSt) : (s.putBridge k v).ctrs = s.ctrs := rfl
@[simp] theorem State.putBridge_snaps (s : State) (k : Nat) (v : BridgeSt) : (s.putBridge k v).snaps = s.snaps := rfl
@[simp] theorem State.putBridge_clatch (s : State) (k : Nat) (v : BridgeSt) : (s.putBridge k v).clatch = s.clatch := rfl
@[simp] theorem State.putBridge_bank (s : State) (k : Nat) (v : BridgeSt) : (s.putBridge k v).bank = s.bank := rfl
@[simp] theorem State.putBridge_time (s : State) (k : Nat) (v : BridgeSt) : (s.putBridge k v).time = s.time := rfl
@[simp] theorem State.putBridge_irq (s : State) (k : Nat) (v : BridgeSt) : (s.putBridge k v).irq = s.irq := rfl
@[simp] theorem State.putBridge_hub (s : State) (k : Nat) (v : BridgeSt) : (s.putBridge k v).hub = s.hub := rfl
@[simp] theorem State.putBridge_tick (s : State) (k : Nat) (v : BridgeSt) : (s.putBridge k v).tick = s.tick := rfl
@[simp] theorem State.putBridge_buf (s : State) (k : Nat) (v : BridgeSt) : (s.putBridge k v).buf = s.buf := rfl
@[simp] theorem State.putBridge_core (s : State) (k : Nat) (v : BridgeSt) : (s.putBridge k v).core = s.core := rfl
@[simp] theorem State.putBridge_queue (s : State) (k : Nat) (v : BridgeSt) : (s.putBridge k v).queue = s.queue := rfl
@[simp] theorem State.putBridge_mirror (s : State) (k : Nat) (v : BridgeSt) : (s.putBridge k v).mirror = s.mirror := rfl
@[simp] theorem State.putBridge_gate (s : State) (k : Nat) (v : BridgeSt) : (s.putBridge k v).gate = s.gate := rfl
@[simp] theorem State.putBridge_sched (s : State) (k : Nat) (v : BridgeSt) : (s.putBridge k v).sched = s.sched := rfl
@[simp] theorem State.putBridge_team (s : State) (k : Nat) (v : BridgeSt) : (s.putBridge k v).team = s.team := rfl
@[simp] theorem State.putBridge_tabs (s : State) (k : Nat) (v : BridgeSt) : (s.putBridge k v).tabs = s.tabs := rfl
@[simp] theorem State.putBridge_fdb (s : State) (k : Nat) (v : BridgeSt) : (s.putBridge k v).fdb = s.fdb := rfl
@[simp] theorem State.putBridge_sig (s : State) (k : Nat) (v : BridgeSt) : (s.putBridge k v).sig = s.sig := rfl
@[simp] theorem State.putBridge_swap (s : State) (k : Nat) (v : BridgeSt) : (s.putBridge k v).swap = s.swap := rfl
@[simp] theorem State.putBridge_failLog (s : State) (k : Nat) (v : BridgeSt) : (s.putBridge k v).failLog = s.failLog := rfl
@[simp] theorem State.putBridge_mar (s : State) (k : Nat) (v : BridgeSt) : (s.putBridge k v).mar = s.mar := rfl
@[simp] theorem State.putBridge_image (s : State) (k : Nat) (v : BridgeSt) : (s.putBridge k v).image = s.image := rfl
@[simp] theorem State.putBridge_link (s : State) (k : Nat) (v : BridgeSt) : (s.putBridge k v).link = s.link := rfl
@[simp] theorem State.putBridge_rx (s : State) (k : Nat) (v : BridgeSt) : (s.putBridge k v).rx = s.rx := rfl
@[simp] theorem State.putBridge_tx (s : State) (k : Nat) (v : BridgeSt) : (s.putBridge k v).tx = s.tx := rfl
@[simp] theorem State.putBridge_mdio (s : State) (k : Nat) (v : BridgeSt) : (s.putBridge k v).mdio = s.mdio := rfl
@[simp] theorem State.putBridge_ciph (s : State) (k : Nat) (v : BridgeSt) : (s.putBridge k v).ciph = s.ciph := rfl
@[simp] theorem State.putBridge_chan (s : State) (k : Nat) (v : BridgeSt) : (s.putBridge k v).chan = s.chan := rfl
@[simp] theorem State.putBridge_half (s : State) (k : Nat) (v : BridgeSt) : (s.putBridge k v).half = s.half := rfl
@[simp] theorem State.putBridge_phy (s : State) (k : Nat) (v : BridgeSt) : (s.putBridge k v).phy = s.phy := rfl
@[simp] theorem State.putBridge_dom (s : State) (k : Nat) (v : BridgeSt) : (s.putBridge k v).dom = s.dom := rfl
@[simp] theorem State.putBridge_dev (s : State) (k : Nat) (v : BridgeSt) : (s.putBridge k v).dev = s.dev := rfl
@[simp] theorem State.putBridge_sag (s : State) (k : Nat) (v : BridgeSt) : (s.putBridge k v).sag = s.sag := rfl
@[simp] theorem State.putBridge_lehr (s : State) (k : Nat) (v : BridgeSt) : (s.putBridge k v).lehr = s.lehr := rfl
@[simp] theorem State.putBridge_boot (s : State) (k : Nat) (v : BridgeSt) : (s.putBridge k v).boot = s.boot := rfl
@[simp] theorem State.putBridge_fuse (s : State) (k : Nat) (v : BridgeSt) : (s.putBridge k v).fuse = s.fuse := rfl
@[simp] theorem State.putBridge_flash (s : State) (k : Nat) (v : BridgeSt) : (s.putBridge k v).flash = s.flash := rfl
@[simp] theorem State.putBridge_hostMem (s : State) (k : Nat) (v : BridgeSt) : (s.putBridge k v).hostMem = s.hostMem := rfl
@[simp] theorem State.putBridge_pins (s : State) (k : Nat) (v : BridgeSt) : (s.putBridge k v).pins = s.pins := rfl
@[simp] theorem State.putBridge_pcie (s : State) (k : Nat) (v : BridgeSt) : (s.putBridge k v).pcie = s.pcie := rfl
@[simp] theorem State.putBridge_ring (s : State) (k : Nat) (v : BridgeSt) : (s.putBridge k v).ring = s.ring := rfl
@[simp] theorem State.putBridge_vlatch (s : State) (k : Nat) (v : BridgeSt) : (s.putBridge k v).vlatch = s.vlatch := rfl

@[simp] theorem State.bridgeAt_same (s : State) (k : Nat) (v : BridgeSt) : (s.putBridge k v).bridgeAt k = v := Tab.get_set_same _ _ _ _
theorem State.bridgeAt_ne (s : State) {k j : Nat} (v : BridgeSt) (h : j ≠ k) : (s.putBridge k v).bridgeAt j = s.bridgeAt j := Tab.get_set_ne _ _ _ h

/-! putMirror -/
@[simp] theorem State.putMirror_pending (s : State) (k : Nat) (v : MirrorSt) : (s.putMirror k v).pending = s.pending := rfl
@[simp] theorem State.putMirror_nonce (s : State) (k : Nat) (v : MirrorSt) : (s.putMirror k v).nonce = s.nonce := rfl
@[simp] theorem State.putMirror_resp (s : State) (k : Nat) (v : MirrorSt) : (s.putMirror k v).resp = s.resp := rfl
@[simp] theorem State.putMirror_regs (s : State) (k : Nat) (v : MirrorSt) : (s.putMirror k v).regs = s.regs := rfl
@[simp] theorem State.putMirror_ctrs (s : State) (k : Nat) (v : MirrorSt) : (s.putMirror k v).ctrs = s.ctrs := rfl
@[simp] theorem State.putMirror_snaps (s : State) (k : Nat) (v : MirrorSt) : (s.putMirror k v).snaps = s.snaps := rfl
@[simp] theorem State.putMirror_clatch (s : State) (k : Nat) (v : MirrorSt) : (s.putMirror k v).clatch = s.clatch := rfl
@[simp] theorem State.putMirror_bank (s : State) (k : Nat) (v : MirrorSt) : (s.putMirror k v).bank = s.bank := rfl
@[simp] theorem State.putMirror_time (s : State) (k : Nat) (v : MirrorSt) : (s.putMirror k v).time = s.time := rfl
@[simp] theorem State.putMirror_irq (s : State) (k : Nat) (v : MirrorSt) : (s.putMirror k v).irq = s.irq := rfl
@[simp] theorem State.putMirror_hub (s : State) (k : Nat) (v : MirrorSt) : (s.putMirror k v).hub = s.hub := rfl
@[simp] theorem State.putMirror_tick (s : State) (k : Nat) (v : MirrorSt) : (s.putMirror k v).tick = s.tick := rfl
@[simp] theorem State.putMirror_buf (s : State) (k : Nat) (v : MirrorSt) : (s.putMirror k v).buf = s.buf := rfl
@[simp] theorem State.putMirror_core (s : State) (k : Nat) (v : MirrorSt) : (s.putMirror k v).core = s.core := rfl
@[simp] theorem State.putMirror_queue (s : State) (k : Nat) (v : MirrorSt) : (s.putMirror k v).queue = s.queue := rfl
@[simp] theorem State.putMirror_bridge (s : State) (k : Nat) (v : MirrorSt) : (s.putMirror k v).bridge = s.bridge := rfl
@[simp] theorem State.putMirror_gate (s : State) (k : Nat) (v : MirrorSt) : (s.putMirror k v).gate = s.gate := rfl
@[simp] theorem State.putMirror_sched (s : State) (k : Nat) (v : MirrorSt) : (s.putMirror k v).sched = s.sched := rfl
@[simp] theorem State.putMirror_team (s : State) (k : Nat) (v : MirrorSt) : (s.putMirror k v).team = s.team := rfl
@[simp] theorem State.putMirror_tabs (s : State) (k : Nat) (v : MirrorSt) : (s.putMirror k v).tabs = s.tabs := rfl
@[simp] theorem State.putMirror_fdb (s : State) (k : Nat) (v : MirrorSt) : (s.putMirror k v).fdb = s.fdb := rfl
@[simp] theorem State.putMirror_sig (s : State) (k : Nat) (v : MirrorSt) : (s.putMirror k v).sig = s.sig := rfl
@[simp] theorem State.putMirror_swap (s : State) (k : Nat) (v : MirrorSt) : (s.putMirror k v).swap = s.swap := rfl
@[simp] theorem State.putMirror_failLog (s : State) (k : Nat) (v : MirrorSt) : (s.putMirror k v).failLog = s.failLog := rfl
@[simp] theorem State.putMirror_mar (s : State) (k : Nat) (v : MirrorSt) : (s.putMirror k v).mar = s.mar := rfl
@[simp] theorem State.putMirror_image (s : State) (k : Nat) (v : MirrorSt) : (s.putMirror k v).image = s.image := rfl
@[simp] theorem State.putMirror_link (s : State) (k : Nat) (v : MirrorSt) : (s.putMirror k v).link = s.link := rfl
@[simp] theorem State.putMirror_rx (s : State) (k : Nat) (v : MirrorSt) : (s.putMirror k v).rx = s.rx := rfl
@[simp] theorem State.putMirror_tx (s : State) (k : Nat) (v : MirrorSt) : (s.putMirror k v).tx = s.tx := rfl
@[simp] theorem State.putMirror_mdio (s : State) (k : Nat) (v : MirrorSt) : (s.putMirror k v).mdio = s.mdio := rfl
@[simp] theorem State.putMirror_ciph (s : State) (k : Nat) (v : MirrorSt) : (s.putMirror k v).ciph = s.ciph := rfl
@[simp] theorem State.putMirror_chan (s : State) (k : Nat) (v : MirrorSt) : (s.putMirror k v).chan = s.chan := rfl
@[simp] theorem State.putMirror_half (s : State) (k : Nat) (v : MirrorSt) : (s.putMirror k v).half = s.half := rfl
@[simp] theorem State.putMirror_phy (s : State) (k : Nat) (v : MirrorSt) : (s.putMirror k v).phy = s.phy := rfl
@[simp] theorem State.putMirror_dom (s : State) (k : Nat) (v : MirrorSt) : (s.putMirror k v).dom = s.dom := rfl
@[simp] theorem State.putMirror_dev (s : State) (k : Nat) (v : MirrorSt) : (s.putMirror k v).dev = s.dev := rfl
@[simp] theorem State.putMirror_sag (s : State) (k : Nat) (v : MirrorSt) : (s.putMirror k v).sag = s.sag := rfl
@[simp] theorem State.putMirror_lehr (s : State) (k : Nat) (v : MirrorSt) : (s.putMirror k v).lehr = s.lehr := rfl
@[simp] theorem State.putMirror_boot (s : State) (k : Nat) (v : MirrorSt) : (s.putMirror k v).boot = s.boot := rfl
@[simp] theorem State.putMirror_fuse (s : State) (k : Nat) (v : MirrorSt) : (s.putMirror k v).fuse = s.fuse := rfl
@[simp] theorem State.putMirror_flash (s : State) (k : Nat) (v : MirrorSt) : (s.putMirror k v).flash = s.flash := rfl
@[simp] theorem State.putMirror_hostMem (s : State) (k : Nat) (v : MirrorSt) : (s.putMirror k v).hostMem = s.hostMem := rfl
@[simp] theorem State.putMirror_pins (s : State) (k : Nat) (v : MirrorSt) : (s.putMirror k v).pins = s.pins := rfl
@[simp] theorem State.putMirror_pcie (s : State) (k : Nat) (v : MirrorSt) : (s.putMirror k v).pcie = s.pcie := rfl
@[simp] theorem State.putMirror_ring (s : State) (k : Nat) (v : MirrorSt) : (s.putMirror k v).ring = s.ring := rfl
@[simp] theorem State.putMirror_vlatch (s : State) (k : Nat) (v : MirrorSt) : (s.putMirror k v).vlatch = s.vlatch := rfl

@[simp] theorem State.mirrorAt_same (s : State) (k : Nat) (v : MirrorSt) : (s.putMirror k v).mirrorAt k = v := Tab.get_set_same _ _ _ _
theorem State.mirrorAt_ne (s : State) {k j : Nat} (v : MirrorSt) (h : j ≠ k) : (s.putMirror k v).mirrorAt j = s.mirrorAt j := Tab.get_set_ne _ _ _ h

/-! putGate -/
@[simp] theorem State.putGate_pending (s : State) (k : Nat) (v : GateSt) : (s.putGate k v).pending = s.pending := rfl
@[simp] theorem State.putGate_nonce (s : State) (k : Nat) (v : GateSt) : (s.putGate k v).nonce = s.nonce := rfl
@[simp] theorem State.putGate_resp (s : State) (k : Nat) (v : GateSt) : (s.putGate k v).resp = s.resp := rfl
@[simp] theorem State.putGate_regs (s : State) (k : Nat) (v : GateSt) : (s.putGate k v).regs = s.regs := rfl
@[simp] theorem State.putGate_ctrs (s : State) (k : Nat) (v : GateSt) : (s.putGate k v).ctrs = s.ctrs := rfl
@[simp] theorem State.putGate_snaps (s : State) (k : Nat) (v : GateSt) : (s.putGate k v).snaps = s.snaps := rfl
@[simp] theorem State.putGate_clatch (s : State) (k : Nat) (v : GateSt) : (s.putGate k v).clatch = s.clatch := rfl
@[simp] theorem State.putGate_bank (s : State) (k : Nat) (v : GateSt) : (s.putGate k v).bank = s.bank := rfl
@[simp] theorem State.putGate_time (s : State) (k : Nat) (v : GateSt) : (s.putGate k v).time = s.time := rfl
@[simp] theorem State.putGate_irq (s : State) (k : Nat) (v : GateSt) : (s.putGate k v).irq = s.irq := rfl
@[simp] theorem State.putGate_hub (s : State) (k : Nat) (v : GateSt) : (s.putGate k v).hub = s.hub := rfl
@[simp] theorem State.putGate_tick (s : State) (k : Nat) (v : GateSt) : (s.putGate k v).tick = s.tick := rfl
@[simp] theorem State.putGate_buf (s : State) (k : Nat) (v : GateSt) : (s.putGate k v).buf = s.buf := rfl
@[simp] theorem State.putGate_core (s : State) (k : Nat) (v : GateSt) : (s.putGate k v).core = s.core := rfl
@[simp] theorem State.putGate_queue (s : State) (k : Nat) (v : GateSt) : (s.putGate k v).queue = s.queue := rfl
@[simp] theorem State.putGate_bridge (s : State) (k : Nat) (v : GateSt) : (s.putGate k v).bridge = s.bridge := rfl
@[simp] theorem State.putGate_mirror (s : State) (k : Nat) (v : GateSt) : (s.putGate k v).mirror = s.mirror := rfl
@[simp] theorem State.putGate_sched (s : State) (k : Nat) (v : GateSt) : (s.putGate k v).sched = s.sched := rfl
@[simp] theorem State.putGate_team (s : State) (k : Nat) (v : GateSt) : (s.putGate k v).team = s.team := rfl
@[simp] theorem State.putGate_tabs (s : State) (k : Nat) (v : GateSt) : (s.putGate k v).tabs = s.tabs := rfl
@[simp] theorem State.putGate_fdb (s : State) (k : Nat) (v : GateSt) : (s.putGate k v).fdb = s.fdb := rfl
@[simp] theorem State.putGate_sig (s : State) (k : Nat) (v : GateSt) : (s.putGate k v).sig = s.sig := rfl
@[simp] theorem State.putGate_swap (s : State) (k : Nat) (v : GateSt) : (s.putGate k v).swap = s.swap := rfl
@[simp] theorem State.putGate_failLog (s : State) (k : Nat) (v : GateSt) : (s.putGate k v).failLog = s.failLog := rfl
@[simp] theorem State.putGate_mar (s : State) (k : Nat) (v : GateSt) : (s.putGate k v).mar = s.mar := rfl
@[simp] theorem State.putGate_image (s : State) (k : Nat) (v : GateSt) : (s.putGate k v).image = s.image := rfl
@[simp] theorem State.putGate_link (s : State) (k : Nat) (v : GateSt) : (s.putGate k v).link = s.link := rfl
@[simp] theorem State.putGate_rx (s : State) (k : Nat) (v : GateSt) : (s.putGate k v).rx = s.rx := rfl
@[simp] theorem State.putGate_tx (s : State) (k : Nat) (v : GateSt) : (s.putGate k v).tx = s.tx := rfl
@[simp] theorem State.putGate_mdio (s : State) (k : Nat) (v : GateSt) : (s.putGate k v).mdio = s.mdio := rfl
@[simp] theorem State.putGate_ciph (s : State) (k : Nat) (v : GateSt) : (s.putGate k v).ciph = s.ciph := rfl
@[simp] theorem State.putGate_chan (s : State) (k : Nat) (v : GateSt) : (s.putGate k v).chan = s.chan := rfl
@[simp] theorem State.putGate_half (s : State) (k : Nat) (v : GateSt) : (s.putGate k v).half = s.half := rfl
@[simp] theorem State.putGate_phy (s : State) (k : Nat) (v : GateSt) : (s.putGate k v).phy = s.phy := rfl
@[simp] theorem State.putGate_dom (s : State) (k : Nat) (v : GateSt) : (s.putGate k v).dom = s.dom := rfl
@[simp] theorem State.putGate_dev (s : State) (k : Nat) (v : GateSt) : (s.putGate k v).dev = s.dev := rfl
@[simp] theorem State.putGate_sag (s : State) (k : Nat) (v : GateSt) : (s.putGate k v).sag = s.sag := rfl
@[simp] theorem State.putGate_lehr (s : State) (k : Nat) (v : GateSt) : (s.putGate k v).lehr = s.lehr := rfl
@[simp] theorem State.putGate_boot (s : State) (k : Nat) (v : GateSt) : (s.putGate k v).boot = s.boot := rfl
@[simp] theorem State.putGate_fuse (s : State) (k : Nat) (v : GateSt) : (s.putGate k v).fuse = s.fuse := rfl
@[simp] theorem State.putGate_flash (s : State) (k : Nat) (v : GateSt) : (s.putGate k v).flash = s.flash := rfl
@[simp] theorem State.putGate_hostMem (s : State) (k : Nat) (v : GateSt) : (s.putGate k v).hostMem = s.hostMem := rfl
@[simp] theorem State.putGate_pins (s : State) (k : Nat) (v : GateSt) : (s.putGate k v).pins = s.pins := rfl
@[simp] theorem State.putGate_pcie (s : State) (k : Nat) (v : GateSt) : (s.putGate k v).pcie = s.pcie := rfl
@[simp] theorem State.putGate_ring (s : State) (k : Nat) (v : GateSt) : (s.putGate k v).ring = s.ring := rfl
@[simp] theorem State.putGate_vlatch (s : State) (k : Nat) (v : GateSt) : (s.putGate k v).vlatch = s.vlatch := rfl

@[simp] theorem State.gateAt_same (s : State) (k : Nat) (v : GateSt) : (s.putGate k v).gateAt k = v := Tab.get_set_same _ _ _ _
theorem State.gateAt_ne (s : State) {k j : Nat} (v : GateSt) (h : j ≠ k) : (s.putGate k v).gateAt j = s.gateAt j := Tab.get_set_ne _ _ _ h

/-! putSched -/
@[simp] theorem State.putSched_pending (s : State) (k : Nat) (v : SchedSt) : (s.putSched k v).pending = s.pending := rfl
@[simp] theorem State.putSched_nonce (s : State) (k : Nat) (v : SchedSt) : (s.putSched k v).nonce = s.nonce := rfl
@[simp] theorem State.putSched_resp (s : State) (k : Nat) (v : SchedSt) : (s.putSched k v).resp = s.resp := rfl
@[simp] theorem State.putSched_regs (s : State) (k : Nat) (v : SchedSt) : (s.putSched k v).regs = s.regs := rfl
@[simp] theorem State.putSched_ctrs (s : State) (k : Nat) (v : SchedSt) : (s.putSched k v).ctrs = s.ctrs := rfl
@[simp] theorem State.putSched_snaps (s : State) (k : Nat) (v : SchedSt) : (s.putSched k v).snaps = s.snaps := rfl
@[simp] theorem State.putSched_clatch (s : State) (k : Nat) (v : SchedSt) : (s.putSched k v).clatch = s.clatch := rfl
@[simp] theorem State.putSched_bank (s : State) (k : Nat) (v : SchedSt) : (s.putSched k v).bank = s.bank := rfl
@[simp] theorem State.putSched_time (s : State) (k : Nat) (v : SchedSt) : (s.putSched k v).time = s.time := rfl
@[simp] theorem State.putSched_irq (s : State) (k : Nat) (v : SchedSt) : (s.putSched k v).irq = s.irq := rfl
@[simp] theorem State.putSched_hub (s : State) (k : Nat) (v : SchedSt) : (s.putSched k v).hub = s.hub := rfl
@[simp] theorem State.putSched_tick (s : State) (k : Nat) (v : SchedSt) : (s.putSched k v).tick = s.tick := rfl
@[simp] theorem State.putSched_buf (s : State) (k : Nat) (v : SchedSt) : (s.putSched k v).buf = s.buf := rfl
@[simp] theorem State.putSched_core (s : State) (k : Nat) (v : SchedSt) : (s.putSched k v).core = s.core := rfl
@[simp] theorem State.putSched_queue (s : State) (k : Nat) (v : SchedSt) : (s.putSched k v).queue = s.queue := rfl
@[simp] theorem State.putSched_bridge (s : State) (k : Nat) (v : SchedSt) : (s.putSched k v).bridge = s.bridge := rfl
@[simp] theorem State.putSched_mirror (s : State) (k : Nat) (v : SchedSt) : (s.putSched k v).mirror = s.mirror := rfl
@[simp] theorem State.putSched_gate (s : State) (k : Nat) (v : SchedSt) : (s.putSched k v).gate = s.gate := rfl
@[simp] theorem State.putSched_team (s : State) (k : Nat) (v : SchedSt) : (s.putSched k v).team = s.team := rfl
@[simp] theorem State.putSched_tabs (s : State) (k : Nat) (v : SchedSt) : (s.putSched k v).tabs = s.tabs := rfl
@[simp] theorem State.putSched_fdb (s : State) (k : Nat) (v : SchedSt) : (s.putSched k v).fdb = s.fdb := rfl
@[simp] theorem State.putSched_sig (s : State) (k : Nat) (v : SchedSt) : (s.putSched k v).sig = s.sig := rfl
@[simp] theorem State.putSched_swap (s : State) (k : Nat) (v : SchedSt) : (s.putSched k v).swap = s.swap := rfl
@[simp] theorem State.putSched_failLog (s : State) (k : Nat) (v : SchedSt) : (s.putSched k v).failLog = s.failLog := rfl
@[simp] theorem State.putSched_mar (s : State) (k : Nat) (v : SchedSt) : (s.putSched k v).mar = s.mar := rfl
@[simp] theorem State.putSched_image (s : State) (k : Nat) (v : SchedSt) : (s.putSched k v).image = s.image := rfl
@[simp] theorem State.putSched_link (s : State) (k : Nat) (v : SchedSt) : (s.putSched k v).link = s.link := rfl
@[simp] theorem State.putSched_rx (s : State) (k : Nat) (v : SchedSt) : (s.putSched k v).rx = s.rx := rfl
@[simp] theorem State.putSched_tx (s : State) (k : Nat) (v : SchedSt) : (s.putSched k v).tx = s.tx := rfl
@[simp] theorem State.putSched_mdio (s : State) (k : Nat) (v : SchedSt) : (s.putSched k v).mdio = s.mdio := rfl
@[simp] theorem State.putSched_ciph (s : State) (k : Nat) (v : SchedSt) : (s.putSched k v).ciph = s.ciph := rfl
@[simp] theorem State.putSched_chan (s : State) (k : Nat) (v : SchedSt) : (s.putSched k v).chan = s.chan := rfl
@[simp] theorem State.putSched_half (s : State) (k : Nat) (v : SchedSt) : (s.putSched k v).half = s.half := rfl
@[simp] theorem State.putSched_phy (s : State) (k : Nat) (v : SchedSt) : (s.putSched k v).phy = s.phy := rfl
@[simp] theorem State.putSched_dom (s : State) (k : Nat) (v : SchedSt) : (s.putSched k v).dom = s.dom := rfl
@[simp] theorem State.putSched_dev (s : State) (k : Nat) (v : SchedSt) : (s.putSched k v).dev = s.dev := rfl
@[simp] theorem State.putSched_sag (s : State) (k : Nat) (v : SchedSt) : (s.putSched k v).sag = s.sag := rfl
@[simp] theorem State.putSched_lehr (s : State) (k : Nat) (v : SchedSt) : (s.putSched k v).lehr = s.lehr := rfl
@[simp] theorem State.putSched_boot (s : State) (k : Nat) (v : SchedSt) : (s.putSched k v).boot = s.boot := rfl
@[simp] theorem State.putSched_fuse (s : State) (k : Nat) (v : SchedSt) : (s.putSched k v).fuse = s.fuse := rfl
@[simp] theorem State.putSched_flash (s : State) (k : Nat) (v : SchedSt) : (s.putSched k v).flash = s.flash := rfl
@[simp] theorem State.putSched_hostMem (s : State) (k : Nat) (v : SchedSt) : (s.putSched k v).hostMem = s.hostMem := rfl
@[simp] theorem State.putSched_pins (s : State) (k : Nat) (v : SchedSt) : (s.putSched k v).pins = s.pins := rfl
@[simp] theorem State.putSched_pcie (s : State) (k : Nat) (v : SchedSt) : (s.putSched k v).pcie = s.pcie := rfl
@[simp] theorem State.putSched_ring (s : State) (k : Nat) (v : SchedSt) : (s.putSched k v).ring = s.ring := rfl
@[simp] theorem State.putSched_vlatch (s : State) (k : Nat) (v : SchedSt) : (s.putSched k v).vlatch = s.vlatch := rfl

@[simp] theorem State.schedAt_same (s : State) (k : Nat) (v : SchedSt) : (s.putSched k v).schedAt k = v := Tab.get_set_same _ _ _ _
theorem State.schedAt_ne (s : State) {k j : Nat} (v : SchedSt) (h : j ≠ k) : (s.putSched k v).schedAt j = s.schedAt j := Tab.get_set_ne _ _ _ h

/-! putTeam -/
@[simp] theorem State.putTeam_pending (s : State) (k : Nat) (v : TeamSt) : (s.putTeam k v).pending = s.pending := rfl
@[simp] theorem State.putTeam_nonce (s : State) (k : Nat) (v : TeamSt) : (s.putTeam k v).nonce = s.nonce := rfl
@[simp] theorem State.putTeam_resp (s : State) (k : Nat) (v : TeamSt) : (s.putTeam k v).resp = s.resp := rfl
@[simp] theorem State.putTeam_regs (s : State) (k : Nat) (v : TeamSt) : (s.putTeam k v).regs = s.regs := rfl
@[simp] theorem State.putTeam_ctrs (s : State) (k : Nat) (v : TeamSt) : (s.putTeam k v).ctrs = s.ctrs := rfl
@[simp] theorem State.putTeam_snaps (s : State) (k : Nat) (v : TeamSt) : (s.putTeam k v).snaps = s.snaps := rfl
@[simp] theorem State.putTeam_clatch (s : State) (k : Nat) (v : TeamSt) : (s.putTeam k v).clatch = s.clatch := rfl
@[simp] theorem State.putTeam_bank (s : State) (k : Nat) (v : TeamSt) : (s.putTeam k v).bank = s.bank := rfl
@[simp] theorem State.putTeam_time (s : State) (k : Nat) (v : TeamSt) : (s.putTeam k v).time = s.time := rfl
@[simp] theorem State.putTeam_irq (s : State) (k : Nat) (v : TeamSt) : (s.putTeam k v).irq = s.irq := rfl
@[simp] theorem State.putTeam_hub (s : State) (k : Nat) (v : TeamSt) : (s.putTeam k v).hub = s.hub := rfl
@[simp] theorem State.putTeam_tick (s : State) (k : Nat) (v : TeamSt) : (s.putTeam k v).tick = s.tick := rfl
@[simp] theorem State.putTeam_buf (s : State) (k : Nat) (v : TeamSt) : (s.putTeam k v).buf = s.buf := rfl
@[simp] theorem State.putTeam_core (s : State) (k : Nat) (v : TeamSt) : (s.putTeam k v).core = s.core := rfl
@[simp] theorem State.putTeam_queue (s : State) (k : Nat) (v : TeamSt) : (s.putTeam k v).queue = s.queue := rfl
@[simp] theorem State.putTeam_bridge (s : State) (k : Nat) (v : TeamSt) : (s.putTeam k v).bridge = s.bridge := rfl
@[simp] theorem State.putTeam_mirror (s : State) (k : Nat) (v : TeamSt) : (s.putTeam k v).mirror = s.mirror := rfl
@[simp] theorem State.putTeam_gate (s : State) (k : Nat) (v : TeamSt) : (s.putTeam k v).gate = s.gate := rfl
@[simp] theorem State.putTeam_sched (s : State) (k : Nat) (v : TeamSt) : (s.putTeam k v).sched = s.sched := rfl
@[simp] theorem State.putTeam_tabs (s : State) (k : Nat) (v : TeamSt) : (s.putTeam k v).tabs = s.tabs := rfl
@[simp] theorem State.putTeam_fdb (s : State) (k : Nat) (v : TeamSt) : (s.putTeam k v).fdb = s.fdb := rfl
@[simp] theorem State.putTeam_sig (s : State) (k : Nat) (v : TeamSt) : (s.putTeam k v).sig = s.sig := rfl
@[simp] theorem State.putTeam_swap (s : State) (k : Nat) (v : TeamSt) : (s.putTeam k v).swap = s.swap := rfl
@[simp] theorem State.putTeam_failLog (s : State) (k : Nat) (v : TeamSt) : (s.putTeam k v).failLog = s.failLog := rfl
@[simp] theorem State.putTeam_mar (s : State) (k : Nat) (v : TeamSt) : (s.putTeam k v).mar = s.mar := rfl
@[simp] theorem State.putTeam_image (s : State) (k : Nat) (v : TeamSt) : (s.putTeam k v).image = s.image := rfl
@[simp] theorem State.putTeam_link (s : State) (k : Nat) (v : TeamSt) : (s.putTeam k v).link = s.link := rfl
@[simp] theorem State.putTeam_rx (s : State) (k : Nat) (v : TeamSt) : (s.putTeam k v).rx = s.rx := rfl
@[simp] theorem State.putTeam_tx (s : State) (k : Nat) (v : TeamSt) : (s.putTeam k v).tx = s.tx := rfl
@[simp] theorem State.putTeam_mdio (s : State) (k : Nat) (v : TeamSt) : (s.putTeam k v).mdio = s.mdio := rfl
@[simp] theorem State.putTeam_ciph (s : State) (k : Nat) (v : TeamSt) : (s.putTeam k v).ciph = s.ciph := rfl
@[simp] theorem State.putTeam_chan (s : State) (k : Nat) (v : TeamSt) : (s.putTeam k v).chan = s.chan := rfl
@[simp] theorem State.putTeam_half (s : State) (k : Nat) (v : TeamSt) : (s.putTeam k v).half = s.half := rfl
@[simp] theorem State.putTeam_phy (s : State) (k : Nat) (v : TeamSt) : (s.putTeam k v).phy = s.phy := rfl
@[simp] theorem State.putTeam_dom (s : State) (k : Nat) (v : TeamSt) : (s.putTeam k v).dom = s.dom := rfl
@[simp] theorem State.putTeam_dev (s : State) (k : Nat) (v : TeamSt) : (s.putTeam k v).dev = s.dev := rfl
@[simp] theorem State.putTeam_sag (s : State) (k : Nat) (v : TeamSt) : (s.putTeam k v).sag = s.sag := rfl
@[simp] theorem State.putTeam_lehr (s : State) (k : Nat) (v : TeamSt) : (s.putTeam k v).lehr = s.lehr := rfl
@[simp] theorem State.putTeam_boot (s : State) (k : Nat) (v : TeamSt) : (s.putTeam k v).boot = s.boot := rfl
@[simp] theorem State.putTeam_fuse (s : State) (k : Nat) (v : TeamSt) : (s.putTeam k v).fuse = s.fuse := rfl
@[simp] theorem State.putTeam_flash (s : State) (k : Nat) (v : TeamSt) : (s.putTeam k v).flash = s.flash := rfl
@[simp] theorem State.putTeam_hostMem (s : State) (k : Nat) (v : TeamSt) : (s.putTeam k v).hostMem = s.hostMem := rfl
@[simp] theorem State.putTeam_pins (s : State) (k : Nat) (v : TeamSt) : (s.putTeam k v).pins = s.pins := rfl
@[simp] theorem State.putTeam_pcie (s : State) (k : Nat) (v : TeamSt) : (s.putTeam k v).pcie = s.pcie := rfl
@[simp] theorem State.putTeam_ring (s : State) (k : Nat) (v : TeamSt) : (s.putTeam k v).ring = s.ring := rfl
@[simp] theorem State.putTeam_vlatch (s : State) (k : Nat) (v : TeamSt) : (s.putTeam k v).vlatch = s.vlatch := rfl

@[simp] theorem State.teamAt_same (s : State) (k : Nat) (v : TeamSt) : (s.putTeam k v).teamAt k = v := Tab.get_set_same _ _ _ _
theorem State.teamAt_ne (s : State) {k j : Nat} (v : TeamSt) (h : j ≠ k) : (s.putTeam k v).teamAt j = s.teamAt j := Tab.get_set_ne _ _ _ h

/-! putTabs -/
@[simp] theorem State.putTabs_pending (s : State) (k : Nat) (v : TabSt) : (s.putTabs k v).pending = s.pending := rfl
@[simp] theorem State.putTabs_nonce (s : State) (k : Nat) (v : TabSt) : (s.putTabs k v).nonce = s.nonce := rfl
@[simp] theorem State.putTabs_resp (s : State) (k : Nat) (v : TabSt) : (s.putTabs k v).resp = s.resp := rfl
@[simp] theorem State.putTabs_regs (s : State) (k : Nat) (v : TabSt) : (s.putTabs k v).regs = s.regs := rfl
@[simp] theorem State.putTabs_ctrs (s : State) (k : Nat) (v : TabSt) : (s.putTabs k v).ctrs = s.ctrs := rfl
@[simp] theorem State.putTabs_snaps (s : State) (k : Nat) (v : TabSt) : (s.putTabs k v).snaps = s.snaps := rfl
@[simp] theorem State.putTabs_clatch (s : State) (k : Nat) (v : TabSt) : (s.putTabs k v).clatch = s.clatch := rfl
@[simp] theorem State.putTabs_bank (s : State) (k : Nat) (v : TabSt) : (s.putTabs k v).bank = s.bank := rfl
@[simp] theorem State.putTabs_time (s : State) (k : Nat) (v : TabSt) : (s.putTabs k v).time = s.time := rfl
@[simp] theorem State.putTabs_irq (s : State) (k : Nat) (v : TabSt) : (s.putTabs k v).irq = s.irq := rfl
@[simp] theorem State.putTabs_hub (s : State) (k : Nat) (v : TabSt) : (s.putTabs k v).hub = s.hub := rfl
@[simp] theorem State.putTabs_tick (s : State) (k : Nat) (v : TabSt) : (s.putTabs k v).tick = s.tick := rfl
@[simp] theorem State.putTabs_buf (s : State) (k : Nat) (v : TabSt) : (s.putTabs k v).buf = s.buf := rfl
@[simp] theorem State.putTabs_core (s : State) (k : Nat) (v : TabSt) : (s.putTabs k v).core = s.core := rfl
@[simp] theorem State.putTabs_queue (s : State) (k : Nat) (v : TabSt) : (s.putTabs k v).queue = s.queue := rfl
@[simp] theorem State.putTabs_bridge (s : State) (k : Nat) (v : TabSt) : (s.putTabs k v).bridge = s.bridge := rfl
@[simp] theorem State.putTabs_mirror (s : State) (k : Nat) (v : TabSt) : (s.putTabs k v).mirror = s.mirror := rfl
@[simp] theorem State.putTabs_gate (s : State) (k : Nat) (v : TabSt) : (s.putTabs k v).gate = s.gate := rfl
@[simp] theorem State.putTabs_sched (s : State) (k : Nat) (v : TabSt) : (s.putTabs k v).sched = s.sched := rfl
@[simp] theorem State.putTabs_team (s : State) (k : Nat) (v : TabSt) : (s.putTabs k v).team = s.team := rfl
@[simp] theorem State.putTabs_fdb (s : State) (k : Nat) (v : TabSt) : (s.putTabs k v).fdb = s.fdb := rfl
@[simp] theorem State.putTabs_sig (s : State) (k : Nat) (v : TabSt) : (s.putTabs k v).sig = s.sig := rfl
@[simp] theorem State.putTabs_swap (s : State) (k : Nat) (v : TabSt) : (s.putTabs k v).swap = s.swap := rfl
@[simp] theorem State.putTabs_failLog (s : State) (k : Nat) (v : TabSt) : (s.putTabs k v).failLog = s.failLog := rfl
@[simp] theorem State.putTabs_mar (s : State) (k : Nat) (v : TabSt) : (s.putTabs k v).mar = s.mar := rfl
@[simp] theorem State.putTabs_image (s : State) (k : Nat) (v : TabSt) : (s.putTabs k v).image = s.image := rfl
@[simp] theorem State.putTabs_link (s : State) (k : Nat) (v : TabSt) : (s.putTabs k v).link = s.link := rfl
@[simp] theorem State.putTabs_rx (s : State) (k : Nat) (v : TabSt) : (s.putTabs k v).rx = s.rx := rfl
@[simp] theorem State.putTabs_tx (s : State) (k : Nat) (v : TabSt) : (s.putTabs k v).tx = s.tx := rfl
@[simp] theorem State.putTabs_mdio (s : State) (k : Nat) (v : TabSt) : (s.putTabs k v).mdio = s.mdio := rfl
@[simp] theorem State.putTabs_ciph (s : State) (k : Nat) (v : TabSt) : (s.putTabs k v).ciph = s.ciph := rfl
@[simp] theorem State.putTabs_chan (s : State) (k : Nat) (v : TabSt) : (s.putTabs k v).chan = s.chan := rfl
@[simp] theorem State.putTabs_half (s : State) (k : Nat) (v : TabSt) : (s.putTabs k v).half = s.half := rfl
@[simp] theorem State.putTabs_phy (s : State) (k : Nat) (v : TabSt) : (s.putTabs k v).phy = s.phy := rfl
@[simp] theorem State.putTabs_dom (s : State) (k : Nat) (v : TabSt) : (s.putTabs k v).dom = s.dom := rfl
@[simp] theorem State.putTabs_dev (s : State) (k : Nat) (v : TabSt) : (s.putTabs k v).dev = s.dev := rfl
@[simp] theorem State.putTabs_sag (s : State) (k : Nat) (v : TabSt) : (s.putTabs k v).sag = s.sag := rfl
@[simp] theorem State.putTabs_lehr (s : State) (k : Nat) (v : TabSt) : (s.putTabs k v).lehr = s.lehr := rfl
@[simp] theorem State.putTabs_boot (s : State) (k : Nat) (v : TabSt) : (s.putTabs k v).boot = s.boot := rfl
@[simp] theorem State.putTabs_fuse (s : State) (k : Nat) (v : TabSt) : (s.putTabs k v).fuse = s.fuse := rfl
@[simp] theorem State.putTabs_flash (s : State) (k : Nat) (v : TabSt) : (s.putTabs k v).flash = s.flash := rfl
@[simp] theorem State.putTabs_hostMem (s : State) (k : Nat) (v : TabSt) : (s.putTabs k v).hostMem = s.hostMem := rfl
@[simp] theorem State.putTabs_pins (s : State) (k : Nat) (v : TabSt) : (s.putTabs k v).pins = s.pins := rfl
@[simp] theorem State.putTabs_pcie (s : State) (k : Nat) (v : TabSt) : (s.putTabs k v).pcie = s.pcie := rfl
@[simp] theorem State.putTabs_ring (s : State) (k : Nat) (v : TabSt) : (s.putTabs k v).ring = s.ring := rfl
@[simp] theorem State.putTabs_vlatch (s : State) (k : Nat) (v : TabSt) : (s.putTabs k v).vlatch = s.vlatch := rfl

@[simp] theorem State.tabsAt_same (s : State) (k : Nat) (v : TabSt) : (s.putTabs k v).tabsAt k = v := Tab.get_set_same _ _ _ _
theorem State.tabsAt_ne (s : State) {k j : Nat} (v : TabSt) (h : j ≠ k) : (s.putTabs k v).tabsAt j = s.tabsAt j := Tab.get_set_ne _ _ _ h

/-! putFdb -/
@[simp] theorem State.putFdb_pending (s : State) (k : Nat) (v : FdbSt) : (s.putFdb k v).pending = s.pending := rfl
@[simp] theorem State.putFdb_nonce (s : State) (k : Nat) (v : FdbSt) : (s.putFdb k v).nonce = s.nonce := rfl
@[simp] theorem State.putFdb_resp (s : State) (k : Nat) (v : FdbSt) : (s.putFdb k v).resp = s.resp := rfl
@[simp] theorem State.putFdb_regs (s : State) (k : Nat) (v : FdbSt) : (s.putFdb k v).regs = s.regs := rfl
@[simp] theorem State.putFdb_ctrs (s : State) (k : Nat) (v : FdbSt) : (s.putFdb k v).ctrs = s.ctrs := rfl
@[simp] theorem State.putFdb_snaps (s : State) (k : Nat) (v : FdbSt) : (s.putFdb k v).snaps = s.snaps := rfl
@[simp] theorem State.putFdb_clatch (s : State) (k : Nat) (v : FdbSt) : (s.putFdb k v).clatch = s.clatch := rfl
@[simp] theorem State.putFdb_bank (s : State) (k : Nat) (v : FdbSt) : (s.putFdb k v).bank = s.bank := rfl
@[simp] theorem State.putFdb_time (s : State) (k : Nat) (v : FdbSt) : (s.putFdb k v).time = s.time := rfl
@[simp] theorem State.putFdb_irq (s : State) (k : Nat) (v : FdbSt) : (s.putFdb k v).irq = s.irq := rfl
@[simp] theorem State.putFdb_hub (s : State) (k : Nat) (v : FdbSt) : (s.putFdb k v).hub = s.hub := rfl
@[simp] theorem State.putFdb_tick (s : State) (k : Nat) (v : FdbSt) : (s.putFdb k v).tick = s.tick := rfl
@[simp] theorem State.putFdb_buf (s : State) (k : Nat) (v : FdbSt) : (s.putFdb k v).buf = s.buf := rfl
@[simp] theorem State.putFdb_core (s : State) (k : Nat) (v : FdbSt) : (s.putFdb k v).core = s.core := rfl
@[simp] theorem State.putFdb_queue (s : State) (k : Nat) (v : FdbSt) : (s.putFdb k v).queue = s.queue := rfl
@[simp] theorem State.putFdb_bridge (s : State) (k : Nat) (v : FdbSt) : (s.putFdb k v).bridge = s.bridge := rfl
@[simp] theorem State.putFdb_mirror (s : State) (k : Nat) (v : FdbSt) : (s.putFdb k v).mirror = s.mirror := rfl
@[simp] theorem State.putFdb_gate (s : State) (k : Nat) (v : FdbSt) : (s.putFdb k v).gate = s.gate := rfl
@[simp] theorem State.putFdb_sched (s : State) (k : Nat) (v : FdbSt) : (s.putFdb k v).sched = s.sched := rfl
@[simp] theorem State.putFdb_team (s : State) (k : Nat) (v : FdbSt) : (s.putFdb k v).team = s.team := rfl
@[simp] theorem State.putFdb_tabs (s : State) (k : Nat) (v : FdbSt) : (s.putFdb k v).tabs = s.tabs := rfl
@[simp] theorem State.putFdb_sig (s : State) (k : Nat) (v : FdbSt) : (s.putFdb k v).sig = s.sig := rfl
@[simp] theorem State.putFdb_swap (s : State) (k : Nat) (v : FdbSt) : (s.putFdb k v).swap = s.swap := rfl
@[simp] theorem State.putFdb_failLog (s : State) (k : Nat) (v : FdbSt) : (s.putFdb k v).failLog = s.failLog := rfl
@[simp] theorem State.putFdb_mar (s : State) (k : Nat) (v : FdbSt) : (s.putFdb k v).mar = s.mar := rfl
@[simp] theorem State.putFdb_image (s : State) (k : Nat) (v : FdbSt) : (s.putFdb k v).image = s.image := rfl
@[simp] theorem State.putFdb_link (s : State) (k : Nat) (v : FdbSt) : (s.putFdb k v).link = s.link := rfl
@[simp] theorem State.putFdb_rx (s : State) (k : Nat) (v : FdbSt) : (s.putFdb k v).rx = s.rx := rfl
@[simp] theorem State.putFdb_tx (s : State) (k : Nat) (v : FdbSt) : (s.putFdb k v).tx = s.tx := rfl
@[simp] theorem State.putFdb_mdio (s : State) (k : Nat) (v : FdbSt) : (s.putFdb k v).mdio = s.mdio := rfl
@[simp] theorem State.putFdb_ciph (s : State) (k : Nat) (v : FdbSt) : (s.putFdb k v).ciph = s.ciph := rfl
@[simp] theorem State.putFdb_chan (s : State) (k : Nat) (v : FdbSt) : (s.putFdb k v).chan = s.chan := rfl
@[simp] theorem State.putFdb_half (s : State) (k : Nat) (v : FdbSt) : (s.putFdb k v).half = s.half := rfl
@[simp] theorem State.putFdb_phy (s : State) (k : Nat) (v : FdbSt) : (s.putFdb k v).phy = s.phy := rfl
@[simp] theorem State.putFdb_dom (s : State) (k : Nat) (v : FdbSt) : (s.putFdb k v).dom = s.dom := rfl
@[simp] theorem State.putFdb_dev (s : State) (k : Nat) (v : FdbSt) : (s.putFdb k v).dev = s.dev := rfl
@[simp] theorem State.putFdb_sag (s : State) (k : Nat) (v : FdbSt) : (s.putFdb k v).sag = s.sag := rfl
@[simp] theorem State.putFdb_lehr (s : State) (k : Nat) (v : FdbSt) : (s.putFdb k v).lehr = s.lehr := rfl
@[simp] theorem State.putFdb_boot (s : State) (k : Nat) (v : FdbSt) : (s.putFdb k v).boot = s.boot := rfl
@[simp] theorem State.putFdb_fuse (s : State) (k : Nat) (v : FdbSt) : (s.putFdb k v).fuse = s.fuse := rfl
@[simp] theorem State.putFdb_flash (s : State) (k : Nat) (v : FdbSt) : (s.putFdb k v).flash = s.flash := rfl
@[simp] theorem State.putFdb_hostMem (s : State) (k : Nat) (v : FdbSt) : (s.putFdb k v).hostMem = s.hostMem := rfl
@[simp] theorem State.putFdb_pins (s : State) (k : Nat) (v : FdbSt) : (s.putFdb k v).pins = s.pins := rfl
@[simp] theorem State.putFdb_pcie (s : State) (k : Nat) (v : FdbSt) : (s.putFdb k v).pcie = s.pcie := rfl
@[simp] theorem State.putFdb_ring (s : State) (k : Nat) (v : FdbSt) : (s.putFdb k v).ring = s.ring := rfl
@[simp] theorem State.putFdb_vlatch (s : State) (k : Nat) (v : FdbSt) : (s.putFdb k v).vlatch = s.vlatch := rfl

@[simp] theorem State.fdbAt_same (s : State) (k : Nat) (v : FdbSt) : (s.putFdb k v).fdbAt k = v := Tab.get_set_same _ _ _ _
theorem State.fdbAt_ne (s : State) {k j : Nat} (v : FdbSt) (h : j ≠ k) : (s.putFdb k v).fdbAt j = s.fdbAt j := Tab.get_set_ne _ _ _ h

/-! putSig -/
@[simp] theorem State.putSig_pending (s : State) (k : Nat) (v : SigSt) : (s.putSig k v).pending = s.pending := rfl
@[simp] theorem State.putSig_nonce (s : State) (k : Nat) (v : SigSt) : (s.putSig k v).nonce = s.nonce := rfl
@[simp] theorem State.putSig_resp (s : State) (k : Nat) (v : SigSt) : (s.putSig k v).resp = s.resp := rfl
@[simp] theorem State.putSig_regs (s : State) (k : Nat) (v : SigSt) : (s.putSig k v).regs = s.regs := rfl
@[simp] theorem State.putSig_ctrs (s : State) (k : Nat) (v : SigSt) : (s.putSig k v).ctrs = s.ctrs := rfl
@[simp] theorem State.putSig_snaps (s : State) (k : Nat) (v : SigSt) : (s.putSig k v).snaps = s.snaps := rfl
@[simp] theorem State.putSig_clatch (s : State) (k : Nat) (v : SigSt) : (s.putSig k v).clatch = s.clatch := rfl
@[simp] theorem State.putSig_bank (s : State) (k : Nat) (v : SigSt) : (s.putSig k v).bank = s.bank := rfl
@[simp] theorem State.putSig_time (s : State) (k : Nat) (v : SigSt) : (s.putSig k v).time = s.time := rfl
@[simp] theorem State.putSig_irq (s : State) (k : Nat) (v : SigSt) : (s.putSig k v).irq = s.irq := rfl
@[simp] theorem State.putSig_hub (s : State) (k : Nat) (v : SigSt) : (s.putSig k v).hub = s.hub := rfl
@[simp] theorem State.putSig_tick (s : State) (k : Nat) (v : SigSt) : (s.putSig k v).tick = s.tick := rfl
@[simp] theorem State.putSig_buf (s : State) (k : Nat) (v : SigSt) : (s.putSig k v).buf = s.buf := rfl
@[simp] theorem State.putSig_core (s : State) (k : Nat) (v : SigSt) : (s.putSig k v).core = s.core := rfl
@[simp] theorem State.putSig_queue (s : State) (k : Nat) (v : SigSt) : (s.putSig k v).queue = s.queue := rfl
@[simp] theorem State.putSig_bridge (s : State) (k : Nat) (v : SigSt) : (s.putSig k v).bridge = s.bridge := rfl
@[simp] theorem State.putSig_mirror (s : State) (k : Nat) (v : SigSt) : (s.putSig k v).mirror = s.mirror := rfl
@[simp] theorem State.putSig_gate (s : State) (k : Nat) (v : SigSt) : (s.putSig k v).gate = s.gate := rfl
@[simp] theorem State.putSig_sched (s : State) (k : Nat) (v : SigSt) : (s.putSig k v).sched = s.sched := rfl
@[simp] theorem State.putSig_team (s : State) (k : Nat) (v : SigSt) : (s.putSig k v).team = s.team := rfl
@[simp] theorem State.putSig_tabs (s : State) (k : Nat) (v : SigSt) : (s.putSig k v).tabs = s.tabs := rfl
@[simp] theorem State.putSig_fdb (s : State) (k : Nat) (v : SigSt) : (s.putSig k v).fdb = s.fdb := rfl
@[simp] theorem State.putSig_swap (s : State) (k : Nat) (v : SigSt) : (s.putSig k v).swap = s.swap := rfl
@[simp] theorem State.putSig_failLog (s : State) (k : Nat) (v : SigSt) : (s.putSig k v).failLog = s.failLog := rfl
@[simp] theorem State.putSig_mar (s : State) (k : Nat) (v : SigSt) : (s.putSig k v).mar = s.mar := rfl
@[simp] theorem State.putSig_image (s : State) (k : Nat) (v : SigSt) : (s.putSig k v).image = s.image := rfl
@[simp] theorem State.putSig_link (s : State) (k : Nat) (v : SigSt) : (s.putSig k v).link = s.link := rfl
@[simp] theorem State.putSig_rx (s : State) (k : Nat) (v : SigSt) : (s.putSig k v).rx = s.rx := rfl
@[simp] theorem State.putSig_tx (s : State) (k : Nat) (v : SigSt) : (s.putSig k v).tx = s.tx := rfl
@[simp] theorem State.putSig_mdio (s : State) (k : Nat) (v : SigSt) : (s.putSig k v).mdio = s.mdio := rfl
@[simp] theorem State.putSig_ciph (s : State) (k : Nat) (v : SigSt) : (s.putSig k v).ciph = s.ciph := rfl
@[simp] theorem State.putSig_chan (s : State) (k : Nat) (v : SigSt) : (s.putSig k v).chan = s.chan := rfl
@[simp] theorem State.putSig_half (s : State) (k : Nat) (v : SigSt) : (s.putSig k v).half = s.half := rfl
@[simp] theorem State.putSig_phy (s : State) (k : Nat) (v : SigSt) : (s.putSig k v).phy = s.phy := rfl
@[simp] theorem State.putSig_dom (s : State) (k : Nat) (v : SigSt) : (s.putSig k v).dom = s.dom := rfl
@[simp] theorem State.putSig_dev (s : State) (k : Nat) (v : SigSt) : (s.putSig k v).dev = s.dev := rfl
@[simp] theorem State.putSig_sag (s : State) (k : Nat) (v : SigSt) : (s.putSig k v).sag = s.sag := rfl
@[simp] theorem State.putSig_lehr (s : State) (k : Nat) (v : SigSt) : (s.putSig k v).lehr = s.lehr := rfl
@[simp] theorem State.putSig_boot (s : State) (k : Nat) (v : SigSt) : (s.putSig k v).boot = s.boot := rfl
@[simp] theorem State.putSig_fuse (s : State) (k : Nat) (v : SigSt) : (s.putSig k v).fuse = s.fuse := rfl
@[simp] theorem State.putSig_flash (s : State) (k : Nat) (v : SigSt) : (s.putSig k v).flash = s.flash := rfl
@[simp] theorem State.putSig_hostMem (s : State) (k : Nat) (v : SigSt) : (s.putSig k v).hostMem = s.hostMem := rfl
@[simp] theorem State.putSig_pins (s : State) (k : Nat) (v : SigSt) : (s.putSig k v).pins = s.pins := rfl
@[simp] theorem State.putSig_pcie (s : State) (k : Nat) (v : SigSt) : (s.putSig k v).pcie = s.pcie := rfl
@[simp] theorem State.putSig_ring (s : State) (k : Nat) (v : SigSt) : (s.putSig k v).ring = s.ring := rfl
@[simp] theorem State.putSig_vlatch (s : State) (k : Nat) (v : SigSt) : (s.putSig k v).vlatch = s.vlatch := rfl

@[simp] theorem State.sigAt_same (s : State) (k : Nat) (v : SigSt) : (s.putSig k v).sigAt k = v := Tab.get_set_same _ _ _ _
theorem State.sigAt_ne (s : State) {k j : Nat} (v : SigSt) (h : j ≠ k) : (s.putSig k v).sigAt j = s.sigAt j := Tab.get_set_ne _ _ _ h

/-! putSwap -/
@[simp] theorem State.putSwap_pending (s : State) (k : Nat) (v : Option SwapSt) : (s.putSwap k v).pending = s.pending := rfl
@[simp] theorem State.putSwap_nonce (s : State) (k : Nat) (v : Option SwapSt) : (s.putSwap k v).nonce = s.nonce := rfl
@[simp] theorem State.putSwap_resp (s : State) (k : Nat) (v : Option SwapSt) : (s.putSwap k v).resp = s.resp := rfl
@[simp] theorem State.putSwap_regs (s : State) (k : Nat) (v : Option SwapSt) : (s.putSwap k v).regs = s.regs := rfl
@[simp] theorem State.putSwap_ctrs (s : State) (k : Nat) (v : Option SwapSt) : (s.putSwap k v).ctrs = s.ctrs := rfl
@[simp] theorem State.putSwap_snaps (s : State) (k : Nat) (v : Option SwapSt) : (s.putSwap k v).snaps = s.snaps := rfl
@[simp] theorem State.putSwap_clatch (s : State) (k : Nat) (v : Option SwapSt) : (s.putSwap k v).clatch = s.clatch := rfl
@[simp] theorem State.putSwap_bank (s : State) (k : Nat) (v : Option SwapSt) : (s.putSwap k v).bank = s.bank := rfl
@[simp] theorem State.putSwap_time (s : State) (k : Nat) (v : Option SwapSt) : (s.putSwap k v).time = s.time := rfl
@[simp] theorem State.putSwap_irq (s : State) (k : Nat) (v : Option SwapSt) : (s.putSwap k v).irq = s.irq := rfl
@[simp] theorem State.putSwap_hub (s : State) (k : Nat) (v : Option SwapSt) : (s.putSwap k v).hub = s.hub := rfl
@[simp] theorem State.putSwap_tick (s : State) (k : Nat) (v : Option SwapSt) : (s.putSwap k v).tick = s.tick := rfl
@[simp] theorem State.putSwap_buf (s : State) (k : Nat) (v : Option SwapSt) : (s.putSwap k v).buf = s.buf := rfl
@[simp] theorem State.putSwap_core (s : State) (k : Nat) (v : Option SwapSt) : (s.putSwap k v).core = s.core := rfl
@[simp] theorem State.putSwap_queue (s : State) (k : Nat) (v : Option SwapSt) : (s.putSwap k v).queue = s.queue := rfl
@[simp] theorem State.putSwap_bridge (s : State) (k : Nat) (v : Option SwapSt) : (s.putSwap k v).bridge = s.bridge := rfl
@[simp] theorem State.putSwap_mirror (s : State) (k : Nat) (v : Option SwapSt) : (s.putSwap k v).mirror = s.mirror := rfl
@[simp] theorem State.putSwap_gate (s : State) (k : Nat) (v : Option SwapSt) : (s.putSwap k v).gate = s.gate := rfl
@[simp] theorem State.putSwap_sched (s : State) (k : Nat) (v : Option SwapSt) : (s.putSwap k v).sched = s.sched := rfl
@[simp] theorem State.putSwap_team (s : State) (k : Nat) (v : Option SwapSt) : (s.putSwap k v).team = s.team := rfl
@[simp] theorem State.putSwap_tabs (s : State) (k : Nat) (v : Option SwapSt) : (s.putSwap k v).tabs = s.tabs := rfl
@[simp] theorem State.putSwap_fdb (s : State) (k : Nat) (v : Option SwapSt) : (s.putSwap k v).fdb = s.fdb := rfl
@[simp] theorem State.putSwap_sig (s : State) (k : Nat) (v : Option SwapSt) : (s.putSwap k v).sig = s.sig := rfl
@[simp] theorem State.putSwap_failLog (s : State) (k : Nat) (v : Option SwapSt) : (s.putSwap k v).failLog = s.failLog := rfl
@[simp] theorem State.putSwap_mar (s : State) (k : Nat) (v : Option SwapSt) : (s.putSwap k v).mar = s.mar := rfl
@[simp] theorem State.putSwap_image (s : State) (k : Nat) (v : Option SwapSt) : (s.putSwap k v).image = s.image := rfl
@[simp] theorem State.putSwap_link (s : State) (k : Nat) (v : Option SwapSt) : (s.putSwap k v).link = s.link := rfl
@[simp] theorem State.putSwap_rx (s : State) (k : Nat) (v : Option SwapSt) : (s.putSwap k v).rx = s.rx := rfl
@[simp] theorem State.putSwap_tx (s : State) (k : Nat) (v : Option SwapSt) : (s.putSwap k v).tx = s.tx := rfl
@[simp] theorem State.putSwap_mdio (s : State) (k : Nat) (v : Option SwapSt) : (s.putSwap k v).mdio = s.mdio := rfl
@[simp] theorem State.putSwap_ciph (s : State) (k : Nat) (v : Option SwapSt) : (s.putSwap k v).ciph = s.ciph := rfl
@[simp] theorem State.putSwap_chan (s : State) (k : Nat) (v : Option SwapSt) : (s.putSwap k v).chan = s.chan := rfl
@[simp] theorem State.putSwap_half (s : State) (k : Nat) (v : Option SwapSt) : (s.putSwap k v).half = s.half := rfl
@[simp] theorem State.putSwap_phy (s : State) (k : Nat) (v : Option SwapSt) : (s.putSwap k v).phy = s.phy := rfl
@[simp] theorem State.putSwap_dom (s : State) (k : Nat) (v : Option SwapSt) : (s.putSwap k v).dom = s.dom := rfl
@[simp] theorem State.putSwap_dev (s : State) (k : Nat) (v : Option SwapSt) : (s.putSwap k v).dev = s.dev := rfl
@[simp] theorem State.putSwap_sag (s : State) (k : Nat) (v : Option SwapSt) : (s.putSwap k v).sag = s.sag := rfl
@[simp] theorem State.putSwap_lehr (s : State) (k : Nat) (v : Option SwapSt) : (s.putSwap k v).lehr = s.lehr := rfl
@[simp] theorem State.putSwap_boot (s : State) (k : Nat) (v : Option SwapSt) : (s.putSwap k v).boot = s.boot := rfl
@[simp] theorem State.putSwap_fuse (s : State) (k : Nat) (v : Option SwapSt) : (s.putSwap k v).fuse = s.fuse := rfl
@[simp] theorem State.putSwap_flash (s : State) (k : Nat) (v : Option SwapSt) : (s.putSwap k v).flash = s.flash := rfl
@[simp] theorem State.putSwap_hostMem (s : State) (k : Nat) (v : Option SwapSt) : (s.putSwap k v).hostMem = s.hostMem := rfl
@[simp] theorem State.putSwap_pins (s : State) (k : Nat) (v : Option SwapSt) : (s.putSwap k v).pins = s.pins := rfl
@[simp] theorem State.putSwap_pcie (s : State) (k : Nat) (v : Option SwapSt) : (s.putSwap k v).pcie = s.pcie := rfl
@[simp] theorem State.putSwap_ring (s : State) (k : Nat) (v : Option SwapSt) : (s.putSwap k v).ring = s.ring := rfl
@[simp] theorem State.putSwap_vlatch (s : State) (k : Nat) (v : Option SwapSt) : (s.putSwap k v).vlatch = s.vlatch := rfl

@[simp] theorem State.swapAt_same (s : State) (k : Nat) (v : Option SwapSt) : (s.putSwap k v).swapAt k = v := Tab.get_set_same _ _ _ _
theorem State.swapAt_ne (s : State) {k j : Nat} (v : Option SwapSt) (h : j ≠ k) : (s.putSwap k v).swapAt j = s.swapAt j := Tab.get_set_ne _ _ _ h

/-! putFailLog -/
@[simp] theorem State.putFailLog_pending (s : State) (k : Nat) (v : List Nat) : (s.putFailLog k v).pending = s.pending := rfl
@[simp] theorem State.putFailLog_nonce (s : State) (k : Nat) (v : List Nat) : (s.putFailLog k v).nonce = s.nonce := rfl
@[simp] theorem State.putFailLog_resp (s : State) (k : Nat) (v : List Nat) : (s.putFailLog k v).resp = s.resp := rfl
@[simp] theorem State.putFailLog_regs (s : State) (k : Nat) (v : List Nat) : (s.putFailLog k v).regs = s.regs := rfl
@[simp] theorem State.putFailLog_ctrs (s : State) (k : Nat) (v : List Nat) : (s.putFailLog k v).ctrs = s.ctrs := rfl
@[simp] theorem State.putFailLog_snaps (s : State) (k : Nat) (v : List Nat) : (s.putFailLog k v).snaps = s.snaps := rfl
@[simp] theorem State.putFailLog_clatch (s : State) (k : Nat) (v : List Nat) : (s.putFailLog k v).clatch = s.clatch := rfl
@[simp] theorem State.putFailLog_bank (s : State) (k : Nat) (v : List Nat) : (s.putFailLog k v).bank = s.bank := rfl
@[simp] theorem State.putFailLog_time (s : State) (k : Nat) (v : List Nat) : (s.putFailLog k v).time = s.time := rfl
@[simp] theorem State.putFailLog_irq (s : State) (k : Nat) (v : List Nat) : (s.putFailLog k v).irq = s.irq := rfl
@[simp] theorem State.putFailLog_hub (s : State) (k : Nat) (v : List Nat) : (s.putFailLog k v).hub = s.hub := rfl
@[simp] theorem State.putFailLog_tick (s : State) (k : Nat) (v : List Nat) : (s.putFailLog k v).tick = s.tick := rfl
@[simp] theorem State.putFailLog_buf (s : State) (k : Nat) (v : List Nat) : (s.putFailLog k v).buf = s.buf := rfl
@[simp] theorem State.putFailLog_core (s : State) (k : Nat) (v : List Nat) : (s.putFailLog k v).core = s.core := rfl
@[simp] theorem State.putFailLog_queue (s : State) (k : Nat) (v : List Nat) : (s.putFailLog k v).queue = s.queue := rfl
@[simp] theorem State.putFailLog_bridge (s : State) (k : Nat) (v : List Nat) : (s.putFailLog k v).bridge = s.bridge := rfl
@[simp] theorem State.putFailLog_mirror (s : State) (k : Nat) (v : List Nat) : (s.putFailLog k v).mirror = s.mirror := rfl
@[simp] theorem State.putFailLog_gate (s : State) (k : Nat) (v : List Nat) : (s.putFailLog k v).gate = s.gate := rfl
@[simp] theorem State.putFailLog_sched (s : State) (k : Nat) (v : List Nat) : (s.putFailLog k v).sched = s.sched := rfl
@[simp] theorem State.putFailLog_team (s : State) (k : Nat) (v : List Nat) : (s.putFailLog k v).team = s.team := rfl
@[simp] theorem State.putFailLog_tabs (s : State) (k : Nat) (v : List Nat) : (s.putFailLog k v).tabs = s.tabs := rfl
@[simp] theorem State.putFailLog_fdb (s : State) (k : Nat) (v : List Nat) : (s.putFailLog k v).fdb = s.fdb := rfl
@[simp] theorem State.putFailLog_sig (s : State) (k : Nat) (v : List Nat) : (s.putFailLog k v).sig = s.sig := rfl
@[simp] theorem State.putFailLog_swap (s : State) (k : Nat) (v : List Nat) : (s.putFailLog k v).swap = s.swap := rfl
@[simp] theorem State.putFailLog_mar (s : State) (k : Nat) (v : List Nat) : (s.putFailLog k v).mar = s.mar := rfl
@[simp] theorem State.putFailLog_image (s : State) (k : Nat) (v : List Nat) : (s.putFailLog k v).image = s.image := rfl
@[simp] theorem State.putFailLog_link (s : State) (k : Nat) (v : List Nat) : (s.putFailLog k v).link = s.link := rfl
@[simp] theorem State.putFailLog_rx (s : State) (k : Nat) (v : List Nat) : (s.putFailLog k v).rx = s.rx := rfl
@[simp] theorem State.putFailLog_tx (s : State) (k : Nat) (v : List Nat) : (s.putFailLog k v).tx = s.tx := rfl
@[simp] theorem State.putFailLog_mdio (s : State) (k : Nat) (v : List Nat) : (s.putFailLog k v).mdio = s.mdio := rfl
@[simp] theorem State.putFailLog_ciph (s : State) (k : Nat) (v : List Nat) : (s.putFailLog k v).ciph = s.ciph := rfl
@[simp] theorem State.putFailLog_chan (s : State) (k : Nat) (v : List Nat) : (s.putFailLog k v).chan = s.chan := rfl
@[simp] theorem State.putFailLog_half (s : State) (k : Nat) (v : List Nat) : (s.putFailLog k v).half = s.half := rfl
@[simp] theorem State.putFailLog_phy (s : State) (k : Nat) (v : List Nat) : (s.putFailLog k v).phy = s.phy := rfl
@[simp] theorem State.putFailLog_dom (s : State) (k : Nat) (v : List Nat) : (s.putFailLog k v).dom = s.dom := rfl
@[simp] theorem State.putFailLog_dev (s : State) (k : Nat) (v : List Nat) : (s.putFailLog k v).dev = s.dev := rfl
@[simp] theorem State.putFailLog_sag (s : State) (k : Nat) (v : List Nat) : (s.putFailLog k v).sag = s.sag := rfl
@[simp] theorem State.putFailLog_lehr (s : State) (k : Nat) (v : List Nat) : (s.putFailLog k v).lehr = s.lehr := rfl
@[simp] theorem State.putFailLog_boot (s : State) (k : Nat) (v : List Nat) : (s.putFailLog k v).boot = s.boot := rfl
@[simp] theorem State.putFailLog_fuse (s : State) (k : Nat) (v : List Nat) : (s.putFailLog k v).fuse = s.fuse := rfl
@[simp] theorem State.putFailLog_flash (s : State) (k : Nat) (v : List Nat) : (s.putFailLog k v).flash = s.flash := rfl
@[simp] theorem State.putFailLog_hostMem (s : State) (k : Nat) (v : List Nat) : (s.putFailLog k v).hostMem = s.hostMem := rfl
@[simp] theorem State.putFailLog_pins (s : State) (k : Nat) (v : List Nat) : (s.putFailLog k v).pins = s.pins := rfl
@[simp] theorem State.putFailLog_pcie (s : State) (k : Nat) (v : List Nat) : (s.putFailLog k v).pcie = s.pcie := rfl
@[simp] theorem State.putFailLog_ring (s : State) (k : Nat) (v : List Nat) : (s.putFailLog k v).ring = s.ring := rfl
@[simp] theorem State.putFailLog_vlatch (s : State) (k : Nat) (v : List Nat) : (s.putFailLog k v).vlatch = s.vlatch := rfl

@[simp] theorem State.failLogAt_same (s : State) (k : Nat) (v : List Nat) : (s.putFailLog k v).failLogAt k = v := Tab.get_set_same _ _ _ _
theorem State.failLogAt_ne (s : State) {k j : Nat} (v : List Nat) (h : j ≠ k) : (s.putFailLog k v).failLogAt j = s.failLogAt j := Tab.get_set_ne _ _ _ h

/-! putMar -/
@[simp] theorem State.putMar_pending (s : State) (k : Nat) (v : MarverSt) : (s.putMar k v).pending = s.pending := rfl
@[simp] theorem State.putMar_nonce (s : State) (k : Nat) (v : MarverSt) : (s.putMar k v).nonce = s.nonce := rfl
@[simp] theorem State.putMar_resp (s : State) (k : Nat) (v : MarverSt) : (s.putMar k v).resp = s.resp := rfl
@[simp] theorem State.putMar_regs (s : State) (k : Nat) (v : MarverSt) : (s.putMar k v).regs = s.regs := rfl
@[simp] theorem State.putMar_ctrs (s : State) (k : Nat) (v : MarverSt) : (s.putMar k v).ctrs = s.ctrs := rfl
@[simp] theorem State.putMar_snaps (s : State) (k : Nat) (v : MarverSt) : (s.putMar k v).snaps = s.snaps := rfl
@[simp] theorem State.putMar_clatch (s : State) (k : Nat) (v : MarverSt) : (s.putMar k v).clatch = s.clatch := rfl
@[simp] theorem State.putMar_bank (s : State) (k : Nat) (v : MarverSt) : (s.putMar k v).bank = s.bank := rfl
@[simp] theorem State.putMar_time (s : State) (k : Nat) (v : MarverSt) : (s.putMar k v).time = s.time := rfl
@[simp] theorem State.putMar_irq (s : State) (k : Nat) (v : MarverSt) : (s.putMar k v).irq = s.irq := rfl
@[simp] theorem State.putMar_hub (s : State) (k : Nat) (v : MarverSt) : (s.putMar k v).hub = s.hub := rfl
@[simp] theorem State.putMar_tick (s : State) (k : Nat) (v : MarverSt) : (s.putMar k v).tick = s.tick := rfl
@[simp] theorem State.putMar_buf (s : State) (k : Nat) (v : MarverSt) : (s.putMar k v).buf = s.buf := rfl
@[simp] theorem State.putMar_core (s : State) (k : Nat) (v : MarverSt) : (s.putMar k v).core = s.core := rfl
@[simp] theorem State.putMar_queue (s : State) (k : Nat) (v : MarverSt) : (s.putMar k v).queue = s.queue := rfl
@[simp] theorem State.putMar_bridge (s : State) (k : Nat) (v : MarverSt) : (s.putMar k v).bridge = s.bridge := rfl
@[simp] theorem State.putMar_mirror (s : State) (k : Nat) (v : MarverSt) : (s.putMar k v).mirror = s.mirror := rfl
@[simp] theorem State.putMar_gate (s : State) (k : Nat) (v : MarverSt) : (s.putMar k v).gate = s.gate := rfl
@[simp] theorem State.putMar_sched (s : State) (k : Nat) (v : MarverSt) : (s.putMar k v).sched = s.sched := rfl
@[simp] theorem State.putMar_team (s : State) (k : Nat) (v : MarverSt) : (s.putMar k v).team = s.team := rfl
@[simp] theorem State.putMar_tabs (s : State) (k : Nat) (v : MarverSt) : (s.putMar k v).tabs = s.tabs := rfl
@[simp] theorem State.putMar_fdb (s : State) (k : Nat) (v : MarverSt) : (s.putMar k v).fdb = s.fdb := rfl
@[simp] theorem State.putMar_sig (s : State) (k : Nat) (v : MarverSt) : (s.putMar k v).sig = s.sig := rfl
@[simp] theorem State.putMar_swap (s : State) (k : Nat) (v : MarverSt) : (s.putMar k v).swap = s.swap := rfl
@[simp] theorem State.putMar_failLog (s : State) (k : Nat) (v : MarverSt) : (s.putMar k v).failLog = s.failLog := rfl
@[simp] theorem State.putMar_image (s : State) (k : Nat) (v : MarverSt) : (s.putMar k v).image = s.image := rfl
@[simp] theorem State.putMar_link (s : State) (k : Nat) (v : MarverSt) : (s.putMar k v).link = s.link := rfl
@[simp] theorem State.putMar_rx (s : State) (k : Nat) (v : MarverSt) : (s.putMar k v).rx = s.rx := rfl
@[simp] theorem State.putMar_tx (s : State) (k : Nat) (v : MarverSt) : (s.putMar k v).tx = s.tx := rfl
@[simp] theorem State.putMar_mdio (s : State) (k : Nat) (v : MarverSt) : (s.putMar k v).mdio = s.mdio := rfl
@[simp] theorem State.putMar_ciph (s : State) (k : Nat) (v : MarverSt) : (s.putMar k v).ciph = s.ciph := rfl
@[simp] theorem State.putMar_chan (s : State) (k : Nat) (v : MarverSt) : (s.putMar k v).chan = s.chan := rfl
@[simp] theorem State.putMar_half (s : State) (k : Nat) (v : MarverSt) : (s.putMar k v).half = s.half := rfl
@[simp] theorem State.putMar_phy (s : State) (k : Nat) (v : MarverSt) : (s.putMar k v).phy = s.phy := rfl
@[simp] theorem State.putMar_dom (s : State) (k : Nat) (v : MarverSt) : (s.putMar k v).dom = s.dom := rfl
@[simp] theorem State.putMar_dev (s : State) (k : Nat) (v : MarverSt) : (s.putMar k v).dev = s.dev := rfl
@[simp] theorem State.putMar_sag (s : State) (k : Nat) (v : MarverSt) : (s.putMar k v).sag = s.sag := rfl
@[simp] theorem State.putMar_lehr (s : State) (k : Nat) (v : MarverSt) : (s.putMar k v).lehr = s.lehr := rfl
@[simp] theorem State.putMar_boot (s : State) (k : Nat) (v : MarverSt) : (s.putMar k v).boot = s.boot := rfl
@[simp] theorem State.putMar_fuse (s : State) (k : Nat) (v : MarverSt) : (s.putMar k v).fuse = s.fuse := rfl
@[simp] theorem State.putMar_flash (s : State) (k : Nat) (v : MarverSt) : (s.putMar k v).flash = s.flash := rfl
@[simp] theorem State.putMar_hostMem (s : State) (k : Nat) (v : MarverSt) : (s.putMar k v).hostMem = s.hostMem := rfl
@[simp] theorem State.putMar_pins (s : State) (k : Nat) (v : MarverSt) : (s.putMar k v).pins = s.pins := rfl
@[simp] theorem State.putMar_pcie (s : State) (k : Nat) (v : MarverSt) : (s.putMar k v).pcie = s.pcie := rfl
@[simp] theorem State.putMar_ring (s : State) (k : Nat) (v : MarverSt) : (s.putMar k v).ring = s.ring := rfl
@[simp] theorem State.putMar_vlatch (s : State) (k : Nat) (v : MarverSt) : (s.putMar k v).vlatch = s.vlatch := rfl

@[simp] theorem State.marAt_same (s : State) (k : Nat) (v : MarverSt) : (s.putMar k v).marAt k = v := Tab.get_set_same _ _ _ _
theorem State.marAt_ne (s : State) {k j : Nat} (v : MarverSt) (h : j ≠ k) : (s.putMar k v).marAt j = s.marAt j := Tab.get_set_ne _ _ _ h

/-! putLink -/
@[simp] theorem State.putLink_pending (s : State) (k : Nat) (v : LinkSt) : (s.putLink k v).pending = s.pending := rfl
@[simp] theorem State.putLink_nonce (s : State) (k : Nat) (v : LinkSt) : (s.putLink k v).nonce = s.nonce := rfl
@[simp] theorem State.putLink_resp (s : State) (k : Nat) (v : LinkSt) : (s.putLink k v).resp = s.resp := rfl
@[simp] theorem State.putLink_regs (s : State) (k : Nat) (v : LinkSt) : (s.putLink k v).regs = s.regs := rfl
@[simp] theorem State.putLink_ctrs (s : State) (k : Nat) (v : LinkSt) : (s.putLink k v).ctrs = s.ctrs := rfl
@[simp] theorem State.putLink_snaps (s : State) (k : Nat) (v : LinkSt) : (s.putLink k v).snaps = s.snaps := rfl
@[simp] theorem State.putLink_clatch (s : State) (k : Nat) (v : LinkSt) : (s.putLink k v).clatch = s.clatch := rfl
@[simp] theorem State.putLink_bank (s : State) (k : Nat) (v : LinkSt) : (s.putLink k v).bank = s.bank := rfl
@[simp] theorem State.putLink_time (s : State) (k : Nat) (v : LinkSt) : (s.putLink k v).time = s.time := rfl
@[simp] theorem State.putLink_irq (s : State) (k : Nat) (v : LinkSt) : (s.putLink k v).irq = s.irq := rfl
@[simp] theorem State.putLink_hub (s : State) (k : Nat) (v : LinkSt) : (s.putLink k v).hub = s.hub := rfl
@[simp] theorem State.putLink_tick (s : State) (k : Nat) (v : LinkSt) : (s.putLink k v).tick = s.tick := rfl
@[simp] theorem State.putLink_buf (s : State) (k : Nat) (v : LinkSt) : (s.putLink k v).buf = s.buf := rfl
@[simp] theorem State.putLink_core (s : State) (k : Nat) (v : LinkSt) : (s.putLink k v).core = s.core := rfl
@[simp] theorem State.putLink_queue (s : State) (k : Nat) (v : LinkSt) : (s.putLink k v).queue = s.queue := rfl
@[simp] theorem State.putLink_bridge (s : State) (k : Nat) (v : LinkSt) : (s.putLink k v).bridge = s.bridge := rfl
@[simp] theorem State.putLink_mirror (s : State) (k : Nat) (v : LinkSt) : (s.putLink k v).mirror = s.mirror := rfl
@[simp] theorem State.putLink_gate (s : State) (k : Nat) (v : LinkSt) : (s.putLink k v).gate = s.gate := rfl
@[simp] theorem State.putLink_sched (s : State) (k : Nat) (v : LinkSt) : (s.putLink k v).sched = s.sched := rfl
@[simp] theorem State.putLink_team (s : State) (k : Nat) (v : LinkSt) : (s.putLink k v).team = s.team := rfl
@[simp] theorem State.putLink_tabs (s : State) (k : Nat) (v : LinkSt) : (s.putLink k v).tabs = s.tabs := rfl
@[simp] theorem State.putLink_fdb (s : State) (k : Nat) (v : LinkSt) : (s.putLink k v).fdb = s.fdb := rfl
@[simp] theorem State.putLink_sig (s : State) (k : Nat) (v : LinkSt) : (s.putLink k v).sig = s.sig := rfl
@[simp] theorem State.putLink_swap (s : State) (k : Nat) (v : LinkSt) : (s.putLink k v).swap = s.swap := rfl
@[simp] theorem State.putLink_failLog (s : State) (k : Nat) (v : LinkSt) : (s.putLink k v).failLog = s.failLog := rfl
@[simp] theorem State.putLink_mar (s : State) (k : Nat) (v : LinkSt) : (s.putLink k v).mar = s.mar := rfl
@[simp] theorem State.putLink_image (s : State) (k : Nat) (v : LinkSt) : (s.putLink k v).image = s.image := rfl
@[simp] theorem State.putLink_rx (s : State) (k : Nat) (v : LinkSt) : (s.putLink k v).rx = s.rx := rfl
@[simp] theorem State.putLink_tx (s : State) (k : Nat) (v : LinkSt) : (s.putLink k v).tx = s.tx := rfl
@[simp] theorem State.putLink_mdio (s : State) (k : Nat) (v : LinkSt) : (s.putLink k v).mdio = s.mdio := rfl
@[simp] theorem State.putLink_ciph (s : State) (k : Nat) (v : LinkSt) : (s.putLink k v).ciph = s.ciph := rfl
@[simp] theorem State.putLink_chan (s : State) (k : Nat) (v : LinkSt) : (s.putLink k v).chan = s.chan := rfl
@[simp] theorem State.putLink_half (s : State) (k : Nat) (v : LinkSt) : (s.putLink k v).half = s.half := rfl
@[simp] theorem State.putLink_phy (s : State) (k : Nat) (v : LinkSt) : (s.putLink k v).phy = s.phy := rfl
@[simp] theorem State.putLink_dom (s : State) (k : Nat) (v : LinkSt) : (s.putLink k v).dom = s.dom := rfl
@[simp] theorem State.putLink_dev (s : State) (k : Nat) (v : LinkSt) : (s.putLink k v).dev = s.dev := rfl
@[simp] theorem State.putLink_sag (s : State) (k : Nat) (v : LinkSt) : (s.putLink k v).sag = s.sag := rfl
@[simp] theorem State.putLink_lehr (s : State) (k : Nat) (v : LinkSt) : (s.putLink k v).lehr = s.lehr := rfl
@[simp] theorem State.putLink_boot (s : State) (k : Nat) (v : LinkSt) : (s.putLink k v).boot = s.boot := rfl
@[simp] theorem State.putLink_fuse (s : State) (k : Nat) (v : LinkSt) : (s.putLink k v).fuse = s.fuse := rfl
@[simp] theorem State.putLink_flash (s : State) (k : Nat) (v : LinkSt) : (s.putLink k v).flash = s.flash := rfl
@[simp] theorem State.putLink_hostMem (s : State) (k : Nat) (v : LinkSt) : (s.putLink k v).hostMem = s.hostMem := rfl
@[simp] theorem State.putLink_pins (s : State) (k : Nat) (v : LinkSt) : (s.putLink k v).pins = s.pins := rfl
@[simp] theorem State.putLink_pcie (s : State) (k : Nat) (v : LinkSt) : (s.putLink k v).pcie = s.pcie := rfl
@[simp] theorem State.putLink_ring (s : State) (k : Nat) (v : LinkSt) : (s.putLink k v).ring = s.ring := rfl
@[simp] theorem State.putLink_vlatch (s : State) (k : Nat) (v : LinkSt) : (s.putLink k v).vlatch = s.vlatch := rfl

@[simp] theorem State.linkAt_same (s : State) (k : Nat) (v : LinkSt) : (s.putLink k v).linkAt k = v := Tab.get_set_same _ _ _ _
theorem State.linkAt_ne (s : State) {k j : Nat} (v : LinkSt) (h : j ≠ k) : (s.putLink k v).linkAt j = s.linkAt j := Tab.get_set_ne _ _ _ h

/-! putTx -/
@[simp] theorem State.putTx_pending (s : State) (k : Nat) (v : Option TxSt) : (s.putTx k v).pending = s.pending := rfl
@[simp] theorem State.putTx_nonce (s : State) (k : Nat) (v : Option TxSt) : (s.putTx k v).nonce = s.nonce := rfl
@[simp] theorem State.putTx_resp (s : State) (k : Nat) (v : Option TxSt) : (s.putTx k v).resp = s.resp := rfl
@[simp] theorem State.putTx_regs (s : State) (k : Nat) (v : Option TxSt) : (s.putTx k v).regs = s.regs := rfl
@[simp] theorem State.putTx_ctrs (s : State) (k : Nat) (v : Option TxSt) : (s.putTx k v).ctrs = s.ctrs := rfl
@[simp] theorem State.putTx_snaps (s : State) (k : Nat) (v : Option TxSt) : (s.putTx k v).snaps = s.snaps := rfl
@[simp] theorem State.putTx_clatch (s : State) (k : Nat) (v : Option TxSt) : (s.putTx k v).clatch = s.clatch := rfl
@[simp] theorem State.putTx_bank (s : State) (k : Nat) (v : Option TxSt) : (s.putTx k v).bank = s.bank := rfl
@[simp] theorem State.putTx_time (s : State) (k : Nat) (v : Option TxSt) : (s.putTx k v).time = s.time := rfl
@[simp] theorem State.putTx_irq (s : State) (k : Nat) (v : Option TxSt) : (s.putTx k v).irq = s.irq := rfl
@[simp] theorem State.putTx_hub (s : State) (k : Nat) (v : Option TxSt) : (s.putTx k v).hub = s.hub := rfl
@[simp] theorem State.putTx_tick (s : State) (k : Nat) (v : Option TxSt) : (s.putTx k v).tick = s.tick := rfl
@[simp] theorem State.putTx_buf (s : State) (k : Nat) (v : Option TxSt) : (s.putTx k v).buf = s.buf := rfl
@[simp] theorem State.putTx_core (s : State) (k : Nat) (v : Option TxSt) : (s.putTx k v).core = s.core := rfl
@[simp] theorem State.putTx_queue (s : State) (k : Nat) (v : Option TxSt) : (s.putTx k v).queue = s.queue := rfl
@[simp] theorem State.putTx_bridge (s : State) (k : Nat) (v : Option TxSt) : (s.putTx k v).bridge = s.bridge := rfl
@[simp] theorem State.putTx_mirror (s : State) (k : Nat) (v : Option TxSt) : (s.putTx k v).mirror = s.mirror := rfl
@[simp] theorem State.putTx_gate (s : State) (k : Nat) (v : Option TxSt) : (s.putTx k v).gate = s.gate := rfl
@[simp] theorem State.putTx_sched (s : State) (k : Nat) (v : Option TxSt) : (s.putTx k v).sched = s.sched := rfl
@[simp] theorem State.putTx_team (s : State) (k : Nat) (v : Option TxSt) : (s.putTx k v).team = s.team := rfl
@[simp] theorem State.putTx_tabs (s : State) (k : Nat) (v : Option TxSt) : (s.putTx k v).tabs = s.tabs := rfl
@[simp] theorem State.putTx_fdb (s : State) (k : Nat) (v : Option TxSt) : (s.putTx k v).fdb = s.fdb := rfl
@[simp] theorem State.putTx_sig (s : State) (k : Nat) (v : Option TxSt) : (s.putTx k v).sig = s.sig := rfl
@[simp] theorem State.putTx_swap (s : State) (k : Nat) (v : Option TxSt) : (s.putTx k v).swap = s.swap := rfl
@[simp] theorem State.putTx_failLog (s : State) (k : Nat) (v : Option TxSt) : (s.putTx k v).failLog = s.failLog := rfl
@[simp] theorem State.putTx_mar (s : State) (k : Nat) (v : Option TxSt) : (s.putTx k v).mar = s.mar := rfl
@[simp] theorem State.putTx_image (s : State) (k : Nat) (v : Option TxSt) : (s.putTx k v).image = s.image := rfl
@[simp] theorem State.putTx_link (s : State) (k : Nat) (v : Option TxSt) : (s.putTx k v).link = s.link := rfl
@[simp] theorem State.putTx_rx (s : State) (k : Nat) (v : Option TxSt) : (s.putTx k v).rx = s.rx := rfl
@[simp] theorem State.putTx_mdio (s : State) (k : Nat) (v : Option TxSt) : (s.putTx k v).mdio = s.mdio := rfl
@[simp] theorem State.putTx_ciph (s : State) (k : Nat) (v : Option TxSt) : (s.putTx k v).ciph = s.ciph := rfl
@[simp] theorem State.putTx_chan (s : State) (k : Nat) (v : Option TxSt) : (s.putTx k v).chan = s.chan := rfl
@[simp] theorem State.putTx_half (s : State) (k : Nat) (v : Option TxSt) : (s.putTx k v).half = s.half := rfl
@[simp] theorem State.putTx_phy (s : State) (k : Nat) (v : Option TxSt) : (s.putTx k v).phy = s.phy := rfl
@[simp] theorem State.putTx_dom (s : State) (k : Nat) (v : Option TxSt) : (s.putTx k v).dom = s.dom := rfl
@[simp] theorem State.putTx_dev (s : State) (k : Nat) (v : Option TxSt) : (s.putTx k v).dev = s.dev := rfl
@[simp] theorem State.putTx_sag (s : State) (k : Nat) (v : Option TxSt) : (s.putTx k v).sag = s.sag := rfl
@[simp] theorem State.putTx_lehr (s : State) (k : Nat) (v : Option TxSt) : (s.putTx k v).lehr = s.lehr := rfl
@[simp] theorem State.putTx_boot (s : State) (k : Nat) (v : Option TxSt) : (s.putTx k v).boot = s.boot := rfl
@[simp] theorem State.putTx_fuse (s : State) (k : Nat) (v : Option TxSt) : (s.putTx k v).fuse = s.fuse := rfl
@[simp] theorem State.putTx_flash (s : State) (k : Nat) (v : Option TxSt) : (s.putTx k v).flash = s.flash := rfl
@[simp] theorem State.putTx_hostMem (s : State) (k : Nat) (v : Option TxSt) : (s.putTx k v).hostMem = s.hostMem := rfl
@[simp] theorem State.putTx_pins (s : State) (k : Nat) (v : Option TxSt) : (s.putTx k v).pins = s.pins := rfl
@[simp] theorem State.putTx_pcie (s : State) (k : Nat) (v : Option TxSt) : (s.putTx k v).pcie = s.pcie := rfl
@[simp] theorem State.putTx_ring (s : State) (k : Nat) (v : Option TxSt) : (s.putTx k v).ring = s.ring := rfl
@[simp] theorem State.putTx_vlatch (s : State) (k : Nat) (v : Option TxSt) : (s.putTx k v).vlatch = s.vlatch := rfl

@[simp] theorem State.txAt_same (s : State) (k : Nat) (v : Option TxSt) : (s.putTx k v).txAt k = v := Tab.get_set_same _ _ _ _
theorem State.txAt_ne (s : State) {k j : Nat} (v : Option TxSt) (h : j ≠ k) : (s.putTx k v).txAt j = s.txAt j := Tab.get_set_ne _ _ _ h

/-! putMdio -/
@[simp] theorem State.putMdio_pending (s : State) (k : Nat) (v : Option W32) : (s.putMdio k v).pending = s.pending := rfl
@[simp] theorem State.putMdio_nonce (s : State) (k : Nat) (v : Option W32) : (s.putMdio k v).nonce = s.nonce := rfl
@[simp] theorem State.putMdio_resp (s : State) (k : Nat) (v : Option W32) : (s.putMdio k v).resp = s.resp := rfl
@[simp] theorem State.putMdio_regs (s : State) (k : Nat) (v : Option W32) : (s.putMdio k v).regs = s.regs := rfl
@[simp] theorem State.putMdio_ctrs (s : State) (k : Nat) (v : Option W32) : (s.putMdio k v).ctrs = s.ctrs := rfl
@[simp] theorem State.putMdio_snaps (s : State) (k : Nat) (v : Option W32) : (s.putMdio k v).snaps = s.snaps := rfl
@[simp] theorem State.putMdio_clatch (s : State) (k : Nat) (v : Option W32) : (s.putMdio k v).clatch = s.clatch := rfl
@[simp] theorem State.putMdio_bank (s : State) (k : Nat) (v : Option W32) : (s.putMdio k v).bank = s.bank := rfl
@[simp] theorem State.putMdio_time (s : State) (k : Nat) (v : Option W32) : (s.putMdio k v).time = s.time := rfl
@[simp] theorem State.putMdio_irq (s : State) (k : Nat) (v : Option W32) : (s.putMdio k v).irq = s.irq := rfl
@[simp] theorem State.putMdio_hub (s : State) (k : Nat) (v : Option W32) : (s.putMdio k v).hub = s.hub := rfl
@[simp] theorem State.putMdio_tick (s : State) (k : Nat) (v : Option W32) : (s.putMdio k v).tick = s.tick := rfl
@[simp] theorem State.putMdio_buf (s : State) (k : Nat) (v : Option W32) : (s.putMdio k v).buf = s.buf := rfl
@[simp] theorem State.putMdio_core (s : State) (k : Nat) (v : Option W32) : (s.putMdio k v).core = s.core := rfl
@[simp] theorem State.putMdio_queue (s : State) (k : Nat) (v : Option W32) : (s.putMdio k v).queue = s.queue := rfl
@[simp] theorem State.putMdio_bridge (s : State) (k : Nat) (v : Option W32) : (s.putMdio k v).bridge = s.bridge := rfl
@[simp] theorem State.putMdio_mirror (s : State) (k : Nat) (v : Option W32) : (s.putMdio k v).mirror = s.mirror := rfl
@[simp] theorem State.putMdio_gate (s : State) (k : Nat) (v : Option W32) : (s.putMdio k v).gate = s.gate := rfl
@[simp] theorem State.putMdio_sched (s : State) (k : Nat) (v : Option W32) : (s.putMdio k v).sched = s.sched := rfl
@[simp] theorem State.putMdio_team (s : State) (k : Nat) (v : Option W32) : (s.putMdio k v).team = s.team := rfl
@[simp] theorem State.putMdio_tabs (s : State) (k : Nat) (v : Option W32) : (s.putMdio k v).tabs = s.tabs := rfl
@[simp] theorem State.putMdio_fdb (s : State) (k : Nat) (v : Option W32) : (s.putMdio k v).fdb = s.fdb := rfl
@[simp] theorem State.putMdio_sig (s : State) (k : Nat) (v : Option W32) : (s.putMdio k v).sig = s.sig := rfl
@[simp] theorem State.putMdio_swap (s : State) (k : Nat) (v : Option W32) : (s.putMdio k v).swap = s.swap := rfl
@[simp] theorem State.putMdio_failLog (s : State) (k : Nat) (v : Option W32) : (s.putMdio k v).failLog = s.failLog := rfl
@[simp] theorem State.putMdio_mar (s : State) (k : Nat) (v : Option W32) : (s.putMdio k v).mar = s.mar := rfl
@[simp] theorem State.putMdio_image (s : State) (k : Nat) (v : Option W32) : (s.putMdio k v).image = s.image := rfl
@[simp] theorem State.putMdio_link (s : State) (k : Nat) (v : Option W32) : (s.putMdio k v).link = s.link := rfl
@[simp] theorem State.putMdio_rx (s : State) (k : Nat) (v : Option W32) : (s.putMdio k v).rx = s.rx := rfl
@[simp] theorem State.putMdio_tx (s : State) (k : Nat) (v : Option W32) : (s.putMdio k v).tx = s.tx := rfl
@[simp] theorem State.putMdio_ciph (s : State) (k : Nat) (v : Option W32) : (s.putMdio k v).ciph = s.ciph := rfl
@[simp] theorem State.putMdio_chan (s : State) (k : Nat) (v : Option W32) : (s.putMdio k v).chan = s.chan := rfl
@[simp] theorem State.putMdio_half (s : State) (k : Nat) (v : Option W32) : (s.putMdio k v).half = s.half := rfl
@[simp] theorem State.putMdio_phy (s : State) (k : Nat) (v : Option W32) : (s.putMdio k v).phy = s.phy := rfl
@[simp] theorem State.putMdio_dom (s : State) (k : Nat) (v : Option W32) : (s.putMdio k v).dom = s.dom := rfl
@[simp] theorem State.putMdio_dev (s : State) (k : Nat) (v : Option W32) : (s.putMdio k v).dev = s.dev := rfl
@[simp] theorem State.putMdio_sag (s : State) (k : Nat) (v : Option W32) : (s.putMdio k v).sag = s.sag := rfl
@[simp] theorem State.putMdio_lehr (s : State) (k : Nat) (v : Option W32) : (s.putMdio k v).lehr = s.lehr := rfl
@[simp] theorem State.putMdio_boot (s : State) (k : Nat) (v : Option W32) : (s.putMdio k v).boot = s.boot := rfl
@[simp] theorem State.putMdio_fuse (s : State) (k : Nat) (v : Option W32) : (s.putMdio k v).fuse = s.fuse := rfl
@[simp] theorem State.putMdio_flash (s : State) (k : Nat) (v : Option W32) : (s.putMdio k v).flash = s.flash := rfl
@[simp] theorem State.putMdio_hostMem (s : State) (k : Nat) (v : Option W32) : (s.putMdio k v).hostMem = s.hostMem := rfl
@[simp] theorem State.putMdio_pins (s : State) (k : Nat) (v : Option W32) : (s.putMdio k v).pins = s.pins := rfl
@[simp] theorem State.putMdio_pcie (s : State) (k : Nat) (v : Option W32) : (s.putMdio k v).pcie = s.pcie := rfl
@[simp] theorem State.putMdio_ring (s : State) (k : Nat) (v : Option W32) : (s.putMdio k v).ring = s.ring := rfl
@[simp] theorem State.putMdio_vlatch (s : State) (k : Nat) (v : Option W32) : (s.putMdio k v).vlatch = s.vlatch := rfl

@[simp] theorem State.mdioAt_same (s : State) (k : Nat) (v : Option W32) : (s.putMdio k v).mdioAt k = v := Tab.get_set_same _ _ _ _
theorem State.mdioAt_ne (s : State) {k j : Nat} (v : Option W32) (h : j ≠ k) : (s.putMdio k v).mdioAt j = s.mdioAt j := Tab.get_set_ne _ _ _ h

/-! putCiph -/
@[simp] theorem State.putCiph_pending (s : State) (k : Nat) (v : CiphSt) : (s.putCiph k v).pending = s.pending := rfl
@[simp] theorem State.putCiph_nonce (s : State) (k : Nat) (v : CiphSt) : (s.putCiph k v).nonce = s.nonce := rfl
@[simp] theorem State.putCiph_resp (s : State) (k : Nat) (v : CiphSt) : (s.putCiph k v).resp = s.resp := rfl
@[simp] theorem State.putCiph_regs (s : State) (k : Nat) (v : CiphSt) : (s.putCiph k v).regs = s.regs := rfl
@[simp] theorem State.putCiph_ctrs (s : State) (k : Nat) (v : CiphSt) : (s.putCiph k v).ctrs = s.ctrs := rfl
@[simp] theorem State.putCiph_snaps (s : State) (k : Nat) (v : CiphSt) : (s.putCiph k v).snaps = s.snaps := rfl
@[simp] theorem State.putCiph_clatch (s : State) (k : Nat) (v : CiphSt) : (s.putCiph k v).clatch = s.clatch := rfl
@[simp] theorem State.putCiph_bank (s : State) (k : Nat) (v : CiphSt) : (s.putCiph k v).bank = s.bank := rfl
@[simp] theorem State.putCiph_time (s : State) (k : Nat) (v : CiphSt) : (s.putCiph k v).time = s.time := rfl
@[simp] theorem State.putCiph_irq (s : State) (k : Nat) (v : CiphSt) : (s.putCiph k v).irq = s.irq := rfl
@[simp] theorem State.putCiph_hub (s : State) (k : Nat) (v : CiphSt) : (s.putCiph k v).hub = s.hub := rfl
@[simp] theorem State.putCiph_tick (s : State) (k : Nat) (v : CiphSt) : (s.putCiph k v).tick = s.tick := rfl
@[simp] theorem State.putCiph_buf (s : State) (k : Nat) (v : CiphSt) : (s.putCiph k v).buf = s.buf := rfl
@[simp] theorem State.putCiph_core (s : State) (k : Nat) (v : CiphSt) : (s.putCiph k v).core = s.core := rfl
@[simp] theorem State.putCiph_queue (s : State) (k : Nat) (v : CiphSt) : (s.putCiph k v).queue = s.queue := rfl
@[simp] theorem State.putCiph_bridge (s : State) (k : Nat) (v : CiphSt) : (s.putCiph k v).bridge = s.bridge := rfl
@[simp] theorem State.putCiph_mirror (s : State) (k : Nat) (v : CiphSt) : (s.putCiph k v).mirror = s.mirror := rfl
@[simp] theorem State.putCiph_gate (s : State) (k : Nat) (v : CiphSt) : (s.putCiph k v).gate = s.gate := rfl
@[simp] theorem State.putCiph_sched (s : State) (k : Nat) (v : CiphSt) : (s.putCiph k v).sched = s.sched := rfl
@[simp] theorem State.putCiph_team (s : State) (k : Nat) (v : CiphSt) : (s.putCiph k v).team = s.team := rfl
@[simp] theorem State.putCiph_tabs (s : State) (k : Nat) (v : CiphSt) : (s.putCiph k v).tabs = s.tabs := rfl
@[simp] theorem State.putCiph_fdb (s : State) (k : Nat) (v : CiphSt) : (s.putCiph k v).fdb = s.fdb := rfl
@[simp] theorem State.putCiph_sig (s : State) (k : Nat) (v : CiphSt) : (s.putCiph k v).sig = s.sig := rfl
@[simp] theorem State.putCiph_swap (s : State) (k : Nat) (v : CiphSt) : (s.putCiph k v).swap = s.swap := rfl
@[simp] theorem State.putCiph_failLog (s : State) (k : Nat) (v : CiphSt) : (s.putCiph k v).failLog = s.failLog := rfl
@[simp] theorem State.putCiph_mar (s : State) (k : Nat) (v : CiphSt) : (s.putCiph k v).mar = s.mar := rfl
@[simp] theorem State.putCiph_image (s : State) (k : Nat) (v : CiphSt) : (s.putCiph k v).image = s.image := rfl
@[simp] theorem State.putCiph_link (s : State) (k : Nat) (v : CiphSt) : (s.putCiph k v).link = s.link := rfl
@[simp] theorem State.putCiph_rx (s : State) (k : Nat) (v : CiphSt) : (s.putCiph k v).rx = s.rx := rfl
@[simp] theorem State.putCiph_tx (s : State) (k : Nat) (v : CiphSt) : (s.putCiph k v).tx = s.tx := rfl
@[simp] theorem State.putCiph_mdio (s : State) (k : Nat) (v : CiphSt) : (s.putCiph k v).mdio = s.mdio := rfl
@[simp] theorem State.putCiph_chan (s : State) (k : Nat) (v : CiphSt) : (s.putCiph k v).chan = s.chan := rfl
@[simp] theorem State.putCiph_half (s : State) (k : Nat) (v : CiphSt) : (s.putCiph k v).half = s.half := rfl
@[simp] theorem State.putCiph_phy (s : State) (k : Nat) (v : CiphSt) : (s.putCiph k v).phy = s.phy := rfl
@[simp] theorem State.putCiph_dom (s : State) (k : Nat) (v : CiphSt) : (s.putCiph k v).dom = s.dom := rfl
@[simp] theorem State.putCiph_dev (s : State) (k : Nat) (v : CiphSt) : (s.putCiph k v).dev = s.dev := rfl
@[simp] theorem State.putCiph_sag (s : State) (k : Nat) (v : CiphSt) : (s.putCiph k v).sag = s.sag := rfl
@[simp] theorem State.putCiph_lehr (s : State) (k : Nat) (v : CiphSt) : (s.putCiph k v).lehr = s.lehr := rfl
@[simp] theorem State.putCiph_boot (s : State) (k : Nat) (v : CiphSt) : (s.putCiph k v).boot = s.boot := rfl
@[simp] theorem State.putCiph_fuse (s : State) (k : Nat) (v : CiphSt) : (s.putCiph k v).fuse = s.fuse := rfl
@[simp] theorem State.putCiph_flash (s : State) (k : Nat) (v : CiphSt) : (s.putCiph k v).flash = s.flash := rfl
@[simp] theorem State.putCiph_hostMem (s : State) (k : Nat) (v : CiphSt) : (s.putCiph k v).hostMem = s.hostMem := rfl
@[simp] theorem State.putCiph_pins (s : State) (k : Nat) (v : CiphSt) : (s.putCiph k v).pins = s.pins := rfl
@[simp] theorem State.putCiph_pcie (s : State) (k : Nat) (v : CiphSt) : (s.putCiph k v).pcie = s.pcie := rfl
@[simp] theorem State.putCiph_ring (s : State) (k : Nat) (v : CiphSt) : (s.putCiph k v).ring = s.ring := rfl
@[simp] theorem State.putCiph_vlatch (s : State) (k : Nat) (v : CiphSt) : (s.putCiph k v).vlatch = s.vlatch := rfl

@[simp] theorem State.ciphAt_same (s : State) (k : Nat) (v : CiphSt) : (s.putCiph k v).ciphAt k = v := Tab.get_set_same _ _ _ _
theorem State.ciphAt_ne (s : State) {k j : Nat} (v : CiphSt) (h : j ≠ k) : (s.putCiph k v).ciphAt j = s.ciphAt j := Tab.get_set_ne _ _ _ h

/-! putChan -/
@[simp] theorem State.putChan_pending (s : State) (k : Nat) (v : ChanSt) : (s.putChan k v).pending = s.pending := rfl
@[simp] theorem State.putChan_nonce (s : State) (k : Nat) (v : ChanSt) : (s.putChan k v).nonce = s.nonce := rfl
@[simp] theorem State.putChan_resp (s : State) (k : Nat) (v : ChanSt) : (s.putChan k v).resp = s.resp := rfl
@[simp] theorem State.putChan_regs (s : State) (k : Nat) (v : ChanSt) : (s.putChan k v).regs = s.regs := rfl
@[simp] theorem State.putChan_ctrs (s : State) (k : Nat) (v : ChanSt) : (s.putChan k v).ctrs = s.ctrs := rfl
@[simp] theorem State.putChan_snaps (s : State) (k : Nat) (v : ChanSt) : (s.putChan k v).snaps = s.snaps := rfl
@[simp] theorem State.putChan_clatch (s : State) (k : Nat) (v : ChanSt) : (s.putChan k v).clatch = s.clatch := rfl
@[simp] theorem State.putChan_bank (s : State) (k : Nat) (v : ChanSt) : (s.putChan k v).bank = s.bank := rfl
@[simp] theorem State.putChan_time (s : State) (k : Nat) (v : ChanSt) : (s.putChan k v).time = s.time := rfl
@[simp] theorem State.putChan_irq (s : State) (k : Nat) (v : ChanSt) : (s.putChan k v).irq = s.irq := rfl
@[simp] theorem State.putChan_hub (s : State) (k : Nat) (v : ChanSt) : (s.putChan k v).hub = s.hub := rfl
@[simp] theorem State.putChan_tick (s : State) (k : Nat) (v : ChanSt) : (s.putChan k v).tick = s.tick := rfl
@[simp] theorem State.putChan_buf (s : State) (k : Nat) (v : ChanSt) : (s.putChan k v).buf = s.buf := rfl
@[simp] theorem State.putChan_core (s : State) (k : Nat) (v : ChanSt) : (s.putChan k v).core = s.core := rfl
@[simp] theorem State.putChan_queue (s : State) (k : Nat) (v : ChanSt) : (s.putChan k v).queue = s.queue := rfl
@[simp] theorem State.putChan_bridge (s : State) (k : Nat) (v : ChanSt) : (s.putChan k v).bridge = s.bridge := rfl
@[simp] theorem State.putChan_mirror (s : State) (k : Nat) (v : ChanSt) : (s.putChan k v).mirror = s.mirror := rfl
@[simp] theorem State.putChan_gate (s : State) (k : Nat) (v : ChanSt) : (s.putChan k v).gate = s.gate := rfl
@[simp] theorem State.putChan_sched (s : State) (k : Nat) (v : ChanSt) : (s.putChan k v).sched = s.sched := rfl
@[simp] theorem State.putChan_team (s : State) (k : Nat) (v : ChanSt) : (s.putChan k v).team = s.team := rfl
@[simp] theorem State.putChan_tabs (s : State) (k : Nat) (v : ChanSt) : (s.putChan k v).tabs = s.tabs := rfl
@[simp] theorem State.putChan_fdb (s : State) (k : Nat) (v : ChanSt) : (s.putChan k v).fdb = s.fdb := rfl
@[simp] theorem State.putChan_sig (s : State) (k : Nat) (v : ChanSt) : (s.putChan k v).sig = s.sig := rfl
@[simp] theorem State.putChan_swap (s : State) (k : Nat) (v : ChanSt) : (s.putChan k v).swap = s.swap := rfl
@[simp] theorem State.putChan_failLog (s : State) (k : Nat) (v : ChanSt) : (s.putChan k v).failLog = s.failLog := rfl
@[simp] theorem State.putChan_mar (s : State) (k : Nat) (v : ChanSt) : (s.putChan k v).mar = s.mar := rfl
@[simp] theorem State.putChan_image (s : State) (k : Nat) (v : ChanSt) : (s.putChan k v).image = s.image := rfl
@[simp] theorem State.putChan_link (s : State) (k : Nat) (v : ChanSt) : (s.putChan k v).link = s.link := rfl
@[simp] theorem State.putChan_rx (s : State) (k : Nat) (v : ChanSt) : (s.putChan k v).rx = s.rx := rfl
@[simp] theorem State.putChan_tx (s : State) (k : Nat) (v : ChanSt) : (s.putChan k v).tx = s.tx := rfl
@[simp] theorem State.putChan_mdio (s : State) (k : Nat) (v : ChanSt) : (s.putChan k v).mdio = s.mdio := rfl
@[simp] theorem State.putChan_ciph (s : State) (k : Nat) (v : ChanSt) : (s.putChan k v).ciph = s.ciph := rfl
@[simp] theorem State.putChan_half (s : State) (k : Nat) (v : ChanSt) : (s.putChan k v).half = s.half := rfl
@[simp] theorem State.putChan_phy (s : State) (k : Nat) (v : ChanSt) : (s.putChan k v).phy = s.phy := rfl
@[simp] theorem State.putChan_dom (s : State) (k : Nat) (v : ChanSt) : (s.putChan k v).dom = s.dom := rfl
@[simp] theorem State.putChan_dev (s : State) (k : Nat) (v : ChanSt) : (s.putChan k v).dev = s.dev := rfl
@[simp] theorem State.putChan_sag (s : State) (k : Nat) (v : ChanSt) : (s.putChan k v).sag = s.sag := rfl
@[simp] theorem State.putChan_lehr (s : State) (k : Nat) (v : ChanSt) : (s.putChan k v).lehr = s.lehr := rfl
@[simp] theorem State.putChan_boot (s : State) (k : Nat) (v : ChanSt) : (s.putChan k v).boot = s.boot := rfl
@[simp] theorem State.putChan_fuse (s : State) (k : Nat) (v : ChanSt) : (s.putChan k v).fuse = s.fuse := rfl
@[simp] theorem State.putChan_flash (s : State) (k : Nat) (v : ChanSt) : (s.putChan k v).flash = s.flash := rfl
@[simp] theorem State.putChan_hostMem (s : State) (k : Nat) (v : ChanSt) : (s.putChan k v).hostMem = s.hostMem := rfl
@[simp] theorem State.putChan_pins (s : State) (k : Nat) (v : ChanSt) : (s.putChan k v).pins = s.pins := rfl
@[simp] theorem State.putChan_pcie (s : State) (k : Nat) (v : ChanSt) : (s.putChan k v).pcie = s.pcie := rfl
@[simp] theorem State.putChan_ring (s : State) (k : Nat) (v : ChanSt) : (s.putChan k v).ring = s.ring := rfl
@[simp] theorem State.putChan_vlatch (s : State) (k : Nat) (v : ChanSt) : (s.putChan k v).vlatch = s.vlatch := rfl

@[simp] theorem State.chanAt_same (s : State) (k : Nat) (v : ChanSt) : (s.putChan k v).chanAt k = v := Tab.get_set_same _ _ _ _
theorem State.chanAt_ne (s : State) {k j : Nat} (v : ChanSt) (h : j ≠ k) : (s.putChan k v).chanAt j = s.chanAt j := Tab.get_set_ne _ _ _ h

/-! putHalf -/
@[simp] theorem State.putHalf_pending (s : State) (k : Nat) (v : HalfSt) : (s.putHalf k v).pending = s.pending := rfl
@[simp] theorem State.putHalf_nonce (s : State) (k : Nat) (v : HalfSt) : (s.putHalf k v).nonce = s.nonce := rfl
@[simp] theorem State.putHalf_resp (s : State) (k : Nat) (v : HalfSt) : (s.putHalf k v).resp = s.resp := rfl
@[simp] theorem State.putHalf_regs (s : State) (k : Nat) (v : HalfSt) : (s.putHalf k v).regs = s.regs := rfl
@[simp] theorem State.putHalf_ctrs (s : State) (k : Nat) (v : HalfSt) : (s.putHalf k v).ctrs = s.ctrs := rfl
@[simp] theorem State.putHalf_snaps (s : State) (k : Nat) (v : HalfSt) : (s.putHalf k v).snaps = s.snaps := rfl
@[simp] theorem State.putHalf_clatch (s : State) (k : Nat) (v : HalfSt) : (s.putHalf k v).clatch = s.clatch := rfl
@[simp] theorem State.putHalf_bank (s : State) (k : Nat) (v : HalfSt) : (s.putHalf k v).bank = s.bank := rfl
@[simp] theorem State.putHalf_time (s : State) (k : Nat) (v : HalfSt) : (s.putHalf k v).time = s.time := rfl
@[simp] theorem State.putHalf_irq (s : State) (k : Nat) (v : HalfSt) : (s.putHalf k v).irq = s.irq := rfl
@[simp] theorem State.putHalf_hub (s : State) (k : Nat) (v : HalfSt) : (s.putHalf k v).hub = s.hub := rfl
@[simp] theorem State.putHalf_tick (s : State) (k : Nat) (v : HalfSt) : (s.putHalf k v).tick = s.tick := rfl
@[simp] theorem State.putHalf_buf (s : State) (k : Nat) (v : HalfSt) : (s.putHalf k v).buf = s.buf := rfl
@[simp] theorem State.putHalf_core (s : State) (k : Nat) (v : HalfSt) : (s.putHalf k v).core = s.core := rfl
@[simp] theorem State.putHalf_queue (s : State) (k : Nat) (v : HalfSt) : (s.putHalf k v).queue = s.queue := rfl
@[simp] theorem State.putHalf_bridge (s : State) (k : Nat) (v : HalfSt) : (s.putHalf k v).bridge = s.bridge := rfl
@[simp] theorem State.putHalf_mirror (s : State) (k : Nat) (v : HalfSt) : (s.putHalf k v).mirror = s.mirror := rfl
@[simp] theorem State.putHalf_gate (s : State) (k : Nat) (v : HalfSt) : (s.putHalf k v).gate = s.gate := rfl
@[simp] theorem State.putHalf_sched (s : State) (k : Nat) (v : HalfSt) : (s.putHalf k v).sched = s.sched := rfl
@[simp] theorem State.putHalf_team (s : State) (k : Nat) (v : HalfSt) : (s.putHalf k v).team = s.team := rfl
@[simp] theorem State.putHalf_tabs (s : State) (k : Nat) (v : HalfSt) : (s.putHalf k v).tabs = s.tabs := rfl
@[simp] theorem State.putHalf_fdb (s : State) (k : Nat) (v : HalfSt) : (s.putHalf k v).fdb = s.fdb := rfl
@[simp] theorem State.putHalf_sig (s : State) (k : Nat) (v : HalfSt) : (s.putHalf k v).sig = s.sig := rfl
@[simp] theorem State.putHalf_swap (s : State) (k : Nat) (v : HalfSt) : (s.putHalf k v).swap = s.swap := rfl
@[simp] theorem State.putHalf_failLog (s : State) (k : Nat) (v : HalfSt) : (s.putHalf k v).failLog = s.failLog := rfl
@[simp] theorem State.putHalf_mar (s : State) (k : Nat) (v : HalfSt) : (s.putHalf k v).mar = s.mar := rfl
@[simp] theorem State.putHalf_image (s : State) (k : Nat) (v : HalfSt) : (s.putHalf k v).image = s.image := rfl
@[simp] theorem State.putHalf_link (s : State) (k : Nat) (v : HalfSt) : (s.putHalf k v).link = s.link := rfl
@[simp] theorem State.putHalf_rx (s : State) (k : Nat) (v : HalfSt) : (s.putHalf k v).rx = s.rx := rfl
@[simp] theorem State.putHalf_tx (s : State) (k : Nat) (v : HalfSt) : (s.putHalf k v).tx = s.tx := rfl
@[simp] theorem State.putHalf_mdio (s : State) (k : Nat) (v : HalfSt) : (s.putHalf k v).mdio = s.mdio := rfl
@[simp] theorem State.putHalf_ciph (s : State) (k : Nat) (v : HalfSt) : (s.putHalf k v).ciph = s.ciph := rfl
@[simp] theorem State.putHalf_chan (s : State) (k : Nat) (v : HalfSt) : (s.putHalf k v).chan = s.chan := rfl
@[simp] theorem State.putHalf_phy (s : State) (k : Nat) (v : HalfSt) : (s.putHalf k v).phy = s.phy := rfl
@[simp] theorem State.putHalf_dom (s : State) (k : Nat) (v : HalfSt) : (s.putHalf k v).dom = s.dom := rfl
@[simp] theorem State.putHalf_dev (s : State) (k : Nat) (v : HalfSt) : (s.putHalf k v).dev = s.dev := rfl
@[simp] theorem State.putHalf_sag (s : State) (k : Nat) (v : HalfSt) : (s.putHalf k v).sag = s.sag := rfl
@[simp] theorem State.putHalf_lehr (s : State) (k : Nat) (v : HalfSt) : (s.putHalf k v).lehr = s.lehr := rfl
@[simp] theorem State.putHalf_boot (s : State) (k : Nat) (v : HalfSt) : (s.putHalf k v).boot = s.boot := rfl
@[simp] theorem State.putHalf_fuse (s : State) (k : Nat) (v : HalfSt) : (s.putHalf k v).fuse = s.fuse := rfl
@[simp] theorem State.putHalf_flash (s : State) (k : Nat) (v : HalfSt) : (s.putHalf k v).flash = s.flash := rfl
@[simp] theorem State.putHalf_hostMem (s : State) (k : Nat) (v : HalfSt) : (s.putHalf k v).hostMem = s.hostMem := rfl
@[simp] theorem State.putHalf_pins (s : State) (k : Nat) (v : HalfSt) : (s.putHalf k v).pins = s.pins := rfl
@[simp] theorem State.putHalf_pcie (s : State) (k : Nat) (v : HalfSt) : (s.putHalf k v).pcie = s.pcie := rfl
@[simp] theorem State.putHalf_ring (s : State) (k : Nat) (v : HalfSt) : (s.putHalf k v).ring = s.ring := rfl
@[simp] theorem State.putHalf_vlatch (s : State) (k : Nat) (v : HalfSt) : (s.putHalf k v).vlatch = s.vlatch := rfl

@[simp] theorem State.halfAt_same (s : State) (k : Nat) (v : HalfSt) : (s.putHalf k v).halfAt k = v := Tab.get_set_same _ _ _ _
theorem State.halfAt_ne (s : State) {k j : Nat} (v : HalfSt) (h : j ≠ k) : (s.putHalf k v).halfAt j = s.halfAt j := Tab.get_set_ne _ _ _ h

/-! putDom -/
@[simp] theorem State.putDom_pending (s : State) (k : Nat) (v : DomSt) : (s.putDom k v).pending = s.pending := rfl
@[simp] theorem State.putDom_nonce (s : State) (k : Nat) (v : DomSt) : (s.putDom k v).nonce = s.nonce := rfl
@[simp] theorem State.putDom_resp (s : State) (k : Nat) (v : DomSt) : (s.putDom k v).resp = s.resp := rfl
@[simp] theorem State.putDom_regs (s : State) (k : Nat) (v : DomSt) : (s.putDom k v).regs = s.regs := rfl
@[simp] theorem State.putDom_ctrs (s : State) (k : Nat) (v : DomSt) : (s.putDom k v).ctrs = s.ctrs := rfl
@[simp] theorem State.putDom_snaps (s : State) (k : Nat) (v : DomSt) : (s.putDom k v).snaps = s.snaps := rfl
@[simp] theorem State.putDom_clatch (s : State) (k : Nat) (v : DomSt) : (s.putDom k v).clatch = s.clatch := rfl
@[simp] theorem State.putDom_bank (s : State) (k : Nat) (v : DomSt) : (s.putDom k v).bank = s.bank := rfl
@[simp] theorem State.putDom_time (s : State) (k : Nat) (v : DomSt) : (s.putDom k v).time = s.time := rfl
@[simp] theorem State.putDom_irq (s : State) (k : Nat) (v : DomSt) : (s.putDom k v).irq = s.irq := rfl
@[simp] theorem State.putDom_hub (s : State) (k : Nat) (v : DomSt) : (s.putDom k v).hub = s.hub := rfl
@[simp] theorem State.putDom_tick (s : State) (k : Nat) (v : DomSt) : (s.putDom k v).tick = s.tick := rfl
@[simp] theorem State.putDom_buf (s : State) (k : Nat) (v : DomSt) : (s.putDom k v).buf = s.buf := rfl
@[simp] theorem State.putDom_core (s : State) (k : Nat) (v : DomSt) : (s.putDom k v).core = s.core := rfl
@[simp] theorem State.putDom_queue (s : State) (k : Nat) (v : DomSt) : (s.putDom k v).queue = s.queue := rfl
@[simp] theorem State.putDom_bridge (s : State) (k : Nat) (v : DomSt) : (s.putDom k v).bridge = s.bridge := rfl
@[simp] theorem State.putDom_mirror (s : State) (k : Nat) (v : DomSt) : (s.putDom k v).mirror = s.mirror := rfl
@[simp] theorem State.putDom_gate (s : State) (k : Nat) (v : DomSt) : (s.putDom k v).gate = s.gate := rfl
@[simp] theorem State.putDom_sched (s : State) (k : Nat) (v : DomSt) : (s.putDom k v).sched = s.sched := rfl
@[simp] theorem State.putDom_team (s : State) (k : Nat) (v : DomSt) : (s.putDom k v).team = s.team := rfl
@[simp] theorem State.putDom_tabs (s : State) (k : Nat) (v : DomSt) : (s.putDom k v).tabs = s.tabs := rfl
@[simp] theorem State.putDom_fdb (s : State) (k : Nat) (v : DomSt) : (s.putDom k v).fdb = s.fdb := rfl
@[simp] theorem State.putDom_sig (s : State) (k : Nat) (v : DomSt) : (s.putDom k v).sig = s.sig := rfl
@[simp] theorem State.putDom_swap (s : State) (k : Nat) (v : DomSt) : (s.putDom k v).swap = s.swap := rfl
@[simp] theorem State.putDom_failLog (s : State) (k : Nat) (v : DomSt) : (s.putDom k v).failLog = s.failLog := rfl
@[simp] theorem State.putDom_mar (s : State) (k : Nat) (v : DomSt) : (s.putDom k v).mar = s.mar := rfl
@[simp] theorem State.putDom_image (s : State) (k : Nat) (v : DomSt) : (s.putDom k v).image = s.image := rfl
@[simp] theorem State.putDom_link (s : State) (k : Nat) (v : DomSt) : (s.putDom k v).link = s.link := rfl
@[simp] theorem State.putDom_rx (s : State) (k : Nat) (v : DomSt) : (s.putDom k v).rx = s.rx := rfl
@[simp] theorem State.putDom_tx (s : State) (k : Nat) (v : DomSt) : (s.putDom k v).tx = s.tx := rfl
@[simp] theorem State.putDom_mdio (s : State) (k : Nat) (v : DomSt) : (s.putDom k v).mdio = s.mdio := rfl
@[simp] theorem State.putDom_ciph (s : State) (k : Nat) (v : DomSt) : (s.putDom k v).ciph = s.ciph := rfl
@[simp] theorem State.putDom_chan (s : State) (k : Nat) (v : DomSt) : (s.putDom k v).chan = s.chan := rfl
@[simp] theorem State.putDom_half (s : State) (k : Nat) (v : DomSt) : (s.putDom k v).half = s.half := rfl
@[simp] theorem State.putDom_phy (s : State) (k : Nat) (v : DomSt) : (s.putDom k v).phy = s.phy := rfl
@[simp] theorem State.putDom_dev (s : State) (k : Nat) (v : DomSt) : (s.putDom k v).dev = s.dev := rfl
@[simp] theorem State.putDom_sag (s : State) (k : Nat) (v : DomSt) : (s.putDom k v).sag = s.sag := rfl
@[simp] theorem State.putDom_lehr (s : State) (k : Nat) (v : DomSt) : (s.putDom k v).lehr = s.lehr := rfl
@[simp] theorem State.putDom_boot (s : State) (k : Nat) (v : DomSt) : (s.putDom k v).boot = s.boot := rfl
@[simp] theorem State.putDom_fuse (s : State) (k : Nat) (v : DomSt) : (s.putDom k v).fuse = s.fuse := rfl
@[simp] theorem State.putDom_flash (s : State) (k : Nat) (v : DomSt) : (s.putDom k v).flash = s.flash := rfl
@[simp] theorem State.putDom_hostMem (s : State) (k : Nat) (v : DomSt) : (s.putDom k v).hostMem = s.hostMem := rfl
@[simp] theorem State.putDom_pins (s : State) (k : Nat) (v : DomSt) : (s.putDom k v).pins = s.pins := rfl
@[simp] theorem State.putDom_pcie (s : State) (k : Nat) (v : DomSt) : (s.putDom k v).pcie = s.pcie := rfl
@[simp] theorem State.putDom_ring (s : State) (k : Nat) (v : DomSt) : (s.putDom k v).ring = s.ring := rfl
@[simp] theorem State.putDom_vlatch (s : State) (k : Nat) (v : DomSt) : (s.putDom k v).vlatch = s.vlatch := rfl

@[simp] theorem State.domAt_same (s : State) (k : Nat) (v : DomSt) : (s.putDom k v).domAt k = v := Tab.get_set_same _ _ _ _
theorem State.domAt_ne (s : State) {k j : Nat} (v : DomSt) (h : j ≠ k) : (s.putDom k v).domAt j = s.domAt j := Tab.get_set_ne _ _ _ h

/-! putSag -/
@[simp] theorem State.putSag_pending (s : State) (k : Nat) (v : SagSt) : (s.putSag k v).pending = s.pending := rfl
@[simp] theorem State.putSag_nonce (s : State) (k : Nat) (v : SagSt) : (s.putSag k v).nonce = s.nonce := rfl
@[simp] theorem State.putSag_resp (s : State) (k : Nat) (v : SagSt) : (s.putSag k v).resp = s.resp := rfl
@[simp] theorem State.putSag_regs (s : State) (k : Nat) (v : SagSt) : (s.putSag k v).regs = s.regs := rfl
@[simp] theorem State.putSag_ctrs (s : State) (k : Nat) (v : SagSt) : (s.putSag k v).ctrs = s.ctrs := rfl
@[simp] theorem State.putSag_snaps (s : State) (k : Nat) (v : SagSt) : (s.putSag k v).snaps = s.snaps := rfl
@[simp] theorem State.putSag_clatch (s : State) (k : Nat) (v : SagSt) : (s.putSag k v).clatch = s.clatch := rfl
@[simp] theorem State.putSag_bank (s : State) (k : Nat) (v : SagSt) : (s.putSag k v).bank = s.bank := rfl
@[simp] theorem State.putSag_time (s : State) (k : Nat) (v : SagSt) : (s.putSag k v).time = s.time := rfl
@[simp] theorem State.putSag_irq (s : State) (k : Nat) (v : SagSt) : (s.putSag k v).irq = s.irq := rfl
@[simp] theorem State.putSag_hub (s : State) (k : Nat) (v : SagSt) : (s.putSag k v).hub = s.hub := rfl
@[simp] theorem State.putSag_tick (s : State) (k : Nat) (v : SagSt) : (s.putSag k v).tick = s.tick := rfl
@[simp] theorem State.putSag_buf (s : State) (k : Nat) (v : SagSt) : (s.putSag k v).buf = s.buf := rfl
@[simp] theorem State.putSag_core (s : State) (k : Nat) (v : SagSt) : (s.putSag k v).core = s.core := rfl
@[simp] theorem State.putSag_queue (s : State) (k : Nat) (v : SagSt) : (s.putSag k v).queue = s.queue := rfl
@[simp] theorem State.putSag_bridge (s : State) (k : Nat) (v : SagSt) : (s.putSag k v).bridge = s.bridge := rfl
@[simp] theorem State.putSag_mirror (s : State) (k : Nat) (v : SagSt) : (s.putSag k v).mirror = s.mirror := rfl
@[simp] theorem State.putSag_gate (s : State) (k : Nat) (v : SagSt) : (s.putSag k v).gate = s.gate := rfl
@[simp] theorem State.putSag_sched (s : State) (k : Nat) (v : SagSt) : (s.putSag k v).sched = s.sched := rfl
@[simp] theorem State.putSag_team (s : State) (k : Nat) (v : SagSt) : (s.putSag k v).team = s.team := rfl
@[simp] theorem State.putSag_tabs (s : State) (k : Nat) (v : SagSt) : (s.putSag k v).tabs = s.tabs := rfl
@[simp] theorem State.putSag_fdb (s : State) (k : Nat) (v : SagSt) : (s.putSag k v).fdb = s.fdb := rfl
@[simp] theorem State.putSag_sig (s : State) (k : Nat) (v : SagSt) : (s.putSag k v).sig = s.sig := rfl
@[simp] theorem State.putSag_swap (s : State) (k : Nat) (v : SagSt) : (s.putSag k v).swap = s.swap := rfl
@[simp] theorem State.putSag_failLog (s : State) (k : Nat) (v : SagSt) : (s.putSag k v).failLog = s.failLog := rfl
@[simp] theorem State.putSag_mar (s : State) (k : Nat) (v : SagSt) : (s.putSag k v).mar = s.mar := rfl
@[simp] theorem State.putSag_image (s : State) (k : Nat) (v : SagSt) : (s.putSag k v).image = s.image := rfl
@[simp] theorem State.putSag_link (s : State) (k : Nat) (v : SagSt) : (s.putSag k v).link = s.link := rfl
@[simp] theorem State.putSag_rx (s : State) (k : Nat) (v : SagSt) : (s.putSag k v).rx = s.rx := rfl
@[simp] theorem State.putSag_tx (s : State) (k : Nat) (v : SagSt) : (s.putSag k v).tx = s.tx := rfl
@[simp] theorem State.putSag_mdio (s : State) (k : Nat) (v : SagSt) : (s.putSag k v).mdio = s.mdio := rfl
@[simp] theorem State.putSag_ciph (s : State) (k : Nat) (v : SagSt) : (s.putSag k v).ciph = s.ciph := rfl
@[simp] theorem State.putSag_chan (s : State) (k : Nat) (v : SagSt) : (s.putSag k v).chan = s.chan := rfl
@[simp] theorem State.putSag_half (s : State) (k : Nat) (v : SagSt) : (s.putSag k v).half = s.half := rfl
@[simp] theorem State.putSag_phy (s : State) (k : Nat) (v : SagSt) : (s.putSag k v).phy = s.phy := rfl
@[simp] theorem State.putSag_dom (s : State) (k : Nat) (v : SagSt) : (s.putSag k v).dom = s.dom := rfl
@[simp] theorem State.putSag_dev (s : State) (k : Nat) (v : SagSt) : (s.putSag k v).dev = s.dev := rfl
@[simp] theorem State.putSag_lehr (s : State) (k : Nat) (v : SagSt) : (s.putSag k v).lehr = s.lehr := rfl
@[simp] theorem State.putSag_boot (s : State) (k : Nat) (v : SagSt) : (s.putSag k v).boot = s.boot := rfl
@[simp] theorem State.putSag_fuse (s : State) (k : Nat) (v : SagSt) : (s.putSag k v).fuse = s.fuse := rfl
@[simp] theorem State.putSag_flash (s : State) (k : Nat) (v : SagSt) : (s.putSag k v).flash = s.flash := rfl
@[simp] theorem State.putSag_hostMem (s : State) (k : Nat) (v : SagSt) : (s.putSag k v).hostMem = s.hostMem := rfl
@[simp] theorem State.putSag_pins (s : State) (k : Nat) (v : SagSt) : (s.putSag k v).pins = s.pins := rfl
@[simp] theorem State.putSag_pcie (s : State) (k : Nat) (v : SagSt) : (s.putSag k v).pcie = s.pcie := rfl
@[simp] theorem State.putSag_ring (s : State) (k : Nat) (v : SagSt) : (s.putSag k v).ring = s.ring := rfl
@[simp] theorem State.putSag_vlatch (s : State) (k : Nat) (v : SagSt) : (s.putSag k v).vlatch = s.vlatch := rfl

@[simp] theorem State.sagAt_same (s : State) (k : Nat) (v : SagSt) : (s.putSag k v).sagAt k = v := Tab.get_set_same _ _ _ _
theorem State.sagAt_ne (s : State) {k j : Nat} (v : SagSt) (h : j ≠ k) : (s.putSag k v).sagAt j = s.sagAt j := Tab.get_set_ne _ _ _ h

/-! putRing -/
@[simp] theorem State.putRing_pending (s : State) (k : Nat) (v : RingSt) : (s.putRing k v).pending = s.pending := rfl
@[simp] theorem State.putRing_nonce (s : State) (k : Nat) (v : RingSt) : (s.putRing k v).nonce = s.nonce := rfl
@[simp] theorem State.putRing_resp (s : State) (k : Nat) (v : RingSt) : (s.putRing k v).resp = s.resp := rfl
@[simp] theorem State.putRing_regs (s : State) (k : Nat) (v : RingSt) : (s.putRing k v).regs = s.regs := rfl
@[simp] theorem State.putRing_ctrs (s : State) (k : Nat) (v : RingSt) : (s.putRing k v).ctrs = s.ctrs := rfl
@[simp] theorem State.putRing_snaps (s : State) (k : Nat) (v : RingSt) : (s.putRing k v).snaps = s.snaps := rfl
@[simp] theorem State.putRing_clatch (s : State) (k : Nat) (v : RingSt) : (s.putRing k v).clatch = s.clatch := rfl
@[simp] theorem State.putRing_bank (s : State) (k : Nat) (v : RingSt) : (s.putRing k v).bank = s.bank := rfl
@[simp] theorem State.putRing_time (s : State) (k : Nat) (v : RingSt) : (s.putRing k v).time = s.time := rfl
@[simp] theorem State.putRing_irq (s : State) (k : Nat) (v : RingSt) : (s.putRing k v).irq = s.irq := rfl
@[simp] theorem State.putRing_hub (s : State) (k : Nat) (v : RingSt) : (s.putRing k v).hub = s.hub := rfl
@[simp] theorem State.putRing_tick (s : State) (k : Nat) (v : RingSt) : (s.putRing k v).tick = s.tick := rfl
@[simp] theorem State.putRing_buf (s : State) (k : Nat) (v : RingSt) : (s.putRing k v).buf = s.buf := rfl
@[simp] theorem State.putRing_core (s : State) (k : Nat) (v : RingSt) : (s.putRing k v).core = s.core := rfl
@[simp] theorem State.putRing_queue (s : State) (k : Nat) (v : RingSt) : (s.putRing k v).queue = s.queue := rfl
@[simp] theorem State.putRing_bridge (s : State) (k : Nat) (v : RingSt) : (s.putRing k v).bridge = s.bridge := rfl
@[simp] theorem State.putRing_mirror (s : State) (k : Nat) (v : RingSt) : (s.putRing k v).mirror = s.mirror := rfl
@[simp] theorem State.putRing_gate (s : State) (k : Nat) (v : RingSt) : (s.putRing k v).gate = s.gate := rfl
@[simp] theorem State.putRing_sched (s : State) (k : Nat) (v : RingSt) : (s.putRing k v).sched = s.sched := rfl
@[simp] theorem State.putRing_team (s : State) (k : Nat) (v : RingSt) : (s.putRing k v).team = s.team := rfl
@[simp] theorem State.putRing_tabs (s : State) (k : Nat) (v : RingSt) : (s.putRing k v).tabs = s.tabs := rfl
@[simp] theorem State.putRing_fdb (s : State) (k : Nat) (v : RingSt) : (s.putRing k v).fdb = s.fdb := rfl
@[simp] theorem State.putRing_sig (s : State) (k : Nat) (v : RingSt) : (s.putRing k v).sig = s.sig := rfl
@[simp] theorem State.putRing_swap (s : State) (k : Nat) (v : RingSt) : (s.putRing k v).swap = s.swap := rfl
@[simp] theorem State.putRing_failLog (s : State) (k : Nat) (v : RingSt) : (s.putRing k v).failLog = s.failLog := rfl
@[simp] theorem State.putRing_mar (s : State) (k : Nat) (v : RingSt) : (s.putRing k v).mar = s.mar := rfl
@[simp] theorem State.putRing_image (s : State) (k : Nat) (v : RingSt) : (s.putRing k v).image = s.image := rfl
@[simp] theorem State.putRing_link (s : State) (k : Nat) (v : RingSt) : (s.putRing k v).link = s.link := rfl
@[simp] theorem State.putRing_rx (s : State) (k : Nat) (v : RingSt) : (s.putRing k v).rx = s.rx := rfl
@[simp] theorem State.putRing_tx (s : State) (k : Nat) (v : RingSt) : (s.putRing k v).tx = s.tx := rfl
@[simp] theorem State.putRing_mdio (s : State) (k : Nat) (v : RingSt) : (s.putRing k v).mdio = s.mdio := rfl
@[simp] theorem State.putRing_ciph (s : State) (k : Nat) (v : RingSt) : (s.putRing k v).ciph = s.ciph := rfl
@[simp] theorem State.putRing_chan (s : State) (k : Nat) (v : RingSt) : (s.putRing k v).chan = s.chan := rfl
@[simp] theorem State.putRing_half (s : State) (k : Nat) (v : RingSt) : (s.putRing k v).half = s.half := rfl
@[simp] theorem State.putRing_phy (s : State) (k : Nat) (v : RingSt) : (s.putRing k v).phy = s.phy := rfl
@[simp] theorem State.putRing_dom (s : State) (k : Nat) (v : RingSt) : (s.putRing k v).dom = s.dom := rfl
@[simp] theorem State.putRing_dev (s : State) (k : Nat) (v : RingSt) : (s.putRing k v).dev = s.dev := rfl
@[simp] theorem State.putRing_sag (s : State) (k : Nat) (v : RingSt) : (s.putRing k v).sag = s.sag := rfl
@[simp] theorem State.putRing_lehr (s : State) (k : Nat) (v : RingSt) : (s.putRing k v).lehr = s.lehr := rfl
@[simp] theorem State.putRing_boot (s : State) (k : Nat) (v : RingSt) : (s.putRing k v).boot = s.boot := rfl
@[simp] theorem State.putRing_fuse (s : State) (k : Nat) (v : RingSt) : (s.putRing k v).fuse = s.fuse := rfl
@[simp] theorem State.putRing_flash (s : State) (k : Nat) (v : RingSt) : (s.putRing k v).flash = s.flash := rfl
@[simp] theorem State.putRing_hostMem (s : State) (k : Nat) (v : RingSt) : (s.putRing k v).hostMem = s.hostMem := rfl
@[simp] theorem State.putRing_pins (s : State) (k : Nat) (v : RingSt) : (s.putRing k v).pins = s.pins := rfl
@[simp] theorem State.putRing_pcie (s : State) (k : Nat) (v : RingSt) : (s.putRing k v).pcie = s.pcie := rfl
@[simp] theorem State.putRing_vlatch (s : State) (k : Nat) (v : RingSt) : (s.putRing k v).vlatch = s.vlatch := rfl

@[simp] theorem State.ringAt_same (s : State) (k : Nat) (v : RingSt) : (s.putRing k v).ringAt k = v := Tab.get_set_same _ _ _ _
theorem State.ringAt_ne (s : State) {k j : Nat} (v : RingSt) (h : j ≠ k) : (s.putRing k v).ringAt j = s.ringAt j := Tab.get_set_ne _ _ _ h

/-! putRx -/
@[simp] theorem State.putRx_pending (s : State) (k : Nat) (v : RxSt) : (s.putRx k v).pending = s.pending := rfl
@[simp] theorem State.putRx_nonce (s : State) (k : Nat) (v : RxSt) : (s.putRx k v).nonce = s.nonce := rfl
@[simp] theorem State.putRx_resp (s : State) (k : Nat) (v : RxSt) : (s.putRx k v).resp = s.resp := rfl
@[simp] theorem State.putRx_regs (s : State) (k : Nat) (v : RxSt) : (s.putRx k v).regs = s.regs := rfl
@[simp] theorem State.putRx_ctrs (s : State) (k : Nat) (v : RxSt) : (s.putRx k v).ctrs = s.ctrs := rfl
@[simp] theorem State.putRx_snaps (s : State) (k : Nat) (v : RxSt) : (s.putRx k v).snaps = s.snaps := rfl
@[simp] theorem State.putRx_clatch (s : State) (k : Nat) (v : RxSt) : (s.putRx k v).clatch = s.clatch := rfl
@[simp] theorem State.putRx_bank (s : State) (k : Nat) (v : RxSt) : (s.putRx k v).bank = s.bank := rfl
@[simp] theorem State.putRx_time (s : State) (k : Nat) (v : RxSt) : (s.putRx k v).time = s.time := rfl
@[simp] theorem State.putRx_irq (s : State) (k : Nat) (v : RxSt) : (s.putRx k v).irq = s.irq := rfl
@[simp] theorem State.putRx_hub (s : State) (k : Nat) (v : RxSt) : (s.putRx k v).hub = s.hub := rfl
@[simp] theorem State.putRx_tick (s : State) (k : Nat) (v : RxSt) : (s.putRx k v).tick = s.tick := rfl
@[simp] theorem State.putRx_buf (s : State) (k : Nat) (v : RxSt) : (s.putRx k v).buf = s.buf := rfl
@[simp] theorem State.putRx_core (s : State) (k : Nat) (v : RxSt) : (s.putRx k v).core = s.core := rfl
@[simp] theorem State.putRx_queue (s : State) (k : Nat) (v : RxSt) : (s.putRx k v).queue = s.queue := rfl
@[simp] theorem State.putRx_bridge (s : State) (k : Nat) (v : RxSt) : (s.putRx k v).bridge = s.bridge := rfl
@[simp] theorem State.putRx_mirror (s : State) (k : Nat) (v : RxSt) : (s.putRx k v).mirror = s.mirror := rfl
@[simp] theorem State.putRx_gate (s : State) (k : Nat) (v : RxSt) : (s.putRx k v).gate = s.gate := rfl
@[simp] theorem State.putRx_sched (s : State) (k : Nat) (v : RxSt) : (s.putRx k v).sched = s.sched := rfl
@[simp] theorem State.putRx_team (s : State) (k : Nat) (v : RxSt) : (s.putRx k v).team = s.team := rfl
@[simp] theorem State.putRx_tabs (s : State) (k : Nat) (v : RxSt) : (s.putRx k v).tabs = s.tabs := rfl
@[simp] theorem State.putRx_fdb (s : State) (k : Nat) (v : RxSt) : (s.putRx k v).fdb = s.fdb := rfl
@[simp] theorem State.putRx_sig (s : State) (k : Nat) (v : RxSt) : (s.putRx k v).sig = s.sig := rfl
@[simp] theorem State.putRx_swap (s : State) (k : Nat) (v : RxSt) : (s.putRx k v).swap = s.swap := rfl
@[simp] theorem State.putRx_failLog (s : State) (k : Nat) (v : RxSt) : (s.putRx k v).failLog = s.failLog := rfl
@[simp] theorem State.putRx_mar (s : State) (k : Nat) (v : RxSt) : (s.putRx k v).mar = s.mar := rfl
@[simp] theorem State.putRx_image (s : State) (k : Nat) (v : RxSt) : (s.putRx k v).image = s.image := rfl
@[simp] theorem State.putRx_link (s : State) (k : Nat) (v : RxSt) : (s.putRx k v).link = s.link := rfl
@[simp] theorem State.putRx_tx (s : State) (k : Nat) (v : RxSt) : (s.putRx k v).tx = s.tx := rfl
@[simp] theorem State.putRx_mdio (s : State) (k : Nat) (v : RxSt) : (s.putRx k v).mdio = s.mdio := rfl
@[simp] theorem State.putRx_ciph (s : State) (k : Nat) (v : RxSt) : (s.putRx k v).ciph = s.ciph := rfl
@[simp] theorem State.putRx_chan (s : State) (k : Nat) (v : RxSt) : (s.putRx k v).chan = s.chan := rfl
@[simp] theorem State.putRx_half (s : State) (k : Nat) (v : RxSt) : (s.putRx k v).half = s.half := rfl
@[simp] theorem State.putRx_phy (s : State) (k : Nat) (v : RxSt) : (s.putRx k v).phy = s.phy := rfl
@[simp] theorem State.putRx_dom (s : State) (k : Nat) (v : RxSt) : (s.putRx k v).dom = s.dom := rfl
@[simp] theorem State.putRx_dev (s : State) (k : Nat) (v : RxSt) : (s.putRx k v).dev = s.dev := rfl
@[simp] theorem State.putRx_sag (s : State) (k : Nat) (v : RxSt) : (s.putRx k v).sag = s.sag := rfl
@[simp] theorem State.putRx_lehr (s : State) (k : Nat) (v : RxSt) : (s.putRx k v).lehr = s.lehr := rfl
@[simp] theorem State.putRx_boot (s : State) (k : Nat) (v : RxSt) : (s.putRx k v).boot = s.boot := rfl
@[simp] theorem State.putRx_fuse (s : State) (k : Nat) (v : RxSt) : (s.putRx k v).fuse = s.fuse := rfl
@[simp] theorem State.putRx_flash (s : State) (k : Nat) (v : RxSt) : (s.putRx k v).flash = s.flash := rfl
@[simp] theorem State.putRx_hostMem (s : State) (k : Nat) (v : RxSt) : (s.putRx k v).hostMem = s.hostMem := rfl
@[simp] theorem State.putRx_pins (s : State) (k : Nat) (v : RxSt) : (s.putRx k v).pins = s.pins := rfl
@[simp] theorem State.putRx_pcie (s : State) (k : Nat) (v : RxSt) : (s.putRx k v).pcie = s.pcie := rfl
@[simp] theorem State.putRx_ring (s : State) (k : Nat) (v : RxSt) : (s.putRx k v).ring = s.ring := rfl
@[simp] theorem State.putRx_vlatch (s : State) (k : Nat) (v : RxSt) : (s.putRx k v).vlatch = s.vlatch := rfl

@[simp] theorem State.rxAt_same (s : State) (k : Nat) (v : RxSt) : (s.putRx k v).rxAt k = v := Tab.get_set_same _ _ _ _
theorem State.rxAt_ne (s : State) {k j : Nat} (v : RxSt) (h : j ≠ k) : (s.putRx k v).rxAt j = s.rxAt j := Tab.get_set_ne _ _ _ h

@[simp] theorem State.onTick_eq (s : State) (k : Nat) (f : (TickSt) → (TickSt)) : s.onTick k f = s.putTick k (f (s.tickAt k)) := rfl
@[simp] theorem State.onBuf_eq (s : State) (k : Nat) (f : (BufSt) → (BufSt)) : s.onBuf k f = s.putBuf k (f (s.bufAt k)) := rfl
@[simp] theorem State.onQueue_eq (s : State) (k : Nat) (f : (Queue) → (Queue)) : s.onQueue k f = s.putQueue k (f (s.queueAt k)) := rfl
@[simp] theorem State.onBridge_eq (s : State) (k : Nat) (f : (BridgeSt) → (BridgeSt)) : s.onBridge k f = s.putBridge k (f (s.bridgeAt k)) := rfl
@[simp] theorem State.onMirror_eq (s : State) (k : Nat) (f : (MirrorSt) → (MirrorSt)) : s.onMirror k f = s.putMirror k (f (s.mirrorAt k)) := rfl
@[simp] theorem State.onGate_eq (s : State) (k : Nat) (f : (GateSt) → (GateSt)) : s.onGate k f = s.putGate k (f (s.gateAt k)) := rfl
@[simp] theorem State.onSched_eq (s : State) (k : Nat) (f : (SchedSt) → (SchedSt)) : s.onSched k f = s.putSched k (f (s.schedAt k)) := rfl
@[simp] theorem State.onTeam_eq (s : State) (k : Nat) (f : (TeamSt) → (TeamSt)) : s.onTeam k f = s.putTeam k (f (s.teamAt k)) := rfl
@[simp] theorem State.onTabs_eq (s : State) (k : Nat) (f : (TabSt) → (TabSt)) : s.onTabs k f = s.putTabs k (f (s.tabsAt k)) := rfl
@[simp] theorem State.onFdb_eq (s : State) (k : Nat) (f : (FdbSt) → (FdbSt)) : s.onFdb k f = s.putFdb k (f (s.fdbAt k)) := rfl
@[simp] theorem State.onSig_eq (s : State) (k : Nat) (f : (SigSt) → (SigSt)) : s.onSig k f = s.putSig k (f (s.sigAt k)) := rfl
@[simp] theorem State.onSwap_eq (s : State) (k : Nat) (f : (Option SwapSt) → (Option SwapSt)) : s.onSwap k f = s.putSwap k (f (s.swapAt k)) := rfl
@[simp] theorem State.onFailLog_eq (s : State) (k : Nat) (f : (List Nat) → (List Nat)) : s.onFailLog k f = s.putFailLog k (f (s.failLogAt k)) := rfl
@[simp] theorem State.onMar_eq (s : State) (k : Nat) (f : (MarverSt) → (MarverSt)) : s.onMar k f = s.putMar k (f (s.marAt k)) := rfl
@[simp] theorem State.onLink_eq (s : State) (k : Nat) (f : (LinkSt) → (LinkSt)) : s.onLink k f = s.putLink k (f (s.linkAt k)) := rfl
@[simp] theorem State.onTx_eq (s : State) (k : Nat) (f : (Option TxSt) → (Option TxSt)) : s.onTx k f = s.putTx k (f (s.txAt k)) := rfl
@[simp] theorem State.onMdio_eq (s : State) (k : Nat) (f : (Option W32) → (Option W32)) : s.onMdio k f = s.putMdio k (f (s.mdioAt k)) := rfl
@[simp] theorem State.onCiph_eq (s : State) (k : Nat) (f : (CiphSt) → (CiphSt)) : s.onCiph k f = s.putCiph k (f (s.ciphAt k)) := rfl
@[simp] theorem State.onChan_eq (s : State) (k : Nat) (f : (ChanSt) → (ChanSt)) : s.onChan k f = s.putChan k (f (s.chanAt k)) := rfl
@[simp] theorem State.onHalf_eq (s : State) (k : Nat) (f : (HalfSt) → (HalfSt)) : s.onHalf k f = s.putHalf k (f (s.halfAt k)) := rfl
@[simp] theorem State.onDom_eq (s : State) (k : Nat) (f : (DomSt) → (DomSt)) : s.onDom k f = s.putDom k (f (s.domAt k)) := rfl
@[simp] theorem State.onSag_eq (s : State) (k : Nat) (f : (SagSt) → (SagSt)) : s.onSag k f = s.putSag k (f (s.sagAt k)) := rfl
@[simp] theorem State.onRing_eq (s : State) (k : Nat) (f : (RingSt) → (RingSt)) : s.onRing k f = s.putRing k (f (s.ringAt k)) := rfl
@[simp] theorem State.onRx_eq (s : State) (k : Nat) (f : (RxSt) → (RxSt)) : s.onRx k f = s.putRx k (f (s.rxAt k)) := rfl
@[simp] theorem State.onCore_eq (s : State) (k : Nat) (f : (CoreSt) → (CoreSt)) : s.onCore k f = s.putCore k (f (s.coreAt k)) := rfl

/-! Reads of registers and counters -/

theorem State.rd_congr {s t : State} (h : t.regs = s.regs) (p off w : Nat) : t.rd p off w = s.rd p off w := by
  simp only [State.rd, h]
theorem State.fld_congr {s t : State} (h : t.regs = s.regs) (p : Nat) (f : Fld) (w : Nat) : t.fld p f w = s.fld p f w := by
  simp only [State.fld, State.rd, h]
theorem State.flag_congr {s t : State} (h : t.regs = s.regs) (p : Nat) (f : Fld) (w : Nat) : t.flag p f w = s.flag p f w := by
  simp only [State.flag, State.fld, State.rd, h]
theorem State.ctr_congr {s t : State} (h : t.ctrs = s.ctrs) (p off w : Nat) : t.ctr p off w = s.ctr p off w := by
  simp only [State.ctr, h]

end Sys2Proof.Machine
end

