-- ==== Sys2Proof/Laws/Ops.lean ====
section
/-! SUPPORT. What the operations over registers, counters and pages do: a word, a field or a counter read after it is
written, and everything else as before; a page that answers takes the access. -/

namespace Sys2Proof.Machine

/-! Register keys. -/

theorem rkey_inj {p off w p' off' w' : Nat} (ho : off < 4096) (ho' : off' < 4096) (hw : w < 4096) (hw' : w' < 4096)
    (h4 : off % 4 = off' % 4) (h : rkey p off w = rkey p' off' w') : p = p' ∧ off = off' ∧ w = w' := by
  unfold rkey at h
  omega

theorem rkey_ne_page {p off w p' off' w' : Nat} (ho : off < 4096) (ho' : off' < 4096) (hw : w < 4096) (hw' : w' < 4096)
    (h : p ≠ p') : rkey p off w ≠ rkey p' off' w' := by
  unfold rkey
  omega

theorem rkey_ne_off {p off w p' off' w' : Nat} (hw : w < 4096) (hw' : w' < 4096) (ho : off < 4096) (ho' : off' < 4096)
    (h : off / 4 ≠ off' / 4) : rkey p off w ≠ rkey p' off' w' := by
  unfold rkey
  omega

/-! Words. -/

@[simp] theorem State.rd_wr_same (s : State) (p off : Nat) (v : W32) (w : Nat) : (s.wr p off v w).rd p off w = v := by
  simp [State.rd, State.wr]

theorem State.rd_wr_ne (s : State) (p off : Nat) (v : W32) (w : Nat) {p' off' w' : Nat}
    (h : rkey p' off' w' ≠ rkey p off w) : (s.wr p off v w).rd p' off' w' = s.rd p' off' w' := by
  simp [State.rd, State.wr, Tab.get_set_ne _ _ _ h]

theorem State.rd_wr (s : State) (p off : Nat) (v : W32) (w p' off' w' : Nat) :
    (s.wr p off v w).rd p' off' w' = if rkey p' off' w' = rkey p off w then v else s.rd p' off' w' := by
  simp [State.rd, State.wr, Tab.get_set]

/-! Bits. -/

theorem bits_lt (n hi lo : Nat) : bits n hi lo < 2 ^ (hi + 1 - lo) := Nat.mod_lt _ (Nat.two_pow_pos _)

theorem bit_setBits (n hi lo v i : Nat) (h : lo ≤ hi) :
    bit (setBits n hi lo v) i = if lo ≤ i ∧ i ≤ hi then bit v (i - lo) else bit n i := by
  have e : setBits n hi lo v
      = 2 ^ (hi + 1) * (n >>> (hi + 1)) + (2 ^ lo * (v % 2 ^ (hi + 1 - lo)) + n % 2 ^ lo) := by
    unfold setBits; ring
  have h1 : n % 2 ^ lo < 2 ^ lo := Nat.mod_lt _ (Nat.two_pow_pos _)
  have h2 : v % 2 ^ (hi + 1 - lo) < 2 ^ (hi + 1 - lo) := Nat.mod_lt _ (Nat.two_pow_pos _)
  have h3 : 2 ^ lo * (v % 2 ^ (hi + 1 - lo)) + n % 2 ^ lo < 2 ^ (hi + 1) := by
    have : 2 ^ (hi + 1) = 2 ^ lo * 2 ^ (hi + 1 - lo) := by rw [← pow_add]; congr 1; omega
    rw [this]
    calc 2 ^ lo * (v % 2 ^ (hi + 1 - lo)) + n % 2 ^ lo < 2 ^ lo * (v % 2 ^ (hi + 1 - lo)) + 2 ^ lo := by omega
      _ = 2 ^ lo * (v % 2 ^ (hi + 1 - lo) + 1) := by ring
      _ ≤ 2 ^ lo * 2 ^ (hi + 1 - lo) := Nat.mul_le_mul_left _ h2
  unfold bit
  rw [e, Nat.testBit_two_pow_mul_add _ h3, Nat.testBit_two_pow_mul_add _ h1]
  simp only [Nat.testBit_mod_two_pow, Nat.testBit_shiftRight]
  by_cases a : i < lo
  · simp [a, show ¬ (lo ≤ i) by omega, show i < hi + 1 by omega]
  · by_cases b : i ≤ hi
    · simp [a, b, show lo ≤ i by omega, show i < hi + 1 by omega, show i - lo < hi + 1 - lo by omega]
    · simp [b, show ¬ (i < hi + 1) by omega, show hi + 1 + (i - (hi + 1)) = i by omega]

theorem bit_bits (n hi lo i : Nat) : bit (bits n hi lo) i = (decide (i < hi + 1 - lo) && bit n (lo + i)) := by
  simp [bit, bits, Nat.testBit_mod_two_pow, Nat.testBit_shiftRight]

theorem setBits_lt (n hi lo v : Nat) (hn : n < 2 ^ 32) (h : lo ≤ hi) (h32 : hi < 32) : setBits n hi lo v < 2 ^ 32 := by
  apply Nat.lt_pow_two_of_testBit
  intro i hi'
  have := bit_setBits n hi lo v i h
  unfold bit at this
  rw [this, if_neg (by omega)]
  exact Nat.testBit_lt_two_pow (lt_of_lt_of_le hn (Nat.pow_le_pow_right (by norm_num) hi'))

theorem bits_setBits_same (n hi lo v : Nat) (h : lo ≤ hi) : bits (setBits n hi lo v) hi lo = v % 2 ^ (hi + 1 - lo) := by
  apply Nat.eq_of_testBit_eq
  intro i
  have e := bit_bits (setBits n hi lo v) hi lo i
  rw [bit_setBits _ _ _ _ _ h] at e
  unfold bit at e
  rw [e, Nat.testBit_mod_two_pow]
  by_cases c : i < hi + 1 - lo
  · simp [c, show lo + i ≤ hi by omega]
  · simp [c]

theorem bits_setBits_apart (n hi lo v hi' lo' : Nat) (h : lo ≤ hi) (a : hi' < lo ∨ hi < lo') :
    bits (setBits n hi lo v) hi' lo' = bits n hi' lo' := by
  apply Nat.eq_of_testBit_eq
  intro i
  have e := bit_bits (setBits n hi lo v) hi' lo' i
  have e' := bit_bits n hi' lo' i
  rw [bit_setBits _ _ _ _ _ h] at e
  unfold bit at e e'
  rw [e, e']
  by_cases c : i < hi' + 1 - lo'
  · rw [if_neg (by omega)]
  · simp [c]

/-! Fields. -/

/-- A field reads as it was written; its word's other fields and every other word as before. -/
theorem State.fld_setFld_same (s : State) (p : Nat) (f : Fld) (v w : Nat) (h : f.lo ≤ f.hi) (h32 : f.hi < 32) :
    (s.setFld p f v w).fld p f w = v % 2 ^ (f.hi + 1 - f.lo) := by
  unfold State.setFld State.fld
  rw [State.rd_wr_same, BitVec.toNat_ofNat, Nat.mod_eq_of_lt (setBits_lt _ _ _ _ (BitVec.isLt _) h h32),
    bits_setBits_same _ _ _ _ h]

theorem State.fld_setFld_apart (s : State) (p : Nat) (f g : Fld) (v w : Nat) (h : f.lo ≤ f.hi) (h32 : f.hi < 32)
    (ho : g.off = f.off) (a : g.hi < f.lo ∨ f.hi < g.lo) :
    (s.setFld p f v w).fld p g w = s.fld p g w := by
  unfold State.setFld State.fld
  rw [ho, State.rd_wr_same, BitVec.toNat_ofNat, Nat.mod_eq_of_lt (setBits_lt _ _ _ _ (BitVec.isLt _) h h32),
    bits_setBits_apart _ _ _ _ _ _ h a]

theorem State.rd_setFld_ne (s : State) (p : Nat) (f : Fld) (v w : Nat) {p' off' w' : Nat}
    (h : rkey p' off' w' ≠ rkey p f.off w) : (s.setFld p f v w).rd p' off' w' = s.rd p' off' w' :=
  State.rd_wr_ne _ _ _ _ _ h

theorem State.fld_setFld_other (s : State) (p : Nat) (f : Fld) (v w : Nat) {p' : Nat} {g : Fld} {w' : Nat}
    (h : rkey p' g.off w' ≠ rkey p f.off w) : (s.setFld p f v w).fld p' g w' = s.fld p' g w' := by
  unfold State.fld; rw [State.rd_setFld_ne _ _ _ _ _ h]

theorem State.fld_wr_other (s : State) (p off : Nat) (v : W32) (w : Nat) {p' : Nat} {g : Fld} {w' : Nat}
    (h : rkey p' g.off w' ≠ rkey p off w) : (s.wr p off v w).fld p' g w' = s.fld p' g w' := by
  unfold State.fld; rw [State.rd_wr_ne _ _ _ _ _ h]

/-- A written field is not one of the same word's other bits. -/
theorem State.bit_setFld_apart (s : State) (p : Nat) (f : Fld) (v w i : Nat) (h : f.lo ≤ f.hi) (h32 : f.hi < 32)
    (a : i < f.lo ∨ f.hi < i) : bit ((s.setFld p f v w).rd p f.off w).toNat i = bit (s.rd p f.off w).toNat i := by
  unfold State.setFld
  rw [State.rd_wr_same, BitVec.toNat_ofNat, Nat.mod_eq_of_lt (setBits_lt _ _ _ _ (BitVec.isLt _) h h32),
    bit_setBits _ _ _ _ _ h, if_neg (by omega)]

/-! Ports. -/

theorem portSlot_lt (p : Nat) : portSlot p < 16 := by unfold portSlot; split <;> omega

/-! Causes. -/

theorem State.rd_raise_ne (s : State) (p i : Nat) {p' off' w' : Nat} (h : rkey p' off' w' ≠ rkey p 0x010 0) :
    (s.raise p i).rd p' off' w' = s.rd p' off' w' := State.rd_wr_ne _ _ _ _ _ h

theorem State.fld_raise_other (s : State) (p i : Nat) {p' : Nat} {g : Fld} {w' : Nat}
    (h : rkey p' g.off w' ≠ rkey p 0x010 0) : (s.raise p i).fld p' g w' = s.fld p' g w' := by
  unfold State.fld; rw [State.rd_raise_ne _ _ _ h]

/-- Raising a cause sets its bit of INT_STATUS. -/
theorem State.raise_bit (s : State) (p i : Nat) (h : i < 32) : bit ((s.raise p i).rd p 0x010).toNat i = true := by
  unfold State.raise
  rw [State.rd_wr_same, BitVec.toNat_or, BitVec.toNat_ofNat, bit, Nat.testBit_or, Nat.testBit_mod_two_pow]
  simp [h, Nat.testBit_two_pow_self]

/-- Raising a cause leaves the other bits of INT_STATUS. -/
theorem State.raise_bit_ne (s : State) (p i j : Nat) (h : j ≠ i) :
    bit ((s.raise p i).rd p 0x010).toNat j = bit (s.rd p 0x010).toNat j := by
  unfold State.raise
  rw [State.rd_wr_same, BitVec.toNat_or, BitVec.toNat_ofNat, bit, bit, Nat.testBit_or, Nat.testBit_mod_two_pow,
    Nat.testBit_two_pow_of_ne (Ne.symm h)]
  simp

/-! Counters. -/

@[simp] theorem State.ctr_addCtr_same (s : State) (p off n w : Nat) :
    (s.addCtr p off n w).ctr p off w = s.ctr p off w + BitVec.ofNat 64 n := by
  simp [State.ctr, State.addCtr]

theorem State.ctr_addCtr_ne (s : State) (p off n w : Nat) {p' off' w' : Nat} (h : rkey p' off' w' ≠ rkey p off w) :
    (s.addCtr p off n w).ctr p' off' w' = s.ctr p' off' w' := by
  simp [State.ctr, State.addCtr, Tab.get_set_ne _ _ _ h]

/-! Pages that answer. -/

/-- A page takes an access: the host reaches the device, the page is not lost to a failed start, its hub answers, and its
domain is steady in ON or IDLE (R32, R439, R493, R510). -/
theorem State.hostWrite_answers (s : State) (p : Nat) (f : State → State)
    (h : s.pcie.d3 = false ∧ s.hostGone = false ∧ s.pageLost p = false ∧ s.pageUp p = true
      ∧ (s.hubAnswered p).domSteady (pageDomain p) = true) :
    s.hostWrite p f = f (s.hubAnswered p) := by
  obtain ⟨h1, h2, h3, h4, h5⟩ := h
  simp [State.hostWrite, State.onPage, h1, h2, h3, h4, h5]

theorem State.hostRead_answers (s : State) (p : Nat) (f : State → W32 × State) (hp : (pageKind p).isSome = true)
    (h : s.pcie.d3 = false ∧ s.hostGone = false ∧ s.pageLost p = false ∧ s.pageUp p = true
      ∧ (s.hubAnswered p).domSteady (pageDomain p) = true) :
    s.hostRead p f = State.respond (f (s.hubAnswered p)) := by
  obtain ⟨h1, h2, h3, h4, h5⟩ := h
  have h6 : (pageKind p).isNone = false := by cases h : pageKind p <;> simp_all
  simp [State.hostRead, State.fromPage, h1, h2, h3, h4, h5, h6]

/-- An answer ends the hub's reported absence and nothing else. -/
theorem State.hubAnswered_frame (s : State) (p : Nat) :
    s.hubAnswered p = { s with hub := { s.hub with reported := (s.hubAnswered p).hub.reported } } := by
  unfold State.hubAnswered
  split <;> rfl

end Sys2Proof.Machine
end

