-- ==== Sys2Proof/Laws/Settle.lean ====
section
/-! SUPPORT. What settling the interrupt tree can do (R523, R524): vectors and pending bits, HOST.MSIX_NOADDR, and the
COAL timers of rings; nothing else. -/

namespace Sys2Proof.Machine

/-- One message: vectors sent and pending bits, MSIX_NOADDR, and COAL timers. -/
theorem State.cool_frame (s : State) (i : Nat) : s.cool i = { s with ring := (s.cool i).ring } := rfl

theorem State.cool_each_frame (l : List Nat) : ∀ s : State, s.each l State.cool = { s with ring := (s.each l State.cool).ring } := by
  induction l with
  | nil => intro s; rfl
  | cons i l ih => intro s; exact (ih (s.cool i)).trans rfl

theorem State.message_frame (s : State) (v : Nat) :
    s.message v = { s with irq := (s.message v).irq, ctrs := (s.message v).ctrs, ring := (s.message v).ring } := by
  unfold State.message
  split
  · rfl
  · split
    · rfl
    · dsimp only
      rw [State.cool_each_frame]

theorem State.message_ctr (s : State) (v : Nat) {p off w : Nat}
    (h : rkey p off w ≠ rkey pgHost Reg.HOST.MSIX_NOADDR 0) : (s.message v).ctr p off w = s.ctr p off w := by
  unfold State.message
  split
  · rfl
  · split
    · exact State.ctr_addCtr_ne _ _ _ _ _ h
    · dsimp only
      rw [State.cool_each_frame]
      rfl

theorem State.message_active (s : State) (v : Nat) : (s.message v).irq.active = s.irq.active := by
  unfold State.message
  split
  · rfl
  · split
    · rfl
    · dsimp only
      rw [State.cool_each_frame]

theorem State.message_pba (s : State) (v : Nat) :
    (s.message v).irq.pba &&& ~~~ (s.irq.pba ||| BitVec.ofNat 64 (2 ^ v)) = 0 := by
  have bv1 : ∀ x : W64, x &&& ~~~ x = 0 := by intro x; simp
  have bv2 : ∀ x y : W64, x &&& ~~~ (x ||| y) = 0 := by
    intro x y; apply BitVec.eq_of_getElem_eq; intro i hi
    simp only [BitVec.getElem_and, BitVec.getElem_not, BitVec.getElem_or]
    cases x[i] <;> cases y[i] <;> simp
  have bv3 : ∀ x y : W64, (x &&& ~~~ y) &&& ~~~ (x ||| y) = 0 := by
    intro x y; apply BitVec.eq_of_getElem_eq; intro i hi
    simp only [BitVec.getElem_and, BitVec.getElem_not, BitVec.getElem_or]
    cases x[i] <;> cases y[i] <;> simp
  unfold State.message
  split
  · exact bv1 _
  · split
    · exact bv2 _ _
    · dsimp only
      rw [State.cool_each_frame]
      exact bv3 _ _

/-- The messages of several vectors. -/
theorem State.messages_frame (l : List Nat) : ∀ s : State,
    s.each l State.message =
      { s with irq := (s.each l State.message).irq, ctrs := (s.each l State.message).ctrs, ring := (s.each l State.message).ring } := by
  induction l with
  | nil => intro s; rfl
  | cons v l ih =>
    intro s
    have a := ih (s.message v)
    have b := State.message_frame s v
    rw [show s.each (v :: l) State.message = (s.message v).each l State.message from rfl]
    generalize (s.message v).each l State.message = y at *
    generalize s.message v = u at *
    refine a.trans ?_
    rw [b]

theorem State.messages_ctr (l : List Nat) {p off w : Nat} (h : rkey p off w ≠ rkey pgHost Reg.HOST.MSIX_NOADDR 0) :
    ∀ s : State, (s.each l State.message).ctr p off w = s.ctr p off w := by
  induction l with
  | nil => intro s; rfl
  | cons v l ih => intro s; exact (ih (s.message v)).trans (State.message_ctr s v h)

theorem State.messages_active (l : List Nat) : ∀ s : State, (s.each l State.message).irq.active = s.irq.active := by
  induction l with
  | nil => intro s; rfl
  | cons v l ih => intro s; exact (ih (s.message v)).trans (State.message_active s v)

/-- After messages of vectors in `m`, pending bits lie in the pending bits before and `m`. -/
theorem State.messages_pba (m : W64) (l : List Nat) (hl : ∀ v ∈ l, BitVec.ofNat 64 (2 ^ v) &&& ~~~ m = 0) :
    ∀ s : State, s.irq.pba &&& ~~~ m = 0 → (s.each l State.message).irq.pba &&& ~~~ m = 0 := by
  have bv : ∀ a b d : W64, a &&& ~~~ (b ||| d) = 0 → b &&& ~~~ m = 0 → d &&& ~~~ m = 0 → a &&& ~~~ m = 0 := by
    intro a b d h1 h2 h3
    apply BitVec.eq_of_getElem_eq
    intro i hi
    have e1 := congrArg (fun x : W64 => x[i]) h1
    have e2 := congrArg (fun x : W64 => x[i]) h2
    have e3 := congrArg (fun x : W64 => x[i]) h3
    simp at e1 e2 e3 ⊢
    generalize a[i] = w at *; generalize b[i] = x at *; generalize d[i] = y at *; generalize m[i] = z at *
    revert e1 e2 e3; revert w x y z; decide
  induction l with
  | nil => intro s h; exact h
  | cons v l ih =>
    intro s h
    refine ih (fun x hx => hl x (List.mem_cons_of_mem _ hx)) (s.message v) ?_
    exact bv _ _ _ (State.message_pba s v) h (hl v List.mem_cons_self)

/-- What settling leaves: everything but the vectors, MSIX_NOADDR and the COAL timers. -/
theorem settle_frame (s : State) :
    settle s = { s with irq := (settle s).irq, ctrs := (settle s).ctrs, ring := (settle s).ring } := by
  unfold settle
  exact (State.messages_frame _ _).trans rfl

theorem settle_ctr (s : State) {p off w : Nat} (h : rkey p off w ≠ rkey pgHost Reg.HOST.MSIX_NOADDR 0) :
    (settle s).ctr p off w = s.ctr p off w := State.messages_ctr _ h _

theorem settle_active (s : State) : (settle s).irq.active = BitVec.ofNat 64 s.vectors := State.messages_active _ _

theorem settle_regs (s : State) : (settle s).regs = s.regs := (congrArg State.regs (settle_frame s)).trans rfl
theorem settle_rd (s : State) (p off w : Nat) : (settle s).rd p off w = s.rd p off w := by
  simp [State.rd, settle_regs]

/-- The pending bits after settling are those of active vectors. -/
theorem settle_pba (s : State) : (settle s).irq.pba &&& ~~~ (settle s).irq.active = 0 := by
  have bv : ∀ a b : W64, (a &&& b) &&& ~~~ b = 0 := by
    intro a b; apply BitVec.eq_of_getElem_eq; intro i hi; simp
  rw [settle_active]
  unfold settle
  refine State.messages_pba _ _ ?_ _ (bv _ _)
  intro v hv
  simp only [List.mem_filter, List.mem_range, bit] at hv
  obtain ⟨h1, h2⟩ := hv
  have h2' := h2
  apply BitVec.eq_of_getElem_eq
  intro i hi
  simp only [BitVec.toNat_and, Nat.testBit_and] at h2
  simp only [BitVec.getElem_and, BitVec.getElem_not]
  by_cases e : i = v
  · subst e
    have : (BitVec.ofNat 64 s.vectors)[i] = true := by
      rw [BitVec.getElem_eq_testBit_toNat]
      simp at h2
      simpa using h2.1
    simp [this]
  · have : (BitVec.ofNat 64 (2 ^ v))[i] = false := by
      rw [BitVec.getElem_eq_testBit_toNat, BitVec.toNat_ofNat, Nat.testBit_mod_two_pow, Nat.testBit_two_pow_of_ne (Ne.symm e)]
      simp
    rw [this]; simp

/-- What the vectors depend on: registers, the hub, the teams' failures, the domains and the supplies. -/
theorem State.vectors_congr {s t : State} (h1 : t.regs = s.regs) (h2 : t.hub = s.hub) (h3 : t.team = s.team)
    (h4 : t.dom = s.dom) (h5 : t.pins = s.pins) : t.vectors = s.vectors := by
  have a : ∀ p off w, t.rd p off w = s.rd p off w := fun p off w => by simp [State.rd, h1]
  have b : ∀ p f w, t.fld p f w = s.fld p f w := fun p f w => by simp [State.fld, a]
  have c : ∀ p f w, t.flag p f w = s.flag p f w := fun p f w => by simp [State.flag, b]
  have u : ∀ n, t.hubUp n = s.hubUp n := fun n => by
    unfold State.hubUp State.domOn State.teamAt State.domAt State.domDark
    rw [h2, h3, h4, h5]
  have d : ∀ p, t.pagePending p = s.pagePending p := fun p => by
    simp [State.pagePending, State.pageUp, State.hubSilent, u, h2, a, c]
  have e : ∀ i, t.ringPending i = s.ringPending i := fun i => by simp [State.ringPending, c]
  simp [State.vectors, State.statusPages, h1, b, d, e]

theorem settle_vectors (s : State) : (settle s).vectors = s.vectors :=
  State.vectors_congr (settle_regs s) ((congrArg State.hub (settle_frame s)).trans rfl)
    ((congrArg State.team (settle_frame s)).trans rfl) ((congrArg State.dom (settle_frame s)).trans rfl)
    ((congrArg State.pins (settle_frame s)).trans rfl)

/-- After settling, the active vectors are those the registers name. -/
theorem settle_active_self (s : State) : (settle s).irq.active = BitVec.ofNat 64 (settle s).vectors := by
  rw [settle_vectors, settle_active]

end Sys2Proof.Machine
end

