-- ==== Sys2Proof/Laws/Frames.lean ====
section
/-! SUPPORT. What a command leaves alone: how `Touches` follows from the named operations, one after another. -/

namespace Sys2Proof.Machine

theorem Touches.refl (s : State) (P : Nat → Prop) : Touches s s P := ⟨rfl, fun _ _ _ _ _ _ => rfl, fun _ _ _ _ _ _ _ => rfl, fun _ => rfl⟩

theorem Touches.trans {s t u : State} {P : Nat → Prop} (h : Touches s t P) (k : Touches t u P) : Touches s u P := by
  refine ⟨?_, fun p off w a b c => (k.regs p off w a b c).trans (h.regs p off w a b c),
    fun p off w a b c d => (k.ctrs p off w a b c d).trans (h.ctrs p off w a b c d), fun i => ?_⟩
  · have a := h.rest
    have b := k.rest
    refine b.trans ?_
    rw [a]
  · rw [k.rings i, h.rings i]

theorem Touches.mono {s t : State} {P Q : Nat → Prop} (h : Touches s t P) (k : ∀ p, P p → Q p) : Touches s t Q :=
  ⟨h.rest, fun p off w a b c => h.regs p off w a b (fun x => c (k p x)),
    fun p off w a b c d => h.ctrs p off w a b (fun x => c (k p x)) d, h.rings⟩

/-- A word of a page of `P`. -/
theorem Touches.wr {s t : State} {P : Nat → Prop} (h : Touches s t P) (p off : Nat) (v : W32) (w : Nat) (hp : P p)
    (ho : off < 4096) (hw : w < 4096) : Touches s (t.wr p off v w) P := by
  refine h.trans ⟨rfl, fun p' off' w' a b c => ?_, fun _ _ _ _ _ _ _ => rfl, fun _ => rfl⟩
  refine State.rd_wr_ne _ _ _ _ _ (rkey_ne_page a ho b hw ?_)
  rintro rfl
  exact c hp

theorem Touches.setFld {s t : State} {P : Nat → Prop} (h : Touches s t P) (p : Nat) (f : Fld) (v w : Nat) (hp : P p)
    (ho : f.off < 4096) (hw : w < 4096) : Touches s (t.setFld p f v w) P := h.wr _ _ _ _ hp ho hw

theorem Touches.raise {s t : State} {P : Nat → Prop} (h : Touches s t P) (p i : Nat) (hp : P p) : Touches s (t.raise p i) P :=
  h.wr _ _ _ _ hp (by norm_num) (by norm_num)

theorem Touches.addCtr {s t : State} {P : Nat → Prop} (h : Touches s t P) (p off n w : Nat) (hp : P p)
    (ho : off < 4096) (hw : w < 4096) : Touches s (t.addCtr p off n w) P := by
  refine h.trans ⟨rfl, fun _ _ _ _ _ _ => rfl, fun p' off' w' a b c d => ?_, fun _ => rfl⟩
  refine State.ctr_addCtr_ne _ _ _ _ _ (rkey_ne_page a ho b hw ?_)
  rintro rfl
  exact c hp

theorem State.cool_ring (s : State) (i j : Nat) :
    (s.cool i).ringAt j = { s.ringAt j with cooling := ((s.cool i).ringAt j).cooling } := by
  unfold State.cool State.onRing State.putRing State.ringAt
  dsimp only
  rw [Tab.get_set]
  split
  · next h => subst h; rfl
  · rfl

theorem State.cool_each_ring (l : List Nat) : ∀ (s : State) (j : Nat),
    (s.each l State.cool).ringAt j = { s.ringAt j with cooling := ((s.each l State.cool).ringAt j).cooling } := by
  induction l with
  | nil => intro s j; rfl
  | cons i l ih =>
    intro s j
    refine (ih (s.cool i) j).trans ?_
    rw [State.cool_ring s i j]
    rfl

theorem State.message_ring (s : State) (v j : Nat) :
    (s.message v).ringAt j = { s.ringAt j with cooling := ((s.message v).ringAt j).cooling } := by
  unfold State.message
  split
  · rfl
  · split
    · rfl
    · exact State.cool_each_ring _ _ _

theorem State.messages_ring (l : List Nat) : ∀ (s : State) (j : Nat),
    (s.each l State.message).ringAt j = { s.ringAt j with cooling := ((s.each l State.message).ringAt j).cooling } := by
  induction l with
  | nil => intro s j; rfl
  | cons i l ih =>
    intro s j
    refine (ih (s.message i) j).trans ?_
    rw [State.message_ring s i j]
    rfl

theorem rkey_host_ne {p off w : Nat} (ho : off < 4096) (hw : w < 4096) (h : p ≠ pgHost) :
    rkey p off w ≠ rkey pgHost Reg.HOST.MSIX_NOADDR 0 := rkey_ne_page ho (by decide) hw (by norm_num) h

theorem Touches.settle {s t : State} {P : Nat → Prop} (h : Touches s t P) : Touches s (settle t) P :=
  h.trans ⟨settle_frame t |>.trans (by rw [settle_regs]), fun p off w _ _ _ => settle_rd t p off w,
    fun p off w a b _ d => settle_ctr t (rkey_host_ne a b d), fun i => State.messages_ring _ _ _⟩

end Sys2Proof.Machine
end

