-- ==== Sys2Proof/Laws/Page.lean ====
section
/-! SUPPORT. A page that takes host accesses: the access has its effect after the hub's answer, which changes only the
hub's reported absence; so every register, field, counter and table reads as before it. -/

namespace Sys2Proof.Machine

theorem State.takes_answers {s : State} {p : Nat} (h : s.takes p) :
    s.pcie.d3 = false ∧ s.hostGone = false ∧ s.pageLost p = false ∧ s.pageUp p = true
      ∧ (s.hubAnswered p).domSteady (pageDomain p) = true := by
  obtain ⟨a, b, c, d, e, -⟩ := h
  refine ⟨a, b, c, d, ?_⟩
  unfold State.hubAnswered
  split <;> exact e

theorem State.hostWrite_takes {s : State} {p : Nat} (h : s.takes p) (f : State → State) :
    s.hostWrite p f = f (s.hubAnswered p) := State.hostWrite_answers s p f (State.takes_answers h)

theorem State.hostRead_takes {s : State} {p : Nat} (hp : (pageKind p).isSome = true) (h : s.takes p) (f : State → W32 × State) :
    s.hostRead p f = State.respond (f (s.hubAnswered p)) := State.hostRead_answers s p f hp (State.takes_answers h)

/-- Nothing waits at the hub of a page that takes an access: the access has its effect at once (R31). -/
theorem State.hubAccess_takes {s : State} {a : HubAcc} (h : s.takes a.page) (f : State → State) : s.hubAccess a f = f s := by
  simp [State.hubAccess, h.2.2.2.2.2]

theorem State.wordWrite_takes {s : State} {p : Nat} (h : s.takes p) (off : Nat) (v : W32) (f : State → State) (keep : W32) :
    s.wordWrite p off v f keep = f (s.hubAnswered p) :=
  (State.hubAccess_takes (a := .write p off v keep) h _).trans (State.hostWrite_takes h f)

theorem State.wordRead_takes {s : State} {p : Nat} (hp : (pageKind p).isSome = true) (h : s.takes p) (off : Nat)
    (f : State → W32 × State) (z : W32) : s.wordRead p off f z = State.respond (f (s.hubAnswered p)) := by
  unfold State.wordRead
  rw [State.hubAccess_takes (a := .read p off) h]
  obtain ⟨a, b, c, d, e⟩ := State.takes_answers h
  have h6 : (pageKind p).isNone = false := by cases h : pageKind p <;> simp_all
  simp [State.hostRead, State.fromPage, a, b, c, d, e, h6]

@[simp] theorem State.hubAnswered_rd (s : State) (p q off w : Nat) : (s.hubAnswered p).rd q off w = s.rd q off w := by
  rw [State.hubAnswered_frame]; rfl
@[simp] theorem State.hubAnswered_ctr (s : State) (p q off w : Nat) : (s.hubAnswered p).ctr q off w = s.ctr q off w := by
  rw [State.hubAnswered_frame]; rfl
@[simp] theorem State.hubAnswered_fld (s : State) (p q : Nat) (f : Fld) (w : Nat) :
    (s.hubAnswered p).fld q f w = s.fld q f w := by simp [State.fld]
@[simp] theorem State.hubAnswered_flag (s : State) (p q : Nat) (f : Fld) (w : Nat) :
    (s.hubAnswered p).flag q f w = s.flag q f w := by simp [State.flag]
@[simp] theorem State.hubAnswered_portFlag (s : State) (p q : Nat) (f : Nat → Fld) :
    (s.hubAnswered p).portFlag q f = s.portFlag q f := by simp [State.portFlag, State.portFld]

@[simp] theorem State.hubAnswered_pending (s : State) (p : Nat) : (s.hubAnswered p).pending = s.pending := by rw [State.hubAnswered_frame]
@[simp] theorem State.hubAnswered_nonce (s : State) (p : Nat) : (s.hubAnswered p).nonce = s.nonce := by rw [State.hubAnswered_frame]
@[simp] theorem State.hubAnswered_resp (s : State) (p : Nat) : (s.hubAnswered p).resp = s.resp := by rw [State.hubAnswered_frame]
@[simp] theorem State.hubAnswered_regs (s : State) (p : Nat) : (s.hubAnswered p).regs = s.regs := by rw [State.hubAnswered_frame]
@[simp] theorem State.hubAnswered_ctrs (s : State) (p : Nat) : (s.hubAnswered p).ctrs = s.ctrs := by rw [State.hubAnswered_frame]
@[simp] theorem State.hubAnswered_snaps (s : State) (p : Nat) : (s.hubAnswered p).snaps = s.snaps := by rw [State.hubAnswered_frame]
@[simp] theorem State.hubAnswered_clatch (s : State) (p : Nat) : (s.hubAnswered p).clatch = s.clatch := by rw [State.hubAnswered_frame]
@[simp] theorem State.hubAnswered_bank (s : State) (p : Nat) : (s.hubAnswered p).bank = s.bank := by rw [State.hubAnswered_frame]
@[simp] theorem State.hubAnswered_time (s : State) (p : Nat) : (s.hubAnswered p).time = s.time := by rw [State.hubAnswered_frame]
@[simp] theorem State.hubAnswered_irq (s : State) (p : Nat) : (s.hubAnswered p).irq = s.irq := by rw [State.hubAnswered_frame]
@[simp] theorem State.hubAnswered_tick (s : State) (p : Nat) : (s.hubAnswered p).tick = s.tick := by rw [State.hubAnswered_frame]
@[simp] theorem State.hubAnswered_buf (s : State) (p : Nat) : (s.hubAnswered p).buf = s.buf := by rw [State.hubAnswered_frame]
@[simp] theorem State.hubAnswered_core (s : State) (p : Nat) : (s.hubAnswered p).core = s.core := by rw [State.hubAnswered_frame]
@[simp] theorem State.hubAnswered_queue (s : State) (p : Nat) : (s.hubAnswered p).queue = s.queue := by rw [State.hubAnswered_frame]
@[simp] theorem State.hubAnswered_bridge (s : State) (p : Nat) : (s.hubAnswered p).bridge = s.bridge := by rw [State.hubAnswered_frame]
@[simp] theorem State.hubAnswered_mirror (s : State) (p : Nat) : (s.hubAnswered p).mirror = s.mirror := by rw [State.hubAnswered_frame]
@[simp] theorem State.hubAnswered_gate (s : State) (p : Nat) : (s.hubAnswered p).gate = s.gate := by rw [State.hubAnswered_frame]
@[simp] theorem State.hubAnswered_sched (s : State) (p : Nat) : (s.hubAnswered p).sched = s.sched := by rw [State.hubAnswered_frame]
@[simp] theorem State.hubAnswered_team (s : State) (p : Nat) : (s.hubAnswered p).team = s.team := by rw [State.hubAnswered_frame]
@[simp] theorem State.hubAnswered_tabs (s : State) (p : Nat) : (s.hubAnswered p).tabs = s.tabs := by rw [State.hubAnswered_frame]
@[simp] theorem State.hubAnswered_fdb (s : State) (p : Nat) : (s.hubAnswered p).fdb = s.fdb := by rw [State.hubAnswered_frame]
@[simp] theorem State.hubAnswered_sig (s : State) (p : Nat) : (s.hubAnswered p).sig = s.sig := by rw [State.hubAnswered_frame]
@[simp] theorem State.hubAnswered_swap (s : State) (p : Nat) : (s.hubAnswered p).swap = s.swap := by rw [State.hubAnswered_frame]
@[simp] theorem State.hubAnswered_failLog (s : State) (p : Nat) : (s.hubAnswered p).failLog = s.failLog := by rw [State.hubAnswered_frame]
@[simp] theorem State.hubAnswered_mar (s : State) (p : Nat) : (s.hubAnswered p).mar = s.mar := by rw [State.hubAnswered_frame]
@[simp] theorem State.hubAnswered_image (s : State) (p : Nat) : (s.hubAnswered p).image = s.image := by rw [State.hubAnswered_frame]
@[simp] theorem State.hubAnswered_link (s : State) (p : Nat) : (s.hubAnswered p).link = s.link := by rw [State.hubAnswered_frame]
@[simp] theorem State.hubAnswered_rx (s : State) (p : Nat) : (s.hubAnswered p).rx = s.rx := by rw [State.hubAnswered_frame]
@[simp] theorem State.hubAnswered_tx (s : State) (p : Nat) : (s.hubAnswered p).tx = s.tx := by rw [State.hubAnswered_frame]
@[simp] theorem State.hubAnswered_mdio (s : State) (p : Nat) : (s.hubAnswered p).mdio = s.mdio := by rw [State.hubAnswered_frame]
@[simp] theorem State.hubAnswered_ciph (s : State) (p : Nat) : (s.hubAnswered p).ciph = s.ciph := by rw [State.hubAnswered_frame]
@[simp] theorem State.hubAnswered_chan (s : State) (p : Nat) : (s.hubAnswered p).chan = s.chan := by rw [State.hubAnswered_frame]
@[simp] theorem State.hubAnswered_half (s : State) (p : Nat) : (s.hubAnswered p).half = s.half := by rw [State.hubAnswered_frame]
@[simp] theorem State.hubAnswered_phy (s : State) (p : Nat) : (s.hubAnswered p).phy = s.phy := by rw [State.hubAnswered_frame]
@[simp] theorem State.hubAnswered_dom (s : State) (p : Nat) : (s.hubAnswered p).dom = s.dom := by rw [State.hubAnswered_frame]
@[simp] theorem State.hubAnswered_dev (s : State) (p : Nat) : (s.hubAnswered p).dev = s.dev := by rw [State.hubAnswered_frame]
@[simp] theorem State.hubAnswered_sag (s : State) (p : Nat) : (s.hubAnswered p).sag = s.sag := by rw [State.hubAnswered_frame]
@[simp] theorem State.hubAnswered_lehr (s : State) (p : Nat) : (s.hubAnswered p).lehr = s.lehr := by rw [State.hubAnswered_frame]
@[simp] theorem State.hubAnswered_boot (s : State) (p : Nat) : (s.hubAnswered p).boot = s.boot := by rw [State.hubAnswered_frame]
@[simp] theorem State.hubAnswered_flash (s : State) (p : Nat) : (s.hubAnswered p).flash = s.flash := by rw [State.hubAnswered_frame]
@[simp] theorem State.hubAnswered_hostMem (s : State) (p : Nat) : (s.hubAnswered p).hostMem = s.hostMem := by rw [State.hubAnswered_frame]
@[simp] theorem State.hubAnswered_pins (s : State) (p : Nat) : (s.hubAnswered p).pins = s.pins := by rw [State.hubAnswered_frame]
@[simp] theorem State.hubAnswered_pcie (s : State) (p : Nat) : (s.hubAnswered p).pcie = s.pcie := by rw [State.hubAnswered_frame]
@[simp] theorem State.hubAnswered_ring (s : State) (p : Nat) : (s.hubAnswered p).ring = s.ring := by rw [State.hubAnswered_frame]
@[simp] theorem State.hubAnswered_vlatch (s : State) (p : Nat) : (s.hubAnswered p).vlatch = s.vlatch := by rw [State.hubAnswered_frame]

/-! Register rows. -/

/-- A row that holds an offset begins at it or before it. -/
theorem findRow_mem {rows : List RegRow} {off : Nat} {r : RegRow} {i : Nat} (h : findRow rows off = some (r, i)) :
    r ∈ rows ∧ r.off ≤ off := by
  unfold findRow at h
  obtain ⟨x, hx, e⟩ := List.exists_of_findSome?_eq_some h
  by_cases c : x.off ≤ off ∧ (off - x.off) / x.stride < x.count ∧ (off - x.off) % x.stride < (if x.cnt then 8 else 4)
  · rw [if_pos c] at e
    injection e with e; injection e with a b
    exact ⟨a ▸ hx, a ▸ c.1⟩
  · rw [if_neg c] at e; cases e

theorem PageKind.rows_off (k : PageKind) :
    (k.rows.all fun r => decide (0x20 ≤ r.off) || k == .txring || k == .rxring || k == .msix) = true := by
  cases k <;> decide

theorem pageKind_bar0 {p : Nat} (h : p < 0x4000) : ∀ k, pageKind p = some k → k ≠ .txring ∧ k ≠ .rxring ∧ k ≠ .msix := by
  intro k e
  have h4 : p / 256 ≠ 0x40 := by omega
  unfold pageKind at e
  dsimp only at e
  split at e <;> first | exact absurd ‹_› h4 | (split_ifs at e <;> (injection e with e; subst e; decide)) | cases e

/-- The block registers of a page of BAR0 lie past its common registers (R27). -/
theorem rowAt_past_common {p off : Nat} {r : RegRow} {i : Nat} (hp : p < 0x4000) (h : rowAt p off = some (r, i)) :
    0x20 ≤ off := by
  unfold rowAt at h
  split at h
  · cases h
  · next k e =>
    split at h
    · next r' i' f =>
      split_ifs at h
      injection h with h; injection h with a b; subst a
      obtain ⟨m, l⟩ := findRow_mem f
      have q := List.all_eq_true.mp (PageKind.rows_off k) r' m
      obtain ⟨x, y, z⟩ := pageKind_bar0 hp k e
      simp [x, y, z] at q
      omega
    · cases h

end Sys2Proof.Machine
end

