-- ==== Sys2Proof/WellFormed.lean ====
section
/-! DEFINITION. Which commands are well formed: the bounds that their operand types do not carry. -/

namespace Sys2Proof

/-- A granule number of a bench's data area (R232, R233): below 180,224. -/
def granuleOk (g : Nat) : Bool := decide (g < 180224)

/-- What a cluster reads for a job (R388, R390): a descriptor of 64 bytes, a context of at most 128, an IV and a tag of at
most 16. -/
def JobIn.wf (j : JobIn) : Bool :=
  decide (j.desc.length = 64) && decide (j.ctx.length ≤ 128) && decide (j.iv.length ≤ 16) && decide (j.tag.length ≤ 16)

/-- A well-formed command. -/
def Instr.wf : Instr → Bool
  | .localEdge _ _ gridLen => decide (0 < gridLen)
  | .headerAdmit _ bytes _ _ _ => decide (256 ≤ bytes.length)
  | .holderRelease _ _ desc n => if desc then decide (n < 32768) else granuleOk n
  | .listRebuildDone _ late => decide late.Nodup && late.all granuleOk
  | .bufferDataUe _ _ e => e.desc.all (fun n => decide (n < 32768)) && granuleOk e.granule
  | .bufferHeaderUe _ g => granuleOk g
  | .mboxFree _ handle => decide (handle < 2 ^ 21)
  | .mboxAddref _ handle => decide (handle < 2 ^ 21)
  | .mboxReadhdr _ handle => decide (handle < 2 ^ 21)
  | .jobCtr _ _ j => j.wf
  | .jobCbcEnc _ _ j => j.wf
  | .jobCbcDec _ _ j => j.wf
  | .jobCfbEnc _ _ j => j.wf
  | .jobCfbDec _ _ j => j.wf
  | .jobGcmEnc _ _ j => j.wf
  | .jobGcmDec _ _ j => j.wf
  | .jobGmacGen _ _ j => j.wf
  | .jobGmacVer _ _ j => j.wf
  | .jobCmacGen _ _ j => j.wf
  | .jobCmacVer _ _ j => j.wf
  | .jobNop _ _ j => j.wf
  | .jobBadOp _ _ j => j.wf
  | .jobDmaError _ _ desc _ => desc.all JobIn.wf
  | .microwordExecute _ _ finds => decide (finds.map Prod.fst).Nodup
  | .retryWindowExit _ n _ => decide (n ≤ 1024)
  | .trainingStepDone _ _ ca lanes => decide ca.Nodup && decide lanes.Nodup
  | .bootCmdBad op confirm => decide (op.val = 0 ∨ 6 ≤ op.val) || (confirm != 0xA5 && decide (op.val = 2 ∨ op.val = 4 ∨ op.val = 5))
  | .hostInterfaceReset writing _ _ => decide writing.Nodup
  | .txDescriptorFetch _ d _ => decide (d.length = 32)
  | .rxFrameWrite _ addrs => !addrs.isEmpty
  | .registerWrite .. | .hubTimeout .. | .rcExtremeRead .. | .counterLowRead .. | .nowNsRead | .gridTickLoRead
  | .ppsInNsRead | .ets0Read .. | .ucntLoRead .. | .brdropLoRead .. | .failLogRead .. | .flapLogRead ..
  | .sigLogRead .. | .pnLogRead .. | .refLogRead | .ledgerRead | .gridEdge | .seqScanVisit ..
  | .headerDispatch .. | .watchdogAbort .. | .routineEnd .. | .resultRelease .. | .learnRequest ..
  | .agingVisit .. | .signatureCheck .. | .handoffAccept .. | .bridgeSend .. | .bridgeCredit .. | .peerMarkDown ..
  | .bridgeReceiveBegin .. | .bridgeReceiveEnd .. | .bridgeAbandon .. | .spillMove .. | .spillWriteComplete .. | .stagePromote ..
  | .hbmInitDone .. | .returnRound .. | .spillReturn .. | .txSelect .. | .frameTransmitEnd .. | .txUnderrun .. | .frameReceive ..
  | .tagResult .. | .fragmentReceive .. | .inbandStatus .. | .linkFault .. | .linkUpQualified .. | .linkDownQualified ..
  | .holdExpiry .. | .portDisable .. | .portEnable .. | .fecWrite .. | .mmVerify .. | .rateWrite ..
  | .sdrefLoss .. | .sdrefRestore .. | .quadPllLock .. | .quadPllUnlock .. | .cdrLoss .. | .mdioAddress ..
  | .mdioWrite .. | .mdioRead .. | .mdioReserved .. | .mdioDone .. | .freqAdjWrite .. | .timeSet
  | .timeAdjust .. | .gridEnWrite .. | .timeRefLoss | .timePllUnlock | .timeValid | .ppsInCapture ..
  | .ppsOutRise | .ppsOutFall | .scrubRead .. | .twInsert .. | .twDelete .. | .twSearch ..
  | .twRead .. | .twWrite .. | .twBadOp .. | .keySlotLoad .. | .keySlotZero .. | .seedWrite ..
  | .swapRequest .. | .rtclassWrite .. | .flapEnWrite .. | .agecfgWrite .. | .searchFirst .. | .searchNext ..
  | .searchFlush .. | .searchReserved .. | .searchDone .. | .poolStart .. | .poolBuildDone .. | .allocAnswer ..
  | .freeListError .. | .ownResWrite .. | .ownDescWrite .. | .mboxAlloc .. | .mboxReclaim .. | .mboxBadOp ..
  | .dfreeLogClear .. | .bufferWindowAccess .. | .mirrWrite .. | .gateEntryBegin .. | .holdAssert .. | .configChangeRequest ..
  | .configChangeComplete .. | .gclHiWrite .. | .gclLoRead .. | .gclHiRead .. | .sqRead .. | .sqWrite ..
  | .sqReset .. | .sqBadOp .. | .watchTest .. | .watchCfgWrite .. | .teamRailFall .. | .sharedRailFall
  | .teamPllUnlock .. | .jqTailWrite .. | .jqEnable .. | .katStart .. | .katDone .. | .hbmRefresh ..
  | .parityAlert .. | .hbmEccError .. | .trainingStart .. | .chRetrainCmd .. | .tempRetrain .. | .stackTempHigh ..
  | .freqRequest .. | .freqChangeDone | .halfFailed .. | .imageArm .. | .imageCopyDone .. | .imageDisarm ..
  | .domainRequestOn .. | .domainRequestNap .. | .domainRequestOff .. | .domainTransitionDone .. | .wakeEvent .. | .wakeTimeout ..
  | .domainIdleEntry .. | .domainIdleExit .. | .clkSelect .. | .teamPllLock .. | .teamPllTimeout .. | .devRequestRun
  | .devRequestDoze | .devRequestAnneal | .devRequestReserved | .dozeDrainEnd | .deviceTransitionDone | .hostWake
  | .pinWake | .timeAlarm | .hbmAutoIdle | .sagGate .. | .sagWake .. | .sliceWakeFail ..
  | .sliceWakeRetry .. | .lehrHold .. | .lehrLoad .. | .lehrInvalidate .. | .lehrScrub .. | .lehrWindowAccess ..
  | .ledgerPeriodEnd .. | .coldStart .. | .aonSupplyLoss | .resetPin | .fullResetRelease | .firmwareVerifyDone .. | .patchLoadDone ..
  | .selftestDone .. | .restoreDone .. | .bootGo | .bootReset | .wdogKick | .svnCommit
  | .keyRevoke .. | .bcfgWrite .. | .watchdogWarn | .watchdogExpiry | .wedgeDetect .. | .flashRead ..
  | .flashProgram .. | .flashErase .. | .flashBadOp .. | .pciPowerState .. | .intForceWrite .. | .vecEoi ..
  | .msixUnmask .. | .pageSnap .. | .pageCounterClear .. | .deviceSnap | .withholdRelease .. | .irqCoalesceEnd ..
  | .ringEnable .. | .ringDisable .. | .ringDmaError .. | .i2cRead .. | .i2cWrite .. | .i2cWake ..
  | .i2cReset .. | .i2cStatus .. | .i2cBadCommand .. | .gpioEdge .. | .thermalTrip .. | .thermalTripRelease ..
  | .flashDone .. | .fuseBurnDone .. | .mboxDone .. | .hbmSupplyLoss => true

end Sys2Proof
end

