-- ==== Sys2Proof/Tests/Slice0.lean ====
section
/-! SUPPORT. The model's own tests: ill-formed commands that are refused, a witness for the hypotheses of each statement, and
small tests of single commands against the spec. -/

namespace Sys2Proof.Tests

set_option Elab.async false

open Sys2Proof.Machine

/-- The device right after reset. -/
abbrev r0 : State := State.reset

/-! ### Ill-formed commands -/

theorem ill_localEdge : (Instr.localEdge 0 1344 0).wf = false := by decide
theorem ill_headerAdmit : (Instr.headerAdmit 0 [0] true false 0).wf = false := by decide
theorem ill_holderRelease_desc : (Instr.holderRelease 0 0 true 32768).wf = false := by decide
theorem ill_holderRelease_buf : (Instr.holderRelease 0 0 false 180224).wf = false := by decide
theorem ill_listRebuildDone_twice : (Instr.listRebuildDone 0 [4, 4]).wf = false := by decide
theorem ill_listRebuildDone_far : (Instr.listRebuildDone 0 [180224]).wf = false := by decide
theorem ill_bufferDataUe_desc : (Instr.bufferDataUe 0 0 ⟨some 32768, 0⟩).wf = false := by decide
theorem ill_bufferDataUe_buf : (Instr.bufferDataUe 0 0 ⟨none, 180224⟩).wf = false := by decide
theorem ill_bufferHeaderUe : (Instr.bufferHeaderUe 0 180224).wf = false := by decide
theorem ill_mbox : (Instr.mboxFree 0 (2 ^ 21)).wf = false ∧ (Instr.mboxAddref 0 (2 ^ 21)).wf = false ∧
    (Instr.mboxReadhdr 0 (2 ^ 21)).wf = false := by decide
theorem ill_job_desc : JobIn.wf { desc := [0] } = false := by decide
theorem ill_job_ctx : JobIn.wf { desc := List.replicate 64 0, ctx := List.replicate 129 0 } = false := by decide
theorem ill_job_iv : JobIn.wf { desc := List.replicate 64 0, iv := List.replicate 17 0 } = false := by decide
theorem ill_job_tag : JobIn.wf { desc := List.replicate 64 0, tag := List.replicate 17 0 } = false := by decide
theorem ill_jobs : ∀ i ∈ [Instr.jobCtr 0 0 { desc := [] }, .jobCbcEnc 0 0 { desc := [] }, .jobCbcDec 0 0 { desc := [] },
    .jobCfbEnc 0 0 { desc := [] }, .jobCfbDec 0 0 { desc := [] }, .jobGcmEnc 0 0 { desc := [] }, .jobGcmDec 0 0 { desc := [] },
    .jobGmacGen 0 0 { desc := [] }, .jobGmacVer 0 0 { desc := [] }, .jobCmacGen 0 0 { desc := [] },
    .jobCmacVer 0 0 { desc := [] }, .jobNop 0 0 { desc := [] }, .jobBadOp 0 0 { desc := [] },
    .jobDmaError 0 0 (some { desc := [] }) true], i.wf = false := by decide
theorem ill_retryWindowExit : (Instr.retryWindowExit 0 1025 0).wf = false := by decide
theorem ill_trainingStepDone : (Instr.trainingStepDone 0 false [1, 1] []).wf = false ∧
    (Instr.trainingStepDone 0 false [] [1, 1]).wf = false := by decide
theorem ill_microwordExecute : (Instr.microwordExecute 0 0 [(3, .ue), (3, .both)]).wf = false := by decide
theorem ill_bootCmdBad : (Instr.bootCmdBad 1 0).wf = false ∧ (Instr.bootCmdBad 2 0xA5).wf = false := by decide
theorem ill_hostInterfaceReset : (Instr.hostInterfaceReset [0, 0] 0 0).wf = false := by decide
theorem ill_txDescriptorFetch : (Instr.txDescriptorFetch 0 [0] []).wf = false := by decide
theorem ill_rxFrameWrite : (Instr.rxFrameWrite 0 []).wf = false := by decide

/-! ### Witnesses: the hypotheses of the statements meet -/

/-- Right after reset every page takes host accesses. -/
theorem witness_takes : ∀ p ∈ [pgHost, pgMirr, pgBoot, pgTime, pgLehr, pgDev, pgPhy, pgPort 0, pgPort 31, pgSerdes 0, pgSerdes 55,
    pgMarver 7, pgCls 0, pgFdb 7, pgStrm 0, pgBuf 7, pgCore 0, pgSched 7, pgGate 0, pgMeter 7, pgCiph 3, pgChan 31, pgHalf 1],
    r0.takes p := by unfold State.takes; decide

/-- A state with a register field set. -/
abbrev put (p : Nat) (f : Fld) (v : Nat) (s : State := r0) (w : Nat := 0) : State := s.setFld p f v w

/-- A trunk port with a good link. -/
def goodPort : State :=
  ((((r0.setFld (pgPort 3) (Reg.PORT.PCFG_EN 0) 1).setFld (pgPort 3) (Reg.PORT.PSTAT_LSTATE 0) 1).setFld (pgSerdes 3)
    Reg.SERDES.QSTAT_REF_OK 1).setFld (pgSerdes 3) Reg.SERDES.QSTAT_PLL_LOCK 1).onLink 384 fun k =>
    { k with lock := true, fecLock := true, an := 2 }

-- LinkEventsTakeEffect.
theorem witness_linkUp : goodPort.linkGood 384 = true ∧ goodPort.lstate 384 = 1 := by decide
theorem witness_linkDown : (put (pgPort 3) (Reg.PORT.PSTAT_LSTATE 0) 2).lstate 384 = 2 ∧
    (put (pgPort 3) (Reg.PORT.PSTAT_LSTATE 0) 2).linkGood 384 = false := by decide
theorem witness_hold : (put (pgPort 0) (Reg.PORT.PSTAT_LSTATE 15) 3).lstate 15 = 3 ∧ r0.lstate 511 ≠ 3 ∧ 384 ≤ 384 := by decide
theorem witness_inband : r0.portFlag 383 Reg.PORT.PCFG_AN_BYPASS = false := by decide
theorem witness_verify : (put (pgPort 0) (Reg.PORT.MMCFG_VERIFY_STATUS 0) 2).portFld 0 Reg.PORT.MMCFG_VERIFY_STATUS = 2 := by decide
-- PortConfigWrites.
theorem witness_enable : r0.portFlag 511 Reg.PORT.PCFG_EN = false ∧ bit (1 : W32).toNat 0 = true ∧ goodPort.portFlag 384 Reg.PORT.PCFG_EN = true ∧
    (goodPort.plainWrite (pgPort 3) (Reg.PORT.PCFG 0).off 0 0).portFlag 384 Reg.PORT.PCFG_EN = false ∧ r0.fecSupported 511 = true := by decide
theorem witness_rate : quadIsField 3 = false ∧ r0.quadRate 3 ≠ 2 ∧
    (quadPorts 3).any (fun p => r0.portFlag p Reg.PORT.PCFG_EN) = false ∧
    (quadPorts 3).any (fun p => goodPort.portFlag p Reg.PORT.PCFG_EN) = true := by decide
-- QuadAndLaneEvents.
theorem witness_quad : (put (pgSerdes 0) Reg.SERDES.QSTAT_REF_OK 1).flag (pgSerdes 0) Reg.SERDES.QSTAT_REF_OK = true ∧
    (put (pgSerdes 0) Reg.SERDES.QSTAT_REF_OK 1).domOn 0 = true ∧
    (put (pgSerdes 0) Reg.SERDES.QSTAT_PLL_LOCK 1).flag (pgSerdes 0) Reg.SERDES.QSTAT_PLL_LOCK = true := by decide
theorem witness_cdr : (put (pgSerdes 55) (Reg.SERDES.RXSTAT_CDR_LOCK 3) 1).flag (pgSerdes (223 / 4))
    (Reg.SERDES.RXSTAT_CDR_LOCK (223 % 4)) = true := by decide
-- MdioFrames.
theorem witness_mdio_busy : (put (mdioPage 3) Reg.PORT.MDIO_RESULT_BUSY 1).flag (mdioPage 3) Reg.PORT.MDIO_RESULT_BUSY = true := by decide
theorem witness_mdio_idle : (put pgTime Reg.TIME.STAT_REF_OK 1).flag (mdioPage 0) Reg.PORT.MDIO_RESULT_BUSY = false ∧
    (put pgTime Reg.TIME.STAT_REF_OK 1).flag pgTime Reg.TIME.STAT_REF_OK = true ∧ bit (0x80000000 : W32).toNat 31 = true := by decide
theorem witness_mdio_done :
    let s := put (mdioPage 1) Reg.PORT.MDIO_CFG_EN 1 (r0.putMdio 1 (some 0x40000000))
    s.mdioAt 1 = some 0x40000000 ∧ bits (0x40000000 : W32).toNat 30 29 = 2 ∧
    s.flag (mdioPage 1) Reg.PORT.MDIO_CFG_EN = true := by decide

/-- The time is valid and the grid runs. -/
def timed : State := put pgTime Reg.TIME.STAT_GRID_MODE_A 1 (put pgTime Reg.TIME.STAT_TIME_VALID 1)

-- TimeReadsAndPulses.
theorem witness_ets : ((r0.onTick 7 fun h => { h with ets := [(1, 2, 3)] }).tickAt 7).ets = [(1, 2, 3)] ∧ (r0.tickAt 7).ets = [] := by decide
theorem witness_pps_in :
    let s := put pgTime Reg.TIME.CTRL_PPS_IN_EN 1
    s.flag pgTime Reg.TIME.CTRL_PPS_IN_EN = true ∧ s.flag pgTime Reg.TIME.CTRL_PPS_IN_FALL = false ∧ s.domOn domTime = true := by decide
theorem witness_pps_out : (put pgTime Reg.TIME.CTRL_PPS_OUT_EN 1 timed).timeValid = true ∧
    (put pgTime Reg.TIME.CTRL_PPS_OUT_EN 1 timed).flag pgTime Reg.TIME.CTRL_PPS_OUT_EN = true ∧ timed.time.ppsOut = false ∧
    ({ timed with boot := { timed.boot with forwards := true } } : State).boot.forwards = true ∧
    ({ r0 with time := { r0.time with ppsOut := true } } : State).time.ppsOut = true := by decide
-- TimeCommands.
theorem witness_time_set : (put pgTime Reg.TIME.SET_NS 1000000000).fld pgTime Reg.TIME.SET_NS = 1000000000 ∧
    (put pgTime Reg.TIME.SET_NS 999999999).fld pgTime Reg.TIME.SET_NS = 999999999 := by decide
theorem witness_time_adjust : (1000000000 : W32).toInt.natAbs = 1000000000 ∧ (3294967297 : W32).toInt.natAbs = 999999999 := by decide
theorem witness_freq_out : freqOut 0x7FFFFFFF = true := by decide
-- TimeRunsAtItsRate.
theorem witness_time_runs : timed.pending = [] ∧ timed.timeValid = true ∧ r0.pending = [] ∧ r0.timeValid = false := by decide
-- TimeReferenceEvents.
theorem witness_time_ref : (put pgTime Reg.TIME.STAT_TIME_PLL_LOCK 1 (put pgTime Reg.TIME.STAT_REF_OK 1)).flag pgTime
    Reg.TIME.STAT_REF_OK = true ∧ (put pgTime Reg.TIME.STAT_TIME_PLL_LOCK 1 (put pgTime Reg.TIME.STAT_REF_OK 1)).flag pgTime
    Reg.TIME.STAT_TIME_PLL_LOCK = true := by decide

/-- Domain `d` with a state. -/
abbrev dom (d : Nat) (f : DomSt → DomSt) : State := r0.onDom d f

-- DomainRequestsAndTransitions, WakesBegin.
theorem witness_dom_entry : ((dom 63 fun m => { m with trans := some (3, true) }).domAt 63).trans = some (2 + 1, true) ∧
    ((dom 63 fun m => { m with trans := some (3, true) }).marAt (63 - 56)).engines.any (fun e => e.2.isSome) = false ∧
    (dom 63 fun m => { m with trans := some (3, true) }).childrenRest 63 3 = true ∧ r0.childrenRest domPhy 2 = false := by decide
theorem witness_dom_wake : ((dom 64 fun m => { m with st := 2, trans := some (0, false) }).domAt 64).trans = some (0, false) ∧
    (domParents 64).all (dom 64 fun m => { m with st := 2, trans := some (0, false) }).domOn = true := by decide
theorem witness_wake_timeout : ((dom 101 fun m => { m with st := 2, trans := some (0, false) }).domAt 101).trans = some (0, false) ∧
    ((dom domTime fun m => { m with st := 2, trans := some (0, false) }).domAt domTime).trans = some (0, false) := by decide
theorem witness_idle : ((put pgDev Reg.PWRD.DCTRL_IDLE_EN 1 r0 9).domAt 9).st = 0 ∧ ((put pgDev Reg.PWRD.DCTRL_IDLE_EN 1 r0 9).domAt 9).trans = none ∧
    (put pgDev Reg.PWRD.DCTRL_IDLE_EN 1 r0 9).flag pgDev Reg.PWRD.DCTRL_IDLE_EN 9 = true ∧
    ((dom 9 fun m => { m with st := 1 }).domAt 9).st = 1 := by decide
theorem witness_dom_nap : ((dom 56 fun m => { m with st := 2 }).domAt 56).st = 2 ∧ ((dom 56 fun m => { m with st := 2 }).domAt 56).trans = none ∧
    ∀ p ∈ domAncestors 56, (dom 56 fun m => { m with st := 2 }).domOn p = true ∧ ((dom 56 fun m => { m with st := 2 }).domAt p).trans = none := by decide
theorem witness_wake_enabled : (put pgDev (Reg.PWRD.WAKE_EN) 0x7F).wakeEnabled 1 = true ∧ (put pgDev (Reg.PWRD.WAKE_EN) 0x7F).wakeEnabled 2 = true := by decide
theorem witness_alarm : (put pgDev (Reg.PWRD.WAKE_EN) 0x7F timed).timeValid = true ∧
    (put pgDev (Reg.PWRD.WAKE_EN) 0x7F timed).time.now ≤ (put pgDev (Reg.PWRD.WAKE_EN) 0x7F timed).alarmTime ∧
    (put pgDev (Reg.PWRD.WAKE_EN) 0x7F timed).wakeEnabled 4 = true := by decide
/-- The device in a state or transition. -/
abbrev dev (f : DevSt → DevSt) (s : State := r0) : State := { s with dev := f s.dev }
-- DeviceStates.
theorem witness_doze : (dev fun d => { d with st := 1 }).dev.st = 1 ∧ (dev fun d => { d with st := 1 }).dev.trans = none ∧
    (dev fun d => { d with st := 1 }).dev.dozed = [] := by decide
theorem witness_drain : (dev fun d => { d with trans := some 1 }).dev.committed = false ∧ (dev fun d => { d with trans := some 1 }).dev.trans = some 1 ∧
    (dev fun d => { d with trans := some 2 }).dev.trans = some 2 := by decide
theorem witness_dev_done : (dev fun d => { d with trans := some 2, committed := true }).dev.trans = some 2 ∧
    (dev fun d => { d with trans := some 2, committed := true }).dev.committed = true ∧ (dev fun d => { d with trans := some 2, committed := true }).dev.latched = none ∧
    (dev fun d => { d with trans := some 2, committed := true }).dev.pend = none ∧ (dev fun d => { d with trans := some 0 }).dev.trans = some 0 ∧
    (List.range 8).any (dev fun d => { d with trans := some 2, committed := true }).engineBusy = false ∧
    (dev fun d => { d with trans := some 2, committed := true }).entryReady = true ∧
    (dev fun d => { d with trans := some 0, latched := some 4 }).dev.latched = some 4 := by decide
-- TeamClocks.
theorem witness_pll : (put pgDev Reg.PWRD.CLK_STAT_NO_REF 0 (put pgDev (clkSel 1) 1)).flag pgDev (clkSel 1) = true ∧
    (put pgDev Reg.PWRD.CLK_STAT_NO_REF 0 (put pgDev (clkSel 1) 1)).domOn (domClock 1) = true ∧
    (put pgDev Reg.PWRD.CLK_STAT_NO_REF 0 (put pgDev (clkSel 1) 1)).flag pgDev Reg.PWRD.CLK_STAT_NO_REF = false ∧
    (put pgDev Reg.PWRD.CLK_STAT_NO_REF 0 (put pgDev (clkSel 1) 1)).flag pgDev (clkLock 1) = false ∧ (r0.teamAt 1).failed = false := by decide
theorem witness_hbm_auto : (put pgDev Reg.PWRD.DOZE_CFG_HBM_AUTO 1).flag pgDev Reg.PWRD.DOZE_CFG_HBM_AUTO = true ∧ r0.dev.st = 0 ∧
    (put pgDev Reg.PWRD.DOZE_CFG_HBM_AUTO 1).cdescUsed 0 = 0 ∧ (put pgDev Reg.PWRD.DOZE_CFG_HBM_AUTO 1).cdescUsed 1 = 0 := by decide

/-- A boot state. -/
abbrev boot (f : BootSt → BootSt) (s : State := r0) : State := { s with boot := f s.boot }

-- ResetsAndStarts.
theorem witness_reset : r0.dev.st ≠ 3 ∧ r0.flag pgLehr Reg.LEHR.LCTRL_HOLD = false ∧ r0.boot.flash = none ∧ r0.boot.warm = false := by decide
theorem witness_cold : r0.boot.asserted = true ∧ r0.boot.warm = false ∧ (dev fun d => { d with st := 3 }).dev.st = 3 ∧ r0.boot.burn = none := by decide

/-- A flash whose directory names firmware slot 0 at 0x2000, where a well-formed header of key 0 stands; that key is fused. -/
def flashed : State :=
  let d : List Byte := natLE 4 0x44574452 ++ natLE 4 1 ++ natLE 4 0x2000 ++ List.replicate 16 0 ++ List.replicate 32 0xFF
  let put (k : Nat) (l : List Byte) : List (Nat × Byte) := l.zipIdx.map fun e => (k + e.2, ~~~ e.1)
  { r0 with
    regs := [(rkey pgBoot Reg.BOOT.FUSE.off 0, 1)], boot := { r0.boot with stage := 2 },
    flash := put 0 (d.take 28) ++ put 60 (natLE 4 (crc32c d)) ++ put 0x2000 (natLE 4 0x44574657 ++ [1, 0, 0, 0]) ++ put 0x2008 [0, 0, 0, 0] ++
      put 0x2071 (List.replicate 15 0) ++ put 0x20E0 (List.replicate 32 0) }

/-- The same flash on a warm start, the record of the image in slot 0 kept. -/
def recorded : State :=
  { flashed with boot := { flashed.boot with warm := true, record := some (flashed.imageRecord (flashed.imageHdr 0x2000) (flashed.imageBody 0x2000)) } }
theorem recorded_good : (recorded.checkImage 0 0x2000 true true recorded.boot.record).1 = 0 := by
  have q : (recorded.boot.warm && recorded.boot.record == some (recorded.imageRecord (recorded.imageHdr 0x2000) (recorded.imageBody 0x2000))) =
      true := by
    show (true && some _ == some _) = true
    rw [Bool.true_and, beq_iff_eq]; rfl
  have g : headerGood (recorded.imageHdr 0x2000) 0 = true := by decide +kernel
  have v : ¬ (((recorded.imageHdr 0x2000).getD 7 0).toNat < recorded.fld pgBoot Reg.BOOT.FUSE_FW_SVN ∨
      63 < ((recorded.imageHdr 0x2000).getD 7 0).toNat) := by decide +kernel
  unfold State.checkImage
  simp only [q, g]
  simpa using v

-- StartStages.
theorem witness_firmware : recorded.boot.stage = 2 ∧ recorded.directory.isSome = true ∧ recorded.pins.sharedDown = false ∧
    (recorded.trySlots 0 fun _ a => recorded.checkImage 0 a true true recorded.boot.record).1.isSome = true ∧
    (recorded.trySlots 0 fun _ a => recorded.checkImage 0 a false false recorded.boot.record).1 = none := by
  have h : (recorded.directory.map fun d => (slotPref d 0, slotOff d 0 0)) = some (0, 0x2000) := by decide +kernel
  obtain ⟨d, hd, e⟩ := Option.map_eq_some_iff.mp h
  obtain ⟨p, o⟩ := Prod.mk.inj e
  refine ⟨rfl, by rw [hd]; rfl, rfl, ?_, ?_⟩
  · simp [State.trySlots, hd, p, o, recorded_good]
  · simp [State.trySlots, hd, p, o, State.checkImage]
    split <;> rfl
theorem witness_stage3 : (boot fun b => { b with stage := 3 }).boot.stage = 3 ∧ (boot fun b => { b with stage := 3 }).boot.self = false ∧
    (∀ d, d < 112 → ((boot fun b => { b with stage := 3 }).domAt d).trans = none) ∧ (boot fun b => { b with stage := 3 }).boot.warm = false ∧
    (∀ b, b < 8 → ((boot fun b => { b with stage := 3 }).domAt (domIngress b)).trans = none) ∧ r0.directory = none := by decide
theorem witness_hbm_done : 3 ≤ (put (pgHalf 0) Reg.CRUCH.HSTAT_STATE 4 (put (pgHalf 1) Reg.CRUCH.HSTAT_STATE 4 (boot fun b => { b with stage := 3 }))).boot.stage ∧
    (∀ c, c < 32 → (put (pgHalf 0) Reg.CRUCH.HSTAT_STATE 4 (put (pgHalf 1) Reg.CRUCH.HSTAT_STATE 4 (boot fun b => { b with stage := 3 }))).halfState (c / 16) = 4) := by decide
theorem witness_hbm_trained : ∀ c, c < 32 → ((List.range 32).foldl (fun s c => put (pgChan c) Reg.CRUCC.CH_STAT_STATE (if c = 31 then 5 else 2) s) r0).chSettled c = true := by decide +kernel
theorem witness_image_late : ∀ t ∈ [0, 1].filter (fun t => (put (pgHalf 1) Reg.CRUCH.IMG_STAT_VALID 1).flag (pgHalf t) Reg.CRUCH.IMG_STAT_VALID &&
    ([31] : List ChanId).any fun c => c.val / 16 == t), t = 1 ∧ (1 : Nat) ∈ [0, 1].filter (fun t =>
    (put (pgHalf 1) Reg.CRUCH.IMG_STAT_VALID 1).flag (pgHalf t) Reg.CRUCH.IMG_STAT_VALID && ([31] : List ChanId).any fun c => c.val / 16 == t) := by decide
theorem witness_auto_go : (put pgBoot Reg.BOOT.BCFG_AUTO_GO 1 
    (boot fun b => { b with stage := 6, warm := true, self := true, hbm := true, patch := true, restored := some true })).flag pgBoot
    Reg.BOOT.BCFG_AUTO_GO = true := by decide
theorem witness_restore : (boot fun b => { b with stage := 6, warm := true, self := true, hbm := true }).boot.restored = none ∧
    (boot fun b => { b with stage := 6, warm := true, self := true, hbm := true }).lehrValid = false := by decide
theorem witness_stages : (boot fun b => { b with stage := 6, self := true, hbm := true, patch := true }).boot.warm = false ∧
    (boot fun b => { b with stage := 6, self := true, hbm := true, patch := true }).boot.restored = none := by decide
-- BootCommands.
theorem witness_boot_cmd : (boot fun b => { b with stage := 7 }).boot.stage = 7 ∧ (boot fun b => { b with stage := 7 }).boot.fwKey ≠ some (3 : Fin 4).val ∧
    (0 < 4 ∧ 0 ≠ (3 : Fin 4).val ∧ flashed.keyGood 0 = true) ∧ ((5 : Fin 16).val = 5 ∧ (0 : Byte).toNat ≠ 0xA5) := by decide +kernel
theorem witness_burn : (boot fun b => { b with burn := some (.svn 63 0), cmdWait := 4 }).boot.burn = some (.svn 63 0) ∧ r0.pins.sharedDown = false ∧
    (boot fun b => { b with burn := some (.revoke 3) }).boot.burn = some (.revoke 3) := by decide
-- WatchdogAndWedges.
theorem witness_watchdog : (put pgBoot Reg.BOOT.BCFG_WDOG_EN 1 (boot fun b => { b with stage := 9, warned := true })).flag pgBoot
    Reg.BOOT.BCFG_WDOG_EN = true ∧ (boot fun b => { b with stage := 9, warned := true }).boot.warned = true ∧
    (boot fun b => { b with stage := 9 }).boot.warned = false ∧
    (r0.plainWrite pgBoot Reg.BOOT.BCFG.off 0 1).fld pgBoot Reg.BOOT.BCFG_WDOG_MS ≠ r0.fld pgBoot Reg.BOOT.BCFG_WDOG_MS := by decide
theorem witness_wedge : r0.domOn domGaffer = true ∧ r0.pins.sharedDown = false ∧ r0.domOn (domIngress 7) = true ∧ r0.domOn (domClock (9 % 2)) = true ∧
    r0.domOn (domSpill (11 % 2)) = true ∧ (put (pgHalf 1) Reg.CRUCH.HSTAT_STATE 2).halfState (11 % 2) = 2 := by decide
-- FlashMailbox.
theorem witness_flash : (put pgBoot Reg.BOOT.FL_ADDR 0xF00 (boot fun b => { b with stage := 7 })).boot.flash = none ∧
    ((put pgBoot Reg.BOOT.FL_ADDR 0xF00).rd pgBoot Reg.BOOT.FL_ADDR.off).toNat % 256 = 0 ∧
    ((put pgBoot Reg.BOOT.FL_ADDR 0xF000).rd pgBoot Reg.BOOT.FL_ADDR.off).toNat % 4096 = 0 := by decide
theorem witness_flash_done : (boot fun b => { b with flash := some (1, 256, List.replicate 256 0) }).boot.flash = some (1, 256, List.replicate 256 0) ∧
    (List.replicate 256 (0 : Byte)).length = 256 ∧ (boot fun b => { b with flash := some (2, 4096, []), flWait := true }).boot.flWait = true ∧ (boot fun b => { b with flash := some (2, 4096, []) }).boot.flash = some (2, 4096, []) ∧
    Memory.wf ([(0, 1)] : Tab Byte) = true := by decide +kernel
/-- A lehr image that passes its check: its end record alone. -/
def goodImage : State :=
  let m := Tab.setList zeroByte (Tab.setList zeroByte [] 0 (natBE 4 0x4C454852 ++ natBE 4 1)) 12 (natBE 4 (crc32c [0, 0, 0, 0]))
  { r0 with lehr := { r0.lehr with mem := m } }
-- LehrControlAndWindow.
theorem witness_image : goodImage.imageGood = true ∧ r0.imageGood = false := by decide +kernel
theorem witness_window : ((put pgLehr Reg.LEHR.LWIN_ADDR 0x1800).rd pgLehr Reg.LEHR.LWIN_ADDR.off).toNat + 4 * (0 : Fin 64).val = 0x180000 ∧
    ((put pgLehr Reg.LEHR.LWIN_ADDR 0xFFF).rd pgLehr Reg.LEHR.LWIN_ADDR.off).toNat + 4 * (63 : Fin 64).val = 0xFFFFC ∧
    ((put pgLehr Reg.LEHR.LWIN_ADDR 0x1000).rd pgLehr Reg.LEHR.LWIN_ADDR.off).toNat = 0x100000 ∧
    ((put pgLehr Reg.LEHR.LWIN_ADDR 0x12FF).rd pgLehr Reg.LEHR.LWIN_ADDR.off).toNat + 4 * (63 : Fin 64).val = 0x12FFFC ∧
    ((put pgLehr Reg.LEHR.LWIN_ADDR 0x1300).rd pgLehr Reg.LEHR.LWIN_ADDR.off).toNat = 0x130000 ∧
    ((put pgLehr Reg.LEHR.LWIN_ADDR 0x1400).rd pgLehr Reg.LEHR.LWIN_ADDR.off).toNat = 0x140000 ∧
    (put pgLehr Reg.LEHR.LCTRL_HOLD 1).flag pgLehr Reg.LEHR.LCTRL_HOLD = true ∧ Memory.wf goodImage.lehr.mem = true := by decide
-- LedgerAndRefusalLog.
theorem witness_ledger : r0.gridTick % 1024 = 0 := by decide
theorem witness_ref_log : r0.dev.unread = 0 ∧ (dev fun d => { d with unread := 64 }).dev.unread = 63 + 1 := by decide
-- RegisterWritesReachPages.
theorem witness_pages : (pageKind pgHost).isSome = true ∧ (pageKind (pgCiph 3)).isSome = true ∧
    (put (pgCiph 3) Reg.COMMON.WITHHOLD 1).flag (pgCiph 3) Reg.COMMON.WITHHOLD = true ∧ r0.hostGone = false ∧ r0.pcie.d3 = false := by decide
-- CounterReadsLatch.
theorem witness_counter : ∃ r, rowAt (pgCiph 0) (4 * (Reg.CIPH.JOBS_DONE / 4)) = some (r, 0) ∧ r.cnt = true ∧
    r.off + 0 * r.stride = 4 * (Reg.CIPH.JOBS_DONE / 4) ∧ winOf (pgCiph 0) (4 * (Reg.CIPH.JOBS_DONE / 4)) = none ∧
    r0.flag (pgCiph 0) Reg.COMMON.SNAP_READ = false := ⟨_, rfl, by decide⟩
theorem witness_extreme : ∀ x ∈ [Extreme.btickMaxLag 7, Extreme.qeMin 0, Extreme.poolMin 7 3, Extreme.cdescMax .b], r0.takes (r0.extreme x).1 := by
  unfold State.takes; decide
-- SnapshotsAreAccepted.
theorem witness_snap_all : r0.hub.faulty = [] ∧ (r0.teamAt 0).failed = false ∧ (r0.teamAt 1).failed = false ∧ r0.boot.stage ≠ 15 ∧
    pgChan 31 ∈ allPages ∧ r0.pageUp (pgChan 31) = true ∧ r0.pageLost (pgChan 31) = false ∧ r0.domSteady (pageDomain (pgChan 31)) = true := by decide
-- MessagesAreSent.
theorem witness_eoi : bit ({ r0 with irq := { r0.irq with active := 0x8000000000000000 } } : State).irq.active.toNat (63 : Fin 64).val = true := by decide
theorem witness_msix : (put pgMsix (Reg.MSIX.VCTL_MASK 63) 1).domSteady domHost = true ∧
    (put pgMsix (Reg.MSIX.VCTL_MASK 63) 1).flag pgMsix (Reg.MSIX.VCTL_MASK 63) = true ∧ r0.pcie.msix = false ∧
    ({ r0 with pcie := { r0.pcie with fmask := true } } : State).pcie.fmask = true ∧ r0.msixHeld 63 = true := by decide
theorem witness_msix_free :
    let s := { (put pgMsix (Reg.MSIX.VCTL_MASK 63) 0).wr pgMsix (Reg.MSIX.ADDR_LO 63).off 4 with pcie := { r0.pcie with msix := true, bme := true } }
    s.msixHeld 63 = false ∧ s.rd pgMsix (Reg.MSIX.ADDR_LO 63).off ≠ 0 := by decide
-- EndpointAndPins.
theorem witness_pins : bit r0.pins.gpio (7 : Fin 8).val ≠ true ∧ (115 : Int) ≤ (115 : BitVec 8).toInt ∧ (105 : BitVec 8).toInt ≤ 105 ∧
    r0.hub.reported.contains (teamNo .b) = false := by decide
theorem witness_gpio : bit ((r0.wr pgHost 0x0C0 0).fld pgHost ⟨0x0C0, 7, 0⟩) (7 : Fin 8).val = false ∧
    bit ((r0.wr pgHost 0x0CC 0x4000).fld pgHost ⟨0x0CC, 15, 14⟩) 0 = true := by decide
-- I2cTarget.
theorem witness_i2c : r0.flag pgHost Reg.HOST.I2C_CFG_PEC_EN = false ∧ i2cPage ((0x500010 : W32).toNat / 4096) = true ∧
    r0.pageLost ((0x500010 : W32).toNat / 4096) = false ∧ r0.domSteady (pageDomain ((0x500010 : W32).toNat / 4096)) = true ∧
    i2cPage ((0x501000 : W32).toNat / 4096) = false ∧ (boot fun b => { b with stage := 1 }).boot.stage = 1 ∧
    (boot fun b => { b with stage := 9 }).boot.stage ≠ 1 ∧ (boot fun b => { b with asserted := false }).boot.asserted = false ∧
    (boot fun b => { b with asserted := false }).hostGone = false := by decide
/-- A ring that runs, with one descriptor given to it. -/
def ringed (i : Nat) : State :=
  { put (ringPage i) Reg.TXRING.TAIL 1 (put (ringPage i) Reg.TXRING.CFG_EN 1) with
    pcie := { r0.pcie with bme := true }, boot := { r0.boot with open_ := [0] } }
-- RingCommands.
theorem witness_ring : (ringed 15).flag (ringPage 15) Reg.TXRING.CFG_EN = true ∧ (ringed 15).ringRuns 15 = true ∧ (ringed 15).owned 15 ≠ 0 ∧
    r0.flag (ringPage 31) Reg.TXRING.CFG_EN = false ∧
    (r0.onRing 31 fun r => { r with cooling := true, waiting := true }).ringAt 31 = { cooling := true, waiting := true } := by decide
theorem witness_host_reset : (ringed 31).ringRuns (16 + 15) = true ∧ ((ringed 31).dmaDrop 15).hostGone = false := by decide +kernel
theorem witness_tx_answers :
    let body := padBody (slice (List.replicate 64 0) 0 (bits (txWord ([64] ++ List.replicate 31 0) 0) 13 0))
    let x : CpuTake := { ring := 15, at_ := 0, desc := [64] ++ List.replicate 31 0, frame := body ++ fcsBytes body }
    let ask := fun (s : State) (x : CpuTake) => ((((s.request 0 64 512 (some x.frame.length) (.cpu x)).allocClock 0).bufAt 0).answers.map
      fun e => (e.1.what, e.2))
    let ready := (put (pgBuf 0) Reg.BUF.BUFSTAT_READY 1 (ringed 15)).onBuf 0 fun u => { u with free := [(0, [8])] }
    txBad ([64] ++ List.replicate 31 0) = false ∧ (ringed 15).fld (pgTx 15) Reg.TXRING.CFG_BENCH = 0 ∧
    ask (ringed 15) x = [(.cpu x, .noBuf)] ∧ ask ready x = [(.cpu x, .granted 0 [8])] ∧
    ask (ringed 15) { x with gone := true } = [(.cpu { x with gone := true }, .noBuf)] ∧
    ask ready { x with gone := true } = [(.cpu { x with gone := true }, .granted 0 [8])] := by decide +kernel
theorem witness_tx_turn : (ringed 15).txTurn ((ringed 15).fld (pgTx 15) Reg.TXRING.CFG_BENCH) = some 15 ∧
    (ringed 15).cpuRoom ((ringed 15).fld (pgTx 15) Reg.TXRING.CFG_BENCH) = true ∧ txBad (List.replicate 32 0) = true := by decide

/-- Receive ring 15 runs with one buffer given to it; bench 7's CPU queue of the ring holds a whole frame of 64 bytes. -/
def receiving : State :=
  let a := (r0.onBuf 7 fun u => { u with descs := [(5, some { head := 0, len := 64, holders := 1, done := true })], hdrs := [(0, { last := true, len := 64, free := false })] })
  (ringed 31).putQueue (qkey 7 (512 + 15)) { head := [{ bench := 7, desc := 5, port := 527 }] } |> fun s => { s with buf := a.buf }
theorem witness_rx_ring : receiving.rxTurn 15 = some (7, { bench := 7, desc := 5, port := 527 }) ∧ receiving.ringRuns 31 = true ∧
    (receiving.rxBytes { bench := 7, desc := 5, port := 527 }).length = 64 ∧
    ceilDiv 64 (receiving.rxBuf 15) ≤ receiving.owned 31 ∧ ceilDiv 64 (receiving.rxBuf 15) = 1 := by decide +kernel

-- TableWindowCommands.
theorem witness_hub_room : r0.hub.held = [] ∧ ∀ op ∈ List.range 5,
    (r0.hubAnswered (pgCls 0)).hubsFull ((r0.hubAnswered (pgCls 0)).twRead (pgCls 0) (3 * 2 ^ 28 + op * 2 ^ 24)) = false := by decide +kernel
theorem witness_key_load : ((r0.hubAnswered (pgCiph 3)).setFld (pgCiph 3) ⟨0x23C, 31, 31⟩ 1).hubsFull
    (((r0.hubAnswered (pgCiph 3)).setFld (pgCiph 3) ⟨0x23C, 31, 31⟩ 1).twRead (pgCiph 3) (2 * 2 ^ 28 + 4 * 2 ^ 24)) = false := by decide +kernel
/-- A write of spread entry 5 through team A's window. -/
def spreadWrite : HostCmd := { kind := .table, page := pgCls 0, table := 4, op := 4, arg := 5 }
-- TableWritesWait.
theorem witness_table_write : spreadWrite.kind = .table ∧ spreadWrite.bad = false ∧ spreadWrite.writes = true ∧
    spreadWrite.teams.flatMap spreadWrite.units ≠ [] ∧ spreadWrite.tkind = some (.direct .spread) ∧ (∀ t ∈ spreadWrite.teams, r0.hubUp t = true) := by decide
/-- A hub with 64 commands. -/
def fullHub : State := { r0 with hub := { r0.hub with cmds := List.replicate 64 { spreadWrite with left := [0] } } }
theorem witness_hub_full : fullHub.hubLoad spreadWrite.team = 64 ∧ (fullHub.submit spreadWrite).waits (pgCls 3) = true ∧
    (fullHub.submit spreadWrite).waits (pgCls 4) = false ∧ (fullHub.submit spreadWrite).hub.held = [.cmd spreadWrite] := by decide +kernel
-- SequenceWindowAndSearch.
theorem witness_sq : (r0.hubAnswered (pgStrm 7)).hubsFull { kind := .sq, page := pgStrm 7, op := 15, arg := 0, data := 0 } = false := by decide +kernel
theorem witness_search : (r0.hubAnswered (pgFdb 7)).hubsFull { kind := .walk, page := pgFdb 7, op := 3 } = false ∧
    (r0.hubAnswered (pgFdb 7)).hubsFull { kind := .flush, page := pgFdb 7, op := 2, mask := 255 } = false ∧ r0.searching (pgFdb 7) = false ∧
    (r0.onFdb 7 fun f => { f with walk := some [] }).searching (pgFdb 7) = true := by decide +kernel
theorem witness_search_done : ((r0.onFdb 7 fun f => { f with walk := some [1, 2, 3, 4, 5], lost := true }).fdbAt 7).walk = some [1, 2, 3, 4, 5] := by decide
-- SeedsClassesAndSwaps.
theorem witness_seed : ((r0.tabsAt 7).hget .mac).empty = true ∧
    (((r0.onTabs 7 fun t => { t with mac := { stash := [{}] } }).tabsAt 7).hget .mac).empty = false := by decide
theorem witness_swap : r0.swapAt 1 = none ∧ ({ r0 with swap := [(1, some {})] } : State).swapAt 1 ≠ none ∧
    (true && r0.hubUp (1 - teamNo .b)) = true ∧ ({ r0 with hub := { r0.hub with faulty := [0] } } : State).hubUp (1 - teamNo .b) = false := by decide
/-- A bench with one learn request in its list. -/
def learning (n : Nat) (addr : Nat) : State :=
  r0.onFdb 7 fun f => { f with reqs := [{ dom := 0, addr := addr, port := 0, bench := 7, desc := 65535, bad := false }], handled := n }
-- LearningAndLogs.
theorem witness_learn : ((learning 512 1).fdbAt 7).reqs = [{ dom := 0, addr := 1, port := 0, bench := 7, desc := 65535, bad := false }] ∧
    512 ≤ ((learning 512 1).fdbAt 7).handled ∧ ((learning 511 0).fdbAt 7).handled < 512 ∧
    (learning 511 0).learnIgnored 7 { dom := 0, addr := 0, port := 0, bench := 7, desc := 65535, bad := false } = true := by decide
/-- Learning is on for domain 0 of bench 7 and port 0. -/
def learnOn : State :=
  put (pgFdb 0) (Reg.FDB.PORTCFG_LEARN_EN 0) 1 ((learning 0 1).onTabs 7 fun t => t.dset .dom 0 (2 ^ 63 + 2 ^ 62))
theorem witness_learn_on : (learnOn.fdbAt 7).handled < 512 ∧
    learnOn.learnIgnored 7 { dom := 0, addr := 1, port := 0, bench := 7, desc := 65535, bad := false } = false ∧
    learnOn.learnIgnored 7 { dom := 0, addr := 1, port := 0, bench := 7, desc := 65535, bad := true } = false := by decide
theorem witness_aging : (put (pgFdb 7) Reg.FDB.AGECFG_EN 1).flag (pgFdb 7) Reg.FDB.AGECFG_EN = true ∧
    ((r0.onFdb 7 fun f => { f with wait := 0 }).fdbAt 7).wait = 0 := by decide
theorem witness_signature : (put (pgFdb 4) Reg.FDB.SIGCFG_EN 1).flag (pgFdb (4 * teamNo .b)) Reg.FDB.SIGCFG_EN = true ∧
    ((r0.onSig 1 fun g => { g with wait := 0 }).sigAt 1).wait = 0 ∧ (r0.teamAt 1).failed = false ∧
    0 ∈ ((r0.onSig 1 fun g => { g with differed := [0] }).sigAt 1).differed ∧ 0 ∉ (r0.sigAt 1).reported := by decide
theorem witness_sig_bad : ∃ t : TabSt, t.signature 0 ≠ t.dget (sigTable 0).2.1 (sigTable 0).2.2.1 := by
  have h : ∀ v, ({ domSig := [(0, v)] } : TabSt).signature 0 = ({} : TabSt).signature 0 := fun v => by
    unfold TabSt.signature; rfl
  refine ⟨{ domSig := [(0, ({} : TabSt).signature 0 + 1)] }, ?_⟩
  rw [h]; simp [sigTable, TabSt.dget, TabSt.direct, Tab.get]
theorem witness_mirr : rwBits pgMirr (4 * (16 : Fin 1024)) ≠ 0 := by decide
theorem witness_logs : ({ r0 with failLog := [(pgCls 0, [7])] } : State).failLogAt (pgCls 0) = [7] ∧
    ((r0.onFdb 7 fun f => { f with flapLog := [(1, 2, 3, 4, 5)] }).fdbAt 7).flapLog = [(1, 2, 3, 4, 5)] ∧
    ((r0.onSig 1 fun g => { g with log := [(1, 2)] }).sigAt 1).log = [(1, 2)] ∧
    ((r0.onCiph 3 fun k => { k with pnLog := [9] }).ciphAt 3).pnLog = [9] := by decide

/-- Bench 7 with a valid partition and ready pools. -/
def pooled : State := put (pgBuf 7) Reg.BUF.BUFSTAT_READY 1
-- PoolsAndLists.
theorem witness_pools : r0.bufReady 7 = false ∧ r0.poolsValid 7 = true ∧ (put (pgBuf 7) ⟨0x054, 31, 15⟩ 0).poolsValid 7 = false ∧
    pooled.bufReady 7 = true ∧ (pooled.poolOf 7 0).isSome = true := by decide
theorem witness_building : ((r0.onBuf 7 fun u => { u with building := true }).bufAt 7).building = true := by decide
theorem witness_free_list : ((r0.onBuf 7 fun u => { u with free := [(3, [8, 16])] }).bufAt 7).list 3 = [8, 16] ∧
    ((r0.onBuf 7 fun u => { u with free := [(3, [8, 16])] }).bufAt 7).rebuild = none ∧
    ((r0.onBuf 7 fun u => { u with rebuild := some (3, [8]) }).bufAt 7).rebuild = some (3, [8]) ∧
    ((r0.onBuf 7 fun u => { u with rebuild := some (3, [8]), alsoBad := [(0, [])] }).bufAt 7).alsoBad.head? = some (0, []) := by decide
-- BufferEvents.
theorem witness_holders : 5 ∈ (r0.onBuf 7 fun u => { u with descs := [(5, some { head := 0, len := 64, holders := 1 })] }).holdersOf 7 0 := by decide +kernel
theorem witness_data_ue : pooled.domOn (domBuffer 7) = true ∧ pooled.bufReady 7 = true ∧ (pooled.poolOf 7 0).isSome = true ∧
    ((r0.onBuf 7 fun u => { u with descs := [(5, some { head := 0, len := 64, holders := 1 })] }).domOn (domBuffer 7)) = true := by decide
theorem witness_header_ue : ((pooled.bufAt 7).hdr 0).out = false ∧ pooled.holdersOf 7 0 = [] := by decide
theorem witness_own : (put (pgBuf 7) Reg.BUF.OWN_IDX 0).fld (pgBuf 7) Reg.BUF.OWN_IDX = 0 ∧
    ((put (pgBuf 7) Reg.BUF.OWN_IDX 0).setL (pgBuf 7) Reg.BUF.OWN_RES 0 0).resSum 7 ≤ r0.poolGranules 7 ∧
    ((put (pgBuf 7) Reg.BUF.OWN_IDX 0).wrL (pgBuf 7) 0x0CC 0xFFFFFFFF 0).resDescSum 7 > 32768 ∧
    519 < (put (pgBuf 7) Reg.BUF.OWN_IDX 520).fld (pgBuf 7) Reg.BUF.OWN_IDX ∧
    (put (pgBuf 7) Reg.BUF.OWN_IDX 519).fld (pgBuf 7) Reg.BUF.OWN_IDX ≤ 519 := by decide +kernel
-- BufferMailboxAndWindow.
theorem witness_mbox : (pooled.bufAt 7).mbox = none ∧ pooled.hubsFull { kind := .mbox, page := pgBuf 7 } = false ∧
    2097151 < 2 ^ 21 ∧ 1835008 / 2 ^ 18 = 7 ∧ (pooled.poolOf 7 (1835008 % 2 ^ 18)).isSome = true ∧
    ((pooled.onBuf 7 fun u => { u with mbox := some (0, 0, 0) }).bufAt 7).mbox.isSome = true ∧ r0.bufReady 7 = false ∧
    pooled.poolOf 7 (2097151 % 2 ^ 18) = none ∧ (0 : Nat) / 2 ^ 18 ≠ 7 ∧ ((List.range 4).foldl (fun s k => put (pgBuf 7) ⟨0x050 + 4 * k, 31, 15⟩ 0 s) pooled).poolOf 7 0 = none ∧
    ((pooled.onBuf 7 fun u => { u with cullet := [8] }).bufAt 7).cullet = [8] := by decide
theorem witness_mbox_done : ((r0.onBuf 7 fun u => { u with mbox := some (0, 1, 2) }).bufAt 7).mbox = some (0, 1, 2) := by decide
theorem witness_bwin : r0.bwinAt 7 63 = none ∧ (put (pgBuf 7) Reg.BUF.BWIN_HANDLE 1835008).bwinAt 7 0 = some (0, 0) ∧
    ((put (pgBuf 7) Reg.BUF.BWIN_HANDLE 1835008).setHostRef 7 0 1).hostRef 7 0 ≠ 0 := by decide

/-- Pseudo-channel 31 in a state. -/
def chan31 (v : Nat) : State := put (pgChan 31) Reg.CRUCC.CH_STAT_STATE v
-- RefreshReplayAndErrors.
theorem witness_refresh : (chan31 2).chState 31 = 2 ∧ (chan31 3).chState 31 = 3 ∧ (chan31 1).chState 31 = 1 ∧ r0.chState 31 = 0 := by decide
theorem witness_window_room : commands ((r0.onChan 31 fun h => { h with retry := [{ write := true, queue := 0, seq := 0, units := List.replicate 1024 0 }]
    }).chanAt 31).retry = 1024 ∧ commands (r0.chanAt 31).retry ≤ 1024 ∧ (chan31 4).chState 31 = 4 ∧ (chan31 5).chState 31 = 5 := by decide +kernel
theorem witness_retrain : (put (pgChan 31) Reg.CRUCC.CH_CFG_CE_RETRAIN 1 (chan31 2)).fld (pgChan 31) Reg.CRUCC.CH_CFG_CE_RETRAIN = 1 ∧
    (put (pgChan 31) Reg.CRUCC.CH_CFG_CE_RETRAIN 1 (chan31 2)).chState 31 = 2 ∧ (r0.chanAt 31).ce = 0 ∧
    (put (pgChan 31) Reg.CRUCC.CH_CFG_CE_RETRAIN 2 (chan31 2)).fld (pgChan 31) Reg.CRUCC.CH_CFG_CE_RETRAIN = 2 := by decide
theorem witness_half : (put (pgHalf 1) Reg.CRUCH.HSTAT_STATE 4).halfState 1 = 4 ∧ (put (pgHalf 1) Reg.CRUCH.HSTAT_STATE 2).halfState (31 / 16) = 2 := by decide
-- TrainingAndTemperature.
theorem witness_training_start : r0.chState 31 = 0 ∧ r0.halfState (31 / 16) ≠ 4 ∧ r0.domOn (domHalf (31 / 16)) = true ∧
    r0.domOn domPhy = true ∧ r0.pins.hbmLost = false ∧ (chan31 4).chState 31 = 4 ∧
    ({ r0 with pins := { r0.pins with hbmLost := true } } : State).pins.hbmLost = true := by decide
/-- Channel 31 training, with the last step it ran and whether that step is to repeat. -/
def inTraining (step : Nat) (rep : Bool) : State := (chan31 1).onChan 31 fun h => { h with step := step, repeated := rep }
theorem witness_training_steps : (inTraining 1 false).chState 31 = 1 ∧ ((inTraining 1 false).chanAt 31).full = true ∧
    ((inTraining 1 false).chanAt 31).step % 6 + 1 = 2 ∧ ((inTraining 5 false).chanAt 31).step % 6 + 1 = 6 ∧
    ((inTraining 1 true).chanAt 31).repeated = true ∧ ((inTraining 6 true).chanAt 31).step = 6 := by decide +kernel
/-- A frequency change waits for the step that channel 31 runs, and for channel `c`'s. -/
def stepWaits (c : Nat) : State := { inTraining 1 false with phy := { waiting := [c, 31] } }
theorem witness_step_over : r0.phy.waiting = [] ∧ (stepWaits 31).phy.waiting ≠ [] ∧
    ((stepWaits 31).phy.waiting.filter fun i => i != 31 && ((stepWaits 31).chState i == 1 || (stepWaits 31).chState i == 3)) = [] ∧
    (let s := put (pgChan 0) Reg.CRUCC.CH_STAT_STATE 3 (stepWaits 0)
     (s.phy.waiting.filter fun i => i != 31 && (s.chState i == 1 || s.chState i == 3)) = [0]) := by decide +kernel
theorem witness_repairs : ((inTraining 1 false).chanAt 31).repeated = false ∧ ((inTraining 1 false).repair 31 [] [0, 1, 2]).isNone = true ∧
    ((inTraining 1 false).repair 31 [0] [0, 255]).isSome = true ∧ (chan31 2).chState 31 ≠ 1 ∧ (chan31 2).chState 31 ≠ 3 ∧
    (((inTraining 5 false).onChan 31 fun h => { h with toSref := true }).chanAt 31).toSref = true := by decide +kernel
theorem witness_hot : r0.phy.hot = false ∧ 85 < (r0.setStackTemp 86).stackTemp := by decide
-- PointsAndImage.
theorem witness_point_held : (1 : Nat) ≤ 2 ∧ (put pgPhy Reg.CRUCP.PHY_STAT_PENDING 1).flag pgPhy Reg.CRUCP.PHY_STAT_PENDING = true ∧
    1 ≠ (put pgPhy Reg.CRUCP.PHY_STAT_PENDING 1).fld pgPhy Reg.CRUCP.PHY_STAT_PEND_POINT := by decide
theorem witness_change : ({ r0 with phy := { change := some 2 } } : State).phy.change = some 2 := rfl
theorem witness_points : r0.flag pgPhy Reg.CRUCP.PHY_STAT_PENDING = false ∧ 2 ≠ r0.fld pgPhy Reg.CRUCP.PHY_STAT_POINT ∧ r0.phy.change = none ∧
    (∀ c, c < 32 → r0.chState c ≠ 1 ∧ r0.chState c ≠ 3) ∧ (chan31 3).chState 31 = 3 ∧ (∀ c, c < 32 → r0.chState c = 0) ∧
    0 = r0.fld pgPhy Reg.CRUCP.PHY_STAT_POINT ∧ (({ r0 with half := [(1, { copied := true })] } : State).halfAt 1).copied = true := by decide
theorem witness_copying : (put (pgHalf 1) Reg.CRUCH.IMG_STAT_COPYING 1).flag (pgHalf (teamNo .b)) Reg.CRUCH.IMG_STAT_COPYING = true := by decide

/-- Queue 511 of bench 7 with one copy in STAGE of a good frame that spills, the half of its team in a state. -/
def staged (h : Nat) : State :=
  put (pgHalf 1) Reg.CRUCH.HSTAT_STATE h (put (pgCore 7) Reg.CORE.QCFG_SPILL_EN 1 ((r0.putQueue (qkey 7 511)
    { stage := [{ bench := 7, desc := 5 }] }).onBuf 7 fun u => { u with descs := [(5, some { head := 0, len := 64, holders := 1, done := true })] }) 511)
-- SpillPath.
theorem witness_stage : ((staged 2).queueAt (qkey 7 511)).stage = [{ bench := 7, desc := 5 }] ∧
    (staged 2).descAt 7 5 = some { head := 0, len := 64, holders := 1, done := true } ∧ (staged 2).spillEn (qkey 7 511) = true ∧
    (staged 2).phy.change = none ∧ (staged 2).domOn (domSpill (benchTeam 7)) = true ∧ (staged 2).halfState (benchTeam 7) = 2 ∧
    (staged 0).halfState (benchTeam 7) ≠ 2 ∧ (staged 2).cdescUsed (benchTeam 7) < 2097152 ∧
    (staged 2).takeMove (qkey 7 511) { bench := 7, desc := 5 } { head := 0, len := 64, holders := 1, done := true } = none ∧
    ((staged 2).queueAt (qkey 7 511)).mid = [] ∧
    ((staged 2).queueAt (qkey 7 511)).headCells < (staged 2).spillFld (qkey 7 511) Reg.CORE.RETURN_LO := by decide +kernel
theorem witness_spill_taken : ((put (pgChan 16) Reg.CRUCC.CH_STAT_STATE 2 (staged 2)).takeMove (qkey 7 511) { bench := 7, desc := 5 }
    { head := 0, len := 64, holders := 1, done := true }).isSome = true := by decide +kernel
/-- The queue with a copy in MID that lies in one slab of pseudo-channel 16. -/
def middled (bad : Bool) : State :=
  r0.putQueue (qkey 7 511) { mid := [{ moveSeq := 9, pend := 1, reading := true, bad := bad }], round := true, slabs := [{ chan := 16 }] }
theorem witness_return : (put (pgChan 16) Reg.CRUCC.CH_STAT_STATE 2 (middled false)).returnTurn 1 = some (qkey 7 511) ∧
    r0.returnTurn 1 ≠ some (qkey 7 511) ∧ r0.qeFree 7 = 65536 := by decide +kernel
theorem witness_mid : (((middled false).queueAt (qkey 7 511)).mid.find? fun r => r.moveSeq == (9 : W32).toNat && r.pend == 1) =
      some { moveSeq := 9, pend := 1, reading := true } ∧
    ((middled true).queueAt (qkey 7 511)).round = true ∧ (middled true).inWindow (qkey 7 511) 9 = false ∧
    ((middled false).queueAt (qkey 7 511)).chansOf { moveSeq := 9, pend := 1, reading := true } = [16] ∧
    (put (pgChan 16) Reg.CRUCC.CH_STAT_STATE 2 (middled true)).chState 16 = 2 ∧
    (r0.putQueue (qkey 7 511) { mid := [{ }] }).queueAt (qkey 7 511) = { mid := [{ }] } ∧
    ({ mid := [{ }] } : Queue).headCells < r0.spillFld (qkey 7 511) Reg.CORE.RETURN_LO := by decide

/-- Port 511's path is in service. -/
def path511 : State :=
  put (pgSerdes (portQuad 511)) Reg.SERDES.QSTAT_REF_OK 1 (put (pgSerdes (portQuad 511)) Reg.SERDES.QSTAT_PLL_LOCK 1)
-- SelectionAndTransmission.
theorem witness_path : path511.txPath 511 = true ∧ path511.txAt 511 = none ∧ r0.txPath 511 = false ∧ r0.txAt 511 = none ∧
    (path511.putTx 511 (some { marked := some (20, 64) })).txPath 511 = true := by decide
/-- Port 511 sends a preemptable copy of class 0, and a good frame of class 7 waits at its queue's head. -/
def preempting : State :=
  let d : Desc := { head := 0, len := 1000, holders := 1, done := true }
  let a := ((path511.onBuf 7 fun u => { u with descs := [(5, some d), (6, some d)] }).putTx 511 (some { copy := { bench := 7, desc := 5 }, smd := some (.start 0) })).putQueue
    (portQueue 511 7) { head := [{ bench := 7, desc := 6, port := 511, cls := 7 }] }
  put (pgSched 7) Reg.SCHED.TSA_PREEMPT 1 (put (pgPort 31) (Reg.PORT.MMCFG_TX_ACTIVE (portSlot 511)) 1
    (put (pgPort 31) (Reg.PORT.PSTAT_LSTATE (portSlot 511)) 2 a)) (portLocal 511)
theorem witness_preempt : preempting.txPath 511 = true ∧ preempting.txAt 511 = some { copy := { bench := 7, desc := 5 }, smd := some (.start 0) } ∧
    preempting.expressReady 511 = true ∧ (preempting.preempt 511 100).txPath 511 = true ∧
    (preempting.sagSeen 511).canPreempt 511 { copy := { bench := 7, desc := 5 }, smd := some (.start 0) } 100 = true ∧
    preempting.canPreempt 511 { copy := { bench := 7, desc := 5 } } 100 = false ∧
    preempting.canPreempt 511 { copy := { bench := 7, desc := 5 }, smd := some (.start 0) } 937 = false ∧ timed.timeValid = true ∧
    r0.selects 511 = none ∧ preempting.selects 511 = some 7 := by decide +kernel
theorem witness_tx_end : preempting.descAt 7 5 = some { head := 0, len := 1000, holders := 1, done := true } ∧
    (r0.putTx 511 (some { marked := some (20, 64) })).txAt 511 = some { marked := some (20, 64) } := by decide +kernel
/-- Port 511 sends a frame that is still being received. -/
def cutting : State :=
  (path511.onBuf 7 fun u => { u with descs := [(5, some { head := 0, len := 300, holders := 1 })] }).putTx 511 (some { copy := { bench := 7, desc := 5 } })
theorem witness_underrun : cutting.descAt 7 5 = some { head := 0, len := 300, holders := 1 } ∧
    (((cutting.markTx 511 20).raise (pgCore (portBench 511)) 5).txAt 511).isSome = true := by decide +kernel

/-- Port 511's gates run a list of two entries, all closed and all open; the second sets the MAC hold. -/
def gated : State :=
  let a := r0.onGate 511 fun g => { g with first := true, banks := [(0, 1000), (1, 2 ^ 62 + 0xFF * 2 ^ 32 + 1000)] }
  put pgTime Reg.TIME.STAT_TIME_VALID 1 (put (pgGate 7) Reg.GATE.GCTRL_GATE_EN 1 (put (pgGate 7) Reg.GATE.OPER_CYCLE 2000
    (put (pgGate 7) Reg.GATE.OPER_LEN 2 a (portLocal 511)) (portLocal 511)) (portLocal 511))
-- GateEvents.
theorem witness_gates : gated.gateMode 511 = 1 ∧ gated.boundary 511 = some 0 ∧
    gated.nextBegin 511 gated.time.now (fun g => g.op == 1) = some 1000 ∧ (gated.schedAt 511).hold = false ∧
    (put (pgPort 31) (Reg.PORT.MMCFG_TX_ACTIVE (portSlot 511)) 1).txActive 511 = true := by decide +kernel
theorem witness_hold_next : gated.holdNext 511 = some 1000 ∧ r0.holdNext 511 = none ∧ r0.txAt 511 = none ∧ r0.gateMode 511 ≠ 1 := by decide +kernel
theorem witness_change_request :
    let s := put (pgGate 7) Reg.GATE.ADM_BASE_NS 999999999 (put (pgGate 7) Reg.GATE.ADM_CYCLE 1000000000 (put (pgGate 7) Reg.GATE.ADM_LEN 1024
      timed 63) 63) 63
    s.gfld 511 Reg.GATE.ADM_LEN = 1024 ∧ s.gfld 511 Reg.GATE.ADM_CYCLE = 1000000000 ∧ s.gfld 511 Reg.GATE.ADM_BASE_NS = 999999999 ∧
    s.timeValid = true ∧ changeTime 999999999 1000000000 10000 < 2 ^ 48 * 1000000000 ∧ r0.gfld 511 Reg.GATE.ADM_LEN = 0 ∧
    (put (pgGate 7) Reg.GATE.GSTAT_PENDING 1 timed 63).gatePending 511 = true := by decide +kernel
theorem witness_gate_change : (put (pgGate 7) Reg.GATE.GSTAT_PENDING 1 r0 (portLocal (r0.gatePort 7))).gatePending (r0.gatePort 7) = true ∧
    r0.gatePending (r0.gatePort 7) = false ∧
    ((r0.onGate 511 fun g => { g with pend := some (0, 100, 0, 1) }).gateAt 511).pend = some (0, 100, 0, 1) ∧
    (put pgTime Reg.TIME.STAT_TIME_VALID 1).timeValid = true := by decide +kernel

/-- Port 511 is up, its window closed now, and its slice may be gated in a mode; the closed window lasts `n` ns. -/
def closedWindow (mode n : Nat) : State :=
  let a := r0.onGate 511 fun g => { g with first := true, banks := [(0, n), (1, 2 ^ 62 + 0xFF * 2 ^ 32 + 1000)] }
  let b := put pgTime Reg.TIME.STAT_TIME_VALID 1 (put (pgGate 7) Reg.GATE.GCTRL_GATE_EN 1 (put (pgGate 7) Reg.GATE.OPER_CYCLE (n + 1000)
    (put (pgGate 7) Reg.GATE.OPER_LEN 2 a 63) 63) 63)
  let k := teamLocal 511
  let c := put (pgPort 31) (Reg.PORT.PSTAT_LSTATE (portSlot 511)) 2 b
  c.wr (pgPwr 1) (Reg.PWRT.SAG_MODE (k / 16)).off (BitVec.ofNat 32 (mode * 4 ^ (k % 16)))
-- SlicesAreGated.
theorem witness_sag : (closedWindow 2 10000).sagAllowed 511 = true ∧ (closedWindow 2 10000).sagChoice 511 = 2 ∧
    (closedWindow 1 10000).sagChoice 511 = 1 ∧ (closedWindow 2 32).sagAllowed 511 = true ∧ (closedWindow 2 32).sagChoice 511 = 0 := by decide +kernel
theorem witness_sag_none : r0.sagAllowed 543 = false ∧ (r0.sagAt 0).gated = 0 ∧ 511 ∈ sagPorts 511 ∧
    (({ r0 with sag := [(511, { failed := true })] } : State).sagAt 511).failed = true := by decide +kernel
theorem witness_sag_wake :
    let s := (closedWindow 2 10000).onSag 511 fun g => { g with gated := 2 }
    (s.sagAt 511).gated ≠ 0 ∧ (s.sagAt 511).failed = false ∧ s.unitEnd 511 = some 10000 ∧
    ((r0.onSag 543 fun g => { g with failed := true }).sagAt 543).failed = true ∧ (r0.sagAt 543).failed = false ∧
    ((r0.onSag 543 fun g => { g with gated := 1 }).sagAt 511).gated = 0 ∧ portGroup 511 = 31 := by decide +kernel

-- ScansAndWatches.
theorem witness_scan : (put (strmTeam 1) Reg.STRM.SQSCAN_EN 1).flag (strmTeam (teamNo .b)) Reg.STRM.SQSCAN_EN = true ∧
    r0.domOn (domIngress (4 * teamNo .b)) = true ∧ (r0.teamAt 1).failed = false := by decide
/-- Watch slot 31 of team B watches an entry and tests each period. -/
def watching : State :=
  let a := put (strmTeam 1) (Reg.STRM.WCFG_EN 31) 1 (put (strmTeam 1) (Reg.STRM.LEDCFG_PERIOD 31) 1)
  { a.addCtr (strmTeam 1) (Reg.STRM.PASSED 31) 5 with team := [(1, { watch := [(31, (2, 0, false))] })] }
theorem witness_watch_none : r0.flag (strmTeam 1) (Reg.STRM.WCFG_EN 31) = false ∧ (({ r0 with team := [(1, { failed := true })] } : State).teamAt 1).failed = true := by decide
theorem witness_watch : watching.flag (strmTeam 1) (Reg.STRM.WCFG_EN 31) = true ∧ watching.fld (strmTeam 1) (Reg.STRM.LEDCFG_PERIOD 31) ≠ 0 ∧
    watching.gridTick % (watching.fld (strmTeam 1) (Reg.STRM.LEDCFG_PERIOD 31) * 1024) = 0 ∧
    Tab.get (fun _ => (0, 0, false)) (watching.teamAt 1).watch 31 = (2, 0, false) ∧
    grown (watching.ctr (strmTeam 1) (Reg.STRM.DISCARDED 31)).toNat 0 + watching.fld (strmTeam 1) (Reg.STRM.LEDCFG_DIFF 31) <
      grown (watching.ctr (strmTeam 1) (Reg.STRM.PASSED 31)).toNat 2 := by decide +kernel

/-- A frame of 256 bytes, its EtherType given, the rest zero. -/
def frame256 (hi lo : Byte) : List Byte := List.replicate 12 0 ++ [hi, lo] ++ List.replicate 242 0
/-- Port 511 is up. -/
def up511 : State := put (pgPort 31) (Reg.PORT.PSTAT_LSTATE (portSlot 511)) 2
-- FramesAreReceived.
theorem witness_header : (up511.rxAt (512 + 511)).active = false ∧ up511.receives 511 false = true ∧
    up511.windowNeed 511 (frame256 0x88 0x08) ≤ (frame256 0x88 0x08).length ∧ beAt (frame256 0x88 0x08) 12 2 = 0x8808 ∧
    up511.windowNeed 511 (frame256 0x08 0x00) ≤ (frame256 0x08 0x00).length ∧ beAt (frame256 0x08 0x00) 12 2 ≠ 0x8808 := by decide +kernel
theorem witness_not_up : (put (pgPort 31) (Reg.PORT.PSTAT_LSTATE (portSlot 511)) 1).receives 511 false = false ∧
    (put (pgPort 31) (Reg.PORT.PSTAT_LSTATE (portSlot 511)) 1).lstate 511 ≠ 0 ∧
    (put (pgPort 31) (Reg.PORT.PSTAT_LSTATE (portSlot 511)) 1).rxBlocked 511 (frame256 8 0) false = false ∧ (r0.teamAt (benchTeam (portBench 511))).failed = false := by decide +kernel
/-- A frame of 64 bytes with a right FCS. -/
def goodFrame : List Byte := let d : List Byte := List.replicate 60 1; d ++ fcsBytes d
theorem witness_rx_ends : up511.rxBlocked 511 goodFrame false = false ∧ up511.rxEnd 511 (goodFrame.take (up511.maxFrame 511 + 1)) false false = .good ∧
    up511.rxEnd 511 (goodFrame.take (up511.maxFrame 511 + 1)) false true = .fcs ∧ up511.incoming 511 goodFrame = some goodFrame ∧
    beAt goodFrame 12 2 ≠ 0x8808 ∧ up511.rxEnd 511 (goodFrame.take (up511.maxFrame 511 + 1)) true false = .trunc ∧
    ((up511.putRx 511 { active := true }).rxAt 511).active = true ∧ (up511.putRx 511 { active := true }).rxBlocked 511 goodFrame false = false := by decide +kernel
/-- The port's bench admits headers, and the frame's request waits. -/
def admitting : State := { up511 with boot := { r0.boot with asserted := false, open_ := [7] } }
theorem witness_offer_made : let u := admitting.putRx 511 { active := true }
    u.closedTo 7 = none ∧ u.inspect 511 goodFrame = (some none, u) ∧ u.admitCheck 511 goodFrame = none := by
  refine ⟨by decide +kernel, ?_, by decide +kernel⟩
  rfl
/-- Port 511's lane loops back, with nothing sent. -/
theorem witness_loop : (put (pgSerdes (portQuad 511)) (Reg.SERDES.LCFG_LOOP (portLane 511 % 4)) 1).incoming 511 goodFrame = none ∧
    (({ r0 with team := [(1, { failed := true })] } : State).teamAt (benchTeam (portBench 511))).failed = true ∧ r0.lstate 511 = 0 := by decide +kernel
theorem witness_rx_offered : (((admitting.rxEndCount 511 goodFrame .good).offer 511 goodFrame true 0).rxAt 511).waiting = true := by decide +kernel
theorem witness_fragments :
    let s := put (pgPort 31) (Reg.PORT.MMCFG_MM_EN (portSlot 511)) 1 (r0.onLink 511 fun k => { k with asm := some (3, 3, []) })
    s.portFlag 511 Reg.PORT.MMCFG_MM_EN = true ∧ (s.rxAt (512 + 511)).waiting = false ∧ (s.linkAt 511).asm = some (3, 3, []) ∧
    (r0.linkAt 511).asm = none ∧ s.nearLoop 511 = false ∧ (s.teamAt (benchTeam (portBench 511))).failed = false ∧
    ((s.rxAt (512 + 511)).active || s.receives 511 false) = false ∧
    (let t := put (pgPort 31) (Reg.PORT.MMCFG_MM_EN (portSlot 511)) 1 up511
     t.portFlag 511 Reg.PORT.MMCFG_MM_EN = true ∧ ((t.rxAt (512 + 511)).active || t.receives 511 false) = true ∧ t.portUp 511 = true) := by decide

/-- Bench 7 runs its engines, with one header in its FIFO. -/
def marvering : State :=
  put (pgMarver 7) Reg.MARVER.IMGSTAT_LOADED 1 (r0.onMar 7 fun m => { m with fifo := [{ port := 511, len := 64 }] })
-- EnginesRun.
theorem witness_dispatch : findFrom (fun e => ((marvering.marAt 7).engine e).isNone) 0 24 = some 0 ∧
    (marvering.marAt 7).take (marvering.tickAt 7).punted = some ({ port := 511, len := 64 }, {}) ∧
    marvering.marverRuns 7 = true ∧ (marvering.tickAt 7).dispatched < 1024 := by decide
/-- Engine 23 of bench 7 holds a routine. -/
def inEngine (r : Routine) : State := r0.onMar 7 fun m => { m with engines := [(23, some r)] }
theorem witness_engine : ((inEngine {}).marAt 7).engine 23 = some {} ∧ ({} : Routine).ended = false ∧ ({} : Routine).expired = none ∧
    ({ base := false } : Routine).expired = none ∧ ({ words := 256 } : Routine).expired = some 0 ∧
    ((inEngine { ended := true }).marAt 7).engine 23 = some { ended := true } ∧ r0.csFind 7 0 .clean ≠ .both ∧ r0.csFind 7 0 .both = .both ∧
    (∀ x ∈ r0.csFinds 7 [0, 16703] [], x.2 ≠ .both) ∧ (∃ x ∈ r0.csFinds 7 [0, 16703] [(16703, .both)], x.2 = .both) := by decide
theorem witness_none_due : r0.due 7 = none ∧ (r0.marAt 7).engine 23 = none ∧ ((r0.ciphAt (ciphOf 511)).tags.find? fun t => t.port == 511) = none ∧
    ((r0.coreAt 7).inbox.find? fun r => r.1 == 4) = none := by decide
theorem witness_release : (r0.onMar 7 fun m => { m with results := [{ ended := true }] }).due 7 = some { ended := true } ∧
    (r0.onMar 7 fun m => { m with results := [{ h := { cpu := some { direct := true } } }] }).due 7 =
      some { h := { cpu := some { direct := true } } } := by decide
theorem witness_scrub : (put (pgMarver 7) Reg.MARVER.SCRUB_EN 1 marvering).flag (pgMarver 7) Reg.MARVER.SCRUB_EN = true ∧
    (put (pgMarver 7) Reg.MARVER.SCRUB_EN 1 marvering).marverRuns 7 = true := by decide
theorem witness_tag : ((r0.onCiph (ciphOf 511) fun k => { k with tags := [{ port := 511, desc := none, sec := {}, tagOk := true, slOk := true, octets := 46 }] }).ciphAt
    (ciphOf 511)).tags.find? (fun t => t.port == 511) =
      some { port := 511, desc := none, sec := {}, tagOk := true, slOk := true, octets := 46 } := by decide

-- HandoffAndBridge.
theorem witness_handoff : ((r0.onCore 7 fun h => { h with inbox := [(4, {})] }).coreAt 7).inbox.find? (fun r => r.1 == (4 : Fin 5).val) = some (4, {}) := by decide
/-- The bridge from team B to bench 3, with a record of a frame of bench 7 of which some bytes are received. -/
def bridging (d : Desc) (x : BridgeSt) : State :=
  (r0.onBuf 7 fun u => { u with descs := [(5, some d)], hdrs := [(0, { last := true, len := 300, free := false })] }).onBridge (brKey .b 3) fun _ => x
theorem witness_bridge_send :
    let s := bridging { head := 0, len := 300, holders := 1 } { fifo := [{ bench := 7, desc := 5 }] }
    (s.bridgeAt (brKey .b 3)).fifo = [{ bench := 7, desc := 5 }] ∧ (s.bridgeAt (brKey .b 3)).cred ≠ 0 ∧
    (s.bridgeAt (brKey .b 3)).sent + 256 ≤ s.brStored { bench := 7, desc := 5 } ∧ (s.teamAt (teamNo .b)).failed = false ∧
    (bridging { head := 0, len := 300, holders := 1, done := true } { fifo := [{ bench := 7, desc := 5 }], sent := 256 }).brStored
      { bench := 7, desc := 5 } - 256 = 44 ∧ ((bridging { head := 0, len := 300, holders := 1, done := true } {}).descAt 7 5).map (fun d => d.done) = some true ∧
    s.brStored { bench := 7, desc := 5 } - 300 = 0 ∧ (({ s with team := [(0, { failed := true })] } : State).teamAt (1 - teamNo .b)).failed = true := by decide +kernel
theorem witness_bridge_begin :
    let s := bridging { head := 0, len := 300, holders := 1 } { fifo := [{ bench := 7, desc := 5 }], sent := 256 }
    (s.bridgeAt (brKey .b 3)).fifo = [{ bench := 7, desc := 5 }] ∧ (s.bridgeAt (brKey .b 3)).xfer = none ∧ (s.bridgeAt (brKey .b 3)).sent ≠ 0 ∧
    s.descAt 7 5 = some { head := 0, len := 300, holders := 1 } := by decide +kernel
theorem witness_bridge_credit : ((bridging {} { cred := 127 }).bridgeAt (brKey .b 3)).cred < 128 ∧
    ((bridging {} { cred := 127 }).bridgeAt (brKey .b 3)).xfer = none ∧
    ((bridging {} { cred := 128 }).bridgeAt (brKey .b 3)).cred = 128 ∧
    (bridging {} { fifo := [{}, {}], cred := 0 }).brStalled (brKey .b 3) = true ∧ (bridging {} { cred := 0 }).brStalled (brKey .b 3) = false ∧
    (let x : BridgeSt := { fifo := [{}], sent := 256, xfer := some { hand := {}, owner := 0, answered := true } }
     x.xfer = some { hand := {}, owner := 0, answered := true } ∧ x.fifo ≠ []) ∧ r0.peerDown (teamNo .b) = false ∧
    (put (pgCore 4) Reg.CORE.BR_STAT_PEER_DOWN 1).peerDown (teamNo .b) = true := by decide
theorem witness_bridge_receive :
    let d : Desc := { head := 0, len := 300, holders := 1, done := true }
    let s := bridging d { fifo := [{ bench := 7, desc := 5 }], sent := 300, xfer := some { hand := {}, owner := 0, desc := some 9, answered := true } }
    s.descAt 7 5 = some d ∧ s.brStored { bench := 7, desc := 5 } ≤ 300 ∧ d.tagWait = false ∧ (s.teamAt (1 - teamNo .b)).failed = false ∧
    (((s.xferStore (brKey .b 3) 300 true).bridgeAt (brKey .b 3)).xfer.bind fun z => z.desc) = some 9 ∧
    ((bridging d { xfer := some { hand := {}, owner := 0 } }).bridgeAt (brKey .b 3)).fifo = [] ∧
    ((bridging d { xfer := some { hand := {}, owner := 0 } }).bridgeAt (brKey .b 3)).xfer = some { hand := {}, owner := 0 } := by decide +kernel

/-- Queue 15 of cluster 3 runs, a descriptor given to it. -/
def jobbing : State :=
  let a := put (pgCiph 3) (Reg.CIPH.JQ_TAIL 15) 1 (put (pgCiph 3) (Reg.CIPH.JQ_CFG_EN 15) 1)
  { a with pcie := { r0.pcie with bme := true }, boot := { r0.boot with asserted := false } }
-- CipherJobs, JobQueuesAndKat.
theorem witness_job : jobbing.jobTurn 3 = some 15 ∧ r0.jobTurn 3 = none ∧ r0.flag (pgCiph 3) (Reg.CIPH.JQ_CFG_EN 15) = false ∧
    (put (pgCiph 3) Reg.CIPH.CSTAT_KAT_BUSY 1).flag (pgCiph 3) Reg.CIPH.CSTAT_KAT_BUSY = true ∧ (0x8000 : BitVec 16) ≠ 0 := by decide +kernel
/-- A job descriptor: the top byte of word 0, LEN, and word 15. -/
def descriptor (top : Byte) (len w15 : Byte) : JobIn :=
  { desc := [0, 0, 0, top] ++ List.replicate 20 0 ++ [len, 0, 0, 0] ++ List.replicate 32 0 ++ [w15, 0, 0, 0], src := List.replicate 16 0xAB }
theorem witness_job_ops : (descriptor 0xBC 0 0).op = 11 ∧ (descriptor 0xBC 0 0).bad = false ∧ 12 ≤ (descriptor 0xFC 0 0).op ∧
    (descriptor 0x0C 16 0).op = 0 ∧ (descriptor 0x3C 16 0).op = 3 ∧ (descriptor 0x4C 16 0).op = 4 ∧ (descriptor 0xA8 16 0).op = 10 := by decide
-- BadDescriptorsEndJobs.
theorem witness_bad_desc : (descriptor 0x08 1 0).last = false ∧ (descriptor 0x08 1 0).len % 16 ≠ 0 ∧ (descriptor 0x1C 1 0).op = 1 ∧
    (descriptor 0x0C 16 1).word 15 ≠ 0 ∧ (descriptor 0xAC 16 0).tagLen < 4 := by decide
theorem witness_slots : (descriptor 0x0C 16 0).first = true ∧ (descriptor 0x0C 16 0).bad = false ∧ (descriptor 0x5C 16 0).op = 5 ∧
    ({} : KeySlot).serves = false ∧ ({ loaded := true, use := 1 } : KeySlot).serves = true ∧
    2 ^ 32 ≤ ({ loaded := true, use := 1, invoc := 2 ^ 32 - 1 } : KeySlot).invoc + 1 ∧ (({ loaded := true, use := 1, invoc := 2 ^ 32 - 2 } : KeySlot).invoc + 1 < 2 ^ 32) := by decide
theorem witness_cmac_part : (descriptor 0x99 16 0).op = 9 ∧ (descriptor 0x99 16 0).last = false ∧ (descriptor 0x99 16 0).bad = false ∧
    (descriptor 0x99 16 0).first = true := by decide
-- StreamModesInvert.
theorem witness_streams :
    let x : JobCtx := { key := List.replicate 16 7, a := List.replicate 16 9 }
    x.key.length = 16 ∧ x.a.length = 16 ∧ (jobWork (descriptor 0x0C 16 0) x).out ≠ (descriptor 0x0C 16 0).data ∧
    ({ descriptor 0x0C 16 0 with src := (jobWork (descriptor 0x0C 16 0) x).out } : JobIn).data = (jobWork (descriptor 0x0C 16 0) x).out := by decide +kernel

/-- Bench 7's tick has ended; on the grid, `n` grid ticks have passed. -/
def due (grid n : Nat) : State :=
  { put pgTime Reg.TIME.STAT_GRID_MODE_A grid with time := { r0.time with tick := BitVec.ofNat 64 n }, boot := { r0.boot with asserted := false } }
-- EdgesCommit.
theorem witness_edges : (due 1 1).gridOn = true ∧ (due 1 1).boot.asserted = false ∧ (due 1 1).edgeDue 7 1344 = true ∧
    (due 0 0).edgeDue 7 1344 = true ∧ (due 0 0).gridOn = false ∧ (due 1 1).edgeDue 7 1343 = false ∧
    (due 1 1).time.realign = none ∧ ((due 1 1).reach (due 1 1).time.nextEdge).time.realign = none := by decide +kernel
theorem witness_realign : ((({ due 1 1 with time := { (due 1 1).time with realign := some 5 } } : State).reach 1280).time.realign) = some 5 ∧
    (0 : Int) ≤ 5 ∧ (-1 : Int) < 0 ∧ (r0.tickAt 7).num.toNat = r0.gridTick := by decide +kernel
-- OverrunFollowsLag.
theorem witness_lag : (due 1 1).lagAt 7 (1344 + 5377) = 5377 ∧ (due 1 1).lagAt 7 1344 = 0 ∧ (due 1 1).lagAt 7 (1344 + 5376) = 5376 ∧
    ((due 1 1).paceEdge 7 (1344 + 5377) 1344).fld pgTime (Reg.TIME.BTICK_STAT_STATE 7) = 3 := by decide +kernel
-- FailuresStopParts.
theorem witness_failures : r0.pins.sharedDown = false ∧ (put pgDev (clkOn 1) 1).flag pgDev (clkOn (teamNo .b)) = true ∧
    r0.flag pgDev (clkOn (teamNo .a)) = false ∧ (({ r0 with team := [(1, { failed := true })] } : State).teamAt 1).failed = true := by decide
-- InterruptTreeStaysSettled.
theorem witness_settled : r0.settled ∧ ∃ t, step r0 = .next t := by
  refine ⟨by unfold State.settled; decide, _, rfl⟩

/-- The last word of the control store: no END, opcode 0xC0, whose dispatch entry does not branch. -/
def endStore : State :=
  { inEngine { pc := 0x3FFF, base := false } with
    image := { words := [(0x3FFF, some (BitVec.ofNat 192 (0xC0 * 2 ^ 184)))], disp := [(0xC0, some 0)] } }
-- FallThroughPastTheEndAborts.
theorem witness_past_end : (endStore.marAt 7).engine 23 = some { pc := 0x3FFF, base := false } ∧
    ({ pc := 0x3FFF, base := false } : Routine).expired = none ∧ (∀ x ∈ endStore.csFinds 7 (wordReads endStore.image 0x3FFF) [], x.2 ≠ .both) ∧
    mw (endStore.image.word 0x3FFF) 181 181 = 0 ∧ wordClocks (endStore.image.word 0x3FFF) false < 640 ∧
    bits (endStore.image.dispatch (mw (endStore.image.word 0x3FFF) 191 184)).toNat 31 31 = 0 := by decide +kernel

/-- A recovery entry that takes any number: valid, vector recovery, history 64, timeout 28. -/
def recovery : Nat := 0xC8 * 2 ^ 120 + 0x038 * 2 ^ 84
-- NoNumberPassesTwice.
theorem witness_passed : (seqDecide recovery 5 100 true).pass = true ∧ seqExpired (seqDecide recovery 5 100 true).entry 32 = false := by decide

/-- Seeds and size of a small table. -/
def small : HSpec := { seeds := [1, 2, 3, 4], per := 8 }
-- DeleteRemovesTheEntry, TablesStaySound.
theorem witness_tables : ({} : HTab).sound small ∧ 0 < small.per ∧ small.per % 2 = 0 ∧ ({ stash := [{ key := [1] }] } : HTab).sound small := by
  refine ⟨⟨?_, ?_, ?_⟩, by decide, by decide, ⟨?_, ?_, ?_⟩⟩
  all_goals simp [HTab.slot, Tab.get]

/-- A state with a command waiting that is no restore. -/
theorem witness_step_tables : r0.tablesSound ∧ r0.lehr.load = false ∧ (∀ x y, r0.pending.head? ≠ some (.restoreDone x y)) ∧
    step { r0 with pending := [.resetPin] } = .next (settle { r0.fullReset 1 with pins := { (r0.fullReset 1).pins with resetLow := true } }) ∧
    ∀ b k, (({ r0 with pending := [.resetPin] } : State).tabsAt b).hget k = (r0.tabsAt b).hget k := by
  refine ⟨fun b k _ h => ?_, rfl, fun x y h => (by cases h), rfl, fun _ _ => rfl⟩
  have e : (r0.tabsAt b).hget k = {} := by
    have d : r0.tabsAt b = {} := rfl
    rw [d]; clear h; cases k <;> first | rfl | simp [TabSt.hget]
  simp [e, HTab.sound, HTab.slot, Tab.get, Tab.wf, Tab.sorted]
-- MemoriesKeepTheirForm.
theorem witness_memories : r0.memoriesWf ∧ goodImage.memoriesWf := by
  unfold State.memoriesWf; decide
/-! ### Small tests: expected results from the spec's examples and from the named standards -/

/-- The three ports of chapter 01's example. -/
theorem test_ports : portBench 301 = 6 ∧ portLocal 301 = 13 ∧ portLane 301 = 171 ∧ portQuad 301 = 42 ∧ portGroup 301 = 24 ∧
    benchTeam (portBench 301) = 1 ∧ portBench 470 = 5 ∧ portLane 470 = 158 ∧ portQuad 470 = 39 ∧ portGroup 470 = 23 ∧
    portLane 400 = 40 ∧ portQuad 400 = 10 ∧ portGroup 400 = 7 ∧ benchTeam (portBench 400) = 0 := by decide
/-- Chapter 02's example: lags 430, 262, 94 and 0, and tick lengths 1,176, 1,176, 1,250 and 1,344. -/
theorem test_overrun :
    let a := (due 1 1).paceEdge 3 1774 1344
    let b := a.paceEdge 3 1176 1344
    let c := b.paceEdge 3 1176 1344
    let d := c.paceEdge 3 1250 1344
    [a, b, c, d].map (fun s => (s.tickAt 3).lag) = [430, 262, 94, 0] ∧
    [a, b, c, d].map (fun s => (s.tickAt 3).len) = [1176, 1176, 1250, 1344] ∧
    d.fld pgTime (Reg.TIME.BTICK_MAXLAG 3) = 430 ∧ d.ctr pgTime (Reg.TIME.LATE_EDGES 3) = 1 := by decide +kernel
/-- Chapter 04's example: the GOOSE routine of port 301, its PMT entries and dispatch entry. -/
def goose : ImageSt :=
  { words := [(0x1000, some 0x81400000000030c44310200000000000000004315c000000), (0x1001, some 0x202481100000000000000000000000000000),
      (0x1002, some 0x8140432807ffb0044000400000000000010904015c000000), (0x1003, some 0x20250090f00006000000011a800000000000),
      (0x1005, some 0x002000000000000000001890000000000000000000000000)],
    disp := [(0x81, some 0xC800100C)],
    pmt := ((List.range 32).map fun k => (k, some 0)) ++ [(32, some (BitVec.ofNat 39 (7 * 2 ^ 36 + 0x8100 * 2 ^ 20 + 0x30 * 2 ^ 14 + 0x1001))),
      (33, some (BitVec.ofNat 39 (7 * 2 ^ 36 + 0x88B8 * 2 ^ 20 + 0x31 * 2 ^ 14 + 0x1003)))] }
/-- The frame's first bytes and length. -/
def gooseStart : Routine :=
  { h := { win := List.replicate 12 0 ++ [0x81, 0x00, 0x80, 0x64, 0x88, 0xB8, 0x30, 0x01] ++ List.replicate 118 0, len := 142 }, base := false, pc := 0x1000 }
theorem test_goose : gooseStart.h.avail = 138 ∧
    (let a := wordEffect goose (goose.word 0x1000) gooseStart
     a.reg 1 = 0x30 ∧ a.hit = true ∧ a.reg 5 = 0x8100 ∧ a.cur = 12 ∧ a.h.lo[1]? = some 12 ∧
       takenAddr (goose.dispatch 0x81) a = some 0x1001 ∧ wordClocks (goose.word 0x1000) false = 2 ∧
     let b := wordEffect goose (goose.word 0x1001) a
     b.reg 2 = 0x8064 ∧ b.cur = 16 ∧
     let c := wordEffect goose (goose.word 0x1002) b
     c.reg 1 = 0x31 ∧ c.reg 5 = 0x88B8 ∧ c.reg 3 = 0x64 ∧ c.h.md[1]? = some 0x8064 ∧ c.h.lo[2]? = some 16 ∧
       takenAddr (goose.dispatch 0x81) c = some 0x1003 ∧
     let d := wordEffect goose (goose.word 0x1003) c
     d.reg 4 = 0x3001 ∧ d.cur = 18 ∧ d.h.lo[7]? = some 18 ∧ d.h.md[3]? = some 0x88B8 ∧ d.key = [0x00, 0x64]) := by decide +kernel
/-- The word 0x1005 as the spec writes it out closes the key with profile 0x12 and ends the routine. -/
theorem test_goose_end : (wordEffect goose (goose.word 0x1005) gooseStart).closed = some 0x12 ∧ mw (goose.word 0x1005) 181 181 = 1 := by decide +kernel
/-- Chapter 10's recovery entry: its words give vector recovery over 64 numbers, any first number, and timeout 28. -/
theorem test_recovery : seqValid recovery = true ∧ seqRecovery recovery = true ∧ seqTakeAny recovery = true ∧ seqHist recovery = 64 ∧
    (seqDecide recovery 0 100 true).pass = true ∧
    (let e := (seqDecide recovery 0 100 true).entry
     (seqDecide e 0 102 true).pass = true ∧ (seqDecide (seqDecide e 0 102 true).entry 0 101 true).pass = true ∧
     (seqDecide (seqDecide e 0 102 true).entry 0 102 true).pass = false ∧ (seqDecide e 0 164 true).rogue = 1 ∧
     seqExpired e 27 = false ∧ seqExpired e 28 = true) := by decide +kernel
/-- Chapter 15's example: a double free on bench 3, sent to vector 5, reaches the driver. -/
def doubleFree : State :=
  let a := (r0.wr (pgBuf 3) 0x014 1).wr (pgBuf 3) 0x008 0x85000000
  settle { (a.wr pgMsix (Reg.MSIX.ADDR_LO 5).off 4 |>.setFld pgMsix (Reg.MSIX.VCTL_MASK 5) 0).raise (pgBuf 3) 0 with
    pcie := { bme := true, msix := true } }
theorem test_double_free : doubleFree.irq.active = 32 ∧ doubleFree.irq.sent = [5] ∧ (doubleFree.readHost 0x050).map (·.1) = some 0x4000 ∧
    ((doubleFree.setFld pgHost Reg.HOST.ISUM_SEL 0x0E).readHost 0x060).map (·.1) = some 8 := by decide +kernel
/-- Chapter 11's example: the SecTAG of the first set-point on port 470. -/
theorem test_sectag :
    ((protect (0xFB480000 * 2 ^ 96 + 0x001B44A005D60001) (0x84B00000 * 2 ^ 96 + 2 ^ 64 + 1) 0 1 (List.replicate 32 0)
      (List.replicate 130 0) true).drop 12 |>.take 16) =
    [0x88, 0xE5, 0x2C, 0x00, 0x00, 0x00, 0x00, 0x01, 0x00, 0x1B, 0x44, 0xA0, 0x05, 0xD6, 0x00, 0x01] := by decide +kernel
/-- FIPS 180-4: the SHA-384 of "abc". -/
theorem test_sha384 : Sign.sha384 [0x61, 0x62, 0x63] =
    0xCB00753F45A35E8BB5A03D699AC65007272C32AB0EDED1631A8B605A43FF5BED8086072BA1E7CC2358BAECA134C825A7 := by decide +kernel
/-- RFC 6979, A.2.6: the signature of "sample" over P-384 with SHA-384 is right, and with another s it is not. -/
theorem test_p384 :
    let good := fun r s => Sign.verify 0xEC3A4E415B4E19A4568618029F427FA5DA9A8BC4AE92E02E06AAE5286B300C64DEF8F0EA9055866064A254515480BC13
      0x8015D9B72D7D57244EA8EF9AC0C621896708A59367F9DFB9F54CA84B3F1C9DB1288B231C3AE0D4FE7344FD2533264720 r s
      (Sign.sha384 [0x73, 0x61, 0x6D, 0x70, 0x6C, 0x65])
    let r := 0x94EDBB92A5ECB8AAD4736E56C691916B3F88140666CE9FA73D64C4EA95AD133C81A648152E44ACF96E36DD1E80FABE46
    let s := 0x99EF4AEB15F178CEA1FE40DB2603138F130E740A19624526203B6351D0A3A94FA329C145786E679E7B82C71A38628AC8
    good r s = true ∧ good r (s + 1) = false := by decide +kernel
/-- FIPS 197, appendix C.1 and C.3. -/
theorem test_aes128 : Aes.enc (Aes.expand ((List.range 16).map (BitVec.ofNat 8))) ((List.range 16).map fun i => BitVec.ofNat 8 (17 * i)) =
    natBE 16 0x69c4e0d86a7b0430d8cdb78070b4c55a := by decide +kernel
theorem test_aes256 : Aes.enc (Aes.expand ((List.range 32).map (BitVec.ofNat 8))) ((List.range 16).map fun i => BitVec.ofNat 8 (17 * i)) =
    natBE 16 0x8ea2b7ca516745bfeafc49904b496089 := by decide +kernel
/-- The zero-key, zero-IV, one-block test of the GCM specification. -/
theorem test_gcm : Aes.gcmCtr (Aes.expand (List.replicate 16 0)) (List.replicate 12 0) (List.replicate 16 0) =
      natBE 16 0x0388dace60b6a392f328c2b971b2fe78 ∧
    Aes.gcmTag (Aes.expand (List.replicate 16 0)) (List.replicate 12 0) [] (natBE 16 0x0388dace60b6a392f328c2b971b2fe78) =
      natBE 16 0xab6e47d42cec13bdf53a67b21257bddf := by decide +kernel
/-- The 54-byte integrity test frame of IEEE 802.1AE's annex, with its 16-byte key: its ICV is right, and its data come through. -/
theorem test_macsec_receive :
    let data : List Byte := natBE 42 0x08000F101112131415161718191A1B1C1D1E1F202122232425262728292A2B2C2D2E2F30313233340001
    let f : List Byte := natBE 12 0xD609B1F056637A0D46DF998D ++ natBE 16 0x88E5222AB2C2846512153524C0895E81 ++ data ++
      natBE 16 0xF09478A9B09007D06F46E9B6A1DA25DD
    unprotect { key := 0xAD7A2BD03EAC835A6F620FDCB506B345, keyLen := 16, iv := natBE 12 0x12153524C0895E81B2C28465, tag := 16 } f =
      (f.take 12 ++ data, true) := by decide +kernel
/-- RFC 4493, example 2. -/
theorem test_cmac : Aes.cmac (Aes.expand (natBE 16 0x2b7e151628aed2a6abf7158809cf4f3c)) (natBE 16 0x6bc1bee22e409f96e93d7e117393172a) =
    natBE 16 0x070a16b46b4d4144f79bdd9dd04a287c := by decide +kernel
/-- The check values of CRC-32 and CRC-32C over the digits 1 to 9. -/
theorem test_crc : crc32 ((List.range 9).map fun i => BitVec.ofNat 8 (0x31 + i)) = 0xCBF43926 ∧
    crc32c ((List.range 9).map fun i => BitVec.ofNat 8 (0x31 + i)) = 0xE3069283 := by decide +kernel
/-- A table takes an entry, finds it, refuses nothing, and loses it again. -/
theorem test_table :
    let r := ({} : HTab).insert small { key := [1, 2], data := 7 }
    (r.tab.find small [1, 2] false).map (·.2.data) = some 7 ∧ (r.tab.delete small [1, 2] false).status = 3 ∧
    (r.tab.delete small [1, 2] false).tab = {} ∧ (r.tab.delete small [9] false).status = 6 := by decide +kernel

end Sys2Proof.Tests
end

section
/-! SUPPORT. The laws of sparse tables, continued. -/

namespace Sys2Proof

/-- What clearing keys leaves: the cleared ones at their defaults, the others as they were. -/
theorem Tab.get_clear {α : Type} (d : Nat → α) (t : Tab α) (p : Nat → Bool) (k : Nat) :
    Tab.get d (t.clear p) k = if p k then d k else Tab.get d t k := by
  unfold Tab.clear
  induction t with
  | nil => cases p k <;> rfl
  | cons e t ih =>
    obtain ⟨j, v⟩ := e
    by_cases hj : j = k
    · subst hj
      cases hp : p j <;> simp [hp, Tab.get, ih]
    · cases hp : p j <;> simp [hp, Tab.get, hj, ih]

end Sys2Proof
end

section
/-! SUPPORT. The rules that the statements about the whole device share: every command ends by settling, what a run of changes
leaves at each place, and what settling and the hubs' answers keep. Then the statements themselves. -/

namespace Sys2Proof.Machine

/-! ### Every command ends by settling -/

/-- Every command's meaning ends by settling the interrupt tree: none stops the device. -/
theorem exec_settles (c : Instr) (s : State) : ∃ u, exec c s = .next (settle u) := by
  cases c <;> exact ⟨_, rfl⟩

/-- Commands whose meanings agree have the same outcome. -/
theorem finish_congr {u v : State} (h : u = v) : finish u = .next (settle v) := by rw [finish, h]

/-- Settles O1: `step` looks at the queue only, and every arm of `exec` ends by settling. -/
theorem stepRunsFrontCommand : Obligations.StepRunsFrontCommand := by
  refine ⟨fun c rest s => rfl, fun s h => ?_, fun c s => ?_⟩
  · rw [step, h]
  · obtain ⟨u, hu⟩ := exec_settles c s
    exact ⟨settle u, hu⟩

/-! ### What reset leaves -/

/-- The factory word of a register's key is the word of its page, offset and window index. -/
theorem factory_rkey {p off w : Nat} (ho : off < 4096) (h4 : off % 4 = 0) (hw : w < 4096) :
    factory (rkey p off w) = BitVec.ofNat 32 (factoryWord p off w) := by
  have hp : rkey p off w / 4096 / 1024 = p := by unfold rkey; omega
  have hoff : rkey p off w / 4096 % 1024 * 4 = off := by unfold rkey; omega
  have hidx : rkey p off w % 4096 = w := by unfold rkey; omega
  rw [factory, hp, hoff, hidx]

/-- INT_STATUS and INT_EN of every page start at 0 (R517). -/
theorem factory_causes {p off : Nat} (hp : p < 0x4000) (h : off = 0x010 ∨ off = 0x014) : factory (rkey p off 0) = 0 := by
  have hlt : off < 0x20 := by omega
  rw [factory_rkey (by omega) (by omega) (by norm_num), factoryWord, if_pos ⟨hlt, hp⟩]
  rcases h with rfl | rfl <;> rfl

/-- No ring starts with an interrupt, so no vector starts active. -/
theorem reset_vectors : State.reset.vectors = 0 := by decide

/-- Settles O2: nothing is listed in the reset state, so every word is the factory's and every counter 0. -/
theorem resetState : Obligations.ResetState := by
  have hset : State.reset.settled := ⟨by rw [reset_vectors]; rfl, rfl⟩
  have hinvalid : State.reset.timeValid = false := by decide
  exact ⟨rfl, hset, hinvalid, rfl, fun p hp => ⟨factory_causes hp (.inl rfl), factory_causes hp (.inr rfl)⟩,
    fun p off w => rfl, rfl, rfl, ⟨rfl, rfl⟩, rfl, rfl, rfl⟩

/-! ### What settling keeps -/

@[simp] theorem settle_resp (s : State) : (settle s).resp = s.resp := by rw [settle_frame]
@[simp] theorem settle_vlatch (s : State) : (settle s).vlatch = s.vlatch := by rw [settle_frame]
@[simp] theorem settle_clatch (s : State) : (settle s).clatch = s.clatch := by rw [settle_frame]
@[simp] theorem settle_dev (s : State) : (settle s).dev = s.dev := by rw [settle_frame]
@[simp] theorem settle_hub (s : State) : (settle s).hub = s.hub := by rw [settle_frame]
@[simp] theorem settle_pins (s : State) : (settle s).pins = s.pins := by rw [settle_frame]
@[simp] theorem settle_pcie (s : State) : (settle s).pcie = s.pcie := by rw [settle_frame]
@[simp] theorem settle_fld (s : State) (p : Nat) (f : Fld) (w : Nat) : (settle s).fld p f w = s.fld p f w :=
  State.fld_congr (settle_regs s) p f w
@[simp] theorem settle_flag (s : State) (p : Nat) (f : Fld) (w : Nat) : (settle s).flag p f w = s.flag p f w :=
  State.flag_congr (settle_regs s) p f w

theorem settle_caused (s : State) (p i : Nat) : (settle s).caused p i ↔ s.caused p i := by
  unfold State.caused; rw [settle_rd]

/-- A counter of another page than HOST reads the same after settling. -/
theorem settle_ctr_page (s : State) {p off w : Nat} (hp : p ≠ pgHost) (ho : off < 4096) (hw : w < 4096) :
    (settle s).ctr p off w = s.ctr p off w := settle_ctr s (rkey_host_ne ho hw hp)

/-- A command that leaves `b` before it settles changes nothing else. -/
theorem touches_settle {b u : State} (P : Nat → Prop) (h : b = u) : Touches b (settle u) P :=
  h ▸ (Touches.refl b P).settle

/-- A raised cause is set. -/
theorem State.caused_raise (s : State) {p i : Nat} (h : i < 32) : (s.raise p i).caused p i := State.raise_bit s p i h

/-! ### Words of one page -/

theorem rkey_ne_word {p off off' w : Nat} (h : off / 4 ≠ off' / 4) : rkey p off w ≠ rkey p off' w := by
  unfold rkey
  omega

/-! ### Changes one after another -/

theorem State.each_range_succ (s : State) (n : Nat) (f : State → Nat → State) :
    s.each (List.range (n + 1)) f = f (s.each (List.range n) f) n := by
  simp [State.each, List.range_succ]

/-- What every change keeps, a run of changes keeps. -/
theorem State.each_keeps {α : Type} {I : State → Prop} {f : State → α → State} (l : List α) :
    ∀ {s : State}, I s → (∀ u x, x ∈ l → I u → I (f u x)) → I (s.each l f) := by
  induction l with
  | nil => intro s hs _; exact hs
  | cons x l ih =>
    intro s hs keep
    exact ih (keep s x (List.mem_cons_self ..) hs) fun u y hy => keep u y (List.mem_cons_of_mem _ hy)

/-- A run of changes that each fill a place of their own fills every place: place `i` reads as change `i` left it. `I` is what
the changes rely on. -/
theorem State.each_range_get {β : Type} {I : State → Prop} {f : State → Nat → State} {get : State → Nat → β} {val : Nat → β}
    (keep : ∀ u i, I u → I (f u i)) (same : ∀ u i, I u → get (f u i) i = val i)
    (other : ∀ u i j, j ≠ i → get (f u i) j = get u j) {s : State} (hs : I s) :
    ∀ n i, i < n → get (s.each (List.range n) f) i = val i := by
  intro n
  induction n with
  | zero => intro i hi; exact absurd hi (Nat.not_lt_zero i)
  | succ n ih =>
    intro i hi
    rw [State.each_range_succ]
    by_cases h : i = n
    · subst h
      exact same _ _ (State.each_keeps _ hs fun u x _ => keep u x)
    · rw [other _ _ _ h]
      exact ih i (by omega)

/-! ### Pages of the shared half, and words that a read latches -/

/-- An access to a page of the shared hub changes no hub. -/
theorem State.hubAnswered_shared {s : State} {p : Nat} (h : pageTeam p = none) : s.hubAnswered p = s := by
  rw [State.hubAnswered, h]

/-- A read of a page of the shared hub that takes it. -/
theorem State.hostRead_shared {s : State} {p : Nat} (hk : (pageKind p).isSome = true) (ht : pageTeam p = none)
    (h : s.takes p) (f : State → W32 × State) : s.hostRead p f = State.respond (f s) := by
  rw [State.hostRead_takes hk h, State.hubAnswered_shared ht]

/-- A latched word. -/
def State.latched (s : State) (p off : Nat) : W32 := Tab.get (fun _ => (0 : W32)) s.vlatch (rkey p off 0)

@[simp] theorem State.latched_latch_same (s : State) (p off : Nat) (v : W32) : (s.latch p off v).latched p off = v :=
  Tab.get_set_same _ _ _ _

theorem State.latched_latch_ne (s : State) {p off off' : Nat} (v : W32) (h : rkey p off' 0 ≠ rkey p off 0) :
    (s.latch p off v).latched p off' = s.latched p off' := Tab.get_set_ne _ _ _ h

/-! ### The ledger (R472, R473) -/

theorem ledger_key_ne {p i j : Nat} (h : j ≠ i) : rkey p (Reg.PWRD.LEDGER j).off 0 ≠ rkey p (Reg.PWRD.LEDGER i).off 0 := by
  apply rkey_ne_word
  simp only [Reg.PWRD.LEDGER]
  omega

/-- Reading LEDGER0 latches each of the others as it stands. -/
theorem State.ledgerLatch_latched (s : State) {i : Nat} (h : i < 7) :
    s.ledgerLatch.2.latched pgDev (Reg.PWRD.LEDGER (i + 1)).off = s.rd pgDev (Reg.PWRD.LEDGER (i + 1)).off := by
  refine State.each_range_get (I := fun u => u.regs = s.regs)
    (get := fun u i => u.latched pgDev (Reg.PWRD.LEDGER (i + 1)).off)
    (val := fun i => s.rd pgDev (Reg.PWRD.LEDGER (i + 1)).off) ?_ ?_ ?_ rfl 7 i h
  · exact fun u i hu => hu
  · intro u i hu
    rw [State.latched_latch_same, State.rd_congr hu]
  · exact fun u i j hne => State.latched_latch_ne _ _ (ledger_key_ne (by omega))

/-- Reading LEDGER0 changes nothing but latched words. -/
theorem State.ledgerLatch_frame (s : State) : s.ledgerLatch.2 = { s with vlatch := s.ledgerLatch.2.vlatch } :=
  State.each_keeps (I := fun u => u = { s with vlatch := u.vlatch }) _ rfl
    fun u i _ hu => congrArg (fun x : State => { x with vlatch :=
      (u.latch pgDev (Reg.PWRD.LEDGER (i + 1)).off (u.rd pgDev (Reg.PWRD.LEDGER (i + 1)).off)).vlatch }) hu

/-- The record of a period: LEDGER0 to LEDGER7 (R472). -/
def ledgerWords (ea eb es : Nat) (s : State) : List Nat :=
  let bits := s.dev.bitsA + s.dev.bitsB
  let sat := [ea, eb, es, s.dev.bitsA, s.dev.bitsB].any fun n => decide (0xFFFFFFFF < n)
  let overflow := decide (bits ≠ 0 ∧ 0xFFFFFFFF < (ea + eb + es) * 100000 * 65536 / bits)
  [s.gridTick % 2 ^ 32, sat32 ea, sat32 eb, sat32 es, sat32 s.dev.bitsA, sat32 s.dev.bitsB, pjPerBit (ea + eb + es) bits,
    2 ^ 31 + b2n (sat || overflow) * 2 ^ 30 + b2n s.dev.freeTicks * 2 ^ 29 + s.dev.st]

/-- A period's record goes to the ledger ring at `a` and to the LEDGER registers. -/
def State.putLedger (s : State) (a : Nat) (w : List Nat) : State :=
  s.each (List.range 8) fun s k =>
    (s.setLehrWord (a + 4 * k) (w[k]?.getD 0)).wr pgDev (Reg.PWRD.LEDGER k).off (BitVec.ofNat 32 (w[k]?.getD 0))

/-- A team's page takes its energy, its bits and its energy per bit. -/
def State.putTeamLedger (s : State) (t e b : Nat) : State :=
  ((s.wr (pgPwr t) Reg.PWRT.T_E.off (BitVec.ofNat 32 (sat32 e))).wr (pgPwr t) Reg.PWRT.T_BITS.off
    (BitVec.ofNat 32 (sat32 b))).wr (pgPwr t) Reg.PWRT.T_PJPB.off (BitVec.ofNat 32 (pjPerBit e b))

/-- The rest of a period's end that began in `s`: a full ring counts, and the bit counts start again. -/
def State.nextPeriod (s u : State) : State :=
  let v := if s.dev.ledHeld = 64 then u.bump pgDev Reg.PWRD.LEDGER_OVERWRITTEN else u
  { v with dev := { v.dev with
    ledPos := (s.dev.ledPos + 1) % 64, ledHeld := min 64 (s.dev.ledHeld + 1), bitsA := 0, bitsB := 0, freeTicks := !s.gridOn } }

theorem State.nextPeriod_regs (s u : State) : (s.nextPeriod u).regs = u.regs := by
  unfold State.nextPeriod
  split <;> rfl

/-- A period's end: the record, new bit counts, the teams' pages, and the cause. -/
theorem ledgerPeriodEnd_eq {s : State} (ea eb es : Nat) (h : s.gridTick % 1024 = 0) :
    ledgerPeriodEnd ea eb es s =
      (((s.nextPeriod (s.putLedger (0x131000 + 32 * (s.dev.ledPos % 64)) (ledgerWords ea eb es s))).putTeamLedger 0 ea
        s.dev.bitsA).putTeamLedger 1 eb s.dev.bitsB).raise pgDev 7 := by
  have due : ¬ s.gridTick % 1024 ≠ 0 := by omega
  unfold ledgerPeriodEnd
  rw [if_neg due]
  rfl

theorem State.putLedger_rd (s : State) (a : Nat) (w : List Nat) {k : Nat} (h : k < 8) :
    (s.putLedger a w).rd pgDev (Reg.PWRD.LEDGER k).off = BitVec.ofNat 32 (w[k]?.getD 0) := by
  refine State.each_range_get (I := fun _ => True) (get := fun u i => u.rd pgDev (Reg.PWRD.LEDGER i).off)
    (val := fun i => BitVec.ofNat 32 (w[i]?.getD 0)) ?_ ?_ ?_ trivial 8 k h
  · exact fun _ _ _ => trivial
  · exact fun u i _ => State.rd_wr_same _ _ _ _ _
  · exact fun u i j hne => State.rd_wr_ne _ _ _ _ _ (ledger_key_ne hne)

/-- A team's page changes no other page. -/
theorem State.putTeamLedger_rd_page (s : State) (t e b : Nat) {p off w : Nat} (hp : p ≠ pgPwr t) (ho : off < 4096)
    (hw : w < 4096) : (s.putTeamLedger t e b).rd p off w = s.rd p off w := by
  have key {o : Nat} (h : o < 4096) : rkey p off w ≠ rkey (pgPwr t) o 0 := rkey_ne_page ho h hw (by norm_num) hp
  rw [State.putTeamLedger, State.rd_wr_ne _ _ _ _ _ (key (by decide)), State.rd_wr_ne _ _ _ _ _ (key (by decide)),
    State.rd_wr_ne _ _ _ _ _ (key (by decide))]

theorem State.putTeamLedger_energy (s : State) (t e b : Nat) :
    (s.putTeamLedger t e b).rd (pgPwr t) Reg.PWRT.T_E.off = BitVec.ofNat 32 (sat32 e) := by
  rw [State.putTeamLedger, State.rd_wr_ne _ _ _ _ _ (rkey_ne_word (by decide)),
    State.rd_wr_ne _ _ _ _ _ (rkey_ne_word (by decide)), State.rd_wr_same]

theorem State.putTeamLedger_bits (s : State) (t e b : Nat) :
    (s.putTeamLedger t e b).rd (pgPwr t) Reg.PWRT.T_BITS.off = BitVec.ofNat 32 (sat32 b) := by
  rw [State.putTeamLedger, State.rd_wr_ne _ _ _ _ _ (rkey_ne_word (by decide)), State.rd_wr_same]

/-- Raising a cause leaves every word past the common registers. -/
theorem State.rd_raise_past (s : State) (p i : Nat) {p' off w : Nat} (ho : off < 4096) (hw : w < 4096) (h : 0x20 ≤ off) :
    (s.raise p i).rd p' off w = s.rd p' off w :=
  State.rd_raise_ne _ _ _ (rkey_ne_off hw (by norm_num) ho (by norm_num) (by omega))

/-- LEDGER0 to LEDGER7 take the period's record. -/
theorem ledgerPeriodEnd_record {s : State} (ea eb es : Nat) (h : s.gridTick % 1024 = 0) {k : Nat} (hk : k < 8) :
    (ledgerPeriodEnd ea eb es s).rd pgDev (Reg.PWRD.LEDGER k).off =
      BitVec.ofNat 32 ((ledgerWords ea eb es s)[k]?.getD 0) := by
  have hoff : (Reg.PWRD.LEDGER k).off = 0x200 + k * 4 := rfl
  rw [ledgerPeriodEnd_eq ea eb es h, State.rd_raise_past _ _ _ (by omega) (by norm_num) (by omega),
    State.putTeamLedger_rd_page _ _ _ _ (by decide) (by omega) (by norm_num),
    State.putTeamLedger_rd_page _ _ _ _ (by decide) (by omega) (by norm_num), State.rd_congr (State.nextPeriod_regs _ _),
    State.putLedger_rd _ _ _ hk]

/-! ### The refusal log (R471) -/

theorem State.refLogPop_empty {s : State} (h : s.dev.unread = 0) :
    s.refLogPop = (0, s.latch pgDev Reg.PWRD.REF_LOG1.off 0) := if_pos h

/-- The oldest of `n + 1` unread refusals gives its two words and is read. -/
theorem State.refLogPop_unread {s : State} {n : Nat} (h : s.dev.unread = n + 1) :
    s.refLogPop = (BitVec.ofNat 32 (s.lehrWord (0x130000 + 8 * ((s.dev.logPos + 64 - (n + 1)) % 64))),
      { s.latch pgDev Reg.PWRD.REF_LOG1.off
          (BitVec.ofNat 32 (s.lehrWord (0x130000 + 8 * ((s.dev.logPos + 64 - (n + 1)) % 64) + 4))) with
        dev := { s.dev with unread := n } }) := by
  have hne : ¬ s.dev.unread = 0 := by omega
  unfold State.refLogPop
  rw [if_neg hne, h]
  rfl

/-- Settles O22: the period's end writes each word of its record to a register of its own; the reads latch. -/
theorem ledgerAndRefusalLog : Obligations.LedgerAndRefusalLog := by
  have shared {s : State} (h : s.takes pgDev) (f : State → W32 × State) :
      s.hostRead pgDev f = State.respond (f s) := State.hostRead_shared rfl rfl h f
  refine ⟨fun s ea eb es htick => ?_, fun s h => ?_, fun s h => ⟨fun hempty => ?_, fun n hn => ?_⟩⟩
  · refine ⟨settle (ledgerPeriodEnd ea eb es s), rfl, ?_⟩
    simp only [settle_rd, settle_dev, settle_caused]
    refine ⟨fun k hk => ?_, ?_⟩
    · rw [ledgerPeriodEnd_record ea eb es htick (by omega)]
      interval_cases k <;> rfl
    · have past {t : State} {p off : Nat} (ho : off < 4096) (h : 0x20 ≤ off) : (t.raise pgDev 7).rd p off = t.rd p off :=
        State.rd_raise_past _ _ _ ho (by norm_num) h
      have apart {t : State} {e b off : Nat} (ho : off < 4096) :
          (t.putTeamLedger 1 e b).rd (pgPwr 0) off = t.rd (pgPwr 0) off :=
        State.putTeamLedger_rd_page _ _ _ _ (by decide) ho (by norm_num)
      rw [ledgerPeriodEnd_eq ea eb es htick, past (by decide) (by decide), past (by decide) (by decide),
        past (by decide) (by decide), past (by decide) (by decide), apart (by decide), apart (by decide),
        State.putTeamLedger_energy, State.putTeamLedger_energy, State.putTeamLedger_bits, State.putTeamLedger_bits]
      exact ⟨rfl, rfl, rfl, rfl, rfl, rfl, State.caused_raise _ (by norm_num)⟩
  · refine ⟨settle (s.hostRead pgDev State.ledgerLatch), rfl, ?_⟩
    rw [shared h]
    refine ⟨settle_resp _, fun i hi => ?_, touches_settle _ ?_⟩
    · rw [settle_vlatch]
      exact State.ledgerLatch_latched s hi
    · rw [settle_resp, settle_vlatch]
      exact congrArg (fun u : State => { u with resp := [s.rd pgDev (Reg.PWRD.LEDGER 0).off] })
        (State.ledgerLatch_frame s).symm
  · refine ⟨settle (s.hostRead pgDev State.refLogPop), rfl, ?_⟩
    rw [shared h, State.refLogPop_empty hempty]
    refine ⟨settle_resp _, ?_, touches_settle _ ?_⟩
    · rw [settle_vlatch]
      exact State.latched_latch_same s pgDev Reg.PWRD.REF_LOG1.off 0
    · rw [settle_resp, settle_vlatch]
      rfl
  · refine ⟨settle (s.hostRead pgDev State.refLogPop), rfl, ?_⟩
    rw [shared h, State.refLogPop_unread hn]
    refine ⟨settle_resp _, settle_dev _, ?_, touches_settle _ ?_⟩
    · rw [settle_vlatch]
      exact State.latched_latch_same _ _ _ _
    · rw [settle_resp, settle_vlatch, settle_dev]
      rfl


/-! ### Register writes (R12, R15, R513, R516 to R518) -/

/-- A whole word of a PCIe write to a page of BAR0 that takes it reaches the page. -/
theorem registerWrite_takes {s : State} {p : Fin 16448} (w : Fin 1024) (v : W32) (hp : p.val < 16384)
    (hk : (pageKind p).isSome = true) (h : s.takes p) :
    registerWrite (.word p w) v true s = (s.hubAnswered p).writeWord p (4 * w) v := by
  obtain ⟨hd3, hhost, -⟩ := State.takes_answers h
  have hbar0 : ¬ 0x4000 ≤ p.val := by omega
  simp [registerWrite, hhost, hd3, State.busWrite, hbar0, hk, State.wordWrite_takes h]

/-- A write to a common register of a page goes by its offset alone. -/
theorem State.writeWord_common (s : State) (p : Nat) {off : Nat} (v : W32) (h : off < 0x20) :
    s.writeWord p off v = s.writeCommon p off v := if_pos h

/-- A word written at `off` of page `p` leaves every word of another page or another word's offset. -/
theorem State.rd_wr_elsewhere (s : State) {p off q o w : Nat} (v : W32) (hoff : off < 4096) (h4 : off % 4 = 0)
    (ho : o < 4096) (hw : w < 4096) (h : q ≠ p ∨ o ≠ off ∧ o % 4 = 0) : (s.wr p off v).rd q o w = s.rd q o w := by
  refine State.rd_wr_ne _ _ _ _ _ ?_
  rcases h with h | ⟨hne, ho4⟩
  · exact rkey_ne_page ho hoff hw (by norm_num) h
  · exact rkey_ne_off hw (by norm_num) ho hoff (by omega)

/-- INT_FORCE changes its page only. -/
theorem State.intForce_touches (s : State) (p : Nat) (v : W32) : Touches s (s.intForce p v) (· = p) :=
  (Touches.refl s _).wr p 0x010 _ 0 rfl (by norm_num) (by norm_num)

/-- The page's ·L values go through to the lehr as WITHHOLD goes to 0 (R518). -/
theorem State.lehrCtrl_release {s : State} {p : Nat} (h : s.flag p Reg.COMMON.WITHHOLD = true) :
    s.lehrCtrl p 0 = (s.setFld p Reg.COMMON.WITHHOLD 0).each (lehrWords p) fun s x => s.through p x.1 x.2 := by
  have hoff : bit (0 : W32).toNat 31 = false := by decide
  unfold State.lehrCtrl
  rw [h, hoff]
  rfl

/-- Settles O23: a page that takes the access has the write, and its common registers take it by their offsets. -/
theorem registerWritesReachPages : Obligations.RegisterWritesReachPages := by
  have run {s : State} {p : Fin 16448} (w : Fin 1024) (v : W32) (hp : p.val < 16384) (hk : (pageKind p).isSome = true)
      (h : s.takes p) : exec (.registerWrite (.word p w) v true) s =
        .next (settle ((s.hubAnswered p).writeWord p (4 * w) v)) :=
    finish_congr (registerWrite_takes w v hp hk h)
  refine ⟨fun s p w v hp hk h => run w v hp hk h, fun s p v hp hk h => ⟨?_, ?_, ?_, ?_⟩, fun s p w v hhost hd3 => ?_,
    fun s p v hk h => ⟨?_, fun hwith => ?_⟩⟩
  · refine ⟨_, run 4 v hp hk h, ?_, fun q off w ho hw hne => ?_⟩
    · rw [settle_rd]
      exact (State.rd_wr_same _ _ _ _ _).trans (by rw [State.hubAnswered_rd]; rfl)
    · rw [settle_rd]
      exact (State.rd_wr_elsewhere _ _ (by norm_num) (by norm_num) ho hw hne).trans (State.hubAnswered_rd ..)
  · refine ⟨_, run 5 v hp hk h, ?_, fun q off w ho hw hne => ?_⟩
    · rw [settle_rd]
      exact State.rd_wr_same _ _ _ _ _
    · rw [settle_rd]
      exact (State.rd_wr_elsewhere _ _ (by norm_num) (by norm_num) ho hw hne).trans (State.hubAnswered_rd ..)
  · exact run 0 v hp hk h
  · exact run 1 v hp hk h
  · refine finish_congr ?_
    simp [registerWrite, hhost, hd3]
  · have force : intForceWrite p v s = (s.hubAnswered p).intForce p v := by
      rw [intForceWrite, if_pos hk, State.wordWrite_takes h]
    refine ⟨settle (intForceWrite p v s), rfl, ?_, ?_⟩
    · rw [settle_rd, force, State.intForce, State.rd_wr_same, State.hubAnswered_rd]
    · rw [force]
      exact (State.intForce_touches _ _ _).settle
  · refine finish_congr ?_
    rw [withholdRelease, if_pos hk, State.wordWrite_takes h]
    exact State.lehrCtrl_release (by rw [State.hubAnswered_flag, hwith])

/-! ### Reads that latch a counter's high word (R519) -/

/-- A word read of a page of BAR0 over PCIe, at a page that takes it. -/
theorem readAt_takes {s : State} {p : Nat} (off : Nat) (hp : p < 0x4000) (hk : (pageKind p).isSome = true) (h : s.takes p) :
    s.readAt .pcie p off = State.respond ((s.hubAnswered p).readWord .pcie p off) := by
  unfold State.readAt State.pathRead
  dsimp only
  rw [if_pos hp, State.wordRead_takes hk h]

theorem pageKind_isSome_of_rowAt {p off : Nat} {x : RegRow × Nat} (h : rowAt p off = some x) : (pageKind p).isSome = true := by
  unfold rowAt at h
  split at h
  · cases h
  · next k hk => rw [hk]; rfl

/-- A live counter reads its value. -/
theorem State.counterNow_live {s : State} {p off w : Nat} {direct : Bool}
    (h : direct = false ∨ s.flag p Reg.COMMON.SNAP_READ = false) :
    s.counterNow p off w direct = ((s.ctr p off w).toNat, s) := by
  refine if_neg ?_
  rcases h with h | h <;> simp [h]

/-- The state after the low word of counter `off`, `w` is read over PCIe: its high word is latched. -/
def State.latchHigh (s : State) (p off w : Nat) : State :=
  let high : W32 := BitVec.ofNat 32 ((s.ctr p off w).toNat / 2 ^ 32)
  { s with clatch := Tab.set (fun _ => none) s.clatch (2 * p) (some (rkey p off w, high)) }

/-- A live counter's low word is read, and its high word latched. -/
theorem State.counterLow_live {s : State} {p off w : Nat} {direct : Bool}
    (h : direct = false ∨ s.flag p Reg.COMMON.SNAP_READ = false) :
    s.counterLow .pcie p off w direct = (BitVec.ofNat 32 (s.ctr p off w).toNat, s.latchHigh p off w) := by
  unfold State.counterLow
  rw [State.counterNow_live h]
  rfl

/-- A word that begins a counter reads as the counter's low word. -/
theorem State.readWord_counter {s : State} {p off : Nat} {r : RegRow} {i : Nat} (hp : p < 0x4000)
    (hrow : rowAt p off = some (r, i)) (hcnt : r.cnt = true) (hbase : r.off + i * r.stride = off) (hwin : winOf p off = none)
    (path : Path) : s.readWord path p off = s.counterLow path p off 0 r.direct := by
  have hbar0 : ¬ 0x4000 ≤ p := by omega
  have hpast : 0x20 ≤ off := rowAt_past_common hp hrow
  have hnotStat : ¬ off = 0x00C := by omega
  have hnotCommon : ¬ off < 0x20 := by omega
  have hidx : s.winIndex p off = some 0 := by rw [State.winIndex, hwin]
  have hread : s.counterRead path p off = some (s.counterLow path p off 0 r.direct) := by
    simp [State.counterRead, hrow, hcnt, hidx, hbase]
  rw [State.readWord, if_neg hbar0, if_neg hnotStat, if_neg hnotCommon, hrow, hidx]
  simp [hcnt, hwin, hread]

theorem State.latchHigh_clatch (s : State) (p off w : Nat) : Tab.get (fun _ => none) (s.latchHigh p off w).clatch (2 * p) =
    some (rkey p off w, BitVec.ofNat 32 ((s.ctr p off w).toNat / 2 ^ 32)) := by
  rw [State.latchHigh, Tab.get_set_same]

/-- What a read of a live counter's low word leaves: the answer, the latch, and nothing else. -/
theorem counterLow_outcome {s u : State} {p off w : Nat} {direct : Bool}
    (hu : u = State.respond ((s.hubAnswered p).counterLow .pcie p off w direct))
    (live : direct = false ∨ s.flag p Reg.COMMON.SNAP_READ = false) :
    (settle u).resp = [BitVec.ofNat 32 (s.ctr p off w).toNat] ∧
      Tab.get (fun _ => none) (settle u).clatch (2 * p) =
        some (rkey p off w, BitVec.ofNat 32 ((s.ctr p off w).toNat / 2 ^ 32)) ∧
      Touches { s.hubAnswered p with resp := (settle u).resp, clatch := (settle u).clatch } (settle u) (fun _ => False) := by
  rw [State.counterLow_live (by rwa [State.hubAnswered_flag]), State.hubAnswered_ctr] at hu
  subst hu
  refine ⟨settle_resp _, ?_, touches_settle _ ?_⟩
  · rw [settle_clatch]
    exact ((s.hubAnswered p).latchHigh_clatch p off w).trans (by rw [State.hubAnswered_ctr])
  · rw [settle_resp, settle_clatch]
    rfl

/-! ### Registers that record an extreme (R13) -/

/-- What a register records an extreme of does not depend on the hubs. -/
theorem State.extreme_hubAnswered (s : State) (p : Nat) (x : Extreme) : (s.hubAnswered p).extreme x = s.extreme x := by
  rw [State.hubAnswered_frame]
  cases x <;> rfl

theorem pageKind_bench : ∀ b : BenchId, (pageKind (pgMarver b)).isSome = true ∧ (pageKind (pgBuf b)).isSome = true ∧
    (pageKind (pgCore b)).isSome = true := by decide

/-- The registers that record an extreme stand on pages. -/
theorem State.extreme_page (s : State) (x : Extreme) : (pageKind (s.extreme x).1).isSome = true := by
  obtain b | ⟨b, i⟩ | b | t := x
  · show (pageKind pgTime).isSome = true
    rfl
  · exact (pageKind_bench b).2.1
  · exact (pageKind_bench b).2.2
  · show (pageKind (pgHalf (teamNo t))).isSome = true
    cases t <;> rfl

/-- Settles O24: each read goes to the page's counter or extreme, past an answering hub. -/
theorem counterReadsLatch : Obligations.CounterReadsLatch := by
  refine ⟨fun s p w r i hp h hrow hcnt hbase hwin hsnap => ?_, fun s b h => ?_, fun s k h => ?_, fun s x h => ?_⟩
  · refine ⟨settle (counterLowRead .pcie p w s), rfl, counterLow_outcome (direct := r.direct) ?_ (.inr hsnap)⟩
    rw [counterLowRead, readAt_takes _ hp (pageKind_isSome_of_rowAt hrow) h,
      State.readWord_counter hp hrow hcnt hbase hwin]
  · have hk : (pageKind (pgMarver b)).isSome = true := (pageKind_bench b).1
    refine ⟨settle (ucntLoRead b s), rfl, counterLow_outcome ?_ (.inl rfl)⟩
    rw [ucntLoRead, State.wordRead_takes hk h, State.ucntLow, State.hubAnswered_fld]
  · have hk : (pageKind (pgCore (4 * teamNo k))).isSome = true := by cases k <;> rfl
    refine ⟨settle (brdropLoRead k s), rfl, counterLow_outcome ?_ (.inl rfl)⟩
    rw [brdropLoRead, State.wordRead_takes hk h, State.brdropLow, State.hubAnswered_fld]
  · refine finish_congr ?_
    rw [rcExtremeRead, State.wordRead_takes (s.extreme_page x) h, State.extremeRead, State.extreme_hubAnswered]
    dsimp only
    rw [State.hubAnswered_rd]
    rfl

/-! ### A hub that does not answer (R32, R526) -/

/-- What the shared hub counts as it completes an access: a timeout, and a discarded write. -/
def State.hubCounted (s : State) (write : Bool) : State :=
  (s.bump pgHost Reg.HOST.HUB_TIMEOUTS).ifDo write fun u => u.bump pgHost Reg.HOST.HUB_WR_DISCARD

/-- A hub whose absence is reported is not reported again. -/
theorem State.hubMissing_again {s : State} {k : Nat} (write : Bool) (h : s.hub.reported.contains k = true) :
    s.hubMissing k write = s.hubCounted write := by
  cases write <;> exact if_pos h

/-- The first access that a hub does not answer reports it with HOST cause 0. -/
theorem State.hubMissing_first {s : State} {k : Nat} (write : Bool) (h : s.hub.reported.contains k = false) :
    s.hubMissing k write =
      { s.hubCounted write with hub := { s.hub with reported := k :: s.hub.reported } }.raise pgHost 0 := by
  have hne : ¬ s.hub.reported.contains k = true := by rw [h]; exact Bool.false_ne_true
  cases write <;> exact if_neg hne

theorem State.hubCounted_resp (s : State) (write : Bool) : (s.hubCounted write).resp = s.resp := by cases write <;> rfl
theorem State.hubCounted_hub (s : State) (write : Bool) : (s.hubCounted write).hub = s.hub := by cases write <;> rfl

theorem State.hubCounted_timeouts (s : State) (write : Bool) : (s.hubCounted write).ctr pgHost Reg.HOST.HUB_TIMEOUTS =
    s.ctr pgHost Reg.HOST.HUB_TIMEOUTS + 1 := by
  have counted : (s.bump pgHost Reg.HOST.HUB_TIMEOUTS).ctr pgHost Reg.HOST.HUB_TIMEOUTS =
    s.ctr pgHost Reg.HOST.HUB_TIMEOUTS + 1 := State.ctr_addCtr_same _ _ _ _ _
  cases write with
  | false => exact counted
  | true => exact (State.ctr_addCtr_ne _ _ _ _ _ (rkey_ne_word (by decide))).trans counted

theorem State.hubCounted_discards (s : State) (write : Bool) : (s.hubCounted write).ctr pgHost Reg.HOST.HUB_WR_DISCARD =
    s.ctr pgHost Reg.HOST.HUB_WR_DISCARD + BitVec.ofNat 64 (b2n write) := by
  have apart : (s.bump pgHost Reg.HOST.HUB_TIMEOUTS).ctr pgHost Reg.HOST.HUB_WR_DISCARD =
    s.ctr pgHost Reg.HOST.HUB_WR_DISCARD := State.ctr_addCtr_ne _ _ _ _ _ (rkey_ne_word (by decide))
  cases write with
  | false => exact apart.trans (BitVec.add_zero _).symm
  | true => exact (State.ctr_addCtr_same _ _ _ _ _).trans (by rw [apart]; rfl)

/-- The access is completed, the hub stands reported, and the first report raises HOST cause 0. -/
theorem State.hubMissing_spec (s : State) (k : Nat) (write : Bool) :
    (s.hubMissing k write).resp = s.resp ∧ (s.hubMissing k write).ctrs = (s.hubCounted write).ctrs ∧
      k ∈ (s.hubMissing k write).hub.reported ∧
      (s.hub.reported.contains k = false → (s.hubMissing k write).caused pgHost 0) := by
  cases h : s.hub.reported.contains k with
  | true =>
    rw [State.hubMissing_again write h, State.hubCounted_hub]
    exact ⟨State.hubCounted_resp .., rfl, List.contains_iff_mem.1 h, fun c => absurd c (by decide)⟩
  | false =>
    rw [State.hubMissing_first write h]
    exact ⟨State.hubCounted_resp .., rfl, List.mem_cons_self .., fun _ => State.caused_raise _ (by norm_num)⟩

/-- An access that the host makes and team hub `t` does not answer (R32): `stays` says whether the hub is faulty from now on. -/
theorem hubTimeout_eq {s : State} (t : Team) (write stays : Bool) (hd3 : s.pcie.d3 = false) (hhost : s.hostGone = false) :
    hubTimeout t write stays s =
      { s.hubMissing (teamNo t) write with
        hub := { (s.hubMissing (teamNo t) write).hub with
          faulty := if stays then teamNo t :: s.hub.faulty.filter (· != teamNo t) else s.hub.faulty.filter (· != teamNo t) }
        resp := if write then (s.hubMissing (teamNo t) write).resp else [0xFFFFFFFF] } := by
  unfold hubTimeout
  simp [hd3, hhost]

/-- A hub is among the faulty ones exactly where it stays so. -/
theorem mem_faulty_iff (k : Nat) (f : List Nat) (stays : Bool) :
    k ∈ (if stays then k :: f.filter (· != k) else f.filter (· != k)) ↔ stays = true := by
  cases stays <;> simp

/-! ### The endpoint resets (R479, R533, R399) -/

theorem rkey_page {p off w : Nat} (ho : off < 4096) (hw : w < 4096) : rkey p off w / 4096 / 1024 = p := by
  unfold rkey
  omega

theorem State.clearPages_rd (s : State) (f : Nat → Bool) {p off w : Nat} (ho : off < 4096) (hw : w < 4096) :
    (s.clearPages f).rd p off w = if f p then factory (rkey p off w) else s.rd p off w := by
  simp only [State.rd, State.clearPages, Tab.get_clear, rkey_page ho hw]

theorem State.clearPages_ctr (s : State) (f : Nat → Bool) {p off w : Nat} (ho : off < 4096) (hw : w < 4096) :
    (s.clearPages f).ctr p off w = if f p then 0 else s.ctr p off w := by
  simp only [State.ctr, State.clearPages, Tab.get_clear, rkey_page ho hw, zeroCtr]

/-- The endpoint and its blocks take their reset values. -/
def State.clearEndpoint (s : State) : State :=
  let t := s.clearPages fun p => decide (0x4000 ≤ p)
  { t with pcie := {}, ring := t.ring.clear fun k => decide (k < 32), irq := { t.irq with pba := 0 } }

/-- Every job queue is disabled. -/
def State.disableJobs (s : State) : State :=
  s.each (List.range 64) fun s k => s.setFld (pgCiph (k / 16)) (Reg.CIPH.JQ_CFG_EN (k % 16)) 0

theorem State.disableJobs_off (s : State) {k : Nat} (h : k < 64) :
    s.disableJobs.flag (pgCiph (k / 16)) (Reg.CIPH.JQ_CFG_EN (k % 16)) = false := by
  refine State.each_range_get (I := fun _ => True)
    (get := fun u k => u.flag (pgCiph (k / 16)) (Reg.CIPH.JQ_CFG_EN (k % 16))) (val := fun _ => false) ?_ ?_ ?_ trivial 64 k h
  · exact fun _ _ _ => trivial
  · intro u i _
    unfold State.flag
    rw [State.fld_setFld_same _ _ _ _ _ (le_refl 31) (by decide : 31 < 32)]
    rfl
  · intro u i j hne
    unfold State.flag
    rw [State.fld_setFld_other]
    simp only [rkey, pgCiph, Reg.CIPH.JQ_CFG_EN]
    omega

theorem State.disableJobs_frame (s : State) : s.disableJobs = { s with regs := s.disableJobs.regs } :=
  State.each_keeps (I := fun u => u = { s with regs := u.regs }) _ rfl fun u k _ hu =>
    congrArg (fun x : State => { x with regs := (u.setFld (pgCiph (k / 16)) (Reg.CIPH.JQ_CFG_EN (k % 16)) 0).regs }) hu

/-- Disabling the job queues writes the clusters' pages only. -/
theorem State.disableJobs_rd (s : State) {p off w : Nat} (hp : 0x4000 ≤ p) (ho : off < 4096) (hw : w < 4096) :
    s.disableJobs.rd p off w = s.rd p off w := by
  refine State.each_keeps (I := fun u => u.rd p off w = s.rd p off w) _ rfl fun u k hk hu => ?_
  have hlt : k < 64 := List.mem_range.1 hk
  have hoff : (Reg.CIPH.JQ_CFG_EN (k % 16)).off < 4096 := by simp only [Reg.CIPH.JQ_CFG_EN]; omega
  have hpage : p ≠ pgCiph (k / 16) := by unfold pgCiph; omega
  exact (State.rd_wr_ne _ _ _ _ _ (rkey_ne_page ho hoff hw (by norm_num) hpage)).trans hu

/-- A change of a buffer manager adds to what has changed since `s` nothing but buffer managers. -/
theorem State.onBuf_frame {s u : State} (b : Nat) (g : BufSt → BufSt) (hu : u = { s with buf := u.buf }) :
    u.onBuf b g = { s with buf := (u.onBuf b g).buf } :=
  congrArg (fun x : State => { x with buf := (u.onBuf b g).buf }) hu

/-- A change of what rings hold is a change of the buffer managers' requests. -/
theorem State.eachTake_frame (s : State) (f : CpuTake → CpuTake) : s.eachTake f = { s with buf := (s.eachTake f).buf } := by
  refine State.each_keeps (I := fun u => u = { s with buf := u.buf }) _ rfl fun u b _ hu => ?_
  split
  · exact hu
  · exact State.onBuf_frame b _ hu

/-- The endpoint as its reset leaves it, with the link trained to a speed code and a width. -/
def State.resetEndpoint (s : State) (speed width : Nat) : State :=
  ((s.clearEndpoint.disableJobs.dropTakes.setFld pgHost Reg.HOST.HSTAT_LINK_SPEED speed).setFld pgHost
    Reg.HOST.HSTAT_LINK_WIDTH width).bump pgBoot Reg.BOOT.HIF_RESETS

/-- The receive rings of `writing` that run drop the frame they were writing, and the endpoint resets. -/
theorem hostInterfaceReset_eq {s : State} (writing : List (Fin 16)) (speed width : Fin 5) (h : s.hostGone = false) :
    hostInterfaceReset writing speed width s =
      (s.each ((writing.map fun r => r.val).filter fun r => s.ringRuns (16 + r)) fun s r => s.dmaDrop r).resetEndpoint
        speed width := by
  unfold hostInterfaceReset
  rw [h]
  rfl

theorem hostInterfaceReset_nil {s : State} (speed width : Fin 5) (h : s.hostGone = false) :
    hostInterfaceReset [] speed width s = s.resetEndpoint speed width := hostInterfaceReset_eq [] speed width h

theorem State.resetEndpoint_pcie (s : State) (speed width : Nat) : (s.resetEndpoint speed width).pcie = {} := by
  have drop := State.eachTake_frame s.clearEndpoint.disableJobs fun t => { t with gone := true }
  unfold State.resetEndpoint State.dropTakes
  rw [State.bump_pcie, State.setFld_pcie, State.setFld_pcie, drop, State.disableJobs_frame]
  rfl

theorem State.dropTakes_regs (s : State) : s.dropTakes.regs = s.regs := by
  unfold State.dropTakes
  rw [State.eachTake_frame]

theorem State.dropTakes_ctrs (s : State) : s.dropTakes.ctrs = s.ctrs := by
  unfold State.dropTakes
  rw [State.eachTake_frame]

theorem State.disableJobs_ctrs (s : State) : s.disableJobs.ctrs = s.ctrs := by
  rw [State.disableJobs_frame]

theorem State.rd_bump (s : State) (q o i p off w : Nat) : (s.bump q o i).rd p off w = s.rd p off w := rfl
theorem State.fld_bump (s : State) (q o i p : Nat) (f : Fld) (w : Nat) : (s.bump q o i).fld p f w = s.fld p f w := rfl

/-- The endpoint's registers and counters take their reset values, and no others. -/
theorem State.clearEndpoint_rd (s : State) {p off w : Nat} (hp : 0x4000 ≤ p) (ho : off < 4096) (hw : w < 4096) :
    s.clearEndpoint.rd p off w = factory (rkey p off w) := by
  have cleared := s.clearPages_rd (fun p => decide (0x4000 ≤ p)) (p := p) ho hw
  rwa [decide_eq_true hp, if_pos rfl] at cleared

theorem State.clearEndpoint_ctr (s : State) {p off w : Nat} (hp : p < 0x4000) (ho : off < 4096) (hw : w < 4096) :
    s.clearEndpoint.ctr p off w = s.ctr p off w := by
  have kept := s.clearPages_ctr (fun p => decide (0x4000 ≤ p)) (p := p) ho hw
  rwa [decide_eq_false (by omega), if_neg Bool.false_ne_true] at kept

theorem State.resetEndpoint_speed (s : State) {speed : Nat} (width : Nat) (h : speed < 16) :
    (s.resetEndpoint speed width).fld pgHost Reg.HOST.HSTAT_LINK_SPEED = speed := by
  have apart := State.fld_setFld_apart (s.clearEndpoint.disableJobs.dropTakes.setFld pgHost Reg.HOST.HSTAT_LINK_SPEED speed)
    pgHost Reg.HOST.HSTAT_LINK_WIDTH Reg.HOST.HSTAT_LINK_SPEED width 0 (by decide) (by decide) rfl (.inr (by decide))
  rw [State.resetEndpoint, State.fld_bump, apart, State.fld_setFld_same _ _ _ _ _ (by decide) (by decide)]
  exact Nat.mod_eq_of_lt h

theorem State.resetEndpoint_width (s : State) (speed : Nat) {width : Nat} (h : width < 64) :
    (s.resetEndpoint speed width).fld pgHost Reg.HOST.HSTAT_LINK_WIDTH = width := by
  rw [State.resetEndpoint, State.fld_bump, State.fld_setFld_same _ _ _ _ _ (by decide) (by decide)]
  exact Nat.mod_eq_of_lt h

/-- The endpoint's reset writes the link's fields to HOST, and every other page is as the disabled queues leave it. -/
theorem State.resetEndpoint_rd (s : State) (speed width : Nat) {p off w : Nat} (hp : p ≠ pgHost) (ho : off < 4096)
    (hw : w < 4096) : (s.resetEndpoint speed width).rd p off w = s.clearEndpoint.disableJobs.rd p off w := by
  have key {f : Fld} (hf : f.off < 4096) : rkey p off w ≠ rkey pgHost f.off 0 := rkey_ne_page ho hf hw (by norm_num) hp
  rw [State.resetEndpoint, State.rd_bump, State.rd_setFld_ne _ _ _ _ _ (key (by decide)),
    State.rd_setFld_ne _ _ _ _ _ (key (by decide)), State.rd_congr (State.dropTakes_regs _)]

theorem State.resetEndpoint_resets (s : State) (speed width : Nat) :
    (s.resetEndpoint speed width).ctr pgBoot Reg.BOOT.HIF_RESETS = s.ctr pgBoot Reg.BOOT.HIF_RESETS + 1 := by
  rw [State.resetEndpoint, State.bump, State.ctr_addCtr_same, State.ctr_congr (State.setFld_ctrs _ _ _ _ _),
    State.ctr_congr (State.setFld_ctrs _ _ _ _ _), State.ctr_congr (State.dropTakes_ctrs _),
    State.ctr_congr (State.disableJobs_ctrs _), State.clearEndpoint_ctr _ (by decide) (by decide) (by norm_num)]
  rfl

theorem State.resetEndpoint_jobs (s : State) (speed width : Nat) {k : Nat} (h : k < 64) :
    (s.resetEndpoint speed width).flag (pgCiph (k / 16)) (Reg.CIPH.JQ_CFG_EN (k % 16)) = false := by
  have hoff : (Reg.CIPH.JQ_CFG_EN (k % 16)).off < 4096 := by simp only [Reg.CIPH.JQ_CFG_EN]; omega
  have hpage : pgCiph (k / 16) ≠ pgHost := by unfold pgCiph pgHost; omega
  have disabled := s.clearEndpoint.disableJobs_off h
  rwa [State.flag, State.fld, ← State.resetEndpoint_rd s speed width hpage hoff (by norm_num)] at disabled

/-- The endpoint's blocks read their factory values. -/
theorem State.resetEndpoint_blocks (s : State) (speed width : Nat) {p off w : Nat} (hp : 0x4000 ≤ p) (ho : off < 4096)
    (hw : w < 4096) : (s.resetEndpoint speed width).rd p off w = factory (rkey p off w) := by
  have hhost : p ≠ pgHost := by unfold pgHost; omega
  rw [State.resetEndpoint_rd s speed width hhost ho hw, State.disableJobs_rd _ hp ho hw, State.clearEndpoint_rd _ hp ho hw]

/-! ### Pins (R537, R562) -/

theorem bit_xor_pow_same (g n : Nat) : bit (g ^^^ 2 ^ n) n = !bit g n := by
  simp [bit, Nat.testBit_xor, Nat.testBit_two_pow_self]

theorem bit_xor_pow_ne (g : Nat) {n m : Nat} (h : m ≠ n) : bit (g ^^^ 2 ^ n) m = bit g m := by
  simp [bit, Nat.testBit_xor, Nat.testBit_two_pow_of_ne h.symm]

/-- A pin that was at the other level takes it, and an input pin that selects the edge raises its cause. -/
theorem gpioEdge_eq {s : State} {n : Fin 8} {level : Bool} (h : bit s.pins.gpio n ≠ level) :
    gpioEdge n level s = { s with pins := { s.pins with gpio := s.pins.gpio ^^^ 2 ^ n.val } }.ifDo
      (!bit s.gpioDir n && bit (s.fld pgHost ⟨0x0CC, 2 * n + 1, 2 * n⟩) (if level then 0 else 1) && !s.hostGone)
      (·.raise pgHost (8 + n)) := if_neg h

theorem State.ifDo_raise_pins (s : State) (c : Bool) (p i : Nat) : (s.ifDo c (·.raise p i)).pins = s.pins := by
  cases c <;> rfl

theorem Touches.ifDo_raise (s : State) (c : Bool) (p i : Nat) : Touches s (s.ifDo c (·.raise p i)) (· = p) := by
  cases c with
  | false => exact Touches.refl s _
  | true => exact (Touches.refl s _).raise p i rfl

/-- A sensor at 115 °C or more trips, but in COLD. -/
theorem State.sense_hot {s : State} {r : Readings} (h : 115 ≤ r.a.toInt ∨ 115 ≤ r.b.toInt ∨ 115 ≤ r.aon.toInt)
    (hst : s.dev.st ≠ 3) : s.sense r = { s with pins := { s.pins with temp := r, trip := true } } := by
  simp [State.sense, h, hst]

/-- All sensors at 105 °C or less release the trip. -/
theorem State.sense_cool (s : State) {r : Readings} (ha : r.a.toInt ≤ 105) (hb : r.b.toInt ≤ 105) (hc : r.aon.toInt ≤ 105) :
    s.sense r = { s with pins := { s.pins with temp := r, trip := false } } := by
  have notHot : ¬ (115 ≤ r.a.toInt ∨ 115 ≤ r.b.toInt ∨ 115 ≤ r.aon.toInt) := by omega
  simp [State.sense, notHot, ha, hb, hc]

/-- Settles O27: each part of the endpoint and each pin by the lemma that says what its command does. -/
theorem endpointAndPins : Obligations.EndpointAndPins := by
  refine ⟨fun s k write stays hd3 hhost => ?_, fun s speed width hhost => ?_, fun s writing speed width hhost => ?_,
    fun s d3 hhost => ?_, fun s n level hlevel => ?_, fun s => ⟨fun hf n => ?_, fun hf => ?_⟩, fun s r hr hst => ?_,
    fun s a b c ha hb hc => ?_, fun s => ⟨rfl, rfl, rfl, rfl, rfl⟩⟩
  · obtain ⟨hresp, hctrs, hrep, hcause⟩ := s.hubMissing_spec (teamNo k) write
    refine ⟨settle (hubTimeout k write stays s), rfl, ?_⟩
    rw [hubTimeout_eq k write stays hd3 hhost]
    refine ⟨?_, ?_, ?_, ?_, ?_, fun hnew => (settle_caused _ _ _).2 (hcause hnew)⟩
    · rw [settle_resp, hresp]
    · rw [settle_hub]
      exact hrep
    · rw [settle_hub]
      exact mem_faulty_iff _ _ _
    · rw [settle_ctr _ (rkey_ne_word (by decide))]
      exact (State.ctr_congr hctrs _ _ _).trans (State.hubCounted_timeouts ..)
    · rw [settle_ctr _ (rkey_ne_word (by decide))]
      exact (State.ctr_congr hctrs _ _ _).trans (State.hubCounted_discards ..)
  · refine ⟨settle (hostInterfaceReset [] speed width s), rfl, ?_⟩
    rw [hostInterfaceReset_nil speed width hhost]
    have hspeed : speed.val < 16 := by omega
    have hwidth : width.val < 64 := by omega
    refine ⟨?_, ?_, ?_, ?_, fun k hk => ?_, fun p off w hp ho hw => ?_⟩
    · rw [settle_pcie, State.resetEndpoint_pcie]
    · rw [settle_fld, State.resetEndpoint_speed _ _ hspeed]
    · rw [settle_fld, State.resetEndpoint_width _ _ hwidth]
    · rw [settle_ctr_page _ (by decide) (by decide) (by norm_num), State.resetEndpoint_resets]
    · rw [settle_flag, State.resetEndpoint_jobs _ _ _ hk]
    · rw [settle_rd, State.resetEndpoint_blocks _ _ _ hp ho hw]
  · intro u hu
    refine finish_congr ?_
    rw [hostInterfaceReset_eq writing speed width hhost, hostInterfaceReset_nil speed width hu]
  · refine finish_congr ?_
    rw [pciPowerState, hhost]
    rfl
  · refine ⟨settle (gpioEdge n level s), rfl, ?_⟩
    rw [gpioEdge_eq hlevel]
    rw [settle_pins, State.ifDo_raise_pins]
    refine ⟨?_, fun m hm => bit_xor_pow_ne _ hm, fun hin hsel hhost => ?_, (Touches.ifDo_raise _ _ _ _).settle⟩
    · rw [bit_xor_pow_same]
      exact Bool.not_eq.2 hlevel
    · rw [settle_caused, hin, hsel, hhost]
      exact State.caused_raise _ (by omega)
  · rw [State.gpioDir, hf]
    exact Nat.zero_testBit n
  · rw [State.gpioDir, hf]
    rfl
  · exact finish_congr (State.sense_hot hr hst)
  · exact finish_congr (s.sense_cool ha hb hc)

end Sys2Proof.Machine
end

section
/-! SUPPORT. Power domains: what a ·L write-through leaves alone, how a request for a domain waits, and how transitions end. -/

namespace Sys2Proof.Machine

/-! ### What settling and a changed part of the state keep, continued -/

@[simp] theorem settle_dom (s : State) : (settle s).dom = s.dom := by rw [settle_frame]
@[simp] theorem settle_lehr (s : State) : (settle s).lehr = s.lehr := by rw [settle_frame]
@[simp] theorem settle_domAt (s : State) (d : Nat) : (settle s).domAt d = s.domAt d := by rw [State.domAt, settle_dom]; rfl

/-- What left the rest alone leaves it alone beside other domains. -/
theorem Touches.withDom {s t : State} {P : Nat → Prop} (h : Touches s t P) (m : Tab DomSt) :
    Touches { s with dom := m } { t with dom := m } P :=
  ⟨congrArg (fun x : State => { x with dom := m }) h.rest, h.regs, h.ctrs, h.rings⟩

/-- What left the rest alone leaves it alone beside another lehr. -/
theorem Touches.withLehr {s t : State} {P : Nat → Prop} (h : Touches s t P) (l : LehrSt) :
    Touches { s with lehr := l } { t with lehr := l } P :=
  ⟨congrArg (fun x : State => { x with lehr := l }) h.rest, h.regs, h.ctrs, h.rings⟩

/-! ### The write-through to the lehr (R465, R468, R518) -/

/-- Words written to the lehr change nothing but the lehr. -/
theorem State.setLehrWords_frame (s : State) (l : List Nat) (pos val : Nat → Nat) :
    s.each l (fun u k => u.setLehrWord (pos k) (val k)) =
      { s with lehr := (s.each l fun u k => u.setLehrWord (pos k) (val k)).lehr } :=
  State.each_keeps (I := fun u => u = { s with lehr := u.lehr }) _ rfl fun u k _ hu =>
    congrArg (fun x : State => { x with lehr := (u.setLehrWord (pos k) (val k)).lehr }) hu

/-- Records go to the image at `e` where they fit (R465). -/
def State.putRecords (s : State) (e : Nat) (recs : List Nat) : State :=
  if imgHi < e + 4 * recs.length then s
  else s.each (List.range recs.length) fun u k => u.setLehrWord (e + 4 * k) (recs[k]?.getD 0)

theorem State.putRecords_frame (s : State) (e : Nat) (recs : List Nat) :
    s.putRecords e recs = { s with lehr := (s.putRecords e recs).lehr } := by
  unfold State.putRecords
  split
  · rfl
  · exact s.setLehrWords_frame _ _ _

/-- The image takes a word, over its last record or in new ones: nothing but the lehr changes. -/
theorem State.putImage_frame (s : State) (p off w : Nat) (v : W32) :
    s.putImage p off w v = { s with lehr := (s.putImage p off w v).lehr } := by
  unfold State.putImage
  obtain ⟨ws, e⟩ := s.image_
  dsimp only
  cases (ws.filter fun x => x.page == p && x.off == off && (x.idx == w || (winOf p off).isNone)).getLast? with
  | some x => rfl
  | none => exact s.putRecords_frame e _

/-- A write-through changes the lehr, and no page but the device's power page and the lehr's. -/
theorem State.through_touches (s : State) (p off w : Nat) :
    Touches { s with lehr := (s.through p off w).lehr } (s.through p off w) (fun q => q = pgDev ∨ q = pgLehr) := by
  unfold State.through
  split_ifs
  · exact Touches.refl s _
  · exact (Touches.refl _ _).setFld _ _ _ 0 (.inr rfl) (by decide) (by norm_num)
  · exact (Touches.refl _ _).addCtr _ _ 1 0 (.inl rfl) (by decide) (by norm_num)
  · dsimp only
    rw [State.putImage_frame]
    exact Touches.refl _ _
  · exact Touches.refl s _

/-- A write-through changes no word of any page but the lehr's. -/
theorem State.through_rd (s : State) (p off w : Nat) {q o x : Nat} (hq : q ≠ pgLehr) (ho : o < 4096) (hx : x < 4096) :
    (s.through p off w).rd q o x = s.rd q o x := by
  unfold State.through
  split_ifs
  · rfl
  · exact State.rd_setFld_ne _ _ _ _ _ (rkey_ne_page ho (by decide) hx (by norm_num) hq)
  · rfl
  · dsimp only
    rw [State.putImage_frame]
    rfl
  · rfl

theorem State.through_dom (s : State) (p off w : Nat) : (s.through p off w).dom = s.dom := by
  rw [(s.through_touches p off w).rest]

/-! ### Requests for a domain (R443, R474) -/

/-- The word a host writes to DCTRL with REQ = 1. -/
def dctrlWord (target : Nat) (idle : Bool) : W32 := BitVec.ofNat 32 (2 ^ 31 + target * 2 ^ 29 + b2n idle * 2 ^ 28)

theorem dctrlWord_fields : ∀ (target : Fin 4) (idle : Bool), bit (dctrlWord target idle).toNat 31 = true ∧
    bits (dctrlWord target idle).toNat 30 29 = target ∧ bit (dctrlWord target idle).toNat 28 = idle := by decide

/-- A one-bit field is set where its bit is. -/
theorem State.flag_eq_bit (s : State) (p : Nat) (f : Fld) (w : Nat) (h : f.hi = f.lo) :
    s.flag p f w = bit (s.rd p f.off w).toNat f.lo := by
  rw [State.flag, State.fld, bits, bit, h, Nat.add_sub_cancel_left, Nat.testBit_eq_decide_div_mod_eq,
    Nat.shiftRight_eq_div_pow]
  rfl

theorem bit_ofNat (n : Nat) {i : Nat} (h : i < 32) : bit (BitVec.ofNat 32 n).toNat i = bit n i := by
  rw [BitVec.toNat_ofNat, bit, Nat.testBit_mod_two_pow, decide_eq_true h]
  rfl

/-- A bit of a written word: from the write where the access codes let it write, else as it was. -/
theorem bit_accessWrite (old v mask : Nat) {i : Nat} (h : i < 32) :
    bit (accessWrite old v mask 0) i = if bit mask i then bit v i else bit old i := by
  have ones : (0xFFFFFFFF : Nat).testBit i = true := by
    rw [show (0xFFFFFFFF : Nat) = 2 ^ 32 - 1 from rfl, Nat.testBit_two_pow_sub_one, decide_eq_true h]
  cases writes : mask.testBit i <;> simp [accessWrite, bit, ones, writes]

/-- The state once DIDX and DCTRL of domain `d` are written: only IDLE_EN is stored, and written through. -/
def State.dctrlStored (s : State) (d : Nat) (v : W32) : State :=
  (s.wr pgDev Reg.PWRD.DIDX.off (BitVec.ofNat 32 d)).plainWrite pgDev Reg.PWRD.DCTRL.off d v

theorem State.dctrlStored_touches (s : State) {d : Nat} (v : W32) (h : d < 112) :
    Touches { s with lehr := (s.dctrlStored d v).lehr } (s.dctrlStored d v) (fun q => q = pgDev ∨ q = pgLehr) := by
  refine Touches.trans (Touches.withLehr ?_ _) (State.through_touches _ _ _ _)
  exact ((Touches.refl s _).wr _ _ _ 0 (.inl rfl) (by decide) (by norm_num)).wr _ _ _ _ (.inl rfl) (by decide) (by omega)

theorem State.dctrlStored_domAt (s : State) (d : Nat) (v : W32) (c : Nat) : (s.dctrlStored d v).domAt c = s.domAt c := by
  rw [State.dctrlStored, State.plainWrite, State.wrL, State.domAt, State.through_dom]
  rfl

theorem State.dctrlStored_didx (s : State) {d : Nat} (v : W32) (h : d < 112) :
    (s.dctrlStored d v).rd pgDev Reg.PWRD.DIDX.off = BitVec.ofNat 32 d := by
  have apart : rkey pgDev Reg.PWRD.DIDX.off 0 ≠ rkey pgDev Reg.PWRD.DCTRL.off d :=
    rkey_ne_off (by norm_num) (by omega) (by decide) (by decide) (by decide)
  rw [State.dctrlStored, State.plainWrite, State.wrL, State.through_rd _ _ _ _ (by decide) (by decide) (by norm_num),
    State.rd_wr_ne _ _ _ _ _ apart, State.rd_wr_same]

theorem State.dctrlStored_idle (s : State) {d : Nat} (v : W32) (h : d < 112) :
    (s.dctrlStored d v).flag pgDev Reg.PWRD.DCTRL_IDLE_EN d = bit v.toNat 28 := by
  have writable : rwBits pgDev Reg.PWRD.DCTRL.off = 2 ^ 28 := by decide
  have clears : w1cBits pgDev Reg.PWRD.DCTRL.off = 0 := by decide
  have off : Reg.PWRD.DCTRL_IDLE_EN.off = Reg.PWRD.DCTRL.off := rfl
  rw [State.flag_eq_bit _ _ _ _ rfl, off, State.dctrlStored, State.plainWrite, State.wrL,
    State.through_rd _ _ _ _ (by decide) (by decide) (by omega), State.rd_wr_same, writable, clears, bit_ofNat _ (by decide),
    bit_accessWrite _ _ _ (by decide)]
  exact if_pos (by decide)

/-- A request written to DCTRL joins those that wait for the domain's edge. -/
theorem State.dctrlCommand_takes {s : State} (d : DomainId) (target : Fin 4) (idle : Bool) (ht : target ≠ 1)
    (h : s.takes pgDev) : s.dctrlCommand d target idle = (s.dctrlStored d (dctrlWord target idle)).onDom d fun m =>
      { m with req := m.req ++ [target.val] } := by
  obtain ⟨hreq, htarget, -⟩ := dctrlWord_fields target idle
  have didx : (s.wr pgDev Reg.PWRD.DIDX.off (BitVec.ofNat 32 d)).fld pgDev Reg.PWRD.DIDX = d := by
    rw [State.fld, State.rd_wr_same, BitVec.toNat_ofNat]
    simp only [bits, Reg.PWRD.DIDX]
    omega
  have inRange : ¬ 111 < d.val := by omega
  have ht' : target.val ≠ 1 := fun e => ht (Fin.ext e)
  rw [State.dctrlCommand, State.hostWrite_takes h, State.hubAnswered_shared rfl, ← dctrlWord, State.dctrlWrite, didx]
  simp only [inRange, hreq, htarget, ht', if_true, if_false]
  rfl

/-- What a request leaves: its target waits, IDLE_EN is stored, and nothing else changes. -/
theorem domainRequest_waits {s : State} (d : DomainId) (target : Fin 4) (idle : Bool) (ht : target ≠ 1) (h : s.takes pgDev) :
    ∃ t, finish (s.dctrlCommand d target idle) = .next t ∧
      t.domAt d = { s.domAt d with req := (s.domAt d).req ++ [target.val] } ∧ (∀ c, c ≠ d.val → t.domAt c = s.domAt c) ∧
      t.flag pgDev Reg.PWRD.DCTRL_IDLE_EN d = idle ∧ t.rd pgDev Reg.PWRD.DIDX.off = BitVec.ofNat 32 d ∧
      Touches { s with dom := t.dom, lehr := t.lehr } t (fun p => p = pgDev ∨ p = pgLehr) := by
  obtain ⟨-, -, hidle⟩ := dctrlWord_fields target idle
  have stored := State.dctrlStored_domAt s d (dctrlWord target idle)
  refine ⟨_, finish_congr (State.dctrlCommand_takes d target idle ht h), ?_, fun c hc => ?_, ?_, ?_, ?_⟩
  · rw [settle_domAt, State.onDom_eq, State.domAt_same, stored]
  · rw [settle_domAt, State.onDom_eq, State.domAt_ne _ _ hc, stored]
  · rw [settle_flag, State.onDom_eq, State.flag_congr (State.putDom_regs ..), s.dctrlStored_idle _ d.isLt, hidle]
  · rw [settle_rd, State.onDom_eq, State.rd_congr (State.putDom_regs ..), s.dctrlStored_didx _ d.isLt]
  · rw [settle_dom, settle_lehr]
    exact ((s.dctrlStored_touches _ d.isLt).withDom _).settle

/-- Settles O12: a request is a write of DCTRL that waits; each transition takes the branch that its hypotheses name. -/
theorem domainRequestsAndTransitions : Obligations.DomainRequestsAndTransitions := by
  refine ⟨fun s d idle h => ?_, fun s d c k htrans hidle hrest => ?_, fun s d c htrans hparents => ?_,
    fun s d c w htrans hw => ?_, fun s d hst htrans hen => ?_, fun s d hst => ?_⟩
  · have waits (target : Fin 4) (ht : target ≠ 1) := domainRequest_waits d target idle ht h
    exact ⟨waits 0 (by decide), waits 2 (by decide), waits 3 (by decide)⟩
  · refine finish_congr ?_
    have idleEngines : ¬ (56 ≤ d.val ∧ d.val < 64 ∧ s.engineBusy (d - 56) = true) := fun ⟨hlo, hhi, hbusy⟩ =>
      Bool.false_ne_true ((hidle ⟨hlo, hhi⟩).symm.trans hbusy)
    simp [domainTransitionDone, htrans, idleEngines, hrest]
  · refine finish_congr ?_
    simp [domainTransitionDone, htrans, hparents]
  · refine finish_congr ?_
    have waking : ((s.domAt d).trans.map Prod.fst) = some 0 := by rw [htrans]; rfl
    rw [wakeTimeout, if_pos ⟨waking, hw⟩]
    have noted : s.ifDo (w == .reference && !s.flag pgDev Reg.PWRD.CLK_STAT_NO_REF) State.noRef =
        if w = .reference ∧ s.flag pgDev Reg.PWRD.CLK_STAT_NO_REF = false then s.noRef else s := by simp [State.ifDo]
    rw [noted]
    rfl
  · exact finish_congr (if_pos ⟨hst, htrans, hen⟩)
  · exact finish_congr (if_pos hst)

end Sys2Proof.Machine
end

section
/-! SUPPORT. The hubs: how a command is accepted into a team hub, or waits to be taken. -/

namespace Sys2Proof.Machine

/-! ### Table commands that the hubs accept (R53, R181) -/

/-- The page of a table command shows a command not yet final: its result words read 0, and earlier ones no longer show theirs. -/
def State.tableOpened (s : State) (c : HostCmd) : State :=
  let s0 := (s.staleCmds c.page .table).wr c.page 0x254 0
  if c.cls = 0x0C then s0.wr c.page 0x25C 0 else if c.cls = 0x0D then s0.wr c.page 0x260 0 else s0

theorem State.tableOpened_frame (s : State) (c : HostCmd) :
    s.tableOpened c = { s.staleCmds c.page .table with regs := (s.tableOpened c).regs } := by
  unfold State.tableOpened
  split_ifs <;> rfl

/-- TW_RESULT reads 0 while the command is not final. -/
theorem State.tableOpened_result (s : State) (c : HostCmd) : (s.tableOpened c).rd c.page 0x254 = 0 := by
  unfold State.tableOpened
  split_ifs
  · rw [State.rd_wr_ne _ _ _ _ _ (rkey_ne_word (by decide)), State.rd_wr_same]
  · rw [State.rd_wr_ne _ _ _ _ _ (rkey_ne_word (by decide)), State.rd_wr_same]
  · rw [State.rd_wr_same]

/-- A write of a table that is no rule bank stores what it says (R167). -/
theorem State.bankWrite_other (s : State) {c : HostCmd} (h : ∀ i, c.tkind ≠ some (.hash (.bank i))) :
    s.bankWrite c = (c, s) := by
  unfold State.bankWrite
  split
  · next i hi => exact absurd hi (h i)
  · rfl

/-- A table write that is well formed is a write accepted on its page. -/
theorem State.startTable_write (s : State) {c : HostCmd} (hbad : c.bad = false) (hw : c.writes = true)
    (h : ∀ i, c.tkind ≠ some (.hash (.bank i))) : s.startTable c = ((s.tableOpened c).sigTouched c).acceptWrite c := by
  have other := (s.tableOpened c).bankWrite_other h
  unfold State.startTable
  rw [hbad, hw]
  change (let r := (s.tableOpened c).bankWrite c; (r.2.sigTouched r.1).acceptWrite r.1) = _
  rw [other]

/-- A change of a signature scrubber adds to what has changed since `s` nothing but signature scrubbers. -/
theorem State.onSig_frame {s u : State} (t : Nat) (g : SigSt → SigSt) (hu : u = { s with sig := u.sig }) :
    u.onSig t g = { s with sig := (u.onSig t g).sig } :=
  congrArg (fun x : State => { x with sig := (u.onSig t g).sig }) hu

/-- A write accepted for blocks with signatures changes the signature scrubbers' findings alone (R216). -/
theorem State.sigTouched_frame (s : State) (c : HostCmd) : s.sigTouched c = { s with sig := (s.sigTouched c).sig } := by
  unfold State.sigTouched
  split
  · exact State.each_keeps (I := fun u => u = { s with sig := u.sig }) _ rfl fun u t _ hu => State.onSig_frame t _ hu
  · rfl

/-- The hubs with other counts of the writes accepted in a tick. -/
def State.withQuota (s : State) (q : Tab (Nat × Nat)) : State := { s with hub := { s.hub with quota := q } }
/-- The hubs with other reported absences. -/
def State.withReported (s : State) (l : List Nat) : State := { s with hub := { s.hub with reported := l } }

/-- The hubs with one more command not yet final. -/
def State.addCmd (s : State) (c : HostCmd) : State := { s with hub := { s.hub with cmds := s.hub.cmds ++ [c] } }

/-- Counting a command in its limits changes the hubs' counts alone. -/
theorem State.countQuota_frame (s : State) (c : HostCmd) : s.countQuota c = s.withQuota (s.countQuota c).hub.quota :=
  State.each_keeps (I := fun u => u = s.withQuota u.hub.quota) _ rfl fun u q _ hu =>
    (congrArg (State.withQuota · (Tab.set (fun _ => (0, 0)) u.hub.quota q.1 (u.gridTick, u.quotaUsed q.1 + 1))) hu).trans rfl

/-- Answers of hubs end their reported absence alone. -/
theorem State.hubsBack_frame (s : State) (l : List Nat) :
    s.each l State.hubBack = s.withReported (s.each l State.hubBack).hub.reported :=
  State.each_keeps (I := fun u => u = s.withReported u.hub.reported) _ rfl fun u t _ hu =>
    (congrArg (State.withReported · (u.hub.reported.filter fun n => n != t)) hu).trans rfl

/-- A command as the hubs hold it for every unit that commits it (R55). -/
def HostCmd.forUnits (c : HostCmd) (tick : Nat) : HostCmd :=
  { c with tick := tick, left := c.teams.flatMap c.units, stats := [] }

/-- A write to teams that all answer joins the commands of the hubs, to be committed by every unit. -/
theorem State.acceptWrite_answered {s : State} {c : HostCmd} (hup : ∀ t ∈ c.teams, s.hubUp t = true)
    (hunits : c.teams.flatMap c.units ≠ []) :
    ∃ q l, s.acceptWrite c = ((s.withQuota q).withReported l).addCmd (c.forUnits s.gridTick) := by
  have gone : (c.teams.filter fun t => !s.hubUp t) = [] := by
    rw [List.filter_eq_nil_iff]
    exact fun t ht => by simp [hup t ht]
  have left : (c.teams.flatMap c.units).isEmpty = false := List.isEmpty_eq_false_iff.2 hunits
  let u := (s.countQuota c).each (c.teams.filter s.hubUp) State.hubBack
  have accepted : s.acceptWrite c = u.addCmd (c.forUnits s.gridTick) := by
    unfold State.acceptWrite
    rw [gone]
    exact if_neg (by rw [Bool.not_eq_true]; exact left)
  have answered : u = (s.countQuota c).withReported u.hub.reported := State.hubsBack_frame _ _
  rw [State.countQuota_frame] at answered
  exact ⟨_, _, accepted.trans (congrArg (State.addCmd · (c.forUnits s.gridTick)) answered)⟩

/-- Settles O31: an accepted write joins the hubs' commands and leaves the tables; a full hub, and a hub that has yet to take an
access, hold what comes. -/
theorem tableWritesWait : Obligations.TableWritesWait := by
  refine ⟨fun s c _ hbad hw hup hunits hbank => ?_, fun s c hfull => if_pos hfull, fun s c hfull => ?_,
    fun s a f hwaits hd3 hhost => ?_⟩
  · have up : ∀ t ∈ c.teams, ((s.tableOpened c).sigTouched c).hubUp t = true := fun t ht => by
      rw [State.sigTouched_frame, State.tableOpened_frame]
      exact hup t ht
    obtain ⟨q, l, haccept⟩ := State.acceptWrite_answered up hunits
    rw [State.startTable_write s hbad hw hbank, haccept, State.sigTouched_frame]
    refine ⟨s.tableOpened_result c, ?_, ?_⟩
    · rw [State.tableOpened_frame]
      rfl
    · rw [State.tableOpened_frame]
      exact ⟨_, rfl⟩
  · simp only [State.hubsFull, List.any_cons, Bool.or_eq_true, decide_eq_true_eq]
    exact hfull.elim (fun h => .inr (.inl h)) .inl
  · refine if_pos ?_
    rw [hwaits, hd3, hhost]
    rfl

end Sys2Proof.Machine
end

section
/-! SUPPORT. Hand-off and the bridge: what its credits, its pieces and its transfers change. -/

namespace Sys2Proof.Machine

/-! ### Credits and transfers of the bridge (R25, R268 to R272) -/

theorem handoffAccept_none {s : State} {b : BenchId} {src : Fin 5} (err : SeqErr)
    (h : ((s.coreAt b).inbox.find? fun r => r.1 == src.val) = none) : handoffAccept b src err s = s := by
  rw [handoffAccept, h]

theorem handoffAccept_some {s : State} {b : BenchId} {src : Fin 5} (err : SeqErr) {r : Nat × HandRec}
    (h : ((s.coreAt b).inbox.find? fun r => r.1 == src.val) = some r) :
    handoffAccept b src err s = ((s.onCore b fun c => { c with inbox := c.inbox.erase r }).accept b r.2 err).settleUnit b
      r.2.bench r.2.desc := by
  rw [handoffAccept, h]

/-- Credits that come back are held, and the stall timer restarts. -/
theorem State.creditBack_bridgeAt (s : State) (k c : Nat) :
    (s.creditBack k c).bridgeAt k = { s.bridgeAt k with cred := c, expired := false } := by
  have back : (s.onBridge k fun x => { x with cred := c, expired := false }).bridgeAt k =
    { s.bridgeAt k with cred := c, expired := false } := by rw [State.onBridge_eq, State.bridgeAt_same]
  unfold State.creditBack
  dsimp only
  split_ifs
  · exact back
  · exact back

theorem State.creditBack_ctrs (s : State) (k c : Nat) : (s.creditBack k c).ctrs = s.ctrs := by
  unfold State.creditBack
  dsimp only
  split_ifs <;> rfl

theorem State.creditAll_ctrs (s : State) (k : Nat) : (s.creditAll k).ctrs = s.ctrs := by
  unfold State.creditAll
  split_ifs
  · exact s.creditBack_ctrs _ _
  · rfl

theorem State.xferOver_ctrs (s : State) (k : Nat) (bad : Bool) : (s.xferOver k bad).ctrs = s.ctrs :=
  State.each_keeps (I := fun u => u.ctrs = s.ctrs) _ rfl fun _ _ _ hu => hu

/-- A transfer without a descriptor at its receiver stores nothing. -/
theorem State.xferStore_none {s : State} {k : Nat} {y : Xfer} (hx : (s.bridgeAt k).xfer = some y) (hd : y.desc = none) (n : Nat)
    (whole : Bool) : s.xferStore k n whole = s := by
  rw [State.xferStore, hx]
  dsimp only
  rw [hd]

/-! ### The sending side -/

/-- The head frame of a FIFO at its sending side: nothing of it left to send, its next piece not to be sent yet, or a piece that
goes on a credit. -/
theorem bridgeSend_head {s : State} {tm : Team} {k : Fin 4} {r : HandRec} {rest : List HandRec}
    (hfifo : (s.bridgeAt (brKey tm k)).fifo = r :: rest) (hup : (s.teamAt (teamNo tm)).failed = false) :
    let x := s.bridgeAt (brKey tm k)
    let n := s.brStored r - x.sent
    let whole := ((s.descAt r.bench r.desc).map fun d => d.done).getD false
    let lost := ((s.descAt r.bench r.desc).map fun d => d.done && !d.tagWait).getD false && (s.teamAt (1 - teamNo tm)).failed
    let u := s.onBridge (brKey tm k) fun x => { x with sent := x.sent + min 256 n, cred := x.cred - 1 }
    bridgeSend tm k s =
      if n = 0 then (if lost then s.brLost (brKey tm k) r else s)
      else if x.cred = 0 ∨ n < 256 ∧ whole = false then s
      else if lost = true ∧ n ≤ 256 then u.brLost (brKey tm k) r else u := by
  unfold bridgeSend
  dsimp only
  rw [hfifo]
  dsimp only
  rw [hup]
  simp only [Bool.false_eq_true, if_false, Bool.not_eq_true', Bool.and_eq_true, decide_eq_true_eq]

theorem bridgeSend_idle {s : State} {tm : Team} {k : Fin 4}
    (h : (s.bridgeAt (brKey tm k)).fifo = [] ∨ (s.teamAt (teamNo tm)).failed = true) : bridgeSend tm k s = s := by
  unfold bridgeSend
  dsimp only
  split
  · rfl
  · next r rest hfifo =>
    rw [hfifo] at h
    exact if_pos (h.resolve_left (List.cons_ne_nil _ _))

/-- A stall timer that expires while no frame waits for a credit marks nothing (R25). -/
theorem peerMarkDown_running {s : State} {tm : Team} {k : Fin 4} (h : s.brStalled (brKey tm k) = false) :
    peerMarkDown tm k s = s := by
  unfold peerMarkDown
  dsimp only
  rw [h]
  rfl

/-- A stall timer that expires is noted, and marks a peer that is not yet marked down (R25). -/
theorem peerMarkDown_stalled {s : State} {tm : Team} {k : Fin 4} (h : s.brStalled (brKey tm k) = true) :
    let pg := pgCore (4 * teamNo tm)
    let u := s.onBridge (brKey tm k) fun x => { x with expired := true }
    peerMarkDown tm k s = if s.peerDown (teamNo tm) then u else
      (((u.setFld pg Reg.CORE.BR_STAT_PEER_DOWN 1).bump pg Reg.CORE.BR_DOWN_EVENTS).raise pg 2).dropFifos (teamNo tm) := by
  unfold peerMarkDown
  dsimp only
  rw [h]
  rfl

/-! ### Credits -/

/-- A bridge buffer that holds bytes, towards a team that stands. -/
theorem bridge_flows {s : State} {tm : Team} {k : Fin 4} (hcred : (s.bridgeAt (brKey tm k)).cred < 128)
    (hup : (s.teamAt (1 - teamNo tm)).failed = false) :
    ¬ (128 ≤ (s.bridgeAt (brKey tm k)).cred ∨ (s.teamAt (1 - teamNo tm)).failed = true) := by
  rw [hup]
  simp [hcred]

/-- Bytes that leave the bridge buffer, of a transfer whose request is answered: they are stored, and a credit comes back. -/
theorem bridgeCredit_stored {s : State} {tm : Team} {k : Fin 4} {y : Xfer} (hcred : (s.bridgeAt (brKey tm k)).cred < 128)
    (hup : (s.teamAt (1 - teamNo tm)).failed = false) (hx : (s.bridgeAt (brKey tm k)).xfer = some y) (hans : y.answered = true)
    (hfifo : (s.bridgeAt (brKey tm k)).fifo ≠ []) :
    bridgeCredit tm k s = (s.xferStore (brKey tm k) (min (s.bridgeAt (brKey tm k)).sent (y.bytes + 256)) false).creditBack
      (brKey tm k) ((s.bridgeAt (brKey tm k)).cred + 1) := by
  have stored : (y.answered && !(s.bridgeAt (brKey tm k)).fifo.isEmpty) = true := by
    rw [hans, List.isEmpty_eq_false_iff.2 hfifo]
    rfl
  unfold bridgeCredit
  dsimp only
  rw [if_neg (bridge_flows hcred hup), hx]
  dsimp only
  rw [if_pos stored]

/-- Bytes that leave the bridge buffer without a place at the receiver: they are discarded, and a credit comes back. -/
theorem bridgeCredit_discarded {s : State} {tm : Team} {k : Fin 4} (hcred : (s.bridgeAt (brKey tm k)).cred < 128)
    (hup : (s.teamAt (1 - teamNo tm)).failed = false)
    (h : (s.bridgeAt (brKey tm k)).xfer = none ∨ (s.bridgeAt (brKey tm k)).fifo = [] ∨
      ∃ y, (s.bridgeAt (brKey tm k)).xfer = some y ∧ y.answered = false) :
    bridgeCredit tm k s = s.creditBack (brKey tm k) ((s.bridgeAt (brKey tm k)).cred + 1) := by
  unfold bridgeCredit
  dsimp only
  rw [if_neg (bridge_flows hcred hup)]
  cases hx : (s.bridgeAt (brKey tm k)).xfer with
  | none => rfl
  | some y =>
    have nowhere : ¬ (y.answered && !(s.bridgeAt (brKey tm k)).fifo.isEmpty) = true := by
      rw [hx] at h
      rcases h with h | h | ⟨z, hz, hans⟩
      · cases h
      · simp [h]
      · cases hz
        simp [hans]
    dsimp only
    rw [if_neg nowhere]

/-! ### The receiving side -/

theorem bridgeReceiveBegin_new {s : State} {tm : Team} {k : Fin 4} {r : HandRec} {rest : List HandRec} {d : Desc}
    (hfifo : (s.bridgeAt (brKey tm k)).fifo = r :: rest) (hx : (s.bridgeAt (brKey tm k)).xfer = none)
    (hd : s.descAt r.bench r.desc = some d) (hsent : (s.bridgeAt (brKey tm k)).sent ≠ 0)
    (hup : (s.teamAt (1 - teamNo tm)).failed = false) :
    bridgeReceiveBegin tm k s = (s.onBridge (brKey tm k) fun x => { x with xfer := some { hand := r, owner := d.owner } }).request
      (brBench (brKey tm k)) 67 d.owner (if d.done then some d.len else none) (.bridge (teamNo tm) k) := by
  have begun : ¬ ((s.bridgeAt (brKey tm k)).sent = 0 ∨ (s.teamAt (1 - teamNo tm)).failed = true) := by
    rw [hup]
    simp [hsent]
  unfold bridgeReceiveBegin
  dsimp only
  rw [hfifo, hx]
  dsimp only
  rw [hd]
  exact if_neg begun

theorem bridgeReceiveBegin_idle {s : State} {tm : Team} {k : Fin 4}
    (h : (s.bridgeAt (brKey tm k)).fifo = [] ∨ (s.bridgeAt (brKey tm k)).xfer.isSome = true ∨
      (s.bridgeAt (brKey tm k)).sent = 0 ∨ (s.teamAt (1 - teamNo tm)).failed = true) : bridgeReceiveBegin tm k s = s := by
  unfold bridgeReceiveBegin
  dsimp only
  split
  · next r rest hfifo hx =>
    rw [hfifo, hx] at h
    split
    · exact if_pos ((h.resolve_left (List.cons_ne_nil _ _)).resolve_left Bool.false_ne_true)
    · rfl
  · rfl

/-- A transfer's frame has ended and come to the receiving side whole, its request answered. -/
def State.xferWhole (s : State) (tm : Team) (k : Fin 4) (r : HandRec) (d : Desc) (y : Xfer) : Bool :=
  y.answered && d.done && !d.tagWait && decide (s.brStored r ≤ (s.bridgeAt (brKey tm k)).sent) &&
    !(s.teamAt (1 - teamNo tm)).failed

theorem State.xferWhole_iff {s : State} {tm : Team} {k : Fin 4} {r : HandRec} {d : Desc} {y : Xfer} :
    s.xferWhole tm k r d y = true ↔ y.answered = true ∧ d.done = true ∧ d.tagWait = false ∧
      s.brStored r ≤ (s.bridgeAt (brKey tm k)).sent ∧ (s.teamAt (1 - teamNo tm)).failed = false := by
  simp [State.xferWhole, and_assoc]

/-- The frames of a transfer that ends are counted at both sides, and a wrong CRC at the receiver. -/
def State.xferCounted (s : State) (tm : Team) (ok : Bool) : State :=
  let far := pgCore (4 * (1 - teamNo tm))
  let u := (s.bump (pgCore (4 * teamNo tm)) Reg.CORE.BR_TX_FRAMES).bump far Reg.CORE.BR_RX_FRAMES
  if ok then u else (u.bump far Reg.CORE.BR_RX_CRC).raise far 4

theorem State.xferCounted_bridgeAt (s : State) (tm : Team) (ok : Bool) (k : Nat) :
    (s.xferCounted tm ok).bridgeAt k = s.bridgeAt k := by
  have kept : (s.xferCounted tm ok).bridge = s.bridge := by
    cases ok <;> simp [State.xferCounted]
  rw [State.bridgeAt, kept]
  rfl

/-- The frame of an ended transfer, as its CRC says. -/
def State.xferVerdict (s : State) (e len : Nat) (y : Xfer) (ok : Bool) (err : SeqErr) : Option Nat → State
  | none => s
  | some i => let w := s.trimChain e i
    if ok then w.xferGood e i len y err else w.receptionBad e i len 17

/-- What ends a transfer, whatever became of its frame. -/
def State.xferEnded (s : State) (key : Nat) (r : HandRec) (y : Xfer) : State :=
  ((s.xferOver key (rxFault y.bad)).creditAll key).brNext key r

theorem bridgeReceiveEnd_head {s : State} {tm : Team} {k : Fin 4} {r : HandRec} {rest : List HandRec} {d : Desc} {y : Xfer}
    (ok : Bool) (err : SeqErr) (hfifo : (s.bridgeAt (brKey tm k)).fifo = r :: rest)
    (hx : (s.bridgeAt (brKey tm k)).xfer = some y) (hd : s.descAt r.bench r.desc = some d) :
    bridgeReceiveEnd tm k ok err s =
      let w := (s.xferCounted tm ok).xferStore (brKey tm k) (s.brStored r) true
      if s.xferWhole tm k r d y then
        (w.xferVerdict (brBench (brKey tm k)) d.len y ok err ((w.bridgeAt (brKey tm k)).xfer.bind fun z => z.desc)).xferEnded
          (brKey tm k) r y
      else s := by
  unfold bridgeReceiveEnd
  dsimp only
  rw [hfifo, hx]
  dsimp only
  rw [hd]
  have waits : (!y.answered || !((some d).map fun d => d.done && !d.tagWait).getD true ||
      decide ((s.bridgeAt (brKey tm k)).sent < s.brStored r) || (s.teamAt (1 - teamNo tm)).failed) = !s.xferWhole tm k r d y := by
    have late : decide ((s.bridgeAt (brKey tm k)).sent < s.brStored r) =
        !decide (s.brStored r ≤ (s.bridgeAt (brKey tm k)).sent) := by
      rw [← decide_not]
      exact decide_eq_decide.2 Nat.not_le.symm
    simp [State.xferWhole, late, Bool.or_assoc]
  rw [waits]
  cases s.xferWhole tm k r d y
  · rfl
  · rfl

/-- A transfer goes on while its request is not answered, its frame has not ended, or its bytes have not all come; at a failed
team nothing ends it. -/
theorem bridgeReceiveEnd_waits {s : State} {tm : Team} {k : Fin 4} {r : HandRec} {rest : List HandRec} {d : Desc} {y : Xfer}
    (ok : Bool) (err : SeqErr) (hfifo : (s.bridgeAt (brKey tm k)).fifo = r :: rest)
    (hx : (s.bridgeAt (brKey tm k)).xfer = some y) (hd : s.descAt r.bench r.desc = some d)
    (h : y.answered = false ∨ d.done = false ∨ d.tagWait = true ∨ (s.bridgeAt (brKey tm k)).sent < s.brStored r ∨
      (s.teamAt (1 - teamNo tm)).failed = true) : bridgeReceiveEnd tm k ok err s = s := by
  refine (bridgeReceiveEnd_head ok err hfifo hx hd).trans (if_neg ?_)
  rw [State.xferWhole_iff]
  rintro ⟨hans, hdone, htag, hcome, hup⟩
  rcases h with h | h | h | h | h
  · exact Bool.false_ne_true (h.symm.trans hans)
  · exact Bool.false_ne_true (h.symm.trans hdone)
  · exact Bool.false_ne_true (htag.symm.trans h)
  · exact Nat.not_le.2 h hcome
  · exact Bool.false_ne_true (hup.symm.trans h)

/-- A transfer that was refused a place ends: its frame is counted and nothing is stored. -/
theorem bridgeReceiveEnd_placeless {s : State} {tm : Team} {k : Fin 4} {r : HandRec} {rest : List HandRec} {d : Desc} {y : Xfer}
    (ok : Bool) (err : SeqErr) (hfifo : (s.bridgeAt (brKey tm k)).fifo = r :: rest)
    (hx : (s.bridgeAt (brKey tm k)).xfer = some y) (hd : s.descAt r.bench r.desc = some d)
    (whole : s.xferWhole tm k r d y = true) (hy : y.desc = none) :
    bridgeReceiveEnd tm k ok err s = (s.xferCounted tm ok).xferEnded (brKey tm k) r y := by
  have nothing := State.xferStore_none ((congrArg BridgeSt.xfer (s.xferCounted_bridgeAt tm ok (brKey tm k))).trans hx) hy
    (s.brStored r) true
  refine (bridgeReceiveEnd_head ok err hfifo hx hd).trans ((if_pos whole).trans ?_)
  rw [nothing, State.xferCounted_bridgeAt, hx, Option.bind_some, hy]
  rfl

/-- A transfer with a place ends: its frame is stored whole there, and its CRC decides. -/
theorem bridgeReceiveEnd_placed {s : State} {tm : Team} {k : Fin 4} {r : HandRec} {rest : List HandRec} {d : Desc} {y : Xfer}
    (ok : Bool) (err : SeqErr) (hfifo : (s.bridgeAt (brKey tm k)).fifo = r :: rest)
    (hx : (s.bridgeAt (brKey tm k)).xfer = some y) (hd : s.descAt r.bench r.desc = some d)
    (whole : s.xferWhole tm k r d y = true) {i : Nat}
    (place : (((s.xferCounted tm ok).xferStore (brKey tm k) (s.brStored r) true).bridgeAt (brKey tm k)).xfer.bind
      (fun z => z.desc) = some i) :
    bridgeReceiveEnd tm k ok err s = (((s.xferCounted tm ok).xferStore (brKey tm k) (s.brStored r) true).xferVerdict
      (brBench (brKey tm k)) d.len y ok err (some i)).xferEnded (brKey tm k) r y := by
  refine (bridgeReceiveEnd_head ok err hfifo hx hd).trans ((if_pos whole).trans ?_)
  rw [place]

/-- A transfer that stalls before its frame has a place at the receiver is dropped there. -/
theorem bridgeAbandon_placeless {s : State} {tm : Team} {k : Fin 4} {y : Xfer} (hx : (s.bridgeAt (brKey tm k)).xfer = some y)
    (hd : y.desc = none) (hfifo : (s.bridgeAt (brKey tm k)).fifo = []) :
    bridgeAbandon tm k s =
      ((((s.bump (pgCore (4 * (1 - teamNo tm))) Reg.CORE.BR_RX_ABANDON).each y.hand.copies fun s _ =>
        s.coreCount (brBench (brKey tm k)) Reg.CORE.BAD_DISCARD).xferOver (brKey tm k) (rxFault y.bad)).creditAll
          (brKey tm k)).onBridge (brKey tm k) fun x => { x with xfer := none } := by
  unfold bridgeAbandon
  dsimp only
  rw [hx]
  dsimp only
  rw [hd, hfifo]

/-- Copies discarded at a bench leave its other counters. -/
theorem State.each_badDiscard_ctr (s : State) (l : List Copy) (e p : Nat) :
    (s.each l fun u _ => u.coreCount e Reg.CORE.BAD_DISCARD).ctr p Reg.CORE.BR_RX_ABANDON = s.ctr p Reg.CORE.BR_RX_ABANDON :=
  State.each_keeps (I := fun u => u.ctr p Reg.CORE.BR_RX_ABANDON = s.ctr p Reg.CORE.BR_RX_ABANDON) _ rfl fun _ _ _ hu =>
    (State.ctr_addCtr_ne _ _ _ _ _ (rkey_ne_off (by norm_num) (by norm_num) (by decide) (by decide) (by decide))).trans hu

@[simp] theorem settle_bridgeAt (s : State) (k : Nat) : (settle s).bridgeAt k = s.bridgeAt k := by
  rw [State.bridgeAt, settle_frame]
  rfl

/-- Settles O48: each command of the bridge takes the branch that its hypotheses name. -/
theorem handoffAndBridge : Obligations.HandoffAndBridge := by
  refine ⟨fun s b src err => ⟨fun h => ?_, fun r h => ?_⟩,
    fun s tm k => ⟨fun h => ?_, fun r rest hfifo hup => ⟨fun hn => ?_, fun hn h => ?_, fun hn hcred h => ?_⟩⟩,
    fun s tm k => ⟨fun h => ?_, fun hcred hup => ⟨fun y hx hans hfifo => ?_, fun h => ?_⟩, fun c => s.creditBack_bridgeAt _ c⟩,
    fun s tm k => ⟨fun h => ?_, fun h hdown => ?_, fun h hdown => ?_⟩,
    fun s tm k => ⟨fun r rest d hfifo hx hd hsent hup => ?_, fun h => ?_⟩,
    fun s tm k r rest d y ok err => ?_, fun s tm k => ⟨fun h => ?_, fun y hx hd hfifo => ?_⟩⟩
  · exact finish_congr (handoffAccept_none err h)
  · exact finish_congr (handoffAccept_some err h)
  · exact finish_congr (bridgeSend_idle h)
  · exact finish_congr ((bridgeSend_head hfifo hup).trans (if_pos hn))
  · exact finish_congr ((bridgeSend_head hfifo hup).trans ((if_neg hn).trans (if_pos h)))
  · refine finish_congr ((bridgeSend_head hfifo hup).trans ((if_neg hn).trans (if_neg ?_)))
    rintro (hzero | ⟨hshort, hpart⟩)
    · exact hcred hzero
    · exact h.elim (Nat.not_le.2 hshort) fun hwhole => Bool.false_ne_true (hpart.symm.trans hwhole)
  · exact finish_congr (if_pos h)
  · exact finish_congr (bridgeCredit_stored hcred hup hx hans hfifo)
  · exact finish_congr (bridgeCredit_discarded hcred hup h)
  · exact finish_congr (peerMarkDown_running h)
  · exact finish_congr ((peerMarkDown_stalled h).trans (if_pos hdown))
  · exact finish_congr ((peerMarkDown_stalled h).trans (if_neg (by rw [hdown]; exact Bool.false_ne_true)))
  · exact finish_congr (bridgeReceiveBegin_new hfifo hx hd hsent hup)
  · exact finish_congr (bridgeReceiveBegin_idle h)
  · intro key e far x hfifo hx hd
    refine ⟨fun h => finish_congr (bridgeReceiveEnd_waits ok err hfifo hx hd h), fun hans hdone htag hcome hup => ?_⟩
    have whole := State.xferWhole_iff.2 ⟨hans, hdone, htag, hcome, hup⟩
    exact ⟨fun hy => finish_congr (bridgeReceiveEnd_placeless ok err hfifo hx hd whole hy),
      fun i _ place => finish_congr (bridgeReceiveEnd_placed ok err hfifo hx hd whole place)⟩
  · exact finish_congr (by rw [bridgeAbandon, h])
  · refine ⟨_, finish_congr (bridgeAbandon_placeless hx hd hfifo), ?_, ?_⟩
    · rw [settle_bridgeAt, State.onBridge_eq, State.bridgeAt_same]
    · rw [settle_ctr_page _ ?_ (by decide) (by norm_num), State.onBridge_eq, State.ctr_congr (State.putBridge_ctrs _ _ _),
        State.ctr_congr (State.creditAll_ctrs _ _), State.ctr_congr (State.xferOver_ctrs _ _ _), State.each_badDiscard_ctr,
        State.bump, State.ctr_addCtr_same]
      · rfl
      · unfold pgCore pgHost
        omega

end Sys2Proof.Machine
end

section
/-! SUPPORT. The time unit: its clock, its reads that latch, the pulses of PPS, and the commands that set and steer it. -/

namespace Sys2Proof.Machine

/-! ### The course of the time (R61) -/

/-- The rate is no slower than its lower limit, so that each clock moves the time on. -/
theorem State.freqRate_ge (s : State) : -0x20C49BA6 ≤ s.freqRate := le_max_left _ _

/-- What one clock adds, in units of 2⁻⁴⁰ ns. -/
def State.clockStep (s : State) : Nat := (4 * ((2 ^ 40 : Int) + s.freqRate)).toNat

theorem State.clockStep_cast (s : State) : (s.clockStep : Int) = 4 * (2 ^ 40 + s.freqRate) := by
  have := s.freqRate_ge
  exact Int.toNat_of_nonneg (by omega)

theorem State.timeClock_valid {s : State} (h : s.timeValid = true) :
    s.timeClock = { s with time := { s.time with
      now := s.time.now + (s.time.sub + s.clockStep) / 2 ^ 40, sub := (s.time.sub + s.clockStep) % 2 ^ 40 } } := if_pos h

theorem State.timeClock_invalid {s : State} (h : s.timeValid = false) : s.timeClock = s :=
  if_neg (ne_true_of_eq_false h)

theorem step_idle {s : State} (h : s.pending = []) : step s = .next s.timeClock := by rw [step, h]

/-- Settles O10: a clock carries whole nanoseconds out of the fraction and loses nothing. -/
theorem timeRunsAtItsRate : Obligations.TimeRunsAtItsRate := by
  refine ⟨fun s hidle hvalid => ⟨s.timeClock, step_idle hidle, ?_⟩, fun s hidle hinvalid => ?_⟩
  · rw [State.timeClock_valid hvalid]
    have step := s.clockStep_cast
    refine ⟨?_, Nat.mod_lt _ (by norm_num), rfl⟩
    dsimp only
    omega
  · rw [step_idle hidle, State.timeClock_invalid hinvalid]

/-! ### Setting and steering the time (R61 to R65) -/

/-- A write of the time unit's page that takes it. -/
theorem hostWrite_time {s : State} (h : s.takes pgTime) (f : State → State) : s.hostWrite pgTime f = f s := by
  rw [State.hostWrite_takes h, State.hubAnswered_shared rfl]

theorem State.ifDo_raise_rd_past (s : State) (c : Bool) (p i : Nat) {q off w : Nat} (ho : off < 4096) (hw : w < 4096)
    (h : 0x20 ≤ off) : (s.ifDo c (·.raise p i)).rd q off w = s.rd q off w := by
  cases c with
  | false => rfl
  | true => exact State.rd_raise_past s p i ho hw h

theorem State.ifDo_raise_lehr (s : State) (c : Bool) (p i : Nat) : (s.ifDo c (·.raise p i)).lehr = s.lehr := by
  cases c <;> rfl

theorem State.freqAdjWrite_rd (s : State) (v : W32) : (s.freqAdjWrite v).rd pgTime Reg.TIME.FREQ_ADJ.off = v := by
  rw [State.freqAdjWrite, State.ifDo_raise_rd_past _ _ _ _ (by decide) (by norm_num) (by decide),
    State.rd_setFld_ne _ _ _ _ _ (rkey_ne_word (by decide)), State.wrL,
    State.through_rd _ _ _ _ (by decide) (by decide) (by norm_num), State.rd_wr_same]

theorem State.freqAdjWrite_clamped (s : State) (v : W32) :
    (s.freqAdjWrite v).flag pgTime Reg.TIME.STAT_FREQ_CLAMPED = freqOut v := by
  rw [State.freqAdjWrite, State.flag, State.fld, State.ifDo_raise_rd_past _ _ _ _ (by decide) (by norm_num) (by decide),
    ← State.fld, State.fld_setFld_same _ _ _ _ _ (by decide) (by decide)]
  cases freqOut v <;> rfl

theorem State.freqAdjWrite_caused (s : State) {v : W32} (h : freqOut v = true) : (s.freqAdjWrite v).caused pgTime 7 := by
  rw [State.freqAdjWrite, h]
  exact State.caused_raise _ (by norm_num)

/-- A write of FREQ_ADJ reaches its page and the lehr. -/
theorem State.freqAdjWrite_touches (s : State) (v : W32) : Touches { s with lehr := (s.freqAdjWrite v).lehr } (s.freqAdjWrite v)
    (fun p => p = pgTime ∨ p = pgLehr ∨ p = pgDev) := by
  have kept : (s.freqAdjWrite v).lehr = ((s.wr pgTime Reg.TIME.FREQ_ADJ.off v).through pgTime Reg.TIME.FREQ_ADJ.off 0).lehr := by
    rw [State.freqAdjWrite, State.ifDo_raise_lehr]
    rfl
  have stored : Touches s (s.wr pgTime Reg.TIME.FREQ_ADJ.off v) (fun p => p = pgTime ∨ p = pgLehr ∨ p = pgDev) :=
    (Touches.refl s _).wr _ _ _ _ (.inl rfl) (by decide) (by norm_num)
  rw [kept]
  have through := (stored.withLehr _).trans
    ((State.through_touches (s.wr pgTime Reg.TIME.FREQ_ADJ.off v) pgTime Reg.TIME.FREQ_ADJ.off 0).mono fun p hp => .inr hp.symm)
  have clamped := through.setFld pgTime Reg.TIME.STAT_FREQ_CLAMPED (b2n (freqOut v)) 0 (.inl rfl) (by decide) (by norm_num)
  exact clamped.trans ((Touches.ifDo_raise _ (freqOut v) pgTime 7).mono fun p hp => .inl hp)

/-- Settles O9: each command is a write of the time unit's page, which the page takes. -/
theorem timeCommands : Obligations.TimeCommands := by
  refine ⟨fun s h => ⟨fun hns => ?_, fun hns => ?_⟩, fun s v h => ⟨fun hv => ?_, fun hv => ?_⟩, fun s v h => ?_, fun s en h => ?_⟩
  · exact finish_congr ((hostWrite_time h _).trans (if_pos hns))
  · exact finish_congr ((hostWrite_time h _).trans (if_neg (by omega)))
  · exact finish_congr ((hostWrite_time h _).trans (if_pos hv))
  · exact finish_congr ((hostWrite_time h _).trans (if_neg (by omega)))
  · refine ⟨settle (s.freqAdjWrite v), finish_congr (hostWrite_time h _), ?_, ?_, fun hout => ?_, ?_⟩
    · rw [settle_rd, State.freqAdjWrite_rd]
    · rw [settle_flag, State.freqAdjWrite_clamped]
    · exact (settle_caused _ _ _).2 (s.freqAdjWrite_caused hout)
    · rw [settle_lehr]
      exact (s.freqAdjWrite_touches v).settle
  · exact finish_congr (hostWrite_time h _)

/-! ### The reference, the PLL and the validity of the time (R64, R103, R450) -/

/-- Settles O11: each event takes the branch that its hypotheses name. -/
theorem timeReferenceEvents : Obligations.TimeReferenceEvents := by
  refine ⟨fun s href => ?_, fun s href hlock => ?_, fun s hon => ?_⟩
  · exact finish_congr (if_pos href)
  · exact finish_congr (if_pos (by rw [href, hlock]; rfl))
  · exact finish_congr (if_pos hon)

/-! ### Reads that latch (R70, R73) -/

@[simp] theorem settle_time (s : State) : (settle s).time = s.time := by rw [settle_frame]
@[simp] theorem settle_tick (s : State) : (settle s).tick = s.tick := by rw [settle_frame]
@[simp] theorem settle_tickAt (s : State) (b : Nat) : (settle s).tickAt b = s.tickAt b := by rw [State.tickAt, settle_tick]; rfl

/-- What left the rest alone leaves it alone beside another answer. -/
theorem Touches.withResp {s t : State} {P : Nat → Prop} (h : Touches s t P) (r : List W32) :
    Touches { s with resp := r } { t with resp := r } P :=
  ⟨congrArg (fun x : State => { x with resp := r }) h.rest, h.regs, h.ctrs, h.rings⟩

/-- What left the rest alone leaves it alone beside another time. -/
theorem Touches.withTime {s t : State} {P : Nat → Prop} (h : Touches s t P) (m : TimeSt) :
    Touches { s with time := m } { t with time := m } P :=
  ⟨congrArg (fun x : State => { x with time := m }) h.rest, h.regs, h.ctrs, h.rings⟩

/-- A field of the one page. -/
theorem Touches.setFld_own {s t : State} {p : Nat} (h : Touches s t (· = p)) {f : Fld} (v : Nat) (hf : f.off < 4096) :
    Touches s (t.setFld p f v) (· = p) := h.setFld _ _ _ 0 rfl hf (by norm_num)

/-- A read of the time unit's page, which takes it: the answer, the registers and ticks as the read leaves them, and nothing
else. -/
theorem timeRead_outcome {s b u : State} {f : State → W32 × State} {v : W32} (h : s.takes pgTime) (hf : f s = (v, u))
    (hu : Touches b u (· = pgTime)) : ∃ t, finish (s.hostRead pgTime f) = .next t ∧ t.resp = [v] ∧ t.regs = u.regs ∧
      t.tick = u.tick ∧ Touches { b with resp := t.resp } t (· = pgTime) := by
  refine ⟨_, finish_congr ((State.hostRead_shared rfl rfl h f).trans (congrArg State.respond hf)), settle_resp _, settle_regs _,
    settle_tick _, ?_⟩
  rw [settle_resp]
  exact (hu.withResp _).settle

/-- A field of another word of the page reads as before. -/
theorem State.fld_setFld_word (s : State) (p v : Nat) {f g : Fld} (h : g.off / 4 ≠ f.off / 4) :
    (s.setFld p f v).fld p g = s.fld p g := State.fld_setFld_other _ _ _ _ _ (rkey_ne_word h)

/-- A written field that is its word from bit 0 up to `hi` reads the value cut to it. -/
theorem State.fld_setFld_low (s : State) (p off hi v : Nat) (h : hi < 32) :
    (s.setFld p ⟨off, hi, 0⟩ v).fld p ⟨off, hi, 0⟩ = v % 2 ^ (hi + 1) :=
  State.fld_setFld_same s p ⟨off, hi, 0⟩ v 0 (Nat.zero_le _) h

theorem nsOf_lt (t : Nat) : nsOf t < 2 ^ 32 := lt_trans (Nat.mod_lt t (by norm_num)) (by norm_num)

theorem nowNsRead_latches {s : State} (h : s.takes pgTime) : ∃ t, exec .nowNsRead s = .next t ∧
    t.resp = [BitVec.ofNat 32 (nsOf s.time.now)] ∧ t.fld pgTime Reg.TIME.NOW_SEC_LO = secOf s.time.now % 2 ^ 32 ∧
    t.fld pgTime Reg.TIME.NOW_SEC_HI = secOf s.time.now / 2 ^ 32 % 2 ^ 16 ∧
    Touches { s with resp := t.resp } t (· = pgTime) := by
  obtain ⟨t, hrun, hresp, hregs, -, htouch⟩ := timeRead_outcome (f := State.nowRead) h rfl
    (((Touches.refl s _).setFld_own _ (by decide)).setFld_own _ (by decide))
  refine ⟨t, hrun, hresp, ?_, ?_, htouch⟩
  · rw [State.fld_congr hregs, State.fld_setFld_word _ _ _ (by decide)]
    exact State.fld_setFld_low _ _ _ _ _ (by norm_num)
  · rw [State.fld_congr hregs]
    exact State.fld_setFld_low _ _ _ _ _ (by norm_num)

theorem gridTickLoRead_latches {s : State} (h : s.takes pgTime) : ∃ t, exec .gridTickLoRead s = .next t ∧
    t.resp = [BitVec.ofNat 32 s.gridTick] ∧ t.fld pgTime Reg.TIME.GRID_TICK_HI = s.gridTick / 2 ^ 32 % 2 ^ 32 ∧
    t.fld pgTime Reg.TIME.EDGE_NS = nsOf s.time.edge ∧ t.fld pgTime Reg.TIME.EDGE_SEC_LO = secOf s.time.edge % 2 ^ 32 ∧
    t.fld pgTime Reg.TIME.EDGE_SEC_HI = secOf s.time.edge / 2 ^ 32 % 2 ^ 16 ∧
    Touches { s with resp := t.resp } t (· = pgTime) := by
  obtain ⟨t, hrun, hresp, hregs, -, htouch⟩ := timeRead_outcome (f := State.gridTickRead) h rfl
    (((((Touches.refl s _).setFld_own _ (by decide)).setFld_own _ (by decide)).setFld_own _ (by decide)).setFld_own _ (by decide))
  refine ⟨t, hrun, hresp, ?_, ?_, ?_, ?_, htouch⟩
  · rw [State.fld_congr hregs, State.fld_setFld_word _ _ _ (by decide), State.fld_setFld_word _ _ _ (by decide),
      State.fld_setFld_word _ _ _ (by decide)]
    exact State.fld_setFld_low _ _ _ _ _ (by norm_num)
  · rw [State.fld_congr hregs, State.fld_setFld_word _ _ _ (by decide), State.fld_setFld_word _ _ _ (by decide)]
    exact (State.fld_setFld_low _ _ _ _ _ (by norm_num)).trans (Nat.mod_eq_of_lt (nsOf_lt _))
  · rw [State.fld_congr hregs, State.fld_setFld_word _ _ _ (by decide)]
    exact State.fld_setFld_low _ _ _ _ _ (by norm_num)
  · rw [State.fld_congr hregs]
    exact State.fld_setFld_low _ _ _ _ _ (by norm_num)

theorem ppsInNsRead_latches {s : State} (h : s.takes pgTime) : ∃ t, exec .ppsInNsRead s = .next t ∧
    t.resp = [s.rd pgTime Reg.TIME.PPS_IN_NS.off] ∧ t.fld pgTime Reg.TIME.PPS_IN_SEC_LO = s.time.capSec % 2 ^ 32 ∧
    t.rd pgTime Reg.TIME.PPS_IN_SEC_HI.off = BitVec.ofNat 32 (s.time.capSec / 2 ^ 32 % 65536) ∧
    t.flag pgTime Reg.TIME.PPS_IN_SEC_HI_NEW = false ∧ t.rd pgTime Reg.TIME.PPS_IN_NS.off = s.rd pgTime Reg.TIME.PPS_IN_NS.off ∧
    Touches { s with resp := t.resp } t (· = pgTime) := by
  obtain ⟨t, hrun, hresp, hregs, -, htouch⟩ := timeRead_outcome (f := State.ppsInRead) h rfl
    (((Touches.refl s _).setFld_own _ (by decide)).wr _ _ _ 0 rfl (by decide) (by norm_num))
  have high : t.rd pgTime Reg.TIME.PPS_IN_SEC_HI.off = BitVec.ofNat 32 (s.time.capSec / 2 ^ 32 % 65536) :=
    (State.rd_congr hregs _ _ _).trans (State.rd_wr_same _ _ _ _ _)
  refine ⟨t, hrun, hresp, ?_, high, ?_, ?_, htouch⟩
  · rw [State.fld_congr hregs, State.fld_wr_other _ _ _ _ _ (rkey_ne_word (by decide))]
    exact State.fld_setFld_low _ _ _ _ _ (by norm_num)
  · have past : bit (s.time.capSec / 2 ^ 32 % 65536) 31 = false :=
      Nat.testBit_lt_two_pow (lt_trans (Nat.mod_lt _ (by norm_num)) (by norm_num))
    rw [State.flag_eq_bit _ _ _ _ rfl]
    exact (congrArg (fun v : W32 => bit v.toNat 31) high).trans ((bit_ofNat _ (by norm_num)).trans past)
  · rw [State.rd_congr hregs, State.rd_wr_ne _ _ _ _ _ (rkey_ne_word (by decide)),
      State.rd_setFld_ne _ _ _ _ _ (rkey_ne_word (by decide))]

/-- The words of a bench's capture FIFO stand beside one another. -/
theorem ets_words (b : Nat) : (Reg.TIME.ETS1 b).off / 4 = 385 + 4 * b ∧ (Reg.TIME.ETS2 b).off / 4 = 386 + 4 * b ∧
    (Reg.TIME.ETS3 b).off / 4 = 387 + 4 * b := by
  simp only [Reg.TIME.ETS1, Reg.TIME.ETS2, Reg.TIME.ETS3]
  omega

/-- The read of a FIFO that holds an entry. -/
theorem State.etsRead_entry {s : State} {b p tag u : Nat} {rest : List (Nat × Nat × Nat)}
    (hets : (s.tickAt b).ets = (p, tag, u) :: rest) :
    s.etsRead b = (BitVec.ofNat 32 (2 ^ 31 + p % 512 * 65536 + tag % 65536),
      (((s.onTick b fun h => { h with ets := rest }).setFld pgTime (Reg.TIME.ETS1 b) (nsOf u)).setFld pgTime (Reg.TIME.ETS2 b)
        (secOf u)).setFld pgTime (Reg.TIME.ETS3 b) (secOf u / 2 ^ 32)) := by
  rw [State.etsRead, hets]

theorem ets0Read_latches {s : State} {b : BenchId} {p tag u : Nat} {rest : List (Nat × Nat × Nat)} (h : s.takes pgTime)
    (hets : (s.tickAt b).ets = (p, tag, u) :: rest) : ∃ t, exec (.ets0Read b) s = .next t ∧
    t.resp = [BitVec.ofNat 32 (2 ^ 31 + p % 512 * 65536 + tag % 65536)] ∧ t.tickAt b = { s.tickAt b with ets := rest } ∧
    (∀ c, c ≠ b.val → t.tickAt c = s.tickAt c) ∧
    t.fld pgTime (Reg.TIME.ETS1 b) = nsOf u ∧ t.fld pgTime (Reg.TIME.ETS2 b) = secOf u % 2 ^ 32 ∧
    t.fld pgTime (Reg.TIME.ETS3 b) = secOf u / 2 ^ 32 % 2 ^ 16 ∧
    Touches { s with resp := t.resp, tick := t.tick } t (· = pgTime) := by
  obtain ⟨h1, h2, h3⟩ := ets_words b
  have hb := b.isLt
  have popped (c : Nat) {t : State} (ht : t.tick = (s.onTick b fun h => { h with ets := rest }).tick) :
      t.tickAt c = (s.onTick b fun h => { h with ets := rest }).tickAt c := by rw [State.tickAt, ht]; rfl
  obtain ⟨t, hrun, hresp, hregs, htick, htouch⟩ := timeRead_outcome (f := fun s => s.etsRead b) h
    (State.etsRead_entry hets)
    ((((Touches.refl (s.onTick b fun h => { h with ets := rest }) _).setFld_own (f := Reg.TIME.ETS1 b) _ (by omega)).setFld_own
      (f := Reg.TIME.ETS2 b) _ (by omega)).setFld_own (f := Reg.TIME.ETS3 b) _ (by omega))
  refine ⟨t, hrun, hresp, ?_, fun c hc => ?_, ?_, ?_, ?_, ?_⟩
  · rw [popped _ htick, State.onTick_eq, State.tickAt_same]
  · rw [popped _ htick, State.onTick_eq, State.tickAt_ne _ _ hc]
  · rw [State.fld_congr hregs, State.fld_setFld_word _ _ _ (by omega), State.fld_setFld_word _ _ _ (by omega)]
    exact (State.fld_setFld_low _ _ _ _ _ (by norm_num)).trans (Nat.mod_eq_of_lt (nsOf_lt _))
  · rw [State.fld_congr hregs, State.fld_setFld_word _ _ _ (by omega)]
    exact State.fld_setFld_low _ _ _ _ _ (by norm_num)
  · rw [State.fld_congr hregs]
    exact State.fld_setFld_low _ _ _ _ _ (by norm_num)
  · rw [htick]
    exact htouch

theorem ets0Read_empty {s : State} {b : BenchId} (h : s.takes pgTime) (hets : (s.tickAt b).ets = []) :
    exec (.ets0Read b) s = .next (settle { s with resp := [0] }) := by
  refine finish_congr ((State.hostRead_shared rfl rfl h _).trans ?_)
  rw [State.etsRead, hets]
  rfl

/-! ### Pulses (R70, R71) -/

/-- A selected edge of PPS_IN is captured: a capture not yet read is lost. -/
def State.ppsCaptured (s : State) : State :=
  let u := s.ifDo (s.flag pgTime Reg.TIME.PPS_IN_SEC_HI_NEW) (·.bump pgTime Reg.TIME.PPS_IN_LOST)
  let v := u.wr pgTime Reg.TIME.PPS_IN_NS.off (BitVec.ofNat 32 (nsOf s.stamp))
  ({ v with time := { v.time with capSec := secOf s.stamp } }.setFld pgTime Reg.TIME.PPS_IN_SEC_HI_NEW 1).raise pgTime 2

theorem ppsInCapture_selected {s : State} {fall : Bool} (hen : s.flag pgTime Reg.TIME.CTRL_PPS_IN_EN = true)
    (hfall : s.flag pgTime Reg.TIME.CTRL_PPS_IN_FALL = fall) (hon : s.domOn domTime = true) :
    ppsInCapture fall s = s.ppsCaptured := if_pos (by rw [hen, hfall, hon, beq_self_eq_true]; rfl)

theorem State.ifDo_bump_time (s : State) (c : Bool) (p o : Nat) : (s.ifDo c (·.bump p o)).time = s.time := by cases c <;> rfl

theorem State.ifDo_bump_ctr (s : State) (c : Bool) (p o : Nat) :
    (s.ifDo c (·.bump p o)).ctr p o = s.ctr p o + BitVec.ofNat 64 (b2n c) := by
  cases c with
  | false => exact (BitVec.add_zero _).symm
  | true => exact State.ctr_addCtr_same _ _ _ _ _

theorem State.ppsCaptured_time (s : State) : s.ppsCaptured.time = { s.time with capSec := secOf s.stamp } := by
  simp only [State.ppsCaptured, State.raise_time, State.setFld_time, State.wr_time, State.ifDo_bump_time]

theorem State.ppsCaptured_ns (s : State) :
    s.ppsCaptured.rd pgTime Reg.TIME.PPS_IN_NS.off = BitVec.ofNat 32 (nsOf s.stamp) := by
  rw [State.ppsCaptured, State.rd_raise_past _ _ _ (by decide) (by norm_num) (by decide),
    State.rd_setFld_ne _ _ _ _ _ (rkey_ne_word (by decide))]
  exact State.rd_wr_same _ _ _ _ _

theorem State.ppsCaptured_new (s : State) : s.ppsCaptured.flag pgTime Reg.TIME.PPS_IN_SEC_HI_NEW = true := by
  rw [State.ppsCaptured, State.flag, State.fld_raise_other _ _ _ (rkey_ne_word (by decide)),
    State.fld_setFld_same _ _ _ _ _ (by decide) (by decide)]
  rfl

/-- A capture that overwrites an unread one counts it. -/
theorem State.ppsCaptured_lost (s : State) : s.ppsCaptured.ctr pgTime Reg.TIME.PPS_IN_LOST =
    s.ctr pgTime Reg.TIME.PPS_IN_LOST + BitVec.ofNat 64 (b2n (s.flag pgTime Reg.TIME.PPS_IN_SEC_HI_NEW)) := by
  have kept : s.ppsCaptured.ctrs =
      (s.ifDo (s.flag pgTime Reg.TIME.PPS_IN_SEC_HI_NEW) (·.bump pgTime Reg.TIME.PPS_IN_LOST)).ctrs := by
    unfold State.ppsCaptured
    rw [State.raise_ctrs, State.setFld_ctrs]
    dsimp only
    rw [State.wr_ctrs]
  rw [State.ctr_congr kept, State.ifDo_bump_ctr]

theorem State.ppsCaptured_touches (s : State) :
    Touches { s with time := s.ppsCaptured.time } s.ppsCaptured (· = pgTime) := by
  have counted : Touches s (s.ifDo (s.flag pgTime Reg.TIME.PPS_IN_SEC_HI_NEW) (·.bump pgTime Reg.TIME.PPS_IN_LOST))
      (· = pgTime) := by
    cases s.flag pgTime Reg.TIME.PPS_IN_SEC_HI_NEW with
    | false => exact Touches.refl s _
    | true => exact (Touches.refl s _).addCtr _ _ 1 0 rfl (by decide) (by norm_num)
  exact (((counted.wr _ _ _ _ rfl (by decide) (by norm_num)).withTime _).setFld _ _ _ _ rfl (by decide) (by norm_num)).raise
    _ _ rfl

/-- The time is moved on to an instant that has not passed. -/
theorem State.reach_eq (s : State) (t : Nat) : s.reach t = { s with time := { s.time with
    now := max s.time.now t, sub := if s.time.now < t then 0 else s.time.sub } } := by
  unfold State.reach
  split_ifs with h
  · rw [max_eq_right h.le]
  · rw [max_eq_left (Nat.le_of_not_lt h)]

/-- The instant at which PPS_OUT rises next: the next second plus its offset. -/
def State.ppsNext (s : State) : Nat :=
  let t := s.time.now / 1000000000 * 1000000000 + s.ppsOffset
  if t < s.time.now then t + 1000000000 else t

theorem State.ppsNext_spec (s : State) :
    s.ppsNext % 1000000000 = s.ppsOffset ∧ s.time.now ≤ s.ppsNext ∧ s.ppsNext < s.time.now + 1000000000 := by
  have inSecond : s.ppsOffset ≤ 999999999 := min_le_left _ _
  unfold State.ppsNext
  dsimp only
  split_ifs <;> omega

/-- PPS_OUT is `v` at an instant that the time reaches. -/
def State.ppsOutAt (s : State) (t : Nat) (v : Bool) : State :=
  let u := s.reach t
  { u with time := { u.time with ppsOut := v } }

theorem ppsOutRise_due {s : State} (hfwd : s.boot.forwards = true) (hvalid : s.timeValid = true)
    (hen : s.flag pgTime Reg.TIME.CTRL_PPS_OUT_EN = true) (hlow : s.time.ppsOut = false) :
    ppsOutRise s = s.ppsOutAt s.ppsNext true := if_pos (by rw [hfwd, hvalid, hen, hlow]; rfl)

theorem ppsOutFall_due {s : State} (hhigh : s.time.ppsOut = true) : ppsOutFall s =
    s.ppsOutAt (s.time.now - (s.time.now + 1000000000 - s.ppsOffset) % 1000000000 + s.ppsWidth) false := if_pos hhigh

/-- A change of PPS_OUT changes the pin and moves the time on, and nothing else. -/
theorem State.ppsOutAt_outcome (s : State) (t : Nat) (v : Bool) : let u := settle (s.ppsOutAt t v)
    u.time.ppsOut = v ∧ u.time.now = max s.time.now t ∧
      u.time = { s.time with now := u.time.now, sub := u.time.sub, ppsOut := v } ∧
      Touches { s with time := u.time } u (fun _ => False) := by
  dsimp only
  rw [settle_time, State.ppsOutAt, State.reach_eq]
  exact ⟨rfl, rfl, rfl, (Touches.refl _ _).settle⟩

/-- Settles O8: the reads latch fields of words of their own; the pulses come at instants that the time moves on to. -/
theorem timeReadsAndPulses : Obligations.TimeReadsAndPulses := by
  refine ⟨⟨fun s h => nowNsRead_latches h, fun s h => gridTickLoRead_latches h, fun s h => ppsInNsRead_latches h,
    fun s b p tag u rest h hets => ets0Read_latches h hets, fun s b h hets => ets0Read_empty h hets⟩,
    fun s fall hen hfall hon => ?_, fun s hfwd hvalid hen hlow => ?_, fun s hhigh => ?_⟩
  · refine ⟨settle s.ppsCaptured, finish_congr (ppsInCapture_selected hen hfall hon), ?_, ?_, ?_, ?_, ?_, ?_⟩
    · rw [settle_rd, State.ppsCaptured_ns]
    · rw [settle_time, State.ppsCaptured_time]
    · rw [settle_flag, State.ppsCaptured_new]
    · exact (settle_caused _ _ _).2 (State.caused_raise _ (by norm_num))
    · rw [settle_ctr_page _ (by decide) (by decide) (by norm_num), State.ppsCaptured_lost]
    · rw [settle_time]
      exact s.ppsCaptured_touches.settle
  · obtain ⟨hoff, hlo, hhi⟩ := s.ppsNext_spec
    obtain ⟨hout, hnow, htime, htouch⟩ := s.ppsOutAt_outcome s.ppsNext true
    rw [max_eq_right hlo] at hnow
    refine ⟨_, finish_congr (ppsOutRise_due hfwd hvalid hen hlow), hout, ?_, ?_, ?_, htime, htouch⟩
    · rw [hnow, hoff]
    · rw [hnow]
      exact hlo
    · rw [hnow]
      exact hhi
  · exact ⟨_, finish_congr (ppsOutFall_due hhigh), s.ppsOutAt_outcome _ false⟩

end Sys2Proof.Machine
end

section
/-! SUPPORT. Edges: what a local edge makes of a bench's lag, and what a time step leaves to the benches. -/

namespace Sys2Proof.Machine

/-! ### The OVERRUN state (R59) -/

/-- Lag, length and the largest lag of a bench at an edge, before OVERRUN is counted: its page's words and its tick. -/
def State.pacedTick (s : State) (b clk gridLen : Nat) : State :=
  let h := s.tickAt b
  let lag := s.lagAt b clk
  let longer := s.longerBy b
  let s1 := if s.edgeClock b < clk then s.bump pgTime (Reg.TIME.LATE_EDGES b) else s
  let s2 := (s1.putTick b { h with lag := lag, grid := s.nextGrid b gridLen + longer,
                                   len := s.nextGrid b gridLen + longer.toNat - min lag 168,
                                   longer := h.longer.filter fun e => decide (h.num.toNat < e.1) }).setFld pgTime
    (Reg.TIME.BTICK_STAT_STATE b) (s.tickState b lag)
  s2.setFld pgTime (Reg.TIME.BTICK_MAXLAG b) (min 0xFFFF (max lag (s.fld pgTime (Reg.TIME.BTICK_MAXLAG b))))

/-- Entering OVERRUN is counted and raises its cause, leaving it raises another. -/
def State.overrunNoted (s : State) (b was now : Nat) : State :=
  let u := if now = 3 ∧ was ≠ 3 then (s.bump pgTime (Reg.TIME.OVR_ENTRIES b)).raise pgTime 3 else s
  if was = 3 ∧ now ≠ 3 then u.raise pgTime 4 else u

theorem State.paceEdge_eq (s : State) (b clk gridLen : Nat) : s.paceEdge b clk gridLen =
    (s.pacedTick b clk gridLen).overrunNoted b (s.fld pgTime (Reg.TIME.BTICK_STAT_STATE b)) (s.tickState b (s.lagAt b clk)) := rfl

theorem State.tickState_lt (s : State) (b lag : Nat) : s.tickState b lag < 4 := by
  unfold State.tickState
  split_ifs <;> norm_num

/-- On the grid, OVERRUN is entered above its limit, left at no lag, and kept between (R59). -/
theorem State.tickState_overrun {s : State} (b lag : Nat) (h : s.gridOn = true) : s.tickState b lag = 3 ↔
    5376 < lag ∨ s.fld pgTime (Reg.TIME.BTICK_STAT_STATE b) = 3 ∧ 0 < lag := by
  have on : ¬ (!s.gridOn) = true := by rw [h]; exact Bool.false_ne_true
  unfold State.tickState
  rw [if_neg on]
  split_ifs with hover hkept hzero
  · exact iff_of_true rfl (.inl hover)
  · exact iff_of_true rfl (.inr hkept)
  · exact iff_of_false (by norm_num) (by tauto)
  · exact iff_of_false (by norm_num) (by tauto)

theorem State.pacedTick_state (s : State) (b clk gridLen : Nat) :
    (s.pacedTick b clk gridLen).fld pgTime (Reg.TIME.BTICK_STAT_STATE b) = s.tickState b (s.lagAt b clk) := by
  have apart : rkey pgTime (Reg.TIME.BTICK_STAT_STATE b).off 0 ≠ rkey pgTime (Reg.TIME.BTICK_MAXLAG b).off 0 := by
    apply rkey_ne_word
    simp only [Reg.TIME.BTICK_STAT_STATE, Reg.TIME.BTICK_MAXLAG]
    omega
  rw [State.pacedTick, State.fld_setFld_other _ _ _ _ _ apart,
    State.fld_setFld_same _ _ _ _ _ (by norm_num [Reg.TIME.BTICK_STAT_STATE]) (by norm_num [Reg.TIME.BTICK_STAT_STATE])]
  exact Nat.mod_eq_of_lt (s.tickState_lt b _)

/-- Pacing counts no entry into OVERRUN. -/
theorem State.pacedTick_entries (s : State) (b clk gridLen : Nat) :
    (s.pacedTick b clk gridLen).ctr pgTime (Reg.TIME.OVR_ENTRIES b) = s.ctr pgTime (Reg.TIME.OVR_ENTRIES b) := by
  have apart : rkey pgTime (Reg.TIME.OVR_ENTRIES b) 0 ≠ rkey pgTime (Reg.TIME.LATE_EDGES b) 0 := by
    apply rkey_ne_word
    simp only [Reg.TIME.OVR_ENTRIES, Reg.TIME.LATE_EDGES]
    omega
  rw [State.pacedTick, State.ctr_congr (State.setFld_ctrs ..), State.ctr_congr (State.setFld_ctrs ..),
    State.ctr_congr (State.putTick_ctrs ..)]
  split_ifs
  · exact State.ctr_addCtr_ne _ _ _ _ _ apart
  · rfl

theorem State.overrunNoted_fld (s : State) (b was now : Nat) {f : Fld} (h : 8 ≤ f.off / 4) :
    (s.overrunNoted b was now).fld pgTime f = s.fld pgTime f := by
  have raised (u : State) (i : Nat) : (u.raise pgTime i).fld pgTime f = u.fld pgTime f :=
    State.fld_raise_other _ _ _ (rkey_ne_word (by omega))
  unfold State.overrunNoted
  split_ifs
  · rw [raised, raised, State.fld_bump]
  · rw [raised, State.fld_bump]
  · rw [raised]
  · rfl

theorem State.overrunNoted_enters (s : State) (b : Nat) {was : Nat} (h : was ≠ 3) :
    s.overrunNoted b was 3 = (s.bump pgTime (Reg.TIME.OVR_ENTRIES b)).raise pgTime 3 := by
  simp [State.overrunNoted, h]

theorem State.overrunNoted_leaves (s : State) (b : Nat) {now : Nat} (h : now ≠ 3) :
    s.overrunNoted b 3 now = s.raise pgTime 4 := by
  simp [State.overrunNoted, h]

theorem State.overrunNoted_uncounted (s : State) (b : Nat) {was now : Nat} (h : now ≠ 3 ∨ was = 3) :
    (s.overrunNoted b was now).ctrs = s.ctrs := by
  have none : ¬ (now = 3 ∧ was ≠ 3) := by tauto
  unfold State.overrunNoted
  rw [if_neg none]
  split_ifs <;> rfl

/-- Settles O54: the state that the lag gives is the one written, and its changes are noted. -/
theorem overrunFollowsLag : Obligations.OverrunFollowsLag := by
  intro s b clk len hgrid lag inOvr t inOvr'
  let u := s.pacedTick b clk len
  have noted : t = u.overrunNoted b (s.fld pgTime (Reg.TIME.BTICK_STAT_STATE b)) (s.tickState b lag) := s.paceEdge_eq b clk len
  have now : inOvr' ↔ s.tickState b lag = 3 := by
    have shown : t.fld pgTime (Reg.TIME.BTICK_STAT_STATE b) = s.tickState b lag := by
      rw [noted, State.overrunNoted_fld _ _ _ _ (by simp only [Reg.TIME.BTICK_STAT_STATE]; omega)]
      exact s.pacedTick_state b clk len
    rw [← shown]
  have overrun : inOvr' ↔ 5376 < lag ∨ inOvr ∧ 0 < lag := now.trans (State.tickState_overrun b lag hgrid)
  have kept : u.ctr pgTime (Reg.TIME.OVR_ENTRIES b) = s.ctr pgTime (Reg.TIME.OVR_ENTRIES b) := s.pacedTick_entries b clk len
  refine ⟨fun h => overrun.2 (.inl h), fun h => ?_, fun hne hle => ?_, fun henter hwas => ?_, fun h => ?_, fun hwas hleave => ?_⟩
  · rw [overrun]
    omega
  · rw [overrun]
    exact ⟨fun h => (h.resolve_left (Nat.not_lt.2 hle)).1, fun h => .inr ⟨h, Nat.pos_of_ne_zero hne⟩⟩
  · rw [noted, now.1 henter, State.overrunNoted_enters _ _ hwas]
    refine ⟨?_, State.caused_raise _ (by norm_num)⟩
    rw [State.ctr_congr (State.raise_ctrs ..), State.bump, State.ctr_addCtr_same, kept]
    rfl
  · rw [noted, State.ctr_congr (State.overrunNoted_uncounted _ _ (h.imp_left (mt now.2))), kept]
  · rw [noted, show s.fld pgTime (Reg.TIME.BTICK_STAT_STATE b) = 3 from hwas, State.overrunNoted_leaves _ _ (mt now.2 hleave)]
    exact State.caused_raise _ (by norm_num)

/-! ### Edges (R45 to R48, R63, R65) -/

theorem State.realignTick_running {s : State} {b : Nat} (a : Int) (h : s.gridTick ≤ (s.tickAt b).num.toNat) :
    (s.realignTick b a).tickAt b = { s.tickAt b with grid := (s.tickAt b).grid - a } := by
  rw [State.realignTick, State.onTick_eq, State.tickAt_same, if_neg (Nat.not_lt.2 h)]

theorem State.realignTick_earlier {s : State} {b : Nat} (a : Int) (h : (s.tickAt b).num.toNat < s.gridTick) :
    (s.realignTick b a).tickAt b = { s.tickAt b with longer := (s.gridTick, -a) :: (s.tickAt b).longer } := by
  rw [State.realignTick, State.onTick_eq, State.tickAt_same, if_pos h]

/-- Settles O53: an edge that is due takes its course, another does nothing. -/
theorem edgesCommit : Obligations.EdgesCommit := by
  refine ⟨fun s => ⟨fun hgrid hboot => finish_congr ((if_pos ?_).trans ?_), fun h => finish_congr (if_neg ?_)⟩,
    fun s b a => ⟨fun h => State.realignTick_running a h, fun h => State.realignTick_earlier a h, fun c hc => ?_⟩,
    fun s b clk len => ⟨fun hdue hgrid => finish_congr ?_, fun hdue hgrid => finish_congr ?_, fun hdue => finish_congr ?_⟩⟩
  · rw [hgrid, hboot]
    rfl
  · cases s.time.realign <;> rfl
  · rcases h with h | h <;> simp [h]
  · exact State.tickAt_ne _ _ hc
  · exact (if_pos hdue).trans (if_pos hgrid)
  · exact (if_pos hdue).trans (if_neg (ne_true_of_eq_false hgrid))
  · exact if_neg (ne_true_of_eq_false hdue)

end Sys2Proof.Machine
end

section
/-! SUPPORT. The table windows: how a TW_CMD write is taken, and how one with no operation of its table ends. -/

namespace Sys2Proof.Machine

/-! ### TW_CMD writes that are taken (R181, R182) -/

/-- A table command whose hubs have room is taken at once. -/
theorem State.submit_table {s : State} {c : HostCmd} (hk : c.kind = .table) (h : s.hubsFull c = false) :
    s.submit c = s.startTable c := by
  rw [State.submit, h, State.startCmd, hk]
  rfl

theorem State.twCmd_taken {s : State} {p v : Nat} (h : s.hubsFull (s.twRead p v) = false) :
    s.twCmd p v = s.startTable (s.twRead p v) := State.submit_table rfl h

/-- A TW_CMD write to a page that takes it, whose hubs have room. -/
theorem twWrite_taken {s : State} {w : Window} {k : Fin 16} (op : Nat) (h : s.takes (windowPage w)) :
    let u := s.hubAnswered (windowPage w)
    let c := u.twRead (windowPage w) (k * 2 ^ 28 + op * 2 ^ 24)
    u.hubsFull c = false → twWrite w k op s = u.startTable c :=
  fun hroom => (State.wordWrite_takes h _ _ _ 0).trans (State.twCmd_taken hroom)

theorem keySlotWrite_taken {s : State} {c : ClusterId} (load : Bool) (h : s.takes (pgCiph c)) :
    let u := (s.hubAnswered (pgCiph c)).setFld (pgCiph c) ⟨0x23C, 31, 31⟩ (b2n load)
    let x := u.twRead (pgCiph c) (2 * 2 ^ 28 + 4 * 2 ^ 24)
    u.hubsFull x = false → keySlotWrite c load s = u.startTable x := by
  intro u x hroom
  have ready : ¬ s.waits (pgCiph c) = true := by
    obtain ⟨-, -, -, -, -, hready⟩ := h
    exact ne_true_of_eq_false hready
  exact (if_neg ready).trans ((State.hostWrite_takes h _).trans (State.twCmd_taken hroom))

/-! ### Commands refused for their operation (R182, R183) -/

/-- The operation that a TW_CMD word names. -/
theorem State.twRead_op (s : State) (p k : Nat) {op : Nat} (h : op < 16) : (s.twRead p (k * 2 ^ 28 + op * 2 ^ 24)).op = op := by
  show bits (k * 2 ^ 28 + op * 2 ^ 24) 27 24 = op
  rw [bits, Nat.shiftRight_eq_div_pow]
  omega

/-- No table has an operation above WRITE. -/
theorem HostCmd.bad_of_op {c : HostCmd} (h : 4 < c.op) : c.bad = true := by
  have past : 3 < c.op := by omega
  have notRead : c.op ≠ 3 := by omega
  have notWrite : c.op ≠ 4 := by omega
  rw [HostCmd.bad]
  split
  · rfl
  · simp [past]
  · simp [notRead, notWrite]

theorem State.startTable_bad (s : State) {c : HostCmd} (h : c.bad = true) :
    s.startTable c = (s.tableOpened c).endAll c { status := 8 } := if_pos h

/-- The result registers of a command's page take its result. -/
def State.showResult (s : State) (c : HostCmd) : State :=
  let s3 := s.wr c.page 0x254 (BitVec.ofNat 32 c.result)
  let s4 := if c.cls = 0x0C then s3.wr c.page 0x25C (BitVec.ofNat 32 c.bstat) else s3
  if c.cls = 0x0D then s4.wr c.page 0x260 (BitVec.ofNat 32 (c.index % 2 ^ 20)) else s4

theorem State.showResult_rd (s : State) (c : HostCmd) : (s.showResult c).rd c.page 0x254 = BitVec.ofNat 32 c.result := by
  have apart {u : State} {off : Nat} (v : W32) (h : 0x254 / 4 ≠ off / 4) :
      (u.wr c.page off v).rd c.page 0x254 = u.rd c.page 0x254 := State.rd_wr_ne _ _ _ _ _ (rkey_ne_word h)
  unfold State.showResult
  split_ifs
  · rw [apart _ (by norm_num), apart _ (by norm_num), State.rd_wr_same]
  · rw [apart _ (by norm_num), State.rd_wr_same]
  · rw [apart _ (by norm_num), State.rd_wr_same]
  · rw [State.rd_wr_same]

/-- A final command shows its result, unless a later one has taken its page. -/
theorem State.finalTable_result (s : State) {c : HostCmd} (hk : c.kind = .table) (hs : c.stale = false) :
    (s.finalTable c).rd c.page 0x254 = BitVec.ofNat 32 c.result := by
  have shown : ¬ c.stale = true := ne_true_of_eq_false hs
  have table : ¬ c.kind = .sq := by rw [hk]; decide
  have final : ∃ u : State, s.finalTable c = u.showResult c := ⟨_, (if_neg shown).trans (if_neg table)⟩
  obtain ⟨u, hu⟩ := final
  rw [hu, State.showResult_rd]

theorem State.finalCmd_table (s : State) {c : HostCmd} (hk : c.kind = .table) : s.finalCmd c = s.finalTable c := by
  rw [State.finalCmd, hk]

/-- A team's status is one of those that its units gave, or 15. -/
theorem HostCmd.teamStatus_le {c : HostCmd} (h : ∀ e ∈ c.stats, e.2 ≤ 15) (t : Nat) : c.teamStatus t ≤ 15 := by
  unfold HostCmd.teamStatus
  split_ifs
  · cases hfound : ((c.leads t).head?).bind fun u => (c.stats.find? fun e => e.1 == u).map Prod.snd with
    | none => exact le_refl 15
    | some n =>
      obtain ⟨u, -, hu⟩ := Option.bind_eq_some_iff.1 hfound
      obtain ⟨e, he, rfl⟩ := Option.map_eq_some_iff.1 hu
      exact h e (List.mem_of_find?_eq_some he)
  · exact le_refl 15

/-- A result's DONE bit is set: its statuses do not carry into it. -/
theorem HostCmd.result_done {c : HostCmd} (h : ∀ e ∈ c.stats, e.2 ≤ 15) : bit (BitVec.ofNat 32 c.result).toNat 31 = true := by
  have hA := HostCmd.teamStatus_le h 0
  have hB := HostCmd.teamStatus_le h 1
  have hstash : b2n c.stash ≤ 1 := by cases c.stash <;> decide
  rw [bit_ofNat _ (by norm_num), bit, Nat.testBit_eq_decide_div_mod_eq, decide_eq_true_eq, HostCmd.result]
  omega

/-- A command with no operation of its table ends at once with DONE. -/
theorem State.startTable_bad_done (s : State) {c : HostCmd} (hk : c.kind = .table) (hs : c.stale = false) (hbad : c.bad = true) :
    bit ((s.startTable c).rd c.page 0x254).toNat 31 = true := by
  let e : HostCmd := { c with
    stats := c.teams.flatMap fun t => (c.units t).map fun u => (u, 8), moves := 0, stash := false, way := 0, index := 0 }
  have ended : s.startTable c = (s.tableOpened c).finalTable e :=
    (s.startTable_bad hbad).trans (State.finalCmd_table _ (c := e) hk)
  have statuses : ∀ x ∈ e.stats, x.2 ≤ 15 := by
    intro x hx
    obtain ⟨t, -, ht⟩ := List.mem_flatMap.1 hx
    obtain ⟨u, -, rfl⟩ := List.mem_map.1 ht
    norm_num
  rw [ended, State.finalTable_result (c := e) _ hk hs]
  exact HostCmd.result_done statuses

/-- Settles O30: each write makes the window's command, which the hub takes; OP above 4 is no operation of any table. -/
theorem tableWindowCommands : Obligations.TableWindowCommands := by
  refine ⟨fun s w k h => ?_, fun s c h => ⟨fun hroom => ?_, fun hroom => ?_⟩⟩
  · intro p s1 cmd
    have taken (op : Nat) (hroom : s1.hubsFull (cmd op) = false) :
        finish (twWrite w k op s) = .next (settle (s1.startTable (cmd op))) := finish_congr (twWrite_taken op h hroom)
    refine ⟨taken 0, taken 1, taken 2, taken 3, taken 4, fun op hroom => ⟨_, taken (5 + op) hroom, rfl, ?_⟩⟩
    have hop : (cmd (5 + op)).op = 5 + op := State.twRead_op _ _ _ (by omega)
    rw [settle_rd]
    exact s1.startTable_bad_done rfl rfl (HostCmd.bad_of_op (by omega))
  · exact finish_congr (keySlotWrite_taken true h hroom)
  · exact finish_congr (keySlotWrite_taken false h hroom)

end Sys2Proof.Machine
end

section
/-! SUPPORT. Reception: the offer of a header, the end of a frame, and fragments, each by the branch it takes. -/

namespace Sys2Proof.Machine

/-! ### The offer of a header (R49, R252) -/

/-- A timestamp of an instant in the past draws a free value at most. -/
theorem State.stampAgo_frame (s : State) (age : Nat) :
    (s.stampAgo age).2 = { s with nonce := (s.stampAgo age).2.nonce } := by
  unfold State.stampAgo
  split
  · rfl
  · rfl

/-- An untagged frame that passes the checks: its header's request joins the allocator's, and its MAC waits. -/
theorem State.offer_passes {s u : State} {x : Nat} {bytes : List Byte} (whole : Bool) (age : Nat)
    (hu : u = s.putRx x { active := true }) (hopen : u.closedTo (portBench (x % 512)) = none)
    (hplain : u.inspect (x % 512) bytes = (some none, u)) (hpass : u.admitCheck (x % 512) bytes = none) :
    ∃ (v : State) (k : RxSt) (what : ReqFor), v.buf = s.buf ∧ k.waiting = true ∧
      s.offer x bytes whole age = (v.request (portBench (x % 512)) (portLocal (x % 512)) (x % 512)
        (if whole then some bytes.length else none) what).putRx x k := by
  subst hu
  have stamped (n : Nat) : ((s.putRx x { active := true }).stampAgo n).2.buf = s.buf := by
    rw [State.stampAgo_frame]
    rfl
  have stored : (if whole = true then storedFrame none bytes else (bytes, true, true, 0)) = (bytes, true, true, 0) := by
    cases whole <;> rfl
  unfold State.offer
  dsimp only
  rw [hopen]
  dsimp only
  rw [hplain]
  dsimp only
  rw [stored]
  dsimp only
  rw [hpass]
  dsimp only
  refine ⟨_, _, _, ?_, ?_, rfl⟩
  · exact stamped _
  · rfl

theorem State.offer_requests {s : State} {x : Nat} {bytes : List Byte} (whole : Bool) (age : Nat)
    (hopen : (s.putRx x { active := true }).closedTo (portBench (x % 512)) = none)
    (hplain : (s.putRx x { active := true }).inspect (x % 512) bytes = (some none, s.putRx x { active := true }))
    (hpass : (s.putRx x { active := true }).admitCheck (x % 512) bytes = none) :
    let t := s.offer x bytes whole age
    (t.rxAt x).waiting = true ∧ ∃ r, (t.bufAt (portBench (x % 512))).reqs = (s.bufAt (portBench (x % 512))).reqs ++ [r] ∧
      r.slot = portLocal (x % 512) ∧ r.owner = x % 512 ∧ r.length = if whole then some bytes.length else none := by
  obtain ⟨v, k, what, hbuf, hwait, hoffer⟩ := State.offer_passes whole age rfl hopen hplain hpass
  dsimp only
  rw [hoffer, State.rxAt_same]
  have same : v.bufAt (portBench (x % 512)) = s.bufAt (portBench (x % 512)) := by rw [State.bufAt, hbuf]; rfl
  refine ⟨hwait, ⟨portLocal (x % 512), x % 512, if whole then some bytes.length else none,
    (v.bufAt (portBench (x % 512))).clk, what⟩, ?_, rfl, rfl, rfl⟩
  rw [State.bufAt, State.putRx_buf, ← State.bufAt, State.request, State.onBuf_eq, State.bufAt_same, same]

/-! ### The end of a frame (R87, R88, R576) -/

section
variable {s : State} {x : Nat} {bytes : List Byte} {lost early hit : Bool} {age : Nat} {err : SeqErr}

theorem State.endFrame_failed (h : (s.teamAt (benchTeam (portBench (x % 512)))).failed = true) :
    s.endFrame x bytes lost early hit age err = s := if_pos h

theorem State.endFrame_closed (hup : (s.teamAt (benchTeam (portBench (x % 512)))).failed = false)
    (hfresh : (s.rxAt x).active = false) (hshut : s.receives (x % 512) early = false) :
    s.endFrame x bytes lost early hit age err =
      if s.lstate (x % 512) = 0 then s else s.portCount (x % 512) Reg.PORT.RX_NOT_UP :=
  (if_neg (ne_true_of_eq_false hup)).trans (if_pos (by rw [hfresh, hshut]; rfl))

/-- A frame that its MAC receives: how its reception ended, in its MAC's part, and what a good one wakes. -/
theorem State.endFrame_received (hup : (s.teamAt (benchTeam (portBench (x % 512)))).failed = false)
    (hrec : (s.rxAt x).active = true ∨ s.receives (x % 512) early = true) :
    let p := x % 512
    let f := bytes.take (s.maxFrame p + 1)
    let e := s.rxEnd p f lost hit
    let s1 := s.rxEndCount p f e
    let w := s1.offer x f true age
    let u := if (s.rxAt x).active then s1.endOffered x f e err
      else if e = .good ∧ beAt f 12 2 ≠ 0x8808 then (if (w.rxAt x).waiting then w else w.putRx x {})
      else s1.inspectBad p f
    s.endFrame x bytes lost early hit age err = if e = .good then u.rxWake p else u :=
  (if_neg (ne_true_of_eq_false hup)).trans (if_neg (by rcases hrec with h | h <;> simp [h]))

end

/-! ### Fragments (R91) -/

/-- A fragment is taken into the frame in reassembly: the last one ends the frame where its MAC does not wait. -/
def State.fragmentTaken (s : State) (p : PortId) (last early : Bool) (age : Nat) (err : SeqErr) (n next : Nat)
    (all : List Byte) : State :=
  if last then
    if s.rxBlocked (512 + p.val) all early then s.onLink p fun k => { k with asm := some (n, next, all) }
    else (s.onLink p fun k => { k with asm := none }).endFrame (512 + p.val) all false early false age err
  else s.onLink p fun k => { k with asm := some (n, next, all) }

theorem State.fragmentTaken_eq (s : State) (p : PortId) (last early : Bool) (age : Nat) (err : SeqErr) (n next : Nat)
    (all : List Byte) : s.fragmentTaken p last early age err n next all =
      if last = true ∧ s.rxBlocked (512 + p.val) all early = false then
        (s.onLink p fun k => { k with asm := none }).endFrame (512 + p.val) all false early false age err
      else s.onLink p fun k => { k with asm := some (n, next, all) } := by
  unfold State.fragmentTaken
  cases last <;> cases s.rxBlocked (512 + p.val) all early <;> rfl

theorem fragmentReceive_idle {s : State} {p : PortId} (smd : Smd) (bytes : List Byte) (last early : Bool) (age : Nat)
    (err : SeqErr) (h : s.portFlag p Reg.PORT.MMCFG_MM_EN = false ∨ (s.rxAt (512 + p.val)).waiting = true ∨
      s.nearLoop p = true ∨ (s.teamAt (benchTeam (portBench p))).failed = true) :
    fragmentReceive p smd bytes last early age err s = s := if_pos (by simpa [or_assoc] using h)

/-- Settles O46: each command of reception takes the branch that its hypotheses name. -/
theorem framesAreReceived : Obligations.FramesAreReceived := by
  refine ⟨fun s p bytes early pre age => ?_, fun s x bytes whole age hopen hplain hpass =>
    State.offer_requests whole age hopen hplain hpass, fun s p bytes lost early pre age fec err => ?_,
    fun s x bytes lost early hit age err => ?_, fun s p bytes last early age err => ?_⟩
  · intro x f
    refine ⟨fun h => finish_congr (if_pos (c := ((s.rxAt x).active || !s.receives p early ||
      decide (f.length < s.windowNeed p f)) = true) ?_), fun hfresh hrec hwin => ?_⟩
    · simpa only [Bool.or_eq_true, Bool.not_eq_true', decide_eq_true_eq, or_assoc] using h
    · have offered : ¬ ((s.rxAt x).active || !s.receives p early || decide (f.length < s.windowNeed p f)) = true := by
        simp [hfresh, hrec, hwin]
      exact ⟨fun hctl => finish_congr ((if_neg offered).trans (if_pos hctl)),
        fun hctl => finish_congr ((if_neg offered).trans (if_neg hctl))⟩
  · intro x
    refine ⟨fun h => finish_congr ?_, fun f h => ⟨fun hblocked => finish_congr ?_, fun hfree => finish_congr ?_⟩⟩
    · rw [frameReceive, h]
    · rw [frameReceive, h]
      exact if_pos hblocked
    · rw [frameReceive, h]
      exact if_neg (ne_true_of_eq_false hfree)
  · intro p f e t wake
    refine ⟨fun h => State.endFrame_failed h, fun hup => ⟨fun hfresh hshut => State.endFrame_closed hup hfresh hshut,
      fun hact => ?_, fun hfresh hrec hbad => ?_, fun hfresh hrec hgood hctl => ?_⟩⟩
    · exact (State.endFrame_received hup (.inl hact)).trans (congrArg wake (if_pos hact))
    · have fresh : ¬ (s.rxAt x).active = true := ne_true_of_eq_false hfresh
      have notOffered : ¬ (e = .good ∧ beAt f 12 2 ≠ 0x8808) := fun h => hbad.elim (· h.1) h.2
      exact (State.endFrame_received hup (.inr hrec)).trans (congrArg wake ((if_neg fresh).trans (if_neg notOffered)))
    · have fresh : ¬ (s.rxAt x).active = true := ne_true_of_eq_false hfresh
      exact (State.endFrame_received hup (.inr hrec)).trans (congrArg wake ((if_neg fresh).trans (if_pos ⟨hgood, hctl⟩)))
  · intro x run on keep take
    have takes : ∀ u n c all, u.fragmentTaken p last early age err n c all = take u n c all :=
      fun u n c all => State.fragmentTaken_eq ..
    refine ⟨fun h smd => finish_congr (fragmentReceive_idle smd bytes last early age err h), fun hen hwait hloop hup => ?_⟩
    have runs : ¬ (!s.portFlag p Reg.PORT.MMCFG_MM_EN || (s.rxAt x).waiting || s.nearLoop p ||
        (s.teamAt (benchTeam (portBench p))).failed) = true := by simp [hen, hwait, hloop, hup]
    have going (hon : on = true) : ¬ (!on) = true := by rw [hon]; exact Bool.false_ne_true
    refine ⟨finish_congr (if_neg runs), finish_congr (if_neg runs), finish_congr (if_neg runs),
      fun n => finish_congr ((if_neg runs).trans ?_), fun hoff n c => finish_congr ((if_neg runs).trans ?_),
      fun hon hasm n c => finish_congr ((if_neg runs).trans ?_), fun hon n0 c0 sofar hasm n c =>
        ⟨fun hn hc => finish_congr ((if_neg runs).trans ?_), fun hn hc => finish_congr ((if_neg runs).trans ?_),
          fun hn => finish_congr ((if_neg runs).trans ?_)⟩⟩
    · rw [← takes]
      rfl
    · exact if_pos (show (!on) = true by rw [hoff]; rfl)
    · refine (if_neg (going hon)).trans ?_
      rw [hasm]
    · refine (if_neg (going hon)).trans ?_
      rw [hasm, ← takes]
      exact if_pos ⟨hn, hc⟩
    · refine (if_neg (going hon)).trans ?_
      rw [hasm]
      exact (if_neg (fun h => hc h.2)).trans (if_pos hn)
    · refine (if_neg (going hon)).trans ?_
      rw [hasm]
      exact (if_neg (fun h => hn h.1)).trans (if_neg hn)

end Sys2Proof.Machine
end

section
/-! SUPPORT. The engines of a bench: dispatch, what ends a routine, the scrubber, and the final check of a protected frame. -/

namespace Sys2Proof.Machine

/-! ### Changes and counts of a bench's MARVER page -/

@[simp] theorem settle_mar (s : State) : (settle s).mar = s.mar := by rw [settle_frame]
@[simp] theorem settle_marAt (s : State) (b : Nat) : (settle s).marAt b = s.marAt b := by rw [State.marAt, settle_mar]; rfl

/-- What left the rest alone leaves it alone beside other marver pools. -/
theorem Touches.withMar {s t : State} {P : Nat → Prop} (h : Touches s t P) (m : Tab MarverSt) :
    Touches { s with mar := m } { t with mar := m } P :=
  ⟨congrArg (fun x : State => { x with mar := m }) h.rest, h.regs, h.ctrs, h.rings⟩

/-- A change of registers and counters alone leaves the marver pools. -/
theorem Touches.mar_eq {s t : State} {P : Nat → Prop} (h : Touches s t P) : t.mar = s.mar := (congrArg State.mar h.rest).trans rfl

theorem pgMarver_ne_host (b : Nat) : pgMarver b ≠ pgHost := by
  unfold pgMarver pgHost
  omega

theorem Touches.marCount (s : State) (b c n : Nat) (hc : c < 4096) : Touches s (s.marCount b c n) (· = pgMarver b) :=
  (Touches.refl s _).addCtr _ _ _ _ rfl hc (by norm_num)

/-- Some of a thing are counted in `c` of a bench's MARVER page with cause `i`; none are not. -/
def State.marNote (s : State) (b c n i : Nat) : State := s.ifDo (n != 0) fun u => (u.marCount b c n).raise (pgMarver b) i

theorem State.marNote_zero (s : State) (b c i : Nat) : s.marNote b c 0 i = s := rfl
theorem State.marNote_pos (s : State) (b c i : Nat) {n : Nat} (h : n ≠ 0) :
    s.marNote b c n i = (s.marCount b c n).raise (pgMarver b) i := if_pos (bne_iff_ne.2 h)

theorem State.marNote_touches (s : State) (b n i : Nat) {c : Nat} (hc : c < 4096) :
    Touches s (s.marNote b c n i) (· = pgMarver b) := by
  by_cases h : n = 0
  · rw [h, State.marNote_zero]
    exact Touches.refl s _
  · rw [State.marNote_pos _ _ _ _ h]
    exact (Touches.marCount s b c n hc).raise _ _ rfl

theorem State.marNote_ctr (s : State) (b n i : Nat) {c o : Nat} (hc : o / 4 ≠ c / 4) :
    (s.marNote b c n i).ctr (pgMarver b) o = s.ctr (pgMarver b) o := by
  by_cases h : n = 0
  · rw [h, State.marNote_zero]
  · rw [State.marNote_pos _ _ _ _ h]
    exact State.ctr_addCtr_ne _ _ _ _ _ (rkey_ne_word hc)

/-- A cause that is set stays set as another is raised. -/
theorem State.caused_raise_kept {s : State} {p i j : Nat} (hj : j < 32) (h : s.caused p j) : (s.raise p i).caused p j := by
  by_cases e : j = i
  · subst e
    exact State.caused_raise s hj
  · exact (s.raise_bit_ne p i j e).trans h

theorem State.marNote_kept {s : State} {b c n i j : Nat} (hj : j < 32) (h : s.caused (pgMarver b) j) :
    (s.marNote b c n i).caused (pgMarver b) j := by
  by_cases hn : n = 0
  · rw [hn, State.marNote_zero]
    exact h
  · rw [State.marNote_pos _ _ _ _ hn]
    exact State.caused_raise_kept hj h

theorem State.marNote_caused (s : State) (b c : Nat) {n i : Nat} (hn : n ≠ 0) (hi : i < 32) :
    (s.marNote b c n i).caused (pgMarver b) i := by
  rw [State.marNote_pos _ _ _ _ hn]
  exact State.caused_raise _ hi

theorem MarverSt.engine_setEngine (m : MarverSt) (e : Nat) (r : Option Routine) : (m.setEngine e r).engine e = r :=
  Tab.get_set_same _ _ _ _

/-! ### The allocator's clock (R249) -/

/-- One clock of the allocator answers at most 8 requests. -/
theorem State.answered_length (s : State) (b rr : Nat) : (s.answered b rr).length ≤ 8 := List.length_take_le ..

/-! ### Dispatch (R50, R110) -/

theorem State.onDesc_frame (s : State) (b d : Nat) (f : Desc → Desc) :
    s.onDesc b d f = { s with buf := (s.onDesc b d f).buf } := by
  unfold State.onDesc
  split
  · rfl
  · rfl

/-- Header `h0` goes to engine `e`, `m` being the pool without it. -/
def State.dispatchTo (s : State) (b e : Nat) (h0 : Header) (m : MarverSt) : State :=
  let k := s.tickAt b
  let h := s.readyHeader b h0
  let pc := s.entryOf b h
  let base := s.image.graphIntact && [0, 4, 5].any fun i => baseEntryAt i == pc
  let s1 := (s.putMar b (m.setEngine e (some (Routine.start h pc base)))).putTick b
    { k with dispatched := k.dispatched + 1, punted := k.punted + b2n h.punty }
  let s2 := s1.onDesc b h.desc fun v => { v with epoch := h.epoch, passes := h.passes }
  if h.punty then s2
  else s2.setFld (pgCls b) (Reg.CLS.PDRAIN h.epoch) (s2.fld (pgCls b) (Reg.CLS.PDRAIN h.epoch) + 1)

/-- What follows a dispatch changes neither the pool nor the ticks. -/
theorem State.dispatchTo_parts (s : State) (b e : Nat) (h0 : Header) (m : MarverSt) :
    let h := s.readyHeader b h0
    let pc := s.entryOf b h
    let base := s.image.graphIntact && [0, 4, 5].any fun i => baseEntryAt i == pc
    (s.dispatchTo b e h0 m).marAt b = m.setEngine e (some (Routine.start h pc base)) ∧
      (s.dispatchTo b e h0 m).tickAt b = { s.tickAt b with
        dispatched := (s.tickAt b).dispatched + 1, punted := (s.tickAt b).punted + b2n h.punty } := by
  intro h pc base
  let s1 := (s.putMar b (m.setEngine e (some (Routine.start h pc base)))).putTick b
    { s.tickAt b with dispatched := (s.tickAt b).dispatched + 1, punted := (s.tickAt b).punted + b2n h.punty }
  have parts : (s.dispatchTo b e h0 m).mar = s1.mar ∧ (s.dispatchTo b e h0 m).tick = s1.tick := by
    have desc := s1.onDesc_frame b h.desc fun v => { v with epoch := h.epoch, passes := h.passes }
    unfold State.dispatchTo
    dsimp only
    split_ifs
    · rw [desc]
      exact ⟨rfl, rfl⟩
    · rw [State.setFld_mar, State.setFld_tick, desc]
      exact ⟨rfl, rfl⟩
  obtain ⟨hmar, htick⟩ := parts
  constructor
  · rw [State.marAt, hmar]
    exact State.marAt_same _ _ _
  · rw [State.tickAt, htick]
    exact State.tickAt_same _ _ _

theorem headerDispatch_runs {s : State} {b : BenchId} {e : Nat} {h : Header} {m : MarverSt}
    (hidle : findFrom (fun e => ((s.marAt b).engine e).isNone) 0 24 = some e)
    (hnext : (s.marAt b).take (s.tickAt b).punted = some (h, m)) (hruns : s.marverRuns b = true)
    (hroom : (s.tickAt b).dispatched < 1024) : headerDispatch b s = s.dispatchTo b e h m := by
  have goes : ¬ (!s.marverRuns b || decide (1024 ≤ (s.tickAt b).dispatched)) = true := by simp [hruns, hroom]
  unfold headerDispatch
  dsimp only
  rw [hidle, hnext]
  exact if_neg goes

theorem headerDispatch_idle {s : State} {b : BenchId} (h : findFrom (fun e => ((s.marAt b).engine e).isNone) 0 24 = none ∨
    (s.marAt b).take (s.tickAt b).punted = none ∨ s.marverRuns b = false ∨ 1024 ≤ (s.tickAt b).dispatched) :
    headerDispatch b s = s := by
  unfold headerDispatch
  dsimp only
  split
  · next e h0 m hidle hnext =>
    rw [hidle, hnext] at h
    exact if_pos (by simpa using h)
  · rfl

/-! ### Words, aborts and ends of routines (R130 to R133) -/

section
variable {s : State} {b : BenchId} {e : Fin 24} {finds : List (Fin 16704 × CsFind)} {r : Routine}

theorem engine_idle (h : (s.marAt b).engine e = none) :
    microwordExecute b e finds s = s ∧ watchdogAbort b e s = s ∧ routineEnd b e s = s := by
  rw [microwordExecute, watchdogAbort, routineEnd, h]
  exact ⟨rfl, rfl, rfl⟩

theorem microwordExecute_over (h : (s.marAt b).engine e = some r) (hover : r.ended = true ∨ r.expired.isSome = true) :
    microwordExecute b e finds s = s := by
  rw [microwordExecute, h]
  exact if_pos (by simpa using hover)

/-- The words that a routine's next step reads. -/
def Routine.reads (r : Routine) (s : State) (finds : List (Fin 16704 × CsFind)) : List Nat :=
  if r.base then (r.pc :: finds.map fun f => f.1.val).eraseDups else wordReads s.image r.pc

/-- The state once an engine has read some words from its home copy. -/
def State.csReads (s : State) (b e : Nat) (found : List (Nat × CsFind)) : State :=
  s.each found fun s x => s.csRead b x.1 (homeCopy e) x.2

theorem microwordExecute_runs (h : (s.marAt b).engine e = some r) (hended : r.ended = false) (hexp : r.expired = none) :
    let found := s.csFinds b (r.reads s finds) finds
    let u := s.csReads b e found
    microwordExecute b e finds s = if found.any fun x => x.2 == .both then u.abort b e r 2 (r.badPc found)
      else if r.base then u.runBase b e r else u.runWord b e r (found.contains (r.pc, .ue)) := by
  rw [microwordExecute, h]
  exact if_neg (by rw [hended, hexp]; decide)

theorem watchdogAbort_expired {c : Nat} (h : (s.marAt b).engine e = some r) (hexp : r.expired = some c) :
    watchdogAbort b e s = s.abort b e r c r.pc := by
  rw [watchdogAbort, h]
  dsimp only
  rw [hexp]

theorem watchdogAbort_runs (h : (s.marAt b).engine e = some r) (hexp : r.expired = none) : watchdogAbort b e s = s := by
  rw [watchdogAbort, h]
  dsimp only
  rw [hexp]

theorem routineEnd_runs (h : (s.marAt b).engine e = some r) (hended : r.ended = false) : routineEnd b e s = s := by
  rw [routineEnd, h]
  exact if_pos (by rw [hended]; rfl)

end

/-- What a routine that ends is counted in (R129, R146): itself, its clocks, and what it could not hold. -/
def State.routineCounted (s : State) (b : Nat) (r : Routine) : State :=
  let u := ((s.marCount b Reg.MARVER.ROUTINES).marCount b Reg.MARVER.ENGINE_CLOCKS r.clocks).marCount b
    Reg.MARVER.CLEN_STRETCH r.stretch
  let v := u.ifDo r.keyOver (·.marCount b Reg.MARVER.KEY_OVF)
  ((v.marNote b Reg.MARVER.CQ_OVF r.cqOvf 5).marNote b Reg.MARVER.CQ_BAD
    (r.cq.filter fun q => decide (3 < q.1)).length 5).marNote b Reg.MARVER.EDIT_OVF r.editOvf 6

theorem routineEnd_ended {s : State} {b : BenchId} {e : Fin 24} {r : Routine} (h : (s.marAt b).engine e = some r)
    (hended : r.ended = true) : routineEnd b e s =
      (s.onMar b fun m => { m.setEngine e none with results := m.results ++ [r] }).routineCounted b r := by
  rw [routineEnd, h]
  exact if_neg (by rw [hended]; decide)

theorem State.ifDo_marCount_touches (s : State) (k : Bool) (b : Nat) {c : Nat} (hc : c < 4096) :
    Touches s (s.ifDo k (·.marCount b c)) (· = pgMarver b) := by
  cases k with
  | false => exact Touches.refl s _
  | true => exact Touches.marCount s b c 1 hc

theorem State.routineCounted_touches (s : State) (b : Nat) (r : Routine) :
    Touches s (s.routineCounted b r) (· = pgMarver b) :=
  ((((((Touches.marCount s b _ _ (by decide)).trans (Touches.marCount _ b _ _ (by decide))).trans
    (Touches.marCount _ b _ _ (by decide))).trans (State.ifDo_marCount_touches _ _ b (by decide))).trans
      (State.marNote_touches _ b _ _ (by decide))).trans (State.marNote_touches _ b _ _ (by decide))).trans
        (State.marNote_touches _ b _ _ (by decide))

theorem State.ifDo_marCount_ctr (s : State) (k : Bool) (b : Nat) {c o : Nat} (hc : o / 4 ≠ c / 4) :
    (s.ifDo k (·.marCount b c)).ctr (pgMarver b) o = s.ctr (pgMarver b) o := by
  cases k with
  | false => rfl
  | true => exact State.ctr_addCtr_ne _ _ _ _ _ (rkey_ne_word hc)

/-- ROUTINES and ENGINE_CLOCKS are not among the counters of what a routine could not hold. -/
theorem State.routineCounted_ctrs (s : State) (b : Nat) (r : Routine) :
    (s.routineCounted b r).ctr (pgMarver b) Reg.MARVER.ROUTINES = s.ctr (pgMarver b) Reg.MARVER.ROUTINES + 1 ∧
      (s.routineCounted b r).ctr (pgMarver b) Reg.MARVER.ENGINE_CLOCKS =
        s.ctr (pgMarver b) Reg.MARVER.ENGINE_CLOCKS + BitVec.ofNat 64 r.clocks := by
  have apart {u : State} {c o n : Nat} (hc : o / 4 ≠ c / 4) :
      (u.marCount b c n).ctr (pgMarver b) o = u.ctr (pgMarver b) o := State.ctr_addCtr_ne _ _ _ _ _ (rkey_ne_word hc)
  have counted {u : State} {c n : Nat} :
      (u.marCount b c n).ctr (pgMarver b) c = u.ctr (pgMarver b) c + BitVec.ofNat 64 n := State.ctr_addCtr_same _ _ _ _ _
  unfold State.routineCounted
  constructor
  · rw [State.marNote_ctr _ _ _ _ (by decide), State.marNote_ctr _ _ _ _ (by decide), State.marNote_ctr _ _ _ _ (by decide),
      State.ifDo_marCount_ctr _ _ _ (by decide), apart (by decide), apart (by decide), counted]
    rfl
  · rw [State.marNote_ctr _ _ _ _ (by decide), State.marNote_ctr _ _ _ _ (by decide), State.marNote_ctr _ _ _ _ (by decide),
      State.ifDo_marCount_ctr _ _ _ (by decide), apart (by decide), counted, apart (by decide)]

/-- A commit queue that overflowed, or that holds an entry of no type, raises cause 5. -/
theorem State.routineCounted_queue (s : State) (b : Nat) {r : Routine} (h : r.cqOvf ≠ 0 ∨ ∃ q ∈ r.cq, 3 < q.1) :
    (s.routineCounted b r).caused (pgMarver b) 5 := by
  refine State.marNote_kept (by norm_num) ?_
  rcases h with h | ⟨q, hq, hbad⟩
  · exact State.marNote_kept (by norm_num) (State.marNote_caused _ _ _ h (by norm_num))
  · refine State.marNote_caused _ _ _ ?_ (by norm_num)
    exact mt List.length_eq_zero_iff.1 (List.ne_nil_of_mem (List.mem_filter.2 ⟨hq, decide_eq_true hbad⟩))

theorem State.routineCounted_edits (s : State) (b : Nat) {r : Routine} (h : r.editOvf ≠ 0) :
    (s.routineCounted b r).caused (pgMarver b) 6 := State.marNote_caused _ _ _ h (by norm_num)

/-! ### Control-store reads and the scrubber (R131, R134) -/

/-- A read of a word changes the bench's pool and its MARVER page. -/
theorem State.csRead_touches (s : State) (b addr copy : Nat) (f : CsFind) :
    Touches { s with mar := (s.csRead b addr copy f).mar } (s.csRead b addr copy f) (· = pgMarver b) := by
  cases f with
  | clean => exact Touches.refl _ _
  | ce => exact Touches.marCount s b Reg.MARVER.CS_CE 1 (by decide)
  | ue => exact (Touches.marCount _ b Reg.MARVER.CS_REPAIR 1 (by decide)).raise _ _ rfl
  | both => exact Touches.refl _ _

/-- The scrubber's read of its next word copy, with what it finds. -/
def State.scrubbed (s : State) (b : Nat) (f : CsFind) : State :=
  let n := (s.marAt b).scrub
  let s1 := (s.csRead b (n / 2) (n % 2) f).onMar b fun m => { m with scrub := (n + 1) % (2 * csWords) }
  if f = .both then s1.raise (pgMarver b) 4 else s1

theorem scrubRead_runs {s : State} {b : BenchId} (find : CsFind) (hen : s.flag (pgMarver b) Reg.MARVER.SCRUB_EN = true)
    (hruns : s.marverRuns b = true) : scrubRead b find s = s.scrubbed b (s.csFind b ((s.marAt b).scrub / 2) find) :=
  if_neg (by rw [hen, hruns]; decide)

theorem State.scrubbed_mar (s : State) (b : Nat) (f : CsFind) : (s.scrubbed b f).mar =
    ((s.csRead b ((s.marAt b).scrub / 2) ((s.marAt b).scrub % 2) f).onMar b fun m => { m with
      scrub := ((s.marAt b).scrub + 1) % (2 * csWords) }).mar := by
  unfold State.scrubbed
  dsimp only
  split_ifs <;> rfl

theorem State.scrubbed_scrub (s : State) (b : Nat) (f : CsFind) :
    ((s.scrubbed b f).marAt b).scrub = ((s.marAt b).scrub + 1) % (2 * csWords) := by
  rw [State.marAt, State.scrubbed_mar, ← State.marAt, State.onMar_eq, State.marAt_same]

theorem State.scrubbed_touches (s : State) (b : Nat) (f : CsFind) :
    Touches { s with mar := (s.scrubbed b f).mar } (s.scrubbed b f) (· = pgMarver b) := by
  have moved := (s.csRead_touches b ((s.marAt b).scrub / 2) ((s.marAt b).scrub % 2) f).withMar (s.scrubbed b f).mar
  rw [State.scrubbed_mar] at moved ⊢
  unfold State.scrubbed
  dsimp only
  split_ifs
  · exact Touches.raise moved _ _ rfl
  · exact moved

theorem State.scrubbed_both (s : State) (b : Nat) : (s.scrubbed b .both).caused (pgMarver b) 4 :=
  State.caused_raise _ (by norm_num)

theorem State.csRead_repair (s : State) (b addr copy : Nat) : (s.csRead b addr copy .ue).ctr (pgMarver b) Reg.MARVER.CS_REPAIR =
    s.ctr (pgMarver b) Reg.MARVER.CS_REPAIR + 1 := by
  rw [State.csRead, State.ctr_congr (State.raise_ctrs ..), State.marCount, State.ctr_addCtr_same, State.onMar_eq,
    State.ctr_congr (State.putMar_ctrs ..)]
  rfl

theorem State.scrubbed_ctrs (s : State) (b : Nat) (f : CsFind) :
    (s.scrubbed b f).ctrs = (s.csRead b ((s.marAt b).scrub / 2) ((s.marAt b).scrub % 2) f).ctrs := by
  unfold State.scrubbed
  dsimp only
  split_ifs <;> rfl

/-- A repair is counted with cause 3. -/
theorem State.scrubbed_repair (s : State) (b : Nat) : (s.scrubbed b .ue).caused (pgMarver b) 3 ∧
    (s.scrubbed b .ue).ctr (pgMarver b) Reg.MARVER.CS_REPAIR = s.ctr (pgMarver b) Reg.MARVER.CS_REPAIR + 1 :=
  ⟨State.caused_raise _ (by norm_num), (State.ctr_congr (s.scrubbed_ctrs b .ue) _ _ _).trans (s.csRead_repair b _ _)⟩

/-! ### The final check of a protected frame (R379) -/

/-- A frame passes with its tag and its short length right, and, under replay protection, a number not below the lowest. -/
theorem State.tagCheck_passes (s : State) (r : TagWait) :
    let lo := lowest r.sec.ent (s.saWork (ciphOf r.port) (4 * (r.sec.sc % 1024) + r.sec.an))
    (s.tagCheck r).1 = (r.tagOk && r.slOk && !(scReplay r.sec.ent && decide (recoverPn r.sec.ent lo r.sec.pn32 < lo))) := by
  intro lo
  have verdict : (s.tagCheck r).1 =
      if (r.tagOk && r.slOk) = true ∧ scReplay r.sec.ent = true ∧ recoverPn r.sec.ent lo r.sec.pn32 < lo then false
      else if (!(r.tagOk && r.slOk)) = true then false else true := by
    unfold State.tagCheck
    dsimp only
    rw [apply_ite Prod.fst, apply_ite Prod.fst]
  rw [verdict]
  cases r.tagOk && r.slOk with
  | false => rfl
  | true => simp

theorem tagResult_none {s : State} {p : PortId} (err : SeqErr)
    (h : ((s.ciphAt (ciphOf p)).tags.find? fun t => t.port == p.val) = none) : tagResult p err s = s := by
  rw [tagResult, h]

/-- Settles O47: each engine takes the branch that its hypotheses name. -/
theorem enginesRun : Obligations.EnginesRun := by
  refine ⟨fun s b => ⟨finish_congr rfl, fun rr => s.answered_length b rr⟩, fun s b => ?_, fun s b e finds => ?_,
    fun s b errs => ?_, fun s b find => ?_, fun s p err => ?_, fun s r => s.tagCheck_passes r⟩
  · intro k idle next
    refine ⟨fun h => finish_congr (headerDispatch_idle h), fun e h m hidle hnext hruns hroom => ?_⟩
    obtain ⟨hmar, htick⟩ := s.dispatchTo_parts b e h m
    refine ⟨_, finish_congr (headerDispatch_runs hidle hnext hruns hroom), ?_, ?_⟩
    · rw [settle_marAt, hmar]
    · rw [settle_tickAt, htick]
  · refine ⟨fun h => ?_, fun r h => ⟨fun hover => finish_congr (microwordExecute_over h hover), fun hended hexp => ?_,
      fun c hexp => finish_congr (watchdogAbort_expired h hexp), fun hexp => finish_congr (watchdogAbort_runs h hexp),
      fun hended => finish_congr (routineEnd_runs h hended), fun hended => ?_⟩⟩
    · obtain ⟨hword, hdog, hend⟩ := engine_idle (finds := finds) h
      exact ⟨finish_congr hword, finish_congr hdog, finish_congr hend⟩
    · intro addrs found u
      have runs := microwordExecute_runs (finds := finds) h hended hexp
      have bad : (found.any fun x => x.2 == .both) = true ↔ ∃ x ∈ found, x.2 = .both := by simp
      refine ⟨fun hbad => finish_congr (runs.trans (if_pos (bad.2 hbad))), fun hgood => ?_⟩
      have good : ¬ (found.any fun x => x.2 == .both) = true := fun hany =>
        have ⟨x, hx, hboth⟩ := bad.1 hany
        hgood x hx hboth
      exact ⟨fun hbase => finish_congr (runs.trans ((if_neg good).trans (if_pos hbase))),
        fun hbase => finish_congr (runs.trans ((if_neg good).trans (if_neg (ne_true_of_eq_false hbase))))⟩
    · let s1 := s.onMar b fun m => { m.setEngine e none with results := m.results ++ [r] }
      have touched := s1.routineCounted_touches b r
      obtain ⟨hroutines, hclocks⟩ := s1.routineCounted_ctrs b r
      have pool : (settle (s1.routineCounted b r)).marAt b =
          { (s.marAt b).setEngine e none with results := (s.marAt b).results ++ [r] } := by
        rw [settle_marAt, State.marAt, touched.mar_eq]
        exact State.marAt_same _ _ _
      have settled {o : Nat} (ho : o < 4096) : (settle (s1.routineCounted b r)).ctr (pgMarver b) o =
          (s1.routineCounted b r).ctr (pgMarver b) o := settle_ctr_page _ (pgMarver_ne_host b) ho (by norm_num)
      refine ⟨_, finish_congr (routineEnd_ended h hended), ?_, ?_, ?_, ?_, fun hq => ?_, fun hq => ?_, ?_⟩
      · rw [pool]
        exact MarverSt.engine_setEngine (s.marAt b) e none
      · rw [pool]
      · rw [settled (by decide), hroutines]
        rfl
      · rw [settled (by decide), hclocks]
        rfl
      · exact (settle_caused _ _ _).2 (s1.routineCounted_queue b hq)
      · exact (settle_caused _ _ _).2 (s1.routineCounted_edits b hq)
      · rw [settle_mar, touched.mar_eq]
        exact touched.settle
  · refine ⟨fun hdue => finish_congr (by rw [resultRelease, hdue]), fun r hdue => ?_⟩
    intro s1 h s2
    refine ⟨fun c hcpu hdirect => finish_congr ?_, fun hrule => finish_congr ?_⟩
    · rw [resultRelease, hdue]
      dsimp only
      rw [show (s1.cqIssue b r.h r.cq).1.cpu = some c from hcpu]
      exact if_pos hdirect
    · rw [resultRelease, hdue]
      dsimp only
      rcases hrule with hcpu | ⟨c, hcpu, hdirect⟩
      · rw [show (s1.cqIssue b r.h r.cq).1.cpu = none from hcpu]
      · rw [show (s1.cqIssue b r.h r.cq).1.cpu = some c from hcpu]
        exact if_neg (ne_true_of_eq_false hdirect)
  · intro n f
    refine ⟨fun h => finish_congr (if_pos (by simpa using h)), fun hen hruns => ?_⟩
    refine ⟨_, finish_congr (scrubRead_runs find hen hruns), ?_, fun hf => ?_, fun hf => ?_, ?_⟩
    · rw [settle_marAt]
      exact s.scrubbed_scrub b f
    · rw [settle_caused, show s.csFind b ((s.marAt b).scrub / 2) find = .both from hf]
      exact s.scrubbed_both b
    · rw [settle_caused, settle_ctr_page _ (pgMarver_ne_host b) (by decide) (by norm_num),
        show s.csFind b ((s.marAt b).scrub / 2) find = .ue from hf]
      exact s.scrubbed_repair b
    · rw [settle_mar]
      exact (s.scrubbed_touches b f).settle
  · intro c b found
    refine ⟨fun h => finish_congr (tagResult_none err h), fun r h => finish_congr ?_⟩
    unfold tagResult
    dsimp only
    split
    · next hnone => cases hnone.symm.trans h
    · next t ht =>
      obtain rfl := Option.some.inj (ht.symm.trans h)
      rfl

end Sys2Proof.Machine
end

section
/-! SUPPORT. MDIO: how a command begins, loses or ends a frame, and what the end of a frame leaves. -/

namespace Sys2Proof.Machine

theorem mdioWord_op (v : W32) {op : Nat} (h : op < 4) : bits (mdioWord v op).toNat 30 29 = op := by
  rw [mdioWord, BitVec.toNat_ofNat, Nat.mod_eq_of_lt (setBits_lt _ _ _ _ v.isLt (by decide) (by decide)),
    bits_setBits_same _ _ _ _ (by decide)]
  exact Nat.mod_eq_of_lt h

theorem mdioWord_clause (v : W32) (op : Nat) : bit (mdioWord v op).toNat 31 = bit v.toNat 31 := by
  rw [mdioWord, bit_ofNat _ (by decide), bit_setBits _ _ _ _ _ (by decide), if_neg (by decide)]

/-- A command whose page takes it acts on MDIO_CMD after the hub's answer. -/
theorem mdioCmd_takes {s : State} {m : Nat} (v : W32) (h : s.takes (mdioPage m)) :
    s.mdioCmd m v = (s.hubAnswered (mdioPage m)).mdioCmdWrite m v := State.wordWrite_takes h _ _ _ _

/-- A frame ended with ERR and no data. -/
def State.mdioFailed (s : State) (m : Nat) : State :=
  (((s.putMdio m none).wr (mdioPage m) Reg.PORT.MDIO_RESULT.off 0xA0000000).raise (mdioPage m) 19).raise (mdioPage m) 20

/-- A frame begun with a command word. -/
def State.mdioBegun (s : State) (m : Nat) (v : W32) : State :=
  (s.wr (mdioPage m) Reg.PORT.MDIO_RESULT.off 0x40000000).putMdio m (some v)

theorem State.mdioCmdWrite_busy {s : State} {m : Nat} (v : W32) (h : s.flag (mdioPage m) Reg.PORT.MDIO_RESULT_BUSY = true) :
    s.mdioCmdWrite m v = s.setFld (mdioPage m) Reg.PORT.MDIO_STAT_CMD_LOST 1 := if_pos h

/-- OP 3, an address frame of Clause 22 form, and every command without the reference end at once. -/
theorem State.mdioCmdWrite_fails {s : State} {m op : Nat} (v : W32) (hop : op < 4)
    (hidle : s.flag (mdioPage m) Reg.PORT.MDIO_RESULT_BUSY = false)
    (hbad : op = 3 ∨ op = 0 ∧ bit v.toNat 31 = false ∨ s.flag pgTime Reg.TIME.STAT_REF_OK = false) :
    s.mdioCmdWrite m (mdioWord v op) = s.mdioFailed m := by
  unfold State.mdioCmdWrite
  dsimp only
  rw [if_neg (by rw [hidle]; decide), mdioWord_op v hop, mdioWord_clause, if_pos]
  · rfl
  · rcases hbad with h | ⟨h, h31⟩ | h
    · simp [h]
    · simp [h, h31]
    · simp [h]

/-- With the reference, a write, a read and an address frame of Clause 45 form begin. -/
theorem State.mdioCmdWrite_begins {s : State} {m op : Nat} (v : W32) (hop : op < 3)
    (hidle : s.flag (mdioPage m) Reg.PORT.MDIO_RESULT_BUSY = false) (href : s.flag pgTime Reg.TIME.STAT_REF_OK = true)
    (hform : op = 0 → bit v.toNat 31 = true) : s.mdioCmdWrite m (mdioWord v op) = s.mdioBegun m (mdioWord v op) := by
  have known : ¬ op = 3 := by omega
  unfold State.mdioCmdWrite
  dsimp only
  rw [if_neg (by rw [hidle]; decide), mdioWord_op v (by omega), mdioWord_clause, if_neg]
  · rfl
  · simpa [href, known] using hform

/-! ### The end of a frame (R102) -/

/-- RESULT at the end of a frame: DONE, with ERR or the data. -/
def mdioResult (err : Bool) (data : Nat) : W32 := BitVec.ofNat 32 (2 ^ 31 + b2n err * 2 ^ 29 + if err then 0 else data % 65536)

theorem mdioResult_done : mdioResult false 0 = 0x80000000 := rfl
theorem mdioResult_err (data : Nat) : mdioResult true data = 0xA0000000 := rfl

theorem mdioResult_data (data : W16) : mdioResult false data.toNat = 0x80000000 ||| data.setWidth 32 := by
  have small : data.toNat < 2 ^ 16 := data.isLt
  have high : 2 ^ 31 + data.toNat = 2 ^ 31 ||| data.toNat := by
    simpa using Nat.two_pow_add_eq_or_of_lt (i := 31) (b := data.toNat) (by omega) 1
  apply BitVec.eq_of_toNat_eq
  calc (mdioResult false data.toNat).toNat
      = (2 ^ 31 + data.toNat) % 2 ^ 32 := by
        rw [mdioResult, BitVec.toNat_ofNat, if_neg Bool.false_ne_true, Nat.mod_eq_of_lt (b := 65536) small]
        rfl
    _ = 2 ^ 31 ||| data.toNat % 2 ^ 32 := by
        rw [Nat.mod_eq_of_lt (by omega), Nat.mod_eq_of_lt (a := data.toNat) (by omega), high]
    _ = (0x80000000 ||| data.setWidth 32 : W32).toNat := by
        rw [BitVec.toNat_or, BitVec.toNat_setWidth]
        rfl

theorem State.mdioEnd_mdio (s : State) (m : Nat) (err : Bool) (data : Nat) :
    (s.mdioEnd m err data).mdio = (s.putMdio m none).mdio := by
  cases err <;> simp only [State.mdioEnd, State.ifDo, State.raise_mdio, State.wr_mdio, if_true, Bool.false_eq_true, if_false]

theorem State.mdioEnd_mdioAt (s : State) (m : Nat) (err : Bool) (data : Nat) : (s.mdioEnd m err data).mdioAt m = none := by
  rw [State.mdioAt, State.mdioEnd_mdio, ← State.mdioAt, State.mdioAt_same]

theorem State.mdioEnd_result (s : State) (m : Nat) (err : Bool) (data : Nat) :
    (s.mdioEnd m err data).rd (mdioPage m) Reg.PORT.MDIO_RESULT.off = mdioResult err data := by
  rw [State.mdioEnd, State.ifDo_raise_rd_past _ _ _ _ (by decide) (by norm_num) (by decide),
    State.rd_raise_past _ _ _ (by decide) (by norm_num) (by decide), State.rd_wr_same]
  rfl

theorem State.mdioEnd_done (s : State) (m : Nat) (err : Bool) (data : Nat) : (s.mdioEnd m err data).caused (mdioPage m) 19 := by
  have done {t : State} : (t.raise (mdioPage m) 19).caused (mdioPage m) 19 := State.caused_raise _ (by norm_num)
  cases err with
  | false => exact done
  | true => exact State.caused_raise_kept (by norm_num) done

theorem State.mdioEnd_err (s : State) (m : Nat) (data : Nat) : (s.mdioEnd m true data).caused (mdioPage m) 20 :=
  State.caused_raise _ (by norm_num)

theorem State.mdioEnd_touches (s : State) (m : Nat) (err : Bool) (data : Nat) :
    Touches { s with mdio := (s.mdioEnd m err data).mdio } (s.mdioEnd m err data) (· = mdioPage m) := by
  have ended := ((Touches.refl (s.putMdio m none) (· = mdioPage m)).wr (mdioPage m) Reg.PORT.MDIO_RESULT.off
    (mdioResult err data) 0 rfl (by decide) (by norm_num)).raise (mdioPage m) 19 rfl
  rw [State.mdioEnd_mdio]
  exact Touches.trans ended (Touches.ifDo_raise _ err (mdioPage m) 20)

/-- The frame in progress is a read that no device answers, so it ends with ERR. -/
def mdioErr (s : State) (v : W32) (ack : Bool) : Bool := bits v.toNat 30 29 == 2 && !(ack && s.boot.forwards)

/-- A frame in progress ends. -/
theorem mdioDone_ends {s : State} {m : Fin 4} {v : W32} (ack : Bool) (data : W16) (hm : s.mdioAt m = some v)
    (hen : s.flag (mdioPage m) Reg.PORT.MDIO_CFG_EN = true) : mdioDone m ack data s =
      s.mdioEnd m (mdioErr s v ack) (if bits v.toNat 30 29 = 2 then data.toNat else 0) := by
  unfold mdioDone mdioErr
  rw [hm]
  dsimp only
  rw [hen]
  by_cases hread : bits v.toNat 30 29 = 2
  · rw [if_pos hread, if_pos hread, beq_iff_eq.2 hread, Bool.true_and, if_neg (by decide)]
  · rw [if_neg hread, if_neg hread, beq_eq_false_iff_ne.2 hread, Bool.false_and, if_neg (by decide)]

@[simp] theorem settle_mdioAt (s : State) (m : Nat) : (settle s).mdioAt m = s.mdioAt m := by
  rw [State.mdioAt, settle_frame]
  rfl

/-- Settles O7: a command acts by MDIO_RESULT.BUSY, its OP and the reference; the end of a frame by its OP and the turnaround. -/
theorem mdioFrames : Obligations.MdioFrames := by
  refine ⟨fun s m v h hbusy => ?_, fun s m v h hidle => ?_, fun s m v ack data hm hen => ?_⟩
  · have lost (op : Nat) : s.mdioCmd m (mdioWord v op) =
        (s.hubAnswered (mdioPage m)).setFld (mdioPage m) Reg.PORT.MDIO_STAT_CMD_LOST 1 :=
      (mdioCmd_takes _ h).trans (State.mdioCmdWrite_busy _ (by rw [State.hubAnswered_flag, hbusy]))
    exact ⟨finish_congr (lost 0), finish_congr (lost 1), finish_congr (lost 2), finish_congr (lost 3)⟩
  · have idle : (s.hubAnswered (mdioPage m)).flag (mdioPage m) Reg.PORT.MDIO_RESULT_BUSY = false := by
      rw [State.hubAnswered_flag, hidle]
    have fails (op : Nat) (hop : op < 4)
        (hbad : op = 3 ∨ op = 0 ∧ bit v.toNat 31 = false ∨ s.flag pgTime Reg.TIME.STAT_REF_OK = false) :
        s.mdioCmd m (mdioWord v op) = (s.hubAnswered (mdioPage m)).mdioFailed m :=
      (mdioCmd_takes _ h).trans (State.mdioCmdWrite_fails v hop idle (by rwa [State.hubAnswered_flag]))
    have begins (op : Nat) (hop : op < 3) (href : s.flag pgTime Reg.TIME.STAT_REF_OK = true)
        (hform : op = 0 → bit v.toNat 31 = true) :
        s.mdioCmd m (mdioWord v op) = (s.hubAnswered (mdioPage m)).mdioBegun m (mdioWord v op) :=
      (mdioCmd_takes _ h).trans (State.mdioCmdWrite_begins v hop idle (by rwa [State.hubAnswered_flag]) hform)
    refine ⟨fun href => ⟨fun h45 => ?_, fun h22 => ?_, ?_, ?_⟩, fun href => ⟨?_, ?_, ?_⟩, ?_⟩
    · exact finish_congr (begins 0 (by decide) href fun _ => h45)
    · exact finish_congr (fails 0 (by decide) (.inr (.inl ⟨rfl, h22⟩)))
    · exact finish_congr (begins 1 (by decide) href fun h => absurd h (by decide))
    · exact finish_congr (begins 2 (by decide) href fun h => absurd h (by decide))
    · exact finish_congr (fails 0 (by decide) (.inr (.inr href)))
    · exact finish_congr (fails 1 (by decide) (.inr (.inr href)))
    · exact finish_congr (fails 2 (by decide) (.inr (.inr href)))
    · exact finish_congr (fails 3 (by decide) (.inl rfl))
  · refine ⟨_, finish_congr (mdioDone_ends ack data hm hen), ?_, ?_, ?_, fun hread hdead => ?_, ?_⟩
    · rw [settle_mdioAt, State.mdioEnd_mdioAt]
    · rw [settle_rd, State.mdioEnd_result, mdioErr]
      by_cases hread : bits v.toNat 30 29 = 2
      · rw [if_pos hread, if_neg (not_not.2 hread), beq_iff_eq.2 hread, Bool.true_and]
        cases ack && s.boot.forwards with
        | false => exact mdioResult_err _
        | true => exact mdioResult_data data
      · rw [if_neg hread, if_pos hread, beq_eq_false_iff_ne.2 hread, Bool.false_and, mdioResult_done]
    · exact (settle_caused _ _ _).2 (State.mdioEnd_done ..)
    · rw [settle_caused, mdioErr, hread, hdead]
      exact State.mdioEnd_err ..
    · have kept : (settle (s.mdioEnd m (mdioErr s v ack) (if bits v.toNat 30 29 = 2 then data.toNat else 0))).mdio =
          (s.mdioEnd m (mdioErr s v ack) (if bits v.toNat 30 29 = 2 then data.toNat else 0)).mdio := by rw [settle_frame]
      rw [kept]
      exact (State.mdioEnd_touches ..).settle

end Sys2Proof.Machine
end

section
/-! SUPPORT. Selection and transmission: what TX_SELECT looks at, preempts and selects, and how a transmission ends. -/

namespace Sys2Proof.Machine

/-! ### A look at the slices (R461) -/

theorem State.sagSeen_valid {s : State} (p : Nat) (h : s.timeValid = true) : s.sagSeen p = s := if_pos h

/-- A look at a port's slices draws free values and ends wakes, and nothing else. -/
theorem State.sagSeen_frame (s : State) (p : Nat) :
    s.sagSeen p = { s with nonce := (s.sagSeen p).nonce, sag := (s.sagSeen p).sag } := by
  unfold State.sagSeen
  split
  · rfl
  · refine State.each_keeps (I := fun u => u = { s with nonce := u.nonce, sag := u.sag }) _ rfl fun u x _ hu => ?_
    have drawn : (u.free 1).2 = { s with nonce := (u.free 1).2.nonce, sag := (u.free 1).2.sag } :=
      congrArg (fun v : State => { v with nonce := (u.free 1).2.nonce }) hu
    split
    · dsimp only
      split
      · exact congrArg (fun v : State => v.onSag x fun g => { g with ready := u.time.now }) drawn
      · exact drawn
    · exact hu

theorem State.sagSeen_txAt (s : State) (p x : Nat) : (s.sagSeen p).txAt x = s.txAt x := by rw [State.sagSeen_frame]; rfl
theorem State.sagSeen_txPath (s : State) (p x : Nat) : (s.sagSeen p).txPath x = s.txPath x := by rw [State.sagSeen_frame]; rfl
theorem State.sagSeen_schedAt (s : State) (p x : Nat) : (s.sagSeen p).schedAt x = s.schedAt x := by
  rw [State.sagSeen_frame]; rfl
theorem State.sagSeen_cutPoint (s : State) (p x : Nat) (t : TxSt) (sent : Nat) :
    (s.sagSeen p).cutPoint x t sent = s.cutPoint x t sent := by rw [State.sagSeen_frame]; rfl

/-! ### Preemption (R330) -/

theorem State.preemptIf_idle {s : State} {p : Nat} (sent : Nat) (h : s.txAt p = none) : s.preemptIf p sent = s := by
  rw [State.preemptIf, h]

theorem State.preemptIf_cut {s : State} {p sent : Nat} {x : TxSt} (h : s.txAt p = some x) (hc : s.canPreempt p x sent = true) :
    s.preemptIf p sent = s.preempt p sent := by
  rw [State.preemptIf, h]
  exact if_pos hc

theorem State.preemptIf_uncut {s : State} {p sent : Nat} {x : TxSt} (h : s.txAt p = some x)
    (hc : s.canPreempt p x sent = false) : s.preemptIf p sent = s := by
  rw [State.preemptIf, h]
  exact if_neg (ne_true_of_eq_false hc)

/-- A preempted copy waits beside its port, with its bytes up to the cut gone, and the MAC is free. -/
theorem State.preempt_txAt {s : State} {p : Nat} (sent : Nat) {x : TxSt} (h : s.txAt p = some x) :
    (s.preempt p sent).txAt (512 + p) = some { x with gone := s.cutPoint p x sent } ∧ (s.preempt p sent).txAt p = none := by
  have waits : s.preempt p sent = ((s.putTx (512 + p) (some { x with gone := s.cutPoint p x sent })).putTx p
    none).schedCount p Reg.SCHED.PREEMPTIONS := by rw [State.preempt, h]
  have kept (u : State) (y : Nat) : (u.schedCount p Reg.SCHED.PREEMPTIONS).txAt y = u.txAt y := rfl
  rw [waits, kept, kept]
  exact ⟨by rw [State.txAt_ne _ _ (by omega), State.txAt_same], State.txAt_same _ _ _⟩

/-! ### TX_SELECT (R328, R330, R331) -/

/-- What a look at the slices and a possible preemption leave goes on to select, where the MAC is free and the path is there. -/
def State.selectFree (s : State) (p : Nat) : State :=
  if (s.txAt p).isNone && s.txPath p then (s.answerVerify p).selectNow p else s

theorem State.selectFree_busy {s : State} {p : Nat} {x : TxSt} (h : s.txAt p = some x) : s.selectFree p = s := by
  rw [State.selectFree, h]
  rfl

theorem State.selectFree_idle {s : State} {p : Nat} (h : s.txAt p = none) :
    s.selectFree p = if s.txPath p then (s.answerVerify p).selectNow p else s := by
  rw [State.selectFree, h]
  rfl

theorem txSelect_eq (s : State) (p : PortId) (sent : Nat) : txSelect p sent s =
    (if (s.sagSeen p).expressReady p || (s.schedAt p).hold then (s.sagSeen p).preemptIf p sent
      else s.sagSeen p).selectFree p := by
  rw [← s.sagSeen_schedAt p p]
  rfl

/-- An express class that is eligible, or a held MAC, has the copy in transmission preempted at a permitted point. -/
theorem txSelect_urgent {s : State} {p : PortId} (sent : Nat)
    (h : (s.sagSeen p).expressReady p = true ∨ (s.schedAt p).hold = true) :
    txSelect p sent s = ((s.sagSeen p).preemptIf p sent).selectFree p := by
  rw [txSelect_eq, if_pos ((Bool.or_eq_true _ _).mpr h)]

theorem txSelect_calm {s : State} {p : PortId} (sent : Nat)
    (h : (s.sagSeen p).expressReady p = false ∧ (s.schedAt p).hold = false) :
    txSelect p sent s = (s.sagSeen p).selectFree p := by
  rw [txSelect_eq, if_neg (by rw [h.1, h.2]; decide)]

theorem txSelect_cases (s : State) (p : PortId) :
    ((s.sagSeen p).expressReady p = true ∨ (s.schedAt p).hold = true) ∨
      (s.sagSeen p).expressReady p = false ∧ (s.schedAt p).hold = false :=
  (Classical.em _).imp_right fun h => by simpa using h

theorem txSelect_idle {s : State} {p : PortId} (sent : Nat) (h : s.txAt p = none) :
    txSelect p sent s = if s.txPath p then ((s.sagSeen p).answerVerify p).selectNow p else s.sagSeen p := by
  have idle : (s.sagSeen p).txAt p = none := (s.sagSeen_txAt p p).trans h
  rw [← s.sagSeen_txPath p p, ← State.selectFree_idle idle]
  rcases txSelect_cases s p with hurgent | hcalm
  · rw [txSelect_urgent sent hurgent, State.preemptIf_idle sent idle]
  · exact txSelect_calm sent hcalm

theorem txSelect_preempts {s : State} {p : PortId} {sent : Nat} {x : TxSt} (h : s.txAt p = some x)
    (hurgent : (s.sagSeen p).expressReady p = true ∨ (s.schedAt p).hold = true)
    (hcut : (s.sagSeen p).canPreempt p x sent = true) : txSelect p sent s =
      let w := (s.sagSeen p).preempt p sent
      if w.txPath p then (w.answerVerify p).selectNow p else w := by
  have busy : (s.sagSeen p).txAt p = some x := (s.sagSeen_txAt p p).trans h
  rw [txSelect_urgent sent hurgent, State.preemptIf_cut busy hcut, State.selectFree_idle (State.preempt_txAt sent busy).2]

theorem txSelect_keeps {s : State} {p : PortId} {sent : Nat} {x : TxSt} (h : s.txAt p = some x)
    (hkeep : ((s.sagSeen p).expressReady p = false ∧ (s.schedAt p).hold = false) ∨
      (s.sagSeen p).canPreempt p x sent = false) : txSelect p sent s = s.sagSeen p := by
  have busy : (s.sagSeen p).txAt p = some x := (s.sagSeen_txAt p p).trans h
  rcases txSelect_cases s p with hurgent | hcalm
  · rcases hkeep with hcalm | huncut
    · rw [txSelect_calm sent hcalm, State.selectFree_busy busy]
    · rw [txSelect_urgent sent hurgent, State.preemptIf_uncut busy huncut, State.selectFree_busy busy]
  · rw [txSelect_calm sent hcalm, State.selectFree_busy busy]

/-! ### The class selected (R334, R336) -/

/-- The better of the best class so far and one more. -/
def pickBetter (before : Nat → Nat → Bool) (best : Option Nat) (c : Nat) : Option Nat :=
  match best with
  | none => some c
  | some b => if before c b then some c else some b

theorem pickBetter_cases (before : Nat → Nat → Bool) (best : Option Nat) (c : Nat) :
    pickBetter before best c = some c ∨ best.isSome ∧ pickBetter before best c = best := by
  cases best with
  | none => exact .inl rfl
  | some b => cases h : before c b <;> simp [pickBetter, h]

theorem State.selects_eq (s : State) (p : Nat) :
    s.selects p = ((List.range 8).filter (s.eligible p)).foldl (pickBetter (s.before p)) none := rfl

/-- What is picked from a list is one of its members. -/
theorem foldl_pickBetter_mem (before : Nat → Nat → Bool) (l : List Nat) :
    ∀ c, l.foldl (pickBetter before) none = some c → c ∈ l := by
  refine List.foldlRecOn (motive := fun best => ∀ c, best = some c → c ∈ l) l _ (fun c h => nomatch h)
    fun best ih a ha c hc => ?_
  rcases pickBetter_cases before best a with h | ⟨-, h⟩
  · exact Option.some.inj (h.symm.trans hc) ▸ ha
  · exact ih c (h.symm.trans hc)

/-- Something is picked from a list that has a member. -/
theorem foldl_pickBetter_isSome (before : Nat → Nat → Bool) (a : Nat) (l : List Nat) :
    ((a :: l).foldl (pickBetter before) none).isSome := by
  refine List.foldlRecOn (motive := fun best : Option Nat => best.isSome = true) l _ rfl fun best ih c _ => ?_
  rcases pickBetter_cases before best c with h | ⟨-, h⟩
  · rw [h]; rfl
  · rw [h]; exact ih

theorem State.selects_eligible {s : State} {p c : Nat} (h : s.selects p = some c) : c < 8 ∧ s.eligible p c = true := by
  obtain ⟨hc, he⟩ := List.mem_filter.1 (foldl_pickBetter_mem _ _ c ((s.selects_eq p).symm.trans h))
  exact ⟨List.mem_range.1 hc, he⟩

theorem State.selects_none {s : State} {p : Nat} (h : s.selects p = none) {c : Nat} (hc : c < 8) : s.eligible p c = false := by
  rw [State.selects_eq] at h
  cases hl : (List.range 8).filter (s.eligible p) with
  | nil => exact eq_false_of_ne_true (List.filter_eq_nil_iff.1 hl c (List.mem_range.2 hc))
  | cons a l =>
    have picked := foldl_pickBetter_isSome (s.before p) a l
    rw [← hl, h] at picked
    cases picked

/-! ### The end of a transmission (R96, R290 to R292) -/

section
variable {s : State} {p : PortId} {x : TxSt}

theorem frameTransmitEnd_idle (h : s.txAt p = none) : frameTransmitEnd p s = s := by rw [frameTransmitEnd, h]
theorem txUnderrun_idle (h : s.txAt p = none) : txUnderrun p s = s := by rw [txUnderrun, h]

theorem frameTransmitEnd_pathless (h : s.txAt p = some x) (hpath : s.txPath p = false) :
    frameTransmitEnd p s = s.pathLost p := by
  rw [frameTransmitEnd, h]
  exact if_pos (by rw [hpath]; rfl)

theorem frameTransmitEnd_marked (h : s.txAt p = some x) (hpath : s.txPath p = true) (hm : x.marked.isSome = true) :
    frameTransmitEnd p s = s.endTx p x := by
  rw [frameTransmitEnd, h]
  exact (if_neg (by rw [hpath]; decide)).trans (if_pos (by rw [hm]; rfl))

/-- Beside a mark, a frame's end turns on its whole reception. -/
theorem frameTransmitEnd_unmarked {d : Desc} (h : s.txAt p = some x) (hpath : s.txPath p = true)
    (hd : s.descAt x.copy.bench x.copy.desc = some d) (hm : x.marked = none) :
    frameTransmitEnd p s = if d.done then s.endTx p x else s := by
  rw [frameTransmitEnd, h]
  refine (if_neg (by rw [hpath]; decide)).trans ?_
  have whole : (x.marked.isSome || s.copyReady { x.copy with ct := false } ||
      ((s.descAt x.copy.bench x.copy.desc).map fun d => d.done).getD false) = d.done := by
    rw [State.copyReady, hd, hm]
    cases hdone : d.done <;> simp [hdone]
  rw [whole]

theorem txUnderrun_marked (h : s.txAt p = some x) (hm : x.marked.isSome = true) : txUnderrun p s = s := by
  rw [txUnderrun, h]
  exact if_pos (by rw [hm]; rfl)

theorem txUnderrun_whole {d : Desc} (h : s.txAt p = some x) (hd : s.descAt x.copy.bench x.copy.desc = some d)
    (hdone : d.done = true) : txUnderrun p s = s := by
  rw [txUnderrun, h]
  exact if_pos (by rw [hd]; simp [hdone])

/-- An underrun marks the transmission with the bytes stored then, and ends it. -/
theorem txUnderrun_ends {d : Desc} (h : s.txAt p = some x) (hd : s.descAt x.copy.bench x.copy.desc = some d)
    (hdone : d.done = false) (hm : x.marked = none) :
    let u := (s.markTx p 20).raise (pgCore (portBench p)) 5
    let y : TxSt := { x with marked := some (20, s.heldBytes x.copy) }
    u.txAt p = some y ∧ txUnderrun p s = u.endTx p y := by
  intro u y
  have marked : u.txAt p = some y := by
    refine (State.txAt_same s p _).trans ?_
    rw [h]
    exact congrArg some (if_neg (by rw [hm]; decide))
  refine ⟨marked, ?_⟩
  rw [txUnderrun, h]
  refine (if_neg (by rw [hd, hm]; simp [hdone])).trans ?_
  show (match u.txAt p with
    | some t => u.endTx p t
    | none => u) = _
  rw [marked]

end

/-- Settles O42: TX_SELECT by what the look at the slices finds, the ends of a transmission by its mark and its frame. -/
theorem selectionAndTransmission : Obligations.SelectionAndTransmission := by
  refine ⟨fun s p sent => ⟨fun h => State.sagSeen_valid _ h, fun hidle hpath => ?_, fun hidle hpath => ?_,
    fun x hx hurgent hcut => ?_, fun x hx hkeep => finish_congr (txSelect_keeps hx hkeep), fun c h => State.selects_eligible h,
    fun h c hc => State.selects_none h hc⟩,
    fun s p => ⟨fun h => ⟨finish_congr (frameTransmitEnd_idle h), finish_congr (txUnderrun_idle h)⟩, fun x hx =>
      ⟨fun hpath => finish_congr (frameTransmitEnd_pathless hx hpath),
        fun hpath hm => finish_congr (frameTransmitEnd_marked hx hpath hm), fun d hd => ⟨fun hpath hdone => ?_,
          fun hpath hm hdone => ?_, fun hdone => finish_congr (txUnderrun_whole hx hd hdone), fun hdone hm => ?_⟩,
        fun hm => finish_congr (txUnderrun_marked hx hm)⟩⟩⟩
  · exact finish_congr ((txSelect_idle sent hidle).trans (if_pos hpath))
  · exact finish_congr ((txSelect_idle sent hidle).trans (if_neg (ne_true_of_eq_false hpath)))
  · obtain ⟨waits, free⟩ := State.preempt_txAt sent ((s.sagSeen_txAt p p).trans hx)
    exact ⟨waits.trans (by rw [State.sagSeen_cutPoint]), free, finish_congr (txSelect_preempts hx hurgent hcut)⟩
  · refine finish_congr ?_
    cases hm : x.marked with
    | none => exact (frameTransmitEnd_unmarked hx hpath hd hm).trans (if_pos hdone)
    | some m => exact frameTransmitEnd_marked hx hpath (by rw [hm]; rfl)
  · exact finish_congr ((frameTransmitEnd_unmarked hx hpath hd hm).trans (if_neg (ne_true_of_eq_false hdone)))
  · obtain ⟨hmarked, hrun⟩ := txUnderrun_ends hx hd hdone hm
    exact ⟨_, hmarked, rfl, finish_congr hrun⟩

end Sys2Proof.Machine
end

section
/-! SUPPORT. Links and lanes: where a port's words stand, what following the links changes, and what a change of links and
lanes leaves alone. -/

namespace Sys2Proof.Machine

/-! ### Where ports, lanes and quads stand (R18 to R20) -/

theorem portGroup_lt {p : Nat} (h : p < 512) : portGroup p < 32 := by
  unfold portGroup
  split <;> omega

/-- The page of a port is a PORT page. -/
theorem pgPort_class {p : Nat} (h : p < 512) : pgPort (portGroup p) / 256 = 8 := by
  have := portGroup_lt h
  unfold pgPort
  omega

theorem pgPort_ne_time (g : Nat) : pgPort g ≠ pgTime := by
  unfold pgPort pgTime
  omega

theorem pgSerdes_ne_time (q : Nat) : pgSerdes q ≠ pgTime := by
  unfold pgSerdes pgTime
  omega

theorem pgSerdes_class (q : Nat) : pgSerdes q / 256 ≠ 8 := by
  unfold pgSerdes
  omega

/-- A lane carries its ports. -/
theorem mem_lanePorts {p : Nat} (h : p < 512) : p ∈ lanePorts (portLane p) := by
  unfold lanePorts portLane
  by_cases hp : p < 384
  · rw [if_pos hp]
    dsimp only
    rw [if_pos (by omega)]
    exact List.mem_map.2 ⟨p % 4, List.mem_range.2 (by omega), by omega⟩
  · rw [if_neg hp]
    dsimp only
    rw [if_neg (by omega)]
    exact List.mem_singleton.2 (by omega)

theorem lanePorts_lt {l p : Nat} (hl : l < 224) (h : p ∈ lanePorts l) : p < 512 := by
  unfold lanePorts at h
  dsimp only at h
  split at h
  · obtain ⟨c, hc, rfl⟩ := List.mem_map.1 h
    have := List.mem_range.1 hc
    omega
  · have := List.mem_singleton.1 h
    omega

theorem quadPorts_lt {q p : Nat} (hq : q < 56) (h : p ∈ quadPorts q) : p < 512 := by
  obtain ⟨i, hi, hp⟩ := List.mem_flatMap.1 h
  have := List.mem_range.1 hi
  exact lanePorts_lt (by omega) hp

/-- The words of a port's block, by their number in the page. -/
theorem port_words (i : Nat) : (Reg.PORT.PCFG i).off / 4 = 64 + 16 * i ∧ (Reg.PORT.PSTAT i).off / 4 = 65 + 16 * i ∧
    (Reg.PORT.MMCFG i).off / 4 = 69 + 16 * i := by
  simp only [Reg.PORT.PCFG, Reg.PORT.PSTAT, Reg.PORT.MMCFG]
  omega

theorem port_offs (p : Nat) : (Reg.PORT.PCFG (portSlot p)).off < 4096 ∧ (Reg.PORT.PSTAT (portSlot p)).off < 4096 ∧
    (Reg.PORT.MMCFG (portSlot p)).off < 4096 := by
  have := portSlot_lt p
  simp only [Reg.PORT.PCFG, Reg.PORT.PSTAT, Reg.PORT.MMCFG]
  omega

/-! ### Changes of links beside those of pages -/

/-- `t` has the links it has, and beside them what `s` has but on the pages of `P`. -/
def LinkTouches (s t : State) (P : Nat → Prop) : Prop := Touches { s with link := t.link } t P

theorem Touches.withLink {s t : State} {P : Nat → Prop} (h : Touches s t P) (m : Tab LinkSt) :
    Touches { s with link := m } { t with link := m } P :=
  ⟨congrArg (fun x : State => { x with link := m }) h.rest, h.regs, h.ctrs, h.rings⟩

theorem Touches.link_eq {s t : State} {P : Nat → Prop} (h : Touches s t P) : t.link = s.link :=
  (congrArg State.link h.rest).trans rfl

theorem Touches.linkAt_eq {s t : State} {P : Nat → Prop} (h : Touches s t P) (p : Nat) : t.linkAt p = s.linkAt p := by
  rw [State.linkAt, h.link_eq]
  rfl

@[simp] theorem settle_link (s : State) : (settle s).link = s.link := by rw [settle_frame]
@[simp] theorem settle_linkAt (s : State) (p : Nat) : (settle s).linkAt p = s.linkAt p := by
  rw [State.linkAt, settle_link]
  rfl

theorem LinkTouches.refl (s : State) (P : Nat → Prop) : LinkTouches s s P := Touches.refl s P

theorem LinkTouches.then {s t u : State} {P : Nat → Prop} (h : LinkTouches s t P) (k : Touches t u P) : LinkTouches s u P := by
  unfold LinkTouches
  rw [k.link_eq]
  exact Touches.trans h k

theorem LinkTouches.trans {s t u : State} {P : Nat → Prop} (h : LinkTouches s t P) (k : LinkTouches t u P) :
    LinkTouches s u P := Touches.trans (Touches.withLink h u.link) k

theorem LinkTouches.onLink {s t : State} {P : Nat → Prop} (h : LinkTouches s t P) (p : Nat) (f : LinkSt → LinkSt) :
    LinkTouches s (t.onLink p f) P := Touches.withLink h (t.onLink p f).link

/-- Block lock set or cleared on several links. -/
def State.setLocks (s : State) (ps : List Nat) (b : Bool) : State :=
  s.each ps fun s p => s.onLink p fun k => { k with lock := b }

theorem LinkTouches.setLocks {s t : State} {P : Nat → Prop} (h : LinkTouches s t P) (ps : List Nat) (b : Bool) :
    LinkTouches s (t.setLocks ps b) P :=
  State.each_keeps (I := fun u => LinkTouches s u P) ps h fun _ p _ hu => hu.onLink p _

theorem State.setLocks_linkAt (ps : List Nat) (b : Bool) (q : Nat) : ∀ s : State, (s.setLocks ps b).linkAt q =
    if q ∈ ps then { s.linkAt q with lock := b } else s.linkAt q := by
  induction ps with
  | nil => intro s; rfl
  | cons p ps ih =>
    intro s
    refine (ih _).trans ?_
    by_cases h : q = p
    · subst h
      simp
    · simp [h, State.linkAt_ne]

theorem State.setLocks_ctrs (s : State) (ps : List Nat) (b : Bool) : (s.setLocks ps b).ctrs = s.ctrs :=
  State.each_keeps (I := fun u => u.ctrs = s.ctrs) ps rfl fun _ _ _ hu => hu

/-! ### PSTAT follows the link (R93, R104) -/

/-- The fields of PSTAT that follow a port's link, and what they show. -/
def State.linkFields (s : State) (p : Nat) : List (Fld × Nat) :=
  let k := s.linkAt p
  let i := portSlot p
  [(Reg.PORT.PSTAT_SPEED i, s.linkSpeed p), (Reg.PORT.PSTAT_LOCAL_FAULT i, b2n (!s.linkGood p)),
    (Reg.PORT.PSTAT_REMOTE_FAULT i, b2n k.remote), (Reg.PORT.PSTAT_LOCK i, b2n k.lock),
    (Reg.PORT.PSTAT_INBAND_UP i, b2n (!isTrunk p && k.up))]

theorem State.linkTrack_eq (s : State) (p : Nat) :
    s.linkTrack p = s.each (s.linkFields p) fun u x => u.setFld (pgPort (portGroup p)) x.1 x.2 := rfl

/-- They are SPEED and the four bits that show the link: neither LSTATE nor the sticky bits. -/
theorem State.linkFields_place {s : State} {p : Nat} {x : Fld × Nat} (h : x ∈ s.linkFields p) :
    x.1.off = (Reg.PORT.PSTAT (portSlot p)).off ∧ x.1.lo ≤ x.1.hi ∧ (x.1.hi ≤ 3 ∨ 27 ≤ x.1.lo ∧ x.1.hi ≤ 29) := by
  simp only [State.linkFields, List.mem_cons, List.not_mem_nil, or_false] at h
  rcases h with rfl | rfl | rfl | rfl | rfl <;> refine ⟨rfl, ?_⟩ <;>
    norm_num [Reg.PORT.PSTAT_SPEED, Reg.PORT.PSTAT_LOCAL_FAULT, Reg.PORT.PSTAT_REMOTE_FAULT, Reg.PORT.PSTAT_LOCK,
      Reg.PORT.PSTAT_INBAND_UP]

/-- Following a link writes its port's PSTAT only. -/
theorem State.linkTrack_rd (s : State) (p : Nat) {q off w : Nat}
    (h : rkey q off w ≠ rkey (pgPort (portGroup p)) (Reg.PORT.PSTAT (portSlot p)).off 0) :
    (s.linkTrack p).rd q off w = s.rd q off w := by
  rw [State.linkTrack_eq]
  refine State.each_keeps (I := fun u => u.rd q off w = s.rd q off w) _ rfl fun u x hx hu => ?_
  exact (State.rd_setFld_ne _ _ _ _ _ (by rwa [(State.linkFields_place hx).1])).trans hu

theorem State.linkTrack_touches (s : State) (p : Nat) : Touches s (s.linkTrack p) (· = pgPort (portGroup p)) := by
  rw [State.linkTrack_eq]
  refine State.each_keeps (I := fun u => Touches s u (· = pgPort (portGroup p))) _ (Touches.refl s _) fun u x hx hu => ?_
  exact hu.setFld_own _ (by rw [(State.linkFields_place hx).1]; exact (port_offs p).2.1)

/-- Following a link leaves LSTATE and the sticky bits of PSTAT. -/
theorem State.linkTrack_pstat (s : State) (p : Nat) {f : Fld} (ho : f.off = (Reg.PORT.PSTAT (portSlot p)).off)
    (h : 29 < f.lo ∨ 3 < f.lo ∧ f.hi < 27) :
    (s.linkTrack p).fld (pgPort (portGroup p)) f = s.fld (pgPort (portGroup p)) f := by
  rw [State.linkTrack_eq]
  refine State.each_keeps (I := fun u => u.fld (pgPort (portGroup p)) f = s.fld (pgPort (portGroup p)) f) _ rfl
    fun u x hx hu => ?_
  obtain ⟨hoff, hle, hin⟩ := State.linkFields_place hx
  exact (State.fld_setFld_apart _ _ _ _ _ _ hle (by omega) (ho.trans hoff.symm) (by omega)).trans hu

/-- Following the recovered clocks changes the time unit's page only. -/
theorem State.rclkTrack_touches (s : State) : Touches s s.rclkTrack (· = pgTime) := by
  refine State.each_keeps (I := fun u => Touches s u (· = pgTime)) _ (Touches.refl s _) fun u i hi hu => ?_
  have hoff : (Reg.TIME.RCLK_CFG_SQUELCHED i).off < 4096 := by
    simp only [List.mem_cons, List.not_mem_nil, or_false] at hi
    rcases hi with rfl | rfl <;> decide
  exact (hu.setFld_own _ hoff).trans (Touches.ifDo_raise _ _ _ _)

/-- Following several links changes the pages of their ports and the time unit's. -/
theorem State.linksTrack_touches (s : State) (ps : List Nat) :
    Touches s (s.linksTrack ps) (fun g => (∃ p ∈ ps, g = pgPort (portGroup p)) ∨ g = pgTime) := by
  refine Touches.trans (t := s.each ps State.linkTrack) ?_ ((State.rclkTrack_touches _).mono fun g hg => .inr hg)
  exact State.each_keeps (I := fun u => Touches s u _) ps (Touches.refl s _) fun u p hp hu =>
    hu.trans ((u.linkTrack_touches p).mono fun g hg => .inl ⟨p, hp, hg⟩)

/-- The pages that following a port's link changes. -/
theorem State.linksTrack_one_touches (s : State) (p : Nat) :
    Touches s (s.linksTrack [p]) (fun g => g = pgPort (portGroup p) ∨ g = pgTime) :=
  (s.linksTrack_touches [p]).mono fun _ hg => hg.imp_left fun ⟨_, hx, he⟩ => List.mem_singleton.1 hx ▸ he

/-- The pages that following the links of some ports changes, where all are ports of the device. -/
theorem State.linksTrack_ports (s : State) {ps : List Nat} (h : ∀ p ∈ ps, p < 512) :
    Touches s (s.linksTrack ps) (fun g => g / 256 = 8 ∨ g = pgTime) :=
  (s.linksTrack_touches ps).mono fun _ hg => hg.imp_left fun ⟨p, hp, he⟩ => he ▸ pgPort_class (h p hp)

/-- Following links leaves the words of a SERDES page. -/
theorem State.linksTrack_serdes (s : State) {ps : List Nat} (h : ∀ p ∈ ps, p < 512) (q : Nat) {off : Nat} (ho : off < 4096) :
    (s.linksTrack ps).rd (pgSerdes q) off = s.rd (pgSerdes q) off :=
  (s.linksTrack_ports h).regs _ _ _ ho (by norm_num) fun hg => hg.elim (pgSerdes_class q) (pgSerdes_ne_time q)

/-- Following a port's link leaves the other words of its page. -/
theorem State.linksTrack_rd (s : State) (p : Nat) {off : Nat} (ho : off < 4096)
    (h : off / 4 ≠ (Reg.PORT.PSTAT (portSlot p)).off / 4) :
    (s.linksTrack [p]).rd (pgPort (portGroup p)) off = s.rd (pgPort (portGroup p)) off :=
  ((State.rclkTrack_touches _).regs _ _ _ ho (by norm_num) (pgPort_ne_time _)).trans (s.linkTrack_rd p (rkey_ne_word h))

theorem State.linksTrack_pstat (s : State) (p : Nat) {f : Fld} (ho : f.off = (Reg.PORT.PSTAT (portSlot p)).off)
    (h : 29 < f.lo ∨ 3 < f.lo ∧ f.hi < 27) :
    (s.linksTrack [p]).fld (pgPort (portGroup p)) f = s.fld (pgPort (portGroup p)) f := by
  have hoff : f.off < 4096 := ho ▸ (port_offs p).2.1
  have clocks := (State.rclkTrack_touches (s.linkTrack p)).regs (pgPort (portGroup p)) f.off 0 hoff (by norm_num)
    (pgPort_ne_time _)
  exact (congrArg (fun v : W32 => bits v.toNat f.hi f.lo) clocks).trans (s.linkTrack_pstat p ho h)

theorem State.linksTrack_caused {s : State} {p i : Nat} (h : s.caused (pgPort (portGroup p)) i) :
    (s.linksTrack [p]).caused (pgPort (portGroup p)) i := by
  obtain ⟨-, hword, -⟩ := port_words (portSlot p)
  unfold State.caused
  rwa [State.linksTrack_rd s p (by norm_num) (by omega)]

/-! ### A mode that is refused (R80, R84, R85) -/

theorem State.unsupported_flag (s : State) (p : Nat) :
    (s.unsupported p).fld (pgPort (portGroup p)) (Reg.PORT.PSTAT_UNSUP_MODE (portSlot p)) = 1 := by
  obtain ⟨-, hword, -⟩ := port_words (portSlot p)
  have hoff : (Reg.PORT.PSTAT_UNSUP_MODE (portSlot p)).off = (Reg.PORT.PSTAT (portSlot p)).off := rfl
  exact (State.fld_raise_other _ _ _ (rkey_ne_word (by omega))).trans
    (State.fld_setFld_same _ _ _ _ _ (le_refl 13) (by decide : 13 < 32))

theorem State.unsupported_caused (s : State) (p : Nat) : (s.unsupported p).caused (pgPort (portGroup p)) 17 :=
  State.caused_raise _ (by norm_num)

theorem State.unsupported_touches (s : State) (p : Nat) : Touches s (s.unsupported p) (· = pgPort (portGroup p)) := by
  obtain ⟨-, hoff, -⟩ := port_offs p
  exact Touches.raise (Touches.setFld_own (Touches.refl s _) (f := Reg.PORT.PSTAT_UNSUP_MODE (portSlot p)) 1 hoff) _ 17 rfl

theorem Touches.ifDo {s t : State} {P : Nat → Prop} (h : Touches s t P) (c : Bool) {f : State → State}
    (hf : Touches t (f t) P) : Touches s (t.ifDo c f) P := by
  cases c with
  | false => exact h
  | true => exact h.trans hf

end Sys2Proof.Machine
end

section
/-! SUPPORT. Quads and lanes: the rate, the reference, the PLL, and a lane that loses its clock. -/

namespace Sys2Proof.Machine

/-- The words of a lane's block lie in its page. -/
theorem lane_offs (l : Nat) : (Reg.SERDES.RXSTAT (l % 4)).off < 4096 ∧ (Reg.SERDES.PRBS (l % 4)).off < 4096 ∧
    Reg.SERDES.CDR_LOSS_CNT (l % 4) < 4096 ∧ Reg.SERDES.PRBS_ERR (l % 4) < 4096 := by
  simp only [Reg.SERDES.RXSTAT, Reg.SERDES.PRBS, Reg.SERDES.CDR_LOSS_CNT, Reg.SERDES.PRBS_ERR]
  omega

theorem pgSerdes_ne_host (q : Nat) : pgSerdes q ≠ pgHost := by
  unfold pgSerdes pgHost
  omega

theorem pgSerdes_ne_lehr (q : Nat) : pgSerdes q ≠ pgLehr := by
  unfold pgSerdes pgLehr
  omega

/-- A bit of a written field. -/
theorem State.bit_setFld_in (s : State) (p : Nat) (f : Fld) (v w : Nat) {i : Nat} (hlo : f.lo ≤ i) (hhi : i ≤ f.hi)
    (h32 : f.hi < 32) : bit ((s.setFld p f v w).rd p f.off w).toNat i = bit v (i - f.lo) := by
  rw [State.setFld, State.rd_wr_same, bit_ofNat _ (by omega), bit_setBits _ _ _ _ _ (by omega), if_pos ⟨hlo, hhi⟩]

/-! ### A lane that loses CDR lock (R108) -/

/-- Losing CDR lock clears the lock of the lane's ports and its checker's. -/
def State.cdrCleared (s : State) (l : Nat) : State :=
  (s.setLocks (lanePorts l) false).setFld (pgSerdes (l / 4)) (Reg.SERDES.PRBS_CHK_LOCK (l % 4)) 0

theorem State.cdrLost_locked {s : State} {l : Nat}
    (h : s.flag (pgSerdes (l / 4)) (Reg.SERDES.RXSTAT_CDR_LOCK (l % 4)) = true) : s.cdrLost l =
      (((s.cdrCleared l).setFld (pgSerdes (l / 4)) ⟨(Reg.SERDES.RXSTAT (l % 4)).off, 2, 1⟩ 0).bump (pgSerdes (l / 4))
        (Reg.SERDES.CDR_LOSS_CNT (l % 4))).raise (pgSerdes (l / 4)) (l % 4) := if_pos h

theorem State.cdrLost_unlocked {s : State} {l : Nat}
    (h : s.flag (pgSerdes (l / 4)) (Reg.SERDES.RXSTAT_CDR_LOCK (l % 4)) = false) : s.cdrLost l = s.cdrCleared l :=
  if_neg (ne_true_of_eq_false h)

theorem State.cdrCleared_touches (s : State) (l : Nat) : LinkTouches s (s.cdrCleared l) (· = pgSerdes (l / 4)) := by
  obtain ⟨-, hoff, -⟩ := lane_offs l
  exact ((LinkTouches.refl s _).setLocks _ _).then (Touches.setFld_own (f := Reg.SERDES.PRBS_CHK_LOCK (l % 4))
    (Touches.refl _ _) 0 hoff)

theorem State.cdrLost_touches (s : State) (l : Nat) : LinkTouches s (s.cdrLost l) (· = pgSerdes (l / 4)) := by
  obtain ⟨hoff, -, hctr, -⟩ := lane_offs l
  cases h : s.flag (pgSerdes (l / 4)) (Reg.SERDES.RXSTAT_CDR_LOCK (l % 4)) with
  | false =>
    rw [State.cdrLost_unlocked h]
    exact s.cdrCleared_touches l
  | true =>
    rw [State.cdrLost_locked h]
    exact (s.cdrCleared_touches l).then (Touches.raise (Touches.addCtr (Touches.setFld_own
      (f := ⟨(Reg.SERDES.RXSTAT (l % 4)).off, 2, 1⟩) (Touches.refl _ _) 0 hoff) _ _ 1 0 rfl hctr (by norm_num)) _ _ rfl)

theorem State.cdrLost_linkAt (s : State) (l p : Nat) : (s.cdrLost l).linkAt p =
    if p ∈ lanePorts l then { s.linkAt p with lock := false } else s.linkAt p := by
  have cleared : (s.cdrLost l).link = (s.setLocks (lanePorts l) false).link := by
    cases h : s.flag (pgSerdes (l / 4)) (Reg.SERDES.RXSTAT_CDR_LOCK (l % 4)) with
    | false => rw [State.cdrLost_unlocked h, State.cdrCleared, State.setFld_link]
    | true =>
      rw [State.cdrLost_locked h, State.raise_link, State.bump_link, State.setFld_link, State.cdrCleared, State.setFld_link]
  rw [State.linkAt, cleared, ← State.linkAt, State.setLocks_linkAt]

section
variable {s : State} {l : Nat} (h : s.flag (pgSerdes (l / 4)) (Reg.SERDES.RXSTAT_CDR_LOCK (l % 4)) = true)
include h

/-- The lock is lost, which is counted and raises the lane's cause. -/
theorem State.cdrLost_flag : (s.cdrLost l).flag (pgSerdes (l / 4)) (Reg.SERDES.RXSTAT_CDR_LOCK (l % 4)) = false := by
  have word : (Reg.SERDES.RXSTAT_CDR_LOCK (l % 4)).off / 4 ≠ 0x010 / 4 := by
    simp only [Reg.SERDES.RXSTAT_CDR_LOCK]
    omega
  rw [State.cdrLost_locked h, State.flag, State.fld_raise_other _ _ _ (rkey_ne_word word), State.fld_bump, ← State.flag,
    State.flag_eq_bit _ _ _ _ rfl]
  exact (State.bit_setFld_in _ _ ⟨(Reg.SERDES.RXSTAT (l % 4)).off, 2, 1⟩ 0 0 (le_refl 1) (by decide : 1 ≤ 2)
    (by decide : 2 < 32)).trans (Nat.zero_testBit _)

theorem State.cdrLost_caused : (s.cdrLost l).caused (pgSerdes (l / 4)) (l % 4) := by
  rw [State.cdrLost_locked h]
  exact State.caused_raise _ (by omega)

theorem State.cdrLost_counts : (s.cdrLost l).ctr (pgSerdes (l / 4)) (Reg.SERDES.CDR_LOSS_CNT (l % 4)) =
    s.ctr (pgSerdes (l / 4)) (Reg.SERDES.CDR_LOSS_CNT (l % 4)) + 1 := by
  rw [State.cdrLost_locked h, State.ctr_congr (State.raise_ctrs ..), State.bump, State.ctr_addCtr_same,
    State.ctr_congr (State.setFld_ctrs ..), State.cdrCleared, State.ctr_congr (State.setFld_ctrs ..),
    State.ctr_congr (State.setLocks_ctrs ..)]
  rfl

end

theorem cdrLoss_locked {s : State} {l : LaneId}
    (h : s.flag (pgSerdes (l / 4)) (Reg.SERDES.RXSTAT_CDR_LOCK (l % 4)) = true) : let t := settle (cdrLoss l s)
    t.flag (pgSerdes (l / 4)) (Reg.SERDES.RXSTAT_CDR_LOCK (l % 4)) = false ∧ t.caused (pgSerdes (l / 4)) (l % 4) ∧
      t.ctr (pgSerdes (l / 4)) (Reg.SERDES.CDR_LOSS_CNT (l % 4)) =
        s.ctr (pgSerdes (l / 4)) (Reg.SERDES.CDR_LOSS_CNT (l % 4)) + 1 ∧
      (∀ p ∈ lanePorts l, t.linkAt p = { s.linkAt p with lock := false }) ∧
      (∀ p, p ∉ lanePorts l → t.linkAt p = s.linkAt p) ∧
      LinkTouches s t (fun g => g = pgSerdes (l / 4) ∨ g / 256 = 8 ∨ g = pgTime) := by
  intro t
  obtain ⟨hoff, -, hctr, -⟩ := lane_offs l
  have ports : ∀ p ∈ lanePorts l, p < 512 := fun p => lanePorts_lt l.isLt
  have follow := (s.cdrLost l).linksTrack_ports ports
  have links (p : Nat) : t.linkAt p = (s.cdrLost l).linkAt p := (settle_linkAt _ _).trans (follow.linkAt_eq p)
  refine ⟨?_, ?_, ?_, fun p hp => ?_, fun p hp => ?_, ?_⟩
  · rw [settle_flag]
    refine Eq.trans ?_ (State.cdrLost_flag h)
    rw [State.flag_eq_bit _ _ _ _ rfl, State.flag_eq_bit _ _ _ _ rfl]
    exact congrArg (fun v : W32 => bit v.toNat 1) ((s.cdrLost l).linksTrack_serdes ports (l / 4) hoff)
  · rw [settle_caused]
    have caused := State.cdrLost_caused h
    unfold State.caused at caused ⊢
    rwa [cdrLoss, State.linksTrack_serdes _ ports _ (by norm_num)]
  · rw [settle_ctr_page _ (pgSerdes_ne_host _) hctr (by norm_num), ← State.cdrLost_counts h]
    exact follow.ctrs _ _ _ hctr (by norm_num) (fun hg => hg.elim (pgSerdes_class _) (pgSerdes_ne_time _)) (pgSerdes_ne_host _)
  · rw [links, State.cdrLost_linkAt, if_pos hp]
  · rw [links, State.cdrLost_linkAt, if_neg hp]
  · have lost : LinkTouches s (s.cdrLost l) (fun g => g = pgSerdes (l / 4) ∨ g / 256 = 8 ∨ g = pgTime) :=
      (s.cdrLost_touches l).mono fun g hg => .inl hg
    exact lost.then (follow.mono fun g hg => .inr hg).settle

/-! ### The rate of a quad (R75, R76, R84) -/

/-- The rate is taken; the ports whose FEC value it does not have find it unsupported. -/
def State.rateTaken (s : State) (q rate : Nat) : State :=
  ((s.setL (pgSerdes q) Reg.SERDES.QCFG_RATE rate).each (quadPorts q) fun x p =>
    x.ifDo (!x.fecSupported p) fun x => x.unsupported p).linksTrack (quadPorts q)

theorem State.rateWrite_rejected {s : State} {q r : Nat} (hq : quadIsField q = false) (hr : r ≠ s.quadRate q)
    (h : r = 3 ∨ (quadPorts q).any (fun p => s.portFlag p Reg.PORT.PCFG_EN) = true) :
    s.rateWrite q r = (s.setFld (pgSerdes q) Reg.SERDES.QSTAT_RATE_REJECT 1).raise (pgSerdes q) 6 := by
  unfold State.rateWrite
  dsimp only
  rw [if_neg (by simp [hq, hr]), if_pos h]

theorem State.rateWrite_taken {s : State} {q r : Nat} (hq : quadIsField q = false) (hr : r ≠ s.quadRate q) (h3 : r ≠ 3)
    (hen : (quadPorts q).any (fun p => s.portFlag p Reg.PORT.PCFG_EN) = false) : s.rateWrite q r = s.rateTaken q r := by
  unfold State.rateWrite
  dsimp only
  rw [if_neg (by simp [hq, hr]), if_neg (by rw [hen]; simp [h3])]
  rfl

/-- Noting ports whose FEC value is unsupported changes the ports' pages. -/
theorem State.each_unsupported_touches (s : State) {ps : List Nat} (h : ∀ p ∈ ps, p < 512) :
    Touches s (s.each ps fun x p => x.ifDo (!x.fecSupported p) fun x => x.unsupported p) (fun g => g / 256 = 8) :=
  State.each_keeps (I := fun u => Touches s u fun g => g / 256 = 8) ps (Touches.refl s _) fun u p hp hu =>
    hu.ifDo _ ((u.unsupported_touches p).mono fun _ hg => hg ▸ pgPort_class (h p hp))

theorem State.rateTaken_quadRate (s : State) {q r : Nat} (hq : q < 56) (hr : r < 4) : (s.rateTaken q r).quadRate q = r := by
  have ports : ∀ p ∈ quadPorts q, p < 512 := fun p => quadPorts_lt hq
  have written : (s.setFld (pgSerdes q) Reg.SERDES.QCFG_RATE r).fld (pgSerdes q) Reg.SERDES.QCFG_RATE = r :=
    (State.fld_setFld_same _ _ _ _ _ (by decide) (by decide)).trans (Nat.mod_eq_of_lt hr)
  have kept : (s.rateTaken q r).rd (pgSerdes q) Reg.SERDES.QCFG_RATE.off =
      (s.setFld (pgSerdes q) Reg.SERDES.QCFG_RATE r).rd (pgSerdes q) Reg.SERDES.QCFG_RATE.off := by
    rw [State.rateTaken, State.linksTrack_serdes _ ports _ (by decide),
      (State.each_unsupported_touches _ ports).regs _ _ _ (by decide) (by norm_num) (pgSerdes_class q), State.setL,
      State.through_rd _ _ _ _ (pgSerdes_ne_lehr q) (by decide) (by norm_num)]
  exact (congrArg (fun v : W32 => bits v.toNat 31 30) kept).trans written

/-- A write of a quad's rate acts after the hub's answer. -/
theorem rateWrite_takes {s : State} {q : QuadId} (r : Fin 4) (h : s.takes (pgSerdes q)) :
    rateWrite q r s = (s.hubAnswered (pgSerdes q)).rateWrite q r := State.wordWrite_takes h _ _ _ _

/-! ### The reference and the PLL (R78) -/

theorem quadPllLock_locks {s : State} {q : QuadId} (href : s.flag (pgSerdes q) Reg.SERDES.QSTAT_REF_OK = true)
    (hon : s.domOn q = true) : quadPllLock q s =
      (s.setFld (pgSerdes q) Reg.SERDES.QSTAT_PLL_LOCK 1).linksTrack (quadPorts q) := if_pos (by rw [href, hon]; rfl)

theorem sdrefLoss_lost {s : State} {q : QuadId} (href : s.flag (pgSerdes q) Reg.SERDES.QSTAT_REF_OK = true) :
    sdrefLoss q s = (((s.setFld (pgSerdes q) Reg.SERDES.QSTAT_REF_OK 0).raise (pgSerdes q) 4).quadPllLost q).quadStopped q :=
  if_pos href

theorem quadPllUnlock_lost {s : State} {q : QuadId} (hlock : s.flag (pgSerdes q) Reg.SERDES.QSTAT_PLL_LOCK = true) :
    quadPllUnlock q s = ((s.setFld (pgSerdes q) Reg.SERDES.QSTAT_PLL_LOCK 0).raise (pgSerdes q) 5).quadStopped q :=
  if_pos hlock

/-- Settles O6: a rate by the ports and the code written, the quad's events by its reference and PLL, a lane's by its lock. -/
theorem quadAndLaneEvents : Obligations.QuadAndLaneEvents := by
  refine ⟨fun s q r h hfield hr => ?_, fun s q href => finish_congr (sdrefLoss_lost href), fun s q => rfl,
    fun s q href hon => ?_, fun s q hlock => finish_congr (quadPllUnlock_lost hlock),
    fun s l hlock => ⟨_, rfl, cdrLoss_locked hlock⟩⟩
  · have other : r.val ≠ (s.hubAnswered (pgSerdes q)).quadRate q := by rwa [State.quadRate, State.hubAnswered_fld]
    refine ⟨fun hrej => finish_congr ?_, fun h3 hen => ?_⟩
    · exact (rateWrite_takes r h).trans (State.rateWrite_rejected hfield other (by simpa using hrej))
    · have taken : rateWrite q r s = (s.hubAnswered (pgSerdes q)).rateTaken q r :=
        (rateWrite_takes r h).trans (State.rateWrite_taken hfield other h3 (by simpa using hen))
      refine ⟨finish_congr taken, _, finish_congr taken, ?_⟩
      rw [State.quadRate, settle_fld]
      exact State.rateTaken_quadRate _ q.isLt r.isLt
  · have ports : ∀ p ∈ quadPorts q, p < 512 := fun p => quadPorts_lt q.isLt
    refine ⟨_, finish_congr (quadPllLock_locks href hon), ?_, ?_⟩
    · rw [settle_flag, State.flag_eq_bit _ _ _ _ rfl, State.linksTrack_serdes _ ports _ (by decide)]
      exact State.bit_setFld_in _ _ Reg.SERDES.QSTAT_PLL_LOCK 1 0 (by decide) (by decide) (by decide)
    · have locked : Touches s (s.setFld (pgSerdes q) Reg.SERDES.QSTAT_PLL_LOCK 1)
          (fun g => g = pgSerdes q ∨ g / 256 = 8 ∨ g = pgTime) :=
        (Touches.refl s _).setFld _ _ _ _ (.inl rfl) (by decide) (by norm_num)
      exact (locked.trans ((State.linksTrack_ports _ ports).mono fun _ hg => .inr hg)).settle

end Sys2Proof.Machine
end

section
/-! SUPPORT. Port states: what a change of state leaves, the writes of PCFG, and the events of a link. -/

namespace Sys2Proof.Machine

/-! ### What follows a change of state (R90, R459) -/

theorem benchTeam_lt {p : Nat} (h : p < 512) : benchTeam (portBench p) < 2 := by
  unfold benchTeam portBench
  split <;> omega

/-- The team of a gating unit. -/
theorem sagTeam_lt {u : Nat} (h : u < 544) : sagTeam u < 2 := by
  refine benchTeam_lt ?_
  unfold sagPort groupPort
  split_ifs <;> omega

theorem pgPwr_ne {t q : Nat} (ht : t < 2) (hq : 0x800 ≤ q) : q ≠ pgPwr t := by
  unfold pgPwr
  omega

/-- A unit that begins its wake writes no register. -/
theorem State.sagUngate_regs (s : State) (u : Nat) : (s.sagUngate u).regs = s.regs := by
  unfold State.sagUngate
  dsimp only
  split <;> rfl

/-- What planning a unit's wake again can do: nothing, its wake, or a wake that is late. -/
theorem State.sagPlan_cases (s : State) (u : Nat) : s.sagPlan u = s ∨ s.sagPlan u = s.sagUngate u ∨
    s.sagPlan u = ((s.sagUngate u).bump (pgPwr (sagTeam u)) Reg.PWRT.LATE_WAKE).raise (pgPwr (sagTeam u)) 0 := by
  unfold State.sagPlan
  dsimp only
  split_ifs <;> simp

/-- Planning a unit's wake again writes no page past the power pages. -/
theorem State.sagPlan_rd (s : State) {u q off : Nat} (hu : u < 544) (hq : 0x800 ≤ q) (ho : off < 4096) :
    (s.sagPlan u).rd q off = s.rd q off := by
  have woken := State.rd_congr (s.sagUngate_regs u) q off 0
  rcases s.sagPlan_cases u with h | h | h
  · rw [h]
  · rw [h, woken]
  · have apart : rkey q off 0 ≠ rkey (pgPwr (sagTeam u)) 0x010 0 :=
      rkey_ne_page ho (by norm_num) (by norm_num) (by norm_num) (pgPwr_ne (sagTeam_lt hu) hq)
    rw [h, State.rd_raise_ne _ _ _ apart, State.rd_bump, woken]

/-- Planning the wakes of a port's units again writes no word of its page. -/
theorem State.sagPlanPort_rd (s : State) {p off : Nat} (hp : p < 512) (ho : off < 4096) :
    (s.sagPlanPort p).rd (pgPort (portGroup p)) off = s.rd (pgPort (portGroup p)) off := by
  have group := portGroup_lt hp
  have past : 0x800 ≤ pgPort (portGroup p) := by unfold pgPort; omega
  rw [State.sagPlanPort, State.sagPlan_rd _ (by omega) past ho, State.sagPlan_rd _ (by omega) past ho]

/-- VERIFY_STATUS and TX_ACTIVE stand in MMCFG: the other words of the page stay. -/
theorem State.mmTrack_rd (s : State) (p : Nat) {off : Nat} (h : off / 4 ≠ (Reg.PORT.MMCFG (portSlot p)).off / 4) :
    (s.mmTrack p).rd (pgPort (portGroup p)) off = s.rd (pgPort (portGroup p)) off := by
  have apart : rkey (pgPort (portGroup p)) off 0 ≠ rkey (pgPort (portGroup p)) (Reg.PORT.MMCFG (portSlot p)).off 0 :=
    rkey_ne_word h
  unfold State.mmTrack State.setPortFld
  exact Eq.trans (State.rd_setFld_ne _ _ _ _ _ apart) (State.rd_setFld_ne _ _ _ _ _ apart)

/-! ### A change of state (R94) -/

/-- The new state stands in PSTAT with LINK_CHG, beside the group's sum of ports that are UP. -/
def State.lstateWritten (s : State) (p n : Nat) : State :=
  (((s.setPortFld p Reg.PORT.PSTAT_LSTATE n).setPortFld p Reg.PORT.PSTAT_LINK_CHG 1).setFld (pgPort (portGroup p))
    ⟨0x040, portSlot p, portSlot p⟩ (b2n (n == 2))).onLink p fun k => { k with owes := false }

/-- Beside PSTAT, a change of state writes the group's sum only. -/
theorem State.lstateWritten_rd (s : State) (p n : Nat) {off : Nat} (h : off / 4 ≠ 0x040 / 4) :
    (s.lstateWritten p n).rd (pgPort (portGroup p)) off =
      ((s.setPortFld p Reg.PORT.PSTAT_LSTATE n).setPortFld p Reg.PORT.PSTAT_LINK_CHG 1).rd (pgPort (portGroup p)) off := by
  rw [State.lstateWritten, State.onLink_eq, State.rd_congr (State.putLink_regs ..)]
  exact State.rd_setFld_ne _ _ ⟨0x040, portSlot p, portSlot p⟩ _ _ (rkey_ne_word h)

theorem State.setLstate_same {s : State} {p n : Nat} (h : s.lstate p = n) : s.setLstate p n = s := if_pos h

theorem State.setLstate_changes {s : State} {p n : Nat} (h : s.lstate p ≠ n) :
    s.setLstate p n = (((s.lstateWritten p n).portRaise p (portSlot p)).mmTrack p).sagPlanPort p := if_neg h

section
variable {s : State} {p n : Nat} (hp : p < 512)
include hp

/-- What follows a change of state leaves the words of the page but MMCFG. -/
theorem State.setLstate_rd (h : s.lstate p ≠ n) {off : Nat} (ho : off < 4096)
    (hoff : off / 4 ≠ (Reg.PORT.MMCFG (portSlot p)).off / 4) : (s.setLstate p n).rd (pgPort (portGroup p)) off =
      ((s.lstateWritten p n).portRaise p (portSlot p)).rd (pgPort (portGroup p)) off := by
  rw [State.setLstate_changes h, State.sagPlanPort_rd _ hp ho, State.mmTrack_rd _ _ hoff]

/-- A change of state leaves PCFG. -/
theorem State.setLstate_pcfg (s : State) (n : Nat) : (s.setLstate p n).rd (pgPort (portGroup p)) (Reg.PORT.PCFG (portSlot p)).off =
    s.rd (pgPort (portGroup p)) (Reg.PORT.PCFG (portSlot p)).off := by
  obtain ⟨hpcfg, hpstat, hmm⟩ := port_words (portSlot p)
  by_cases h : s.lstate p = n
  · rw [State.setLstate_same h]
  · have status : rkey (pgPort (portGroup p)) (Reg.PORT.PCFG (portSlot p)).off 0 ≠
        rkey (pgPort (portGroup p)) (Reg.PORT.PSTAT (portSlot p)).off 0 := rkey_ne_word (by omega)
    rw [State.setLstate_rd hp h (port_offs p).1 (by omega), State.portRaise, State.rd_raise_ne _ _ _ (rkey_ne_word (by omega)),
      State.lstateWritten_rd _ _ _ (by omega)]
    exact Eq.trans (State.rd_setFld_ne _ _ _ _ _ status) (State.rd_setFld_ne _ _ _ _ _ status)

/-- PSTAT as a change of state leaves it. -/
theorem State.setLstate_pstat (h : s.lstate p ≠ n) :
    (s.setLstate p n).rd (pgPort (portGroup p)) (Reg.PORT.PSTAT (portSlot p)).off =
    ((s.setPortFld p Reg.PORT.PSTAT_LSTATE n).setPortFld p Reg.PORT.PSTAT_LINK_CHG 1).rd (pgPort (portGroup p))
      (Reg.PORT.PSTAT (portSlot p)).off := by
  obtain ⟨hpcfg, hpstat, hmm⟩ := port_words (portSlot p)
  rw [State.setLstate_rd hp h (port_offs p).2.1 (by omega), State.portRaise, State.rd_raise_ne _ _ _ (rkey_ne_word (by omega)),
    State.lstateWritten_rd _ _ _ (by omega)]

/-- The port is in the state it was brought to. -/
theorem State.setLstate_lstate (s : State) (hn : n < 4) : (s.setLstate p n).lstate p = n := by
  by_cases h : s.lstate p = n
  · rw [State.setLstate_same h, h]
  · have written : (s.setPortFld p Reg.PORT.PSTAT_LSTATE n).lstate p = n :=
      (State.fld_setFld_same _ _ _ _ _ (by decide : 30 ≤ 31) (by decide : 31 < 32)).trans (Nat.mod_eq_of_lt hn)
    refine (congrArg (fun v : W32 => bits v.toNat 31 30) (State.setLstate_pstat hp h)).trans (Eq.trans ?_ written)
    exact State.fld_setFld_apart _ _ (Reg.PORT.PSTAT_LINK_CHG (portSlot p)) (Reg.PORT.PSTAT_LSTATE (portSlot p)) _ _
      (le_refl 15) (by decide : 15 < 32) rfl (.inr (by decide : 15 < 30))

/-- A change of state is shown in LINK_CHG. -/
theorem State.setLstate_linkChg (h : s.lstate p ≠ n) : (s.setLstate p n).portFlag p Reg.PORT.PSTAT_LINK_CHG = true := by
  have shown : ((s.setPortFld p Reg.PORT.PSTAT_LSTATE n).setPortFld p Reg.PORT.PSTAT_LINK_CHG 1).portFld p
      Reg.PORT.PSTAT_LINK_CHG = 1 := State.fld_setFld_same _ _ _ _ _ (le_refl 15) (by decide : 15 < 32)
  rw [State.portFlag, beq_iff_eq, ← shown]
  exact congrArg (fun v : W32 => bits v.toNat 15 15) (State.setLstate_pstat hp h)

/-- A change of state raises the port's cause. -/
theorem State.setLstate_caused (h : s.lstate p ≠ n) : (s.setLstate p n).caused (pgPort (portGroup p)) (portSlot p) := by
  obtain ⟨hpcfg, hpstat, hmm⟩ := port_words (portSlot p)
  have slot := portSlot_lt p
  rw [State.caused, State.setLstate_rd hp h (by norm_num) (by omega)]
  exact State.caused_raise _ (by omega)

end

/-! ### Writes of PCFG (R80, R84, R94) -/

theorem State.bit_pcfgWith (s : State) (p v : Nat) {f : Nat → Fld} {i : Nat} (hi : i < 32)
    (hf : (f (portSlot p)).lo ≤ (f (portSlot p)).hi) : bit (s.pcfgWith p f v).toNat i =
      if (f (portSlot p)).lo ≤ i ∧ i ≤ (f (portSlot p)).hi then bit v (i - (f (portSlot p)).lo)
      else bit (s.rd (pgPort (portGroup p)) (f (portSlot p)).off).toNat i := by
  rw [State.pcfgWith, bit_ofNat _ hi, bit_setBits _ _ _ _ _ hf]

/-- A command that writes a field of PCFG, at a page that takes it. -/
theorem State.pcfgField_takes {s : State} {p : Nat} (f : Nat → Fld) (v : Nat) (h : s.takes (pgPort (portGroup p))) :
    s.pcfgField p f v = (s.hubAnswered (pgPort (portGroup p))).pcfgWrite p (s.pcfgWith p f v) := by
  have read : (s.hubAnswered (pgPort (portGroup p))).pcfgWith p f v = s.pcfgWith p f v := by
    rw [State.pcfgWith, State.pcfgWith, State.hubAnswered_rd]
  exact (State.wordWrite_takes h _ _ _ _).trans (by rw [read])

/-- The port's state follows a write of EN from `was` to `now`. -/
def State.enFollowed (s : State) (p : Nat) (was now : Bool) : State :=
  if was && !now then (((s.portFlush p).learnedFlush p).setLstate p 0).checkPath p
  else if !was && now then s.setLstate p 1
  else s

/-- The end of a write of PCFG that began in `s`: a FEC value first found unsupported is noted, and PSTAT follows. -/
def State.fecNoted (s w : State) (p : Nat) : State :=
  (if (s.fecSupported p = true ∨ s.portFld p Reg.PORT.PCFG_FEC ≠ w.portFld p Reg.PORT.PCFG_FEC) ∧ w.fecSupported p = false
    then w.unsupported p else w).linksTrack [p]

theorem State.pcfgWrite_eq (s : State) (p : Nat) (v : W32) :
    let s1 := s.plainWrite (pgPort (portGroup p)) (Reg.PORT.PCFG (portSlot p)).off 0 v
    s.pcfgWrite p v = s.fecNoted (s1.enFollowed p (s.portFlag p Reg.PORT.PCFG_EN) (s1.portFlag p Reg.PORT.PCFG_EN)) p := by
  intro s1
  unfold State.fecNoted
  generalize hw : s1.enFollowed p (s.portFlag p Reg.PORT.PCFG_EN) (s1.portFlag p Reg.PORT.PCFG_EN) = w
  have run : s.pcfgWrite p v = (w.ifDo ((s.fecSupported p || s.portFld p Reg.PORT.PCFG_FEC != w.portFld p Reg.PORT.PCFG_FEC) &&
      !w.fecSupported p) fun s => s.unsupported p).linksTrack [p] := by
    rw [← hw]
    rfl
  rw [run, State.ifDo]
  simp only [Bool.and_eq_true, Bool.or_eq_true, bne_iff_ne, Bool.not_eq_true']

/-- A host write of any port's PCFG takes EN, and clears no bit. -/
theorem pcfg_writable : ∀ (g : Fin 32) (i : Fin 16), bit (rwBits (pgPort g) (Reg.PORT.PCFG i).off) 0 = true ∧
    w1cBits (pgPort g) (Reg.PORT.PCFG i).off = 0 := by decide

theorem State.plainWrite_en (s : State) {p : Nat} (hp : p < 512) {v : W32} (hv : bit v.toNat 0 = true) :
    (s.plainWrite (pgPort (portGroup p)) (Reg.PORT.PCFG (portSlot p)).off 0 v).portFlag p Reg.PORT.PCFG_EN = true := by
  obtain ⟨writable, clears⟩ := pcfg_writable ⟨portGroup p, portGroup_lt hp⟩ ⟨portSlot p, portSlot_lt p⟩
  have notLehr : pgPort (portGroup p) ≠ pgLehr := by unfold pgPort pgLehr; omega
  refine (State.flag_eq_bit _ _ _ _ rfl).trans ?_
  refine (congrArg (fun v : W32 => bit v.toNat 0) (State.through_rd _ _ _ _ notLehr (port_offs p).1 (by norm_num))).trans ?_
  dsimp only at writable clears
  rw [State.rd_wr_same, clears, bit_ofNat _ (by norm_num), bit_accessWrite _ _ _ (by norm_num), writable, if_pos rfl, hv]

/-- Noting the FEC value and following the link leaves the port's state and its configuration. -/
theorem State.fecNoted_lstate (s w : State) (p : Nat) : (s.fecNoted w p).lstate p = w.lstate p := by
  refine Eq.trans (State.linksTrack_pstat _ p (f := Reg.PORT.PSTAT_LSTATE (portSlot p)) rfl (.inl (by decide : 29 < 30))) ?_
  split
  · obtain ⟨-, hword, -⟩ := port_words (portSlot p)
    have hoff : (Reg.PORT.PSTAT_LSTATE (portSlot p)).off = (Reg.PORT.PSTAT (portSlot p)).off := rfl
    exact (State.fld_raise_other _ _ _ (rkey_ne_word (by omega))).trans (State.fld_setFld_apart _ _
      (Reg.PORT.PSTAT_UNSUP_MODE (portSlot p)) (Reg.PORT.PSTAT_LSTATE (portSlot p)) _ _ (le_refl 13) (by decide : 13 < 32) rfl
      (.inr (by decide : 13 < 30)))
  · rfl

theorem State.fecNoted_pcfg (s w : State) (p : Nat) : (s.fecNoted w p).rd (pgPort (portGroup p)) (Reg.PORT.PCFG (portSlot p)).off =
    w.rd (pgPort (portGroup p)) (Reg.PORT.PCFG (portSlot p)).off := by
  obtain ⟨hpcfg, hpstat, -⟩ := port_words (portSlot p)
  refine (State.linksTrack_rd _ p (port_offs p).1 (by omega)).trans ?_
  split
  · have status : rkey (pgPort (portGroup p)) (Reg.PORT.PCFG (portSlot p)).off 0 ≠
        rkey (pgPort (portGroup p)) (Reg.PORT.PSTAT (portSlot p)).off 0 := rkey_ne_word (by omega)
    exact (State.rd_raise_ne _ _ _ (rkey_ne_word (by omega))).trans (State.rd_setFld_ne _ _ _ _ _ status)
  · rfl

/-- A port that is enabled goes to DOWN. -/
theorem State.pcfgWrite_enables {s : State} {p : Nat} (hp : p < 512) {v : W32} (hoff : s.portFlag p Reg.PORT.PCFG_EN = false)
    (hv : bit v.toNat 0 = true) : (s.pcfgWrite p v).lstate p = 1 ∧ (s.pcfgWrite p v).portFlag p Reg.PORT.PCFG_EN = true := by
  have now := s.plainWrite_en hp hv
  have run : s.pcfgWrite p v =
      s.fecNoted ((s.plainWrite (pgPort (portGroup p)) (Reg.PORT.PCFG (portSlot p)).off 0 v).setLstate p 1) p := by
    rw [s.pcfgWrite_eq p v, hoff, now]
    rfl
  rw [run]
  refine ⟨(State.fecNoted_lstate _ _ p).trans (State.setLstate_lstate hp _ (by norm_num)), Eq.trans ?_ now⟩
  exact congrArg (fun v : W32 => bits v.toNat 0 0 == 1) ((State.fecNoted_pcfg _ _ p).trans (State.setLstate_pcfg hp _ 1))

/-- Settles O5: the commands write PCFG with one field replaced; the write acts by what EN was and is. -/
theorem portConfigWrites : Obligations.PortConfigWrites := by
  refine ⟨fun s p h => ⟨?_, ?_, fun f => ?_⟩, fun s p v i hi => ⟨?_, ?_⟩, fun s p v => ?_,
    fun s p v hoff hv => State.pcfgWrite_enables p.isLt hoff hv⟩
  · exact finish_congr (State.pcfgField_takes _ _ h)
  · exact finish_congr (State.pcfgField_takes _ _ h)
  · exact finish_congr (State.pcfgField_takes _ _ h)
  · exact s.bit_pcfgWith p v hi (le_refl 0)
  · exact s.bit_pcfgWith p v hi (by decide : 10 ≤ 11)
  · intro s1 then_
    have run := s.pcfgWrite_eq p v
    refine ⟨fun hwas hnow => ?_, fun hwas hnow => ?_, fun hsame => ?_⟩
    · exact run.trans (by rw [hwas, hnow]; rfl)
    · exact run.trans (by rw [hwas, hnow]; rfl)
    · have still (b : Bool) : s1.enFollowed p b b = s1 := by cases b <;> rfl
      exact run.trans (by rw [hsame, still]; rfl)

end Sys2Proof.Machine
end

section
/-! SUPPORT. The events of a port's link: in-band status, the receiver's conditions, faults and the verify protocol. -/

namespace Sys2Proof.Machine

theorem portLane_lt {p : Nat} (h : p < 512) : portLane p < 224 := by
  unfold portLane
  split <;> omega

/-! ### In-band status (R80) -/

/-- A field PHY's in-band word is taken and acknowledged. -/
def LinkSt.heard (k : LinkSt) (up : Bool) (speed : Nat) (half : Bool) : LinkSt :=
  { k with up := up, speed := speed, half := half, ack := true }

/-- What an in-band word leaves before PSTAT follows: a half-duplex or reserved speed is refused. -/
def State.inbandHeard (s : State) (p : Nat) (up : Bool) (speed : Nat) (half : Bool) : State :=
  (s.onLink p fun k => k.heard up speed half).ifDo (half || decide (3 < speed)) fun s => s.unsupported p

section
variable {s : State} {p : PortId} (up : Bool) (speed : Fin 8) (half : Bool)

theorem inbandStatus_field (hp : p.val < 384) (hbyp : s.portFlag p Reg.PORT.PCFG_AN_BYPASS = false) :
    inbandStatus p up speed half s = (s.inbandHeard p up speed half).linksTrack [p.val] := by
  have field : isTrunk p = false := decide_eq_false (by omega)
  exact if_neg (by rw [field, hbyp]; decide)

theorem inbandStatus_ignored (h : 384 ≤ p.val ∨ s.portFlag p Reg.PORT.PCFG_AN_BYPASS = true) :
    inbandStatus p up speed half s = s := by
  refine if_pos ((Bool.or_eq_true _ _).mpr (h.imp_left fun hp => ?_))
  exact decide_eq_true hp

end

theorem State.inbandHeard_touches (s : State) (p : Nat) (up : Bool) (speed : Nat) (half : Bool) :
    Touches (s.onLink p fun k => k.heard up speed half) (s.inbandHeard p up speed half) (· = pgPort (portGroup p)) :=
  (Touches.refl _ _).ifDo _ (State.unsupported_touches _ p)

theorem inbandStatus_heard {s : State} {p : PortId} (up : Bool) (speed : Fin 8) (half : Bool) :
    let t := settle ((s.inbandHeard p up speed half).linksTrack [p.val])
    t.linkAt p = { s.linkAt p with up := up, speed := speed, half := half, ack := true } ∧
      (∀ q, q ≠ p.val → t.linkAt q = s.linkAt q) ∧
      (half = true ∨ 3 < speed.val → t.portFlag p Reg.PORT.PSTAT_UNSUP_MODE = true ∧ t.caused (pgPort (portGroup p)) 17) ∧
      LinkTouches s t (fun g => g = pgPort (portGroup p) ∨ g = pgTime) := by
  intro t
  have heard := s.inbandHeard_touches p up speed half
  have follow := (s.inbandHeard p up speed half).linksTrack_one_touches p
  have links (q : Nat) : t.linkAt q = (s.onLink p fun k => k.heard up speed half).linkAt q :=
    (settle_linkAt _ q).trans ((follow.linkAt_eq q).trans (heard.linkAt_eq q))
  refine ⟨?_, fun q hq => ?_, fun hbad => ?_, ?_⟩
  · rw [links, State.onLink_eq, State.linkAt_same]
    rfl
  · rw [links, State.onLink_eq, State.linkAt_ne _ _ hq]
  · have refused : s.inbandHeard p up speed half = (s.onLink p fun k => k.heard up speed half).unsupported p :=
      if_pos ((Bool.or_eq_true _ _).mpr (hbad.imp_right decide_eq_true))
    refine ⟨?_, (settle_caused _ _ _).2 (State.linksTrack_caused ?_)⟩
    · have shown := State.linksTrack_pstat (s.inbandHeard p up speed half) p (f := Reg.PORT.PSTAT_UNSUP_MODE (portSlot p)) rfl
        (.inr ⟨(by decide : 3 < 13), (by decide : 13 < 27)⟩)
      rw [State.portFlag, State.portFld, settle_fld, shown, refused, State.unsupported_flag]
      rfl
    · rw [refused]
      exact State.unsupported_caused _ p
  · exact (((LinkTouches.refl s _).onLink p _).then (heard.mono fun _ => .inl)).then follow.settle

/-! ### The receiver of a lane (R82, R93, R107) -/

/-- What a lane's receiver finds changes its page, and the links of its ports where it loses CDR lock. -/
theorem State.rxSeen_touches (s : State) (l : Nat) (sig locked : Bool) :
    LinkTouches s (s.rxSeen l sig locked) (· = pgSerdes (l / 4)) := by
  obtain ⟨hoff, -⟩ := lane_offs l
  unfold State.rxSeen
  dsimp only
  split_ifs
  · exact Touches.setFld_own (f := ⟨(Reg.SERDES.RXSTAT (l % 4)).off, 2, 0⟩) (Touches.refl _ _) 7 hoff
  · exact Touches.setFld_own (f := Reg.SERDES.RXSTAT_SIG_DET (l % 4)) (Touches.refl _ _) 1 hoff
  · exact (s.cdrLost_touches l).then (Touches.setFld_own (f := Reg.SERDES.RXSTAT_SIG_DET (l % 4)) (Touches.refl _ _) 0 hoff)

/-- Beside block lock of the lane's ports, it leaves the links. -/
theorem State.rxSeen_link (s : State) (l : Nat) (sig locked : Bool) :
    (s.rxSeen l sig locked).link = s.link ∨ (s.rxSeen l sig locked).link = (s.cdrLost l).link := by
  unfold State.rxSeen
  dsimp only
  split_ifs
  · exact .inl rfl
  · exact .inl rfl
  · exact .inr rfl

/-- Once block lock is set on the lane's ports, what was of it before is gone. -/
theorem State.rxSeen_setLocks_linkAt (s : State) (l : Nat) (sig locked b : Bool) (q : Nat) :
    ((s.rxSeen l sig locked).setLocks (lanePorts l) b).linkAt q =
      if q ∈ lanePorts l then { s.linkAt q with lock := b } else s.linkAt q := by
  have before : (s.rxSeen l sig locked).linkAt q = s.linkAt q ∨ (s.rxSeen l sig locked).linkAt q = (s.cdrLost l).linkAt q :=
    (s.rxSeen_link l sig locked).imp (fun h => by rw [State.linkAt, h]; rfl) fun h => by rw [State.linkAt, h]; rfl
  rw [State.setLocks_linkAt]
  rcases before with h | h
  · rw [h]
  · rw [h, State.cdrLost_linkAt]
    split <;> rfl

theorem State.prbsSeen_touches (s : State) (l : Nat) (sync : Bool) (errs : Nat) :
    Touches s (s.prbsSeen l sync errs) (· = pgSerdes (l / 4)) := by
  obtain ⟨-, hoff, -, hctr⟩ := lane_offs l
  unfold State.prbsSeen
  exact (Touches.setFld_own (f := Reg.SERDES.PRBS_CHK_LOCK (l % 4)) (Touches.refl _ _) _ hoff).ifDo _
    ((Touches.refl _ _).addCtr _ _ _ 0 rfl hctr (by norm_num))

/-! ### The receive conditions of a link (R82, R93) -/

/-- The receive conditions of a link beside its lock. -/
def LinkSt.found (k : LinkSt) (remote loc fecLock : Bool) (an : Nat) : LinkSt :=
  { k with remote := remote, loc := loc, fecLock := fecLock, an := an }

/-- The links of a lane once the receiver has found what it found. -/
def State.linkFound (s : State) (p : Nat) (sig rx lock remote loc fecLock : Bool) (an : Nat) : State :=
  ((s.rxSeen (portLane p) sig rx).setLocks (lanePorts (portLane p)) lock).onLink p fun k => k.found remote loc fecLock an

theorem linkFault_eq (p : PortId) (lock remote loc fecLock : Bool) (an : Fin 3) (sig prbs : Bool) (errs : Nat) (s : State) :
    ∃ rx half : Bool, linkFault p lock remote loc fecLock an sig prbs errs s =
      (((s.linkFound p sig rx (lock && s.quadGood (portQuad p)) remote loc fecLock an).prbsSeen (portLane p) prbs errs).ifDo half
        fun s => s.unsupported p).linksTrack (lanePorts (portLane p)) :=
  ⟨_, _, rfl⟩

section
variable (s : State) {p : Nat} (sig rx lock remote loc fecLock : Bool) (an : Nat)

theorem State.linkFound_self (hp : p < 512) : (s.linkFound p sig rx lock remote loc fecLock an).linkAt p =
    { s.linkAt p with lock := lock, remote := remote, loc := loc, fecLock := fecLock, an := an } := by
  rw [State.linkFound, State.onLink_eq, State.linkAt_same, State.rxSeen_setLocks_linkAt, if_pos (mem_lanePorts hp)]
  rfl

theorem State.linkFound_lane {q : Nat} (hq : q ∈ lanePorts (portLane p)) (hne : q ≠ p) :
    (s.linkFound p sig rx lock remote loc fecLock an).linkAt q = { s.linkAt q with lock := lock } := by
  rw [State.linkFound, State.onLink_eq, State.linkAt_ne _ _ hne, State.rxSeen_setLocks_linkAt, if_pos hq]

theorem State.linkFound_other (hp : p < 512) {q : Nat} (hq : q ∉ lanePorts (portLane p)) :
    (s.linkFound p sig rx lock remote loc fecLock an).linkAt q = s.linkAt q := by
  have hne : q ≠ p := fun e => hq (e.symm ▸ mem_lanePorts hp)
  rw [State.linkFound, State.onLink_eq, State.linkAt_ne _ _ hne, State.rxSeen_setLocks_linkAt, if_neg hq]

theorem State.linkFound_touches :
    LinkTouches s (s.linkFound p sig rx lock remote loc fecLock an) (· = pgSerdes (portQuad p)) :=
  ((s.rxSeen_touches (portLane p) sig rx).setLocks _ _).onLink p _

end

theorem linkFault_found (s : State) (p : PortId) (lock remote loc fecLock : Bool) (an : Fin 3) (sig prbs : Bool) (errs : Nat) :
    let t := settle (linkFault p lock remote loc fecLock an sig prbs errs s)
    t.linkAt p = { s.linkAt p with
      lock := lock && s.quadGood (portQuad p), remote := remote, loc := loc, fecLock := fecLock, an := an } ∧
      (∀ q, q ∈ lanePorts (portLane p) → q ≠ p.val →
        t.linkAt q = { s.linkAt q with lock := lock && s.quadGood (portQuad p) }) ∧
      (∀ q, q ∉ lanePorts (portLane p) → t.linkAt q = s.linkAt q) ∧
      LinkTouches s t (fun g => g = pgSerdes (portQuad p) ∨ g / 256 = 8 ∨ g = pgTime) := by
  intro t
  obtain ⟨rx, half, run⟩ := linkFault_eq p lock remote loc fecLock an sig prbs errs s
  let u := s.linkFound p sig rx (lock && s.quadGood (portQuad p)) remote loc fecLock an
  let v := u.prbsSeen (portLane p) prbs errs
  have after : Touches u t (fun g => g = pgSerdes (portQuad p) ∨ g / 256 = 8 ∨ g = pgTime) := by
    have checked : Touches u v (fun g => g = pgSerdes (portQuad p) ∨ g / 256 = 8 ∨ g = pgTime) :=
      (u.prbsSeen_touches (portLane p) prbs errs).mono fun _ hg => .inl hg
    have refused : Touches v (v.unsupported p) (fun g => g = pgSerdes (portQuad p) ∨ g / 256 = 8 ∨ g = pgTime) :=
      (v.unsupported_touches p).mono fun _ hg => .inr (.inl (hg ▸ pgPort_class p.isLt))
    have follow := (v.ifDo half fun s => s.unsupported p).linksTrack_ports fun q => lanePorts_lt (portLane_lt p.isLt) (p := q)
    show Touches u (settle (linkFault p lock remote loc fecLock an sig prbs errs s)) _
    rw [run]
    exact ((checked.ifDo half refused).trans (follow.mono fun _ hg => .inr hg)).settle
  refine ⟨?_, fun q hq hne => ?_, fun q hq => ?_, ?_⟩
  · exact (after.linkAt_eq p).trans (s.linkFound_self sig rx _ remote loc fecLock an p.isLt)
  · exact (after.linkAt_eq q).trans (s.linkFound_lane sig rx _ remote loc fecLock an hq hne)
  · exact (after.linkAt_eq q).trans (s.linkFound_other sig rx _ remote loc fecLock an p.isLt hq)
  · exact LinkTouches.then ((s.linkFound_touches sig rx _ remote loc fecLock an).mono fun _ hg => .inl hg) after

/-- Settles O4: the port's state by the link as it stands, its conditions by what the receiver finds. -/
theorem linkEventsTakeEffect : Obligations.LinkEventsTakeEffect := by
  refine ⟨fun s p hgood hst => finish_congr (if_pos ⟨hgood, hst⟩), fun s p hup hbad => finish_congr (if_pos ?_),
    fun s p hhold => ⟨finish_congr (if_pos hhold), rfl⟩, fun s p n hn hne => ?_, fun s p up speed half => ⟨fun hp hbyp => ?_,
      fun h => finish_congr (inbandStatus_ignored up speed half h)⟩,
    fun s p lock remote loc fecLock an sig prbs errs => ⟨_, rfl, linkFault_found s p lock remote loc fecLock an sig prbs errs⟩,
    fun s p hrun => ⟨finish_congr (if_pos hrun), finish_congr (if_pos hrun)⟩⟩
  · rw [State.portUp, hup, hbad]
    rfl
  · exact ⟨State.setLstate_lstate p.isLt s hn, State.setLstate_linkChg p.isLt hne, State.setLstate_caused p.isLt hne⟩
  · exact ⟨_, finish_congr (inbandStatus_field up speed half hp hbyp), inbandStatus_heard up speed half⟩

end Sys2Proof.Machine
end

section
/-! SUPPORT. What the release of a frame leaves alone, and the abort of a routine that would run past the control store. -/

namespace Sys2Proof.Machine

/-! ### Changes beside those of the parts that hold frames -/

/-- `t` has the buffers, learn requests, receivers, bridge transfers and waiting tags it has, and beside them what `s` has but on
the pages of `P`. -/
def FrameTouches (s t : State) (P : Nat → Prop) : Prop :=
  Touches { s with buf := t.buf, fdb := t.fdb, rx := t.rx, bridge := t.bridge, ciph := t.ciph } t P

/-- What left the rest alone leaves it alone beside the frames of a state `u`. -/
theorem Touches.withFrames {s t : State} {P : Nat → Prop} (h : Touches s t P) (u : State) :
    Touches { s with buf := u.buf, fdb := u.fdb, rx := u.rx, bridge := u.bridge, ciph := u.ciph }
      { t with buf := u.buf, fdb := u.fdb, rx := u.rx, bridge := u.bridge, ciph := u.ciph } P :=
  ⟨congrArg (fun x : State => { x with buf := u.buf, fdb := u.fdb, rx := u.rx, bridge := u.bridge, ciph := u.ciph }) h.rest,
    h.regs, h.ctrs, h.rings⟩

theorem FrameTouches.refl (s : State) (P : Nat → Prop) : FrameTouches s s P := Touches.refl s P

theorem FrameTouches.trans {s t u : State} {P : Nat → Prop} (h : FrameTouches s t P) (k : FrameTouches t u P) :
    FrameTouches s u P := Touches.trans (Touches.withFrames h u) k

theorem FrameTouches.each {α : Type} {s t : State} {P : Nat → Prop} (h : FrameTouches s t P) (l : List α)
    {f : State → α → State} (hf : ∀ u x, FrameTouches u (f u x) P) : FrameTouches s (t.each l f) P :=
  State.each_keeps (I := fun u => FrameTouches s u P) l h fun u x _ hu => hu.trans (hf u x)

section
variable {s t : State} {P : Nat → Prop} (h : FrameTouches s t P)
include h

theorem FrameTouches.onBuf (b : Nat) (f : BufSt → BufSt) : FrameTouches s (t.onBuf b f) P := Touches.withFrames h (t.onBuf b f)
theorem FrameTouches.onFdb (b : Nat) (f : FdbSt → FdbSt) : FrameTouches s (t.onFdb b f) P := Touches.withFrames h (t.onFdb b f)
theorem FrameTouches.onRx (p : Nat) (f : RxSt → RxSt) : FrameTouches s (t.onRx p f) P := Touches.withFrames h (t.onRx p f)
theorem FrameTouches.onBridge (k : Nat) (f : BridgeSt → BridgeSt) : FrameTouches s (t.onBridge k f) P :=
  Touches.withFrames h (t.onBridge k f)
theorem FrameTouches.onCiph (c : Nat) (f : CiphSt → CiphSt) : FrameTouches s (t.onCiph c f) P :=
  Touches.withFrames h (t.onCiph c f)

theorem FrameTouches.mar_eq : t.mar = s.mar := (congrArg State.mar h.rest).trans rfl
theorem FrameTouches.rd_eq {p off : Nat} (hp : ¬ P p) (ho : off < 4096) : t.rd p off = s.rd p off :=
  h.regs p off 0 ho (by norm_num) hp
theorem FrameTouches.ctr_eq {p off : Nat} (hp : ¬ P p) (hhost : p ≠ pgHost) (ho : off < 4096) : t.ctr p off = s.ctr p off :=
  h.ctrs p off 0 ho (by norm_num) hp hhost

end

section
variable {s t : State} {p : Nat} (h : FrameTouches s t (· = p))
include h

theorem FrameTouches.wr {off : Nat} (v : W32) (ho : off < 4096) : FrameTouches s (t.wr p off v) (· = p) :=
  Touches.wr h p off v 0 rfl ho (by norm_num)
theorem FrameTouches.setFld {f : Fld} (v : Nat) (hf : f.off < 4096) : FrameTouches s (t.setFld p f v) (· = p) :=
  Touches.setFld_own h v hf
theorem FrameTouches.raise (i : Nat) : FrameTouches s (t.raise p i) (· = p) := Touches.raise h p i rfl
theorem FrameTouches.bump {off : Nat} (ho : off < 4096) : FrameTouches s (t.bump p off) (· = p) :=
  Touches.addCtr h p off 1 0 rfl ho (by norm_num)

end

/-! ### Releases (R242, R254, R259) -/

theorem State.doubleFree_touches (s : State) (b agent : Nat) (isDesc : Bool) (handle : Nat) :
    FrameTouches s (s.doubleFree b agent isDesc handle) (· = pgBuf b) := by
  have counted : FrameTouches s ((s.bump (pgBuf b) Reg.BUF.DFREE).raise (pgBuf b) 0) (· = pgBuf b) :=
    ((FrameTouches.refl s _).bump (by decide)).raise 0
  unfold State.doubleFree
  dsimp only
  split
  · next hroom =>
    refine (counted.wr _ ?_).setFld _ (by decide)
    simp only [Reg.BUF.DFREE_LOG]
    omega
  · exact counted

theorem State.freeBuf_touches (s : State) (b g : Nat) : FrameTouches s (s.freeBuf b g) (· = pgBuf b) := by
  unfold State.freeBuf
  dsimp only
  split
  · exact ((((FrameTouches.refl s _).onBuf b _).onBuf b _).bump (by decide)).raise 9
  · exact ((FrameTouches.refl s _).onBuf b _).onBuf b _

theorem State.relBuf_touches (s : State) (b g agent : Nat) : FrameTouches s (s.relBuf b g agent) (· = pgBuf b) := by
  unfold State.relBuf
  dsimp only
  split_ifs
  · exact FrameTouches.refl s _
  · exact s.doubleFree_touches b agent false g
  · exact s.freeBuf_touches b g
  · exact (FrameTouches.refl s _).onBuf b _

theorem State.orphan_touches (s : State) (b d : Nat) (v : Desc) (P : Nat → Prop) : FrameTouches s (s.orphan b d v) P := by
  unfold State.orphan State.eachLearn
  dsimp only
  exact ((((FrameTouches.refl s P).each _ fun u e => (FrameTouches.refl u P).onFdb e _).each _
    fun u k => (FrameTouches.refl u P).onBridge k _).each _ fun u p => (FrameTouches.refl u P).onRx p _).onCiph _ _

theorem State.relHold_touches (s : State) (b d agent : Nat) : FrameTouches s (s.relHold b d agent) (· = pgBuf b) := by
  unfold State.relHold
  split
  · exact s.doubleFree_touches b agent true d
  · split
    · exact (FrameTouches.refl s _).onBuf b _
    · exact (((FrameTouches.refl s _).onBuf b _).trans (State.orphan_touches _ b d _ _)).each _
        fun u g => u.relBuf_touches b g agent

theorem State.cullet_touches (s : State) (b d agent : Nat) : FrameTouches s (s.cullet b d agent) (· = pgBuf b) :=
  (s.relHold_touches b d agent).bump (by decide)

/-! ### Aborts (R132, R133) -/

theorem pgMarver_ne_buf (b : Nat) : pgMarver b ≠ pgBuf b := by
  unfold pgMarver pgBuf
  omega

/-- PDRAIN stands on a page past MARVER's, whatever the epoch. -/
theorem State.drained_rd (s : State) (b e : Nat) {off w : Nat} (ho : off < 4096) (hw : w < 4096) :
    (s.drained b e).rd (pgMarver b) off w = s.rd (pgMarver b) off w := by
  refine State.rd_setFld_ne _ _ _ _ _ ?_
  unfold rkey pgMarver pgCls
  omega

/-- An aborted routine's header is complete, and its frame goes by the cullet path. -/
def State.frameAborted (s : State) (b : Nat) (r : Routine) : State :=
  ((s.drained b r.h.epoch).cullet b r.h.desc 71).bump (pgBuf b) Reg.BUF.CULLET_ABORT

theorem State.frameAborted_touches (s : State) (b : Nat) (r : Routine) :
    FrameTouches (s.drained b r.h.epoch) (s.frameAborted b r) (· = pgBuf b) :=
  (State.cullet_touches _ b r.h.desc 71).bump (by decide)

theorem State.frameAborted_marAt (s : State) (b c : Nat) (r : Routine) : (s.frameAborted b r).marAt c = s.marAt c := by
  have pool : (s.frameAborted b r).mar = s.mar := (s.frameAborted_touches b r).mar_eq.trans (State.setFld_mar ..)
  rw [State.marAt, pool, State.marAt]

theorem State.frameAborted_caused (s : State) (b : Nat) (r : Routine) (i : Nat) :
    (s.frameAborted b r).caused (pgMarver b) i ↔ s.caused (pgMarver b) i := by
  have word : (s.frameAborted b r).rd (pgMarver b) 0x010 = s.rd (pgMarver b) 0x010 :=
    ((s.frameAborted_touches b r).rd_eq (pgMarver_ne_buf b) (by norm_num)).trans
      (s.drained_rd b r.h.epoch (by norm_num) (by norm_num))
  rw [State.caused, word, State.caused]

theorem State.frameAborted_ctr (s : State) (b : Nat) (r : Routine) {off : Nat} (ho : off < 4096) :
    (s.frameAborted b r).ctr (pgMarver b) off = s.ctr (pgMarver b) off :=
  ((s.frameAborted_touches b r).ctr_eq (pgMarver_ne_buf b) (pgMarver_ne_host b) ho).trans
    (State.ctr_congr (State.setFld_ctrs ..) _ _ _)

theorem State.abortLog_mar (s : State) (b e : Nat) (r : Routine) (cause pc : Nat) : (s.abortLog b e r cause pc).mar = s.mar := by
  unfold State.abortLog
  split
  · rfl
  · rw [State.wr_mar, State.wr_mar]

theorem State.abortLog_ctrs (s : State) (b e : Nat) (r : Routine) (cause pc : Nat) :
    (s.abortLog b e r cause pc).ctrs = s.ctrs := by
  unfold State.abortLog
  split
  · rfl
  · rw [State.wr_ctrs, State.wr_ctrs]

/-- An abort past the end idles the engine and is counted in CS_END_ABORT with cause 2. -/
theorem State.abort_past_end (s : State) (b e : Nat) (r : Routine) (pc : Nat) :
    ((s.abort b e r 3 pc).marAt b).engine e = none ∧
      (s.abort b e r 3 pc).ctr (pgMarver b) Reg.MARVER.CS_END_ABORT = s.ctr (pgMarver b) Reg.MARVER.CS_END_ABORT + 1 ∧
      (s.abort b e r 3 pc).caused (pgMarver b) 2 := by
  let u := (s.onMar b fun m => m.setEngine e none).abortLog b e r 3 pc
  let v := (u.marCount b Reg.MARVER.CS_END_ABORT).marCount b Reg.MARVER.CLEN_STRETCH r.stretch
  have run : s.abort b e r 3 pc = (v.raise (pgMarver b) 2).frameAborted b r := rfl
  rw [run]
  refine ⟨?_, ?_, ?_⟩
  · have pool : v.mar = (s.onMar b fun m => m.setEngine e none).mar := State.abortLog_mar _ b e r 3 pc
    rw [State.frameAborted_marAt, State.marAt, State.raise_mar, pool, ← State.marAt, State.onMar_eq, State.marAt_same]
    exact MarverSt.engine_setEngine _ _ _
  · have before : u.ctr (pgMarver b) Reg.MARVER.CS_END_ABORT = s.ctr (pgMarver b) Reg.MARVER.CS_END_ABORT :=
      State.ctr_congr (State.abortLog_ctrs _ b e r 3 pc) _ _ _
    have apart : v.ctr (pgMarver b) Reg.MARVER.CS_END_ABORT =
        (u.marCount b Reg.MARVER.CS_END_ABORT).ctr (pgMarver b) Reg.MARVER.CS_END_ABORT :=
      State.ctr_addCtr_ne _ _ _ _ _ (rkey_ne_word (by decide))
    rw [State.frameAborted_ctr _ _ _ (by decide), State.ctr_congr (State.raise_ctrs ..), apart, State.marCount,
      State.ctr_addCtr_same, before]
    rfl
  · exact (State.frameAborted_caused _ b r 2).2 (State.caused_raise v (by norm_num))

/-! ### The fall through past 0x3FFF (R119, R132) -/

/-- The choice of the next address looks at the flags and registers only. -/
theorem takenAddr_counted (d : W32) (r : Routine) (words clocks stretch pc : Nat) :
    takenAddr d { r with words := words, clocks := clocks, stretch := stretch, pc := pc } = takenAddr d r := rfl

theorem nextAddr_past_end {img : ImageSt} {w : W192} {r : Routine} (hpc : r.pc = 0x3FFF)
    (hnot : bits (img.dispatch (mw w 191 184)).toNat 31 31 = 0 ∨ takenAddr (img.dispatch (mw w 191 184)) r = none) :
    nextAddr img w r = none := by
  have untaken : (if bits (img.dispatch (mw w 191 184)).toNat 31 31 = 1 then takenAddr (img.dispatch (mw w 191 184)) r
      else none) = none := by
    rcases hnot with hbr | htaken
    · rw [hbr]
      rfl
    · rw [htaken, ite_self]
  unfold nextAddr
  dsimp only
  rw [untaken]
  exact if_pos hpc

theorem stepWord_past_end {img : ImageSt} {w : W192} {r : Routine} (other : Bool) (hend : mw w 181 181 = 0)
    (hpc : r.pc = 0x3FFF) (hnot : bits (img.dispatch (mw w 191 184)).toNat 31 31 = 0 ∨
      takenAddr (img.dispatch (mw w 191 184)) (wordEffect img w r) = none) : stepWord img w other r = none := by
  have noEnd : ¬ mw w 181 181 = 1 := by omega
  unfold stepWord
  dsimp only
  rw [if_neg noEnd, Option.map_eq_none_iff]
  exact nextAddr_past_end hpc (hnot.imp_right (takenAddr_counted ..).trans)

theorem State.runWord_past_end {s : State} {r : Routine} (b e : Nat) {other : Bool}
    (hclk : r.clocks + wordClocks (s.image.word r.pc) other < 640)
    (hstep : stepWord s.image (s.image.word r.pc) other r = none) :
    s.runWord b e r other = (s.ifDo (mw (s.image.word r.pc) 180 180 == 1) fun u =>
      u.pexc b (mw (s.image.word r.pc) 179 176)).abort b e
        { r with stretch := r.stretch + wordStretch (s.image.word r.pc) } 3 r.pc := by
  unfold State.runWord
  dsimp only
  rw [if_neg (by omega), hstep]

/-- A parse exception is no abort. -/
theorem State.ifDo_pexc_endAborts (s : State) (k : Bool) (b code : Nat) :
    (s.ifDo k fun u => u.pexc b code).ctr (pgMarver b) Reg.MARVER.CS_END_ABORT =
      s.ctr (pgMarver b) Reg.MARVER.CS_END_ABORT := by
  refine State.ifDo_marCount_ctr s k b (c := Reg.MARVER.PEXC code) ?_
  simp only [Reg.MARVER.PEXC, Reg.MARVER.CS_END_ABORT]
  omega

/-- Reads of words count corrections and repairs, and leave the image. -/
theorem State.csRead_keeps (s : State) (b addr copy : Nat) (f : CsFind) : (s.csRead b addr copy f).image = s.image ∧
    (s.csRead b addr copy f).ctr (pgMarver b) Reg.MARVER.CS_END_ABORT = s.ctr (pgMarver b) Reg.MARVER.CS_END_ABORT := by
  have apart {u : State} {c : Nat} (hc : Reg.MARVER.CS_END_ABORT / 4 ≠ c / 4) : (u.marCount b c).ctr (pgMarver b)
      Reg.MARVER.CS_END_ABORT = u.ctr (pgMarver b) Reg.MARVER.CS_END_ABORT :=
    State.ctr_addCtr_ne _ _ _ _ _ (rkey_ne_word hc)
  cases f with
  | clean => exact ⟨rfl, rfl⟩
  | ce => exact ⟨rfl, apart (by decide)⟩
  | ue => exact ⟨rfl, (State.ctr_congr (State.raise_ctrs ..) _ _ _).trans (apart (by decide))⟩
  | both => exact ⟨rfl, rfl⟩

theorem State.csReads_keeps (s : State) (b e : Nat) (found : List (Nat × CsFind)) : (s.csReads b e found).image = s.image ∧
    (s.csReads b e found).ctr (pgMarver b) Reg.MARVER.CS_END_ABORT = s.ctr (pgMarver b) Reg.MARVER.CS_END_ABORT :=
  State.each_keeps (I := fun u => u.image = s.image ∧
    u.ctr (pgMarver b) Reg.MARVER.CS_END_ABORT = s.ctr (pgMarver b) Reg.MARVER.CS_END_ABORT) found ⟨rfl, rfl⟩
    fun u x _ ⟨himage, hctr⟩ =>
      have ⟨image, ctr⟩ := u.csRead_keeps b x.1 (homeCopy e) x.2
      ⟨image.trans himage, ctr.trans hctr⟩

/-- A routine whose words the image gives, none of them bad, runs its next word. -/
theorem microwordExecute_word {s : State} {b : BenchId} {e : Fin 24} {finds : List (Fin 16704 × CsFind)} {r : Routine}
    (h : (s.marAt b).engine e = some r) (hended : r.ended = false) (hexp : r.expired = none) (hbase : r.base = false)
    (hgood : ∀ x ∈ s.csFinds b (wordReads s.image r.pc) finds, x.2 ≠ .both) :
    let found := s.csFinds b (wordReads s.image r.pc) finds
    microwordExecute b e finds s = (s.csReads b e found).runWord b e r (found.contains (r.pc, .ue)) := by
  have patched : ¬ r.base = true := ne_true_of_eq_false hbase
  have reads : r.reads s finds = wordReads s.image r.pc := if_neg patched
  have good : ¬ ((s.csFinds b (wordReads s.image r.pc) finds).any fun x => x.2 == .both) = true := by
    intro hany
    obtain ⟨x, hx, hboth⟩ := List.any_eq_true.1 hany
    exact hgood x hx (by simpa using hboth)
  have runs := microwordExecute_runs (finds := finds) h hended hexp
  rw [reads] at runs
  exact runs.trans ((if_neg good).trans (if_neg patched))

/-- Settles O57: the word runs as read, the step has no next address, and its abort is one past the end. -/
theorem fallThroughPastTheEndAborts : Obligations.FallThroughPastTheEndAborts := by
  intro s b e r finds h hended hexp hbase hpc found hgood w d hend hclk hnot
  obtain ⟨himage, hctr⟩ := s.csReads_keeps b e found
  let u := s.csReads b e found
  let v := u.ifDo (mw (u.image.word r.pc) 180 180 == 1) fun x => x.pexc b (mw (u.image.word r.pc) 179 176)
  let r' : Routine := { r with stretch := r.stretch + wordStretch (u.image.word r.pc) }
  have run : microwordExecute b e finds s = v.abort b e r' 3 r.pc := by
    refine (microwordExecute_word h hended hexp hbase hgood).trans (State.runWord_past_end b e ?_ ?_)
    · rw [himage]
      exact hclk
    · rw [himage]
      exact stepWord_past_end _ hend hpc hnot
  obtain ⟨hidle, hcount, hcause⟩ := v.abort_past_end b e r' r.pc
  refine ⟨_, finish_congr run, ?_, ?_, (settle_caused _ _ _).2 hcause⟩
  · rw [settle_marAt]
    exact hidle
  · rw [settle_ctr_page _ (pgMarver_ne_host b) (by decide) (by norm_num), hcount, State.ifDo_pexc_endAborts, hctr]

end Sys2Proof.Machine
end

section
/-! SUPPORT. The hash tables: what stands at a slot after a write, where an entry of a sound table can stand and how a lookup
finds it; what a DELETE removes. -/

namespace Sys2Proof.Machine

/-! ### Slots -/

theorem HTab.slot_setSlot (t : HTab) (i j : Nat) (o : Option HEntry) :
    (t.setSlot i o).slot j = if j = i then o else t.slot j := Tab.get_set _ _ _ _ _

/-- Writing a placement fills its slots alone, and leaves the stash. -/
theorem HTab.writeAt_way (l : List Nat) (o : Option HEntry) : ∀ t : HTab,
    (∀ i, (t.writeAt (.way l) o).slot i = if i ∈ l then o else t.slot i) ∧ (t.writeAt (.way l) o).stash = t.stash := by
  induction l with
  | nil => exact fun t => ⟨fun i => rfl, rfl⟩
  | cons j l ih =>
    intro t
    obtain ⟨hslot, hstash⟩ := ih (t.setSlot j o)
    refine ⟨fun i => (hslot i).trans ?_, hstash⟩
    rw [HTab.slot_setSlot]
    by_cases hl : i ∈ l <;> by_cases hj : i = j <;> simp [hl, hj]

/-! ### Placements -/

/-- A placement is one slot for a narrow entry and an aligned pair for a wide one (R151). -/
theorem HSpec.place_cases {sp : HSpec} (heven : sp.per % 2 = 0) (w : Nat) (e : HEntry) :
    ∃ h, sp.place w e = (if e.wide then [h, h + 1] else [h]) ∧ (e.wide = true → h % 2 = 0) := by
  unfold HSpec.place
  cases e.wide with
  | false => exact ⟨_, rfl, fun h => nomatch h⟩
  | true =>
    refine ⟨_, rfl, fun _ => ?_⟩
    have : w * sp.per % 2 = 0 := by rw [Nat.mul_mod, heven]; rfl
    omega

/-- The first slot of a placement names it. -/
theorem HSpec.place_of_head_mem {sp : HSpec} (heven : sp.per % 2 = 0) {w w' h : Nat} {e : HEntry}
    (hhead : (sp.place w e).head? = some h) (hmem : h ∈ sp.place w' e) : sp.place w' e = sp.place w e := by
  obtain ⟨a, ha, haeven⟩ := HSpec.place_cases heven w e
  obtain ⟨a', ha', haeven'⟩ := HSpec.place_cases heven w' e
  rw [ha] at hhead ⊢
  rw [ha'] at hmem ⊢
  cases hw : e.wide with
  | false => simp_all
  | true =>
    simp only [hw, if_true, List.head?_cons, Option.some.injEq, List.mem_cons, List.not_mem_nil, or_false] at *
    have : a' = a := by have := haeven trivial; have := haeven' trivial; omega
    rw [this]

theorem HSpec.place_head {sp : HSpec} (w : Nat) (e : HEntry) : ∃ h, (sp.place w e).head? = some h ∧ h ∈ sp.place w e := by
  unfold HSpec.place
  cases e.wide <;> exact ⟨_, rfl, List.mem_cons_self⟩

/-- A placement is its key's and width's. -/
theorem HSpec.place_of_key {sp : HSpec} (w : Nat) {e : HEntry} {key : List Byte} {wide : Bool} (hkey : e.key = key)
    (hwide : e.wide = wide) : sp.place w { key := key, wide := wide } = sp.place w e := by
  rw [← hkey, ← hwide]
  rfl

/-! ### Lookup (R152) -/

/-- The lookup in the ways. -/
def HTab.findWay (t : HTab) (sp : HSpec) (key : List Byte) (wide : Bool) : Option (HPos × HEntry) :=
  (sp.places { key := key, wide := wide }).findSome? fun l =>
    match l.head?.bind t.slot with
    | some e => if e.key = key then some (HPos.way l, e) else none
    | none => none

/-- The lookup in the stash. -/
def HTab.findStash (t : HTab) (key : List Byte) : Option (HPos × HEntry) :=
  (t.stash.findIdx? fun e => e.key == key).bind fun i => (t.stash[i]?).map fun e => (.stash i, e)

theorem HTab.find_eq (t : HTab) (sp : HSpec) (key : List Byte) (wide : Bool) :
    t.find sp key wide = (t.findWay sp key wide).or (t.findStash key) := by
  show (match t.findWay sp key wide with | some r => some r | none => t.findStash key) = _
  cases t.findWay sp key wide <;> rfl

/-- The ways look at the first slot of each placement. -/
theorem HTab.findWay_some {t : HTab} {sp : HSpec} {key : List Byte} {wide : Bool} {r : HPos × HEntry}
    (h : t.findWay sp key wide = some r) : ∃ w i, (sp.place w { key := key, wide := wide }).head? = some i ∧
      t.slot i = some r.2 ∧ r.2.key = key ∧ r.1 = .way (sp.place w { key := key, wide := wide }) := by
  obtain ⟨l, hl, hr⟩ := List.exists_of_findSome?_eq_some h
  obtain ⟨w, -, rfl⟩ := List.mem_map.1 hl
  obtain ⟨i, hi, -⟩ := HSpec.place_head (sp := sp) w { key := key, wide := wide }
  rw [hi, Option.bind_some] at hr
  cases he : t.slot i with
  | none => rw [he] at hr; cases hr
  | some e =>
    rw [he] at hr
    dsimp only at hr
    split_ifs at hr with hk
    cases hr
    exact ⟨w, i, hi, he, hk, rfl⟩

theorem HTab.findWay_none {t : HTab} {sp : HSpec} {key : List Byte} {wide : Bool} (h : t.findWay sp key wide = none)
    {w i : Nat} (hw : w < 4) (hi : (sp.place w { key := key, wide := wide }).head? = some i) {e : HEntry} (he : t.slot i = some e) :
    e.key ≠ key := by
  have hl := List.findSome?_eq_none_iff.1 h (sp.place w { key := key, wide := wide })
    (List.mem_map.2 ⟨w, List.mem_range.2 hw, rfl⟩)
  rw [hi, Option.bind_some, he] at hl
  intro hk
  simp [hk] at hl

/-! ### Where a sound table holds a key -/

section
variable {t : HTab} {sp : HSpec} {key : List Byte} {wide : Bool} (hs : t.sound sp) (heven : sp.per % 2 = 0)
  (hwide : ∀ i e, t.slot i = some e → e.key = key → e.wide = wide)
include hs heven hwide

/-- What the lookup finds in the ways fills its placement, and stands nowhere else. -/
theorem HTab.sound.findWay {r : HPos × HEntry} (h : t.findWay sp key wide = some r) :
    ∃ l, r.1 = .way l ∧ r.2.key = key ∧ (∀ i ∈ l, t.slot i = some r.2) ∧
      ∀ i f, t.slot i = some f → f.key = key → i ∈ l := by
  obtain ⟨w, i, hi, he, hk, hr⟩ := HTab.findWay_some h
  rw [HSpec.place_of_key w hk (hwide i r.2 he hk)] at hi hr
  have fills : ∀ j f, t.slot j = some f → f.key = key → j ∈ sp.place w r.2 ∧ ∀ k ∈ sp.place w r.2, t.slot k = some r.2 := by
    intro j f hj hf
    obtain ⟨w', -, hhead, hmem, hall⟩ := hs.1 i j r.2 f he hj (hk.trans hf.symm)
    rw [HSpec.place_of_head_mem heven hi hhead] at hmem hall
    exact ⟨hmem, hall⟩
  exact ⟨_, hr, hk, (fills i r.2 he hk).2, fun j f hj hf => (fills j f hj hf).1⟩

omit heven in
/-- A key that the lookup does not find in the ways stands in none. -/
theorem HTab.sound.findWay_none (h : t.findWay sp key wide = none) {i : Nat} {e : HEntry} (he : t.slot i = some e) :
    e.key ≠ key := by
  intro hk
  obtain ⟨w, hw, -, -, hall⟩ := hs.1 i i e e he he rfl
  obtain ⟨j, hj, hmem⟩ := HSpec.place_head (sp := sp) w e
  rw [← HSpec.place_of_key w hk (hwide i e he hk)] at hj
  exact HTab.findWay_none h hw hj (hall j hmem) hk

end

/-- A table without the entries of some keys is as sound as it was. -/
theorem HTab.sound.filterKeys {t u : HTab} {sp : HSpec} (hs : t.sound sp) (p : List Byte → Bool)
    (hslot : ∀ i, u.slot i = (t.slot i).filter fun e => p e.key) (hstash : u.stash = t.stash.filter fun e => p e.key) :
    u.sound sp := by
  obtain ⟨hways, hapart, honce⟩ := hs
  have kept : ∀ {i e}, u.slot i = some e ↔ t.slot i = some e ∧ p e.key = true := by
    intro i e
    rw [hslot, Option.filter_eq_some_iff]
  refine ⟨fun i j e f hi hj hk => ?_, fun e he i f hf => ?_, ?_⟩
  · obtain ⟨hi, hp⟩ := kept.1 hi
    obtain ⟨w, hw, hmi, hmj, hall⟩ := hways i j e f hi (kept.1 hj).1 hk
    exact ⟨w, hw, hmi, hmj, fun k hmem => kept.2 ⟨hall k hmem, hp⟩⟩
  · rw [hstash] at he
    exact hapart e (List.mem_filter.1 he).1 i f (kept.1 hf).1
  · rw [hstash]
    exact honce.sublist List.filter_sublist

/-! ### DELETE (R154) -/

/-- Of entries with one key each, taking out the first with a key takes out every one with it. -/
theorem eraseIdx_findIdx_key {l : List HEntry} (honce : l.Pairwise fun a b => a.key ≠ b.key) {key : List Byte} {i : Nat}
    (h : l.findIdx? (fun e => e.key == key) = some i) : l.eraseIdx i = l.filter fun e => e.key != key := by
  have herase : l.eraseIdx i = l.eraseP fun e => e.key == key := by rw [List.eraseP_eq_eraseIdx, h]
  rw [herase]
  clear h herase
  induction l with
  | nil => rfl
  | cons e l ih =>
    obtain ⟨hhead, htail⟩ := List.pairwise_cons.1 honce
    by_cases hk : e.key = key
    · rw [List.eraseP_cons_of_pos (by simp [hk]), List.filter_cons_of_neg (by simp [hk]), eq_comm, List.filter_eq_self]
      exact fun f hf => by simpa [hk] using (hhead f hf).symm
    · rw [List.eraseP_cons_of_neg (by simpa using hk), List.filter_cons_of_pos (by simpa using hk), ih htail]

theorem HTab.filter_slot_of_absent {t : HTab} {key : List Byte} (h : ∀ i e, t.slot i = some e → e.key ≠ key) (i : Nat) :
    t.slot i = (t.slot i).filter fun e => e.key != key := by
  cases he : t.slot i with
  | none => rfl
  | some e => simp [Option.filter, h i e he]

theorem HTab.filter_stash_of_absent {t : HTab} {key : List Byte} (h : ∀ e ∈ t.stash, e.key ≠ key) :
    t.stash = t.stash.filter fun e => e.key != key :=
  (List.filter_eq_self.2 fun e he => by simpa using h e he).symm

/-- What a DELETE does to a sound table: it takes out the entries of its key, and answers by whether there are any. -/
theorem HTab.sound.delete {t : HTab} {sp : HSpec} {key : List Byte} {wide : Bool} (hs : t.sound sp) (heven : sp.per % 2 = 0)
    (hwide : ∀ i e, t.slot i = some e → e.key = key → e.wide = wide) :
    (∀ i, (t.delete sp key wide).tab.slot i = (t.slot i).filter fun e => e.key != key) ∧
    (t.delete sp key wide).tab.stash = t.stash.filter (fun e => e.key != key) ∧
    ((t.delete sp key wide).status = 3 ∧ ((∃ i e, t.slot i = some e ∧ e.key = key) ∨ ∃ e ∈ t.stash, e.key = key) ∨
      (t.delete sp key wide).status = 6 ∧ (t.delete sp key wide).tab = t ∧
        (∀ i e, t.slot i = some e → e.key ≠ key) ∧ ∀ e ∈ t.stash, e.key ≠ key) := by
  unfold HTab.delete
  rw [HTab.find_eq]
  cases hfind : t.findWay sp key wide with
  | some r =>
    obtain ⟨pos, e⟩ := r
    obtain ⟨l, hpos, hk, hall, honly⟩ := hs.findWay heven hwide hfind
    obtain ⟨w, i, -, hi, -, -⟩ := HTab.findWay_some hfind
    obtain rfl : pos = .way l := hpos
    dsimp only at hk hall hi
    obtain ⟨hslot, hstash⟩ := t.writeAt_way l none
    refine ⟨fun i => (hslot i).trans ?_, hstash.trans (HTab.filter_stash_of_absent fun f hf => ?_), ?_⟩
    · split_ifs with hmem
      · simp [hall i hmem, Option.filter, hk]
      · cases hf : t.slot i with
        | none => rfl
        | some f => simp [Option.filter, show f.key ≠ key from fun h => hmem (honly i f hf h)]
    · exact fun h => hs.2.1 f hf i e hi (hk.trans h.symm)
    · exact .inl ⟨rfl, .inl ⟨i, e, hi, hk⟩⟩
  | none =>
    have absent := fun i e he => hs.findWay_none hwide hfind (i := i) (e := e) he
    unfold HTab.findStash
    cases hidx : t.stash.findIdx? (fun e => e.key == key) with
    | some i =>
      obtain ⟨hi, hk, -⟩ := List.findIdx?_eq_some_iff_getElem.1 hidx
      have hget : t.stash[i]? = some t.stash[i] := List.getElem?_eq_getElem hi
      rw [Option.none_or, Option.bind_some, hget]
      exact ⟨HTab.filter_slot_of_absent absent, eraseIdx_findIdx_key hs.2.2 hidx,
        .inl ⟨rfl, .inr ⟨_, List.getElem_mem hi, by simpa using hk⟩⟩⟩
    | none =>
      have gone : ∀ e ∈ t.stash, e.key ≠ key := by simpa using List.findIdx?_eq_none_iff.1 hidx
      exact ⟨HTab.filter_slot_of_absent absent, HTab.filter_stash_of_absent gone, .inr ⟨rfl, rfl, absent, gone⟩⟩

/-- Settles O59: the lookup finds all that a sound table holds of the key, and the entry is taken out where it was found. -/
theorem deleteRemovesTheEntry : Obligations.DeleteRemovesTheEntry := by
  intro t sp key wide hs heven hwide _
  obtain ⟨hslot, hstash, hstatus⟩ := hs.delete heven hwide
  refine ⟨fun hheld => ?_, fun hways hrest => ?_, hslot, hstash, hs.filterKeys (fun k => k != key) hslot hstash⟩
  · rcases hstatus with ⟨h, -⟩ | ⟨-, -, hways, hrest⟩
    · exact h
    · obtain ⟨i, e, he, hk⟩ | ⟨e, he, hk⟩ := hheld
      · exact absurd hk (hways i e he)
      · exact absurd hk (hrest e he)
  · rcases hstatus with ⟨-, ⟨i, e, he, hk⟩ | ⟨e, he, hk⟩⟩ | ⟨h, htab, -⟩
    · exact absurd hk (hways i e he)
    · exact absurd hk (hrest e he)
    · exact ⟨h, htab⟩

end Sys2Proof.Machine
end

section
/-! SUPPORT. The step of a hash table's invariant, refuted: within one edge a seed can change and come back around an INSERT. -/

namespace Sys2Proof.Machine

/-! ### A seed that changes and comes back within an edge (R55, R157, R174) -/

/-- A bench without a listed table has nothing that could be out of place. -/
theorem State.tablesSound_of_no_tables {s : State} (h : s.tabs = []) : s.tablesSound := by
  intro b k _ _
  have hempty : (s.tabsAt b).hget k = {} := by
    rw [State.tabsAt, h]
    cases k <;> simp [TabSt.hget, Tab.get]
  simp [hempty, HTab.sound, HTab.slot, Tab.get, Tab.wf, Tab.sorted]

@[simp] theorem settle_tabsAt (s : State) (b : Nat) : (settle s).tabsAt b = s.tabsAt b := by
  rw [settle_frame]
  rfl

@[simp] theorem settle_hspec (s : State) (b : Nat) (k : HKind) : (settle s).hspec b k = s.hspec b k := by
  simp [State.hspec, settle_rd]

/-- A class number that no RTCLASS register has: counted on from RTCLASS 0 of team B it names SEED 0 of its stream table. -/
def strayClass : Nat := 524260

theorem strayClass_is_seed : rkey (pgCls 4) (Reg.CLS.RTCLASS strayClass).off 0 = rkey (pgStrm 4) (seedAt 4 .sid).2 0 := by decide

/-- A command that waits for bench 4 to store `v` in the word of that class. -/
def strayCommand (v : Nat) : HostCmd := { kind := .rtclass, page := pgCls 4, table := strayClass, data := v, left := [4] }

/-- An INSERT of a stream identification entry, of type 1 and all zeroes, that waits for bench 4. -/
def insertCommand : HostCmd := { kind := .table, page := pgStrm 4, arg := 2 ^ 16, left := [4] }

/-- No table holds an entry, SEED 0 of team B's stream table is 0, and bench 4 has three commands to commit: SEED 0 becomes 1, the
INSERT, SEED 0 becomes 0. -/
def seedsToAndFro : State :=
  { State.reset with
    pending := [.localEdge 4 1344 1344],
    boot := { State.reset.boot with asserted := false },
    regs := [(rkey (pgStrm 4) (seedAt 4 .sid).2 0, 0)],
    hub := { State.reset.hub with cmds := [strayCommand 1, insertCommand, strayCommand 0] } }

/-- What bench 4's edge leaves, before it settles. -/
def seedsToAndFroAfter : State := localEdge 4 1344 1344 { seedsToAndFro with pending := [] }

/-- The entry stands where SEED 0 = 1 puts it. -/
theorem seedsToAndFro_entry : ((seedsToAndFroAfter.tabsAt 4).hget .sid).slot 0 = some { key := [1] } := by decide +kernel

/-- Every seed is after the edge what it was before. -/
theorem seedsToAndFro_seeds : ∀ b < 8, ∀ k ∈ hashKinds, seedsToAndFroAfter.hspec b k = seedsToAndFro.hspec b k := by decide +kernel

/-- With SEED 0 = 0 the key's hash gives another slot in every way. -/
theorem seedsToAndFro_place : ∀ w < 4, 0 ∉ (seedsToAndFroAfter.hspec 4 .sid).place w { key := [1] } := by decide +kernel

/-- Refutes O60: the state may hold a command that no host write makes, here a route class whose number runs past the page's
registers to a SEED of the stream table (`strayClass_is_seed`). Two such commands around an INSERT, all committed in one edge,
set the seed and set it back: the entry stands where the seed in between put it, and the seeds before and after agree. -/
theorem not_tablesStaySound : ¬ Obligations.TablesStaySound := by
  rintro ⟨-, stays, -⟩
  have sound := stays seedsToAndFro (settle seedsToAndFroAfter) (State.tablesSound_of_no_tables rfl) rfl
    (fun x y h => nomatch h) rfl fun b k hb hk => .inr ((settle_hspec _ b k).trans (seedsToAndFro_seeds b hb k hk))
  obtain ⟨-, ⟨ways, -, -⟩, -⟩ := sound 4 .sid (by decide) (by decide)
  rw [settle_tabsAt, settle_hspec] at ways
  obtain ⟨w, hw, hmem, -, -⟩ := ways 0 0 _ _ seedsToAndFro_entry seedsToAndFro_entry rfl
  exact seedsToAndFro_place w hw hmem

end Sys2Proof.Machine
end

section
/-! SUPPORT. Seeds, route classes and rule-set swaps: what each write does, and what a swap that starts leaves. -/

namespace Sys2Proof.Machine

/-! ### Seeds (R157) -/

@[simp] theorem State.hubAnswered_tabsAt (s : State) (p b : Nat) : (s.hubAnswered p).tabsAt b = s.tabsAt b := by
  simp [State.tabsAt]

theorem State.seedWrite_stores {s : State} {b : Nat} {k : HKind} (w : Nat) (v : W32)
    (h : ∀ x ∈ if k = .mac then [b] else teamBenches (benchTeam b), ((s.tabsAt x).hget k).empty = true) :
    s.seedWrite b k w v = s.wrL (seedAt b k).1 ((seedAt b k).2 + 4 * w) v := if_pos (List.all_eq_true.2 h)

theorem State.seedWrite_refused {s : State} {b : Nat} {k : HKind} (w : Nat) (v : W32)
    (h : ∃ x ∈ if k = .mac then [b] else teamBenches (benchTeam b), ((s.tabsAt x).hget k).empty = false) :
    s.seedWrite b k w v = s.raise (seedAt b k).1 (if k = .sid then 4 else 7) := by
  obtain ⟨x, hx, hheld⟩ := h
  exact if_neg fun hall => Bool.false_ne_true (hheld.symm.trans (List.all_eq_true.1 hall x hx))

theorem seedWrite_takes {s : State} {k : SeedTab} (w : Fin 4) (v : W32) (h : s.takes (seedAt (seedOf k).1 (seedOf k).2).1) :
    seedWrite k w v s =
      (s.hubAnswered (seedAt (seedOf k).1 (seedOf k).2).1).seedWrite (seedOf k).1 (seedOf k).2 w v :=
  State.wordWrite_takes h _ _ _ _

/-! ### Swaps (R165 to R168) -/

@[simp] theorem State.hubAnswered_swapAt (s : State) (p n : Nat) : (s.hubAnswered p).swapAt n = s.swapAt n := by
  simp [State.swapAt]

@[simp] theorem State.hubAnswered_hubUp (s : State) (p n : Nat) : (s.hubAnswered p).hubUp n = s.hubUp n := by
  rw [State.hubAnswered_frame]
  rfl

/-- The state in which a swap request is decided: the other team's hub is missing where COPY addresses it and it gives no
answer (R168). -/
def State.swapAddressed (s : State) (n : Nat) (copy : Bool) : State :=
  if copy ∧ s.hubUp (1 - n) = false then s.hubMissing (1 - n) true else s

theorem State.swapRequest_rejected {s : State} {n : Nat} {copy : Bool}
    (h : s.swapAt n ≠ none ∨ (copy && s.hubUp (1 - n)) = true ∧ s.swapAt (1 - n) ≠ none) :
    s.swapRequest n copy = (((s.swapAddressed n copy).bump (pgCls (4 * n)) Reg.CLS.SWAP_REJECT).setFld (pgCls (4 * n))
      Reg.CLS.SWAP_STAT_REJECT 1).raise (pgCls (4 * n)) 6 := by
  have busy : (s.swapAt n).isSome ∨ (copy && s.hubUp (1 - n)) ∧ (s.swapAt (1 - n)).isSome := by
    simpa [Option.isSome_iff_ne_none] using h
  rw [State.swapRequest, State.swapAddressed, if_pos busy]
  simp

theorem State.swapRequest_starts {s : State} {n : Nat} {copy : Bool} (hfree : s.swapAt n = none)
    (hother : (copy && s.hubUp (1 - n)) = true → s.swapAt (1 - n) = none) :
    s.swapRequest n copy = if copy && s.hubUp (1 - n) then
        (((s.swapAddressed n copy).swapAccept n true).hubBack (1 - n)).swapAccept (1 - n) true
      else (s.swapAddressed n copy).swapAccept n false := by
  have idle : ¬ ((s.swapAt n).isSome ∨ (copy && s.hubUp (1 - n)) ∧ (s.swapAt (1 - n)).isSome) := by
    rw [hfree]
    rintro (h | ⟨hboth, h⟩)
    · cases h
    · rw [hother hboth] at h
      cases h
  rw [State.swapRequest, State.swapAddressed, if_neg idle]
  cases copy && s.hubUp (1 - n) <;> simp

/-- A swap that starts carries the grid tick's number; SWAP_STAT and SWAP_TICK of its team's page tell of it, and nothing else
changes. -/
theorem State.swapAccept_spec (s : State) (n : Nat) (both : Bool) :
    (s.swapAccept n both).swapAt n = some { tick := s.gridTick, left := teamBenches n, both := both } ∧
    (s.swapAccept n both).fld (pgCls (4 * n)) Reg.CLS.SWAP_STAT_STATE = 1 ∧
    (s.swapAccept n both).rd (pgCls (4 * n)) Reg.CLS.SWAP_TICK.off = BitVec.ofNat 32 s.gridTick ∧
    Touches { s with swap := (s.swapAccept n both).swap } (s.swapAccept n both) (· = pgCls (4 * n)) := by
  let u := s.putSwap n (some { tick := s.gridTick, left := teamBenches n, both := both })
  have told : s.swapAccept n both = (u.setFld (pgCls (4 * n)) Reg.CLS.SWAP_STAT_STATE 1).wr (pgCls (4 * n)) Reg.CLS.SWAP_TICK.off
    (BitVec.ofNat 32 s.gridTick) := rfl
  rw [told]
  refine ⟨?_, ?_, State.rd_wr_same _ _ _ _ _, ?_⟩
  · rw [State.swapAt, State.wr_swap, State.setFld_swap]
    exact State.swapAt_same s n _
  · rw [State.fld_wr_other _ _ _ _ _ (rkey_ne_word (by decide)), State.fld_setFld_same _ _ _ _ _ (by decide) (by decide)]
    rfl
  · exact ((Touches.refl u (· = pgCls (4 * n))).setFld _ _ _ _ rfl (by decide) (by norm_num)).wr _ _ _ _ rfl (by decide) (by norm_num)

/-- Settles O33: each write finds its page, and takes the branch that its hypotheses name. -/
theorem seedsClassesAndSwaps : Obligations.SeedsClassesAndSwaps := by
  refine ⟨fun s k w v h => ⟨fun hempty => finish_congr ?_, fun hheld => finish_congr ?_⟩,
    fun s k c v h => finish_congr (State.wordWrite_takes h _ _ _ _), fun s k copy h => ⟨fun hbusy => ?_, fun hfree hother => ?_⟩,
    fun s n both _ => s.swapAccept_spec n both⟩
  · rw [seedWrite_takes w v h, State.seedWrite_stores]
    simpa using hempty
  · rw [seedWrite_takes w v h, State.seedWrite_refused]
    simpa using hheld
  · refine finish_congr ((State.wordWrite_takes h _ _ _ _).trans ?_)
    rw [State.swapRequest_rejected (by simpa using hbusy), State.swapAddressed, State.hubAnswered_hubUp]
  · refine finish_congr ((State.wordWrite_takes h _ _ _ _).trans ?_)
    rw [State.swapRequest_starts (by simpa using hfree) (by simpa using hother), State.swapAddressed, State.hubAnswered_hubUp]

end Sys2Proof.Machine
end

section
/-! SUPPORT. Learning, aging, signatures and the logs: what each command does where its conditions hold, and what it leaves. -/

namespace Sys2Proof.Machine

/-! ### What settling keeps -/

@[simp] theorem settle_fdb (s : State) : (settle s).fdb = s.fdb := by rw [settle_frame]
@[simp] theorem settle_fdbAt (s : State) (b : Nat) : (settle s).fdbAt b = s.fdbAt b := by rw [State.fdbAt, settle_fdb, State.fdbAt]
@[simp] theorem settle_sig (s : State) : (settle s).sig = s.sig := by rw [settle_frame]
@[simp] theorem settle_sigAt (s : State) (t : Nat) : (settle s).sigAt t = s.sigAt t := by rw [State.sigAt, settle_sig, State.sigAt]
@[simp] theorem settle_mirror (s : State) : (settle s).mirror = s.mirror := by rw [settle_frame]
@[simp] theorem settle_mirrorAt (s : State) (b : Nat) : (settle s).mirrorAt b = s.mirrorAt b := by
  rw [State.mirrorAt, settle_mirror, State.mirrorAt]
@[simp] theorem settle_failLog (s : State) : (settle s).failLog = s.failLog := by rw [settle_frame]
@[simp] theorem settle_failLogAt (s : State) (p : Nat) : (settle s).failLogAt p = s.failLogAt p := by
  rw [State.failLogAt, settle_failLog, State.failLogAt]
@[simp] theorem settle_ciph (s : State) : (settle s).ciph = s.ciph := by rw [settle_frame]
@[simp] theorem settle_ciphAt (s : State) (c : Nat) : (settle s).ciphAt c = s.ciphAt c := by
  rw [State.ciphAt, settle_ciph, State.ciphAt]

/-! ### Learn requests (R197, R198) -/

section
variable {s : State} {b : BenchId} {r : LearnReq} {rest : List LearnReq}

/-- The request is taken from the list. -/
def State.reqTaken (s : State) (b : Nat) (rest : List LearnReq) : State := s.onFdb b fun f => { f with reqs := rest }
/-- It counts among those handled in the tick. -/
def State.reqHandled (s : State) (b : Nat) (rest : List LearnReq) : State :=
  (s.reqTaken b rest).onFdb b fun f => { f with handled := f.handled + 1 }

theorem learnRequest_eq (h : (s.fdbAt b).reqs = r :: rest) : learnRequest b s =
    if 512 ≤ (s.fdbAt b).handled then (s.reqTaken b rest).bump (pgFdb b) Reg.FDB.LEARN_OVF
    else if (s.reqHandled b rest).learnIgnored b r then (s.reqHandled b rest).bump (pgFdb b) Reg.FDB.LEARN_IGNORED
    else if r.bad then (s.reqHandled b rest).bump (pgFdb b) Reg.FDB.LEARN_BADFRAME
    else (s.reqHandled b rest).learnHandle b r := by
  rw [learnRequest, h]
  rfl

theorem learnRequest_outcomes (h : (s.fdbAt b).reqs = r :: rest) :
    (512 ≤ (s.fdbAt b).handled → learnRequest b s = (s.reqTaken b rest).bump (pgFdb b) Reg.FDB.LEARN_OVF) ∧
    ((s.fdbAt b).handled < 512 → (s.reqHandled b rest).learnIgnored b r = true →
      learnRequest b s = (s.reqHandled b rest).bump (pgFdb b) Reg.FDB.LEARN_IGNORED) ∧
    ((s.fdbAt b).handled < 512 → (s.reqHandled b rest).learnIgnored b r = false → r.bad = true →
      learnRequest b s = (s.reqHandled b rest).bump (pgFdb b) Reg.FDB.LEARN_BADFRAME) ∧
    ((s.fdbAt b).handled < 512 → (s.reqHandled b rest).learnIgnored b r = false → r.bad = false →
      learnRequest b s = (s.reqHandled b rest).learnHandle b r) := by
  rw [learnRequest_eq h]
  refine ⟨fun hn => if_pos hn, fun hn hi => ?_, fun hn hi hb => ?_, fun hn hi hb => ?_⟩ <;> rw [if_neg (Nat.not_le.2 hn), hi]
  · rfl
  · rw [hb]; rfl
  · rw [hb]; rfl

end

/-! ### Aging (R205) -/

theorem agingVisit_due {s : State} {b : BenchId} (hen : s.flag (pgFdb b) Reg.FDB.AGECFG_EN = true) (hwait : (s.fdbAt b).wait = 0) :
    agingVisit b s = s.putFdb b { s.fdbAt b with
      wait := s.ageDiv b, pos := ((s.fdbAt b).pos + s.ageBatch b) % 262208,
      visited := (s.fdbAt b).visited ++ (List.range (s.ageBatch b)).map fun i => ((s.fdbAt b).pos + i) % 262208 } :=
  if_pos ⟨hen, hwait⟩

/-! ### The signature scrubber (R215, R216) -/

/-- A block of a team's tables differs from its signature. -/
def State.sigBad (s : State) (n k : Nat) : Bool :=
  (s.tabsAt (4 * n)).signature k != (s.tabsAt (4 * n)).dget (sigTable k).2.1 (sigTable k).2.2.1

/-- The team's next block differs as it did when last visited, and has not been reported. -/
def State.sigReport (s : State) (n : Nat) : Bool :=
  s.sigBad n (s.sigAt n).pos && (s.sigAt n).differed.contains (s.sigAt n).pos && !(s.sigAt n).reported.contains (s.sigAt n).pos

/-- The scrubber after the visit of its next block. -/
def State.sigVisited (s : State) (n : Nat) : SigSt :=
  let g := s.sigAt n
  { g with
    pos := (g.pos + 1) % 4416,
    wait := max 1 (s.fld (pgFdb (4 * n)) Reg.FDB.SIGCFG_PERIOD),
    differed := if s.sigBad n g.pos then g.pos :: g.differed.filter (fun x => x != g.pos) else g.differed.filter fun x => x != g.pos,
    reported := if s.sigReport n then g.pos :: g.reported else g.reported,
    log := if s.sigReport n ∧ !decide (16 ≤ g.log.length) then g.log ++ [((sigTable g.pos).2.2.2, (sigTable g.pos).2.2.1)] else g.log }

/-- The visit is counted, and what it found is reported. -/
def State.sigCounted (s : State) (n : Nat) (report full : Bool) : State :=
  let p := pgFdb (4 * n)
  let s1 := s.bump p Reg.FDB.SIG_BLOCKS
  if report then ((s1.bump p Reg.FDB.SIG_MISMATCH).raise p 8).ifDo full (·.bump p Reg.FDB.SIG_LOST) else s1

/-- A team's state after its scrubber's visit. -/
def State.sigScrubbed (s : State) (n : Nat) : State :=
  (s.putSig n (s.sigVisited n)).sigCounted n (s.sigReport n) (decide (16 ≤ (s.sigAt n).log.length))

theorem signatureCheck_due {s : State} {k : Team} (hen : s.flag (pgFdb (4 * teamNo k)) Reg.FDB.SIGCFG_EN = true)
    (hwait : (s.sigAt (teamNo k)).wait = 0) (hteam : (s.teamAt (teamNo k)).failed = false) :
    signatureCheck k s = s.sigScrubbed (teamNo k) := by
  rw [signatureCheck, if_pos ⟨hen, hwait, by rw [hteam]; rfl⟩]
  rfl

theorem pgFdb_ne_host (b : Nat) : pgFdb b ≠ pgHost := by
  unfold pgFdb pgHost
  omega

theorem State.sigCounted_touches (s : State) (n : Nat) (report full : Bool) :
    Touches s (s.sigCounted n report full) (· = pgFdb (4 * n)) := by
  have blocks := (Touches.refl s (· = pgFdb (4 * n))).addCtr _ Reg.FDB.SIG_BLOCKS 1 0 rfl (by decide) (by norm_num)
  cases report with
  | false => exact blocks
  | true =>
    have told := (blocks.addCtr _ Reg.FDB.SIG_MISMATCH 1 0 rfl (by decide) (by norm_num)).raise _ 8 rfl
    cases full with
    | false => exact told
    | true => exact told.addCtr _ Reg.FDB.SIG_LOST 1 0 rfl (by decide) (by norm_num)

theorem State.sigCounted_sig (s : State) (n : Nat) (report full : Bool) : (s.sigCounted n report full).sig = s.sig :=
  (congrArg State.sig (s.sigCounted_touches n report full).rest).trans rfl

theorem State.ctr_raise (s : State) (q i p off w : Nat) : (s.raise q i).ctr p off w = s.ctr p off w := rfl

theorem State.sigCounted_ctr (s : State) (n : Nat) (report full : Bool) :
    (s.sigCounted n report full).ctr (pgFdb (4 * n)) Reg.FDB.SIG_BLOCKS = s.ctr (pgFdb (4 * n)) Reg.FDB.SIG_BLOCKS + 1 ∧
    (s.sigCounted n report full).ctr (pgFdb (4 * n)) Reg.FDB.SIG_MISMATCH =
      s.ctr (pgFdb (4 * n)) Reg.FDB.SIG_MISMATCH + if report then 1 else 0 := by
  have apart : ∀ {o o' : Nat}, o / 4 ≠ o' / 4 → rkey (pgFdb (4 * n)) o 0 ≠ rkey (pgFdb (4 * n)) o' 0 := rkey_ne_word
  have hbm := apart (o := Reg.FDB.SIG_BLOCKS) (o' := Reg.FDB.SIG_MISMATCH) (by decide)
  have hbl := apart (o := Reg.FDB.SIG_BLOCKS) (o' := Reg.FDB.SIG_LOST) (by decide)
  have hml := apart (o := Reg.FDB.SIG_MISMATCH) (o' := Reg.FDB.SIG_LOST) (by decide)
  cases report with
  | false => simp [State.sigCounted, State.bump, State.ctr_addCtr_ne, hbm.symm]
  | true =>
    cases full with
    | false => simp [State.sigCounted, State.ifDo, State.bump, State.ctr_raise, State.ctr_addCtr_ne, hbm, hbm.symm]
    | true => simp [State.sigCounted, State.ifDo, State.bump, State.ctr_raise, State.ctr_addCtr_ne, hbm, hbm.symm, hbl, hml]

theorem State.sigCounted_caused (s : State) (n : Nat) (full : Bool) : (s.sigCounted n true full).caused (pgFdb (4 * n)) 8 := by
  have told := State.caused_raise ((s.bump (pgFdb (4 * n)) Reg.FDB.SIG_BLOCKS).bump (pgFdb (4 * n)) Reg.FDB.SIG_MISMATCH)
    (p := pgFdb (4 * n)) (i := 8) (by norm_num)
  rw [State.sigCounted, if_pos rfl]
  cases full with
  | false => exact told
  | true =>
    rw [State.caused, State.ifDo, if_pos rfl, State.rd_bump]
    exact told

theorem State.sigScrubbed_sig (s : State) (n : Nat) : (s.sigScrubbed n).sig = (s.putSig n (s.sigVisited n)).sig :=
  State.sigCounted_sig _ _ _ _

theorem State.sigScrubbed_sigAt (s : State) (n : Nat) : (s.sigScrubbed n).sigAt n = s.sigVisited n := by
  rw [State.sigAt, State.sigScrubbed_sig, ← State.sigAt, State.sigAt_same]

/-- Apart from the scrubber's own state, the visit changes its page. -/
theorem State.sigScrubbed_touches (s : State) (n : Nat) :
    Touches { s with sig := (s.sigScrubbed n).sig } (s.sigScrubbed n) (· = pgFdb (4 * n)) := by
  rw [State.sigScrubbed_sig]
  exact State.sigCounted_touches _ _ _ _

theorem State.sigScrubbed_ctr (s : State) (n : Nat) :
    (s.sigScrubbed n).ctr (pgFdb (4 * n)) Reg.FDB.SIG_BLOCKS = s.ctr (pgFdb (4 * n)) Reg.FDB.SIG_BLOCKS + 1 ∧
    (s.sigScrubbed n).ctr (pgFdb (4 * n)) Reg.FDB.SIG_MISMATCH =
      s.ctr (pgFdb (4 * n)) Reg.FDB.SIG_MISMATCH + if s.sigReport n then 1 else 0 :=
  State.sigCounted_ctr _ _ _ _

theorem State.sigScrubbed_caused {s : State} {n : Nat} (h : s.sigReport n = true) : (s.sigScrubbed n).caused (pgFdb (4 * n)) 8 := by
  rw [State.sigScrubbed, h]
  exact State.sigCounted_caused _ _ _

theorem State.sigBad_iff (s : State) (n k : Nat) : s.sigBad n k = true ↔
    (s.tabsAt (4 * n)).signature k ≠ (s.tabsAt (4 * n)).dget (sigTable k).2.1 (sigTable k).2.2.1 := bne_iff_ne

theorem State.sigReport_iff (s : State) (n : Nat) : s.sigReport n = true ↔ s.sigBad n (s.sigAt n).pos = true ∧
    (s.sigAt n).pos ∈ (s.sigAt n).differed ∧ (s.sigAt n).pos ∉ (s.sigAt n).reported := by
  simp [State.sigReport, and_assoc]

/-- A block that matches leaves the log, and is no longer noted as one that differed. -/
theorem State.sigVisited_good {s : State} {n : Nat} (h : s.sigBad n (s.sigAt n).pos = false) :
    (s.sigVisited n).log = (s.sigAt n).log ∧ (s.sigAt n).pos ∉ (s.sigVisited n).differed := by
  have quiet : s.sigReport n = false := by simp [State.sigReport, h]
  simp [State.sigVisited, h, quiet]

theorem State.sigVisited_bad {s : State} {n : Nat} (h : s.sigBad n (s.sigAt n).pos = true) :
    (s.sigAt n).pos ∈ (s.sigVisited n).differed := by
  simp [State.sigVisited, h]

theorem State.sigVisited_reported {s : State} {n : Nat} (h : s.sigReport n = true) :
    (s.sigAt n).pos ∈ (s.sigVisited n).reported := by
  simp [State.sigVisited, h]

/-! ### Logs that a read pops -/

@[simp] theorem State.hubAnswered_failLogAt (s : State) (p q : Nat) : (s.hubAnswered p).failLogAt q = s.failLogAt q := by
  simp [State.failLogAt]
@[simp] theorem State.hubAnswered_fdbAt (s : State) (p b : Nat) : (s.hubAnswered p).fdbAt b = s.fdbAt b := by simp [State.fdbAt]
@[simp] theorem State.hubAnswered_sigAt (s : State) (p t : Nat) : (s.hubAnswered p).sigAt t = s.sigAt t := by simp [State.sigAt]
@[simp] theorem State.hubAnswered_ciphAt (s : State) (p c : Nat) : (s.hubAnswered p).ciphAt c = s.ciphAt c := by
  simp [State.ciphAt]

/-- A read of a word whose page takes it returns what the word's reading gives. -/
theorem State.wordRead_gives {s u : State} {p off : Nat} {f : State → W32 × State} {v z : W32} (hk : (pageKind p).isSome = true)
    (h : s.takes p) (hf : f (s.hubAnswered p) = (v, u)) : s.wordRead p off f z = { u with resp := [v] } := by
  rw [State.wordRead_takes hk h, hf]
  rfl

theorem pageKind_teamFdb (k : Team) : (pageKind (pgFdb (4 * teamNo k))).isSome = true := by cases k <;> rfl

theorem pageKind_window : ∀ w : Window, (pageKind (windowPage w)).isSome = true
  | .cls b | .fdb b | .strm b | .meter b => by revert b; decide
  | .ciph c => by revert c; decide

theorem State.failLogPop_empty {s : State} {p : Nat} (h : s.failLogAt p = []) : s.failLogPop p = (0, s) := by
  rw [State.failLogPop, h]

theorem State.failLogPop_first {s : State} {p r : Nat} {rest : List Nat} (h : s.failLogAt p = r :: rest) :
    s.failLogPop p = (BitVec.ofNat 32 r, s.putFailLog p rest) := by
  rw [State.failLogPop, h]

theorem State.sigLogPop_empty {s : State} {t : Nat} (h : (s.sigAt t).log = []) : s.sigLogPop t = (0, s) := by
  rw [State.sigLogPop, h]

theorem State.sigLogPop_first {s : State} {t no blk : Nat} {rest : List (Nat × Nat)} (h : (s.sigAt t).log = (no, blk) :: rest) :
    s.sigLogPop t = (BitVec.ofNat 32 (2 ^ 31 + no * 2 ^ 28 + blk), s.onSig t fun g => { g with log := rest }) := by
  rw [State.sigLogPop, h]

theorem State.pnLogPop_empty {s : State} {c : Nat} (h : (s.ciphAt c).pnLog = []) : s.pnLogPop c = (0, s) := by
  rw [State.pnLogPop, h]

theorem State.pnLogPop_first {s : State} {c r : Nat} {rest : List Nat} (h : (s.ciphAt c).pnLog = r :: rest) :
    s.pnLogPop c = (BitVec.ofNat 32 r, s.onCiph c fun k => { k with pnLog := rest }) := by
  rw [State.pnLogPop, h]

theorem State.flapLogPop_empty {s : State} {b : Nat} (h : (s.fdbAt b).flapLog = []) : s.flapLogPop b = (0, s) := by
  rw [State.flapLogPop, h]

/-- An entry of the flap log leaves it, and FLAP_LOG1 to FLAP_LOG3 take its other words. -/
def State.flapTaken (s : State) (b dom addr tick : Nat) (rest : List (Nat × Nat × Nat × Nat × Nat)) : State :=
  (((s.onFdb b fun f => { f with flapLog := rest }).wr (pgFdb b) Reg.FDB.FLAP_LOG1.off
    (BitVec.ofNat 32 (dom * 2 ^ 16 + addr / 2 ^ 32 % 2 ^ 16))).wr (pgFdb b) Reg.FDB.FLAP_LOG2.off (BitVec.ofNat 32 addr)).wr
    (pgFdb b) Reg.FDB.FLAP_LOG3.off (BitVec.ofNat 32 tick)

theorem State.flapLogPop_first {s : State} {b first refused dom addr tick : Nat} {rest : List (Nat × Nat × Nat × Nat × Nat)}
    (h : (s.fdbAt b).flapLog = (first, refused, dom, addr, tick) :: rest) :
    s.flapLogPop b = (BitVec.ofNat 32 (2 ^ 31 + first * 2 ^ 16 + refused), s.flapTaken b dom addr tick rest) := by
  rw [State.flapLogPop, h]
  rfl

theorem State.rd_withResp (s : State) (l : List W32) (p off w : Nat) : ({ s with resp := l } : State).rd p off w = s.rd p off w := rfl

theorem State.fdbAt_withResp (s : State) (l : List W32) (b : Nat) : ({ s with resp := l } : State).fdbAt b = s.fdbAt b := rfl

theorem State.flapTaken_fdbAt (s : State) (b dom addr tick : Nat) (rest : List (Nat × Nat × Nat × Nat × Nat)) (c : Nat) :
    (s.flapTaken b dom addr tick rest).fdbAt c = if c = b then { s.fdbAt b with flapLog := rest } else s.fdbAt c := by
  have hfdb : (s.flapTaken b dom addr tick rest).fdb = (s.putFdb b { s.fdbAt b with flapLog := rest }).fdb := by
    rw [State.flapTaken, State.wr_fdb, State.wr_fdb, State.wr_fdb, State.onFdb_eq]
  rw [State.fdbAt, hfdb, ← State.fdbAt]
  split_ifs with h
  · rw [h, State.fdbAt_same]
  · rw [State.fdbAt_ne _ _ h]

theorem State.flapTaken_words (s : State) (b dom addr tick : Nat) (rest : List (Nat × Nat × Nat × Nat × Nat)) :
    (s.flapTaken b dom addr tick rest).rd (pgFdb b) Reg.FDB.FLAP_LOG1.off =
      BitVec.ofNat 32 (dom * 2 ^ 16 + addr / 2 ^ 32 % 2 ^ 16) ∧
    (s.flapTaken b dom addr tick rest).rd (pgFdb b) Reg.FDB.FLAP_LOG2.off = BitVec.ofNat 32 addr ∧
    (s.flapTaken b dom addr tick rest).rd (pgFdb b) Reg.FDB.FLAP_LOG3.off = BitVec.ofNat 32 tick := by
  unfold State.flapTaken
  refine ⟨?_, ?_, State.rd_wr_same _ _ _ _ _⟩
  · rw [State.rd_wr_ne _ _ _ _ _ (rkey_ne_word (by decide)), State.rd_wr_ne _ _ _ _ _ (rkey_ne_word (by decide)),
      State.rd_wr_same]
  · rw [State.rd_wr_ne _ _ _ _ _ (rkey_ne_word (by decide)), State.rd_wr_same]

theorem State.flapTaken_touches (s : State) (b dom addr tick : Nat) (rest : List (Nat × Nat × Nat × Nat × Nat)) :
    Touches (s.onFdb b fun f => { f with flapLog := rest }) (s.flapTaken b dom addr tick rest) (· = pgFdb b) := by
  have moved := (Touches.refl (s.onFdb b fun f => { f with flapLog := rest }) (· = pgFdb b)).wr (pgFdb b)
    Reg.FDB.FLAP_LOG1.off (BitVec.ofNat 32 (dom * 2 ^ 16 + addr / 2 ^ 32 % 2 ^ 16)) 0 rfl (by decide) (by norm_num)
  exact (moved.wr _ _ _ 0 rfl (by decide) (by norm_num)).wr _ _ _ 0 rfl (by decide) (by norm_num)

/-! ### Mirror settings (R297) -/

/-- A stored write changes its page, and the lehr's image with what tells of it. -/
theorem State.plainWrite_touches (s : State) {p off w : Nat} (v : W32) (ho : off < 4096) (hw : w < 4096) :
    Touches { s with lehr := (s.plainWrite p off w v).lehr } (s.plainWrite p off w v) (fun q => q = p ∨ q = pgDev ∨ q = pgLehr) := by
  refine Touches.trans ?_ ((State.through_touches _ p off w).mono fun q => .inr)
  exact (Touches.refl { s with lehr := (s.plainWrite p off w v).lehr } _).wr p off _ w (.inl rfl) ho hw

/-- A setting waits at the benches below `n`. -/
def State.mirrWait (s : State) (n : Nat) (off : Nat) (word : W32) : State :=
  s.each (List.range n) fun s b => s.onMirror b fun m => { m with pend := m.pend ++ [(s.gridTick, off, word)] }

theorem State.mirrWait_frame (s : State) (n off : Nat) (word : W32) :
    s.mirrWait n off word = { s with mirror := (s.mirrWait n off word).mirror } :=
  State.each_keeps (I := fun u => u = { s with mirror := u.mirror }) _ rfl fun u b _ hu =>
    congrArg (fun x : State => x.onMirror b fun m => { m with pend := m.pend ++ [(u.gridTick, off, word)] }) hu

theorem State.mirrWait_mirrorAt (s : State) (n off : Nat) (word : W32) (b : Nat) : (s.mirrWait n off word).mirrorAt b =
    if b < n then { s.mirrorAt b with pend := (s.mirrorAt b).pend ++ [(s.gridTick, off, word)] } else s.mirrorAt b := by
  induction n with
  | zero => rfl
  | succ n ih =>
    have tick : (s.mirrWait n off word).gridTick = s.gridTick := by rw [State.mirrWait_frame]; rfl
    rw [State.mirrWait, State.each_range_succ, ← State.mirrWait, tick, State.onMirror_eq]
    by_cases h : b = n
    · subst h
      rw [State.mirrorAt_same, ih]
      simp
    · rw [State.mirrorAt_ne _ _ h, ih]
      have : b < n + 1 ↔ b < n := by omega
      simp [this]

theorem State.mirrWrite_stores {s : State} {off : Nat} (v : W32) (h : rwBits pgMirr off ≠ 0) :
    s.mirrWrite off v = (s.plainWrite pgMirr off 0 v).mirrWait 8 off ((s.plainWrite pgMirr off 0 v).rd pgMirr off) := if_neg h

theorem Touches.withMirror {s t : State} {P : Nat → Prop} (h : Touches s t P) (m : Tab MirrorSt) :
    Touches { s with mirror := m } { t with mirror := m } P :=
  ⟨congrArg (fun x : State => { x with mirror := m }) h.rest, h.regs, h.ctrs, h.rings⟩

/-- A write of a setting is stored, and waits at every bench with the word stored. -/
theorem State.mirrWrite_spec (s : State) {off : Nat} (v : W32) (ho : off < 4096) (h : rwBits pgMirr off ≠ 0) :
    (s.mirrWrite off v).rd pgMirr off = (s.plainWrite pgMirr off 0 v).rd pgMirr off ∧
    (∀ b, b < 8 → (s.mirrWrite off v).mirrorAt b = { s.mirrorAt b with
      pend := (s.mirrorAt b).pend ++ [(s.gridTick, off, (s.mirrWrite off v).rd pgMirr off)] }) ∧
    Touches { s with mirror := (s.mirrWrite off v).mirror, lehr := (s.mirrWrite off v).lehr } (s.mirrWrite off v)
      (fun p => p = pgMirr ∨ p = pgLehr ∨ p = pgDev) := by
  have stored := s.plainWrite_touches (p := pgMirr) (w := 0) v ho (by norm_num)
  have hmirror : (s.plainWrite pgMirr off 0 v).mirror = s.mirror := (congrArg State.mirror stored.rest).trans rfl
  have htime : (s.plainWrite pgMirr off 0 v).time = s.time := (congrArg State.time stored.rest).trans rfl
  have waits := (s.plainWrite pgMirr off 0 v).mirrWait_mirrorAt 8 off ((s.plainWrite pgMirr off 0 v).rd pgMirr off)
  have frame := (s.plainWrite pgMirr off 0 v).mirrWait_frame 8 off ((s.plainWrite pgMirr off 0 v).rd pgMirr off)
  rw [← State.mirrWrite_stores v h] at waits frame
  have hrd : (s.mirrWrite off v).rd pgMirr off = (s.plainWrite pgMirr off 0 v).rd pgMirr off := by rw [frame]; rfl
  refine ⟨hrd, fun b hb => ?_, ?_⟩
  · rw [waits, if_pos hb, hrd, State.mirrorAt, hmirror, State.gridTick, htime]
    rfl
  · rw [frame]
    exact (stored.withMirror _).mono fun p hp => hp.imp_right Or.symm

/-! ### The statement -/

/-- What is left alone may be said of any state equal to the one a command starts from. -/
theorem Touches.of_base {b u t : State} {P : Nat → Prop} (h : Touches u t P) (e : b = u) : Touches b t P := e ▸ h

/-- Settles O34: each command takes the branch that its hypotheses name; a read of a log takes its first entry out. -/
theorem learningAndLogs : Obligations.LearningAndLogs := by
  refine ⟨fun s b r rest h => ?_, fun s b hen hwait => ?_, fun s k hen hwait hteam => ?_, fun s b v h => ?_, fun s k v h hrw => ?_,
    fun s w h => ⟨fun hnil => ?_, fun r rest hlog => ?_⟩, fun s b h => ⟨fun hnil => ?_, fun first refused dom addr tick rest hlog => ?_⟩,
    fun s k h => ⟨fun hnil => ?_, fun no blk rest hlog => ?_⟩, fun s c h => ⟨fun hnil => ?_, fun r rest hlog => ?_⟩⟩
  · obtain ⟨hovf, hignored, hbad, hhandled⟩ := learnRequest_outcomes h
    exact ⟨fun hn => finish_congr (hovf hn), fun hn hi => finish_congr (hignored hn hi),
      fun hn hi hb => finish_congr (hbad hn hi hb), fun hn hi hb => finish_congr (hhandled hn hi hb)⟩
  · refine ⟨_, finish_congr (agingVisit_due hen hwait), ?_, fun c hc => ?_, touches_settle _ ?_⟩
    · rw [settle_fdbAt, State.fdbAt_same]
    · rw [settle_fdbAt, State.fdbAt_ne _ _ hc]
    · rw [settle_fdb]
      rfl
  · have host := pgFdb_ne_host (4 * teamNo k)
    obtain ⟨hblocks, hmismatch⟩ := s.sigScrubbed_ctr (teamNo k)
    refine ⟨_, finish_congr (signatureCheck_due hen hwait hteam), ?_⟩
    rw [settle_sigAt, settle_sig, settle_caused, settle_ctr_page _ host (by decide) (by norm_num),
      settle_ctr_page _ host (by decide) (by norm_num), State.sigScrubbed_sigAt, hblocks, hmismatch, ← State.sigBad_iff]
    refine ⟨rfl, rfl, rfl, fun hgood => s.sigVisited_good (Bool.eq_false_of_not_eq_true hgood), State.sigVisited_bad,
      fun hbad hdiff hnew => ?_, fun hquiet => ?_, (s.sigScrubbed_touches _).settle⟩
    · have report := (s.sigReport_iff _).2 ⟨hbad, hdiff, hnew⟩
      rw [report]
      exact ⟨State.sigVisited_reported report, State.sigScrubbed_caused report, rfl⟩
    · have silent : s.sigReport (teamNo k) = false := Bool.eq_false_of_not_eq_true fun hreport => by
        obtain ⟨hbad, hdiff, hnew⟩ := (s.sigReport_iff _).1 hreport
        exact hquiet.elim (· hbad) fun h => h.elim (· hdiff) hnew
      rw [silent]
      exact BitVec.add_zero _
  · exact ⟨finish_congr (State.wordWrite_takes h _ _ _ _), finish_congr (State.wordWrite_takes h _ _ _ _)⟩
  · obtain ⟨hrd, hwaits, touched⟩ := s.mirrWrite_spec (off := 4 * k) v (by omega) hrw
    have taken : mirrWrite k v s = s.mirrWrite (4 * k) v := (State.hostWrite_takes h _).trans (by rw [State.hubAnswered_shared rfl])
    refine ⟨_, finish_congr taken, ?_, fun b hb => ?_, touched.settle.of_base ?_⟩
    · rw [settle_rd, hrd]
    · rw [settle_mirrorAt, settle_rd, hwaits b hb]
    · rw [settle_mirror, settle_lehr]
  · exact finish_congr (State.wordRead_gives (pageKind_window w) h (State.failLogPop_empty (by simpa using hnil)))
  · refine ⟨_, finish_congr (State.wordRead_gives (pageKind_window w) h (State.failLogPop_first (by simpa using hlog))),
      settle_resp _, ?_, fun q hq => ?_, touches_settle _ ?_⟩
    · rw [settle_failLogAt]
      exact State.failLogAt_same _ _ _
    · rw [settle_failLogAt]
      exact (State.failLogAt_ne _ _ hq).trans (State.hubAnswered_failLogAt _ _ _)
    · rw [settle_resp, settle_failLog]
      rfl
  · exact finish_congr (State.wordRead_gives (pageKind_window (.fdb b)) h (State.flapLogPop_empty (by simpa using hnil)))
  · have hpop := State.flapLogPop_first (s := s.hubAnswered (pgFdb b)) (b := b) (by simpa using hlog)
    have touched := (s.hubAnswered (pgFdb b)).flapTaken_touches b dom addr tick rest
    obtain ⟨hdom, haddr, htick⟩ := (s.hubAnswered (pgFdb b)).flapTaken_words b dom addr tick rest
    refine ⟨_, finish_congr (State.wordRead_gives (pageKind_window (.fdb b)) h hpop), settle_resp _, ?_, fun c hc => ?_,
      ?_, ?_, ?_, ?_⟩
    · rw [settle_fdbAt, State.fdbAt_withResp, State.flapTaken_fdbAt, if_pos rfl, State.hubAnswered_fdbAt]
    · rw [settle_fdbAt, State.fdbAt_withResp, State.flapTaken_fdbAt, if_neg hc, State.hubAnswered_fdbAt]
    · rw [settle_rd, State.rd_withResp, hdom]
    · rw [settle_rd, State.rd_withResp, haddr]
    · rw [settle_rd, State.rd_withResp, htick]
    · refine (touched.withResp _).settle.of_base ?_
      rw [settle_resp, settle_fdb]
      rfl
  · exact finish_congr (State.wordRead_gives (pageKind_teamFdb k) h (State.sigLogPop_empty (by simpa using hnil)))
  · refine ⟨_, finish_congr (State.wordRead_gives (pageKind_teamFdb k) h (State.sigLogPop_first (by simpa using hlog))),
      settle_resp _, ?_, fun m hm => ?_, touches_settle _ ?_⟩
    · rw [settle_sigAt]
      exact (State.sigAt_same _ _ _).trans (by rw [State.hubAnswered_sigAt])
    · rw [settle_sigAt]
      exact (State.sigAt_ne _ _ hm).trans (State.hubAnswered_sigAt _ _ _)
    · rw [settle_resp, settle_sig]
      rfl
  · exact finish_congr (State.wordRead_gives (pageKind_window (.ciph c)) h (State.pnLogPop_empty (by simpa using hnil)))
  · refine ⟨_, finish_congr (State.wordRead_gives (pageKind_window (.ciph c)) h (State.pnLogPop_first (by simpa using hlog))),
      settle_resp _, ?_, fun d hd => ?_, touches_settle _ ?_⟩
    · rw [settle_ciphAt]
      exact (State.ciphAt_same _ _ _).trans (by rw [State.hubAnswered_ciphAt])
    · rw [settle_ciphAt]
      exact (State.ciphAt_ne _ _ hd).trans (State.hubAnswered_ciphAt _ _ _)
    · rw [settle_resp, settle_ciph]
      rfl

end Sys2Proof.Machine
end

section
/-! SUPPORT. The sequence window and the search mailbox: how a write of their command word is taken, what it leaves in the result
registers, and how a command is accepted, ends or waits. -/

namespace Sys2Proof.Machine

/-- A command whose hubs have room is taken at once. -/
theorem State.submit_taken {s : State} {c : HostCmd} (h : s.hubsFull c = false) : s.submit c = s.startCmd c :=
  if_neg (ne_true_of_eq_false h)

/-! ### SQ_CMD writes that are taken (R362) -/

/-- The command that a write of SQ_CMD makes of the window's registers. -/
def State.sqCommand (s : State) (p op : Nat) : HostCmd :=
  { kind := .sq, page := p, op := op, arg := (s.rd p Reg.STRM.SQ_IDX.off).toNat,
    data := ((List.range 4).map fun k => (s.rd p (Reg.STRM.SQ_DATA k).off).toNat * 2 ^ (32 * k)).sum }

theorem State.hubAnswered_sqCommand (s : State) (q p op : Nat) : (s.hubAnswered q).sqCommand p op = s.sqCommand p op := by
  simp only [State.sqCommand, State.hubAnswered_rd]

/-- An operation in the top bits of SQ_CMD is the one that the command names. -/
theorem State.sqCmd_op (s : State) (p : Nat) {op : Nat} (h : op < 16) :
    s.sqCmd p (op * 2 ^ 28) = s.submit (s.sqCommand p op) := by
  have field : bits (op * 2 ^ 28) 31 28 = op := by
    rw [bits, Nat.shiftRight_eq_div_pow]
    omega
  show s.submit (s.sqCommand p (bits (op * 2 ^ 28) 31 28)) = _
  rw [field]

theorem sqWriteOp_taken {s : State} {b : BenchId} {op : Nat} (hop : op < 16) (h : s.takes (pgStrm b))
    (hroom : (s.hubAnswered (pgStrm b)).hubsFull (s.sqCommand (pgStrm b) op) = false) :
    sqWriteOp b op s = (s.hubAnswered (pgStrm b)).startSq (s.sqCommand (pgStrm b) op) := by
  refine (State.wordWrite_takes h _ _ _ _).trans ?_
  rw [State.sqCmd_op _ _ hop, State.hubAnswered_sqCommand, State.submit_taken hroom]
  rfl

/-! ### How a sequence command begins -/

/-- The page of a sequence command shows a command not yet final: SQ_RESULT reads 0, and earlier ones no longer show theirs. -/
def State.sqOpened (s : State) (c : HostCmd) : State := (s.staleCmds c.page .sq).wr c.page Reg.STRM.SQ_RESULT.off 0

/-- SR_DATA takes an entry. -/
def State.putSr (s : State) (p e : Nat) : State :=
  s.each (List.range 4) fun s k => s.wr p (Reg.STRM.SR_DATA k).off (BitVec.ofNat 32 (e / 2 ^ (32 * k)))

theorem sr_data_word {j k : Nat} (h : j ≠ k) : (Reg.STRM.SR_DATA j).off / 4 ≠ (Reg.STRM.SR_DATA k).off / 4 := by
  show (0x620 + j * 4) / 4 ≠ (0x620 + k * 4) / 4
  omega

theorem State.putSr_rd (s : State) (p e : Nat) {k : Nat} (h : k < 4) :
    (s.putSr p e).rd p (Reg.STRM.SR_DATA k).off = BitVec.ofNat 32 (e / 2 ^ (32 * k)) :=
  State.each_range_get (I := fun _ => True) (get := fun u i => u.rd p (Reg.STRM.SR_DATA i).off)
    (val := fun i => BitVec.ofNat 32 (e / 2 ^ (32 * i))) (fun _ _ _ => trivial) (fun _ _ _ => State.rd_wr_same _ _ _ _ _)
    (fun _ _ _ hne => State.rd_wr_ne _ _ _ _ _ (rkey_ne_word (sr_data_word hne))) trivial 4 k h

theorem State.wr_hubUp (s : State) (p off : Nat) (v : W32) (w t : Nat) : (s.wr p off v w).hubUp t = s.hubUp t := rfl
theorem State.wr_seqEntry (s : State) (p off : Nat) (v : W32) (w t i : Nat) : (s.wr p off v w).seqEntry t i = s.seqEntry t i := rfl

theorem State.sqOpened_hubUp (s : State) (c : HostCmd) (t : Nat) : (s.sqOpened c).hubUp t = s.hubUp t :=
  (State.wr_hubUp _ _ _ _ _ _).trans rfl
theorem State.sqOpened_seqEntry (s : State) (c : HostCmd) (t i : Nat) : (s.sqOpened c).seqEntry t i = s.seqEntry t i :=
  (State.wr_seqEntry _ _ _ _ _ _ _).trans rfl
theorem State.sqOpened_gridTick (s : State) (c : HostCmd) : (s.sqOpened c).gridTick = s.gridTick := by
  rw [State.gridTick, State.sqOpened, State.wr_time]
  rfl

theorem State.startSq_read (s : State) {c : HostCmd} (h : c.op = 0) :
    s.startSq c = ((s.sqOpened c).putSr c.page (s.seqEntry c.team (bits c.arg 18 0))).endAll c { status := 5 } := by
  rw [State.startSq, if_neg (by omega), if_pos h, ← State.sqOpened_seqEntry s c, State.putSr, State.sqOpened]

theorem State.startSq_write (s : State) {c : HostCmd} (h : c.op = 1 ∨ c.op = 2) : s.startSq c = (s.sqOpened c).acceptWrite c :=
  (if_neg (by omega)).trans (if_neg (by omega))

theorem State.startSq_bad (s : State) {c : HostCmd} (h : 2 < c.op) : s.startSq c = (s.sqOpened c).endAll c { status := 8 } :=
  if_pos h

/-- A sequence command has a unit in the team of its page. -/
theorem HostCmd.sq_units {c : HostCmd} (hk : c.kind = .sq) : c.teams.flatMap c.units ≠ [] := by
  have unit (t : Nat) : c.units t = [8 + t] := by simp [HostCmd.units, HostCmd.isMac, hk]
  have team : c.team ∈ c.teams := by
    rw [HostCmd.teams, if_neg (by simp [hk]), if_neg (by simp [HostCmd.isMac, hk])]
    split
    · exact List.mem_cons_self
    · exact List.mem_cons_self
  intro hnil
  have noUnit : c.units c.team = [] := List.flatMap_eq_nil_iff.1 hnil _ team
  rw [unit] at noUnit
  cases noUnit

theorem State.joined_rd (s : State) (q : Tab (Nat × Nat)) (l : List Nat) (c : HostCmd) (p off w : Nat) :
    (((s.withQuota q).withReported l).addCmd c).rd p off w = s.rd p off w := rfl
theorem State.joined_cmds (s : State) (q : Tab (Nat × Nat)) (l : List Nat) (c : HostCmd) :
    (((s.withQuota q).withReported l).addCmd c).hub.cmds = s.hub.cmds ++ [c] := rfl

/-- A write or reset whose teams all answer waits for its units, SQ_RESULT reading 0. -/
theorem State.startSq_waits {s : State} {c : HostCmd} (hk : c.kind = .sq) (hop : c.op = 1 ∨ c.op = 2)
    (hup : ∀ t ∈ c.teams, s.hubUp t = true) : (s.startSq c).rd c.page Reg.STRM.SQ_RESULT.off = 0 ∧
      ∃ l, (s.startSq c).hub.cmds = l ++ [c.forUnits s.gridTick] := by
  obtain ⟨q, l, haccept⟩ := State.acceptWrite_answered (s := s.sqOpened c) (fun t ht => (s.sqOpened_hubUp c t).trans (hup t ht))
    (HostCmd.sq_units hk)
  rw [s.startSq_write hop, haccept, State.sqOpened_gridTick, State.joined_rd, State.joined_cmds]
  exact ⟨State.rd_wr_same _ _ _ _ _, _, rfl⟩

/-! ### How a sequence command ends -/

/-- A command to which every unit addressed gives one answer. -/
def HostCmd.answered (c : HostCmd) (d : Done) : HostCmd :=
  { c with stats := c.teams.flatMap fun t => (c.units t).map fun u => (u, d.status),
           moves := d.moves, stash := d.stash, way := d.way, index := d.index }

theorem HostCmd.answered_status {c : HostCmd} {d : Done} {e : Nat × Nat} (h : e ∈ (c.answered d).stats) : e.2 = d.status := by
  obtain ⟨t, -, ht⟩ := List.mem_flatMap.1 h
  obtain ⟨u, -, rfl⟩ := List.mem_map.1 ht
  rfl

/-- No copy of a command failed where no unit gave TABLE_FULL, BAD_ARG or PEER_ABSENT. -/
theorem HostCmd.failures_nil {c : HostCmd} (h : ∀ e ∈ c.stats, ¬ (e.2 = 7 ∨ e.2 = 8 ∨ e.2 = 9)) : c.failures = [] := by
  refine List.filterMap_eq_nil_iff.2 fun u _ => ?_
  cases hfound : c.stats.find? fun e => e.1 == u with
  | none => rfl
  | some e => exact if_neg (h e (List.mem_of_find?_eq_some hfound))

/-- SQ_RESULT of a final command. -/
def HostCmd.sqResult (c : HostCmd) : Nat := 2 ^ 31 + c.teamStatus 0 * 2 ^ 27 + c.teamStatus 1 * 2 ^ 23

/-- DONE is set: the statuses below it do not carry into it. -/
theorem HostCmd.sqResult_done {c : HostCmd} (h : ∀ e ∈ c.stats, e.2 ≤ 15) : bit c.sqResult 31 = true := by
  have hA := HostCmd.teamStatus_le h 0
  have hB := HostCmd.teamStatus_le h 1
  rw [bit, Nat.testBit_eq_decide_div_mod_eq, decide_eq_true_eq, HostCmd.sqResult]
  omega

/-- A final sequence command shows its result, with cause 20. -/
def State.showSq (s : State) (c : HostCmd) : State :=
  (s.wr c.page Reg.STRM.SQ_RESULT.off (BitVec.ofNat 32 c.sqResult)).raise c.page 20

theorem State.showSq_done (s : State) {c : HostCmd} (h : ∀ e ∈ c.stats, e.2 ≤ 15) :
    bit ((s.showSq c).rd c.page Reg.STRM.SQ_RESULT.off).toNat 31 = true := by
  rw [State.showSq, State.rd_raise_ne _ _ _ (rkey_ne_word (by decide)), State.rd_wr_same, bit_ofNat _ (by norm_num),
    HostCmd.sqResult_done h]

theorem State.showSq_sr (s : State) (c : HostCmd) (k : Nat) :
    (s.showSq c).rd c.page (Reg.STRM.SR_DATA k).off = s.rd c.page (Reg.STRM.SR_DATA k).off := by
  have result : (Reg.STRM.SR_DATA k).off / 4 ≠ Reg.STRM.SQ_RESULT.off / 4 := by
    show (0x620 + k * 4) / 4 ≠ 0x618 / 4
    omega
  have status : (Reg.STRM.SR_DATA k).off / 4 ≠ 0x010 / 4 := by
    show (0x620 + k * 4) / 4 ≠ 0x010 / 4
    omega
  rw [State.showSq, State.rd_raise_ne _ _ _ (rkey_ne_word status), State.rd_wr_ne _ _ _ _ _ (rkey_ne_word result)]

theorem State.finalTable_sq (s : State) {c : HostCmd} (hk : c.kind = .sq) (hs : c.stale = false) :
    ∃ u : State, (c.failures = [] → u = s) ∧ s.finalTable c = u.showSq c := by
  have noTable : ¬ (c.cls = 0x13 ∧ c.kind = .table) := fun h => by cases hk.symm.trans h.2
  refine ⟨_, fun hnone => ?_, (if_neg (ne_true_of_eq_false hs)).trans (if_pos hk)⟩
  rw [hnone]
  exact if_neg noTable

/-- A sequence command that every unit answers at once ends on its page. -/
theorem State.endAll_sq (s : State) {c : HostCmd} (d : Done) (hk : c.kind = .sq) (hs : c.stale = false) :
    ∃ u : State, (¬ (d.status = 7 ∨ d.status = 8 ∨ d.status = 9) → u = s) ∧ s.endAll c d = u.showSq (c.answered d) := by
  obtain ⟨u, hsame, hu⟩ := s.finalTable_sq (c := c.answered d) hk hs
  refine ⟨u, fun hgood => hsame (HostCmd.failures_nil fun e he => by rwa [HostCmd.answered_status he]), ?_⟩
  show s.finalCmd (c.answered d) = _
  rw [State.finalCmd, show (c.answered d).kind = .sq from hk]
  exact hu

/-- An operation above RESET ends at once with DONE. -/
theorem State.startSq_bad_done (s : State) {c : HostCmd} (hk : c.kind = .sq) (hs : c.stale = false) (hop : 2 < c.op) :
    bit ((s.startSq c).rd c.page Reg.STRM.SQ_RESULT.off).toNat 31 = true := by
  obtain ⟨u, -, hu⟩ := (s.sqOpened c).endAll_sq { status := 8 } hk hs
  rw [s.startSq_bad hop, hu]
  exact u.showSq_done (c := c.answered _) fun e he => (HostCmd.answered_status he).trans_le (by norm_num)

/-- A READ ends at once with DONE and the committed entry in SR_DATA. -/
theorem State.startSq_read_done (s : State) {c : HostCmd} (hk : c.kind = .sq) (hs : c.stale = false) (hop : c.op = 0) :
    (∀ k, k < 4 → (s.startSq c).rd c.page (Reg.STRM.SR_DATA k).off =
      BitVec.ofNat 32 (s.seqEntry c.team (bits c.arg 18 0) / 2 ^ (32 * k))) ∧
    bit ((s.startSq c).rd c.page Reg.STRM.SQ_RESULT.off).toNat 31 = true := by
  obtain ⟨u, hsame, hu⟩ :=
    ((s.sqOpened c).putSr c.page (s.seqEntry c.team (bits c.arg 18 0))).endAll_sq (c := c) { status := 5 } hk hs
  obtain rfl := hsame (by decide)
  rw [s.startSq_read hop, hu]
  refine ⟨fun k hk4 => ?_, State.showSq_done (c := c.answered _) _ fun e he => (HostCmd.answered_status he).trans_le (by norm_num)⟩
  exact (State.showSq_sr _ (c.answered _) k).trans (State.putSr_rd _ _ _ hk4)

/-! ### SRCH_CMD writes that are taken (R220 to R222) -/

/-- The command that a write of SRCH_CMD makes of the mailbox's registers. -/
def State.searchCommand (s : State) (p op mask : Nat) : HostCmd :=
  { kind := if op = 2 then .flush else .walk, page := p, op := op, mask := mask,
    arg := (s.rd p Reg.FDB.SRCH_SEL.off).toNat + (s.rd p Reg.FDB.SRCH_DOM.off).toNat * 2 ^ 32 }

theorem State.hubAnswered_searchCommand (s : State) (q p op mask : Nat) :
    (s.hubAnswered q).searchCommand p op mask = s.searchCommand p op mask := by
  simp only [State.searchCommand, State.hubAnswered_rd]

theorem State.startCmd_search (s t : State) (p op mask : Nat) :
    s.startCmd (t.searchCommand p op mask) = s.startSearch (t.searchCommand p op mask) := by
  rw [State.startCmd, State.searchCommand]
  by_cases h : op = 2 <;> simp [h]

/-- A SRCH_CMD word that spells an operation and a mask. -/
theorem State.srchCmd_word (s : State) (p : Nat) {op mask : Nat} (hop : op < 4) (hmask : mask < 256) :
    s.srchCmd p (op * 2 ^ 30 + mask * 2 ^ 16) = s.submit (s.searchCommand p op mask) := by
  have hi : bits (op * 2 ^ 30 + mask * 2 ^ 16) 31 30 = op := by
    rw [bits, Nat.shiftRight_eq_div_pow]
    omega
  have lo : bits (op * 2 ^ 30 + mask * 2 ^ 16) 23 16 = mask := by
    rw [bits, Nat.shiftRight_eq_div_pow]
    omega
  rw [State.srchCmd, hi, lo]
  rfl

theorem searchWrite_taken {s : State} {b : BenchId} {op mask : Nat} (hop : op < 4) (hmask : mask < 256) (h : s.takes (pgFdb b))
    (hroom : (s.hubAnswered (pgFdb b)).hubsFull (s.searchCommand (pgFdb b) op mask) = false) :
    searchWrite b (op * 2 ^ 30 + mask * 2 ^ 16) s =
      (s.hubAnswered (pgFdb b)).startSearch (s.searchCommand (pgFdb b) op mask) := by
  refine (State.wordWrite_takes h _ _ _ _).trans ?_
  rw [State.srchCmd_word _ _ hop hmask, State.hubAnswered_searchCommand, State.submit_taken hroom, State.startCmd_search]

/-- An answer of a hub ends no search command and begins none. -/
theorem State.hubAnswered_searching (s : State) (q p : Nat) : (s.hubAnswered q).searching p = s.searching p := by
  have cmds : (s.hubAnswered q).hub.cmds = s.hub.cmds := by rw [State.hubAnswered_frame]
  rw [State.searching, cmds, State.hubAnswered_fdbAt, State.searching]

theorem pgFdb_bench (b : BenchId) : pgFdb b % 256 = b := by
  show (0xC00 + b.val) % 256 = b.val
  omega

/-! ### How a search command begins (R220, R221) -/

/-- The result registers of a page's search mailbox. -/
def searchWords : List Nat := [0x30C, 0x310, 0x314, 0x318, 0x31C]

theorem searchWords_off : ∀ o ∈ searchWords, o < 4096 := by decide

/-- Words of a page put to 0. -/
def State.zeroWords (s : State) (p : Nat) (l : List Nat) : State := s.each l fun s o => s.wr p o 0

theorem State.zeroWords_rd (p : Nat) {o : Nat} {l : List Nat} : ∀ s : State, o ∈ l → (s.zeroWords p l).rd p o = 0 := by
  have stays (u : State) (x : Nat) (h : u.rd p o = 0) : (u.wr p x 0).rd p o = 0 := by
    rw [State.rd_wr, h, ite_self]
  induction l with
  | nil => intro s h; cases h
  | cons x l ih =>
    intro s h
    rcases List.mem_cons.1 h with rfl | h
    · exact State.each_keeps (I := fun u => u.rd p o = 0) l (State.rd_wr_same _ _ _ _ _) fun u x _ hu => stays u x hu
    · exact ih (s.wr p x 0) h

/-- A write during a command of the page is lost and noted (R222). -/
theorem State.startSearch_lost {s : State} {c : HostCmd} (h : s.searching c.page = true) :
    s.startSearch c = s.onFdb (c.page % 256) fun f => { f with lost := true } := if_pos h

section
variable {s : State} {c : HostCmd} (hidle : s.searching c.page = false)
include hidle

theorem State.startSearch_flush (hop : c.op = 2) : s.startSearch c = (s.zeroWords c.page searchWords).acceptWrite c := by
  rw [State.startSearch, hidle, hop]
  rfl

theorem State.startSearch_reserved (hop : c.op = 3) :
    s.startSearch c = ((s.zeroWords c.page searchWords).wr c.page 0x30C 0x90000000).raise c.page 6 := by
  rw [State.startSearch, hidle, hop]
  rfl

/-- FIRST and NEXT change the bench's walk beside the result registers, and leave a result to wait. -/
theorem State.startSearch_walk (hop : c.op = 0 ∨ c.op = 1) : ∃ f : FdbSt, f.walk.isSome = true ∧
    s.startSearch c = (s.zeroWords c.page searchWords).putFdb (c.page % 256) f := by
  have two : c.op ≠ 2 := by omega
  have three : c.op ≠ 3 := by omega
  rw [State.startSearch, hidle]
  dsimp only
  rw [if_neg Bool.false_ne_true]
  split
  · exact absurd ‹c.op = 2› two
  · exact absurd ‹c.op = 3› three
  · split
    · exact ⟨_, rfl, rfl⟩
    · exact ⟨_, rfl, rfl⟩

end

/-! ### A flush that is accepted (R221) -/

/-- A hub found missing concerns the HOST page alone. -/
theorem State.hubMissing_rd (s : State) (t : Nat) (write : Bool) {p off : Nat} (hp : p ≠ pgHost) (ho : off < 4096) :
    (s.hubMissing t write).rd p off = s.rd p off := by
  have counted : (s.hubCounted write).rd p off = s.rd p off := by cases write <;> rfl
  cases h : s.hub.reported.contains t with
  | true => rw [State.hubMissing_again write h, counted]
  | false =>
    rw [State.hubMissing_first write h, State.rd_raise_ne _ _ _ (rkey_ne_page ho (by norm_num) (by norm_num) (by norm_num) hp)]
    exact counted

theorem State.finalCmd_flush_rd (s : State) {c : HostCmd} (hk : c.kind = .flush) (p off : Nat) :
    (s.finalCmd c).rd p off = s.rd p off := by
  rw [State.finalCmd, hk]
  rfl

/-- A flush that is accepted writes no register but those that tell of a missing hub. -/
theorem State.acceptWrite_flush_rd (s : State) {c : HostCmd} (hk : c.kind = .flush) {p off : Nat} (hp : p ≠ pgHost)
    (ho : off < 4096) : (s.acceptWrite c).rd p off = s.rd p off := by
  let gone := c.teams.filter fun t => !s.hubUp t
  have counted : (s.countQuota c).rd p off = s.rd p off := by rw [State.countQuota_frame]; rfl
  have missed : ((s.countQuota c).each gone fun s t => s.hubMissing t true).rd p off = s.rd p off :=
    State.each_keeps (I := fun u => u.rd p off = s.rd p off) gone counted fun u t _ hu => (u.hubMissing_rd t true hp ho).trans hu
  have back : (((s.countQuota c).each gone fun s t => s.hubMissing t true).each (c.teams.filter s.hubUp) State.hubBack).rd p off =
      s.rd p off := by rw [State.hubsBack_frame]; exact missed
  unfold State.acceptWrite
  dsimp only
  split
  · refine (State.finalCmd_flush_rd _ ?_ p off).trans back
    exact hk
  · exact back

/-! ### SEARCH_DONE (R222) -/

theorem State.hubRelease_none {s : State} (h : s.hub.held = []) : s.hubRelease = s := by
  have same : { s.hub with held := [] } = s.hub := by rw [← h]
  rw [State.hubRelease, h, same]
  rfl

/-- A bench's search has ended: no result of it waits, and no write is noted as lost. -/
def State.searchEnded (s : State) (b : Nat) : State := s.onFdb b fun f => { f with walk := none, lost := false }

theorem State.searchEnded_fdbAt (s : State) (b : Nat) :
    (s.searchEnded b).fdbAt b = { s.fdbAt b with walk := none, lost := false } := State.fdbAt_same _ _ _

/-- The five result words of a search, shown on its page with cause 6. -/
def State.showSearch (s : State) (b v : Nat) (l : List Nat) : State :=
  (((((s.wr (pgFdb b) 0x30C (BitVec.ofNat 32 v)).wr (pgFdb b) 0x310 (BitVec.ofNat 32 (l.getD 1 0))).wr (pgFdb b) 0x314
    (BitVec.ofNat 32 (l.getD 2 0))).wr (pgFdb b) 0x318 (BitVec.ofNat 32 (l.getD 3 0))).wr (pgFdb b) 0x31C
    (BitVec.ofNat 32 (l.getD 4 0))).raise (pgFdb b) 6

theorem State.showSearch_words (s : State) (b v : Nat) (l : List Nat) :
    (s.showSearch b v l).rd (pgFdb b) 0x30C = BitVec.ofNat 32 v ∧
    (s.showSearch b v l).rd (pgFdb b) 0x310 = BitVec.ofNat 32 (l.getD 1 0) ∧
    (s.showSearch b v l).rd (pgFdb b) 0x314 = BitVec.ofNat 32 (l.getD 2 0) ∧
    (s.showSearch b v l).rd (pgFdb b) 0x318 = BitVec.ofNat 32 (l.getD 3 0) ∧
    (s.showSearch b v l).rd (pgFdb b) 0x31C = BitVec.ofNat 32 (l.getD 4 0) := by
  have word (u : State) {off off' : Nat} (x : W32) (h : off' / 4 ≠ off / 4) :
      (u.wr (pgFdb b) off x).rd (pgFdb b) off' = u.rd (pgFdb b) off' := State.rd_wr_ne _ _ _ _ _ (rkey_ne_word h)
  have past (u : State) {off : Nat} (h : off / 4 ≠ 0x010 / 4) : (u.raise (pgFdb b) 6).rd (pgFdb b) off = u.rd (pgFdb b) off :=
    State.rd_raise_ne _ _ _ (rkey_ne_word h)
  unfold State.showSearch
  refine ⟨?_, ?_, ?_, ?_, ?_⟩ <;> rw [past _ (by norm_num)]
  · rw [word _ _ (by norm_num), word _ _ (by norm_num), word _ _ (by norm_num), word _ _ (by norm_num), State.rd_wr_same]
  · rw [word _ _ (by norm_num), word _ _ (by norm_num), word _ _ (by norm_num), State.rd_wr_same]
  · rw [word _ _ (by norm_num), word _ _ (by norm_num), State.rd_wr_same]
  · rw [word _ _ (by norm_num), State.rd_wr_same]
  · rw [State.rd_wr_same]

theorem State.showSearch_caused (s : State) (b v : Nat) (l : List Nat) : (s.showSearch b v l).caused (pgFdb b) 6 :=
  State.caused_raise _ (by norm_num)
theorem State.showSearch_hub (s : State) (b v : Nat) (l : List Nat) : (s.showSearch b v l).hub = s.hub := by
  simp only [State.showSearch, State.raise_hub, State.wr_hub]
theorem State.showSearch_fdbAt (s : State) (b v : Nat) (l : List Nat) (i : Nat) : (s.showSearch b v l).fdbAt i = s.fdbAt i := by
  simp only [State.showSearch, State.fdbAt, State.raise_fdb, State.wr_fdb]
theorem State.showSearch_tabsAt (s : State) (b v : Nat) (l : List Nat) (i : Nat) : (s.showSearch b v l).tabsAt i = s.tabsAt i := by
  simp only [State.showSearch, State.tabsAt, State.raise_tabs, State.wr_tabs]

theorem State.searchFinal_shows {s : State} {b : Nat} {l : List Nat} (h : (s.fdbAt b).walk = some l) :
    s.searchFinal b = (s.searchEnded b).showSearch b
      (l.getD 0 0 + b2n (s.fdbAt b).lost * 2 ^ 27) l := by
  rw [State.searchFinal, h]
  dsimp only
  rw [State.showSearch, State.searchEnded]

theorem searchDone_shows {s : State} {b : BenchId} {l : List Nat} (h : (s.fdbAt b).walk = some l) (hheld : s.hub.held = []) :
    searchDone b s = (s.searchEnded b).showSearch b
      (l.getD 0 0 + b2n (s.fdbAt b).lost * 2 ^ 27) l := by
  rw [searchDone, State.searchFinal_shows h, State.hubRelease_none]
  rw [State.showSearch_hub, State.searchEnded, State.onFdb_eq, State.putFdb_hub, hheld]

/-! ### The statement -/

theorem State.hubAnswered_seqEntry (s : State) (p t i : Nat) : (s.hubAnswered p).seqEntry t i = s.seqEntry t i := by
  rw [State.hubAnswered_frame]
  rfl

theorem State.sqCommand_team (s : State) (b : BenchId) (op : Nat) : (s.sqCommand (pgStrm b) op).team = b / 4 := by
  have team : (pageTeam (pgStrm b)).getD 0 = b / 4 := by revert b; decide
  exact team

/-- What FIRST and NEXT leave: the result words at 0, and a result that waits. -/
theorem State.startSearch_walk_waits {s t : State} {b : BenchId} {op : Nat} (hidle : s.searching (pgFdb b) = false)
    (hop : op = 0 ∨ op = 1) : let u := settle (s.startSearch (t.searchCommand (pgFdb b) op 0))
    (∀ o ∈ searchWords, u.rd (pgFdb b) o = 0) ∧ (u.fdbAt b).walk.isSome = true := by
  obtain ⟨f, hwalk, hstart⟩ := State.startSearch_walk (c := t.searchCommand (pgFdb b) op 0) hidle hop
  rw [show (t.searchCommand (pgFdb b) op 0).page % 256 = b from pgFdb_bench b] at hstart
  rw [hstart]
  refine ⟨fun o ho => ?_, ?_⟩
  · rw [settle_rd, State.rd_congr (State.putFdb_regs _ _ _)]
    exact s.zeroWords_rd _ ho
  · rw [settle_fdbAt, State.fdbAt_same, hwalk]

/-- Settles O32: each write makes its window's command, which the hub takes by its operation; SEARCH_DONE shows what waits. -/
theorem sequenceWindowAndSearch : Obligations.SequenceWindowAndSearch := by
  refine ⟨fun s b h => ?_, fun s b h => ?_, fun s b l hwalk hheld => ?_⟩
  · intro p s1 data idx cmd waits
    have taken (op : Nat) (hop : op < 16) (hroom : s1.hubsFull (cmd op) = false) :
        finish (sqWriteOp b op s) = .next (settle (s1.startSq (cmd op))) := finish_congr (sqWriteOp_taken hop h hroom)
    have waiting (op : Nat) (hop : op = 1 ∨ op = 2) : waits op (settle (s1.startSq (cmd op))) := fun hup => by
      rw [settle_rd, settle_hub, show s.gridTick = s1.gridTick by simp [s1, State.gridTick]]
      exact State.startSq_waits (c := cmd op) rfl hop fun t ht => (s.hubAnswered_hubUp _ _).trans (hup t ht)
    refine ⟨fun hroom => ?_, fun hroom => ⟨_, taken 1 (by norm_num) hroom, rfl, waiting 1 (.inl rfl)⟩,
      fun hroom => ⟨_, taken 2 (by norm_num) hroom, rfl, waiting 2 (.inr rfl)⟩,
      fun op hroom => ⟨_, taken (3 + op) (by omega) hroom, ?_⟩⟩
    · obtain ⟨hdata, hdone⟩ := s1.startSq_read_done (c := cmd 0) rfl rfl rfl
      refine ⟨_, taken 0 (by norm_num) hroom, rfl, fun k hk => ?_, ?_⟩
      · have entry : s1.seqEntry (cmd 0).team (bits idx 18 0) = s.seqEntry (b / 4) (bits idx 18 0) := by
          rw [show (cmd 0).team = b / 4 from s.sqCommand_team b 0, State.hubAnswered_seqEntry]
        rw [settle_rd, ← entry]
        exact hdata k hk
      · rw [settle_rd]
        exact hdone
    · rw [settle_rd]
      exact s1.startSq_bad_done (c := cmd (3 + op)) rfl rfl (show 2 < 3 + op.val by omega)
  · intro p s1 arg cmd clear lost
    have busy : s1.searching p = s.searching p := s.hubAnswered_searching p p
    have taken (op mask : Nat) (hop : op < 4) (hmask : mask < 256) (hroom : s1.hubsFull (cmd op mask) = false) :
        finish (searchWrite b (op * 2 ^ 30 + mask * 2 ^ 16) s) = .next (settle (s1.startSearch (cmd op mask))) :=
      finish_congr (searchWrite_taken hop hmask h hroom)
    have noted (op mask : Nat) (hb : s.searching p = true) : Host.Outcome.next (settle (s1.startSearch (cmd op mask))) = lost := by
      rw [State.startSearch_lost (c := cmd op mask) (busy.trans hb)]
      exact congrArg (fun i => Host.Outcome.next (settle (s1.onFdb i fun f => { f with lost := true }))) (pgFdb_bench b)
    refine ⟨fun hroom => ?_, fun hroom => ?_, fun m hroom => ?_, fun hroom => ?_⟩
    · have start := taken 0 0 (by norm_num) (by norm_num) hroom
      exact ⟨fun hb => start.trans (noted 0 0 hb), fun hidle => ⟨_, start, rfl,
        State.startSearch_walk_waits (busy.trans hidle) (.inl rfl)⟩⟩
    · have start := taken 1 0 (by norm_num) (by norm_num) hroom
      exact ⟨fun hb => start.trans (noted 1 0 hb), fun hidle => ⟨_, start, rfl,
        State.startSearch_walk_waits (busy.trans hidle) (.inr rfl)⟩⟩
    · have flush := taken 2 m.toNat (by norm_num) m.isLt hroom
      refine ⟨fun hb => flush.trans (noted 2 m.toNat hb), fun hidle => ⟨_, flush, rfl, fun o ho => ?_⟩⟩
      rw [settle_rd, State.startSearch_flush (c := cmd 2 m.toNat) (busy.trans hidle) rfl,
        State.acceptWrite_flush_rd _ rfl (pgFdb_ne_host b) (searchWords_off o ho)]
      exact s1.zeroWords_rd _ ho
    · have reserved := taken 3 0 (by norm_num) (by norm_num) hroom
      refine ⟨fun hb => reserved.trans (noted 3 0 hb), fun hidle => ⟨_, reserved, ?_, ?_⟩⟩
      · rw [settle_rd, State.startSearch_reserved (c := cmd 3 0) (busy.trans hidle) rfl]
        exact (State.rd_raise_ne _ _ _ (rkey_ne_word (by decide))).trans (State.rd_wr_same _ _ _ _ _)
      · rw [settle_caused, State.startSearch_reserved (c := cmd 3 0) (busy.trans hidle) rfl]
        exact State.caused_raise _ (by norm_num)
  · refine ⟨_, finish_congr (searchDone_shows hwalk hheld), ?_⟩
    obtain ⟨h0, h1, h2, h3, h4⟩ := (s.searchEnded b).showSearch_words b
      (l.getD 0 0 + b2n (s.fdbAt b).lost * 2 ^ 27) l
    simp only [settle_fdbAt, settle_rd, settle_caused, settle_tabsAt, State.showSearch_fdbAt, State.showSearch_tabsAt]
    rw [State.searchEnded_fdbAt]
    exact ⟨rfl, rfl, h0, h1, h2, h3, h4, State.showSearch_caused _ _ _ _, fun i => rfl⟩

end Sys2Proof.Machine
end

section
/-! SUPPORT. O56: every command keeps the memories' canonical form. The frame buffers' banks, the flash, the lehr's
bytes and the host memory are only ever written by `Tab.setList`, which keeps a table canonical (`Tab.wf_setList`), or
emptied by a reset. So each operation on the state keeps `State.memoriesWf`: one lemma per operation, named after it,
in the order of the model's files, so that `h.wr.setFld.raise` proves the form of `((s.wr ..).setFld ..).raise ..`
from that of `s`. The lemma about a command's meaning `f` is `f_memoriesWf`. -/

namespace Sys2Proof.Machine

/-! ### States that agree on the memories -/

theorem State.memoriesWf.same {s t : State} (h : s.memoriesWf) (hbank : t.bank = s.bank) (hflash : t.flash = s.flash)
    (hlehr : t.lehr.mem = s.lehr.mem) (hhost : t.hostMem = s.hostMem) : t.memoriesWf := by
  obtain ⟨h1, h2, h3, h4⟩ := h
  exact ⟨hbank ▸ h1, hflash ▸ h2, hlehr ▸ h3, hhost ▸ h4⟩

/-- A record update of fields other than the memories: each of the four is read off the update. -/
theorem State.memoriesWf.upd {s t : State} (h : s.memoriesWf) (hbank : t.bank = s.bank := by dsimp only)
    (hflash : t.flash = s.flash := by dsimp only) (hlehr : t.lehr.mem = s.lehr.mem := by dsimp only)
    (hhost : t.hostMem = s.hostMem := by dsimp only) : t.memoriesWf := h.same hbank hflash hlehr hhost

/-- The banks emptied (a device that starts anew), the other memories as they were. -/
theorem State.memoriesWf.rebuilt {s t : State} (h : s.memoriesWf) (hbank : t.bank = []) (hflash : t.flash = s.flash)
    (hlehr : t.lehr.mem = s.lehr.mem) (hhost : t.hostMem = s.hostMem) : t.memoriesWf := by
  obtain ⟨-, h2, h3, h4⟩ := h
  exact ⟨hbank ▸ rfl, hflash ▸ h2, hlehr ▸ h3, hhost ▸ h4⟩

/-! ### Choices, pairs and loops -/

section
variable {α β : Type} {s t : State} {c : Prop} [Decidable c]

theorem State.memoriesWf.ite (hs : s.memoriesWf) (ht : t.memoriesWf) : (if c then s else t).memoriesWf := by
  split
  · exact hs
  · exact ht

/-- A change that is made under a condition only. -/
theorem State.memoriesWf.maybe (hs : s.memoriesWf) (ht : s.memoriesWf → t.memoriesWf) :
    (if c then t else s).memoriesWf := .ite (ht hs) hs

theorem State.memoriesWf.either {u : State} (hu : u.memoriesWf) (hs : u.memoriesWf → s.memoriesWf)
    (ht : u.memoriesWf → t.memoriesWf) : (if c then s else t).memoriesWf := .ite (hs hu) (ht hu)

theorem State.memoriesWf.ite_read {r x : α × State} (hr : r.2.memoriesWf) (hx : x.2.memoriesWf) :
    (if c then r else x).2.memoriesWf := by
  split
  · exact hr
  · exact hx

theorem State.memoriesWf.ite_snd {a b : α} (hs : s.memoriesWf) (ht : t.memoriesWf) :
    (if c then (a, s) else (b, t)).2.memoriesWf := ite_read hs ht

theorem State.memoriesWf.ite_snd2 {a a' : α} {b b' : β} (hs : s.memoriesWf) (ht : t.memoriesWf) :
    (if c then (a, b, s) else (a', b', t)).2.2.memoriesWf := by
  split
  · exact hs
  · exact ht

theorem State.memoriesWf.snd {a : α} (h : s.memoriesWf) : (a, s).2.memoriesWf := h

theorem State.memoriesWf.of_snd {r : α × State} {a : α} (h : r.2.memoriesWf) (e : r = (a, t)) : t.memoriesWf := by
  subst e
  exact h

theorem State.memoriesWf.of_snd2 {r : α × β × State} {a : α} {b : β} (h : r.2.2.memoriesWf) (e : r = (a, b, t)) :
    t.memoriesWf := by
  subst e
  exact h

end

theorem State.memoriesWf.respond {r : W32 × State} (h : r.2.memoriesWf) : (State.respond r).memoriesWf := h

theorem State.memoriesWf.each {α : Type} {s : State} {l : List α} {f : State → α → State} (h : s.memoriesWf)
    (hf : ∀ u x, u.memoriesWf → (f u x).memoriesWf) : (s.each l f).memoriesWf :=
  State.each_keeps l h fun u x _ hu => hf u x hu

theorem State.memoriesWf.foldl {α : Type} {s : State} {l : List α} {f : State → α → State} (h : s.memoriesWf)
    (hf : ∀ u x, u.memoriesWf → (f u x).memoriesWf) : (l.foldl f s).memoriesWf := h.each hf

theorem State.memoriesWf.foldl_snd {α β : Type} {l : List α} {f : β × State → α → β × State} {r : β × State}
    (h : r.2.memoriesWf) (hf : ∀ r x, r.2.memoriesWf → (f r x).2.memoriesWf) : (l.foldl f r).2.memoriesWf := by
  induction l generalizing r with
  | nil => exact h
  | cons x l ih => exact ih (hf r x h)

/-! ### Operations that may not apply -/

/-- A read that may be another register's: the state that it leaves, if any, has the memories' form. -/
def ReadWf {α : Type} (o : Option (α × State)) : Prop := ∀ r ∈ o, r.2.memoriesWf

/-- A command that may be refused: the state that it leaves, if any, has the memories' form. -/
def MaybeWf (o : Option State) : Prop := ∀ t ∈ o, t.memoriesWf

section
variable {α : Type} {o p : Option (α × State)} {r : α × State} {c : Prop} [Decidable c]

theorem ReadWf.none : ReadWf (none : Option (α × State)) := by
  intro r hr
  cases hr

theorem ReadWf.some (h : r.2.memoriesWf) : ReadWf (some r) := by
  intro x hx
  cases hx
  exact h

theorem ReadWf.ite (ho : ReadWf o) (hp : ReadWf p) : ReadWf (if c then o else p) := by
  split
  · exact ho
  · exact hp

theorem ReadWf.getD (ho : ReadWf o) (hr : r.2.memoriesWf) : (o.getD r).2.memoriesWf := by
  cases o with
  | none => exact hr
  | some x => exact ho x rfl

theorem ReadWf.orElse (ho : ReadWf o) (hp : ReadWf p) : ReadWf (o.orElse fun _ => p) := by
  cases o with
  | none => exact hp
  | some x => exact ho

end

section
variable {t : State} {o p : Option State} {c : Prop} [Decidable c]

theorem MaybeWf.none : MaybeWf none := by
  intro t ht
  cases ht

theorem MaybeWf.some (h : t.memoriesWf) : MaybeWf (some t) := by
  intro x hx
  cases hx
  exact h

theorem MaybeWf.ite (ho : MaybeWf o) (hp : MaybeWf p) : MaybeWf (if c then o else p) := by
  split
  · exact ho
  · exact hp

end

section
variable {s : State} (h : s.memoriesWf)
include h

/-! ### The four writes of a memory -/

theorem State.memoriesWf.setBank {a : Nat} {l : List Byte} :
    State.memoriesWf { s with bank := Tab.setList zeroByte s.bank a l } := by
  obtain ⟨hbank, rest⟩ := h
  exact ⟨Tab.wf_setList zeroByte l s.bank a hbank, rest⟩
theorem State.memoriesWf.setFlash {a : Nat} {l : List Byte} :
    State.memoriesWf { s with flash := Tab.setList zeroByte s.flash a l } := by
  obtain ⟨hbank, hflash, rest⟩ := h
  exact ⟨hbank, Tab.wf_setList zeroByte l s.flash a hflash, rest⟩
theorem State.memoriesWf.setLehr {a : Nat} {l : List Byte} :
    State.memoriesWf { s with lehr := { s.lehr with mem := Tab.setList zeroByte s.lehr.mem a l } } := by
  obtain ⟨hbank, hflash, hlehr, hhost⟩ := h
  exact ⟨hbank, hflash, Tab.wf_setList zeroByte l s.lehr.mem a hlehr, hhost⟩
theorem State.memoriesWf.setHostMem {a : Nat} {l : List Byte} :
    State.memoriesWf { s with hostMem := Tab.setList zeroByte s.hostMem a l } := by
  obtain ⟨hbank, hflash, hlehr, hhost⟩ := h
  exact ⟨hbank, hflash, hlehr, Tab.wf_setList zeroByte l s.hostMem a hhost⟩

/-! ### Updates of one other field -/

theorem State.memoriesWf.withResp {x : List W32} : State.memoriesWf { s with resp := x } := h
theorem State.memoriesWf.withNonce {x : Nat} : State.memoriesWf { s with nonce := x } := h
theorem State.memoriesWf.withTime {x : TimeSt} : State.memoriesWf { s with time := x } := h
theorem State.memoriesWf.withIrq {x : IrqSt} : State.memoriesWf { s with irq := x } := h
theorem State.memoriesWf.withHub {x : HubSt} : State.memoriesWf { s with hub := x } := h
theorem State.memoriesWf.withPhy {x : PhySt} : State.memoriesWf { s with phy := x } := h
theorem State.memoriesWf.withDev {x : DevSt} : State.memoriesWf { s with dev := x } := h
theorem State.memoriesWf.withBoot {x : BootSt} : State.memoriesWf { s with boot := x } := h
theorem State.memoriesWf.withPins {x : PinSt} : State.memoriesWf { s with pins := x } := h
theorem State.memoriesWf.withPcie {x : PcieSt} : State.memoriesWf { s with pcie := x } := h
theorem State.memoriesWf.withImage {x : ImageSt} : State.memoriesWf { s with image := x } := h
theorem State.memoriesWf.withVlatch {x : Tab W32} : State.memoriesWf { s with vlatch := x } := h
theorem State.memoriesWf.withClatch {x : Tab (Option (Nat × W32))} : State.memoriesWf { s with clatch := x } := h
theorem State.memoriesWf.withSnaps {x : Tab W64} : State.memoriesWf { s with snaps := x } := h
theorem State.memoriesWf.withRegs {x : Tab W32} : State.memoriesWf { s with regs := x } := h
theorem State.memoriesWf.withCtrs {x : Tab W64} : State.memoriesWf { s with ctrs := x } := h
theorem State.memoriesWf.withLehr {x : LehrSt} (e : x.mem = s.lehr.mem := by dsimp only) :
    State.memoriesWf { s with lehr := x } := by
  obtain ⟨hbank, hflash, hlehr, hhost⟩ := h
  exact ⟨hbank, hflash, e ▸ hlehr, hhost⟩
theorem State.memoriesWf.withTabs {x : Tab TabSt} : State.memoriesWf { s with tabs := x } := h
theorem State.memoriesWf.withSag {x : Tab SagSt} : State.memoriesWf { s with sag := x } := h

/-! ### Machine/Access -/

theorem State.memoriesWf.putCore {k v} : (s.putCore k v).memoriesWf := h
theorem State.memoriesWf.putTick {k v} : (s.putTick k v).memoriesWf := h
theorem State.memoriesWf.onTick {k f} : (s.onTick k f).memoriesWf := h.putTick
theorem State.memoriesWf.putBuf {k v} : (s.putBuf k v).memoriesWf := h
theorem State.memoriesWf.onBuf {k f} : (s.onBuf k f).memoriesWf := h.putBuf
theorem State.memoriesWf.putQueue {k v} : (s.putQueue k v).memoriesWf := h
theorem State.memoriesWf.onQueue {k f} : (s.onQueue k f).memoriesWf := h.putQueue
theorem State.memoriesWf.putBridge {k v} : (s.putBridge k v).memoriesWf := h
theorem State.memoriesWf.onBridge {k f} : (s.onBridge k f).memoriesWf := h.putBridge
theorem State.memoriesWf.putMirror {k v} : (s.putMirror k v).memoriesWf := h
theorem State.memoriesWf.onMirror {k f} : (s.onMirror k f).memoriesWf := h.putMirror
theorem State.memoriesWf.putGate {k v} : (s.putGate k v).memoriesWf := h
theorem State.memoriesWf.onGate {k f} : (s.onGate k f).memoriesWf := h.putGate
theorem State.memoriesWf.putSched {k v} : (s.putSched k v).memoriesWf := h
theorem State.memoriesWf.onSched {k f} : (s.onSched k f).memoriesWf := h.putSched
theorem State.memoriesWf.putTeam {k v} : (s.putTeam k v).memoriesWf := h
theorem State.memoriesWf.onTeam {k f} : (s.onTeam k f).memoriesWf := h.putTeam
theorem State.memoriesWf.putTabs {k v} : (s.putTabs k v).memoriesWf := h
theorem State.memoriesWf.onTabs {k f} : (s.onTabs k f).memoriesWf := h.putTabs
theorem State.memoriesWf.putFdb {k v} : (s.putFdb k v).memoriesWf := h
theorem State.memoriesWf.onFdb {k f} : (s.onFdb k f).memoriesWf := h.putFdb
theorem State.memoriesWf.putSig {k v} : (s.putSig k v).memoriesWf := h
theorem State.memoriesWf.onSig {k f} : (s.onSig k f).memoriesWf := h.putSig
theorem State.memoriesWf.putSwap {k v} : (s.putSwap k v).memoriesWf := h
theorem State.memoriesWf.putFailLog {k v} : (s.putFailLog k v).memoriesWf := h
theorem State.memoriesWf.onFailLog {k f} : (s.onFailLog k f).memoriesWf := h.putFailLog
theorem State.memoriesWf.putMar {k v} : (s.putMar k v).memoriesWf := h
theorem State.memoriesWf.onMar {k f} : (s.onMar k f).memoriesWf := h.putMar
theorem State.memoriesWf.putLink {k v} : (s.putLink k v).memoriesWf := h
theorem State.memoriesWf.onLink {k f} : (s.onLink k f).memoriesWf := h.putLink
theorem State.memoriesWf.putTx {k v} : (s.putTx k v).memoriesWf := h
theorem State.memoriesWf.onTx {k f} : (s.onTx k f).memoriesWf := h.putTx
theorem State.memoriesWf.putMdio {k v} : (s.putMdio k v).memoriesWf := h
theorem State.memoriesWf.putCiph {k v} : (s.putCiph k v).memoriesWf := h
theorem State.memoriesWf.onCiph {k f} : (s.onCiph k f).memoriesWf := h.putCiph
theorem State.memoriesWf.putChan {k v} : (s.putChan k v).memoriesWf := h
theorem State.memoriesWf.onChan {k f} : (s.onChan k f).memoriesWf := h.putChan
theorem State.memoriesWf.putHalf {k v} : (s.putHalf k v).memoriesWf := h
theorem State.memoriesWf.onHalf {k f} : (s.onHalf k f).memoriesWf := h.putHalf
theorem State.memoriesWf.putDom {k v} : (s.putDom k v).memoriesWf := h
theorem State.memoriesWf.onDom {k f} : (s.onDom k f).memoriesWf := h.putDom
theorem State.memoriesWf.putSag {k v} : (s.putSag k v).memoriesWf := h
theorem State.memoriesWf.onSag {k f} : (s.onSag k f).memoriesWf := h.putSag
theorem State.memoriesWf.putRing {k v} : (s.putRing k v).memoriesWf := h
theorem State.memoriesWf.onRing {k f} : (s.onRing k f).memoriesWf := h.putRing
theorem State.memoriesWf.putRx {k v} : (s.putRx k v).memoriesWf := h
theorem State.memoriesWf.onRx {k f} : (s.onRx k f).memoriesWf := h.putRx
theorem State.memoriesWf.onCore {k f} : (s.onCore k f).memoriesWf := h.putCore

/-! ### Machine/Ops -/

theorem State.memoriesWf.wr {p off v w} : (s.wr p off v w).memoriesWf := h.withRegs
theorem State.memoriesWf.setFld {p f v w} : (s.setFld p f v w).memoriesWf := h.wr
theorem State.memoriesWf.addCtr {p off n w} : (s.addCtr p off n w).memoriesWf := h.withCtrs
theorem State.memoriesWf.bump {p off w} : (s.bump p off w).memoriesWf := h.addCtr
theorem State.memoriesWf.free {w} : (s.free w).2.memoriesWf := h.withNonce
theorem State.memoriesWf.raise {p i} : (s.raise p i).memoriesWf := h.wr
theorem State.memoriesWf.ifDo {c f} (hf : ∀ u, u.memoriesWf → (f u).memoriesWf) : (s.ifDo c f).memoriesWf :=
  .ite (hf _ h) h
theorem State.memoriesWf.reach {t} : (s.reach t).memoriesWf := .ite h.withTime h
theorem State.memoriesWf.stampAgo {age} : (s.stampAgo age).2.memoriesWf := by
  unfold State.stampAgo
  dsimp only
  exact .ite_snd h h.free

/-! ### Machine/Flags -/

theorem State.memoriesWf.cool {i} : (s.cool i).memoriesWf := h.onRing
theorem State.memoriesWf.message {v} : (s.message v).memoriesWf :=
  .ite h.withIrq (.ite h.bump (h.withIrq.each (fun _ _ hu => hu.cool)))

/-! ### Machine/Lehr -/

theorem State.memoriesWf.setLehrWord {a v} : (s.setLehrWord a v).memoriesWf := h.setLehr
theorem State.memoriesWf.putImage {p off w v} : (s.putImage p off w v).memoriesWf := by
  unfold State.putImage
  dsimp only
  split
  · exact h.setLehrWord
  · exact .ite h (h.foldl (fun _ _ hu => hu.setLehrWord))
theorem State.memoriesWf.setLehrValid {b} : (s.setLehrValid b).memoriesWf := h.setFld.setLehrWord
theorem State.memoriesWf.through {p off w} : (s.through p off w).memoriesWf :=
  .ite h (.ite (.ite h.withLehr.setFld h.withLehr.bump) (.ite h.putImage.withLehr h))
theorem State.memoriesWf.wrL {p off v w} : (s.wrL p off v w).memoriesWf := h.wr.through
theorem State.memoriesWf.setL {p f v w} : (s.setL p f v w).memoriesWf := h.setFld.through
theorem State.memoriesWf.plainWrite {p off w v} : (s.plainWrite p off w v).memoriesWf := h.wrL

/-! ### Machine/Page -/

theorem State.memoriesWf.hubMissing {t write} : (s.hubMissing t write).memoriesWf :=
  .ite (.ite h.bump.bump h.bump) (.raise (.withHub (.ite h.bump.bump h.bump)))
theorem State.memoriesWf.hubBack {t} : (s.hubBack t).memoriesWf := h.withHub
theorem State.memoriesWf.hubAnswered {p} : (s.hubAnswered p).memoriesWf := by
  unfold State.hubAnswered
  split
  · exact h.hubBack
  · exact h
theorem State.memoriesWf.downWrite : s.downWrite.memoriesWf := h.bump.raise
theorem State.memoriesWf.onPage {p f} (hf : ∀ u, u.memoriesWf → (f u).memoriesWf) : (s.onPage p f).memoriesWf :=
  .ite h.bump (.ite h.hubMissing (.ite (hf _ h.hubAnswered) h.hubAnswered.downWrite))
theorem State.memoriesWf.hold {a} : (s.hold a).memoriesWf := h.withHub
theorem State.memoriesWf.hostWrite {p f} (hf : ∀ u, u.memoriesWf → (f u).memoriesWf) : (s.hostWrite p f).memoriesWf :=
  .ite h (h.onPage hf)
theorem State.memoriesWf.fromPage {p f asleep} (hf : ∀ u, u.memoriesWf → (f u).2.memoriesWf) :
    (s.fromPage p f asleep).2.memoriesWf :=
  .ite_snd h (.ite_snd h (.ite_snd h.hubMissing (.ite_snd (hf _ h.hubAnswered) h.hubAnswered)))
theorem State.memoriesWf.hostRead {p f asleep} (hf : ∀ u, u.memoriesWf → (f u).2.memoriesWf) :
    (s.hostRead p f asleep).memoriesWf :=
  .ite h.withResp (.respond (h.fromPage hf))
theorem State.memoriesWf.hubAccess {a f} (hf : ∀ u, u.memoriesWf → (f u).memoriesWf) : (s.hubAccess a f).memoriesWf :=
  .ite h.hold (hf _ h)
theorem State.memoriesWf.wordWrite {p off v f keep} (hf : ∀ u, u.memoriesWf → (f u).memoriesWf) :
    (s.wordWrite p off v f keep).memoriesWf :=
  h.hubAccess fun _ hu => hu.hostWrite hf
theorem State.memoriesWf.wordRead {p off f asleep} (hf : ∀ u, u.memoriesWf → (f u).2.memoriesWf) :
    (s.wordRead p off f asleep).memoriesWf :=
  h.hubAccess fun _ hu => hu.hostRead hf

/-! ### Machine/Gate -/

theorem State.memoriesWf.setGfld {p f v} : (s.setGfld p f v).memoriesWf := h.setFld
theorem State.memoriesWf.gateCount {p c} : (s.gateCount p c).memoriesWf := h.bump
theorem State.memoriesWf.gateRaise {p i} : (s.gateRaise p i).memoriesWf := h.raise
theorem State.memoriesWf.gateTrack {p} : (s.gateTrack p).memoriesWf :=
  .ite (.ite h h.onGate.gateCount.gateRaise) h.onGate
theorem State.memoriesWf.changeRequest {p} : (s.changeRequest p).memoriesWf :=
  .ite h.gateCount.setGfld.gateRaise h.onGate.setGfld.setGfld.setGfld.setGfld
theorem State.memoriesWf.changeComplete {p} : (s.changeComplete p).memoriesWf := by
  unfold State.changeComplete
  split
  · exact h
  · exact h.onGate.setGfld.setGfld.setGfld.setGfld.setGfld.setGfld.setGfld.setGfld.gateCount.setGfld.gateRaise
theorem State.memoriesWf.gctrlWrite {p v} : (s.gctrlWrite p v).memoriesWf :=
  .gateTrack (.ite h.plainWrite.changeRequest h.plainWrite)
theorem State.memoriesWf.gclAdvance {p} : (s.gclAdvance p).memoriesWf := h.setGfld
theorem State.memoriesWf.gclHiWrite {p v} : (s.gclHiWrite p v).memoriesWf :=
  .ite h.gateCount.gateRaise h.plainWrite.onGate.gclAdvance
theorem State.memoriesWf.gclLoRead {p} : (s.gclLoRead p).2.memoriesWf := h.onGate
theorem State.memoriesWf.gclHiRead {p} : (s.gclHiRead p).2.memoriesWf := h.gclAdvance

/-! ### Machine/Sag -/

theorem State.memoriesWf.domCount {d c} : (s.domCount d c).memoriesWf := h.bump
theorem State.memoriesWf.refusalLog {w0 w1} : (s.refusalLog w0 w1).memoriesWf :=
  .ite h.setLehrWord.setLehrWord.withDev.bump.raise h.setLehrWord.setLehrWord.withDev
theorem State.memoriesWf.refusal {d target refuser src} : (s.refusal d target refuser src).memoriesWf := by
  unfold State.refusal
  refine .refusalLog (.raise (.bump ?_))
  split
  · exact h.domCount.setFld
  · exact h
theorem sagGate_memoriesWf {u} : (sagGate u s).memoriesWf := by
  unfold sagGate
  refine .ite ?_ h
  split
  · exact h
  · exact h.onSag.bump
theorem State.memoriesWf.sagUngate {u} : (s.sagUngate u).memoriesWf := .ite h.onSag.addCtr h.onSag
theorem State.memoriesWf.sagPlan {u} : (s.sagPlan u).memoriesWf :=
  .ite h (.ite h (.ite h.sagUngate h.sagUngate.bump.raise))
theorem sagWake_memoriesWf {u} : (sagWake u s).memoriesWf := by
  unfold sagWake
  refine .ite h ?_
  split
  · exact h.reach.sagUngate.ifDo fun _ hu => hu.sagPlan
  · exact h
theorem State.memoriesWf.sagPlanAll : s.sagPlanAll.memoriesWf := h.foldl fun _ _ hu => hu.sagPlan
theorem State.memoriesWf.sagPlanPort {p} : (s.sagPlanPort p).memoriesWf := h.sagPlan.sagPlan
theorem State.memoriesWf.sagSeen {p} : (s.sagSeen p).memoriesWf := by
  unfold State.sagSeen
  dsimp only
  exact .ite h (h.each (fun _ _ hu => .ite (.ite hu.free.onSag hu.free) hu))
theorem State.memoriesWf.sagShift {t} : (s.sagShift t).memoriesWf := h.withSag
theorem sliceWakeFail_memoriesWf {u} : (sliceWakeFail u s).memoriesWf :=
  .ite h (h.onSag.foldl (fun _ _ hu => hu.onSag)).bump.raise.refusal
theorem sliceWakeRetry_memoriesWf {u ok} : (sliceWakeRetry u ok s).memoriesWf := .ite h.onSag h

/-! ### Machine/PortBase -/

theorem State.memoriesWf.setPortFld {p f v} : (s.setPortFld p f v).memoriesWf := h.setFld
theorem State.memoriesWf.portCount {p c n} : (s.portCount p c n).memoriesWf := h.addCtr
theorem State.memoriesWf.portRaise {p i} : (s.portRaise p i).memoriesWf := h.raise
theorem State.memoriesWf.forwarded {t n} : (s.forwarded t n).memoriesWf := .ite h.withDev h.withDev

/-! ### Machine/Seq -/

theorem State.memoriesWf.teamChange {t tick c} : (s.teamChange t tick c).memoriesWf := h.onTeam
theorem State.memoriesWf.watchReset {t i} : (s.watchReset t i).memoriesWf := h.each fun _ _ hu => hu.setFld.raise
theorem State.memoriesWf.seqCount {b i o} : (s.seqCount b i o).memoriesWf :=
  .each (.ite h.bump.addCtr.addCtr.addCtr.bump.watchReset h.bump.addCtr.addCtr.addCtr)
    fun _ _ hu => hu.bump.addCtr.addCtr.addCtr
theorem State.memoriesWf.seqInvalid {b} : (s.seqInvalid b).memoriesWf := h.bump.raise
theorem State.memoriesWf.seqError {b i} : (s.seqError b i).memoriesWf :=
  .ite h.bump.raise.teamChange.bump.watchReset h.bump.raise.teamChange
theorem State.memoriesWf.seqCorrected {b ce} : (s.seqCorrected b ce).memoriesWf := h.ifDo fun _ hu => hu.bump
theorem State.memoriesWf.seqGenerate {b i ue} : (s.seqGenerate b i ue).2.memoriesWf :=
  .ite_snd h.seqInvalid (.ite_snd h.seqError (.ite_snd h.seqInvalid h.teamChange.bump))
theorem State.memoriesWf.seqRecover {b i n tag ue} : (s.seqRecover b i n tag ue).2.memoriesWf :=
  .ite_snd h.seqInvalid (.ite_snd h.seqError (.ite_snd h.seqInvalid (h.each (fun _ _ hu => hu.teamChange)).seqCount))
theorem seqScanVisit_memoriesWf {t} : (seqScanVisit t s).memoriesWf :=
  .ite (.ite h.setFld.teamChange.bump.watchReset h.setFld) h
theorem watchTest_memoriesWf {t k} : (watchTest t k s).memoriesWf := .ite (.ite h.onTeam.setFld.raise h.onTeam) h
theorem State.memoriesWf.watchCfgWrite {t k off v} : (s.watchCfgWrite t k off v).memoriesWf := h.plainWrite.onTeam

/-! ### Machine/Meter -/

theorem State.memoriesWf.meterFrame {b idx len input} : (s.meterFrame b idx len input).2.memoriesWf := by
  unfold State.meterFrame
  extract_lets t m
  refine .ite_read h.bump ?_
  split
  extract_lets s1 s2
  have h2 : s2.memoriesWf := h.bump.teamChange.maybe fun hu => hu.teamChange.raise
  exact .ite_read h2.bump (.ite_read h2.bump h2)
theorem State.memoriesWf.meterReturn {b charged len} : (s.meterReturn b charged len).memoriesWf :=
  .ite h h.teamChange.bump
theorem State.memoriesWf.filterSdu {b idx} : (s.filterSdu b idx).memoriesWf := .ite h.teamChange.raise h.teamChange
theorem State.memoriesWf.filterFrame {b idx len} : (s.filterFrame b idx len).2.memoriesWf :=
  .ite_snd h.bump (.ite_snd h.teamChange.bump (.ite_snd h.teamChange.bump.filterSdu h.teamChange))

/-! ### Machine/Buf -/

theorem State.memoriesWf.onDesc {b d f} : (s.onDesc b d f).memoriesWf := by
  unfold State.onDesc
  split
  · exact h.onBuf
  · exact h
theorem State.memoriesWf.poolTrack {b p before} : (s.poolTrack b p before).memoriesWf :=
  .ite (.raise (.ite h.setFld h)) (.ite h.setFld h)
theorem State.memoriesWf.popFree {b p} : ReadWf (s.popFree b p) := by
  unfold State.popFree
  dsimp only
  split
  · exact .none
  · refine .some (.poolTrack (.onBuf (.setBank ?_)))
    split
    · exact h
    · exact .snd h.free
theorem State.memoriesWf.pushFree {b p g} : (s.pushFree b p g).memoriesWf := h.onBuf
theorem State.memoriesWf.takeBufs {b owner l} : (s.takeBufs b owner l).2.memoriesWf := by
  induction l generalizing s with
  | nil => exact h
  | cons p ps ih =>
    unfold State.takeBufs
    split
    · exact h
    · next e => exact ih (h.popFree _ e).onBuf.bump
theorem State.memoriesWf.linkChain {b l} : (s.linkChain b l).memoriesWf := by
  induction l generalizing s with
  | nil => exact h
  | cons g l ih =>
    cases l with
    | nil => exact h.onBuf
    | cons x l => exact ih h.onBuf
theorem State.memoriesWf.countEmpty {b owner a} : (s.countEmpty b owner a).memoriesWf := by
  unfold State.countEmpty
  split
  · exact h
  · exact h.bump.bump
  · exact h.bump.bump
theorem State.memoriesWf.countBound {b} : (s.countBound b).memoriesWf := h.bump.raise
theorem State.memoriesWf.grant {b owner len d} : (s.grant b owner len d).2.memoriesWf := by
  unfold State.grant
  refine .ite_snd h.countEmpty (.ite_snd h.countEmpty ?_)
  split
  · exact .snd h.countEmpty
  · exact .ite_snd h.countEmpty (.ite h.takeBufs.linkChain.onBuf.bump h.takeBufs.linkChain.onBuf.bump.bump)
theorem State.memoriesWf.grantExt {b owner} : (s.grantExt b owner).2.memoriesWf := by
  unfold State.grantExt
  split
  · exact .snd h.countEmpty
  · exact .ite_snd h.countEmpty (.ite h.takeBufs h.takeBufs.bump)
theorem State.memoriesWf.doubleFree {b agent isDesc handle} : (s.doubleFree b agent isDesc handle).memoriesWf :=
  .ite h.bump.raise.wr.setFld h.bump.raise
theorem State.memoriesWf.freeBuf {b g} : (s.freeBuf b g).memoriesWf := .ite h.onBuf.onBuf.bump.raise h.onBuf.pushFree
theorem State.memoriesWf.relBuf {b g agent} : (s.relBuf b g agent).memoriesWf :=
  .ite h (.ite h.doubleFree (.ite h.freeBuf h.onBuf))
theorem State.memoriesWf.eachLearn {f} : (s.eachLearn f).memoriesWf := h.each fun _ _ hu => hu.onFdb
theorem State.memoriesWf.orphan {b d v} : (s.orphan b d v).memoriesWf :=
  ((h.eachLearn.each (fun _ _ hu => hu.onBridge)).each (fun _ _ hu => hu.onRx)).onCiph
theorem State.memoriesWf.relHold {b d agent} : (s.relHold b d agent).memoriesWf := by
  unfold State.relHold
  split
  · exact h.doubleFree
  · exact .ite h.onBuf (h.onBuf.orphan.each (fun _ _ hu => hu.relBuf))
theorem State.memoriesWf.cullet {b d agent} : (s.cullet b d agent).memoriesWf := h.relHold.bump
theorem State.memoriesWf.storeChain {b l bytes} : (s.storeChain b l bytes).memoriesWf := by
  induction l generalizing s bytes with
  | nil => exact h
  | cons g l ih => exact ih h.setBank.onBuf
theorem State.memoriesWf.request {b slot owner len what} : (s.request b slot owner len what).memoriesWf := h.onBuf
theorem State.memoriesWf.eachTake {f} : (s.eachTake f).memoriesWf := h.each fun _ _ hu => .ite hu hu.onBuf
theorem State.memoriesWf.dropTakes : s.dropTakes.memoriesWf := h.eachTake
theorem State.memoriesWf.grantMirror {b d} : (s.grantMirror b d).2.memoriesWf := .ite_snd h.countEmpty h.onBuf.bump
theorem State.memoriesWf.grantPool {b owner p} : (s.grantPool b owner p).2.memoriesWf := by
  unfold State.grantPool
  dsimp only
  exact .ite_snd h.countEmpty h.takeBufs
theorem State.memoriesWf.answerReq {b r} : (s.answerReq b r).2.memoriesWf := by
  unfold State.answerReq
  split
  · exact h.grantMirror
  · exact h.grantPool
  · exact .snd h.grantExt
  · exact h.grant
theorem State.memoriesWf.allocClock {b} : (s.allocClock b).memoriesWf :=
  h.onBuf.setFld.each fun _ _ hu => hu.answerReq.onBuf
theorem State.memoriesWf.allocRun {b n} : (s.allocRun b n).2.memoriesWf := by
  induction n generalizing s with
  | zero => exact h
  | succ n ih =>
    unfold State.allocRun
    dsimp only
    split
    · exact .snd h.allocClock.onBuf
    · exact ih h.allocClock
theorem State.memoriesWf.allocNow {b slot owner len what} : (s.allocNow b slot owner len what).2.memoriesWf :=
  h.request.allocRun
theorem State.memoriesWf.cfgIgnored {b} : (s.cfgIgnored b).memoriesWf := h.raise
theorem State.memoriesWf.poolStart {b} : (s.poolStart b).memoriesWf :=
  .ite h.cfgIgnored (.ite h.onBuf.setFld h.setFld.raise)
theorem State.memoriesWf.poolBuilt {b} : (s.poolBuilt b).memoriesWf := .ite h.onBuf.setFld h
theorem State.memoriesWf.listError {b p} : (s.listError b p).memoriesWf := by
  unfold State.listError
  split
  · exact h.onBuf.bump.raise.bump.raise.setFld.setFld.poolTrack
  · exact h
theorem State.memoriesWf.listRebuilt {b late} : (s.listRebuilt b late).memoriesWf := by
  unfold State.listRebuilt
  split
  · exact h
  · exact h.onBuf.setFld.setFld
theorem State.memoriesWf.ownResWrite {b o v} : (s.ownResWrite b o v).memoriesWf := .ite h (.ite h.raise h.setL)
theorem State.memoriesWf.ownDescWrite {b o v} : (s.ownDescWrite b o v).memoriesWf := .ite h (.ite h.raise h.wrL)
theorem State.memoriesWf.dfreeClear {b} : (s.dfreeClear b).memoriesWf := (h.each (fun _ _ hu => hu.wr)).setFld
theorem State.memoriesWf.setHostRef {b g n} : (s.setHostRef b g n).memoriesWf := h.onBuf
theorem State.memoriesWf.mboxHold {b status handle hdr} : (s.mboxHold b status handle hdr).memoriesWf := h.onBuf
theorem State.memoriesWf.mboxAlloc {b pool} : (s.mboxAlloc b pool).memoriesWf := by
  unfold State.mboxAlloc
  split
  · next s1 e =>
    exact (h.allocNow.of_snd e).setHostRef.mboxHold
  · next s1 e =>
    exact (h.allocNow.of_snd e).mboxHold
theorem State.memoriesWf.mboxFree {b g} : (s.mboxFree b g).memoriesWf :=
  .ite h.relBuf.mboxHold h.relBuf.setHostRef.mboxHold
theorem State.memoriesWf.mboxAddref {b g} : (s.mboxAddref b g).memoriesWf :=
  .ite h.doubleFree.mboxHold (.ite h.bump.mboxHold h.onBuf.setHostRef.mboxHold)
theorem State.memoriesWf.mboxReclaim {b pass} : (s.mboxReclaim b pass).memoriesWf := by
  unfold State.mboxReclaim
  split
  · exact h.mboxHold
  · exact .ite h.setBank.onBuf.pushFree.bump.mboxHold h.setBank.onBuf.bump.mboxHold
theorem State.memoriesWf.mboxRun {b op pool handle pass} : (s.mboxRun b op pool handle pass).memoriesWf := by
  unfold State.mboxRun
  refine .ite h.wr.wr.wr.mboxHold (.ite h.wr.wr.wr.mboxHold ?_)
  refine .ite h.wr.wr.wr.mboxHold ?_
  split
  · exact h.wr.wr.wr.mboxAlloc
  · exact h.wr.wr.wr.mboxFree
  · exact h.wr.wr.wr.mboxAddref
  · exact h.wr.wr.wr.mboxHold
  · exact h.wr.wr.wr.mboxReclaim
theorem State.memoriesWf.mboxFinal {b} : (s.mboxFinal b).memoriesWf := by
  unfold State.mboxFinal
  split
  · exact h
  · exact h.onBuf.wr.wr.wr.raise
theorem State.memoriesWf.bwinRead {b k} : (s.bwinRead b k).2.memoriesWf := by
  unfold State.bwinRead
  dsimp only
  split
  · exact h
  · exact .ite_snd h.free h
theorem State.memoriesWf.bwinWrite {b k v} : (s.bwinWrite b k v).memoriesWf := by
  unfold State.bwinWrite
  split
  · exact h
  · exact .setBank (.ite_read h.free h)

/-! ### Machine/Macsec -/

theorem State.memoriesWf.scCount {c sc k n} : (s.scCount c sc k n).memoriesWf := h.addCtr
theorem State.memoriesWf.pnLog {c exh an sc} : (s.pnLog c exh an sc).memoriesWf := .ite h.onCiph h.bump.raise
theorem State.memoriesWf.takePn {c b sc} : (s.takePn c b sc).2.memoriesWf :=
  (h.onCiph.maybe fun hu => hu.pnLog.raise).maybe fun hu => hu.pnLog.raise

/-! ### Machine/Queue -/

theorem State.memoriesWf.coreCount {b c} : (s.coreCount b c).memoriesWf := h.bump
theorem State.memoriesWf.queueCount {k c} : (s.queueCount k c).memoriesWf := h.bump
theorem State.memoriesWf.setQueue {k q} : (s.setQueue k q).memoriesWf := .ite h.putQueue.coreCount.raise h.putQueue
theorem State.memoriesWf.qeTrack {b} : (s.qeTrack b).memoriesWf := .ite h.setFld h
theorem State.memoriesWf.classCount {p c k} : (s.classCount p c k).memoriesWf := h.bump
theorem State.memoriesWf.schedCount {p k} : (s.schedCount p k).memoriesWf := h.bump
theorem State.memoriesWf.setFinishTag {p c v} : (s.setFinishTag p c v).memoriesWf := h.onSched
theorem State.memoriesWf.newHead {k base} : (s.newHead k base).memoriesWf := by
  unfold State.newHead
  split
  · exact h.setFinishTag
  · exact h
theorem State.memoriesWf.pushHead {k c} : (s.pushHead k c).memoriesWf := .ite h.setQueue.newHead h.setQueue
theorem State.memoriesWf.keepCopies {k keep} : (s.keepCopies k keep).memoriesWf := by
  unfold State.keepCopies
  dsimp only
  split
  · exact .ite h.setQueue h.setQueue.newHead
  · exact h.setQueue
theorem State.memoriesWf.popHead {k} : (s.popHead k).memoriesWf := by
  unfold State.popHead
  dsimp only
  split
  · exact h.setQueue.newHead
  · exact h
theorem State.memoriesWf.settleUnit {u b d} : (s.settleUnit u b d).memoriesWf := .ite h h.relHold
theorem State.memoriesWf.addHold {b d} : (s.addHold b d).memoriesWf := h.onDesc
theorem State.memoriesWf.culled {c} : (s.culled c).memoriesWf := h.bump
theorem State.memoriesWf.discardCopies {k keep note} (hnote : ∀ u x, u.memoriesWf → (note u x).memoriesWf) :
    (s.discardCopies k keep note).memoriesWf :=
  .ite h ((h.keepCopies.each (fun _ _ hu => hnote _ _ hu.culled)).each (fun _ _ hu => hu.settleUnit))
theorem State.memoriesWf.wred {k c} : (s.wred k c).2.memoriesWf := by
  unfold State.wred
  extract_lets q avg s1 a lo hi b
  split
  next s2 e =>
  have h2 : s2.memoriesWf := .of_snd (.ite_snd h.putQueue (.ite_snd h.putQueue h.putQueue.onCore)) e
  refine .ite_snd h2 (.ite_snd h2 ?_)
  split
  · exact h2
  · exact h2
  · exact h2
theorem State.memoriesWf.join {k c d} : (s.join k c d).memoriesWf :=
  State.memoriesWf.maybe (.qeTrack (.queueCount (.coreCount (.ite h.pushHead h.setQueue)))) fun hu => hu.coreCount
theorem State.memoriesWf.enqueueDeep {k c d} : (s.enqueueDeep k c d).2.memoriesWf := by
  unfold State.enqueueDeep
  refine .ite_snd h.coreCount.queueCount.raise.culled (.ite_snd h.wred.coreCount.queueCount.culled ?_)
  refine .ite_snd ?_ ?_
  · refine .culled (.queueCount (.coreCount ?_))
    split
    · exact .snd h.wred.coreCount.queueCount
    · exact .snd h.wred
  · refine .join ?_
    split
    · exact .snd h.wred.coreCount.queueCount
    · exact .snd h.wred
theorem State.memoriesWf.enqueue {c} : (s.enqueue c).2.memoriesWf := by
  unfold State.enqueue
  split
  · exact h
  · exact .ite_snd (.culled (.ite (.bump (.ite h h.coreCount)) (.ite h h.coreCount)))
      (.ite_snd h.enqueueDeep (.ite_snd h.portCount.culled (.ite_snd h.classCount.culled
      (.ite_snd h.classCount.raise.culled h.enqueueDeep))))
theorem State.memoriesWf.markTx {x1 reason} : (s.markTx x1 reason).memoriesWf := h.onTx
theorem State.memoriesWf.discardFrame {b d note} (hnote : ∀ u x, u.memoriesWf → (note u x).memoriesWf) :
    (s.discardFrame b d note).memoriesWf := by
  unfold State.discardFrame
  extract_lets s1 s2
  have h1 : s1.memoriesWf := h.each fun _ _ hu => hu.discardCopies fun _ _ hv => hnote _ _ hv
  have h2 : s2.memoriesWf := h1.each fun _ _ hu => .ite hu (.ifDo
    (.ite (hu.onCore.each fun _ _ hv => hnote _ _ hv.culled) (hu.onCore.each fun _ _ hv => hnote _ _
      hv.culled).settleUnit)
    fun _ hv => hv.settleUnit)
  exact h2.each fun _ _ hu => .ite hu (hu.onBridge.each fun _ _ hv => (hv.foldl fun _ _ hw => hnote _ _
    hw.culled).relHold)
theorem State.memoriesWf.tellXfer {b d f} : (s.tellXfer b d f).memoriesWf := by
  unfold State.tellXfer
  refine h.each ?_
  intro _ _ hu
  split
  · exact .ite hu.onBridge hu
  · exact hu
theorem State.memoriesWf.frameBad {b d reason} : (s.frameBad b d reason).memoriesWf := by
  unfold State.frameBad
  split
  · exact h
  · exact .ite h.onDesc ((h.onDesc.each (fun _ _ hu => hu.markTx)).tellXfer.discardFrame
      (fun _ _ hu => .ite hu.coreCount.bump hu.coreCount))

/-! ### Machine/Tx -/

theorem State.memoriesWf.preempt {p sent} : (s.preempt p sent).memoriesWf := by
  unfold State.preempt
  split
  · exact h.putTx.putTx.schedCount
  · exact h
theorem State.memoriesWf.preemptIf {p sent} : (s.preemptIf p sent).memoriesWf := by
  unfold State.preemptIf
  split
  · exact .ite h.preempt h
  · exact h
theorem State.memoriesWf.dropHead {p c note} (hnote : ∀ u, u.memoriesWf → (note u).memoriesWf) :
    (s.dropHead p c note).memoriesWf := by
  unfold State.dropHead
  split
  · exact (hnote _ h.popHead.culled).settleUnit
  · exact h
theorem State.memoriesWf.capture {p tag t} : (s.capture p tag t).memoriesWf :=
  .ite (h.onTick.ifDo (fun _ hu => hu.raise)) h.bump.raise
theorem State.memoriesWf.noteBegun {h'} : (s.noteBegun h').memoriesWf :=
  h.onDesc.each fun _ _ hu => .ite hu.onBridge hu
theorem State.memoriesWf.beginCopy {p h' sec} : (s.beginCopy p h' sec).memoriesWf := by
  unfold State.beginCopy
  extract_lets k
  split
  next s0 e =>
  have h0 : s0.memoriesWf := by
    refine .of_snd ?_ e
    split
    · exact h
    · exact .snd h.takePn
  extract_lets ts s1 no pre smd s2 q s3 s4
  have h2 : s2.memoriesWf := (h0.noteBegun.ifDo fun _ hu => hu.onSched).putTx
  have h4 : s4.memoriesWf := h2.putQueue.classCount.ifDo fun _ hu => hu.onSched
  exact .ite h4.capture h4
theorem State.memoriesWf.startCopy {p h'} : (s.startCopy p h').memoriesWf := by
  unfold State.startCopy
  extract_lets m e s1 l
  have h1 : s1.memoriesWf := h.addCtr.addCtr.ifDo fun _ hu => hu.raise
  refine .ite (h1.dropHead fun _ hu => hu.bump) (.ite (h1.dropHead fun _ hu => hu.bump) ?_)
  split
  · exact (h1.ifDo fun _ hu => hu.bump).beginCopy
  · exact h1.dropHead fun _ hu => hu.bump
  · exact h1.dropHead fun _ hu => hu.bump
  · exact .ite (h1.dropHead fun _ hu => hu.bump) (.ite (h1.dropHead fun _ hu => hu.scCount)
      (.ite (h1.dropHead fun _ hu => hu.scCount) (.ite (h1.dropHead fun _ hu => hu.scCount) h1.beginCopy)))
theorem State.memoriesWf.dropUnfit {p c n} : (s.dropUnfit p c n).memoriesWf := by
  induction n generalizing s with
  | zero => exact h
  | succ n ih =>
    unfold State.dropUnfit
    split
    · exact .ite (ih (h.dropHead fun _ hu => hu.classCount.raise)) h
    · exact h
theorem State.memoriesWf.holdHead {p c} : (s.holdHead p c).memoriesWf := by
  unfold State.holdHead
  split
  · exact .ite h.putQueue.classCount h
  · exact h
theorem State.memoriesWf.selectNow {p} : (s.selectNow p).memoriesWf := by
  unfold State.selectNow
  extract_lets s1 pick express
  have h1 : s1.memoriesWf := h.each fun _ _ hu => hu.dropUnfit.holdHead
  refine .ite h1.putTx.putTx ?_
  clear_value express pick s1
  split
  · exact h1
  · refine .ite h1 ?_
    split
    · exact h1.startCopy
    · exact h1
theorem State.memoriesWf.answerVerify {p} : (s.answerVerify p).memoriesWf := .ite h.onLink h
theorem txSelect_memoriesWf {p sent} : (txSelect p sent s).memoriesWf :=
  (h.sagSeen.maybe fun hu => hu.preemptIf).maybe fun hu => hu.answerVerify.selectNow
theorem State.memoriesWf.endTx {p t} : (s.endTx p t).memoriesWf := by
  unfold State.endTx
  extract_lets b w s0 s1 s2 s3 s4
  have h1 : s1.memoriesWf := h.portCount.portCount.onSched.ifDo fun _ hu => hu.onLink
  have h2 : s2.memoriesWf := by
    dsimp only [s2]
    split
    · exact h1.portCount.coreCount.raise
    · exact h1
  have h3 : s3.memoriesWf := by
    dsimp only [s3]
    split
    · exact h2.scCount.scCount
    · exact h2
  exact h3.forwarded.putTx.popHead.settleUnit
theorem State.memoriesWf.truncTx {p x2} : (s.truncTx p x2).memoriesWf := by
  unfold State.truncTx
  split
  · exact h.putTx.portCount.popHead.culled.settleUnit
  · exact h
theorem State.memoriesWf.pathLost {p} : (s.pathLost p).memoriesWf := h.truncTx.truncTx
theorem frameTransmitEnd_memoriesWf {p} : (frameTransmitEnd p s).memoriesWf := by
  unfold frameTransmitEnd
  split
  · exact h
  · exact .ite h.pathLost (.ite h.endTx h)
theorem txUnderrun_memoriesWf {p} : (txUnderrun p s).memoriesWf := by
  unfold txUnderrun
  dsimp only
  split
  · exact h
  · refine .ite h ?_
    split
    · exact h.markTx.raise.endTx
    · exact h.markTx.raise
theorem State.memoriesWf.holdMac {p sent} : (s.holdMac p sent).memoriesWf := .ite h h.onSched.schedCount.preemptIf
theorem State.memoriesWf.gateShut {p sent} : (s.gateShut p sent).memoriesWf := by
  unfold State.gateShut
  split
  · exact .ite h.putTx (.ite h (.ite h.preempt h.putTx.schedCount.raise))
  · exact h
theorem State.memoriesWf.gateFollow {p} : (s.gateFollow p).memoriesWf := by
  unfold State.gateFollow
  dsimp only
  exact .ite h.free.gateShut h
theorem State.memoriesWf.entryBegin {p sent} : (s.entryBegin p sent).memoriesWf :=
  .gateShut (.ite (.ite h.onGate.holdMac (.ite h.onGate.onSched h.onGate)) h.onGate)
theorem gateEntryBegin_memoriesWf {p sent} : (gateEntryBegin p sent s).memoriesWf := by
  unfold gateEntryBegin
  refine .ite ?_ h
  split
  · exact h.reach.entryBegin
  · exact h
theorem holdAssert_memoriesWf {p sent} : (holdAssert p sent s).memoriesWf := by
  unfold holdAssert
  refine .ite ?_ h
  split
  · exact h.reach.holdMac
  · exact h
theorem configChangeComplete_memoriesWf {p} : (configChangeComplete p s).memoriesWf :=
  .ite h.reach.changeComplete.gateTrack.sagPlanPort h

/-! ### Machine/Handoff -/

theorem State.memoriesWf.enqueueLearn {e' c learn} : (s.enqueueLearn e' c learn).2.memoriesWf := by
  unfold State.enqueueLearn
  dsimp only
  split
  · exact .snd (h.enqueue.ifDo (fun _ hu => hu.onFdb))
  · exact .snd h.enqueue
theorem State.memoriesWf.recoverCopy {e' r err} : (s.recoverCopy e' r err).memoriesWf := by
  unfold State.recoverCopy
  extract_lets t
  refine .ite h.seqInvalid.culled ?_
  split
  next s1 e1 =>
  have h1 : s1.memoriesWf := .of_snd h.seqCorrected.seqRecover e1
  refine .ite h1.culled ?_
  split
  next s2 e2 =>
  have h2 : s2.memoriesWf := .of_snd (.ite_snd h1.seqCorrected.seqGenerate h1) e2
  split
  · exact h2.culled
  · exact h2.enqueueLearn
theorem State.memoriesWf.countDown {t r} : (s.countDown t r).memoriesWf := h.foldl fun _ _ hu => hu.bump.culled
theorem State.memoriesWf.toBridge {t e' r} : (s.toBridge t e' r).memoriesWf :=
  .ite h.countDown (.ite (h.foldl (fun _ _ hu => hu.culled)).bump h.addHold.onBridge)
theorem State.memoriesWf.toBench {b e' r} : (s.toBench b e' r).memoriesWf := .ite h.addHold.onCore h.toBridge
theorem State.memoriesWf.toCpu {c} : (s.toCpu c).memoriesWf := .ite h.addHold.onCore h.addHold.enqueue.settleUnit
theorem State.memoriesWf.handCopies {r} : (s.handCopies r).memoriesWf :=
  (h.each (fun _ _ hu => .ite hu hu.toBench)).each fun _ _ hu => hu.toCpu
theorem State.memoriesWf.mirrorOne {b d tick ip i} : (s.mirrorOne b d tick ip i).memoriesWf := by
  unfold State.mirrorOne
  dsimp only
  split
  · exact h
  · refine .ite h ?_
    split
    · next s1 e1 =>
      exact (h.allocNow.of_snd e1).onBuf.bump.handCopies.relHold
    · next s1 e1 =>
      exact (h.allocNow.of_snd e1).bump.raise
theorem State.memoriesWf.mirrorAll {b d tick ip sessions} : (s.mirrorAll b d tick ip sessions).memoriesWf :=
  h.each fun _ _ hu => hu.mirrorOne
theorem State.memoriesWf.accept {e' r err} : (s.accept e' r err).memoriesWf :=
  .ite (h.each fun _ _ hu => .ite hu.recoverCopy (.ite hu.enqueue hu.onCore))
    (.foldl_snd (.snd h) fun _ _ hu => hu.enqueueLearn)
theorem handoffAccept_memoriesWf {b src err} : (handoffAccept b src err s).memoriesWf := by
  unfold handoffAccept
  split
  · exact h
  · exact h.onCore.accept.settleUnit
theorem State.memoriesWf.lateLength {x} : (s.lateLength x).memoriesWf := by
  unfold State.lateLength
  split
  · exact h
  · extract_lets p s1 grow
    have h1 : s1.memoriesWf := .ite h.schedCount.raise h
    split
    · exact h1
    · extract_lets s2
      have h2 : s2.memoriesWf := .ite h1.bump.markTx (.ite h1.markTx h1)
      split
      · exact .ite h2.scCount h2
      · exact h2
theorem State.memoriesWf.recharge {b d} : (s.recharge b d).memoriesWf := h.each fun _ _ hu => .ite hu.putQueue hu
theorem State.memoriesWf.lengthKnown {b d} : (s.lengthKnown b d).memoriesWf := by
  unfold State.lengthKnown
  refine .each (h.recharge.each ?_) fun _ _ hu => hu.lateLength
  intro _ _ hu
  split
  · exact hu
  · exact (hu.discardCopies (fun _ _ hu => hu.classCount)).discardCopies fun _ _ hu => hu.classCount.raise
theorem State.memoriesWf.recoverFrame {b d err} : (s.recoverFrame b d err).memoriesWf :=
  h.each (fun _ _ hu => .ite hu (hu.onCore.each (fun _ _ hu => hu.recoverCopy)).settleUnit)
theorem State.memoriesWf.releaseCpu {b d} : (s.releaseCpu b d).memoriesWf :=
  .ite h (h.onCore.each (fun _ _ hu => hu.enqueue)).settleUnit
theorem State.memoriesWf.filterLate {b d idx len} : (s.filterLate b d idx len).memoriesWf :=
  .ite (h.filterSdu.bump.tellXfer.onDesc.discardFrame (fun _ _ hu => hu)) h
theorem State.memoriesWf.receptionGood {b d len err} : (s.receptionGood b d len err).memoriesWf := by
  unfold State.receptionGood
  split
  · exact h
  · extract_lets s1 s2 s3 s4
    have h1 : s1.memoriesWf := h.each fun _ _ hu => hu.onDesc
    have h2 : s2.memoriesWf := by
      dsimp only [s2]
      split
      · exact .ite h1 h1.meterReturn.onDesc
      · exact h1
    have h3 : s3.memoriesWf := by
      dsimp only [s3]
      split
      · exact .ite h2 h2.filterLate
      · exact h2
    have h4 : s4.memoriesWf := h3.foldl fun _ _ hu => hu.lengthKnown
    exact .ite h4 h4.recoverFrame
theorem State.memoriesWf.receptionBad {b d len reason} : (s.receptionBad b d len reason).memoriesWf := by
  unfold State.receptionBad
  split
  · exact h
  · refine .each (.each (.eachLearn ?_) (fun _ _ hu => hu.frameBad)) fun _ _ hu => hu.recharge
    split
    · exact (h.each (fun _ _ hu => hu.onDesc)).meterReturn.onDesc
    · exact h.each fun _ _ hu => hu.onDesc
theorem State.memoriesWf.tagPassed {b d err} : (s.tagPassed b d err).memoriesWf := by
  unfold State.tagPassed
  split
  · exact h
  · extract_lets all s1 s2 s3
    have h1 : s1.memoriesWf := h.each fun _ _ hu => hu.onDesc
    have h2 : s2.memoriesWf := by
      dsimp only [s2]
      split
      · exact h1.meterReturn.onDesc
      · exact h1
    have h3 : s3.memoriesWf := by
      dsimp only [s3]
      split
      · exact h2.filterLate
      · exact h2
    exact h3.recoverFrame.each fun _ _ hu => hu.releaseCpu
theorem State.memoriesWf.brNext {k r} : (s.brNext k r).memoriesWf := h.onBridge.relHold
theorem State.memoriesWf.brLost {k r} : (s.brLost k r).memoriesWf := h.bump.brNext
theorem bridgeSend_memoriesWf {t k} : (bridgeSend t k s).memoriesWf := by
  unfold bridgeSend
  dsimp only
  split
  · exact h
  · exact .ite h (.ite (.ite h.brLost h) (.ite h (.ite h.onBridge.brLost h.onBridge)))
theorem State.memoriesWf.dropFifos {t} : (s.dropFifos t).memoriesWf :=
  h.each (fun _ _ hu => hu.onBridge.each (fun _ _ hu => hu.countDown.relHold))
theorem peerMarkDown_memoriesWf {t k} : (peerMarkDown t k s).memoriesWf :=
  .ite h (.ite h.onBridge h.onBridge.setFld.bump.raise.dropFifos)
theorem bridgeReceiveBegin_memoriesWf {t k} : (bridgeReceiveBegin t k s).memoriesWf := by
  unfold bridgeReceiveBegin
  dsimp only
  split
  · split
    · exact .ite h h.onBridge.request
    · exact h
  · exact h
theorem State.memoriesWf.extend {b d v} : (s.extend b d v).2.memoriesWf := by
  unfold State.extend
  split
  · next s1 e =>
    exact .snd (h.allocNow.of_snd e).linkChain.onBuf
  · next s1 e =>
    exact .snd (h.allocNow.of_snd e)
theorem State.memoriesWf.storeFrame {b d bytes n} : (s.storeFrame b d bytes n).2.memoriesWf := by
  induction n generalizing s with
  | zero => exact h
  | succ n ih =>
    unfold State.storeFrame
    split
    · exact h
    · dsimp only
      refine .ite_read h (.ite_read ?_ h.storeChain)
      split
      · next e => exact ih (.of_snd h.extend e)
      · next e => exact .snd ((State.memoriesWf.of_snd h.extend e).storeChain.each fun _ _ hu => hu.onDesc)
theorem State.memoriesWf.storeCut {b d fit} : (s.storeCut b d fit).memoriesWf := .ite h.bump.frameBad h
theorem State.memoriesWf.trimChain {b d} : (s.trimChain b d).memoriesWf := by
  unfold State.trimChain
  split
  · exact h
  · exact .ite h (h.linkChain.each (fun _ _ hu => hu.foldl (fun _ _ hu => hu.relBuf)))
theorem State.memoriesWf.handXfer {k d x3} : (s.handXfer k d x3).memoriesWf := h.onCore.onBridge
theorem State.memoriesWf.xferStore {k n whole} : (s.xferStore k n whole).memoriesWf := by
  unfold State.xferStore
  dsimp only
  split
  · exact h
  · split
    · exact h
    · exact .ite h.storeFrame.storeCut.onBridge.handXfer h.storeFrame.storeCut.onBridge
theorem State.memoriesWf.creditBack {k c} : (s.creditBack k c).memoriesWf := .ite h.onBridge.setFld.raise h.onBridge
theorem State.memoriesWf.creditAll {k} : (s.creditAll k).memoriesWf := .ite h.creditBack h
theorem bridgeCredit_memoriesWf {t k} : (bridgeCredit t k s).memoriesWf := by
  unfold bridgeCredit
  refine .ite h (.creditBack ?_)
  split
  · exact .ite h.xferStore h
  · exact h
theorem State.memoriesWf.xferOver {k bad} : (s.xferOver k bad).memoriesWf := h.eachLearn
theorem State.memoriesWf.xferGood {e' d len y err} : (s.xferGood e' d len y err).memoriesWf :=
  .ite h.receptionBad (.ite h.receptionBad (.ite (h.onDesc.discardFrame (fun _ _ hu => hu)).lengthKnown
    h.receptionGood))
theorem bridgeReceiveEnd_memoriesWf {t k ok err} : (bridgeReceiveEnd t k ok err s).memoriesWf := by
  unfold bridgeReceiveEnd
  extract_lets key e x far s1 s2
  have h1 : s1.memoriesWf := h.bump.bump
  have h2 : s2.memoriesWf := .ite h1 h1.bump.raise
  split
  · refine .ite h ?_
    extract_lets len s3 s4
    have h3 : s3.memoriesWf := h2.xferStore
    have h4 : s4.memoriesWf := by
      dsimp only [s4]
      split
      · exact h3
      · exact .ite h3.trimChain.xferGood h3.trimChain.receptionBad
    exact h4.xferOver.creditAll.brNext
  · exact h
theorem bridgeAbandon_memoriesWf {t k} : (bridgeAbandon t k s).memoriesWf := by
  unfold bridgeAbandon
  extract_lets key e x s1
  split
  · exact h
  · extract_lets gone s2 s3
    have hgone {u : State} (hu : u.memoriesWf) : (gone u).memoriesWf := hu.each fun _ _ hv => hv.coreCount
    have h2 : s2.memoriesWf := by
      dsimp only [s2]
      split
      · exact .ite h.bump.trimChain.receptionBad ((hgone h.bump.trimChain.receptionBad).each fun _ _ hu =>
          hu.culled).relHold
      · exact hgone h.bump
    have h3 : s3.memoriesWf := h2.xferOver.creditAll
    split
    · exact .ite h3.brNext h3.onBridge
    · exact h3.onBridge
theorem stagePromote_memoriesWf {b q} : (stagePromote b q s).memoriesWf := by
  unfold stagePromote
  dsimp only
  split
  · exact .ite h.putQueue.pushHead.coreCount h
  · exact h

/-! ### Machine/Image -/

theorem State.memoriesWf.imageAccess {c n} : (s.imageAccess c n).memoriesWf := by
  unfold State.imageAccess
  dsimp only
  exact h.free.free.addCtr.addCtr
theorem State.memoriesWf.imageBlock {t} : (s.imageBlock t).memoriesWf := by
  unfold State.imageBlock
  dsimp only
  exact h.free.each fun _ _ hu => hu.imageAccess
theorem State.memoriesWf.onImage {t f} : (s.onImage t f).memoriesWf := .ite h.onHalf.imageBlock h
theorem State.memoriesWf.imageTabs {b f} : (s.imageTabs b f).memoriesWf := h.onImage
theorem State.memoriesWf.imageMeter {t i w} : (s.imageMeter t i w).memoriesWf := h.onImage
theorem State.memoriesWf.imageFilter {t i w} : (s.imageFilter t i w).memoriesWf := h.onImage
theorem State.memoriesWf.imageHash {b k h'} : (s.imageHash b k h').memoriesWf := .ite h h.imageTabs

/-! ### Machine/Hub -/

theorem State.memoriesWf.putHash {b k h'} : (s.putHash b k h').memoriesWf := by
  unfold State.putHash
  refine .ite ?_ h.imageHash.onTabs
  split
  · exact h.imageHash.onTabs.raise
  · exact .ite h.imageHash.onTabs.raise h.imageHash.onTabs
  · exact .ite h.imageHash.onTabs.raise h.imageHash.onTabs
theorem State.memoriesWf.commitHash {b c k} : (s.commitHash b c k).2.memoriesWf := by
  unfold State.commitHash
  dsimp only
  split
  · exact h
  · exact .snd (.ite h h.putHash)
theorem State.memoriesWf.commitCiph {n c k} : (s.commitCiph n c k).2.memoriesWf := .ite_snd h h.onCiph
theorem State.memoriesWf.commitSq {t c} : (s.commitSq t c).2.memoriesWf :=
  .ite (h.onTeam.onImage.bump.ifDo (fun _ hu => hu.watchReset)) h.onTeam.onImage
theorem State.memoriesWf.commitFlush {b c} : (s.commitFlush b c).2.memoriesWf := h.imageHash.onTabs.addCtr
theorem State.memoriesWf.commitClass {b c} : (s.commitClass b c).2.memoriesWf :=
  .ite_snd (.ite h.raise h) (.ite h.onTabs.wrL h.onTabs)
theorem State.memoriesWf.commitUnit {u c} : (s.commitUnit u c).2.2.memoriesWf := by
  unfold State.commitUnit
  split
  · exact .snd h.commitFlush
  · exact .snd h.commitClass
  · exact .snd h.commitSq
  · exact h
  · split
    · exact .snd h.commitHash
    · split
      · exact .snd h.commitCiph
      · exact .snd h.commitCiph
      · exact .snd h.commitCiph
      · exact .snd h.imageMeter.onTeam
      · exact .snd h.imageFilter.onTeam
      · exact .snd h.imageTabs.onTabs
    · exact h
theorem State.memoriesWf.failRecord {p status table team tag} : (s.failRecord p status table team tag).memoriesWf := by
  unfold State.failRecord
  refine .ite h.onFailLog (.raise ?_)
  split
  · exact h.bump
  · exact h
theorem State.memoriesWf.countFull {c u} : (s.countFull c u).memoriesWf := by
  unfold State.countFull
  split
  · exact h.bump
  · exact h.bump
  · exact h.bump
theorem State.memoriesWf.finalTable {c} : (s.finalTable c).memoriesWf := by
  unfold State.finalTable
  extract_lets s1 s2 s3 s4
  have h1 : s1.memoriesWf := h.each fun _ _ hu => .ite hu.failRecord.countFull.raise hu.failRecord
  have h2 : s2.memoriesWf := .ite (h1.each fun _ _ hu => hu.wr) h1
  have h4 : s4.memoriesWf := .ite h2.wr.wr h2.wr
  exact .ite h2 (.ite h2.wr.raise (.ite h4.wr h4))
theorem State.memoriesWf.finalFlush {c} : (s.finalFlush c).memoriesWf := h.onFdb
theorem State.memoriesWf.finalCmd {c} : (s.finalCmd c).memoriesWf := by
  unfold State.finalCmd
  split
  · exact h.finalFlush
  · exact h
  · exact h
  · exact h.finalTable
theorem State.memoriesWf.commitCmds {u n l} : (s.commitCmds u n l).2.memoriesWf := by
  induction l generalizing s with
  | nil => exact h
  | cons c l ih =>
    unfold State.commitCmds
    dsimp only
    exact .ite_snd (ih (.ite h.commitUnit.finalCmd h.commitUnit)) (ih h)
theorem State.memoriesWf.putTr {p meta_ key data} : (s.putTr p meta_ key data).memoriesWf :=
  (h.each (fun _ _ hu => hu.wr)).wr.each fun _ _ hu => hu.wr
theorem State.memoriesWf.readTable {c} : (s.readTable c).2.memoriesWf := by
  unfold State.readTable
  dsimp only
  split
  · split
    · exact h
    · exact .snd h.putTr
    · exact .snd h.putTr
  · split
    · exact .snd (h.wr.wr.each (fun _ _ hu => hu.withCtrs)).putTr
    · exact .snd (h.each (fun _ _ hu => hu.withCtrs)).putTr
    · exact .snd h.putTr
    · exact .snd h.putTr
    · exact .snd h.putTr
    · exact .snd h.putTr
  · exact h
theorem State.memoriesWf.bankWrite {c} : (s.bankWrite c).2.memoriesWf := by
  unfold State.bankWrite
  dsimp only
  split
  · split
    · exact h
    · exact .snd h.free
  · exact h
theorem State.memoriesWf.sigTouched {c} : (s.sigTouched c).memoriesWf := by
  unfold State.sigTouched
  split
  · exact h.each fun _ _ hu => hu.onSig
  · exact h
theorem State.memoriesWf.staleCmds {p k} : (s.staleCmds p k).memoriesWf := h.withHub
theorem State.memoriesWf.countQuota {c} : (s.countQuota c).memoriesWf := h.each fun _ _ hu => hu.withHub
theorem State.memoriesWf.acceptWrite {c} : (s.acceptWrite c).memoriesWf :=
  ((h.countQuota.each fun _ _ hu => hu.hubMissing).each fun _ _ hu => hu.hubBack).either
    (fun hu => hu.finalCmd) (fun hu => hu.withHub)
theorem State.memoriesWf.endAll {c d} : (s.endAll c d).memoriesWf := h.finalCmd
theorem State.memoriesWf.startTable {c} : (s.startTable c).memoriesWf := by
  unfold State.startTable
  extract_lets s0 s1
  have h0 : s0.memoriesWf := h.staleCmds.wr
  have h1 : s1.memoriesWf := .ite h0.wr (.ite h0.wr h0)
  exact .ite h1.endAll (.ite h1.bankWrite.sigTouched.acceptWrite (.ite h1.readTable.endAll
    (h1.each fun _ _ hu => hu.hubMissing).endAll))
theorem State.memoriesWf.startSq {c} : (s.startSq c).memoriesWf :=
  .ite h.staleCmds.wr.endAll (.ite (h.staleCmds.wr.each (fun _ _ hu => hu.wr)).endAll h.staleCmds.wr.acceptWrite)
theorem State.memoriesWf.startSearch {c} : (s.startSearch c).memoriesWf := by
  unfold State.startSearch
  dsimp only
  refine .ite h.onFdb ?_
  split
  · exact (h.each (fun _ _ hu => hu.wr)).acceptWrite
  · exact (h.each (fun _ _ hu => hu.wr)).wr.raise
  · split
    · exact (h.each (fun _ _ hu => hu.wr)).onFdb
    · exact (h.each (fun _ _ hu => hu.wr)).onFdb
theorem State.memoriesWf.startMbox {c} : (s.startMbox c).memoriesWf := .ite h h.mboxRun
theorem State.memoriesWf.startCmd {c} : (s.startCmd c).memoriesWf := by
  unfold State.startCmd
  split
  · exact h.startTable
  · exact h.startSq
  · exact h.startSearch
  · exact h.startSearch
  · exact h.startMbox
  · exact h.acceptWrite
  · exact h.acceptWrite
theorem State.memoriesWf.submit {c} : (s.submit c).memoriesWf := .ite h.hold h.startCmd
theorem State.memoriesWf.unitCommit {u n} : (s.unitCommit u n).memoriesWf := .ite h.commitCmds.withHub h
theorem State.memoriesWf.accMissing {a} : (s.accMissing a).memoriesWf := by
  unfold State.accMissing
  split
  · exact h.hubMissing.withResp
  · exact h.hubMissing
theorem State.memoriesWf.dropUnits {t} : (s.dropUnits t).memoriesWf :=
  (h.withHub.each (fun _ _ hu => hu.finalCmd)).each fun _ _ hu => hu.accMissing

/-! ### Machine/BufCmd -/

theorem holderRelease_memoriesWf {b agent desc n} : (holderRelease b agent desc n s).memoriesWf :=
  .ite h.relHold (.ite h.relBuf h)
theorem State.memoriesWf.eccFrame {b d} : (s.eccFrame b d).memoriesWf := .ite h.onMar.cullet.bump h.frameBad
theorem bufferDataUe_memoriesWf {b ce d g} : (bufferDataUe b ce d g s).memoriesWf := by
  unfold bufferDataUe
  refine .ite h (.ite ?_ h.addCtr)
  split
  · exact h.addCtr.bump.raise.onBuf.eccFrame
  · exact h.addCtr.bump.raise.onBuf
theorem bufferHeaderUe_memoriesWf {b g} : (bufferHeaderUe b g s).memoriesWf :=
  .ite (h.bump.raise.onBuf.poolTrack.each (fun _ _ hu => hu.eccFrame)) h
theorem State.memoriesWf.bcmdWrite {b v pass} : (s.bcmdWrite b v pass).memoriesWf := h.submit
theorem mboxWrite_memoriesWf {b v pass} : (mboxWrite b v pass s).memoriesWf :=
  h.hubAccess (fun _ hu => hu.hostWrite (fun _ hu => hu.bcmdWrite))
theorem mboxAlloc_memoriesWf {b pool} : (mboxAlloc b pool s).memoriesWf := mboxWrite_memoriesWf h
theorem mboxFree_memoriesWf {b handle} : (mboxFree b handle s).memoriesWf := mboxWrite_memoriesWf h
theorem mboxAddref_memoriesWf {b handle} : (mboxAddref b handle s).memoriesWf := mboxWrite_memoriesWf h
theorem mboxReadhdr_memoriesWf {b handle} : (mboxReadhdr b handle s).memoriesWf := mboxWrite_memoriesWf h
theorem mboxReclaim_memoriesWf {b pass} : (mboxReclaim b pass s).memoriesWf := mboxWrite_memoriesWf h
theorem mboxBadOp_memoriesWf {b op} : (mboxBadOp b op s).memoriesWf := mboxWrite_memoriesWf h
theorem bufferWindowAccess_memoriesWf {b k w} : (bufferWindowAccess b k w s).memoriesWf := by
  unfold bufferWindowAccess
  split
  · exact h.wordRead fun _ hu => hu.bwinRead
  · exact h.wordWrite fun _ hu => hu.bwinWrite

/-! ### Machine/Tables -/

theorem State.memoriesWf.twCmd {p v} : (s.twCmd p v).memoriesWf := h.submit
theorem twWrite_memoriesWf {w table op} : (twWrite w table op s).memoriesWf := h.wordWrite fun _ hu => hu.twCmd
theorem twInsert_memoriesWf {w table} : (twInsert w table s).memoriesWf := twWrite_memoriesWf h
theorem twDelete_memoriesWf {w table} : (twDelete w table s).memoriesWf := twWrite_memoriesWf h
theorem twSearch_memoriesWf {w table} : (twSearch w table s).memoriesWf := twWrite_memoriesWf h
theorem twRead_memoriesWf {w table} : (twRead w table s).memoriesWf := twWrite_memoriesWf h
theorem twWriteEntry_memoriesWf {w table} : (twWriteEntry w table s).memoriesWf := twWrite_memoriesWf h
theorem twBadOp_memoriesWf {w table op} : (twBadOp w table op s).memoriesWf := twWrite_memoriesWf h
theorem keySlotWrite_memoriesWf {c load} : (keySlotWrite c load s).memoriesWf :=
  .ite ((h.wordWrite fun _ hu => hu).wordWrite fun _ hu => hu) (h.hostWrite fun _ hu => hu.setFld.twCmd)
theorem keySlotLoad_memoriesWf {c} : (keySlotLoad c s).memoriesWf := keySlotWrite_memoriesWf h
theorem keySlotZero_memoriesWf {c} : (keySlotZero c s).memoriesWf := keySlotWrite_memoriesWf h
theorem State.memoriesWf.sqCmd {p v} : (s.sqCmd p v).memoriesWf := h.submit
theorem sqWriteOp_memoriesWf {b op} : (sqWriteOp b op s).memoriesWf := h.wordWrite fun _ hu => hu.sqCmd
theorem sqRead_memoriesWf {b} : (sqRead b s).memoriesWf := sqWriteOp_memoriesWf h
theorem sqWrite_memoriesWf {b} : (sqWrite b s).memoriesWf := sqWriteOp_memoriesWf h
theorem sqReset_memoriesWf {b} : (sqReset b s).memoriesWf := sqWriteOp_memoriesWf h
theorem sqBadOp_memoriesWf {b op} : (sqBadOp b op s).memoriesWf := sqWriteOp_memoriesWf h
theorem State.memoriesWf.srchCmd {p v} : (s.srchCmd p v).memoriesWf := h.submit
theorem searchWrite_memoriesWf {b v} : (searchWrite b v s).memoriesWf := h.wordWrite fun _ hu => hu.srchCmd
theorem searchFirst_memoriesWf {b} : (searchFirst b s).memoriesWf := searchWrite_memoriesWf h
theorem searchNext_memoriesWf {b} : (searchNext b s).memoriesWf := searchWrite_memoriesWf h
theorem searchFlush_memoriesWf {b mask} : (searchFlush b mask s).memoriesWf := searchWrite_memoriesWf h
theorem searchReserved_memoriesWf {b} : (searchReserved b s).memoriesWf := searchWrite_memoriesWf h
theorem State.memoriesWf.searchFinal {b} : (s.searchFinal b).memoriesWf := by
  unfold State.searchFinal
  split
  · exact h
  · exact h.onFdb.wr.wr.wr.wr.wr.raise
theorem State.memoriesWf.seedWrite {b k w v} : (s.seedWrite b k w v).memoriesWf := .ite h.wrL h.raise
theorem State.memoriesWf.rtclassWrite {t c v} : (s.rtclassWrite t c v).memoriesWf := h.acceptWrite
theorem State.memoriesWf.swapAccept {t both} : (s.swapAccept t both).memoriesWf := h.putSwap.setFld.wr
theorem State.memoriesWf.swapRequest {t copy} : (s.swapRequest t copy).memoriesWf :=
  (h.maybe fun hu => hu.hubMissing).either (fun hu => hu.bump.setFld.raise)
    (fun hu => hu.swapAccept.maybe fun hv => hv.hubBack.swapAccept)
theorem State.memoriesWf.swapCommit {b n} : (s.swapCommit b n).memoriesWf := by
  unfold State.swapCommit
  dsimp only
  split
  · exact h
  · exact .ite (.ite h.imageTabs.onTabs.putSwap.setFld.setFld h.imageTabs.onTabs.putSwap) h
theorem State.memoriesWf.swapDrain {t} : (s.swapDrain t).memoriesWf := by
  unfold State.swapDrain
  split
  · exact .ite h.putSwap.setFld.setFld.raise h
  · exact h

/-! ### Machine/Fdb -/

theorem State.memoriesWf.learnCount {b c} : (s.learnCount b c).memoriesWf := h.bump
theorem State.memoriesWf.learnDo {b o} : (s.learnDo b o).memoriesWf := h.onFdb
theorem State.memoriesWf.trackMove {b t dom addr before} : (s.trackMove b t dom addr before).memoriesWf := by
  unfold State.trackMove
  refine .ite h.putFdb (.ite h.putFdb ?_)
  split
  · exact h.putFdb.learnCount
  · exact h
theorem State.memoriesWf.learnMove {b r before} : (s.learnMove b r before).memoriesWf := by
  unfold State.learnMove
  refine .ite ?_ h.learnDo.learnCount
  split
  · exact .ite h.learnDo h.learnDo.learnCount.trackMove
  · exact h.learnDo.learnCount.trackMove
theorem State.memoriesWf.learnHandle {b r} : (s.learnHandle b r).memoriesWf := by
  unfold State.learnHandle
  dsimp only
  split
  · exact .ite h.learnCount.raise h.learnDo.learnCount
  · exact .ite h.learnCount (.ite h.learnDo.learnCount (.ite h.learnCount h.learnMove))
theorem learnRequest_memoriesWf {b} : (learnRequest b s).memoriesWf := by
  unfold learnRequest
  split
  · exact h
  · exact .ite h.onFdb.learnCount (.ite h.onFdb.onFdb.learnCount (.ite h.onFdb.onFdb.learnCount
      h.onFdb.onFdb.learnHandle))
theorem State.memoriesWf.lcfgFdbWrite {b v} : (s.lcfgFdbWrite b v).memoriesWf := .ite h.plainWrite.onFdb h.plainWrite
theorem State.memoriesWf.agecfgWrite {b v} : (s.agecfgWrite b v).memoriesWf := .ite h.plainWrite.onFdb h.plainWrite
theorem agingVisit_memoriesWf {b} : (agingVisit b s).memoriesWf := .ite h.putFdb h
theorem State.memoriesWf.mergeHits {b} : (s.mergeHits b).memoriesWf := h.onTabs
theorem State.memoriesWf.ageKey {b e'} : (s.ageKey b e').memoriesWf := by
  unfold State.ageKey
  refine .ite h ?_
  split
  · exact h.onTabs
  · exact h.onTabs.learnCount
theorem State.memoriesWf.removals {b n} : (s.removals b n).memoriesWf :=
  ((h.each (fun _ _ hu => hu.ageKey)).onTabs.addCtr.each (fun _ _ hu => hu.each (fun _ _ hu => hu.onTabs))).onFdb
theorem State.memoriesWf.flapCommit {b o} : (s.flapCommit b o).memoriesWf := by
  unfold State.flapCommit
  split
  · exact h
  · exact .ite h.learnCount.raise.onFdb h.learnCount.raise.learnCount
theorem State.memoriesWf.learnsCommit {b} : (s.learnsCommit b).memoriesWf := by
  unfold State.learnsCommit
  dsimp only
  exact (h.putHash.each (fun _ _ hu => hu.flapCommit)).onFdb
theorem State.memoriesWf.fdbEdge {b n} : (s.fdbEdge b n).memoriesWf := by
  unfold State.fdbEdge
  dsimp only
  exact h.mergeHits.removals.learnsCommit.onFdb
theorem signatureCheck_memoriesWf {t} : (signatureCheck t s).memoriesWf :=
  .ite (.ite (.ite h.putSig.bump.bump.raise.bump h.putSig.bump.bump.raise) h.putSig.bump) h
theorem State.memoriesWf.failLogPop {p} : (s.failLogPop p).2.memoriesWf := by
  unfold State.failLogPop
  split
  · exact h
  · exact .snd h.putFailLog
theorem State.memoriesWf.flapLogPop {b} : (s.flapLogPop b).2.memoriesWf := by
  unfold State.flapLogPop
  split
  · exact h
  · exact .snd h.onFdb.wr.wr.wr
theorem State.memoriesWf.sigLogPop {t} : (s.sigLogPop t).2.memoriesWf := by
  unfold State.sigLogPop
  split
  · exact h
  · exact .snd h.onSig
theorem State.memoriesWf.pnLogPop {c} : (s.pnLogPop c).2.memoriesWf := by
  unfold State.pnLogPop
  split
  · exact h
  · exact .snd h.onCiph
theorem State.memoriesWf.mirrWrite {off v} : (s.mirrWrite off v).memoriesWf :=
  .ite h.plainWrite (h.plainWrite.each (fun _ _ hu => hu.onMirror))
theorem State.memoriesWf.mirrCommit {b n} : (s.mirrCommit b n).memoriesWf :=
  .ite h (h.onMirror.each (fun _ _ hu => .ite hu hu.wr))

/-! ### Machine/Crucible -/

theorem State.memoriesWf.setCh {c v} : (s.setCh c v).memoriesWf := h.setFld
theorem State.memoriesWf.setHalf {t v} : (s.setHalf t v).memoriesWf := h.setFld
theorem State.memoriesWf.chanCount {c k n} : (s.chanCount c k n).memoriesWf := h.addCtr
theorem State.memoriesWf.halfCount {t k n} : (s.halfCount t k n).memoriesWf := h.addCtr
theorem State.memoriesWf.access {c u} : (s.access c u).memoriesWf := .ite h.chanCount h.onChan.chanCount
theorem State.memoriesWf.accessAll {c l} : (s.accessAll c l).memoriesWf := h.each fun _ _ hu => hu.access
theorem State.memoriesWf.serve {c} : (s.serve c).memoriesWf := .ite h h.putChan.accessAll
theorem State.memoriesWf.issue {c write k seq us} : (s.issue c write k seq us).memoriesWf := .ite h h.onChan.serve
theorem State.memoriesWf.takeSlab {c} : (s.takeSlab c).2.memoriesWf := h.putChan.issue
theorem State.memoriesWf.loseList {c} : (s.loseList c).memoriesWf := h.putChan.halfCount.raise
theorem State.memoriesWf.freeSlab {c n} : (s.freeSlab c n).memoriesWf := .ite h h.putChan.issue
theorem State.memoriesWf.closeTail {k} : (s.closeTail k).memoriesWf := by
  unfold State.closeTail
  dsimp only
  split
  · exact h
  · exact h.putQueue
theorem State.memoriesWf.linkTail {k c n} : (s.linkTail k c n).memoriesWf := by
  unfold State.linkTail
  dsimp only
  split
  · exact h.closeTail
  · exact h.closeTail.putQueue.issue.issue
theorem State.memoriesWf.newSlab {k} : MaybeWf (s.newSlab k) := by
  unfold State.newSlab
  split
  · exact .none
  · exact .some h.takeSlab.linkTail.onQueue
theorem State.memoriesWf.writeUnits {k seq fuel n head} : MaybeWf (s.writeUnits k seq fuel n head) := by
  induction fuel generalizing s n head with
  | zero => exact .none
  | succ fuel ih =>
    unfold State.writeUnits
    refine .ite (.some h) (.ite ?_ ?_)
    · split
      · next e => exact ih (h.newSlab _ e)
      · exact .none
    · split
      · exact .none
      · exact ih h.putQueue.issue
theorem State.memoriesWf.freqStart {point} : (s.freqStart point).memoriesWf :=
  h.withPhy.setFld.setFld.setFld.each (fun _ _ hu => .ite hu.setCh.onChan (.ite hu.onChan hu))
theorem State.memoriesWf.stepOver {c} : (s.stepOver c).memoriesWf := .ite h (.ite h.freqStart h.withPhy)
theorem State.memoriesWf.freqRequest {point} : (s.freqRequest point).memoriesWf :=
  .ite h (.ite h.setFld.bump.raise (.ite h.setFld.setFld (.ite h.freqStart h.setFld.setFld.withPhy.bump)))
theorem State.memoriesWf.refuseMove {k c} : (s.refuseMove k c).memoriesWf := h.halfCount.coreCount.raise
theorem State.memoriesWf.takeMove {k c d} : MaybeWf (s.takeMove k c d) := by
  unfold State.takeMove
  dsimp only
  split
  · exact .none
  · next e => exact .some (.ite (h.writeUnits _ e).setQueue.coreCount.halfCount.setFld
      (h.writeUnits _ e).setQueue.coreCount.halfCount)
theorem State.memoriesWf.badWord {k c d} : (s.badWord k c d).memoriesWf := by
  unfold State.badWord
  refine .ite h ?_
  split
  · exact h.loseList
  · exact h
theorem State.memoriesWf.pointForSpill : s.pointForSpill.memoriesWf := .ite h.freqRequest h
theorem spillMove_memoriesWf {b q bad} : (spillMove b q bad s).memoriesWf := by
  unfold spillMove
  dsimp only
  split
  · exact h
  · split
    · exact h
    · refine .ite h (.ite h.refuseMove.pointForSpill ?_)
      refine .ite h.refuseMove.pointForSpill ?_
      split
      · next s1 e2 =>
        exact .pointForSpill (.takeMove (.ite h.badWord h) _ e2)
      · exact .pointForSpill (.refuseMove (.ite h.badWord h))
theorem State.memoriesWf.readUnits {k r seq n} : (s.readUnits k r seq n).memoriesWf := h.each fun _ _ hu => hu.issue
theorem State.memoriesWf.readFront {k} : (s.readFront k).memoriesWf := by
  unfold State.readFront
  dsimp only
  split
  · exact h
  · exact .ite h h.putQueue.readUnits
theorem State.memoriesWf.freePassed {k} : (s.freePassed k).memoriesWf := h.putQueue.foldl fun _ _ hu => hu.freeSlab
theorem State.memoriesWf.leaveMid {k} : (s.leaveMid k).memoriesWf :=
  .ite h.setQueue.freePassed.putQueue h.setQueue.freePassed.readFront
theorem returnRound_memoriesWf {b q} : (returnRound b q s).memoriesWf := .ite h.putQueue.readFront (.ite h.readFront h)
theorem State.memoriesWf.enterHead {k r} : (s.enterHead k r).memoriesWf := by
  unfold State.enterHead
  dsimp only
  refine .ite h.coreCount ?_
  split
  · exact h.allocNow.storeChain.setQueue.pushHead.coreCount.halfCount.qeTrack.leaveMid
  · exact h.allocNow.bump
theorem spillReturn_memoriesWf {b q} : (spillReturn b q s).memoriesWf := by
  unfold spillReturn
  refine .ite ?_ h
  split
  · exact h
  · exact .ite h.onHalf.halfCount.bump.leaveMid h.onHalf.enterHead
theorem spillWriteComplete_memoriesWf {b q seq} : (spillWriteComplete b q seq s).memoriesWf := by
  unfold spillWriteComplete
  dsimp only
  split
  · exact h
  · exact h.putQueue.settleUnit.readFront
theorem State.memoriesWf.wroteUnits {r} : (s.wroteUnits r).memoriesWf := .ite h.onQueue h
theorem retryWindowExit_memoriesWf {c n stall} : (retryWindowExit c n stall s).memoriesWf :=
  (h.putChan.foldl (fun _ _ hu => hu.wroteUnits)).chanCount.serve
theorem State.memoriesWf.retrain {c} : (s.retrain c).memoriesWf := by
  unfold State.retrain
  refine .ite h (h.setCh.chanCount.raise.onChan.each ?_)
  intro _ _ hu
  split
  · exact .ite hu.closeTail hu
  · exact hu
theorem parityAlert_memoriesWf {c} : (parityAlert c s).memoriesWf :=
  .ite h (.ite h.chanCount.onChan.chanCount.retrain h.chanCount.onChan.chanCount.accessAll)
theorem hbmRefresh_memoriesWf {c bank busy} : (hbmRefresh c bank busy s).memoriesWf :=
  .ite h (.ite h.onChan (.ite h.onChan.chanCount h.onChan))
theorem State.memoriesWf.loseMid {k lost} : (s.loseMid k lost).2.memoriesWf :=
  .ite_snd h ((h.setQueue.each fun _ _ hu => .ite hu hu.settleUnit).freePassed.either
    (fun hu => hu.onQueue) (fun hu => hu.readFront))
theorem State.memoriesWf.flushMid {k} : (s.flushMid k).memoriesWf := (h.each (fun _ _ hu => hu.readUnits)).loseMid
theorem State.memoriesWf.failHalf {t} : (s.failHalf t).memoriesWf := by
  unfold State.failHalf
  refine .ite h ?_
  split
  next s1 e =>
  have h1 : s1.memoriesWf := .of_snd (.foldl_snd (.snd h) fun _ _ hr => .snd (State.memoriesWf.loseMid hr)) e
  exact .ite h1.setHalf.halfCount.raise h1.setHalf.halfCount.raise.raise
theorem State.memoriesWf.breakChain {k n dead} : (s.breakChain k n dead).memoriesWf :=
  (h.loseMid.onQueue.foldl fun _ _ hu => hu.onChan).halfCount.halfCount.either (fun hu => hu) (fun hu => hu.raise)
theorem State.memoriesWf.readLink {k x2} : (s.readLink k x2).memoriesWf := h.issue
theorem State.memoriesWf.retireQueue {c k} : (s.retireQueue c k).2.memoriesWf := by
  unfold State.retireQueue
  refine .each ?_ fun _ _ hu => hu.readLink
  split
  · refine .breakChain ?_
    split
    · exact .ite h.closeTail h
    · exact h
  · refine .loseMid ?_
    split
    · exact .ite h.closeTail h
    · exact h
theorem State.memoriesWf.retire {c why} : (s.retire c why).memoriesWf := by
  unfold State.retire
  extract_lets t s1
  have h1 : s1.memoriesWf := h.setCh.setFld.raise
  split
  next s2 e =>
  have h2 : s2.memoriesWf := .of_snd (.foldl_snd (.snd h1) fun _ _ hr => .snd (State.memoriesWf.retireQueue hr)) e
  exact .ite h2.chanCount.halfCount.onChan.onHalf.failHalf h2.chanCount.halfCount.onChan.onHalf
theorem State.memoriesWf.crucibleUe {c place k n} : (s.crucibleUe c place k n).memoriesWf := by
  unfold State.crucibleUe
  split
  · exact h.onQueue
  · split
    · exact h.loseMid
    · exact h
  · split
    · exact h
    · exact .ite h.readLink.breakChain h.readLink.loseMid
  · split
    · exact h
    · exact .ite h.readLink.breakChain h.readLink.loseMid
  · exact h.onChan.halfCount.raise
  · exact .ite h.onHalf h
theorem hbmEccError_memoriesWf {c ue place b q n} : (hbmEccError c ue place b q n s).memoriesWf :=
  .ite h (.ite h.chanCount.raise.crucibleUe (.ite h.chanCount.putChan.retrain h.chanCount.putChan))
theorem State.memoriesWf.halfTrack {t} : (s.halfTrack t).memoriesWf := .ite h.setHalf h
theorem trainingStart_memoriesWf {c} : (trainingStart c s).memoriesWf :=
  .ite h (.ite h.setCh.onChan.setFld.setHalf h.setCh.onChan.setFld)
theorem State.memoriesWf.trained {c} : (s.trained c).memoriesWf :=
  .serve (.halfTrack (.ite h.setCh.onChan.withLehr.setL.raise h.setCh.onChan.withLehr.setL))
theorem State.memoriesWf.repair {c ca dq} : MaybeWf (s.repair c ca dq) :=
  .ite .none (.some (h.each (fun _ _ hu => hu.setFld.setL.chanCount.raise)))
theorem trainingStepDone_memoriesWf {c pass ca lanes} : (trainingStepDone c pass ca lanes s).memoriesWf := by
  unfold trainingStepDone
  refine .ite h (.stepOver (.ite ?_ ?_))
  · exact .ite h.setFld.onChan.onChan.trained h.setFld.onChan.onChan
  · refine .ite h.setFld.onChan.retire.halfTrack ?_
    split
    · exact h.setFld.onChan.retire.halfTrack
    · next s2 e =>
      exact (h.setFld.onChan.repair _ e).onChan
theorem State.memoriesWf.chCmdWrite {c v} : (s.chCmdWrite c v).memoriesWf := .ite h.retrain h
theorem State.memoriesWf.setStackTemp {t} : (s.setStackTemp t).memoriesWf :=
  .ite h.setFld.withPhy.raise h.setFld.withPhy
theorem tempRetrain_memoriesWf {c t} : (tempRetrain c t s).memoriesWf := .ite h.setStackTemp.retrain h.setStackTemp
theorem State.memoriesWf.freqCtrlWrite {v} : (s.freqCtrlWrite v).memoriesWf := .ite h.freqRequest h
theorem freqChangeDone_memoriesWf : (freqChangeDone s).memoriesWf := by
  unfold freqChangeDone
  split
  · exact h
  · exact .ite ((h.withPhy.each (fun _ _ hu => hu.serve)).setFld.bump.raise.maybe fun hu => hu.freqStart) h
theorem halfFailed_memoriesWf {t phy} : (halfFailed t phy s).memoriesWf := .ite h.failHalf.failHalf.raise h.failHalf
theorem State.memoriesWf.imgCtrlWrite {t v} : (s.imgCtrlWrite t v).memoriesWf :=
  .ite (.setFld (.setFld (.onHalf (.ite h.onHalf.setFld h)))) (.ite h.onHalf.setFld h)
theorem imageCopyDone_memoriesWf {t} : (imageCopyDone t s).memoriesWf :=
  .ite (h.setFld.onHalf.each (fun _ _ hu => .ite hu hu.imageAccess)) h
theorem State.memoriesWf.imageEdge {t} : (s.imageEdge t).memoriesWf := .ite h.onHalf.setFld.raise h

/-! ### Machine/Ports -/

theorem State.memoriesWf.linkTrack {p} : (s.linkTrack p).memoriesWf :=
  h.setPortFld.setPortFld.setPortFld.setPortFld.setPortFld
theorem State.memoriesWf.rclkTrack : s.rclkTrack.memoriesWf :=
  h.each (fun _ _ hu => hu.setFld.ifDo (fun _ hu => hu.raise))
theorem State.memoriesWf.linksTrack {ps} : (s.linksTrack ps).memoriesWf :=
  (h.each (fun _ _ hu => hu.linkTrack)).rclkTrack
theorem State.memoriesWf.mmTrack {p} : (s.mmTrack p).memoriesWf := h.setPortFld.setPortFld
theorem State.memoriesWf.setLstate {p n} : (s.setLstate p n).memoriesWf :=
  .ite h h.setPortFld.setPortFld.setFld.onLink.portRaise.mmTrack.sagPlanPort
theorem State.memoriesWf.portFlush {p} : (s.portFlush p).memoriesWf := by
  unfold State.portFlush
  refine .each ?_ (fun _ _ hu => (hu.discardCopies (fun _ _ hu => hu.portCount)).portCount.flushMid)
  split
  · exact h.putTx.portCount.popHead.culled.settleUnit
  · exact h
theorem State.memoriesWf.learnedFlush {p} : (s.learnedFlush p).memoriesWf := .ite (h.each (fun _ _ hu => hu.onFdb)) h
theorem State.memoriesWf.holdExpired {p} : (s.holdExpired p).memoriesWf :=
  h.portFlush.learnedFlush.setLstate.setPortFld.portRaise
theorem State.memoriesWf.checkPath {p} : (s.checkPath p).memoriesWf := .ite h h.pathLost
theorem State.memoriesWf.unsupported {p} : (s.unsupported p).memoriesWf := h.setPortFld.portRaise
theorem State.memoriesWf.fecTrack {p} : (s.fecTrack p).memoriesWf := .ite h h.unsupported
theorem State.memoriesWf.pcfgWrite {p v} : (s.pcfgWrite p v).memoriesWf :=
  .linksTrack (.ifDo (.ite h.plainWrite.portFlush.learnedFlush.setLstate.checkPath
    (.ite h.plainWrite.setLstate h.plainWrite)) (fun _ hu => hu.unsupported))
theorem State.memoriesWf.pcfgField {p f v} : (s.pcfgField p f v).memoriesWf := h.wordWrite fun _ hu => hu.pcfgWrite
theorem inbandStatus_memoriesWf {p up speed half} : (inbandStatus p up speed half s).memoriesWf :=
  .ite h (h.onLink.ifDo (fun _ hu => hu.unsupported)).linksTrack
theorem State.memoriesWf.cdrLost {l} : (s.cdrLost l).memoriesWf :=
  (h.each (fun _ _ hu => hu.onLink)).setFld.maybe fun hu => hu.setFld.bump.raise
theorem State.memoriesWf.prbsSeen {l sync errs} : (s.prbsSeen l sync errs).memoriesWf :=
  h.setFld.ifDo fun _ hu => hu.addCtr
theorem State.memoriesWf.rxSeen {l sig locked} : (s.rxSeen l sig locked).memoriesWf :=
  .ite h.setFld (.ite h.setFld h.cdrLost.setFld)
theorem linkFault_memoriesWf {p lock remote loc fecLock an sig prbs errs} :
    (linkFault p lock remote loc fecLock an sig prbs errs s).memoriesWf :=
  ((h.rxSeen.each (fun _ _ hu => hu.onLink)).onLink.prbsSeen.ifDo (fun _ hu => hu.unsupported)).linksTrack
theorem linkUpQualified_memoriesWf {p} : (linkUpQualified p s).memoriesWf := .ite h.setLstate h
theorem linkDownQualified_memoriesWf {p} : (linkDownQualified p s).memoriesWf :=
  .ite (.checkPath (.ite h.portCount.holdExpired h.portCount.setLstate)) h
theorem holdExpiry_memoriesWf {p} : (holdExpiry p s).memoriesWf := .ite h.holdExpired h
theorem State.memoriesWf.mmcfgWrite {p v} : (s.mmcfgWrite p v).memoriesWf := h.plainWrite.mmTrack
theorem mmVerify_memoriesWf {p ok} : (mmVerify p ok s).memoriesWf :=
  .ite (h.setPortFld.mmTrack.ifDo (fun _ hu => hu.setPortFld.portRaise)) h
theorem State.memoriesWf.rateWrite {q rate} : (s.rateWrite q rate).memoriesWf :=
  .ite h (.ite h.setFld.raise (h.setL.each (fun _ _ hu => hu.ifDo (fun _ hu => hu.unsupported))).linksTrack)
theorem State.memoriesWf.quadStopped {q} : (s.quadStopped q).memoriesWf :=
  ((h.each (fun _ _ hu => hu.cdrLost)).each (fun _ _ hu => hu.pathLost)).linksTrack
theorem State.memoriesWf.quadPllLost {q} : (s.quadPllLost q).memoriesWf := .ite h.setFld.raise.quadStopped h
theorem sdrefLoss_memoriesWf {q} : (sdrefLoss q s).memoriesWf := .ite h.setFld.raise.quadPllLost.quadStopped h
theorem quadPllLock_memoriesWf {q} : (quadPllLock q s).memoriesWf := .ite h.setFld.linksTrack h
theorem State.memoriesWf.lcfgWrite {q i v} : (s.lcfgWrite q i v).memoriesWf :=
  h.plainWrite.each (fun _ _ hu => .checkPath (.ite hu hu.onLink))
theorem State.memoriesWf.prbsWrite {q i v} : (s.prbsWrite q i v).memoriesWf :=
  (h.plainWrite.ifDo (fun _ hu => hu.setFld)).linksTrack
theorem State.memoriesWf.mdioEnd {m err data} : (s.mdioEnd m err data).memoriesWf :=
  h.putMdio.wr.raise.ifDo fun _ hu => hu.raise
theorem State.memoriesWf.mdioCmdWrite {m v} : (s.mdioCmdWrite m v).memoriesWf :=
  .ite h.setFld (.ite h.mdioEnd h.wr.putMdio)
theorem State.memoriesWf.mdioAbort {m} : (s.mdioAbort m).memoriesWf := .ite h.mdioEnd h
theorem State.memoriesWf.mdioCmd {m v} : (s.mdioCmd m v).memoriesWf := h.wordWrite fun _ hu => hu.mdioCmdWrite
theorem mdioDone_memoriesWf {m ack data} : (mdioDone m ack data s).memoriesWf := by
  unfold mdioDone
  split
  · exact .ite h (.ite h.mdioEnd h.mdioEnd)
  · exact h

/-! ### Machine/TimeUnit -/

theorem State.memoriesWf.timeClock : s.timeClock.memoriesWf := .ite h.withTime h
theorem State.memoriesWf.setGridMode {v} : (s.setGridMode v).memoriesWf := h.setFld.setFld
theorem State.memoriesWf.enterGrid : s.enterGrid.memoriesWf := by
  unfold State.enterGrid
  dsimp only
  exact h.free.setGridMode.withTime.each fun _ _ hu => hu.free.onTick
theorem State.memoriesWf.leaveGrid : s.leaveGrid.memoriesWf := h.setGridMode.withTime
theorem State.memoriesWf.gatesFollow : s.gatesFollow.memoriesWf :=
  ((h.each (fun _ _ hu => .ite hu.gateTrack hu)).each (fun _ _ hu => .gateTrack
    (.ite hu.onGate.changeComplete hu.onGate))).each fun _ _ hu => hu.gateFollow
theorem State.memoriesWf.timeTrack : s.timeTrack.memoriesWf := by
  unfold State.timeTrack
  extract_lets was now s1 _ s2 grid
  have h1 : s1.memoriesWf := h.setFld
  have h2 : s2.memoriesWf := .ite h1.withTime.sagPlanAll.gatesFollow (.ite h1.withTime.gatesFollow h1)
  exact .ite h2.enterGrid (.ite h2.leaveGrid h2)
theorem State.memoriesWf.timeStep {t} : (s.timeStep t).memoriesWf :=
  .sagPlanAll ((h.sagShift.withTime.maybe fun hu => hu.withTime).maybe fun hu => hu.gatesFollow)
theorem State.memoriesWf.timeSetCmd : s.timeSetCmd.memoriesWf := .ite h.raise h.timeStep
theorem State.memoriesWf.timeAdjustCmd {v} : (s.timeAdjustCmd v).memoriesWf := .ite h.raise h.timeStep
theorem State.memoriesWf.freqAdjWrite {v} : (s.freqAdjWrite v).memoriesWf := h.wrL.setFld.ifDo fun _ hu => hu.raise
theorem State.memoriesWf.timeCtrlWrite {v} : (s.timeCtrlWrite v).memoriesWf :=
  .ite h.plainWrite.timeTrack h.plainWrite.timeTrack.withTime
theorem State.memoriesWf.noRef : s.noRef.memoriesWf := h.wr.raise
theorem timeRefLoss_memoriesWf : (timeRefLoss s).memoriesWf :=
  .ite (h.setFld.setFld.raise.noRef.each (fun _ _ hu => hu.mdioAbort)).timeTrack h
theorem timePllUnlock_memoriesWf : (timePllUnlock s).memoriesWf := .ite h.setFld.raise.timeTrack h
theorem timeValid_memoriesWf : (timeValid s).memoriesWf := .ite h.setFld.setFld.setFld.timeTrack h
theorem ppsInCapture_memoriesWf {falling} : (ppsInCapture falling s).memoriesWf :=
  .ite (h.ifDo (fun _ hu => hu.bump)).wr.withTime.setFld.raise h
theorem ppsOutRise_memoriesWf : (ppsOutRise s).memoriesWf := .ite h.reach.withTime h
theorem ppsOutFall_memoriesWf : (ppsOutFall s).memoriesWf := .ite h.reach.withTime h
theorem State.memoriesWf.nowRead : (s.nowRead).2.memoriesWf := h.setFld.setFld
theorem State.memoriesWf.gridTickRead : (s.gridTickRead).2.memoriesWf := h.setFld.setFld.setFld.setFld
theorem State.memoriesWf.ppsInRead : (s.ppsInRead).2.memoriesWf := h.setFld.wr
theorem State.memoriesWf.etsRead {b} : (s.etsRead b).2.memoriesWf := by
  unfold State.etsRead
  split
  · exact h
  · exact .snd h.onTick.setFld.setFld.setFld

/-! ### Machine/Restore -/

theorem State.memoriesWf.clearPages {f} : (s.clearPages f).memoriesWf := by
  unfold State.clearPages
  exact h.upd
theorem State.memoriesWf.clearBlocks {f} : (s.clearBlocks f).memoriesWf := h.clearPages.withRegs
theorem State.memoriesWf.portHook {p} : (s.portHook p).memoriesWf :=
  .fecTrack (.mmTrack (.ite h.setLstate (.ite h.setLstate.portFlush.learnedFlush.checkPath h)))
theorem State.memoriesWf.pageHook {p} : (s.pageHook p).memoriesWf := by
  unfold State.pageHook
  split
  · exact (h.each (fun _ _ hu => hu.portHook)).linksTrack
  · exact (h.each (fun _ _ hu => hu.fecTrack.checkPath)).linksTrack
  · exact h.setFld.timeTrack.rclkTrack
  · exact h.onFdb
  · exact .ite (h.each (fun _ _ hu => hu.onTabs)) h
  · exact h.each fun _ _ hu => hu.onMirror
  · exact h.each fun _ _ hu => hu.gateTrack.gateFollow
  · exact h.setFld
  · exact h
theorem State.memoriesWf.restoreWord {w} : (s.restoreWord w).memoriesWf := .ite (.ite h h.raise) h.wr
theorem State.memoriesWf.takeImage {f} : (s.takeImage f).memoriesWf :=
  (h.foldl (fun _ _ hu => hu.restoreWord)).each fun _ _ hu => hu.pageHook
theorem State.memoriesWf.applyImage {f} : (s.applyImage f).memoriesWf := (h.each (fun _ _ hu => hu.setFld)).takeImage
theorem State.memoriesWf.countSkipped : s.countSkipped.memoriesWf := h.addCtr
theorem State.memoriesWf.restoreDomain {d} : (s.restoreDomain d).memoriesWf :=
  .ite h.applyImage (h.each (fun _ _ hu => hu.pageHook))
theorem State.memoriesWf.dropBench {b} : (s.dropBench b).memoriesWf := by
  unfold State.dropBench
  exact h.upd
theorem State.memoriesWf.dropRx {p} : (s.dropRx p).memoriesWf := h.onLink.putRx.putRx
theorem State.memoriesWf.dropTables {t} : (s.dropTables t).memoriesWf := h.withTabs.onTeam
theorem State.memoriesWf.drawKey {c} : (s.drawKey c).memoriesWf := by
  unfold State.drawKey
  dsimp only
  exact h.free.free.putCiph
theorem State.memoriesWf.loseDomain {d} : (s.loseDomain d).memoriesWf := by
  unfold State.loseDomain
  have h1 := h.clearBlocks (f := fun p => pageDomain p == d)
  exact .ite (h1.each fun _ _ hu => hu.onLink.dropRx.pathLost).linksTrack (.ite h1.upd (.ite
    (h1.each fun _ _ hu => hu.pathLost).upd (.ite h1.dropTables (.ite h1.upd (.ite h1.drawKey (.ite h1.upd.stepOver
    (.ite h1.timeTrack h1)))))))

/-! ### Machine/Reset -/

theorem State.memoriesWf.cmdFinal {status} : (s.cmdFinal status).memoriesWf := h.withBoot.wr.raise
theorem State.memoriesWf.setStage {n} : (s.setStage n).memoriesWf := h.withBoot.setFld
theorem State.memoriesWf.goCheck : s.goCheck.memoriesWf := by
  unfold State.goCheck
  extract_lets wait _ s1 all s2
  have h1 : s1.memoriesWf := h.withBoot
  have h2 : s2.memoriesWf := by
    dsimp only [s2]
    exact .ite h1.setStage.free.wr.raise.withBoot h1.setStage
  exact .ite h (.ite h1 (.ite (h2.ifDo fun _ hu => hu.cmdFinal) (.ite h2 h2.raise)))
theorem State.memoriesWf.teamFail {t} : (s.teamFail t).memoriesWf :=
  .ite h (((h.onTeam.dropUnits.foldl (fun _ _ hu => hu.dropBench)).each (fun _ _ hu => hu.dropRx)).each
    (fun _ _ hu => hu.onBridge.onBridge)).withBoot.goCheck
theorem teamPllUnlock_memoriesWf {t} : (teamPllUnlock t s).memoriesWf := .ite h.setFld.failHalf.teamFail h.setFld
theorem sharedRailFall_memoriesWf : (sharedRailFall s).memoriesWf :=
  .ite h h.failHalf.failHalf.raise.setFld.timeTrack.upd
theorem State.memoriesWf.flashOpen {a n} : (s.flashOpen a n).memoriesWf := h.setFlash.withNonce
theorem State.memoriesWf.flashAbandon : s.flashAbandon.memoriesWf := by
  unfold State.flashAbandon
  split
  · exact h.flashOpen
  · exact h.flashOpen
  · exact h
theorem State.memoriesWf.assertReset : s.assertReset.memoriesWf := by
  unfold State.assertReset
  extract_lets s0 _ s1 _ _ t t1 t2
  have h1 : s1.memoriesWf := .ite h.flashAbandon.withLehr.setLehrValid.setFld h.flashAbandon
  have ht : t.memoriesWf := h1.rebuilt rfl rfl rfl rfl
  have h2 : t2.memoriesWf := ht.wr.wr.each fun _ _ hu => hu.setCh
  exact h2.each fun _ _ hu => hu.setHalf.setFld.setFld.ifDo fun _ hv => hv.raise
theorem State.memoriesWf.fullReset {src} : (s.fullReset src).memoriesWf :=
  .ite h (.ite h.assertReset (.ite h.assertReset.wr.bump.bump (.ite h.assertReset.wr.bump.bump h.assertReset.wr.bump)))
theorem State.memoriesWf.coldReset : s.coldReset.memoriesWf := by
  obtain ⟨-, hflash, -, -⟩ := h.flashAbandon
  obtain ⟨-, -, -, hhost⟩ := h
  exact ⟨rfl, hflash, rfl, hhost⟩
theorem State.memoriesWf.sense {r} : (s.sense r).memoriesWf := h.withPins
theorem State.memoriesWf.beginStart {warm} : (s.beginStart warm).memoriesWf := by
  unfold State.beginStart
  dsimp only
  exact (h.upd.setStage.setFld.each (fun _ _ hu => hu.drawKey)).free.free.sense.setFld.setFld
theorem coldStart_memoriesWf {strap} : (coldStart strap s).memoriesWf := .ite h.coldReset.upd.beginStart h
theorem fullResetRelease_memoriesWf : (fullResetRelease s).memoriesWf := .ite h.beginStart h

/-! ### Machine/Power -/

theorem State.memoriesWf.devBump {c} : (s.devBump c).memoriesWf := h.bump
theorem State.memoriesWf.domBegin {d src} : (s.domBegin d src).memoriesWf := h.onDom.setFld
theorem State.memoriesWf.commitSeen {d} : (s.commitSeen d).2.memoriesWf := by
  unfold State.commitSeen
  dsimp only
  split
  · exact h
  · exact h
  · exact h
  · exact .ite_snd h (.ite_snd h.free.onDom h.free)
theorem State.memoriesWf.wakeOne {d src retry} : (s.wakeOne d src retry).memoriesWf := by
  unfold State.wakeOne
  dsimp only
  split
  · exact h.devBump
  · exact .ite h.commitSeen.devBump (.ite h.commitSeen.onDom.devBump (.setFld
      (.refusal (.raise (.domCount (.ite h.commitSeen.onDom.devBump h.commitSeen.onDom))))))
  · exact .ite h.devBump (.ite h.refusal h.domBegin)
theorem State.memoriesWf.domWake {d src retry} : (s.domWake d src retry).memoriesWf :=
  .ite h.refusal (h.each (fun _ _ hu => hu.wakeOne)).wakeOne
theorem State.memoriesWf.domStart {d target} : (s.domStart d target).memoriesWf :=
  .ite h.domWake (.ite h.refusal (.ite h.refusal h.onDom))
theorem State.memoriesWf.domRequest {d target} : (s.domRequest d target).memoriesWf := by
  unfold State.domRequest
  refine .ite h.refusal (.ite h.devBump ?_)
  split
  · exact h.domStart
  · exact .ite h.domWake (.onDom (.ite h.devBump h))
theorem State.memoriesWf.domEdge {d} : (s.domEdge d).memoriesWf := .ite h (h.onDom.each (fun _ _ hu => hu.domRequest))
theorem State.memoriesWf.domRest {d} : (s.domRest d).memoriesWf := by
  unfold State.domRest
  dsimp only
  split
  · refine .ite ?_ ?_
    · refine .devBump (.onDom ?_)
      split
      · exact h.onDom.domWake
      · exact h
    · refine .domStart (.onDom ?_)
      split
      · exact h.onDom.domWake
      · exact h
  · split
    · exact h.onDom.domWake
    · exact h
theorem State.memoriesWf.halfRest {t} : (s.halfRest t).memoriesWf :=
  (h.each (fun _ _ hu => .ite hu.setCh.onChan (hu.maybe fun hv => hv.onChan))).maybe fun hu => hu.setHalf
theorem State.memoriesWf.halfRise {t} : (s.halfRise t).memoriesWf :=
  (h.each (fun _ _ hu => hu.onChan)).maybe fun hu => hu.setHalf
theorem State.memoriesWf.domFresh {d} : (s.domFresh d).memoriesWf := h.clearPages.restoreDomain
theorem State.memoriesWf.domArrive {d} : (s.domArrive d).memoriesWf := by
  unfold State.domArrive
  extract_lets was s1 s2 s3
  have h1 : s1.memoriesWf := h.onDom
  have h2 : s2.memoriesWf := .ite h1.domFresh ((h1.ifDo fun _ hu => hu.restoreDomain).ifDo fun _ hu => hu.halfRise)
  have h3 : s3.memoriesWf := .ite h2.onTick h2
  exact .ite h3.linksTrack (.ite h3.timeTrack h3)
theorem State.memoriesWf.domSleep {d t} : (s.domSleep d t).memoriesWf :=
  .ite h.onDom.domCount.loseDomain (.ite h.onDom.domCount.domFresh (.ite h.onDom.domCount.quadStopped
    (.ite h.onDom.domCount.halfRest h.onDom.domCount)))
theorem State.memoriesWf.stepStart {e'} : (s.stepStart e').memoriesWf := .ite h.onDom h
theorem State.memoriesWf.entryFrom {l} : (s.entryFrom l).memoriesWf := by
  induction l with
  | nil => exact h.withDev
  | cons g l ih =>
    unfold State.entryFrom
    exact .ite ih (h.withDev.each fun _ _ hu => hu.stepStart)
theorem State.memoriesWf.entryStep : s.entryStep.memoriesWf := .ite h h.entryFrom
theorem State.memoriesWf.stepEnd {e'} : (s.stepEnd e').memoriesWf := by
  unfold State.stepEnd
  refine .domRest (.ifDo ?_ (fun _ hu => hu.domSleep))
  split
  · exact h.domSleep
  · exact h
theorem State.memoriesWf.entryEnd : s.entryEnd.memoriesWf := h.withDev.each fun _ _ hu => hu.stepEnd
theorem domainTransitionDone_memoriesWf {d} : (domainTransitionDone d s).memoriesWf := by
  unfold domainTransitionDone
  split
  · exact h
  · exact .ite h.domArrive.domRest.entryStep h
  · exact .ite h h.domSleep.domRest.entryStep
theorem State.memoriesWf.refuseWaiting {d} : (s.refuseWaiting d).memoriesWf :=
  h.each fun _ _ hu => hu.onDom.refusal.domRest
theorem wakeTimeout_memoriesWf {d osc} : (wakeTimeout d osc s).memoriesWf :=
  .ite (.entryStep (.domRest ((h.ifDo (fun _ hu => hu.noRef)).onDom.refusal.devBump.raise.loseDomain.refuseWaiting.maybe
    fun hu => hu.teamFail))) h
theorem State.memoriesWf.dctrlWrite {v} : (s.dctrlWrite v).memoriesWf := .ite h (.ite h.plainWrite.onDom h.plainWrite)
theorem State.memoriesWf.dctrlCommand {d target idle} : (s.dctrlCommand d target idle).memoriesWf :=
  h.hostWrite fun _ hu => hu.wr.dctrlWrite
theorem domainIdleEntry_memoriesWf {d} : (domainIdleEntry d s).memoriesWf := .ite h.onDom h
theorem domainIdleExit_memoriesWf {d} : (domainIdleExit d s).memoriesWf := .ite h.onDom h
theorem State.memoriesWf.noteWake {src} : (s.noteWake src).memoriesWf := h.wrL.wrL.setLehrWord.setLehrWord
theorem State.memoriesWf.dozeFlush : s.dozeFlush.memoriesWf :=
  h.each (fun _ _ hu => ((hu.discardCopies (fun _ _ hu => hu.bump)).foldl (fun _ _ hu => hu.bump)).flushMid)
theorem State.memoriesWf.sleepBegin {l} : (s.sleepBegin l).memoriesWf :=
  (h.withDev.each (fun _ _ hu => .ite hu.onDom.devBump hu)).entryStep
theorem State.memoriesWf.dozeSleep : s.dozeSleep.memoriesWf := h.withDev.sleepBegin
theorem State.memoriesWf.annealSleep : s.annealSleep.memoriesWf := h.sleepBegin
theorem State.memoriesWf.devBegin {target} : (s.devBegin target).memoriesWf :=
  .ite (h.withDev.withDev.each (fun _ _ hu => .ite hu hu.domWake)) (.ite h.withDev.annealSleep h.withDev.withDev)
theorem State.memoriesWf.devWake {src} : (s.devWake src).memoriesWf := by
  unfold State.devWake
  split
  · exact h.devBump
  · exact .ite h.devBump (.ite h.withDev.devBump (.noteWake (.refusal (.raise
      (.devBump (.ite h.withDev.devBump h.withDev))))))
  · exact .ite h.devBump (.ite h.noteWake.devBegin h.noteWake.fullReset)
theorem State.memoriesWf.wakeFrom {src} : (s.wakeFrom src).memoriesWf := .ite h.devWake h
theorem State.memoriesWf.devStart {target} : (s.devStart target).memoriesWf :=
  .ite h.devWake (.ite h.refusal h.devBegin)
theorem State.memoriesWf.devRequest {target} : (s.devRequest target).memoriesWf := by
  unfold State.devRequest
  refine .ite h.refusal (.ite h.devBump ?_)
  split
  · exact h.devStart
  · exact .ite h.devWake (.withDev (.ite h.devBump h))
theorem State.memoriesWf.devEdge : s.devEdge.memoriesWf := .ite h (h.withDev.each (fun _ _ hu => hu.devRequest))
theorem State.memoriesWf.devCmdWrite {v} : (s.devCmdWrite v).memoriesWf := .ite h (.ite h.devBump h.withDev)
theorem devRequestWrite_memoriesWf {t} : (devRequestWrite t s).memoriesWf := h.hostWrite fun _ hu => hu.devCmdWrite
theorem devRequestRun_memoriesWf : (devRequestRun s).memoriesWf := devRequestWrite_memoriesWf h
theorem devRequestDoze_memoriesWf : (devRequestDoze s).memoriesWf := devRequestWrite_memoriesWf h
theorem devRequestAnneal_memoriesWf : (devRequestAnneal s).memoriesWf := devRequestWrite_memoriesWf h
theorem devRequestReserved_memoriesWf : (devRequestReserved s).memoriesWf := devRequestWrite_memoriesWf h
theorem dozeDrainEnd_memoriesWf : (dozeDrainEnd s).memoriesWf := by
  unfold dozeDrainEnd
  refine .ite h ?_
  split
  · exact h.dozeFlush.withDev.dozeSleep
  · exact h.dozeFlush.withDev.annealSleep
  · exact h
theorem deviceTransitionDone_memoriesWf : (deviceTransitionDone s).memoriesWf := by
  unfold deviceTransitionDone
  split
  · exact h
  · extract_lets s2 _ s3 s4 _ s5
    have h2 : s2.memoriesWf := .ite (h.each fun _ _ hu => hu.domArrive) h.entryEnd
    refine .ite h ?_
    have h4 : s4.memoriesWf := h2.withDev.sagPlanAll.devBump.raise
    split
    · exact h4.withDev.devWake
    · split
      · exact h4
      · exact .ite h4.withDev.devBump h4.withDev.devStart
theorem wakeEvent_memoriesWf {d src} : (wakeEvent d src s).memoriesWf := by
  unfold wakeEvent
  split
  · exact h.wakeFrom
  · exact h.domWake
theorem State.memoriesWf.wakeCmdWrite {v} : (s.wakeCmdWrite v).memoriesWf := .ite h.devWake h
theorem timeAlarm_memoriesWf : (timeAlarm s).memoriesWf := .ite h.reach.wakeFrom h
theorem hbmAutoIdle_memoriesWf : (hbmAutoIdle s).memoriesWf := .ite h.freqRequest h
theorem teamPllLock_memoriesWf {t} : (teamPllLock t s).memoriesWf := .ite h.setFld h
theorem teamPllTimeout_memoriesWf {t} : (teamPllTimeout t s).memoriesWf := .ite h.refusal h
theorem State.memoriesWf.clkEdge {t} : (s.clkEdge t).memoriesWf := .ite h.setFld.raise (.ite h.setFld.setFld h)

/-! ### Machine/LehrCmd -/

theorem State.memoriesWf.writeHeld : s.writeHeld.memoriesWf :=
  .ite (h.withLehr.setFld.withLehr.each (fun _ _ hu => hu.putImage)) h.withLehr.setFld
theorem State.memoriesWf.holdRelease : s.holdRelease.memoriesWf :=
  .ite h.writeHeld.withLehr.setLehrValid h.writeHeld.withLehr
theorem State.memoriesWf.lehrLoad : s.lehrLoad.memoriesWf :=
  .ite h.withLehr.setLehrValid.setFld h.setLehrValid.setFld.raise
theorem State.memoriesWf.loadEdge : s.loadEdge.memoriesWf :=
  .ite ((h.withLehr.countSkipped.takeImage.each (fun _ _ hu => hu.onDom)).each
    (fun _ _ hu => hu.restoreWord)).holdRelease.setFld.raise h
theorem State.memoriesWf.lctrlWrite {v} : (s.lctrlWrite v).memoriesWf :=
  ((h.setFld.maybe fun hu => hu.holdRelease).maybe fun hu => hu.lehrLoad).maybe fun hu => hu.setLehrValid
theorem lehrScrub_memoriesWf {ce ue} : (lehrScrub ce ue s).memoriesWf := .ite h.addCtr.setLehrValid.bump.raise h.addCtr
theorem State.memoriesWf.lstatRead : (s.lstatRead).2.memoriesWf := by
  unfold State.lstatRead
  dsimp only
  split
  · exact h
  · exact .ite_snd h (.ite h.free.withLehr h.free)
theorem State.memoriesWf.lwinRead {k} : (s.lwinRead k).2.memoriesWf := by
  unfold State.lwinRead
  dsimp only
  exact .ite_snd h (.ite_snd h.free h)
theorem State.memoriesWf.lwinWrite {k v} : (s.lwinWrite k v).memoriesWf := .ite h.setLehrWord h
theorem lehrWindowAccess_memoriesWf {k w} : (lehrWindowAccess k w s).memoriesWf := by
  unfold lehrWindowAccess
  split
  · exact h.hostRead fun _ hu => hu.lwinRead
  · exact h.hostWrite fun _ hu => hu.lwinWrite
theorem ledgerPeriodEnd_memoriesWf {ea eb es} : (ledgerPeriodEnd ea eb es s).memoriesWf :=
  .ite h (((h.foldl (fun _ _ hu => hu.setLehrWord.wr)).maybe fun hu => hu.bump).withDev.wr.wr.wr.wr.wr.wr.raise)
theorem State.memoriesWf.latch {p off v} : (s.latch p off v).memoriesWf := h.withVlatch
theorem State.memoriesWf.ledgerLatch : (s.ledgerLatch).2.memoriesWf := h.each fun _ _ hu => hu.latch
theorem State.memoriesWf.refLogPop : (s.refLogPop).2.memoriesWf := .ite_snd h.latch h.latch.withDev

/-! ### Machine/Boot -/

theorem State.memoriesWf.goStart {cmd} : (s.goStart cmd).memoriesWf :=
  (h.withBoot.setStage.each (fun _ _ hu => hu.poolStart)).goCheck
theorem State.memoriesWf.openEdge {b} : (s.openEdge b).memoriesWf := .ite h.withBoot.goCheck h
theorem State.memoriesWf.startTrack : s.startTrack.memoriesWf :=
  .ite h (.ite h.setStage (.ite h.setStage (.ite h.setStage (.ite h.setStage (.ite h.goStart h.setStage.raise)))))
theorem State.memoriesWf.noDirectory : s.noDirectory.memoriesWf := (h.each (fun _ _ hu => hu.setFld)).raise
theorem State.memoriesWf.trySlots {kind code} : (s.trySlots kind code).2.memoriesWf := by
  unfold State.trySlots
  split
  · exact .snd h.noDirectory
  · exact .foldl_snd (.snd h) fun r i hr => (.ite_snd hr (.ite_snd hr.setFld hr.setFld.raise))
theorem firmwareVerifyDone_memoriesWf {fw0 fw1} : (firmwareVerifyDone fw0 fw1 s).memoriesWf := by
  unfold firmwareVerifyDone
  dsimp only
  refine .ite h ?_
  split
  · exact ((((h.trySlots.setFld.setFld.setFld.ifDo (fun _ hu => hu.bump)).withBoot.ifDo
      (fun _ hu => hu.countSkipped)).setFld.each (fun _ _ hu => hu.onDom)).foldl
      (fun _ _ hu => hu.restoreDomain)).setStage
  · exact h.trySlots.setStage
theorem selftestDone_memoriesWf {bad} : (selftestDone bad s).memoriesWf := by
  unfold selftestDone
  refine .ite h ?_
  split
  · exact h.setFld.setStage
  · exact h.setFld.withBoot.startTrack
theorem State.memoriesWf.imageLost {t} : (s.imageLost t).memoriesWf := h.setFld.onHalf.raise
theorem hbmInitDone_memoriesWf {late} : (hbmInitDone late s).memoriesWf :=
  .ite h (h.each (fun _ _ hu => hu.imageLost)).setFld.withBoot.startTrack
theorem State.memoriesWf.applyRec {r} : (s.applyRec r).memoriesWf := by
  unfold State.applyRec
  refine h.foldl ?_
  intro _ _ hu
  split
  · exact hu.withImage
  · exact hu.withImage
  · exact hu.withImage
  · exact hu.each fun _ _ hu => hu.wr
theorem patchLoadDone_memoriesWf {pb0 pb1 body0 body1} : (patchLoadDone pb0 pb1 body0 body1 s).memoriesWf := by
  unfold patchLoadDone
  extract_lets ready on _ base recs
  refine .ite h ?_
  have hbase : base.memoriesWf := .each h.upd fun _ _ hu => hu.each fun _ _ hv => hv.wr
  split
  next s1 e =>
  have h1 : s1.memoriesWf := .of_snd hbase.trySlots e
  extract_lets tried _ s2
  have h2 : s2.memoriesWf := by
    dsimp only [s2]
    split
    · exact (h1.withBoot.foldl fun _ _ hu => hu.applyRec).setFld.setFld.each fun _ _ hu => hu.wr.setFld
    · exact .ite (h1.each fun _ _ hu => hu.setFld.raise) h1
  have h3 : (s2.free 32).2.memoriesWf := h2.free
  exact (h3.each fun _ _ hu => hu.wr.setFld).withBoot.startTrack
theorem State.memoriesWf.restoreTables {t img} : (s.restoreTables t img).memoriesWf := by
  unfold State.restoreTables
  refine .each (.onHalf (.setFld (.onTeam (h.foldl ?_)))) fun _ _ hu => hu.imageAccess
  intro _ _ hu
  split
  · exact hu.onTabs
  · exact hu
theorem State.memoriesWf.restoreTeam {t bad} : (s.restoreTeam t bad).2.memoriesWf := by
  unfold State.restoreTeam
  split
  · exact .snd h.imageLost
  · exact .ite_snd h.bump.imageLost h.restoreTables.setFld
theorem restoreDone_memoriesWf {badA badB} : (restoreDone badA badB s).memoriesWf :=
  .ite h (.startTrack (.withBoot (.ite_snd (h.each (fun _ _ hu => hu.setFld.onHalf)) h.restoreTeam.restoreTeam)))
theorem State.memoriesWf.bootCmdWrite {v} : (s.bootCmdWrite v).memoriesWf := by
  unfold State.bootCmdWrite
  dsimp only
  split
  · exact .ite h.withBoot.wr.goStart h.withBoot.wr.cmdFinal
  · exact .ite h.withBoot.wr.cmdFinal.fullReset h.withBoot.wr.cmdFinal
  · exact h.withBoot.wr.withBoot.cmdFinal
  · exact .ite h.withBoot.wr.cmdFinal (.ite h.withBoot.wr.cmdFinal h.withBoot.wr.withBoot)
  · exact .ite h.withBoot.wr.cmdFinal (.ite h.withBoot.wr.cmdFinal h.withBoot.wr.withBoot)
  · exact h.withBoot.wr.cmdFinal
theorem State.memoriesWf.bootCommand {op key confirm} : (s.bootCommand op key confirm).memoriesWf :=
  h.hostWrite fun _ hu => hu.bootCmdWrite
theorem bootCmdBad_memoriesWf {op confirm} : (bootCmdBad op confirm s).memoriesWf := .ite h.bootCommand h
theorem State.memoriesWf.burnt {a} : (s.burnt a).memoriesWf := by
  unfold State.burnt
  split
  · exact h.setFld.setFld
  · exact h.setFld
theorem fuseBurnDone_memoriesWf {ok} : (fuseBurnDone ok s).memoriesWf := by
  unfold fuseBurnDone
  split
  · exact h
  · exact .ite h ((h.withBoot.ifDo (fun _ hu => hu.burnt)).ifDo (fun _ hu => hu.cmdFinal))
theorem State.memoriesWf.bcfgWrite {v} : (s.bcfgWrite v).memoriesWf := .ite h.plainWrite h.plainWrite.withBoot
theorem watchdogWarn_memoriesWf : (watchdogWarn s).memoriesWf := .ite h.withBoot.raise h
theorem watchdogExpiry_memoriesWf : (watchdogExpiry s).memoriesWf := .ite h.fullReset h
theorem wedgeDetect_memoriesWf {k} : (wedgeDetect k s).memoriesWf :=
  .ite h ((State.memoriesWf.teamFail ((h.wr.raise.maybe fun hu => hu.withHub).ifDo fun _ hu => hu.failHalf)).maybe
    fun hu => hu.fullReset)
theorem State.memoriesWf.flFinal {status} : (s.flFinal status).memoriesWf := h.withBoot.wr.raise
theorem State.memoriesWf.flCmdWrite {v ok} : (s.flCmdWrite v ok).memoriesWf :=
  .ite h.wr.flFinal (.ite h.wr.flFinal (.ite (.ite (h.wr.foldl (fun _ _ hu => hu.wr)).flFinal h.wr.flFinal)
    h.wr.withBoot))
theorem State.memoriesWf.flCommand {op confirm ok} : (s.flCommand op confirm ok).memoriesWf :=
  h.hostWrite fun _ hu => hu.flCmdWrite
theorem flashDone_memoriesWf {ok} : (flashDone ok s).memoriesWf := by
  unfold flashDone
  split
  · exact h
  · refine .ite h (.ifDo ?_ fun _ hu => hu.flFinal)
    cases ok
    · exact h.withBoot
    · exact h.withBoot.setFlash

/-! ### Machine/Jobs -/

theorem State.memoriesWf.freeBytes {n} : (s.freeBytes n).2.memoriesWf := by
  unfold State.freeBytes
  dsimp only
  exact .foldl_snd (.snd h) fun _ _ hr => .snd hr.free
theorem State.memoriesWf.countInvoc {c j} : (s.countInvoc c j).memoriesWf := .ite h.onCiph h
theorem State.memoriesWf.hostPut {a l} : (s.hostPut a l).memoriesWf := h.setHostMem
theorem State.memoriesWf.jobRun {c j x3} : (s.jobRun c j x3).2.memoriesWf := by
  unfold State.jobRun
  dsimp only
  exact .ite_snd h.countInvoc.hostPut.freeBytes.hostPut (.ite_snd h.countInvoc.hostPut.hostPut
    (.ite_snd h.countInvoc.hostPut h.countInvoc.hostPut))
theorem State.memoriesWf.jobStatus {c j} : (s.jobStatus c j).2.memoriesWf := by
  unfold State.jobStatus
  dsimp only
  refine .ite_snd h (.ite_snd h ?_)
  split
  · exact h.jobRun
  · exact h
  · exact .snd h.free
theorem State.memoriesWf.jobEnd {c q st} : (s.jobEnd c q st).memoriesWf :=
  (h.onCiph.bump.ifDo (fun _ hu => hu.bump)).setFld.raise
theorem State.memoriesWf.jobWord {c q st} : (s.jobWord c q st).memoriesWf := by
  unfold State.jobWord
  dsimp only
  exact h.free.hostPut
theorem runJob_memoriesWf {ops c q j} : (runJob ops c q j s).memoriesWf := .ite h.jobStatus.jobWord.jobEnd h
theorem jobCtr_memoriesWf {c q j} : (jobCtr c q j s).memoriesWf := runJob_memoriesWf h
theorem jobCbcEnc_memoriesWf {c q j} : (jobCbcEnc c q j s).memoriesWf := runJob_memoriesWf h
theorem jobCbcDec_memoriesWf {c q j} : (jobCbcDec c q j s).memoriesWf := runJob_memoriesWf h
theorem jobCfbEnc_memoriesWf {c q j} : (jobCfbEnc c q j s).memoriesWf := runJob_memoriesWf h
theorem jobCfbDec_memoriesWf {c q j} : (jobCfbDec c q j s).memoriesWf := runJob_memoriesWf h
theorem jobGcmEnc_memoriesWf {c q j} : (jobGcmEnc c q j s).memoriesWf := runJob_memoriesWf h
theorem jobGcmDec_memoriesWf {c q j} : (jobGcmDec c q j s).memoriesWf := runJob_memoriesWf h
theorem jobGmacGen_memoriesWf {c q j} : (jobGmacGen c q j s).memoriesWf := runJob_memoriesWf h
theorem jobGmacVer_memoriesWf {c q j} : (jobGmacVer c q j s).memoriesWf := runJob_memoriesWf h
theorem jobCmacGen_memoriesWf {c q j} : (jobCmacGen c q j s).memoriesWf := runJob_memoriesWf h
theorem jobCmacVer_memoriesWf {c q j} : (jobCmacVer c q j s).memoriesWf := runJob_memoriesWf h
theorem jobNop_memoriesWf {c q j} : (jobNop c q j s).memoriesWf := runJob_memoriesWf h
theorem jobBadOp_memoriesWf {c q j} : (jobBadOp c q j s).memoriesWf := runJob_memoriesWf h
theorem jobDmaError_memoriesWf {c q desc wrote} : (jobDmaError c q desc wrote s).memoriesWf := by
  unfold jobDmaError
  refine .ite ?_ h
  refine .raise (.setFld (.setFld (.jobEnd (.ifDo ?_ (fun _ hu => hu.jobWord)))))
  split
  · exact .ite h h.countInvoc
  · exact h
theorem State.memoriesWf.jqTail {c q v} : (s.jqTail c q v).memoriesWf := h.plainWrite
theorem State.memoriesWf.jqCfg {c q v} : (s.jqCfg c q v).memoriesWf :=
  .ite h.plainWrite.setFld.setFld.setFld h.plainWrite
theorem State.memoriesWf.cctrl {c v} : (s.cctrl c v).memoriesWf := .ite h.setFld h
theorem katDone_memoriesWf {c mask} : (katDone c mask s).memoriesWf :=
  .ite (h.setFld.setFld.raise.ifDo (fun _ hu => hu.raise)) h

/-! ### Machine/Marver -/

theorem State.memoriesWf.marCount {b c n} : (s.marCount b c n).memoriesWf := h.addCtr
theorem headerDispatch_memoriesWf {b} : (headerDispatch b s).memoriesWf := by
  unfold headerDispatch
  dsimp only
  split
  · exact .ite h (.ite h.putMar.putTick.onDesc h.putMar.putTick.onDesc.setFld)
  · exact h
theorem State.memoriesWf.drained {b e'} : (s.drained b e').memoriesWf := h.setFld
theorem State.memoriesWf.abortLog {b e' r cause pc} : (s.abortLog b e' r cause pc).memoriesWf := .ite h h.wr.wr
theorem State.memoriesWf.abort {b e' r cause pc} : (s.abort b e' r cause pc).memoriesWf :=
  h.onMar.abortLog.marCount.marCount.raise.drained.cullet.bump
theorem watchdogAbort_memoriesWf {b e'} : (watchdogAbort b e' s).memoriesWf := by
  unfold watchdogAbort
  split
  · exact h
  · split
    · exact h.abort
    · exact h
theorem State.memoriesWf.csRead {b addr copy f} : (s.csRead b addr copy f).memoriesWf := by
  unfold State.csRead
  split
  · exact h
  · exact h.marCount
  · exact h.onMar.marCount.raise
  · exact h.onMar
theorem State.memoriesWf.pexc {b e'} : (s.pexc b e').memoriesWf := h.marCount
theorem State.memoriesWf.runWord {b e' r other} : (s.runWord b e' r other).memoriesWf := by
  unfold State.runWord
  refine .ite (h.ifDo (fun _ hu => hu.pexc)).onMar ?_
  split
  · exact (h.ifDo (fun _ hu => hu.pexc)).onMar
  · exact (h.ifDo (fun _ hu => hu.pexc)).abort
theorem State.memoriesWf.runBase {b e' r} : (s.runBase b e' r).memoriesWf := by
  unfold State.runBase
  dsimp only
  exact (h.free.free.foldl (fun _ _ hu => hu.pexc)).onMar
theorem microwordExecute_memoriesWf {b e' finds} : (microwordExecute b e' finds s).memoriesWf := by
  unfold microwordExecute
  split
  · exact h
  · exact .ite h (.ite (h.each (fun _ _ hu => hu.csRead)).abort (.ite (h.each (fun _ _ hu => hu.csRead)).runBase
      (h.each (fun _ _ hu => hu.csRead)).runWord))
theorem routineEnd_memoriesWf {b e'} : (routineEnd b e' s).memoriesWf := by
  unfold routineEnd
  split
  · exact h
  · exact .ite h ((((h.onMar.marCount.marCount.marCount.ifDo (fun _ hu => hu.marCount)).ifDo
      (fun _ hu => hu.marCount.raise)).ifDo (fun _ hu => hu.marCount.raise)).ifDo (fun _ hu => hu.marCount.raise))
theorem scrubRead_memoriesWf {b find} : (scrubRead b find s).memoriesWf :=
  .ite h (.ite h.csRead.onMar.raise h.csRead.onMar)

/-! ### Machine/Stage5 -/

theorem State.memoriesWf.tblCount {b r ue} : (s.tblCount b r ue).memoriesWf :=
  .ite (.ite h.bump.raise h.bump) (.ite h.bump.raise h.bump)
theorem State.memoriesWf.hashRead {b k r key wide errs} : (s.hashRead b k r key wide errs).2.memoriesWf := by
  unfold State.hashRead
  dsimp only
  split
  · exact .snd (h.each (fun _ _ hu => hu.tblCount)).onFdb
  · exact .snd (h.each (fun _ _ hu => hu.tblCount)).onFdb
  · exact .snd (h.each (fun _ _ hu => hu.tblCount)).onFdb
theorem State.memoriesWf.directRead {b k r i errs} : (s.directRead b k r i errs).2.memoriesWf :=
  h.each fun _ _ hu => hu.tblCount
theorem State.memoriesWf.stateRead {b r errs} : (s.stateRead b r errs).2.memoriesWf :=
  h.each fun _ _ hu => hu.tblCount
theorem State.memoriesWf.cqIssueOne {b h' q} : (s.cqIssueOne b h' q).2.memoriesWf := by
  unfold State.cqIssueOne
  split
  · exact .snd h.addCtr
  · exact .snd h.addCtr
  · exact .snd h.onFdb
  · exact h
  · exact h
theorem State.memoriesWf.cqIssue {b h' cq} : (s.cqIssue b h' cq).2.memoriesWf :=
  .foldl_snd (.snd h) fun _ _ hr => hr.cqIssueOne
theorem State.memoriesWf.ruleAction {b r errs} : (s.ruleAction b r errs).2.memoriesWf := by
  unfold State.ruleAction
  dsimp only
  split
  · split
    · exact .snd h.directRead
    · refine .ite_snd h.directRead.bump (.ite_snd h.directRead ?_)
      split
      · exact .snd (h.directRead.hashRead.bump.bump.ifDo (fun _ hu => hu.bump))
      · exact .snd h.directRead.hashRead.bump.bump
  · exact .snd h.directRead.bump
theorem State.memoriesWf.identify {b h' errs} : (s.identify b h' errs).2.memoriesWf := by
  unfold State.identify
  extract_lets c t ip
  have hc {u : State} (hu : u.memoriesWf) (k : Nat) : (c u k).memoriesWf := hu.bump
  split
  next s1 e1 =>
  have h1 : s1.memoriesWf := .of_snd (.ite_snd h h.hashRead) e1
  split
  next s2 e2 =>
  have h2 : s2.memoriesWf := .of_snd (.ite_snd h1.hashRead h1) e2
  extract_lets s3
  have h3 : s3.memoriesWf := .ite h2 (hc h2 _)
  split
  next s4 e4 =>
  have h4 : s4.memoriesWf := by
    refine .of_snd ?_ e4
    split
    · exact .snd (hc h3 _)
    · exact .snd (hc h3 _)
    · exact .snd (.ite h3 (hc h3 _))
  split
  · exact .snd (hc h4 _)
  · exact h4
theorem State.memoriesWf.context {b handle errs} : (s.context b handle errs).2.2.memoriesWf := by
  unfold State.context
  split
  · exact h
  · dsimp only
    split
    · exact .snd h.directRead
    · exact .ite_snd2 h.directRead h.directRead.bump
theorem State.memoriesWf.flood {b g ingress errs} : (s.flood b g ingress errs).2.memoriesWf :=
  .ite_snd h.stateRead h.stateRead.bump
theorem State.memoriesWf.unknown {b v act ingress errs} : (s.unknown b v act ingress errs).2.memoriesWf := by
  unfold State.unknown
  split
  · exact h
  · exact h
  · split
    · next s1 e1 =>
      exact .snd (h.flood.of_snd e1)
    · next s1 e1 =>
      exact .snd (h.flood.of_snd e1)
theorem State.memoriesWf.macForward {b h' dom v errs} : (s.macForward b h' dom v errs).2.memoriesWf := by
  unfold State.macForward
  extract_lets c ing
  have hc {u : State} (hu : u.memoriesWf) (k : Nat) : (c u k).memoriesWf := hu.bump
  split
  next s1 e =>
  have h1 : s1.memoriesWf := .of_snd (hc h _).hashRead e
  split
  · extract_lets s2 s3
    have h3 : s3.memoriesWf := (hc h1 _).ifDo fun _ hu => hu.onFdb
    split
    · exact .ite_snd (hc h3 _) h3
    · exact .snd h3.flood
    · exact h3
    · exact h3
  · exact (hc h1 _).unknown
theorem State.memoriesWf.forwardNormal {b h' ctx errs} : (s.forwardNormal b h' ctx errs).2.memoriesWf := by
  unfold State.forwardNormal
  extract_lets dom
  split
  next s1 e1 =>
  have h1 : s1.memoriesWf := .of_snd h.directRead e1
  split
  · exact h1
  · refine .ite_read h1.bump ?_
    split
    next s2 e2 =>
    have h2 : s2.memoriesWf := .of_snd (.ite_snd h1.stateRead h1) e2
    refine .ite_read h2 (.ite_read h2.bump ?_)
    split
    · exact .ite_read h2.bump h2.macForward
    · exact h2.macForward
theorem State.memoriesWf.spreadTo {b g h' stream errs} : (s.spreadTo b g h' stream errs).2.memoriesWf := by
  unfold State.spreadTo
  dsimp only
  split
  · exact .snd h.directRead
  · split
    · exact .snd h.directRead.directRead
    · exact .ite_snd h.directRead.directRead.bump h.directRead.directRead
theorem State.memoriesWf.routeFind {b h' errs} : (s.routeFind b h' errs).2.memoriesWf := by
  unfold State.routeFind
  refine .foldl_snd (.snd h) fun r c hr => .ite_snd hr ?_
  split
  · exact .snd hr.hashRead
  · exact .snd hr.hashRead
  · exact .snd hr.hashRead
theorem State.memoriesWf.routeMiss {b} : (s.routeMiss b).2.memoriesWf := h.bump
theorem State.memoriesWf.forwardRoute {b h' stream errs} : (s.forwardRoute b h' stream errs).2.2.memoriesWf := by
  unfold State.forwardRoute
  split
  · exact h.routeMiss
  · split
    next s1 e1 =>
    have h1 : s1.memoriesWf := .of_snd h.routeFind e1
    split
    · exact h1.routeMiss
    · extract_lets s2
      have h2 : s2.memoriesWf := h1.bump
      split
      · exact h2
      · exact h2.bump
      · split
        next s3 e3 =>
        have h3 : s3.memoriesWf := .of_snd (.ite_snd h2.spreadTo h2) e3
        exact .ite_snd2 h3 (.ite_snd2 h3.bump h3)
theorem State.memoriesWf.destOf {b h' fwd target stream ctx errs} :
    (s.destOf b h' fwd target stream ctx errs).2.2.memoriesWf := by
  unfold State.destOf
  split
  · exact .snd h.bump
  · exact h
  · exact .snd h.spreadTo
  · exact h
  · exact h.forwardRoute
  · exact h
  · exact .snd h.forwardNormal
theorem State.memoriesWf.activeEdits {b h' d ctx} : (s.activeEdits b h' d ctx).2.2.memoriesWf := by
  unfold State.activeEdits
  split
  · exact h
  · exact .ite_snd2 h (.ite_snd2 h.bump h)
theorem State.memoriesWf.fillHops {kept h' d} : (s.fillHops kept h' d).2.memoriesWf := by
  unfold State.fillHops
  dsimp only
  refine .foldl_snd (.snd h) fun r c hr => .ite_snd ?_ hr
  split
  · exact hr
  · exact .snd hr.free
theorem State.memoriesWf.meterLate {b d} : (s.meterLate b d).memoriesWf := by
  unfold State.meterLate
  split
  · split
    · exact .ite h.meterReturn.onDesc h
    · exact h
  · exact h
theorem State.memoriesWf.police {b h' ctx errs} : (s.police b h' ctx errs).2.memoriesWf := by
  unfold State.police
  extract_lets len cin port filt
  clear_value filt
  split
  next s1 e =>
  have h1 : s1.memoriesWf := by
    cases filt with
    | none => exact .of_snd2 h e
    | some i => exact .of_snd2 (.ite_snd2 h.stateRead h.stateRead.filterFrame) e
  extract_lets s2 cls
  have h2 : s2.memoriesWf := .ite h1.onDesc h1
  refine .ite_read h2 ?_
  split
  · exact h2
  · refine .ite_snd h2.stateRead ?_
    have h4 : ∀ {m len cin}, ((s2.stateRead b TblRead.meter errs).2.meterFrame b m len cin).2.memoriesWf :=
      h2.stateRead.meterFrame
    cases filt with
    | none => exact .ite h4.onDesc.meterLate h4
    | some i => exact .ite (.teamChange (.ite h4.onDesc.meterLate h4)) (.ite h4.onDesc.meterLate h4)
theorem State.memoriesWf.frerOf {b h' d ctx} : (s.frerOf b h' d ctx).2.memoriesWf := by
  unfold State.frerOf
  split
  · exact h
  · exact .ite_snd h (.ite_snd h.bump h)
theorem State.memoriesWf.dropFrame {b h' sessions} : (s.dropFrame b h' sessions).memoriesWf := h.mirrorAll.cullet
theorem State.memoriesWf.handOff {b h' d f cls colour ing errs} :
    (s.handOff b h' d f cls colour ing errs).memoriesWf := by
  unfold State.handOff
  dsimp only
  split
  · exact .dropFrame (.ite_snd h.seqCorrected.seqGenerate h.seqCorrected)
  · exact .relHold (.mirrorAll (.handCopies (.ite_snd h.seqCorrected.seqGenerate h.seqCorrected)))
theorem State.memoriesWf.lastPass {b h' fwd target lost errs} : (s.lastPass b h' fwd target lost errs).memoriesWf := by
  unfold State.lastPass
  split
  next s1 e1 =>
  split
  next s2 e2 =>
  have h2 : s2.memoriesWf := .of_snd2 (State.memoriesWf.of_snd h.identify e1).context e2
  extract_lets stream
  split
  next s3 e3 =>
  have h3 : s3.memoriesWf := .of_snd2 (.ite_snd2 h2 h2.destOf) e3
  dsimp only
  exact .ite h3.activeEdits.police.fillHops.onDesc.dropFrame h3.activeEdits.police.fillHops.onDesc.frerOf.handOff
theorem State.memoriesWf.directPass {b h' c errs} : (s.directPass b h' c errs).memoriesWf := by
  unfold State.directPass
  dsimp only
  exact h.fillHops.onDesc.handOff
theorem State.memoriesWf.puntyRefused {b depth} : (s.puntyRefused b depth).memoriesWf := .ite h.bump.raise h.bump.raise
theorem State.memoriesWf.endPass {b h' a errs} : (s.endPass b h' a errs).memoriesWf :=
  .ite (.ite (.lastPass (.drained (.puntyRefused (.ite h.addCtr h)))) (.bump (.onMar (.ite h.addCtr h))))
    (.lastPass (.drained (.ite h.addCtr h)))
theorem resultRelease_memoriesWf {b errs} : (resultRelease b errs s).memoriesWf := by
  unfold resultRelease
  dsimp only
  split
  · exact h
  · split
    · exact .ite h.onMar.cqIssue.drained.directPass h.onMar.cqIssue.ruleAction.endPass
    · exact h.onMar.cqIssue.ruleAction.endPass

/-! ### Machine/Receive -/

theorem State.memoriesWf.ciphCount {p c} : (s.ciphCount p c).memoriesWf := h.bump
theorem State.memoriesWf.inspectTagged {p f} : (s.inspectTagged p f).2.memoriesWf := by
  unfold State.inspectTagged
  refine .ite_snd h.ciphCount ?_
  split
  · exact .snd h.ciphCount
  · exact .ite_snd h.scCount (.ite_snd h.scCount h)
theorem State.memoriesWf.inspect {p f} : (s.inspect p f).2.memoriesWf :=
  .ite_snd h (.ite_snd (.ite_snd h.ciphCount (.ite_snd h.ciphCount h.ciphCount)) h.inspectTagged)
theorem State.memoriesWf.closedTo {b} : MaybeWf (s.closedTo b) := .ite (.some h.bump) (.ite (.some h.bump) .none)
theorem State.memoriesWf.admitCheck {p w} : MaybeWf (s.admitCheck p w) :=
  .ite (.some h.bump.portCount) (.ite (.some h.bump.portCount) .none)
theorem State.memoriesWf.offer {x1 bytes whole age} : (s.offer x1 bytes whole age).memoriesWf := by
  unfold State.offer
  dsimp only
  split
  · next s1 e =>
    exact h.putRx.closedTo _ e
  · split
    · exact h.putRx.inspect
    · split
      · next s2 e2 =>
        exact h.putRx.inspect.admitCheck _ e2
      · exact h.putRx.inspect.stampAgo.onMar.request.putRx
theorem headerAdmit_memoriesWf {p bytes early preempt age} : (headerAdmit p bytes early preempt age s).memoriesWf :=
  .ite h (.ite h.putRx h.offer)
theorem State.memoriesWf.awaitTag {x1 desc gone sec check} : (s.awaitTag x1 desc gone sec check).memoriesWf := h.onCiph
theorem State.memoriesWf.answerAdmit.answerNone {x whole sec check} :
    (State.answerAdmit.answerNone x whole sec check s).memoriesWf := by
  unfold State.answerAdmit.answerNone
  dsimp only
  split
  · exact .awaitTag (.ite h.putRx h.onRx)
  · exact .ite h.putRx h.onRx
theorem State.memoriesWf.answerAdmit {b a x bytes whole sec tick no check} :
    (s.answerAdmit b a x bytes whole sec tick no check).memoriesWf := by
  unfold State.answerAdmit
  dsimp only
  split
  · refine .storeCut ?_
    split
    · exact .awaitTag (.ite h.onDesc.storeFrame.onMar.putRx h.onDesc.storeFrame.onMar.onRx)
    · exact .ite h.onDesc.storeFrame.onMar.putRx h.onDesc.storeFrame.onMar.onRx
  · exact State.memoriesWf.answerAdmit.answerNone h.countBound
  · exact State.memoriesWf.answerAdmit.answerNone h
theorem State.memoriesWf.answerBridge {e' a k} : (s.answerBridge e' a k).memoriesWf := by
  unfold State.answerBridge
  split
  · exact h.cullet
  · exact h
  · exact h.onBridge
  · exact h.bump.onBridge
theorem State.memoriesWf.rxEndCount {p f e'} : (s.rxEndCount p f e').memoriesWf := by
  unfold State.rxEndCount
  split
  · exact .ite h.portCount h.portCount.portCount
  · exact h.portCount
  · exact h.portCount
  · exact h.portCount
  · exact h.portCount
theorem State.memoriesWf.settleGone {x1 v len bad} : (s.settleGone x1 v len bad).memoriesWf := by
  unfold State.settleGone
  refine .eachLearn ?_
  split
  · refine .ite ?_ ?_
    · refine .bump (.filterSdu ?_)
      split
      · exact h.meterReturn
      · exact h
    · split
      · exact h.meterReturn
      · exact h
  · split
    · exact h.meterReturn
    · exact h
theorem State.memoriesWf.endOffered {x bytes e' err} : (s.endOffered x bytes e' err).memoriesWf := by
  unfold State.endOffered
  extract_lets p b k s0 reason
  split
  split
  next s2 e2 =>
  have h0 : s0.memoriesWf := h.putRx
  have h2 : s2.memoriesWf := by
    refine .of_snd ?_ e2
    dsimp only
    split
    · exact .snd h0
    · exact .snd h0.storeFrame.storeCut.trimChain
  extract_lets good s3
  have h3 : s3.memoriesWf := by
    dsimp only [s3]
    split
    · exact h2
    · exact .ite h2.receptionGood h2.receptionBad
  split
  · refine .ite h3.awaitTag ?_
    split
    · exact h3.settleGone
    · exact h3
  · split
    · exact h3.settleGone
    · exact h3
theorem State.memoriesWf.rxWake {p} : (s.rxWake p).memoriesWf := .ite h.wakeFrom h
theorem State.memoriesWf.inspectBad {p bytes} : (s.inspectBad p bytes).memoriesWf := .ite h h.inspect
theorem State.memoriesWf.endFrame {x1 bytes lost early hit age err} :
    (s.endFrame x1 bytes lost early hit age err).memoriesWf := by
  unfold State.endFrame
  extract_lets p k l e s1 _ s2
  have h1 : s1.memoriesWf := h.rxEndCount
  have h2 : s2.memoriesWf := .ite h1.endOffered (.ite (h1.offer.either (fun hu => hu) (fun hu => hu.putRx))
    h1.inspectBad)
  exact .ite h (.ite (.ite h h.portCount) (h2.maybe fun hu => hu.rxWake))
theorem State.memoriesWf.fecCount {p f} : (s.fecCount p f).memoriesWf := .ite h.portCount.portCount h
theorem frameReceive_memoriesWf {p bytes lost early preempt age fec err} :
    (frameReceive p bytes lost early preempt age fec err s).memoriesWf := by
  unfold frameReceive
  dsimp only
  split
  · exact h
  · exact .ite h (.endFrame (.onLink (.fecCount (.ite h.onLink h))))
theorem State.memoriesWf.assyError {p} : (s.assyError p).memoriesWf := by
  unfold State.assyError
  dsimp only
  refine .ite ?_ h
  split
  · refine .settleGone ?_
    split
    · exact h.onLink.portCount.putRx.trimChain.receptionBad
    · exact h.onLink.portCount.putRx
  · split
    · exact h.onLink.portCount.putRx.trimChain.receptionBad
    · exact h.onLink.portCount.putRx
theorem State.memoriesWf.fragmentIdle {p last} : (s.fragmentIdle p last).memoriesWf := .ite h.portCount h
theorem fragmentReceive_memoriesWf {p smd bytes last early age err} :
    (fragmentReceive p smd bytes last early age err s).memoriesWf := by
  unfold fragmentReceive
  dsimp only
  refine .ite h ?_
  split
  · exact .ite h.onLink h
  · exact .ite (mmVerify_memoriesWf h) h
  · exact .ite h.portCount h
  · exact .ite (.ite (.ite h.assyError.onLink h.assyError.onLink.endFrame) h.assyError.onLink) h.fragmentIdle
  · refine .ite h.fragmentIdle ?_
    split
    · exact h.portCount
    · exact .ite (.ite (.ite h.onLink h.onLink.endFrame) h.onLink) (.ite h.portCount.assyError h.assyError)
theorem State.memoriesWf.tagCheck {t} : (s.tagCheck t).2.memoriesWf :=
  .ite_snd h.scCount (.ite_snd h.scCount.raise (.scCount (.scCount (.ite (.onCiph (.ite h.scCount h))
    (.ite h.scCount h)))))
theorem tagResult_memoriesWf {p err} : (tagResult p err s).memoriesWf := by
  unfold tagResult
  dsimp only
  split
  · exact h
  · split
    · refine .settleGone ?_
      split
      · exact h.onCiph.tagCheck
      · exact .ite h.onCiph.tagCheck.tagPassed h.onCiph.tagCheck.receptionBad
    · split
      · exact h.onCiph.tagCheck
      · exact .ite h.onCiph.tagCheck.tagPassed h.onCiph.tagCheck.receptionBad

/-! ### Machine/Rings -/

theorem State.memoriesWf.bar2 {f} (hf : ∀ u, u.memoriesWf → (f u).memoriesWf) : (s.bar2 f).memoriesWf := .ite h (hf _ h)
theorem State.memoriesWf.headPast {i n} : (s.headPast i n).memoriesWf := .ite h.setFld.onRing h.setFld.setFld
theorem State.memoriesWf.txDone {i st} : (s.txDone i st).memoriesWf := h.hostPut.headPast
theorem State.memoriesWf.takeDone {t st wrote} : (s.takeDone t st wrote).memoriesWf :=
  (h.ifDo (fun _ hu => hu.hostPut)).ifDo fun _ hu => hu.headPast
theorem State.memoriesWf.txAdmit {b i g d frame} : (s.txAdmit b i g d frame).memoriesWf := by
  unfold State.txAdmit
  dsimp only
  exact h.storeFrame.onMar
theorem txDescriptorFetch_memoriesWf {i d bytes} : (txDescriptorFetch i d bytes s).memoriesWf :=
  .ite (.ite h.onRing.bump.txDone h.onRing.request) h
theorem State.memoriesWf.answerCpu {b a t} : (s.answerCpu b a t).memoriesWf := by
  unfold State.answerCpu
  split
  · exact h.cullet
  · exact h
  · exact h.txAdmit.bump.takeDone
  · exact h.bump.takeDone
theorem State.memoriesWf.deliver {b r a} : (s.deliver b r a).memoriesWf := by
  unfold State.deliver
  split
  · exact h.answerAdmit
  · exact h.answerBridge
  · exact h.answerCpu
  · exact h
theorem State.memoriesWf.rxWrite {r c v total size k l f} : (s.rxWrite r c v total size k l f).memoriesWf := by
  induction l generalizing s k f with
  | nil => exact h
  | cons a l ih => exact ih h.hostPut.hostPut
theorem State.memoriesWf.rxLeave {r b c} : (s.rxLeave r b c).memoriesWf := h.popHead.settleUnit
theorem rxFrameWrite_memoriesWf {r addrs} : (rxFrameWrite r addrs s).memoriesWf := by
  unfold rxFrameWrite
  split
  · exact h
  · exact .ite h.rxWrite.bump.headPast.onRing.forwarded.rxLeave h
theorem irqCoalesceEnd_memoriesWf {i} : (irqCoalesceEnd i s).memoriesWf :=
  .ite (h.onRing.ifDo (fun _ hu => hu.setFld)) h
theorem State.memoriesWf.ringCfg {i v} : (s.ringCfg i v).memoriesWf :=
  .ite h.plainWrite.setFld.setFld.setFld.eachTake h.plainWrite
theorem State.memoriesWf.dmaDrop {r} : (s.dmaDrop r).memoriesWf := by
  unfold State.dmaDrop
  split
  · exact h
  · exact h.bump.onRing.rxLeave
theorem ringDmaError_memoriesWf {i k wrote} : (ringDmaError i k wrote s).memoriesWf := by
  unfold ringDmaError
  refine .ite ?_ h
  refine .raise (.setFld (.setFld ?_))
  split
  · exact h.takeDone.eachTake
  · exact .ite (.ite h.txDone h.headPast) h.dmaDrop

/-! ### Machine/Host -/

theorem State.memoriesWf.counterNow {p off w direct} : (s.counterNow p off w direct).2.memoriesWf :=
  .ite_read (.ite_read h h.free) h
theorem State.memoriesWf.counterLow {path p off w direct} : (s.counterLow path p off w direct).2.memoriesWf :=
  h.counterNow.withClatch
theorem State.memoriesWf.counterHigh {path p off w direct} : (s.counterHigh path p off w direct).2.memoriesWf := by
  unfold State.counterHigh
  split
  · exact .ite_snd h h.counterNow
  · exact .snd h.counterNow
theorem State.memoriesWf.counterRead {path p off} : ReadWf (s.counterRead path p off) := by
  unfold State.counterRead
  split
  · exact .none
  · refine .ite .none ?_
    split
    · exact .some h
    · refine .some ?_
      split_ifs
      · exact h.counterLow
      · exact h.counterHigh
theorem State.memoriesWf.pathRead {path p off f asleep} (hf : ∀ u, u.memoriesWf → (f u).2.memoriesWf) :
    (s.pathRead path p off f asleep).memoriesWf := by
  unfold State.pathRead
  split
  · exact .ite (h.wordRead hf) (.ite h.withResp (.respond (hf _ h)))
  · exact .ite h (.ite (.respond (h.fromPage hf)) h.bump.raise.withResp)
theorem State.memoriesWf.ucntLow {path b} : (s.ucntLow path b).2.memoriesWf := h.counterLow
theorem State.memoriesWf.brdropLow {path t} : (s.brdropLow path t).2.memoriesWf := h.counterLow
theorem State.memoriesWf.extremeRead {x1} : (s.extremeRead x1).2.memoriesWf := h.setFld
theorem State.memoriesWf.snapAccept {p snap clear} : (s.snapAccept p snap clear).memoriesWf := .ite h.withHub h
theorem State.memoriesWf.pageCtrl {p v} : (s.pageCtrl p v).memoriesWf := h.wr.snapAccept
theorem pageSnap_memoriesWf {p v} : (pageSnap p v s).memoriesWf := .ite (h.wordWrite (fun _ hu => hu.pageCtrl)) h
theorem pageCounterClear_memoriesWf {p v} : (pageCounterClear p v s).memoriesWf :=
  .ite (h.wordWrite (fun _ hu => hu.pageCtrl)) h
theorem State.memoriesWf.snapAll : s.snapAll.memoriesWf :=
  h.acceptWrite.each fun _ _ hu => .ite hu.snapAccept hu.downWrite
theorem State.memoriesWf.snapPage {r} : (s.snapPage r).memoriesWf :=
  .ite h ((h.maybe fun hu => hu.withSnaps.setFld.setFld).maybe fun hu => hu.withCtrs)
theorem State.memoriesWf.snapCommit {f n} : (s.snapCommit f n).memoriesWf := h.withHub.each fun _ _ hu => hu.snapPage
theorem State.memoriesWf.intForce {p v} : (s.intForce p v).memoriesWf := h.wr
theorem intForceWrite_memoriesWf {p v} : (intForceWrite p v s).memoriesWf :=
  .ite (h.wordWrite (fun _ hu => hu.intForce)) h
theorem State.memoriesWf.vecEoi {v} : (s.vecEoi v).memoriesWf := .ite h.message h
theorem State.memoriesWf.sendHeld {l} : (s.sendHeld l).memoriesWf := h.each fun _ _ hu => hu.message
theorem State.memoriesWf.vectorMask {v on} : (s.vectorMask v on).memoriesWf := .ite h.setFld.sendHeld h.setFld
theorem State.memoriesWf.setMsix {on} : (s.setMsix on).memoriesWf := .ite h.withPcie.sendHeld h.withPcie
theorem State.memoriesWf.setFmask {on} : (s.setFmask on).memoriesWf := .ite h.withPcie.sendHeld h.withPcie
theorem msixUnmask_memoriesWf {u} : (msixUnmask u s).memoriesWf := by
  unfold msixUnmask
  split
  · exact h.bar2 fun _ hu => hu.vectorMask
  · exact .ite h h.setFmask
  · exact .ite h h.setMsix
theorem State.memoriesWf.lehrCtrl {p v} : (s.lehrCtrl p v).memoriesWf :=
  .ite (h.setFld.each (fun _ _ hu => hu.through)) h.setFld
theorem withholdRelease_memoriesWf {p} : (withholdRelease p s).memoriesWf :=
  .ite (h.wordWrite (fun _ hu => hu.lehrCtrl)) h
theorem hubTimeout_memoriesWf {t write stays} : (hubTimeout t write stays s).memoriesWf := by
  unfold hubTimeout
  exact .upd (.ite h h.hubMissing)
theorem hostInterfaceReset_memoriesWf {writing speed width} : (hostInterfaceReset writing speed width s).memoriesWf :=
  .ite h ((h.each (fun _ _ hu => hu.dmaDrop)).clearPages.upd.each (fun _ _ hu =>
    hu.setFld)).dropTakes.setFld.setFld.bump
theorem pciPowerState_memoriesWf {d3} : (pciPowerState d3 s).memoriesWf := .ite h h.withPcie
theorem gpioEdge_memoriesWf {n level} : (gpioEdge n level s).memoriesWf :=
  .ite h (h.withPins.ifDo (fun _ hu => hu.raise))

/-! ### Machine/RegWrite -/

theorem State.memoriesWf.storeWrite {p off v} : (s.storeWrite p off v).memoriesWf := by
  unfold State.storeWrite
  split
  · exact h.plainWrite
  · exact h
theorem State.memoriesWf.writeBoot {off v} : (s.writeBoot off v).memoriesWf := by
  unfold State.writeBoot
  dsimp only
  split
  · exact h.bcfgWrite
  · exact h.bootCmdWrite
  · exact h.free.flCmdWrite
  · exact h.storeWrite
theorem State.memoriesWf.writeTime {off v} : (s.writeTime off v).memoriesWf := by
  unfold State.writeTime
  split
  · exact h.timeCtrlWrite
  · exact h.freqAdjWrite
  · exact h.timeAdjustCmd
  · exact .ite h.timeSetCmd h
  · exact h.storeWrite.rclkTrack
  · exact h.storeWrite.rclkTrack
  · exact h.storeWrite
theorem State.memoriesWf.writeDev {off v} : (s.writeDev off v).memoriesWf := by
  unfold State.writeDev
  split
  · exact h.devCmdWrite
  · exact h.wakeCmdWrite
  · exact h.dctrlWrite
  · exact h.storeWrite
theorem State.memoriesWf.writeLehr {off v} : (s.writeLehr off v).memoriesWf :=
  .ite h.lctrlWrite (.ite h.lwinWrite h.storeWrite)
theorem State.memoriesWf.writePort {g off v} : (s.writePort g off v).memoriesWf :=
  .ite h.pcfgWrite (.ite h.mmcfgWrite (.ite h.mdioCmdWrite h.storeWrite))
theorem State.memoriesWf.writeSerdes {q off v} : (s.writeSerdes q off v).memoriesWf :=
  .ite h.rateWrite (.ite h.lcfgWrite (.ite h.prbsWrite h.storeWrite))
theorem State.memoriesWf.writeCls {b off v} : (s.writeCls b off v).memoriesWf :=
  .ite (.ite h.swapRequest h) (.ite h.seedWrite (.ite h.seedWrite (.ite h.seedWrite
    (.ite h.rtclassWrite (.ite h.twCmd h.storeWrite)))))
theorem State.memoriesWf.writeFdb {b off v} : (s.writeFdb b off v).memoriesWf :=
  .ite h.lcfgFdbWrite (.ite h.agecfgWrite (.ite h.seedWrite (.ite h.twCmd (.ite h.srchCmd h.storeWrite))))
theorem State.memoriesWf.writeStrm {b off v} : (s.writeStrm b off v).memoriesWf := by
  unfold State.writeStrm
  dsimp only
  split
  · exact .ite h.watchCfgWrite h.storeWrite
  · exact .ite h.seedWrite (.ite h.twCmd (.ite h.sqCmd h.storeWrite))
theorem State.memoriesWf.writeBuf {b off v} : (s.writeBuf b off v).memoriesWf := by
  unfold State.writeBuf
  dsimp only
  exact .ite (.ite h.poolStart h) (.ite (.ite h.cfgIgnored h.storeWrite)
    (.ite h.ownResWrite (.ite h.ownDescWrite (.ite h.free.bcmdWrite (.ite (.ite h.dfreeClear h)
    (.ite h.bwinWrite h.storeWrite))))))
theorem State.memoriesWf.writeCore {b off v} : (s.writeCore b off v).memoriesWf :=
  .ite h.storeWrite (.ite h.storeWrite (.ite h h.storeWrite))
theorem State.memoriesWf.writeGate {b off v} : (s.writeGate b off v).memoriesWf := by
  unfold State.writeGate
  split
  · exact (h.gctrlWrite.ifDo (fun _ hu => hu.sagPlanPort)).gateFollow
  · exact h.gclHiWrite
  · exact h.storeWrite
theorem State.memoriesWf.writeCiph {c off v} : (s.writeCiph c off v).memoriesWf :=
  .ite h.cctrl (.ite h.twCmd (.ite h.wr (.ite h.jqCfg (.ite h.jqTail h.storeWrite))))
theorem State.memoriesWf.writeChan {c off v} : (s.writeChan c off v).memoriesWf := by
  unfold State.writeChan
  split
  · exact .ite h.storeWrite h.raise
  · exact h.chCmdWrite
  · exact h.storeWrite
theorem State.memoriesWf.writeBar2 {p off v} : (s.writeBar2 p off v).memoriesWf :=
  .ite (.ite h.ringCfg h.storeWrite) (.ite h.vectorMask h.storeWrite)
theorem State.memoriesWf.writeCommon {p off v} : (s.writeCommon p off v).memoriesWf := by
  unfold State.writeCommon
  split
  · exact h.pageCtrl
  · exact h.wr
  · exact h.wr
  · exact h.intForce
  · exact h.lehrCtrl
  · exact h
theorem State.memoriesWf.writeWord {p off v} : (s.writeWord p off v).memoriesWf := by
  unfold State.writeWord
  refine .ite h.writeCommon ?_
  split
  · exact h
  · exact .ite (.ite h.snapAll h) (.ite h.vecEoi h.storeWrite)
  · exact h.writeBoot
  · exact h.writeTime
  · exact h.writeDev
  · exact h.storeWrite.ifDo fun _ hu => hu.sagPlanAll
  · exact h.writeLehr
  · exact h.mirrWrite
  · exact h.writePort
  · exact h.writeSerdes
  · exact h.writeCls
  · exact h.writeFdb
  · exact h.writeStrm
  · exact h.writeBuf
  · exact h.writeCore
  · exact h.writeGate
  · exact .ite h.twCmd h.storeWrite
  · exact h.writeCiph
  · exact h.writeChan
  · exact .ite h.imgCtrlWrite h.storeWrite
  · exact .ite h.freqCtrlWrite h.storeWrite
  · exact h.storeWrite
theorem State.memoriesWf.busWrite {p off v} : (s.busWrite p off v).memoriesWf :=
  .ite (h.bar2 (fun _ hu => hu.writeBar2)) (.ite (h.wordWrite (fun _ hu => hu.writeWord)) h)
theorem registerWrite_memoriesWf {a v whole} : (registerWrite a v whole s).memoriesWf := by
  unfold registerWrite
  refine .ite h ?_
  split
  · exact .ite h (.ite h.busWrite h.bump.raise)
  · exact h.withPcie
  · exact h.setMsix
  · exact h.setFmask

/-! ### Machine/RegRead -/

theorem State.memoriesWf.readHost {off} : ReadWf (s.readHost off) :=
  .ite (.some h) (.ite (.some h) (.ite (.some h) (.ite (.some h) (.ite (.some h)
    (.ite (.some h) (.ite (.some h) (.ite (.some h) .none)))))))
theorem State.memoriesWf.romSeen : s.romSeen.memoriesWf := by
  unfold State.romSeen
  dsimp only
  exact .ite (.ite h.free.setStage h.free) h
theorem State.memoriesWf.stageRead : (s.stageRead).2.memoriesWf := h.romSeen
theorem State.memoriesWf.dstat : (s.dstat).2.memoriesWf := .ite_snd h h.commitSeen
theorem State.memoriesWf.readTime {off} : ReadWf (s.readTime off) :=
  .ite (.some h.nowRead) (.ite (.some h.gridTickRead) (.ite (.some h.ppsInRead)
    (.ite (.some h) (.ite (.some h.setFld) (.ite (.some h.etsRead) .none)))))
theorem State.memoriesWf.readDev {off} : ReadWf (s.readDev off) :=
  .ite (.some h) (.ite (.some h.dstat) (.ite (.some h.refLogPop) (.ite (.some h) (.ite (.some h.ledgerLatch) .none))))
theorem State.memoriesWf.readMarver {b off} : ReadWf (s.readMarver b off) := .ite (.some h) .none
theorem State.memoriesWf.readCls {b off} : ReadWf (s.readCls b off) :=
  .ite (.some h) (.ite (.some h) (.ite (.some h) (.ite (.some h) (.ite (.some h)
    (.ite (.some h) (.ite (.some h.failLogPop) .none))))))
theorem State.memoriesWf.readFdb {b off} : ReadWf (s.readFdb b off) :=
  .ite (.some h) (.ite (.some h.flapLogPop) (.ite (.some h.sigLogPop) (.ite (.some h.failLogPop) .none)))
theorem State.memoriesWf.readStrm {b off} : ReadWf (s.readStrm b off) :=
  .ite (.some h) (.ite (.some h.failLogPop) .none)
theorem State.memoriesWf.readBuf {b off w} : ReadWf (s.readBuf b off w) :=
  .ite (.some h) (.ite (.some h) (.ite (.some h.setFld) (.ite (.some h)
    (.ite (.some h) (.ite (.some h) (.ite (.some h) (.ite (.some h) (.ite (.some h)
    (.ite (.some h) (.ite (.some h) (.ite (.some h.bwinRead) .none)))))))))))
theorem State.memoriesWf.readCore {b off w} : ReadWf (s.readCore b off w) :=
  .ite (.some h) (.ite (.some h.setFld) (.ite (.some h) (.ite (.some h)
    (.ite (.some h) (.ite (.some h) (.ite (.some h) (.ite (.some h) .none)))))))
theorem State.memoriesWf.readSched {p off} : ReadWf (s.readSched p off) := .ite (.some h) (.ite (.some h.sagSeen) .none)
theorem State.memoriesWf.readGate {p off} : ReadWf (s.readGate p off) :=
  .ite (.some h) (.ite (.some h) (.ite (.some h.gclLoRead) (.ite (.some h.gclHiRead) .none)))
theorem State.memoriesWf.readCiph {c off} : ReadWf (s.readCiph c off) :=
  .ite (.some h) (.ite (.some h.pnLogPop) (.ite (.some h) (.ite (.some h.failLogPop) (.ite (.some h) .none))))
theorem State.memoriesWf.readHalf {t off} : ReadWf (s.readHalf t off) :=
  .ite (.some h) (.ite (.some h) (.ite (.some h.setFld) .none))
theorem State.memoriesWf.live {p off w} : ReadWf (s.live p off w) := by
  unfold State.live
  split
  · exact h.readHost
  · exact .ite (.some h.stageRead) .none
  · exact h.readTime
  · exact h.readDev
  · exact .ite (.some h.lstatRead) (.ite (.some h.lwinRead) .none)
  · exact .ite (.some h) .none
  · exact h.readMarver
  · exact h.readCls
  · exact h.readFdb
  · exact h.readStrm
  · exact h.readBuf
  · exact h.readCore
  · exact h.readSched
  · exact h.readGate
  · exact .ite (.some h.failLogPop) .none
  · exact h.readCiph
  · exact .ite (.some h) .none
  · exact h.readHalf
  · exact .none
theorem State.memoriesWf.selected {path p off} : ReadWf (s.selected path p off) := by
  unfold State.selected
  split
  · exact .ite (.some h.ucntLow) (.ite (.some h.counterHigh) .none)
  · exact .ite (.some h.brdropLow) (.ite (.some h.counterHigh) .none)
  · exact .none
theorem State.memoriesWf.readBar2 {path p off} : (s.readBar2 path p off).2.memoriesWf :=
  .ite_read h (.ite_read h (h.counterRead.getD h))
theorem State.memoriesWf.readWord {path p off} : (s.readWord path p off).2.memoriesWf := by
  unfold State.readWord
  refine .ite_read h.readBar2 (.ite_read h (.ite_read h ?_))
  split
  · refine .ite_read (h.counterRead.getD h) ?_
    split
    · next r e => exact (h.selected.orElse h.live) r e
    · exact h.counterRead.getD h
  · exact h
theorem State.memoriesWf.readAt {path p off} : (s.readAt path p off).memoriesWf := h.pathRead fun _ hu => hu.readWord
theorem State.memoriesWf.i2c {pec f} (hf : ∀ u, u.memoriesWf → (f u).memoriesWf) : (s.i2c pec f).memoriesWf :=
  .ite h (hf _ h)
theorem i2cWrite_memoriesWf {a v pec} : (i2cWrite a v pec s).memoriesWf := by
  unfold i2cWrite
  refine h.i2c ?_
  intro _ hu
  split
  · exact hu.onPage fun _ hu => hu.writeWord
  · exact hu.bump.raise

/-! ### Machine/Release -/

theorem State.memoriesWf.runAcc {a} : (s.runAcc a).memoriesWf := by
  unfold State.runAcc
  split
  · exact h.hubBack.submit
  · exact h.onPage fun _ hu => hu.writeWord
  · exact h.onPage fun _ hu => hu.bcmdWrite
  · exact (h.fromPage (fun _ hu => hu.readWord)).withResp
theorem State.memoriesWf.hubRelease : s.hubRelease.memoriesWf := h.withHub.each fun _ _ hu => .ite hu.hold hu.runAcc

/-! ### Machine/Edges -/

theorem State.memoriesWf.holdQueue {p c n} : (s.holdQueue p c n).memoriesWf := by
  induction n generalizing s with
  | zero => exact h
  | succ n ih =>
    unfold State.holdQueue
    dsimp only
    split
    · exact .ite (ih h.popHead.culled.portCount.settleUnit) h
    · exact .ite (ih h.loseMid.portCount) h
    · exact .ite (ih h.setQueue.culled.portCount.settleUnit) h
    · exact h
theorem State.memoriesWf.holdHeads {b} : (s.holdHeads b).memoriesWf :=
  .ite h (h.each (fun _ _ hu => hu.each (fun _ _ hu => hu.holdQueue)))
theorem State.memoriesWf.stashRetry {b used k} : (s.stashRetry b used k).memoriesWf := by
  unfold State.stashRetry
  dsimp only
  refine .ite h ?_
  split
  · exact h.imageHash.onTabs.addCtr
  · exact .ite h.imageHash.onTabs.addCtr h.imageHash.onTabs
  · exact .ite h.imageHash.onTabs.addCtr h.imageHash.onTabs
theorem State.memoriesWf.walkFollow {b before} : (s.walkFollow b before).memoriesWf := h.onFdb
theorem State.memoriesWf.commitTick {b n} : (s.commitTick b n).memoriesWf :=
  (h.fdbEdge.unitCommit.mirrCommit.foldl (fun _ _ hu => hu.stashRetry)).walkFollow.snapCommit.swapCommit.swapDrain.each
    fun _ _ hu => hu.domEdge
theorem State.memoriesWf.teamTicks {t} : (s.teamTicks t).memoriesWf :=
  h.each fun _ _ hu => hu.onTeam.unitCommit.onTeam
theorem State.memoriesWf.clusterTicks {c} : (s.clusterTicks c).memoriesWf :=
  .ite (.ite h h.onCiph) (.unitCommit (.ite h h.onCiph))
theorem State.memoriesWf.endTick {b n} : (s.endTick b n).memoriesWf := by
  unfold State.endTick
  exact h.commitTick.onTick.teamTicks.clusterTicks
theorem State.memoriesWf.gridAdvance : s.gridAdvance.memoriesWf := by
  unfold State.gridAdvance
  exact ((((h.upd.each (fun _ _ hu => hu.endTick)).snapCommit.each (fun _ _ hu => hu.domCount)).devEdge.loadEdge.each
    (fun _ _ hu => hu.domEdge)).imageEdge.imageEdge.each (fun _ _ hu => hu.onSig)).hubRelease
theorem State.memoriesWf.realignTick {b a} : (s.realignTick b a).memoriesWf := h.onTick
theorem gridEdge_memoriesWf : (gridEdge s).memoriesWf := by
  unfold gridEdge
  dsimp only
  refine .ite ?_ h
  refine .gridAdvance (.withTime ?_)
  split
  · exact h.reach
  · exact h.reach.each fun _ _ hu => hu.realignTick
theorem State.memoriesWf.freeSource {b} : (s.freeSource b).memoriesWf := by
  unfold State.freeSource
  exact .ite h.withTime.gridAdvance (.ite (.ite h.withTime.gridAdvance h.withTime) h)
theorem State.memoriesWf.paceEdge {b clk gridLen} : (s.paceEdge b clk gridLen).memoriesWf :=
  ((h.maybe fun hu => hu.bump).putTick.setFld.setFld.maybe fun hu => hu.bump.raise).maybe fun hu => hu.raise
theorem State.memoriesWf.admitEdge {b} : (s.admitEdge b).memoriesWf := .ite h.withDev (.ite h h.withDev)
theorem localEdge_memoriesWf {b clk gridLen} : (localEdge b clk gridLen s).memoriesWf := by
  unfold localEdge
  dsimp only
  exact .ite (.ite h.endTick.paceEdge.holdHeads.openEdge.admitEdge.clkEdge.hubRelease
    h.endTick.paceEdge.holdHeads.openEdge.admitEdge.clkEdge.hubRelease.freeSource) h

/-! ### The step -/

theorem exec_memoriesWf : ∀ c : Instr, ∃ u, exec c s = .next (settle u) ∧ u.memoriesWf
  | .registerWrite .. => ⟨_, rfl, registerWrite_memoriesWf h⟩
  | .hubTimeout .. => ⟨_, rfl, hubTimeout_memoriesWf h⟩
  | .rcExtremeRead .. => ⟨_, rfl, h.wordRead (fun _ hu => hu.extremeRead)⟩
  | .counterLowRead .. => ⟨_, rfl, h.readAt⟩
  | .nowNsRead => ⟨_, rfl, h.hostRead (fun _ hu => hu.nowRead)⟩
  | .gridTickLoRead => ⟨_, rfl, h.hostRead (fun _ hu => hu.gridTickRead)⟩
  | .ppsInNsRead => ⟨_, rfl, h.hostRead (fun _ hu => hu.ppsInRead)⟩
  | .ets0Read .. => ⟨_, rfl, h.hostRead (fun _ hu => hu.etsRead)⟩
  | .ucntLoRead .. => ⟨_, rfl, h.wordRead (fun _ hu => hu.ucntLow)⟩
  | .brdropLoRead .. => ⟨_, rfl, h.wordRead (fun _ hu => hu.brdropLow)⟩
  | .failLogRead .. => ⟨_, rfl, h.wordRead (fun _ hu => hu.failLogPop)⟩
  | .flapLogRead .. => ⟨_, rfl, h.wordRead (fun _ hu => hu.flapLogPop)⟩
  | .sigLogRead .. => ⟨_, rfl, h.wordRead (fun _ hu => hu.sigLogPop)⟩
  | .pnLogRead .. => ⟨_, rfl, h.wordRead (fun _ hu => hu.pnLogPop)⟩
  | .refLogRead => ⟨_, rfl, h.hostRead (fun _ hu => hu.refLogPop)⟩
  | .ledgerRead => ⟨_, rfl, h.hostRead (fun _ hu => hu.ledgerLatch)⟩
  | .gridEdge => ⟨_, rfl, gridEdge_memoriesWf h⟩
  | .seqScanVisit .. => ⟨_, rfl, seqScanVisit_memoriesWf h⟩
  | .localEdge .. => ⟨_, rfl, localEdge_memoriesWf h⟩
  | .headerAdmit .. => ⟨_, rfl, headerAdmit_memoriesWf h⟩
  | .headerDispatch .. => ⟨_, rfl, headerDispatch_memoriesWf h⟩
  | .microwordExecute .. => ⟨_, rfl, microwordExecute_memoriesWf h⟩
  | .watchdogAbort .. => ⟨_, rfl, watchdogAbort_memoriesWf h⟩
  | .routineEnd .. => ⟨_, rfl, routineEnd_memoriesWf h⟩
  | .resultRelease .. => ⟨_, rfl, resultRelease_memoriesWf h⟩
  | .learnRequest .. => ⟨_, rfl, learnRequest_memoriesWf h⟩
  | .agingVisit .. => ⟨_, rfl, agingVisit_memoriesWf h⟩
  | .signatureCheck .. => ⟨_, rfl, signatureCheck_memoriesWf h⟩
  | .handoffAccept .. => ⟨_, rfl, handoffAccept_memoriesWf h⟩
  | .bridgeSend .. => ⟨_, rfl, bridgeSend_memoriesWf h⟩
  | .bridgeCredit .. => ⟨_, rfl, bridgeCredit_memoriesWf h⟩
  | .peerMarkDown .. => ⟨_, rfl, peerMarkDown_memoriesWf h⟩
  | .bridgeReceiveBegin .. => ⟨_, rfl, bridgeReceiveBegin_memoriesWf h⟩
  | .bridgeReceiveEnd .. => ⟨_, rfl, bridgeReceiveEnd_memoriesWf h⟩
  | .bridgeAbandon .. => ⟨_, rfl, bridgeAbandon_memoriesWf h⟩
  | .spillMove .. => ⟨_, rfl, spillMove_memoriesWf h⟩
  | .spillWriteComplete .. => ⟨_, rfl, spillWriteComplete_memoriesWf h⟩
  | .stagePromote .. => ⟨_, rfl, stagePromote_memoriesWf h⟩
  | .returnRound .. => ⟨_, rfl, returnRound_memoriesWf h⟩
  | .spillReturn .. => ⟨_, rfl, spillReturn_memoriesWf h⟩
  | .txSelect .. => ⟨_, rfl, txSelect_memoriesWf h⟩
  | .frameTransmitEnd .. => ⟨_, rfl, frameTransmitEnd_memoriesWf h⟩
  | .txUnderrun .. => ⟨_, rfl, txUnderrun_memoriesWf h⟩
  | .frameReceive .. => ⟨_, rfl, frameReceive_memoriesWf h⟩
  | .tagResult .. => ⟨_, rfl, tagResult_memoriesWf h⟩
  | .fragmentReceive .. => ⟨_, rfl, fragmentReceive_memoriesWf h⟩
  | .inbandStatus .. => ⟨_, rfl, inbandStatus_memoriesWf h⟩
  | .linkFault .. => ⟨_, rfl, linkFault_memoriesWf h⟩
  | .linkUpQualified .. => ⟨_, rfl, linkUpQualified_memoriesWf h⟩
  | .linkDownQualified .. => ⟨_, rfl, linkDownQualified_memoriesWf h⟩
  | .holdExpiry .. => ⟨_, rfl, holdExpiry_memoriesWf h⟩
  | .portDisable .. => ⟨_, rfl, h.pcfgField⟩
  | .portEnable .. => ⟨_, rfl, h.pcfgField⟩
  | .fecWrite .. => ⟨_, rfl, h.pcfgField⟩
  | .mmVerify .. => ⟨_, rfl, mmVerify_memoriesWf h⟩
  | .rateWrite .. => ⟨_, rfl, h.wordWrite (fun _ hu => hu.rateWrite)⟩
  | .sdrefLoss .. => ⟨_, rfl, sdrefLoss_memoriesWf h⟩
  | .sdrefRestore .. => ⟨_, rfl, h.setFld⟩
  | .quadPllLock .. => ⟨_, rfl, quadPllLock_memoriesWf h⟩
  | .quadPllUnlock .. => ⟨_, rfl, h.quadPllLost⟩
  | .cdrLoss .. => ⟨_, rfl, h.cdrLost.linksTrack⟩
  | .mdioAddress .. => ⟨_, rfl, h.mdioCmd⟩
  | .mdioWrite .. => ⟨_, rfl, h.mdioCmd⟩
  | .mdioRead .. => ⟨_, rfl, h.mdioCmd⟩
  | .mdioReserved .. => ⟨_, rfl, h.mdioCmd⟩
  | .mdioDone .. => ⟨_, rfl, mdioDone_memoriesWf h⟩
  | .freqAdjWrite .. => ⟨_, rfl, h.hostWrite (fun _ hu => hu.freqAdjWrite)⟩
  | .timeSet => ⟨_, rfl, h.hostWrite (fun _ hu => hu.timeSetCmd)⟩
  | .timeAdjust .. => ⟨_, rfl, h.hostWrite (fun _ hu => hu.timeAdjustCmd)⟩
  | .gridEnWrite .. => ⟨_, rfl, h.hostWrite (fun _ hu => hu.timeCtrlWrite)⟩
  | .timeRefLoss => ⟨_, rfl, timeRefLoss_memoriesWf h⟩
  | .timePllUnlock => ⟨_, rfl, timePllUnlock_memoriesWf h⟩
  | .timeValid => ⟨_, rfl, timeValid_memoriesWf h⟩
  | .ppsInCapture .. => ⟨_, rfl, ppsInCapture_memoriesWf h⟩
  | .ppsOutRise => ⟨_, rfl, ppsOutRise_memoriesWf h⟩
  | .ppsOutFall => ⟨_, rfl, ppsOutFall_memoriesWf h⟩
  | .scrubRead .. => ⟨_, rfl, scrubRead_memoriesWf h⟩
  | .twInsert .. => ⟨_, rfl, twInsert_memoriesWf h⟩
  | .twDelete .. => ⟨_, rfl, twDelete_memoriesWf h⟩
  | .twSearch .. => ⟨_, rfl, twSearch_memoriesWf h⟩
  | .twRead .. => ⟨_, rfl, twRead_memoriesWf h⟩
  | .twWrite .. => ⟨_, rfl, twWriteEntry_memoriesWf h⟩
  | .twBadOp .. => ⟨_, rfl, twBadOp_memoriesWf h⟩
  | .keySlotLoad .. => ⟨_, rfl, keySlotLoad_memoriesWf h⟩
  | .keySlotZero .. => ⟨_, rfl, keySlotZero_memoriesWf h⟩
  | .seedWrite .. => ⟨_, rfl, h.wordWrite (fun _ hu => hu.seedWrite)⟩
  | .swapRequest .. => ⟨_, rfl, h.wordWrite (fun _ hu => hu.swapRequest)⟩
  | .rtclassWrite .. => ⟨_, rfl, h.wordWrite (fun _ hu => hu.rtclassWrite)⟩
  | .flapEnWrite .. => ⟨_, rfl, h.wordWrite (fun _ hu => hu.lcfgFdbWrite)⟩
  | .agecfgWrite .. => ⟨_, rfl, h.wordWrite (fun _ hu => hu.agecfgWrite)⟩
  | .searchFirst .. => ⟨_, rfl, searchFirst_memoriesWf h⟩
  | .searchNext .. => ⟨_, rfl, searchNext_memoriesWf h⟩
  | .searchFlush .. => ⟨_, rfl, searchFlush_memoriesWf h⟩
  | .searchReserved .. => ⟨_, rfl, searchReserved_memoriesWf h⟩
  | .searchDone .. => ⟨_, rfl, h.searchFinal.hubRelease⟩
  | .poolStart .. => ⟨_, rfl, h.wordWrite (fun _ hu => hu.poolStart)⟩
  | .poolBuildDone .. => ⟨_, rfl, h.poolBuilt.goCheck⟩
  | .allocAnswer .. => ⟨_, rfl, h.allocClock.onBuf.each (fun _ _ hu => hu.deliver)⟩
  | .holderRelease .. => ⟨_, rfl, holderRelease_memoriesWf h⟩
  | .freeListError .. => ⟨_, rfl, h.listError⟩
  | .listRebuildDone .. => ⟨_, rfl, h.listRebuilt⟩
  | .bufferDataUe .. => ⟨_, rfl, bufferDataUe_memoriesWf h⟩
  | .bufferHeaderUe .. => ⟨_, rfl, bufferHeaderUe_memoriesWf h⟩
  | .ownResWrite .. => ⟨_, rfl, h.wordWrite (fun _ hu => hu.ownResWrite)⟩
  | .ownDescWrite .. => ⟨_, rfl, h.wordWrite (fun _ hu => hu.ownDescWrite)⟩
  | .mboxAlloc .. => ⟨_, rfl, mboxAlloc_memoriesWf h⟩
  | .mboxFree .. => ⟨_, rfl, mboxFree_memoriesWf h⟩
  | .mboxAddref .. => ⟨_, rfl, mboxAddref_memoriesWf h⟩
  | .mboxReadhdr .. => ⟨_, rfl, mboxReadhdr_memoriesWf h⟩
  | .mboxReclaim .. => ⟨_, rfl, mboxReclaim_memoriesWf h⟩
  | .mboxBadOp .. => ⟨_, rfl, mboxBadOp_memoriesWf h⟩
  | .dfreeLogClear .. => ⟨_, rfl, h.wordWrite (fun _ hu => hu.dfreeClear)⟩
  | .bufferWindowAccess .. => ⟨_, rfl, bufferWindowAccess_memoriesWf h⟩
  | .mirrWrite .. => ⟨_, rfl, h.hostWrite (fun _ hu => hu.mirrWrite)⟩
  | .gateEntryBegin .. => ⟨_, rfl, gateEntryBegin_memoriesWf h⟩
  | .holdAssert .. => ⟨_, rfl, holdAssert_memoriesWf h⟩
  | .configChangeRequest .. => ⟨_, rfl, h.wordWrite (fun _ hu => hu.gctrlWrite.sagPlanPort.gateFollow)⟩
  | .configChangeComplete .. => ⟨_, rfl, configChangeComplete_memoriesWf h⟩
  | .gclHiWrite .. => ⟨_, rfl, h.wordWrite (fun _ hu => hu.gclHiWrite)⟩
  | .gclLoRead .. => ⟨_, rfl, h.wordRead (fun _ hu => hu.gclLoRead)⟩
  | .gclHiRead .. => ⟨_, rfl, h.wordRead (fun _ hu => hu.gclHiRead)⟩
  | .sqRead .. => ⟨_, rfl, sqRead_memoriesWf h⟩
  | .sqWrite .. => ⟨_, rfl, sqWrite_memoriesWf h⟩
  | .sqReset .. => ⟨_, rfl, sqReset_memoriesWf h⟩
  | .sqBadOp .. => ⟨_, rfl, sqBadOp_memoriesWf h⟩
  | .watchTest .. => ⟨_, rfl, watchTest_memoriesWf h⟩
  | .watchCfgWrite .. => ⟨_, rfl, h.wordWrite (fun _ hu => hu.watchCfgWrite)⟩
  | .teamRailFall .. => ⟨_, rfl, h.failHalf.teamFail⟩
  | .sharedRailFall => ⟨_, rfl, sharedRailFall_memoriesWf h⟩
  | .teamPllUnlock .. => ⟨_, rfl, teamPllUnlock_memoriesWf h⟩
  | .jqTailWrite .. => ⟨_, rfl, h.wordWrite (fun _ hu => hu.jqTail)⟩
  | .jobCtr .. => ⟨_, rfl, jobCtr_memoriesWf h⟩
  | .jobCbcEnc .. => ⟨_, rfl, jobCbcEnc_memoriesWf h⟩
  | .jobCbcDec .. => ⟨_, rfl, jobCbcDec_memoriesWf h⟩
  | .jobCfbEnc .. => ⟨_, rfl, jobCfbEnc_memoriesWf h⟩
  | .jobCfbDec .. => ⟨_, rfl, jobCfbDec_memoriesWf h⟩
  | .jobGcmEnc .. => ⟨_, rfl, jobGcmEnc_memoriesWf h⟩
  | .jobGcmDec .. => ⟨_, rfl, jobGcmDec_memoriesWf h⟩
  | .jobGmacGen .. => ⟨_, rfl, jobGmacGen_memoriesWf h⟩
  | .jobGmacVer .. => ⟨_, rfl, jobGmacVer_memoriesWf h⟩
  | .jobCmacGen .. => ⟨_, rfl, jobCmacGen_memoriesWf h⟩
  | .jobCmacVer .. => ⟨_, rfl, jobCmacVer_memoriesWf h⟩
  | .jobNop .. => ⟨_, rfl, jobNop_memoriesWf h⟩
  | .jobBadOp .. => ⟨_, rfl, jobBadOp_memoriesWf h⟩
  | .jobDmaError .. => ⟨_, rfl, jobDmaError_memoriesWf h⟩
  | .jqEnable .. => ⟨_, rfl, h.wordWrite (fun _ hu => hu.jqCfg)⟩
  | .katStart .. => ⟨_, rfl, h.wordWrite (fun _ hu => hu.cctrl)⟩
  | .katDone .. => ⟨_, rfl, katDone_memoriesWf h⟩
  | .hbmRefresh .. => ⟨_, rfl, hbmRefresh_memoriesWf h⟩
  | .retryWindowExit .. => ⟨_, rfl, retryWindowExit_memoriesWf h⟩
  | .parityAlert .. => ⟨_, rfl, parityAlert_memoriesWf h⟩
  | .hbmEccError .. => ⟨_, rfl, hbmEccError_memoriesWf h⟩
  | .trainingStart .. => ⟨_, rfl, trainingStart_memoriesWf h⟩
  | .trainingStepDone .. => ⟨_, rfl, trainingStepDone_memoriesWf h⟩
  | .chRetrainCmd .. => ⟨_, rfl, h.wordWrite (fun _ hu => hu.chCmdWrite)⟩
  | .tempRetrain .. => ⟨_, rfl, tempRetrain_memoriesWf h⟩
  | .stackTempHigh .. => ⟨_, rfl, h.setStackTemp⟩
  | .freqRequest .. => ⟨_, rfl, h.hostWrite (fun _ hu => hu.freqCtrlWrite)⟩
  | .freqChangeDone => ⟨_, rfl, freqChangeDone_memoriesWf h⟩
  | .halfFailed .. => ⟨_, rfl, halfFailed_memoriesWf h⟩
  | .imageArm .. => ⟨_, rfl, h.wordWrite (fun _ hu => hu.imgCtrlWrite)⟩
  | .imageCopyDone .. => ⟨_, rfl, imageCopyDone_memoriesWf h⟩
  | .imageDisarm .. => ⟨_, rfl, h.wordWrite (fun _ hu => hu.imgCtrlWrite)⟩
  | .domainRequestOn .. => ⟨_, rfl, h.dctrlCommand⟩
  | .domainRequestNap .. => ⟨_, rfl, h.dctrlCommand⟩
  | .domainRequestOff .. => ⟨_, rfl, h.dctrlCommand⟩
  | .domainTransitionDone .. => ⟨_, rfl, domainTransitionDone_memoriesWf h⟩
  | .wakeEvent .. => ⟨_, rfl, wakeEvent_memoriesWf h⟩
  | .wakeTimeout .. => ⟨_, rfl, wakeTimeout_memoriesWf h⟩
  | .domainIdleEntry .. => ⟨_, rfl, domainIdleEntry_memoriesWf h⟩
  | .domainIdleExit .. => ⟨_, rfl, domainIdleExit_memoriesWf h⟩
  | .clkSelect .. => ⟨_, rfl, h.hostWrite (fun _ hu => hu.plainWrite)⟩
  | .teamPllLock .. => ⟨_, rfl, teamPllLock_memoriesWf h⟩
  | .teamPllTimeout .. => ⟨_, rfl, teamPllTimeout_memoriesWf h⟩
  | .devRequestRun => ⟨_, rfl, devRequestRun_memoriesWf h⟩
  | .devRequestDoze => ⟨_, rfl, devRequestDoze_memoriesWf h⟩
  | .devRequestAnneal => ⟨_, rfl, devRequestAnneal_memoriesWf h⟩
  | .devRequestReserved => ⟨_, rfl, devRequestReserved_memoriesWf h⟩
  | .dozeDrainEnd => ⟨_, rfl, dozeDrainEnd_memoriesWf h⟩
  | .deviceTransitionDone => ⟨_, rfl, deviceTransitionDone_memoriesWf h⟩
  | .hostWake => ⟨_, rfl, h.hostWrite (fun _ hu => hu.wakeCmdWrite)⟩
  | .pinWake => ⟨_, rfl, h.wakeFrom⟩
  | .timeAlarm => ⟨_, rfl, timeAlarm_memoriesWf h⟩
  | .hbmAutoIdle => ⟨_, rfl, hbmAutoIdle_memoriesWf h⟩
  | .sagGate .. => ⟨_, rfl, sagGate_memoriesWf h⟩
  | .sagWake .. => ⟨_, rfl, sagWake_memoriesWf h⟩
  | .sliceWakeFail .. => ⟨_, rfl, sliceWakeFail_memoriesWf h⟩
  | .sliceWakeRetry .. => ⟨_, rfl, sliceWakeRetry_memoriesWf h⟩
  | .lehrHold .. => ⟨_, rfl, h.hostWrite (fun _ hu => hu.lctrlWrite)⟩
  | .lehrLoad .. => ⟨_, rfl, h.hostWrite (fun _ hu => hu.lctrlWrite)⟩
  | .lehrInvalidate .. => ⟨_, rfl, h.hostWrite (fun _ hu => hu.lctrlWrite)⟩
  | .lehrScrub .. => ⟨_, rfl, lehrScrub_memoriesWf h⟩
  | .lehrWindowAccess .. => ⟨_, rfl, lehrWindowAccess_memoriesWf h⟩
  | .ledgerPeriodEnd .. => ⟨_, rfl, ledgerPeriodEnd_memoriesWf h⟩
  | .coldStart .. => ⟨_, rfl, coldStart_memoriesWf h⟩
  | .aonSupplyLoss => ⟨_, rfl, h.coldReset⟩
  | .resetPin => ⟨_, rfl, h.fullReset.withPins⟩
  | .fullResetRelease => ⟨_, rfl, fullResetRelease_memoriesWf h⟩
  | .firmwareVerifyDone .. => ⟨_, rfl, firmwareVerifyDone_memoriesWf h⟩
  | .selftestDone .. => ⟨_, rfl, selftestDone_memoriesWf h⟩
  | .hbmInitDone .. => ⟨_, rfl, hbmInitDone_memoriesWf h⟩
  | .patchLoadDone .. => ⟨_, rfl, patchLoadDone_memoriesWf h⟩
  | .restoreDone .. => ⟨_, rfl, restoreDone_memoriesWf h⟩
  | .bootGo => ⟨_, rfl, h.bootCommand⟩
  | .bootReset => ⟨_, rfl, h.bootCommand⟩
  | .wdogKick => ⟨_, rfl, h.bootCommand⟩
  | .svnCommit => ⟨_, rfl, h.bootCommand⟩
  | .keyRevoke .. => ⟨_, rfl, h.bootCommand⟩
  | .bootCmdBad .. => ⟨_, rfl, bootCmdBad_memoriesWf h⟩
  | .bcfgWrite .. => ⟨_, rfl, h.hostWrite (fun _ hu => hu.bcfgWrite)⟩
  | .watchdogWarn => ⟨_, rfl, watchdogWarn_memoriesWf h⟩
  | .watchdogExpiry => ⟨_, rfl, watchdogExpiry_memoriesWf h⟩
  | .wedgeDetect .. => ⟨_, rfl, wedgeDetect_memoriesWf h⟩
  | .flashRead .. => ⟨_, rfl, h.flCommand⟩
  | .flashProgram .. => ⟨_, rfl, h.flCommand⟩
  | .flashErase .. => ⟨_, rfl, h.flCommand⟩
  | .flashBadOp .. => ⟨_, rfl, h.flCommand⟩
  | .hostInterfaceReset .. => ⟨_, rfl, hostInterfaceReset_memoriesWf h⟩
  | .pciPowerState .. => ⟨_, rfl, pciPowerState_memoriesWf h⟩
  | .intForceWrite .. => ⟨_, rfl, intForceWrite_memoriesWf h⟩
  | .vecEoi .. => ⟨_, rfl, h.hostWrite (fun _ hu => hu.vecEoi)⟩
  | .msixUnmask .. => ⟨_, rfl, msixUnmask_memoriesWf h⟩
  | .pageSnap .. => ⟨_, rfl, pageSnap_memoriesWf h⟩
  | .pageCounterClear .. => ⟨_, rfl, pageCounterClear_memoriesWf h⟩
  | .deviceSnap => ⟨_, rfl, h.hostWrite (fun _ hu => hu.snapAll)⟩
  | .withholdRelease .. => ⟨_, rfl, withholdRelease_memoriesWf h⟩
  | .txDescriptorFetch .. => ⟨_, rfl, txDescriptorFetch_memoriesWf h⟩
  | .rxFrameWrite .. => ⟨_, rfl, rxFrameWrite_memoriesWf h⟩
  | .irqCoalesceEnd .. => ⟨_, rfl, irqCoalesceEnd_memoriesWf h⟩
  | .ringEnable .. => ⟨_, rfl, h.bar2 (fun _ hu => hu.ringCfg)⟩
  | .ringDisable .. => ⟨_, rfl, h.bar2 (fun _ hu => hu.ringCfg)⟩
  | .ringDmaError .. => ⟨_, rfl, ringDmaError_memoriesWf h⟩
  | .i2cRead .. => ⟨_, rfl, h.i2c (fun _ hu => hu.readAt)⟩
  | .i2cWrite .. => ⟨_, rfl, i2cWrite_memoriesWf h⟩
  | .i2cWake .. => ⟨_, rfl, h.i2c (fun _ hu => hu.wakeFrom)⟩
  | .i2cReset .. => ⟨_, rfl, h.i2c (fun _ hu => hu.fullReset)⟩
  | .i2cStatus .. => ⟨_, rfl, h.i2c (fun _ hu => hu.romSeen.withResp)⟩
  | .i2cBadCommand .. => ⟨_, rfl, h⟩
  | .gpioEdge .. => ⟨_, rfl, gpioEdge_memoriesWf h⟩
  | .thermalTrip .. => ⟨_, rfl, h.sense⟩
  | .thermalTripRelease .. => ⟨_, rfl, h.sense⟩
  | .flashDone .. => ⟨_, rfl, flashDone_memoriesWf h⟩
  | .fuseBurnDone .. => ⟨_, rfl, fuseBurnDone_memoriesWf h⟩
  | .mboxDone .. => ⟨_, rfl, h.mboxFinal.hubRelease⟩
  | .hbmSupplyLoss => ⟨_, rfl, h.withPins.each (fun _ _ hu => .ite hu.onHalf.setFld.raise hu.onHalf)⟩

end

/-- Settling changes no memory. -/
theorem State.memoriesWf.settle {s : State} (h : s.memoriesWf) : (Machine.settle s).memoriesWf := by
  rw [settle_frame]
  exact h.upd

/-- Every step keeps the memories' canonical form: with nothing queued it is a clock of time, else the front command's
meaning, settled. -/
theorem step_memoriesWf {s t : State} (h : s.memoriesWf) (e : Machine.step s = .next t) : t.memoriesWf := by
  unfold Machine.step at e
  split at e
  · cases e
    exact h.timeClock
  next c rest _ =>
    obtain ⟨u, hu, hw⟩ := exec_memoriesWf (s := { s with pending := rest }) h.upd c
    rw [hu] at e
    cases e
    exact hw.settle

/-- Settles O56: the memories start empty, and each command's meaning keeps their form. -/
theorem memoriesKeepTheirForm : Obligations.MemoriesKeepTheirForm :=
  ⟨⟨rfl, rfl, rfl, rfl⟩, fun _ _ => step_memoriesWf⟩

end Sys2Proof.Machine
end

section
/-! SUPPORT. O35: the buffer pools of a bench (R232 to R240). What the pools' partition reads, what the operations on a
buffer manager leave, and what a build, a bad link and a rebuild do to the lists. -/

namespace Sys2Proof.Machine

/-! ### The buffer managers after an operation on something else -/

/-- Two states with the same buffer managers. -/
theorem State.bufAt_congr {s t : State} (h : t.buf = s.buf) (b : Nat) : t.bufAt b = s.bufAt b := by
  rw [State.bufAt, h, State.bufAt]

@[simp] theorem State.bufAt_wr (s : State) (p off : Nat) (v : W32) (w b : Nat) : (s.wr p off v w).bufAt b = s.bufAt b :=
  State.bufAt_congr (State.wr_buf _ _ _ _ _) b
@[simp] theorem State.bufAt_setFld (s : State) (p : Nat) (f : Fld) (v w b : Nat) : (s.setFld p f v w).bufAt b = s.bufAt b :=
  State.bufAt_congr (State.setFld_buf _ _ _ _ _) b
@[simp] theorem State.bufAt_raise (s : State) (p i b : Nat) : (s.raise p i).bufAt b = s.bufAt b :=
  State.bufAt_congr (State.raise_buf _ _ _) b
@[simp] theorem State.bufAt_bump (s : State) (p off w b : Nat) : (s.bump p off w).bufAt b = s.bufAt b :=
  State.bufAt_congr (State.bump_buf _ _ _ _) b
@[simp] theorem State.bufAt_hubAnswered (s : State) (p b : Nat) : (s.hubAnswered p).bufAt b = s.bufAt b :=
  State.bufAt_congr (s.hubAnswered_buf p) b
@[simp] theorem settle_bufAt (s : State) (b : Nat) : (settle s).bufAt b = s.bufAt b :=
  State.bufAt_congr (congrArg State.buf (settle_frame s)) b

/-! ### The pools' partition is read off POOLCFG and BUFSTAT -/

section
variable {s t : State} {b : Nat} (h : ∀ off, off < 0x100 → t.rd (pgBuf b) off = s.rd (pgBuf b) off)
include h

theorem State.bufFld_congr {f : Fld} (hf : f.off < 0x100) : t.fld (pgBuf b) f = s.fld (pgBuf b) f := by
  rw [State.fld, h _ hf, State.fld]
theorem State.poolSize_congr {p : Nat} (hp : p < 4) : t.poolSize b p = s.poolSize b p := by
  rw [State.poolSize, State.bufFld_congr h (by dsimp only; omega), State.poolSize]
theorem State.poolCount_congr {p : Nat} (hp : p < 4) : t.poolCount b p = s.poolCount b p :=
  State.bufFld_congr h (by dsimp only; omega)
theorem State.poolRegions_congr {n : Nat} (hn : n ≤ 4) : (List.range n).map (fun k => t.poolCount b k * t.poolSize b k) =
    (List.range n).map fun k => s.poolCount b k * s.poolSize b k := by
  refine List.map_congr_left fun k hk => ?_
  have hlt : k < 4 := by
    have := List.mem_range.1 hk
    omega
  rw [State.poolCount_congr h hlt, State.poolSize_congr h hlt]
theorem State.poolBase_congr {p : Nat} (hp : p < 4) : t.poolBase b p = s.poolBase b p := by
  rw [State.poolBase, State.poolRegions_congr h (by omega), State.poolBase]
theorem State.poolGranules_congr : t.poolGranules b = s.poolGranules b := by
  rw [State.poolGranules, State.poolRegions_congr h le_rfl, State.poolGranules]
theorem State.poolOf_congr (g : Nat) : t.poolOf b g = s.poolOf b g := by
  refine List.find?_congr fun p hp => ?_
  have hlt : p < 4 := List.mem_range.1 hp
  rw [State.poolBase_congr h hlt, State.poolCount_congr h hlt, State.poolSize_congr h hlt]
theorem State.poolsValid_congr : t.poolsValid b = s.poolsValid b := by
  have counts : (List.range 4).map (fun p => t.poolCount b p) = (List.range 4).map fun p => s.poolCount b p :=
    List.map_congr_left fun p hp => State.poolCount_congr h (List.mem_range.1 hp)
  simp only [State.poolsValid, State.poolGranules_congr h, counts, State.poolSize_congr h (show 0 < 4 by decide),
    State.poolSize_congr h (show 1 < 4 by decide), State.poolSize_congr h (show 2 < 4 by decide),
    State.poolSize_congr h (show 3 < 4 by decide), State.poolCount_congr h (show 1 < 4 by decide),
    State.poolCount_congr h (show 2 < 4 by decide)]
theorem State.bufReady_congr : t.bufReady b = s.bufReady b := by
  rw [State.bufReady, State.flag, State.bufFld_congr h (by decide), State.bufReady, State.flag]

end

/-! ### What is tracked as a free list shrinks (R263, R265) -/

/-- Tracking writes POOLMIN and raises POOL_LOW: what both keep, it keeps. -/
theorem State.poolTrack_keeps {I : State → Prop} {s : State} {b p : Nat} (n : Nat) (hs : I s)
    (hmin : ∀ u v, I u → I (u.setFld (pgBuf b) ⟨0x090 + 4 * p, 16, 0⟩ v))
    (hlow : ∀ u, I u → I (u.raise (pgBuf b) 1)) :
    I (s.poolTrack b p n) := by
  unfold State.poolTrack
  extract_lets m low s1
  have h1 : I s1 := by
    dsimp only [s1]
    split
    · exact hmin _ _ hs
    · exact hs
  split
  · exact hlow _ h1
  · exact h1

theorem State.ctr_setFld (s : State) (q : Nat) (f : Fld) (v p off w : Nat) : (s.setFld q f v).ctr p off w = s.ctr p off w :=
  State.ctr_congr (State.setFld_ctrs _ _ _ _ _) p off w

@[simp] theorem State.poolTrack_bufAt (s : State) (b p n c : Nat) : (s.poolTrack b p n).bufAt c = s.bufAt c :=
  State.poolTrack_keeps (I := fun u => u.bufAt c = s.bufAt c) n rfl
    (fun _ _ h => (State.bufAt_setFld _ _ _ _ _ _).trans h) fun _ h => (State.bufAt_raise _ _ _ _).trans h

theorem State.poolTrack_ctr (s : State) (b p n q off : Nat) : (s.poolTrack b p n).ctr q off = s.ctr q off :=
  State.poolTrack_keeps (I := fun u => u.ctr q off = s.ctr q off) n rfl
    (fun _ _ h => (State.ctr_setFld _ _ _ _ _ _ _).trans h) fun _ h => (State.ctr_raise _ _ _ _ _ _).trans h

/-- The registers between the common ones and POOLMIN read as before. -/
theorem State.poolTrack_flag (s : State) (b p n : Nat) {f : Fld} (h : 0x20 ≤ f.off) (hmin : f.off < 0x90) :
    (s.poolTrack b p n).flag (pgBuf b) f = s.flag (pgBuf b) f := by
  refine State.poolTrack_keeps (I := fun u => u.flag (pgBuf b) f = s.flag (pgBuf b) f) n rfl (fun u v hu => ?_)
    fun u hu => ?_
  · rw [← hu, State.flag, State.flag, State.fld_setFld_word _ _ _ (by dsimp only; omega)]
  · rw [← hu, State.flag, State.flag, State.fld_raise_other _ _ _ (rkey_ne_word (by omega))]

theorem State.caused_setFld {s : State} {p : Nat} {f : Fld} {v i : Nat} (hf : f.off / 4 ≠ 4) (h : s.caused p i) :
    (s.setFld p f v).caused p i := by
  unfold State.caused at h ⊢
  rwa [State.rd_setFld_ne _ _ _ _ _ (rkey_ne_word (by omega))]

theorem State.caused_poolTrack {s : State} {b p n i : Nat} (hi : i < 32) (h : s.caused (pgBuf b) i) :
    (s.poolTrack b p n).caused (pgBuf b) i :=
  State.poolTrack_keeps (I := fun u => u.caused (pgBuf b) i) n h
    (fun _ _ hu => State.caused_setFld (by dsimp only; omega) hu) fun _ hu => State.caused_raise_kept hi hu

/-! ### START (R233, R234) -/

theorem poolStart_takes {s : State} {b : BenchId} (h : s.takes (pgBuf b)) :
    exec (.poolStart b) s = .next (settle ((s.hubAnswered (pgBuf b)).poolStart b)) :=
  finish_congr (State.wordWrite_takes h _ _ _ _)

theorem State.poolStart_ready {s : State} {b : Nat} (h : s.bufReady b = true) : s.poolStart b = s.raise (pgBuf b) 6 :=
  if_pos h
theorem State.poolStart_valid {s : State} {b : Nat} (h : s.bufReady b = false) (hv : s.poolsValid b = true) :
    s.poolStart b = (s.onBuf b fun u => { u with building := true }).setFld (pgBuf b) Reg.BUF.BUFSTAT_CFG_ERR 0 := by
  rw [State.poolStart, h, if_neg Bool.false_ne_true, if_pos hv]
theorem State.poolStart_invalid {s : State} {b : Nat} (h : s.bufReady b = false) (hv : s.poolsValid b = false) :
    s.poolStart b = (s.setFld (pgBuf b) Reg.BUF.BUFSTAT_CFG_ERR 1).raise (pgBuf b) 6 := by
  rw [State.poolStart, h, hv, if_neg Bool.false_ne_true, if_neg Bool.false_ne_true]

/-! ### The build (R233) -/

/-- Writing a value at each key of a list: those keys read their values, the others as before. -/
theorem Tab.get_foldl_set {α : Type} [DecidableEq α] (d f : Nat → α) (l : List Nat) (t : Tab α) (k : Nat) :
    Tab.get d (l.foldl (fun t p => Tab.set d t p (f p)) t) k = if k ∈ l then f k else Tab.get d t k := by
  induction l generalizing t with
  | nil => rfl
  | cons p l ih =>
    rw [List.foldl_cons, ih, Tab.get_set]
    by_cases hl : k ∈ l
    · simp [hl]
    · by_cases hp : k = p
      · simp [hp]
      · simp [hl, hp]

section
variable {s : State} {b : Nat} (h : (s.bufAt b).building = true)
include h

theorem State.poolBuilt_list {p : Nat} (hp : p < 4) : ((s.poolBuilt b).bufAt b).list p = s.poolGrans b p := by
  rw [State.poolBuilt, if_pos h]
  simp [BufSt.list, Tab.get_foldl_set (fun _ => []) (s.poolGrans b), hp]

theorem State.poolBuilt_ready : (s.poolBuilt b).bufReady b = true := by
  rw [State.poolBuilt, if_pos h, State.bufReady, State.flag, State.fld_setFld_same _ _ _ _ _ (by decide) (by decide)]
  rfl

theorem State.poolBuilt_cullet : ((s.poolBuilt b).bufAt b).cullet = [] := by
  rw [State.poolBuilt, if_pos h]
  simp

theorem State.poolBuilt_building : ((s.poolBuilt b).bufAt b).building = false := by
  rw [State.poolBuilt, if_pos h]
  simp

end

/-! ### A bad link (R240) -/

/-- The buffer manager after the link of the buffer `g` at the head of pool `p`'s list is found bad. -/
def BufSt.linkBad (u : BufSt) (p g : Nat) : BufSt := { (u.setHdr g { u.hdr g with retire := true }) with
  free := Tab.set (fun _ => []) u.free p [], cullet := u.cullet ++ [g],
  rebuild := some (u.rebuild.getD (p, [])), alsoBad := if u.rebuild.isSome then u.alsoBad ++ [(p, [])] else u.alsoBad }

/-- The counters and causes of a bad link. -/
def State.linkCounted (s : State) (b : Nat) : State :=
  (((s.bump (pgBuf b) Reg.BUF.LIST_REBUILD).raise (pgBuf b) 4).bump (pgBuf b) Reg.BUF.CULLET_IN).raise (pgBuf b) 9

theorem State.linkCounted_listRebuild (s : State) (b : Nat) :
    (s.linkCounted b).ctr (pgBuf b) Reg.BUF.LIST_REBUILD = s.ctr (pgBuf b) Reg.BUF.LIST_REBUILD + 1 := by
  rw [State.linkCounted, State.ctr_raise, State.bump, State.ctr_addCtr_ne _ _ _ _ _ (rkey_ne_word (by decide)),
    State.ctr_raise, State.bump, State.ctr_addCtr_same]
  rfl
theorem State.linkCounted_culletIn (s : State) (b : Nat) :
    (s.linkCounted b).ctr (pgBuf b) Reg.BUF.CULLET_IN = s.ctr (pgBuf b) Reg.BUF.CULLET_IN + 1 := by
  rw [State.linkCounted, State.ctr_raise, State.bump, State.ctr_addCtr_same, State.ctr_raise, State.bump,
    State.ctr_addCtr_ne _ _ _ _ _ (rkey_ne_word (by decide))]
  rfl
theorem State.linkCounted_caused_rebuild (s : State) (b : Nat) : (s.linkCounted b).caused (pgBuf b) 4 := by
  unfold State.linkCounted
  refine State.caused_raise_kept (by norm_num) ?_
  rw [State.caused, State.rd_bump]
  exact State.caused_raise _ (by norm_num)
theorem State.linkCounted_caused_cullet (s : State) (b : Nat) : (s.linkCounted b).caused (pgBuf b) 9 :=
  State.caused_raise _ (by norm_num)

section
variable {s : State} {b p g : Nat} {l : List Nat} (h : (s.bufAt b).list p = g :: l)
include h

theorem State.listError_eq : ∃ v, s.listError b p = ((((s.putBuf b ((s.bufAt b).linkBad p g)).linkCounted b).setFld
    (pgBuf b) Reg.BUF.BUFSTAT_REBUILDING 1).setFld (pgBuf b) Reg.BUF.BUFSTAT_REBUILD_POOL v).poolTrack b p
    (s.poolFree b p) := by
  unfold State.listError
  rw [h]
  exact ⟨_, rfl⟩

theorem State.listError_bufAt : (s.listError b p).bufAt b = (s.bufAt b).linkBad p g := by
  obtain ⟨v, e⟩ := State.listError_eq h
  simp [e, State.linkCounted]

theorem State.listError_rebuilding : (s.listError b p).flag (pgBuf b) Reg.BUF.BUFSTAT_REBUILDING = true := by
  obtain ⟨v, e⟩ := State.listError_eq h
  rw [e, State.poolTrack_flag _ _ _ _ (by decide) (by decide), State.flag,
    State.fld_setFld_apart _ _ _ _ _ _ (by decide) (by decide) (by rfl) (by decide),
    State.fld_setFld_same _ _ _ _ _ (by decide) (by decide)]
  rfl

theorem State.listError_ctr {off : Nat} : (s.listError b p).ctr (pgBuf b) off =
    ((s.putBuf b ((s.bufAt b).linkBad p g)).linkCounted b).ctr (pgBuf b) off := by
  obtain ⟨v, e⟩ := State.listError_eq h
  rw [e, State.poolTrack_ctr, State.ctr_setFld, State.ctr_setFld]

theorem State.listError_listRebuild : (s.listError b p).ctr (pgBuf b) Reg.BUF.LIST_REBUILD =
    s.ctr (pgBuf b) Reg.BUF.LIST_REBUILD + 1 := by
  rw [State.listError_ctr h, State.linkCounted_listRebuild, State.ctr_congr (State.putBuf_ctrs _ _ _)]

theorem State.listError_culletIn : (s.listError b p).ctr (pgBuf b) Reg.BUF.CULLET_IN =
    s.ctr (pgBuf b) Reg.BUF.CULLET_IN + 1 := by
  rw [State.listError_ctr h, State.linkCounted_culletIn, State.ctr_congr (State.putBuf_ctrs _ _ _)]

theorem State.listError_caused {i : Nat} (hi : i < 32) (hc : ∀ u : State, (u.linkCounted b).caused (pgBuf b) i) :
    (s.listError b p).caused (pgBuf b) i := by
  obtain ⟨v, e⟩ := State.listError_eq h
  rw [e]
  exact State.caused_poolTrack hi (State.caused_setFld (by decide) (State.caused_setFld (by decide) (hc _)))

end

/-! ### The end of a rebuild (R240) -/

/-- The buffers freed late: those not out of service, in the order of their freeing. -/
def BufSt.freedLate (u : BufSt) (late freed : List Nat) : List Nat :=
  freed.filter fun g => late.contains g && !(u.hdr g).out

/-- The buffers of pool `p` that the sweep threads, `after` left to its end. -/
def State.swept (s : State) (b p : Nat) (after : List Nat) : List Nat :=
  (s.poolGrans b p).filter fun g => ((s.bufAt b).hdr g).free && !((s.bufAt b).hdr g).retire &&
    !((s.bufAt b).hdr g).out && !after.contains g

section
variable {s : State} {b p : Nat} {freed : List Nat} (h : (s.bufAt b).rebuild = some (p, freed)) (late : List Nat)
include h

theorem State.listRebuilt_eq : ∃ v, s.listRebuilt b late = ((s.putBuf b { s.bufAt b with
    free := Tab.set (fun _ => []) (s.bufAt b).free p
      (s.swept b p ((s.bufAt b).freedLate late freed) ++ (s.bufAt b).freedLate late freed),
    rebuild := (s.bufAt b).alsoBad.head?, alsoBad := (s.bufAt b).alsoBad.drop 1 }).setFld (pgBuf b)
    Reg.BUF.BUFSTAT_REBUILDING (b2n (s.bufAt b).alsoBad.head?.isSome)).setFld (pgBuf b) Reg.BUF.BUFSTAT_REBUILD_POOL v := by
  unfold State.listRebuilt
  rw [h]
  exact ⟨_, rfl⟩

theorem State.listRebuilt_rebuild : ((s.listRebuilt b late).bufAt b).rebuild = (s.bufAt b).alsoBad.head? := by
  obtain ⟨v, e⟩ := State.listRebuilt_eq h late
  simp [e]
theorem State.listRebuilt_alsoBad : ((s.listRebuilt b late).bufAt b).alsoBad = (s.bufAt b).alsoBad.drop 1 := by
  obtain ⟨v, e⟩ := State.listRebuilt_eq h late
  simp [e]
theorem State.listRebuilt_list : ((s.listRebuilt b late).bufAt b).list p =
    s.swept b p ((s.bufAt b).freedLate late freed) ++ (s.bufAt b).freedLate late freed := by
  obtain ⟨v, e⟩ := State.listRebuilt_eq h late
  simp [e, BufSt.list]
theorem State.listRebuilt_rebuilding :
    (s.listRebuilt b late).flag (pgBuf b) Reg.BUF.BUFSTAT_REBUILDING = (s.bufAt b).alsoBad.head?.isSome := by
  obtain ⟨v, e⟩ := State.listRebuilt_eq h late
  rw [e, State.flag, State.fld_setFld_apart _ _ _ _ _ _ (by decide) (by decide) (by rfl) (by decide),
    State.fld_setFld_same _ _ _ _ _ (by decide) (by decide)]
  cases (s.bufAt b).alsoBad.head?.isSome <;> rfl

end

/-- Settles O35: each clause is read off the state that the operation leaves. -/
theorem poolsAndLists : Obligations.PoolsAndLists := by
  refine ⟨fun s b h => ?_, fun s b h => ?_, fun s b p g l h => ?_, fun s b late freed p h => ?_⟩
  · have words := fun off (_ : off < 0x100) => s.hubAnswered_rd (pgBuf b) (pgBuf b) off 0
    have hready := State.bufReady_congr words
    have hvalid := State.poolsValid_congr words
    refine ⟨fun r => ?_, fun r v => ?_, fun r v => ?_⟩
    · rw [poolStart_takes h, State.poolStart_ready (hready.trans r)]
    · rw [poolStart_takes h, State.poolStart_valid (hready.trans r) (hvalid.trans v)]
    · rw [poolStart_takes h, State.poolStart_invalid (hready.trans r) (hvalid.trans v)]
  · exact ⟨rfl, fun _ => State.poolBuilt_list h, State.poolBuilt_ready h, State.poolBuilt_cullet h,
      State.poolBuilt_building h⟩
  · have page : pgBuf b ≠ pgHost := by unfold pgBuf pgHost; omega
    refine ⟨settle (s.listError b p), rfl, rfl, ?_, ?_, ?_, fun e => ?_, fun e he => ?_, ?_, ?_, ?_, ?_, ?_⟩
    · simp [State.listError_bufAt h, BufSt.linkBad, BufSt.list]
    · simp [State.listError_bufAt h, BufSt.linkBad]
    · simp [State.listError_bufAt h, BufSt.linkBad, BufSt.hdr, BufSt.setHdr]
    · simp [State.listError_bufAt h, BufSt.linkBad, BufSt.setHdr, e]
    · simp [State.listError_bufAt h, BufSt.linkBad, BufSt.setHdr, he]
    · exact (settle_ctr_page _ page (by decide) (by norm_num)).trans (State.listError_listRebuild h)
    · exact (settle_ctr_page _ page (by decide) (by norm_num)).trans (State.listError_culletIn h)
    · rw [settle_flag]
      exact State.listError_rebuilding h
    · exact (settle_caused _ _ _).2 (State.listError_caused h (by norm_num) fun u => u.linkCounted_caused_rebuild b)
    · exact (settle_caused _ _ _).2 (State.listError_caused h (by norm_num) fun u => u.linkCounted_caused_cullet b)
  · refine ⟨settle (s.listRebuilt b late), rfl, ?_, ?_, ?_, ?_⟩
    · rw [settle_bufAt]
      exact State.listRebuilt_rebuild h late
    · rw [settle_bufAt]
      exact State.listRebuilt_alsoBad h late
    · rw [settle_bufAt]
      exact State.listRebuilt_list h late
    · rw [settle_flag]
      exact State.listRebuilt_rebuilding h late

end Sys2Proof.Machine
end

section
/-! SUPPORT. O36: releases, uncorrectable words and reservations of a bench's buffers (R247, R254 to R258). -/

namespace Sys2Proof.Machine

/-! ### Uncorrectable words (R257, R258) -/

/-- The state after an uncorrectable data word in the buffer at granule `g` is counted and the buffer retired. -/
def State.dataUe (s : State) (b ce g : Nat) : State :=
  (((s.addCtr (pgBuf b) Reg.BUF.ECC_CE ce).bump (pgBuf b) Reg.BUF.ECC_UE).raise (pgBuf b) 2).onBuf b fun u =>
    u.setHdr g { u.hdr g with retire := true }

section
variable {s : State} {b : BenchId} {ce g : Nat} (hon : s.domOn (domBuffer b) = true) (hready : s.bufReady b = true)
    (hpool : (s.poolOf b g).isSome = true)
include hon hready hpool

theorem bufferDataUe_none : bufferDataUe b ce none g s = s.dataUe b ce g := by
  rw [bufferDataUe, hon, if_neg (by decide), if_pos ⟨hready, hpool, rfl⟩]
  rfl

theorem bufferDataUe_frame {d : Nat} (hd : d ∈ s.holdersOf b g) :
    bufferDataUe b ce (some d) g s = (s.dataUe b ce g).eccFrame b d := by
  have held : (some d).all (fun i => (s.holdersOf b g).contains i) = true := List.contains_iff_mem.2 hd
  rw [bufferDataUe, hon, if_neg (by decide), if_pos ⟨hready, hpool, held⟩]
  rfl

end

/-- The state after an uncorrectable header of the buffer at granule `g` of pool `p` takes it out of service. -/
def State.headerUe (s : State) (b p g : Nat) : State :=
  (((s.bump (pgBuf b) Reg.BUF.HDR_UE).raise (pgBuf b) 3).onBuf b fun u =>
    { (u.setHdr g { u.hdr g with out := true }) with
      free := Tab.set (fun _ => []) u.free p ((u.list p).filter fun x => x != g),
      cullet := u.cullet.filter fun x => x != g }).poolTrack b p (s.poolFree b p)

theorem bufferHeaderUe_eq {s : State} {b : BenchId} {g : Nat} (hready : s.bufReady b = true)
    (hpool : (s.poolOf b g).isSome = true) (hin : ((s.bufAt b).hdr g).out = false) :
    bufferHeaderUe b g s =
      (s.headerUe b ((s.bufAt b).hdr g).pool g).each (s.holdersOf b g) fun s d => s.eccFrame b d := by
  rw [bufferHeaderUe, if_pos ⟨hready, hpool, by rw [hin]; rfl⟩]
  rfl

theorem State.headerUe_out (s : State) (b p g : Nat) : (((s.headerUe b p g).bufAt b).hdr g).out = true := by
  simp [State.headerUe, BufSt.hdr, BufSt.setHdr]
theorem State.headerUe_list (s : State) (b p g : Nat) : g ∉ ((s.headerUe b p g).bufAt b).list p := by
  simp [State.headerUe, BufSt.list]
theorem State.headerUe_cullet (s : State) (b p g : Nat) : g ∉ ((s.headerUe b p g).bufAt b).cullet := by
  simp [State.headerUe]
theorem State.headerUe_caused (s : State) (b p g : Nat) : (s.headerUe b p g).caused (pgBuf b) 3 := by
  refine State.caused_poolTrack (by norm_num) ?_
  rw [State.caused, State.onBuf_eq, State.rd_congr (State.putBuf_regs _ _ _)]
  exact State.caused_raise _ (by norm_num)
theorem State.headerUe_counted (s : State) (b p g : Nat) :
    (s.headerUe b p g).ctr (pgBuf b) Reg.BUF.HDR_UE = s.ctr (pgBuf b) Reg.BUF.HDR_UE + 1 := by
  rw [State.headerUe, State.poolTrack_ctr, State.onBuf_eq, State.ctr_congr (State.putBuf_ctrs _ _ _), State.ctr_raise,
    State.bump, State.ctr_addCtr_same]
  rfl

/-! ### Reservations (R247) -/

section
variable {s : State} {b : BenchId} (h : s.takes (pgBuf b)) (v : W32)
include h

theorem ownResWrite_takes : exec (.ownResWrite b v) s = .next (settle ((s.hubAnswered (pgBuf b)).ownResWrite b
    (s.fld (pgBuf b) Reg.BUF.OWN_IDX) (v.toNat % 2 ^ 18))) := by
  refine finish_congr ((State.wordWrite_takes h _ _ _ _).trans ?_)
  rw [State.hubAnswered_fld]
theorem ownDescWrite_takes : exec (.ownDescWrite b v) s = .next (settle ((s.hubAnswered (pgBuf b)).ownDescWrite b
    (s.fld (pgBuf b) Reg.BUF.OWN_IDX) v)) := by
  refine finish_congr ((State.wordWrite_takes h _ _ _ _).trans ?_)
  rw [State.hubAnswered_fld]

end

section
variable (s : State) (b : Nat) {o : Nat}

theorem State.ownResWrite_past (v : Nat) (ho : 519 < o) : s.ownResWrite b o v = s := if_pos ho
theorem State.ownDescWrite_past (v : W32) (ho : 519 < o) : s.ownDescWrite b o v = s := if_pos ho
theorem State.ownResWrite_owner (v : Nat) (ho : o ≤ 519) : s.ownResWrite b o v =
    if s.poolGranules b < (s.setL (pgBuf b) Reg.BUF.OWN_RES v o).resSum b then s.raise (pgBuf b) 5
    else s.setL (pgBuf b) Reg.BUF.OWN_RES v o := if_neg (by omega)
theorem State.ownDescWrite_owner (v : W32) (ho : o ≤ 519) : s.ownDescWrite b o v =
    if 32768 < (s.wrL (pgBuf b) 0x0CC v o).resDescSum b then s.raise (pgBuf b) 5
    else s.wrL (pgBuf b) 0x0CC v o := if_neg (by omega)

end

/-! ### The double-free log (R254) -/

/-- The records of the log cleared, its count not yet. -/
def State.dfreeRecordsCleared (s : State) (b : Nat) : State :=
  s.each (List.range 16) fun t k => t.wr (pgBuf b) (Reg.BUF.DFREE_LOG k).off 0

theorem State.dfreeRecordsCleared_rd (s : State) (b k : Nat) (hk : k < 16) :
    (s.dfreeRecordsCleared b).rd (pgBuf b) (Reg.BUF.DFREE_LOG k).off = 0 := by
  refine State.each_range_get (I := fun _ => True) (get := fun u k => u.rd (pgBuf b) (Reg.BUF.DFREE_LOG k).off)
    (fun _ _ _ => trivial) (fun u i _ => State.rd_wr_same _ _ _ _ _) (fun u i j hj => ?_) trivial 16 k hk
  exact State.rd_wr_ne _ _ _ _ _ (rkey_ne_word (by simp only [Reg.BUF.DFREE_LOG]; omega))

theorem State.dfreeClear_count (s : State) (b : Nat) :
    (s.dfreeClear b).fld (pgBuf b) Reg.BUF.DFREE_LOGCTL_COUNT = 0 :=
  State.fld_setFld_same _ _ _ _ _ (by decide) (by decide)

theorem State.dfreeClear_rd (s : State) (b k : Nat) (hk : k < 16) :
    (s.dfreeClear b).rd (pgBuf b) (Reg.BUF.DFREE_LOG k).off = 0 := by
  refine Eq.trans ?_ (s.dfreeRecordsCleared_rd b k hk)
  exact State.rd_setFld_ne _ _ _ _ _ (rkey_ne_word (by simp only [Reg.BUF.DFREE_LOG, Reg.BUF.DFREE_LOGCTL_COUNT]; omega))

theorem State.dfreeClear_touches (s : State) (b : Nat) : Touches s (s.dfreeClear b) (· = pgBuf b) := by
  refine Touches.setFld_own ?_ _ (by decide)
  refine State.each_keeps (I := fun u => Touches s u (· = pgBuf b)) _ (Touches.refl s _) fun u k hk hu => ?_
  have hlt : k < 16 := List.mem_range.1 hk
  exact hu.wr _ _ _ _ rfl (by simp only [Reg.BUF.DFREE_LOG]; omega) (by norm_num)

/-- Settles O36: each command takes the branch that its hypotheses name. -/
theorem bufferEvents : Obligations.BufferEvents := by
  refine ⟨fun s b agent n => ⟨rfl, fun hpool hready => ?_⟩, fun s b ce d g hon hready hpool => ⟨?_, fun hd => ?_⟩,
    fun s b g hready hpool hin => ⟨?_, s.headerUe_out b _ g, s.headerUe_list b _ g, s.headerUe_cullet b _ g,
      s.headerUe_caused b _ g, s.headerUe_counted b _ g⟩, fun s b v h => ⟨fun ho => ⟨fun hc => ?_, fun hc => ?_,
      fun hc => ?_, fun hc => ?_⟩, fun ho => ⟨?_, ?_⟩⟩, fun s b h => ?_⟩
  · exact finish_congr ((if_neg Bool.false_ne_true).trans (if_pos ⟨hpool, hready⟩))
  · exact finish_congr (bufferDataUe_none hon hready hpool)
  · exact finish_congr (bufferDataUe_frame hon hready hpool hd)
  · exact finish_congr (bufferHeaderUe_eq hready hpool hin)
  · rw [ownResWrite_takes h, State.ownResWrite_owner _ _ _ ho, if_neg (Nat.not_lt.2 hc)]
  · rw [ownResWrite_takes h, State.ownResWrite_owner _ _ _ ho, if_pos hc]
  · rw [ownDescWrite_takes h, State.ownDescWrite_owner _ _ _ ho, if_neg (Nat.not_lt.2 hc)]
  · rw [ownDescWrite_takes h, State.ownDescWrite_owner _ _ _ ho, if_pos hc]
  · rw [ownResWrite_takes h, State.ownResWrite_past _ _ _ ho]
  · rw [ownDescWrite_takes h, State.ownDescWrite_past _ _ _ ho]
  · refine ⟨settle ((s.hubAnswered (pgBuf b)).dfreeClear b), finish_congr (State.wordWrite_takes h _ _ _ _), ?_,
      fun k hk => ?_, ((s.hubAnswered (pgBuf b)).dfreeClear_touches b).settle⟩
    · rw [settle_fld]
      exact State.dfreeClear_count _ b
    · rw [settle_rd]
      exact State.dfreeClear_rd _ b k hk

end Sys2Proof.Machine
end

section
/-! SUPPORT. O37: the buffer mailbox (R254 to R256, R260, R261) and the buffer window (R262). -/

namespace Sys2Proof.Machine

/-! ### A write of BCMD that is taken -/

/-- The command that a write of BCMD makes. -/
def mboxCommand (b v : Nat) (pass : Bool) : HostCmd :=
  { kind := .mbox, page := pgBuf b, op := bits v 31 28, table := bits v 25 24, arg := bits v 20 0, pass := pass }

/-- The result registers cleared, as an accepted command leaves them. -/
def State.mboxCleared (s : State) (b : Nat) : State :=
  ((s.wr (pgBuf b) 0x104 0).wr (pgBuf b) 0x108 0).wr (pgBuf b) 0x10C 0

@[simp] theorem State.mboxCleared_bufAt (s : State) (b c : Nat) : (s.mboxCleared b).bufAt c = s.bufAt c := by
  simp [State.mboxCleared]

theorem State.mboxCleared_rd (s : State) (b : Nat) {off : Nat} (h : off < 0x100) :
    (s.mboxCleared b).rd (pgBuf b) off = s.rd (pgBuf b) off := by
  rw [State.mboxCleared, State.rd_wr_ne _ _ _ _ _ (rkey_ne_word (by omega)),
    State.rd_wr_ne _ _ _ _ _ (rkey_ne_word (by omega)), State.rd_wr_ne _ _ _ _ _ (rkey_ne_word (by omega))]

section
variable {s : State} {b : BenchId} (h : s.takes (pgBuf b))
    (hroom : ∀ c : HostCmd, c.kind = .mbox → c.page = pgBuf b → (s.hubAnswered (pgBuf b)).hubsFull c = false)
include h hroom

theorem mboxWrite_taken (v : Nat) (pass : Bool) :
    mboxWrite b v pass s = (s.hubAnswered (pgBuf b)).startMbox (mboxCommand b v pass) := by
  refine (State.hubAccess_takes (a := .mbox b v pass) h _).trans ((State.hostWrite_takes h _).trans ?_)
  exact State.submit_taken (hroom (mboxCommand b v pass) rfl rfl)

theorem mboxWrite_busy (v : Nat) (pass : Bool) (hbusy : (s.bufAt b).mbox.isSome = true) :
    mboxWrite b v pass s = s.hubAnswered (pgBuf b) := by
  have bench : (mboxCommand b v pass).page % 256 = b := by
    show (0xE00 + b.val) % 256 = b
    omega
  rw [mboxWrite_taken h hroom, State.startMbox, bench, State.bufAt_hubAnswered, if_pos hbusy]

theorem mboxWrite_free (v : Nat) (pass : Bool) (hfree : (s.bufAt b).mbox = none) : mboxWrite b v pass s =
    (s.hubAnswered (pgBuf b)).mboxRun b (bits v 31 28) (bits v 25 24) (bits v 20 0) pass := by
  have bench : (mboxCommand b v pass).page % 256 = b := by
    show (0xE00 + b.val) % 256 = b
    omega
  have idle : ¬ (s.bufAt b).mbox.isSome = true := by simp [hfree]
  rw [mboxWrite_taken h hroom, State.startMbox, bench, State.bufAt_hubAnswered, if_neg idle]
  rfl

end

/-- Each command of the mailbox is a write of BCMD. -/
theorem exec_mbox {b : BenchId} {p : Fin 4} {n : Nat} {pass : Bool} {op : Fin 11} (i : Instr)
    (hi : i ∈ ([.mboxAlloc b p, .mboxFree b n, .mboxAddref b n, .mboxReadhdr b n, .mboxReclaim b pass,
      .mboxBadOp b op] : List Instr)) : ∃ v x, ∀ s, exec i s = finish (mboxWrite b v x s) := by
  simp only [List.mem_cons, List.not_mem_nil, or_false] at hi
  obtain rfl | rfl | rfl | rfl | rfl | rfl := hi
  · exact ⟨_, _, fun _ => rfl⟩
  · exact ⟨_, _, fun _ => rfl⟩
  · exact ⟨_, _, fun _ => rfl⟩
  · exact ⟨_, _, fun _ => rfl⟩
  · exact ⟨_, _, fun _ => rfl⟩
  · exact ⟨_, _, fun _ => rfl⟩

/-! ### The fields of BCMD -/

theorem bcmd_alloc (p : Fin 4) (b : BenchId) : bits (p * 2 ^ 24 + b * 2 ^ 18) 31 28 = 0 ∧
    bits (p * 2 ^ 24 + b * 2 ^ 18) 25 24 = p ∧ bits (p * 2 ^ 24 + b * 2 ^ 18) 20 0 = b * 2 ^ 18 := by
  simp only [bits, Nat.shiftRight_eq_div_pow]
  omega

theorem bcmd_reclaim (b : BenchId) :
    bits (4 * 2 ^ 28 + b * 2 ^ 18) 31 28 = 4 ∧ bits (4 * 2 ^ 28 + b * 2 ^ 18) 20 0 = b * 2 ^ 18 := by
  simp only [bits, Nat.shiftRight_eq_div_pow]
  omega

theorem bcmd_badOp (op : Fin 11) : 5 ≤ bits ((5 + op) * 2 ^ 28) 31 28 := by
  simp only [bits, Nat.shiftRight_eq_div_pow]
  omega

/-- The operation and HANDLE of a word of BCMD with OP = `op`. -/
theorem bcmd_handle {op h : Nat} (hop : op < 16) (hh : h < 2 ^ 21) :
    bits (op * 2 ^ 28 + h % 2 ^ 21) 31 28 = op ∧ bits (op * 2 ^ 28 + h % 2 ^ 21) 20 0 = h := by
  simp only [bits, Nat.shiftRight_eq_div_pow]
  omega

/-- The HANDLE of a bench's first granule. -/
theorem first_handle (b : BenchId) : b.val * 2 ^ 18 / 2 ^ 18 = b.val ∧ b.val * 2 ^ 18 % 2 ^ 18 = 0 := by omega

/-! ### What an accepted command does -/

/-- The operations of the mailbox below 5, on the buffer of granule `g`. -/
def State.mboxOp (s : State) (b op pool g : Nat) (pass : Bool) : State :=
  match op with
  | 0 => s.mboxAlloc b pool
  | 1 => s.mboxFree b g
  | 2 => s.mboxAddref b g
  | 3 => s.mboxHold b 0 0 ((s.bufAt b).hdr g).word
  | _ => s.mboxReclaim b pass

section
variable {s : State} {b : Nat} (op pool handle : Nat) (pass : Bool)

theorem State.mboxCleared_bufReady (s : State) (b : Nat) : (s.mboxCleared b).bufReady b = s.bufReady b :=
  State.bufReady_congr fun _ => s.mboxCleared_rd b
theorem State.mboxCleared_poolOf (s : State) (b g : Nat) : (s.mboxCleared b).poolOf b g = s.poolOf b g :=
  State.poolOf_congr (fun _ => s.mboxCleared_rd b) g

theorem State.mboxRun_notReady (h : s.bufReady b = false) :
    s.mboxRun b op pool handle pass = (s.mboxCleared b).mboxHold b 7 0 0 := by
  have notReady : (!(s.mboxCleared b).bufReady b) = true := by rw [State.mboxCleared_bufReady, h]; rfl
  exact if_pos notReady

section
variable (h : s.bufReady b = true)
include h

theorem State.mboxRun_ready : s.mboxRun b op pool handle pass =
    if 5 ≤ op then (s.mboxCleared b).mboxHold b 4 0 0
    else if handle / 2 ^ 18 ≠ b ∨ (s.poolOf b (handle % 2 ^ 18)).isNone = true then (s.mboxCleared b).mboxHold b 4 0 0
    else (s.mboxCleared b).mboxOp b op pool (handle % 2 ^ 18) pass := by
  have ready : ¬ (!(s.mboxCleared b).bufReady b) = true := by rw [State.mboxCleared_bufReady, h]; decide
  rw [← State.mboxCleared_poolOf]
  exact if_neg ready

theorem State.mboxRun_badOp (hop : 5 ≤ op) :
    s.mboxRun b op pool handle pass = (s.mboxCleared b).mboxHold b 4 0 0 := by
  rw [State.mboxRun_ready _ _ _ _ h, if_pos hop]

theorem State.mboxRun_badHandle (hbad : handle / 2 ^ 18 ≠ b ∨ s.poolOf b (handle % 2 ^ 18) = none) :
    s.mboxRun b op pool handle pass = (s.mboxCleared b).mboxHold b 4 0 0 := by
  rw [State.mboxRun_ready _ _ _ _ h, if_pos (hbad.imp_right Option.isNone_iff_eq_none.2), ite_self]

theorem State.mboxRun_good (hop : op < 5) (hbench : handle / 2 ^ 18 = b)
    (hpool : (s.poolOf b (handle % 2 ^ 18)).isSome = true) : s.mboxRun b op pool handle pass =
    (s.mboxCleared b).mboxOp b op pool (handle % 2 ^ 18) pass := by
  have named : ¬ (handle / 2 ^ 18 ≠ b ∨ (s.poolOf b (handle % 2 ^ 18)).isNone = true) := by
    rintro (hne | hno)
    · exact hne hbench
    · rw [Option.isNone_iff_eq_none.1 hno] at hpool
      cases hpool
  rw [State.mboxRun_ready _ _ _ _ h, if_neg (Nat.not_le.2 hop), if_neg named]

end
end

/-! ### The operations (R254 to R256, R260, R261) -/

section
variable (s : State) (b g : Nat)

/-- Putting a buffer on its pool's list leaves the cullet list. -/
theorem State.pushFree_cullet (p : Nat) : ((s.pushFree b p g).bufAt b).cullet = (s.bufAt b).cullet := by
  unfold State.pushFree
  rw [State.onBuf_eq, State.bufAt_same]
  dsimp only
  split
  · rfl
  · rfl

theorem State.mboxReclaim_empty (pass : Bool) (h : (s.bufAt b).cullet = []) :
    s.mboxReclaim b pass = s.mboxHold b 5 0 0 := by
  unfold State.mboxReclaim
  rw [h]

theorem State.mboxReclaim_head (pass : Bool) {l : List Nat} (h : (s.bufAt b).cullet = g :: l) : ∃ x : State,
    (pass = true → s.mboxReclaim b pass = x.mboxHold b 0 (b * 2 ^ 18 + g) 0 ∧ (x.bufAt b).cullet = l) ∧
    (pass = false → s.mboxReclaim b pass = x.mboxHold b 6 0 0 ∧ (x.bufAt b).cullet = l ++ [g]) := by
  unfold State.mboxReclaim
  rw [h]
  cases pass
  · refine ⟨_, nofun, fun _ => ⟨rfl, ?_⟩⟩
    rw [State.bufAt_bump, State.onBuf_eq, State.bufAt_same]
  · refine ⟨_, fun _ => ⟨rfl, ?_⟩, nofun⟩
    rw [State.bufAt_bump, State.pushFree_cullet, State.onBuf_eq, State.bufAt_same]

end

/-! ### The result becomes final (R261) -/

/-- The final result of a mailbox: status, handle, header. -/
def State.mboxShown (s : State) (b st h hdr : Nat) : State :=
  ((((s.onBuf b fun u => { u with mbox := none }).wr (pgBuf b) 0x104 (BitVec.ofNat 32 (2 ^ 31 + st * 2 ^ 27 + h))).wr
    (pgBuf b) 0x108 (BitVec.ofNat 32 hdr)).wr (pgBuf b) 0x10C (BitVec.ofNat 32 (hdr / 2 ^ 32))).raise (pgBuf b) 7

theorem mboxDone_shows {s : State} {b : BenchId} {st h hdr : Nat} (hm : (s.bufAt b).mbox = some (st, h, hdr))
    (hheld : s.hub.held = []) : mboxDone b s = s.mboxShown b st h hdr := by
  have final : s.mboxFinal b = s.mboxShown b st h hdr := by
    simp only [State.mboxFinal, hm, State.mboxShown]
  have held : (s.mboxShown b st h hdr).hub.held = [] := by
    rw [State.mboxShown, State.raise_hub, State.wr_hub, State.wr_hub, State.wr_hub, State.onBuf_eq, State.putBuf_hub, hheld]
  rw [mboxDone, final, State.hubRelease_none held]

section
variable (s : State) (b st h hdr : Nat)

theorem State.mboxShown_mbox : ((s.mboxShown b st h hdr).bufAt b).mbox = none := by simp [State.mboxShown]
theorem State.mboxShown_result :
    (s.mboxShown b st h hdr).rd (pgBuf b) 0x104 = BitVec.ofNat 32 (2 ^ 31 + st * 2 ^ 27 + h) := by
  rw [State.mboxShown, State.rd_raise_ne _ _ _ (rkey_ne_word (by decide)),
    State.rd_wr_ne _ _ _ _ _ (rkey_ne_word (by decide)), State.rd_wr_ne _ _ _ _ _ (rkey_ne_word (by decide)),
    State.rd_wr_same]
theorem State.mboxShown_header_lo : (s.mboxShown b st h hdr).rd (pgBuf b) 0x108 = BitVec.ofNat 32 hdr := by
  rw [State.mboxShown, State.rd_raise_ne _ _ _ (rkey_ne_word (by decide)),
    State.rd_wr_ne _ _ _ _ _ (rkey_ne_word (by decide)), State.rd_wr_same]
theorem State.mboxShown_header_hi : (s.mboxShown b st h hdr).rd (pgBuf b) 0x10C = BitVec.ofNat 32 (hdr / 2 ^ 32) := by
  rw [State.mboxShown, State.rd_raise_ne _ _ _ (rkey_ne_word (by decide)), State.rd_wr_same]
theorem State.mboxShown_caused : (s.mboxShown b st h hdr).caused (pgBuf b) 7 := State.caused_raise _ (by norm_num)

end

/-! ### The buffer window (R262) -/

/-- The bytes of a number, most significant first, read as the number cut to them. -/
theorem foldl_natBE (k n a : Nat) :
    (natBE k n).foldl (fun a (b : Byte) => a * 256 + b.toNat) a = a * 256 ^ k + n % 256 ^ k := by
  induction k generalizing a with
  | zero => simp [natBE, Nat.mod_one]
  | succ k ih =>
    have digits := Nat.mod_pow_succ (x := n) (b := 256) (k := k)
    rw [natBE, List.foldl_cons, ih, BitVec.toNat_ofNat, digits]
    ring

theorem beNat_natBE_word (v : W32) : beNat (natBE 4 v.toNat) = v.toNat := by
  rw [beNat, foldl_natBE, Nat.zero_mul, Nat.zero_add]
  exact Nat.mod_eq_of_lt v.isLt

theorem State.hubAnswered_bwinAt (s : State) (p b k : Nat) : (s.hubAnswered p).bwinAt b k = s.bwinAt b k := by
  rw [State.hubAnswered_frame]
  rfl

section
variable {s : State} {b k : Nat}

theorem State.bwinRead_beyond (h : s.bwinAt b k = none) : s.bwinRead b k = (0, s) := by
  unfold State.bwinRead
  rw [h]
theorem State.bwinWrite_beyond (v : W32) (h : s.bwinAt b k = none) : s.bwinWrite b k v = s := by
  unfold State.bwinWrite
  rw [h]

variable {g o : Nat} (h : s.bwinAt b k = some (g, o)) (hheld : s.hostRef b g ≠ 0)
include h hheld

theorem State.bwinRead_held :
    s.bwinRead b k = (BitVec.ofNat 32 (beNat (Tab.getList zeroByte s.bank (bankAt b g + o) 4)), s) := by
  unfold State.bwinRead
  rw [h]
  exact if_neg hheld
theorem State.bwinWrite_held (v : W32) : s.bwinWrite b k v =
    { s with bank := Tab.setList zeroByte s.bank (bankAt b g + o) (natBE 4 v.toNat) } := by
  unfold State.bwinWrite
  rw [h]
  dsimp only
  rw [if_neg hheld]

end

section
variable {s : State} {b : BenchId} (h : s.takes (pgBuf b)) (k : Fin 64)
include h

theorem bufferWindowRead_takes : exec (.bufferWindowAccess b k none) s =
    .next (settle (State.respond ((s.hubAnswered (pgBuf b)).bwinRead b k))) :=
  finish_congr (State.wordRead_takes (pageKind_bench b).2.1 h _ _ _)
theorem bufferWindowWrite_takes (v : W32) : exec (.bufferWindowAccess b k (some v)) s =
    .next (settle ((s.hubAnswered (pgBuf b)).bwinWrite b k v)) := finish_congr (State.wordWrite_takes h _ _ _ _)

end

/-- Four bytes written to a memory: they read back, the other bytes as before, and the form stays canonical. -/
theorem Tab.setList_word (m : Tab Byte) (a : Nat) (v : W32) : let t := Tab.setList zeroByte m a (natBE 4 v.toNat)
    beNat (Tab.getList zeroByte t a 4) = v.toNat ∧
    (∀ i, i < a ∨ a + 4 ≤ i → Tab.get zeroByte t i = Tab.get zeroByte m i) ∧ (Memory.wf m = true → Memory.wf t = true) :=
  ⟨(congrArg beNat (Tab.getList_setList zeroByte (natBE 4 v.toNat) m a)).trans (beNat_natBE_word v),
    fun i hi => Tab.get_setList_outside zeroByte (natBE 4 v.toNat) m a i hi, Tab.wf_setList zeroByte _ m a⟩

theorem settle_bank (s : State) : (settle s).bank = s.bank := by rw [settle_frame]

/-! ### The mailbox's commands, one by one -/

/-- The state in which a mailbox command of a page that takes it runs. -/
def State.mboxOpened (s : State) (b : Nat) : State := (s.hubAnswered (pgBuf b)).mboxCleared b

theorem State.mboxOpened_bufAt (s : State) (b c : Nat) : (s.mboxOpened b).bufAt c = s.bufAt c := by
  rw [State.mboxOpened, State.mboxCleared_bufAt, State.bufAt_hubAnswered]
theorem State.mboxOpened_hostRef (s : State) (b g : Nat) : (s.mboxOpened b).hostRef b g = s.hostRef b g := by
  rw [State.hostRef, State.mboxOpened_bufAt, State.hostRef]
theorem State.hubAnswered_poolOf (s : State) (p b g : Nat) : (s.hubAnswered p).poolOf b g = s.poolOf b g :=
  State.poolOf_congr (fun off _ => s.hubAnswered_rd p (pgBuf b) off 0) g
theorem State.hubAnswered_bufReady (s : State) (p b : Nat) : (s.hubAnswered p).bufReady b = s.bufReady b :=
  State.bufReady_congr fun off _ => s.hubAnswered_rd p (pgBuf b) off 0

section
variable {s : State} {b : BenchId} (h : s.takes (pgBuf b))
    (hroom : ∀ c : HostCmd, c.kind = .mbox → c.page = pgBuf b → (s.hubAnswered (pgBuf b)).hubsFull c = false)
    (hfree : (s.bufAt b).mbox = none)
include h hroom hfree

theorem mboxWrite_notReady (v : Nat) (pass : Bool) (hr : s.bufReady b = false) :
    mboxWrite b v pass s = (s.mboxOpened b).mboxHold b 7 0 0 :=
  (mboxWrite_free h hroom v pass hfree).trans
    (State.mboxRun_notReady _ _ _ _ ((s.hubAnswered_bufReady _ b).trans hr))

variable (hr : s.bufReady b = true)
include hr

theorem mboxWrite_badOp (v : Nat) (pass : Bool) (hop : 5 ≤ bits v 31 28) :
    mboxWrite b v pass s = (s.mboxOpened b).mboxHold b 4 0 0 :=
  (mboxWrite_free h hroom v pass hfree).trans
    (State.mboxRun_badOp _ _ _ _ ((s.hubAnswered_bufReady _ b).trans hr) hop)

theorem mboxWrite_badHandle {v handle : Nat} (pass : Bool) (hv : bits v 20 0 = handle)
    (hbad : handle / 2 ^ 18 ≠ b ∨ s.poolOf b (handle % 2 ^ 18) = none) :
    mboxWrite b v pass s = (s.mboxOpened b).mboxHold b 4 0 0 := by
  subst hv
  refine (mboxWrite_free h hroom v pass hfree).trans
    (State.mboxRun_badHandle _ _ _ _ ((s.hubAnswered_bufReady _ b).trans hr) ?_)
  rwa [State.hubAnswered_poolOf]

theorem mboxWrite_good {v op handle : Nat} (pass : Bool) (hop : bits v 31 28 = op) (hv : bits v 20 0 = handle)
    (hlt : op < 5) (hbench : handle / 2 ^ 18 = b) (hpool : (s.poolOf b (handle % 2 ^ 18)).isSome = true) :
    mboxWrite b v pass s = (s.mboxOpened b).mboxOp b op (bits v 25 24) (handle % 2 ^ 18) pass := by
  subst hop hv
  refine (mboxWrite_free h hroom v pass hfree).trans
    (State.mboxRun_good _ _ _ _ ((s.hubAnswered_bufReady _ b).trans hr) hlt hbench ?_)
  rwa [State.hubAnswered_poolOf]

end

theorem State.mboxFree_opened (s : State) (b g : Nat) : (s.mboxOpened b).mboxFree b g =
    if ((s.bufAt b).hdr g).free then ((s.mboxOpened b).relBuf b g 65).mboxHold b 2 0 0
    else (((s.mboxOpened b).relBuf b g 65).setHostRef b g (s.hostRef b g - 1)).mboxHold b 0 0 0 := by
  rw [State.mboxFree, State.mboxOpened_bufAt, State.mboxOpened_hostRef]

theorem State.mboxAddref_opened (s : State) (b g : Nat) : (s.mboxOpened b).mboxAddref b g =
    if ((s.bufAt b).hdr g).free then ((s.mboxOpened b).doubleFree b 65 false g).mboxHold b 2 0 0
    else if 255 ≤ ((s.bufAt b).hdr g).refcnt then ((s.mboxOpened b).bump (pgBuf b) Reg.BUF.REF_SAT).mboxHold b 3 0 0
    else (((s.mboxOpened b).onBuf b fun x => x.setHdr g { (s.bufAt b).hdr g with
      refcnt := ((s.bufAt b).hdr g).refcnt + 1 }).setHostRef b g (s.hostRef b g + 1)).mboxHold b 0 0 0 := by
  unfold State.mboxAddref
  rw [State.mboxOpened_bufAt, State.mboxOpened_hostRef]

section
variable {s : State} {b : BenchId} (h : s.takes (pgBuf b))
    (hroom : ∀ c : HostCmd, c.kind = .mbox → c.page = pgBuf b → (s.hubAnswered (pgBuf b)).hubsFull c = false)
    (hfree : (s.bufAt b).mbox = none) (hr : s.bufReady b = true)
include h hroom hfree hr

theorem exec_mboxAlloc (p : Fin 4) (hpool : (s.poolOf b 0).isSome = true) :
    exec (.mboxAlloc b p) s = .next (settle ((s.mboxOpened b).mboxAlloc b p)) := by
  obtain ⟨fop, fpool, farg⟩ := bcmd_alloc p b
  obtain ⟨hb, hz⟩ := first_handle b
  have run := mboxWrite_good h hroom hfree hr true fop farg (by decide) hb (by rwa [hz])
  rw [fpool, hz] at run
  exact finish_congr run

theorem exec_mboxReclaim (pass : Bool) (hpool : (s.poolOf b 0).isSome = true) :
    exec (.mboxReclaim b pass) s = .next (settle ((s.mboxOpened b).mboxReclaim b pass)) := by
  obtain ⟨fop, farg⟩ := bcmd_reclaim b
  obtain ⟨hb, hz⟩ := first_handle b
  have run := mboxWrite_good h hroom hfree hr pass fop farg (by decide) hb (by rwa [hz])
  rw [hz] at run
  exact finish_congr run

theorem exec_mboxAlloc_noPool (p : Fin 4) (hpool : s.poolOf b 0 = none) :
    exec (.mboxAlloc b p) s = .next (settle ((s.mboxOpened b).mboxHold b 4 0 0)) := by
  obtain ⟨-, -, farg⟩ := bcmd_alloc p b
  obtain ⟨-, hz⟩ := first_handle b
  exact finish_congr (mboxWrite_badHandle h hroom hfree hr true farg (.inr (by rwa [hz])))

theorem exec_mboxReclaim_noPool (pass : Bool) (hpool : s.poolOf b 0 = none) :
    exec (.mboxReclaim b pass) s = .next (settle ((s.mboxOpened b).mboxHold b 4 0 0)) := by
  obtain ⟨-, farg⟩ := bcmd_reclaim b
  obtain ⟨-, hz⟩ := first_handle b
  exact finish_congr (mboxWrite_badHandle h hroom hfree hr pass farg (.inr (by rwa [hz])))

theorem exec_mboxBadOp (op : Fin 11) :
    exec (.mboxBadOp b op) s = .next (settle ((s.mboxOpened b).mboxHold b 4 0 0)) :=
  finish_congr (mboxWrite_badOp h hroom hfree hr _ true (bcmd_badOp op))

variable {n : Nat} (hn : n < 2 ^ 21)
include hn

theorem exec_mbox_badHandle (hbad : n / 2 ^ 18 ≠ b.val ∨ s.poolOf b (n % 2 ^ 18) = none) (i : Instr)
    (hi : i ∈ ([.mboxFree b n, .mboxAddref b n, .mboxReadhdr b n] : List Instr)) :
    exec i s = .next (settle ((s.mboxOpened b).mboxHold b 4 0 0)) := by
  have arg (op : Nat) (hop : op < 16) := (bcmd_handle hop hn).2
  simp only [List.mem_cons, List.not_mem_nil, or_false] at hi
  obtain rfl | rfl | rfl := hi
  · exact finish_congr (mboxWrite_badHandle h hroom hfree hr true (arg 1 (by decide)) hbad)
  · exact finish_congr (mboxWrite_badHandle h hroom hfree hr true (arg 2 (by decide)) hbad)
  · exact finish_congr (mboxWrite_badHandle h hroom hfree hr true (arg 3 (by decide)) hbad)

variable (hbench : n / 2 ^ 18 = b.val) (hpool : (s.poolOf b (n % 2 ^ 18)).isSome = true)
include hbench hpool

theorem exec_mboxFree : exec (.mboxFree b n) s = .next (settle ((s.mboxOpened b).mboxFree b (n % 2 ^ 18))) :=
  have ⟨fop, farg⟩ := bcmd_handle (op := 1) (by decide) hn
  finish_congr (mboxWrite_good h hroom hfree hr true fop farg (by decide) hbench hpool)

theorem exec_mboxAddref : exec (.mboxAddref b n) s = .next (settle ((s.mboxOpened b).mboxAddref b (n % 2 ^ 18))) :=
  have ⟨fop, farg⟩ := bcmd_handle (op := 2) (by decide) hn
  finish_congr (mboxWrite_good h hroom hfree hr true fop farg (by decide) hbench hpool)

theorem exec_mboxReadhdr : exec (.mboxReadhdr b n) s =
    .next (settle ((s.mboxOpened b).mboxHold b 0 0 ((s.bufAt b).hdr (n % 2 ^ 18)).word)) := by
  obtain ⟨fop, farg⟩ := bcmd_handle (op := 3) (by decide) hn
  rw [← State.mboxOpened_bufAt s b]
  exact finish_congr (mboxWrite_good h hroom hfree hr true fop farg (by decide) hbench hpool)

end

/-- Host software may use the window as its buffer's bytes. -/
theorem exec_bufferWindow_held {s : State} {b : BenchId} {k : Fin 64} (h : s.takes (pgBuf b)) {g o : Nat}
    (hin : s.bwinAt b k = some (g, o)) (hheld : s.hostRef b g ≠ 0) :
    exec (.bufferWindowAccess b k none) s = .next (settle { s.hubAnswered (pgBuf b) with
      resp := [BitVec.ofNat 32 (beNat (Tab.getList zeroByte s.bank (bankAt b g + o) 4))] }) ∧
    ∀ v : W32, exec (.bufferWindowAccess b k (some v)) s = .next (settle { s.hubAnswered (pgBuf b) with
      bank := Tab.setList zeroByte s.bank (bankAt b g + o) (natBE 4 v.toNat) }) := by
  have held : (s.hubAnswered (pgBuf b)).hostRef b g ≠ 0 := by rwa [State.hostRef, State.bufAt_hubAnswered]
  have maps := (s.hubAnswered_bwinAt (pgBuf b) b k).trans hin
  refine ⟨?_, fun v => ?_⟩
  · rw [bufferWindowRead_takes h, State.bwinRead_held maps held, State.hubAnswered_bank]
    rfl
  · rw [bufferWindowWrite_takes h, State.bwinWrite_held maps held, State.hubAnswered_bank]

/-- Settles O37: the mailbox by the fields of BCMD and the branch of an accepted command, the window by the laws of byte
memories. -/
theorem bufferMailboxAndWindow : Obligations.BufferMailboxAndWindow := by
  refine ⟨⟨fun s b h _ hroom => ?_, fun s b st n hdr hm hheld => ?_⟩,
    fun s b k h => ⟨fun hout => ⟨?_, fun v => ?_⟩, fun g o hin hheld => ⟨?_, fun v => ?_⟩⟩⟩
  · intro a u
    have opened : u = s.mboxOpened b := rfl
    clear_value u
    subst opened
    refine ⟨fun p n pass op i hi => ?_, fun hfree hr => ⟨fun p hpool => ?_, fun n hn hbench hpool => ⟨?_, ?_, ?_⟩,
      fun n hn => exec_mbox_badHandle h hroom hfree hr hn,
      fun pass hpool => ⟨exec_mboxReclaim h hroom hfree hr pass hpool, fun hc => ?_, fun g l hc => ?_⟩,
      fun p pass hpool => ⟨exec_mboxAlloc_noPool h hroom hfree hr p hpool,
        exec_mboxReclaim_noPool h hroom hfree hr pass hpool⟩, exec_mboxBadOp h hroom hfree hr⟩⟩
    · obtain ⟨v, x, hw⟩ := exec_mbox i hi
      rw [hw]
      exact ⟨fun hbusy => finish_congr (mboxWrite_busy h hroom v x hbusy),
        fun hfree hr => finish_congr (mboxWrite_notReady h hroom hfree v x hr)⟩
    · rw [exec_mboxAlloc h hroom hfree hr p hpool, State.mboxAlloc]
      generalize (s.mboxOpened b).allocNow b 65 512 none (.pool p) = answer
      rfl
    · rw [exec_mboxFree h hroom hfree hr hn hbench hpool, State.mboxFree_opened]
    · rw [exec_mboxAddref h hroom hfree hr hn hbench hpool, State.mboxAddref_opened]
    · exact exec_mboxReadhdr h hroom hfree hr hn hbench hpool
    · exact State.mboxReclaim_empty _ _ _ ((congrArg BufSt.cullet (s.mboxOpened_bufAt b b)).trans hc)
    · exact State.mboxReclaim_head _ _ _ _ ((congrArg BufSt.cullet (s.mboxOpened_bufAt b b)).trans hc)
  · refine ⟨settle (s.mboxShown b st n hdr), finish_congr (mboxDone_shows hm hheld), ?_, ?_, ?_, ?_, ?_⟩
    · rw [settle_bufAt]
      exact s.mboxShown_mbox b st n hdr
    · rw [settle_rd]
      exact s.mboxShown_result b st n hdr
    · rw [settle_rd]
      exact s.mboxShown_header_lo b st n hdr
    · rw [settle_rd]
      exact s.mboxShown_header_hi b st n hdr
    · exact (settle_caused _ _ _).2 (s.mboxShown_caused b st n hdr)
  · rw [bufferWindowRead_takes h, State.bwinRead_beyond ((s.hubAnswered_bwinAt _ _ _).trans hout)]
    rfl
  · rw [bufferWindowWrite_takes h, State.bwinWrite_beyond v ((s.hubAnswered_bwinAt _ _ _).trans hout)]
  · exact (exec_bufferWindow_held h hin hheld).1
  · obtain ⟨reads, others, form⟩ := Tab.setList_word s.bank (bankAt b g + o) v
    refine ⟨_, (exec_bufferWindow_held h hin hheld).2 v, ?_⟩
    rw [settle_bank]
    exact ⟨reads, others, form, (Touches.refl _ _).settle⟩

end Sys2Proof.Machine
end

section
/-! SUPPORT. O41: the spill path (R279 to R281, R407, R409, R411 to R413). What a move writes at a queue's tail leaves of its
copies, what a copy at HEAD's end changes, and each command by the branch that it takes. -/

namespace Sys2Proof.Machine

/-! ### Commands of a pseudo-channel leave the queues (R415, R417) -/

theorem State.queueAt_congr {s t : State} (h : t.queue = s.queue) (k : Nat) : t.queueAt k = s.queueAt k := by
  rw [State.queueAt, h, State.queueAt]

@[simp] theorem settle_queueAt (s : State) (k : Nat) : (settle s).queueAt k = s.queueAt k :=
  State.queueAt_congr (congrArg State.queue (settle_frame s)) k

theorem settle_chan (s : State) : (settle s).chan = s.chan := by rw [settle_frame]
theorem settle_half (s : State) : (settle s).half = s.half := by rw [settle_frame]

theorem State.coreCount_queue (s : State) (b c : Nat) : (s.coreCount b c).queue = s.queue := State.bump_queue ..
theorem State.halfCount_queue (s : State) (t c n : Nat) : (s.halfCount t c n).queue = s.queue := State.addCtr_queue ..

@[simp] theorem State.access_queue (s : State) (c u : Nat) : (s.access c u).queue = s.queue := by
  unfold State.access
  dsimp only
  split
  · rfl
  · rfl

@[simp] theorem State.accessAll_queue (s : State) (c : Nat) (l : List RetryRec) : (s.accessAll c l).queue = s.queue :=
  State.each_keeps (I := fun u => u.queue = s.queue) _ rfl fun u x _ hu => (u.access_queue c x).trans hu

@[simp] theorem State.serve_queue (s : State) (c : Nat) : (s.serve c).queue = s.queue := by
  unfold State.serve
  dsimp only
  split
  · rfl
  · rw [State.accessAll_queue, State.putChan_queue]

@[simp] theorem State.issue_queue (s : State) (c : Nat) (write : Bool) (k seq : Nat) (us : List Nat) :
    (s.issue c write k seq us).queue = s.queue := by
  unfold State.issue
  split
  · rfl
  · rw [State.serve_queue, State.onChan_eq, State.putChan_queue]

@[simp] theorem State.takeSlab_queue (s : State) (c : Nat) : (s.takeSlab c).2.queue = s.queue := by
  rw [State.takeSlab, State.issue_queue, State.putChan_queue]

theorem State.badWord_queue (s : State) (k : Nat) (c : Copy) (d : Desc) : (s.badWord k c d).queue = s.queue := by
  unfold State.badWord
  split
  · rfl
  · split
    · rfl
    · rfl

/-! ### Writes at a queue's tail leave its copies (R405, R410) -/

/-- What the moves of a queue have left of its copies: MID, STAGE and the next MOVE_SEQ. -/
def State.spillCopies (s : State) (k : Nat) : List MidRec × List Copy × Nat :=
  ((s.queueAt k).mid, (s.queueAt k).stage, (s.queueAt k).moveSeq)

theorem State.spillCopies_congr {s t : State} (h : t.queue = s.queue) (k : Nat) : t.spillCopies k = s.spillCopies k := by
  rw [State.spillCopies, State.queueAt_congr h, State.spillCopies]

@[simp] theorem State.spillCopies_putQueue (s : State) (k : Nat) (q : Queue) :
    (s.putQueue k q).spillCopies k = (q.mid, q.stage, q.moveSeq) := by
  rw [State.spillCopies, State.queueAt_same]

@[simp] theorem State.spillCopies_issue (s : State) (c : Nat) (write : Bool) (j seq : Nat) (us : List Nat) (k : Nat) :
    (s.issue c write j seq us).spillCopies k = s.spillCopies k := State.spillCopies_congr (s.issue_queue c write j seq us) k

theorem State.closeTail_spillCopies (s : State) (k : Nat) : (s.closeTail k).spillCopies k = s.spillCopies k := by
  unfold State.closeTail
  dsimp only
  split
  · rfl
  · exact State.spillCopies_putQueue ..

theorem State.linkTail_spillCopies (s : State) (k c n : Nat) : (s.linkTail k c n).spillCopies k = s.spillCopies k := by
  unfold State.linkTail
  dsimp only
  split
  · exact s.closeTail_spillCopies k
  · rw [State.spillCopies_issue, State.spillCopies_issue, State.spillCopies_putQueue]
    exact s.closeTail_spillCopies k

theorem State.newSlab_spillCopies {s t : State} {k : Nat} (h : s.newSlab k = some t) : t.spillCopies k = s.spillCopies k := by
  unfold State.newSlab at h
  split at h
  · cases h
  · cases h
    rw [State.onQueue_eq, State.spillCopies_putQueue]
    exact (State.linkTail_spillCopies ..).trans (State.spillCopies_congr (State.takeSlab_queue ..) k)

theorem State.writeUnits_spillCopies {k seq fuel : Nat} : ∀ {s t : State} {n : Nat} {head : Bool},
    s.writeUnits k seq fuel n head = some t → t.spillCopies k = s.spillCopies k := by
  induction fuel with
  | zero => intro s t n head h; cases h
  | succ fuel ih =>
    intro s t n head h
    unfold State.writeUnits at h
    dsimp only at h
    split at h
    · cases h; rfl
    · split at h
      · split at h
        next taken => exact (ih h).trans (State.newSlab_spillCopies taken)
        · cases h
      · split at h
        · cases h
        · rw [ih h, State.spillCopies_issue, State.spillCopies_putQueue, State.spillCopies]

/-! ### Moves (R279, R409, R411) -/

theorem State.setQueue_spillCopies (s : State) (k : Nat) (q : Queue) :
    (s.setQueue k q).spillCopies k = (q.mid, q.stage, q.moveSeq) := by
  rw [← s.spillCopies_putQueue k { q with starved := q.head.isEmpty && q.state == 2 }]
  unfold State.setQueue
  dsimp only
  split
  · rfl
  · rfl

/-- A copy that the crucible takes leaves STAGE and joins MID's end with the queue's next MOVE_SEQ. -/
theorem State.takeMove_spillCopies {s v : State} {k : Nat} {c : Copy} {d : Desc} (h : s.takeMove k c d = some v) :
    ∃ r : MidRec, v.spillCopies k =
        ((s.queueAt k).mid ++ [r], (s.queueAt k).stage.drop 1, ((s.queueAt k).moveSeq + 1) % 2 ^ 32) ∧
      r.copy = c ∧ r.moveSeq = (s.queueAt k).moveSeq := by
  unfold State.takeMove at h
  dsimp only at h
  split at h
  · cases h
  next s1 written =>
    obtain ⟨hmid, hstage, -⟩ : _ ∧ _ ∧ _ := by
      simpa only [State.spillCopies, Prod.mk.injEq] using State.writeUnits_spillCopies written
    rw [hmid, hstage] at h
    generalize placed : s1.setQueue k _ = s2 at h
    have kept : v.queue = s2.queue := by
      cases h
      split
      · rw [State.setFld_queue, State.halfCount_queue, State.coreCount_queue]
      · rw [State.halfCount_queue, State.coreCount_queue]
    subst placed
    exact ⟨_, (State.spillCopies_congr kept k).trans (State.setQueue_spillCopies ..), rfl, rfl⟩

/-- An offer of STAGE's oldest copy: which check refuses it, or that it moves. -/
theorem spillMove_offered {s : State} {b : BenchId} {q : Fin 512} (bad : Bool) {c : Copy} {rest : List Copy} {d : Desc}
    (hstage : (s.queueAt (qkey b q)).stage = c :: rest) (hdesc : s.descAt c.bench c.desc = some d)
    (hen : s.spillEn (qkey b q) = true) (hdone : d.done = true) (hgood : d.bad = 0) (htag : d.tagWait = false)
    (hfreq : s.phy.change = none) (hdom : s.domOn (domSpill (benchTeam b)) = true) :
    spillMove b q bad s =
      if s.halfState (benchTeam b) ≠ 2 then (s.refuseMove (qkey b q) Reg.CRUCH.REFUSE_STATE).pointForSpill
      else if 2097152 ≤ s.cdescUsed (benchTeam b) then (s.refuseMove (qkey b q) Reg.CRUCH.REFUSE_DESC).pointForSpill
      else
        let u := if bad then s.badWord (qkey b q) c d else s
        (u.takeMove (qkey b q) c d).elim (u.refuseMove (qkey b q) Reg.CRUCH.REFUSE_SLAB).pointForSpill State.pointForSpill := by
  have offered : (!s.spillEn (qkey b q) || !d.done || d.bad != 0 || d.tagWait || s.phy.change.isSome ||
      !s.domOn (domSpill (benchTeam b))) = false := by simp [hen, hdone, hgood, htag, hfreq, hdom]
  simp only [spillMove, hstage, hdesc, offered, Bool.false_eq_true, if_false]
  generalize (if bad = true then s.badWord (qkey b q) c d else s) = u
  cases u.takeMove (qkey b q) c d with
  | none => rfl
  | some v => rfl

/-! ### What a copy stores (R406, R407) -/

theorem length_natBE (k n : Nat) : (natBE k n).length = k := by
  induction k with
  | zero => rfl
  | succ k ih => rw [natBE, List.length_cons, ih]

theorem MidRec.record_length (r : MidRec) (k : Nat) : (r.record k).length = 96 := by
  simp only [MidRec.record, List.length_append, length_natBE, List.length_replicate]

theorem MidRec.units_dvd_stored (r : MidRec) (k : Nat) : 32 ∣ (r.stored k).length := by
  have filled : (r.stored k).length = 32 * ceilDiv (96 + r.data.length) 32 := by
    simp only [MidRec.stored, List.length_append, MidRec.record_length, List.length_replicate, ceilDiv]
    omega
  exact ⟨_, filled⟩

/-! ### Returns and promotions (R280, R281, R412, R413) -/

theorem qkey_bench (b : BenchId) (q : Fin 512) : qkey b q / 1024 = b := by
  unfold qkey
  omega

theorem returnRound_begins {s : State} {b : BenchId} {q : Fin 512} (hround : (s.queueAt (qkey b q)).round = false)
    (hmid : (s.queueAt (qkey b q)).mid ≠ [])
    (hlow : (s.queueAt (qkey b q)).headCells < s.spillFld (qkey b q) Reg.CORE.RETURN_LO) :
    returnRound b q s = (s.putQueue (qkey b q) { s.queueAt (qkey b q) with round := true }).readFront (qkey b q) := by
  simp [returnRound, hround, hmid, hlow]

theorem returnRound_runs {s : State} {b : BenchId} {q : Fin 512} (hround : (s.queueAt (qkey b q)).round = true) :
    returnRound b q s = s.readFront (qkey b q) := by
  simp [returnRound, hround]

theorem State.enterHead_noEntry {s : State} {b : BenchId} {q : Fin 512} (r : MidRec) (h : s.qeFree b = 0) :
    s.enterHead (qkey b q) r = s.coreCount b Reg.CORE.QE_DEFER := by
  rw [State.enterHead, qkey_bench]
  exact if_pos h

/-- A new head changes its port's finish tags only. -/
theorem State.newHead_frame (s : State) (k base : Nat) : s.newHead k base = { s with sched := (s.newHead k base).sched } := by
  unfold State.newHead
  split
  · rfl
  · rfl

theorem State.setQueue_fed (s : State) (k : Nat) {q : Queue} (h : q.head.isEmpty = false) :
    s.setQueue k q = s.putQueue k { q with starved := false } := by
  simp [State.setQueue, h]

/-- A copy at HEAD's end: the queue has it, is not starved, and beside it only finish tags change. -/
theorem State.pushHead_frame (s : State) (k : Nat) (c : Copy) : s.pushHead k c =
    { s.putQueue k { s.queueAt k with head := (s.queueAt k).head ++ [c], starved := false } with
      sched := (s.pushHead k c).sched } := by
  unfold State.pushHead
  dsimp only
  rw [State.setQueue_fed _ _ (by simp)]
  split
  · exact State.newHead_frame ..
  · rfl

theorem State.pushHead_queueAt (s : State) (k : Nat) (c : Copy) :
    (s.pushHead k c).queueAt k = { s.queueAt k with head := (s.queueAt k).head ++ [c], starved := false } := by
  rw [State.pushHead_frame]
  exact State.queueAt_same ..

theorem State.pushHead_ctrs (s : State) (k : Nat) (c : Copy) : (s.pushHead k c).ctrs = s.ctrs := by
  rw [State.pushHead_frame]
  rfl
theorem State.pushHead_chan (s : State) (k : Nat) (c : Copy) : (s.pushHead k c).chan = s.chan := by
  rw [State.pushHead_frame]
  rfl
theorem State.pushHead_half (s : State) (k : Nat) (c : Copy) : (s.pushHead k c).half = s.half := by
  rw [State.pushHead_frame]
  rfl

theorem stagePromote_moves {s : State} {b : BenchId} {q : Fin 512} {c : Copy} {rest : List Copy}
    (hstage : (s.queueAt (qkey b q)).stage = c :: rest) (hmid : (s.queueAt (qkey b q)).mid = [])
    (hlow : (s.queueAt (qkey b q)).headCells < s.spillFld (qkey b q) Reg.CORE.RETURN_LO) :
    stagePromote b q s = ((s.putQueue (qkey b q) { s.queueAt (qkey b q) with stage := rest }).pushHead (qkey b q) c).coreCount b
      Reg.CORE.STAGE_PROMOTE := by
  simp [stagePromote, hstage, hmid, hlow]

/-- The queue whose turn it is: its oldest MID copy is discarded where it is bad, and else enters HEAD. -/
theorem spillReturn_turn {s : State} {b : BenchId} {q : Fin 512} {r : MidRec} {rest : List MidRec}
    (hmid : (s.queueAt (qkey b q)).mid = r :: rest) (hturn : s.returnTurn (benchTeam b) = some (qkey b q)) :
    let u := s.onHalf (benchTeam b) fun h => { h with served := qkey b q }
    spillReturn b q s = if r.bad then ((u.halfCount (benchTeam b) Reg.CRUCH.UE_DISCARD).bump (pgBuf b)
      Reg.BUF.CULLET_FRAMES).leaveMid (qkey b q) else u.enterHead (qkey b q) r := by
  rw [spillReturn, if_pos hturn]
  dsimp only
  rw [hmid]

/-! ### The statement -/

/-- Settles O41: each command takes the branch that its hypotheses name. -/
theorem spillPath : Obligations.SpillPath := by
  refine ⟨fun s b q bad c rest d => ?_, fun r k => ⟨r.record_length k, r.units_dvd_stored k⟩, fun s b q seq r => ?_,
    fun s b q => ?_, fun s b q c rest => ?_⟩
  · intro k hstage hdesc hen hdone hgood htag hfreq hdom u
    have offered := spillMove_offered bad hstage hdesc hen hdone hgood htag hfreq hdom
    refine ⟨fun hrun => finish_congr (offered.trans (if_pos hrun)), fun hrun hfull => finish_congr ?_,
      fun hrun hroom hnone => finish_congr ?_, fun v hrun hroom hsome => ⟨finish_congr ?_, ?_⟩⟩
    · rw [offered, if_neg (not_not.2 hrun), if_pos hfull]
    · rw [offered, if_neg (not_not.2 hrun), if_neg (by omega)]
      exact congrArg (Option.elim · _ _) hnone
    · rw [offered, if_neg (not_not.2 hrun), if_neg (by omega)]
      exact congrArg (Option.elim · _ _) hsome
    · have same : u.queueAt k = s.queueAt k := by
        refine State.queueAt_congr ?_ k
        dsimp only [u]
        split
        · exact s.badWord_queue ..
        · rfl
      obtain ⟨r, moved, hcopy, hseq⟩ := State.takeMove_spillCopies hsome
      rw [same] at moved hseq
      simp only [State.spillCopies, Prod.mk.injEq] at moved
      obtain ⟨hmid, hleft, hnext⟩ := moved
      exact ⟨by rw [hleft, hstage]; rfl, hnext, r, hmid, hcopy, hseq⟩
  · intro x found
    refine finish_congr ?_
    rw [spillWriteComplete]
    dsimp only
    rw [found]
  · intro k x
    refine ⟨fun hround hmid hlow => finish_congr (returnRound_begins hround hmid hlow),
      fun hround => finish_congr (returnRound_runs hround), fun r rest hmid hturn => ?_,
      fun hturn => finish_congr (if_neg hturn), fun c rest hstage hmid hlow => finish_congr (stagePromote_moves hstage hmid hlow)⟩
    intro u
    have returned := spillReturn_turn hmid hturn
    exact ⟨fun hgood => ⟨finish_congr (returned.trans (if_neg (by rw [hgood]; decide))),
      fun hfull => State.enterHead_noEntry r hfull⟩, fun hbad => finish_congr (returned.trans (if_pos hbad))⟩
  · intro k hmid hlow hstage
    refine ⟨_, finish_congr (stagePromote_moves hstage hmid hlow), ?_⟩
    rw [settle_queueAt, State.queueAt_congr (State.coreCount_queue ..), State.pushHead_queueAt, State.queueAt_same]
    refine ⟨rfl, rfl, hmid, ?_, ?_, ?_⟩
    · rw [settle_chan]
      exact State.pushHead_chan ..
    · rw [settle_half]
      exact State.pushHead_half ..
    · rw [settle_ctr_page _ (by unfold pgCore pgHost; omega) (by decide) (by norm_num), State.coreCount, State.bump,
        State.ctr_addCtr_same, State.ctr_congr (State.pushHead_ctrs ..)]
      rfl

end Sys2Proof.Machine
end

section
/-! SUPPORT. O43: gates (R318 to R324, R331, R340). What a field of a port's GATE page reads after writes of that page, the
instants of the next change, what a change's request and its completion leave, and the list window. -/

namespace Sys2Proof.Machine

/-! ### A port's fields of its GATE page -/

theorem portLocal_lt (p : Nat) : portLocal p < 64 := by
  unfold portLocal
  split <;> omega

theorem pgGate_ne_lehr (b : Nat) : pgGate b ≠ pgLehr := by
  unfold pgGate pgLehr
  omega

theorem State.gfld_setGfld_same (s : State) (p : Nat) {f : Fld} (v : Nat) (h : f.lo ≤ f.hi ∧ f.hi < 32) :
    (s.setGfld p f v).gfld p f = v % 2 ^ (f.hi + 1 - f.lo) := State.fld_setFld_same _ _ _ _ _ h.1 h.2

/-- A field reads as before a write of a field of another word, or of other bits of its word. -/
theorem State.gfld_setGfld_ne (s : State) (p : Nat) {f g : Fld} (v : Nat) (hf : f.lo ≤ f.hi ∧ f.hi < 32)
    (h : g.off / 4 ≠ f.off / 4 ∨ g.off = f.off ∧ (g.hi < f.lo ∨ f.hi < g.lo)) :
    (s.setGfld p f v).gfld p g = s.gfld p g := by
  obtain word | ⟨word, bits⟩ := h
  · exact State.fld_setFld_other _ _ _ _ _ (rkey_ne_word word)
  · exact State.fld_setFld_apart _ _ _ _ _ _ hf.1 hf.2 word bits

theorem State.gfld_gateRaise (s : State) (p i : Nat) {f : Fld} (h : 0x20 ≤ f.off ∧ f.off < 4096) :
    (s.gateRaise p i).gfld p f = s.gfld p f :=
  State.fld_raise_other _ _ _ (rkey_ne_off (by have := portLocal_lt p; omega) (by norm_num) h.2 (by norm_num) (by omega))

@[simp] theorem State.gfld_gateCount (s : State) (p c : Nat) (f : Fld) : (s.gateCount p c).gfld p f = s.gfld p f := rfl
@[simp] theorem State.gfld_onGate (s : State) (p k : Nat) (g : GateSt → GateSt) (f : Fld) :
    (s.onGate k g).gfld p f = s.gfld p f := rfl
@[simp] theorem State.hubAnswered_gfld (s : State) (q p : Nat) (f : Fld) : (s.hubAnswered q).gfld p f = s.gfld p f :=
  State.hubAnswered_fld ..
@[simp] theorem settle_gfld (s : State) (p : Nat) (f : Fld) : (settle s).gfld p f = s.gfld p f := settle_fld ..

/-! ### A port's gates -/

theorem State.gateAt_congr {s t : State} (h : t.gate = s.gate) (p : Nat) : t.gateAt p = s.gateAt p := by
  rw [State.gateAt, h, State.gateAt]

@[simp] theorem State.gateAt_setGfld (s : State) (p k : Nat) (f : Fld) (v : Nat) : (s.setGfld p f v).gateAt k = s.gateAt k :=
  State.gateAt_congr (State.setFld_gate ..) k
@[simp] theorem State.gateAt_gateCount (s : State) (p c k : Nat) : (s.gateCount p c).gateAt k = s.gateAt k :=
  State.gateAt_congr (State.bump_gate ..) k
@[simp] theorem State.gateAt_gateRaise (s : State) (p i k : Nat) : (s.gateRaise p i).gateAt k = s.gateAt k :=
  State.gateAt_congr (State.raise_gate ..) k
@[simp] theorem State.gateAt_onGate (s : State) (p : Nat) (g : GateSt → GateSt) : (s.onGate p g).gateAt p = g (s.gateAt p) :=
  State.gateAt_same ..
@[simp] theorem settle_gate (s : State) : (settle s).gate = s.gate := by rw [settle_frame]
@[simp] theorem settle_gateAt (s : State) (p : Nat) : (settle s).gateAt p = s.gateAt p := State.gateAt_congr (settle_gate s) p

@[simp] theorem State.hubAnswered_gateAt (s : State) (q p : Nat) : (s.hubAnswered q).gateAt p = s.gateAt p :=
  State.gateAt_congr (State.hubAnswered_gate ..) p
@[simp] theorem State.hubAnswered_gatePort (s : State) (q b : Nat) : (s.hubAnswered q).gatePort b = s.gatePort b :=
  congrArg (localPort b) (State.hubAnswered_fld ..)
@[simp] theorem State.hubAnswered_gatePending (s : State) (q p : Nat) : (s.hubAnswered q).gatePending p = s.gatePending p :=
  congrArg (· == 1) (State.hubAnswered_gfld ..)
@[simp] theorem State.hubAnswered_operBank (s : State) (q p : Nat) : (s.hubAnswered q).operBank p = s.operBank p :=
  State.hubAnswered_gfld ..
@[simp] theorem State.hubAnswered_gclWord (s : State) (q p bank i : Nat) :
    (s.hubAnswered q).gclWord p bank i = s.gclWord p bank i := by
  simp only [State.gclWord, State.hubAnswered_gateAt]

/-! ### Entries and holds (R319, R331) -/

theorem gateEntryBegin_begins {s : State} {p : PortId} (sent : Nat) {t : Nat} (hmode : s.gateMode p = 1)
    (hat : s.boundary p = some t) : gateEntryBegin p sent s = (s.reach t).entryBegin p sent := by
  rw [gateEntryBegin, if_pos hmode, hat]

theorem gateEntryBegin_idle {s : State} {p : PortId} (sent : Nat) (h : s.gateMode p ≠ 1 ∨ s.boundary p = none) :
    gateEntryBegin p sent s = s := by
  unfold gateEntryBegin
  split
  · next hmode => rw [h.resolve_left (not_not.2 hmode)]
  · rfl

theorem holdAssert_holds {s : State} {p : PortId} (sent : Nat) {t : Nat} (hat : s.holdNext p = some t)
    (htx : s.txActive p = true) (hfree : (s.schedAt p).hold = false) :
    holdAssert p sent s = (s.reach (t - s.gfld p Reg.GATE.HOLD_ADV)).holdMac p sent := by
  rw [holdAssert, if_pos ⟨htx, by rw [hfree]; rfl⟩, hat]

theorem holdAssert_idle {s : State} {p : PortId} (sent : Nat)
    (h : s.holdNext p = none ∨ s.txActive p = false ∨ (s.schedAt p).hold = true) : holdAssert p sent s = s := by
  unfold holdAssert
  split
  · next hfree =>
    have none : s.holdNext p = none := h.resolve_right (by simpa using hfree)
    rw [none]
  · rfl

theorem State.holdMac_holds {s : State} {p : Nat} (sent : Nat) (htx : s.txAt p = none) (hfree : (s.schedAt p).hold = false) :
    ((s.holdMac p sent).schedAt p).hold = true := by
  rw [State.holdMac, if_neg (by rw [hfree]; decide)]
  refine (congrArg (fun u => (u.schedAt p).hold) (State.preemptIf_idle sent ?_)).trans ?_
  · exact htx
  · exact congrArg SchedSt.hold (State.schedAt_same ..)

/-! ### The instant of a change (R322) -/

theorem changeTime_eq (base cycle t : Nat) : changeTime base cycle t = base + (t - base) ⌈/⌉ cycle * cycle := by
  unfold changeTime
  split
  · next h => rw [Nat.sub_eq_zero_of_le h, zero_ceilDiv, Nat.zero_mul, Nat.add_zero]
  · rw [Nat.ceilDiv_eq_add_pred_div, ceilDiv]

theorem changeTime_reaches (base t : Nat) {cycle : Nat} (h : 1 ≤ cycle) : t ≤ changeTime base cycle t := by
  have := (ceilDiv_le_iff_le_mul (c := (t - base) ⌈/⌉ cycle) h).1 le_rfl
  rw [changeTime_eq, Nat.mul_comm]
  omega

theorem changeTime_first {base cycle t n : Nat} (h : 1 ≤ cycle) (ht : t ≤ base + n * cycle) :
    changeTime base cycle t ≤ base + n * cycle := by
  have first : (t - base) ⌈/⌉ cycle ≤ n := (ceilDiv_le_iff_le_mul h).2 (by rw [Nat.mul_comm]; omega)
  rw [changeTime_eq]
  exact Nat.add_le_add_left (Nat.mul_le_mul_right cycle first) base

/-- The fields of CCT hold every time below 2^48 s. -/
theorem timeOf_parts {t : Nat} (h : t < 2 ^ 48 * 1000000000) :
    timeOf (secOf t / 2 ^ 32 % 2 ^ 16) (secOf t % 2 ^ 32) (nsOf t % 2 ^ 30) = t := by
  unfold timeOf secOf nsOf
  omega

/-! ### Requests (R322) -/

theorem State.changeRequest_rejected {s : State} {p : Nat}
    (h : s.gfld p Reg.GATE.ADM_LEN = 0 ∨ 1024 < s.gfld p Reg.GATE.ADM_LEN ∨ s.gfld p Reg.GATE.ADM_CYCLE = 0 ∨
      1000000000 < s.gfld p Reg.GATE.ADM_CYCLE ∨ 1000000000 ≤ s.gfld p Reg.GATE.ADM_BASE_NS ∨ s.timeValid = false) :
    s.changeRequest p = ((s.gateCount p Reg.GATE.CONFIG_REJECT).setGfld p Reg.GATE.GSTAT_CHG_REJ 1).gateRaise p 1 :=
  if_pos (by simpa only [Bool.not_eq_true'] using h)

/-- A change that waits for `t`: its base, cycle, extension and length, CCT, and PENDING. -/
def State.changeWaits (s : State) (p : Nat) (change : Nat × Nat × Nat × Nat) (t : Nat) : State :=
  ((((s.onGate p fun g => { g with pend := some change }).setGfld p Reg.GATE.CCT_NS (nsOf t)).setGfld p Reg.GATE.CCT_SEC_LO
    (secOf t)).setGfld p Reg.GATE.CCT_SEC_HI (secOf t / 2 ^ 32)).setGfld p Reg.GATE.GSTAT_PENDING 1

theorem State.changeRequest_waits {s : State} {p : Nat} (hlen : 1 ≤ s.gfld p Reg.GATE.ADM_LEN)
    (hlen' : s.gfld p Reg.GATE.ADM_LEN ≤ 1024) (hcycle : 1 ≤ s.gfld p Reg.GATE.ADM_CYCLE)
    (hcycle' : s.gfld p Reg.GATE.ADM_CYCLE ≤ 1000000000) (hns : s.gfld p Reg.GATE.ADM_BASE_NS < 1000000000)
    (hvalid : s.timeValid = true) :
    let base := timeOf (s.gfld p Reg.GATE.ADM_BASE_SEC_HI) (s.gfld p Reg.GATE.ADM_BASE_SEC_LO) (s.gfld p Reg.GATE.ADM_BASE_NS)
    let cycle := s.gfld p Reg.GATE.ADM_CYCLE
    s.changeRequest p = s.changeWaits p (base, cycle, s.gfld p Reg.GATE.ADM_EXT, s.gfld p Reg.GATE.ADM_LEN)
      (changeTime base cycle (s.time.now + 10000)) :=
  if_neg (by simp only [hvalid, Bool.not_true, Bool.false_eq_true, or_false]; omega)

section
variable (s : State) (p : Nat) (change : Nat × Nat × Nat × Nat)

theorem State.changeWaits_pending (t : Nat) : (s.changeWaits p change t).gatePending p = true := by
  rw [State.gatePending, State.changeWaits, State.gfld_setGfld_same _ _ _ (by decide)]
  rfl

theorem State.changeWaits_pend (t : Nat) : ((s.changeWaits p change t).gateAt p).pend = some change := by
  simp only [State.changeWaits, State.gateAt_setGfld, State.gateAt_onGate]

theorem State.changeWaits_cct {t : Nat} (h : t < 2 ^ 48 * 1000000000) : (s.changeWaits p change t).cct p = t := by
  have hi : (s.changeWaits p change t).gfld p Reg.GATE.CCT_SEC_HI = secOf t / 2 ^ 32 % 2 ^ 16 := by
    rw [State.changeWaits, State.gfld_setGfld_ne _ _ _ (by decide) (by decide)]
    exact State.gfld_setGfld_same _ _ _ (by decide)
  have lo : (s.changeWaits p change t).gfld p Reg.GATE.CCT_SEC_LO = secOf t % 2 ^ 32 := by
    rw [State.changeWaits, State.gfld_setGfld_ne _ _ _ (by decide) (by decide), State.gfld_setGfld_ne _ _ _ (by decide) (by decide)]
    exact State.gfld_setGfld_same _ _ _ (by decide)
  have ns : (s.changeWaits p change t).gfld p Reg.GATE.CCT_NS = nsOf t % 2 ^ 30 := by
    rw [State.changeWaits, State.gfld_setGfld_ne _ _ _ (by decide) (by decide), State.gfld_setGfld_ne _ _ _ (by decide) (by decide),
      State.gfld_setGfld_ne _ _ _ (by decide) (by decide)]
    exact State.gfld_setGfld_same _ _ _ (by decide)
  rw [State.cct, hi, lo, ns, timeOf_parts h]

end

/-! ### Completions (R323) -/

theorem configChangeComplete_due {s : State} {p : PortId} (hpend : s.gatePending p = true) (hvalid : s.timeValid = true) :
    configChangeComplete p s = (((s.reach (s.cct p)).changeComplete p).gateTrack p).sagPlanPort p :=
  if_pos (by rw [hpend, hvalid]; rfl)

theorem configChangeComplete_idle {s : State} {p : PortId} (h : s.gatePending p = false ∨ s.timeValid = false) :
    configChangeComplete p s = s := if_neg (by obtain h | h := h <;> simp [h])

/-- The oper settings become those of the change. -/
def State.operSet (s : State) (p base cycle ext len : Nat) : State :=
  (((((s.setGfld p Reg.GATE.OPER_BASE_NS (nsOf base)).setGfld p Reg.GATE.OPER_BASE_SEC_LO (secOf base)).setGfld p
    Reg.GATE.OPER_BASE_SEC_HI (secOf base / 2 ^ 32)).setGfld p Reg.GATE.OPER_CYCLE cycle).setGfld p Reg.GATE.OPER_EXT ext).setGfld p
    Reg.GATE.OPER_LEN len

/-- The banks exchange roles, and nothing is pending. -/
def State.bankSwapped (s : State) (p bank : Nat) : State :=
  ((((s.setGfld p Reg.GATE.GSTAT_OPER_BANK (1 - bank)).setGfld p Reg.GATE.GSTAT_PENDING 0).gateCount p
    Reg.GATE.CONFIG_CHANGES).setGfld p Reg.GATE.GSTAT_CHG_DONE 1).gateRaise p 0

theorem State.changeComplete_eq {s : State} {p base cycle ext len : Nat} (h : (s.gateAt p).pend = some (base, cycle, ext, len)) :
    s.changeComplete p = ((s.onGate p fun g => { g with pend := none, first := true }).operSet p base cycle ext len).bankSwapped p
      (s.operBank p) := by
  rw [State.changeComplete, h]
  rfl

theorem State.operSet_gateAt (s : State) (p base cycle ext len k : Nat) :
    (s.operSet p base cycle ext len).gateAt k = s.gateAt k := by
  simp only [State.operSet, State.gateAt_setGfld]

theorem State.bankSwapped_gateAt (s : State) (p bank k : Nat) : (s.bankSwapped p bank).gateAt k = s.gateAt k := by
  simp only [State.bankSwapped, State.gateAt_gateRaise, State.gateAt_setGfld, State.gateAt_gateCount]

theorem State.bankSwapped_operBank (s : State) (p bank : Nat) : (s.bankSwapped p bank).operBank p = 1 - bank := by
  rw [State.operBank, State.bankSwapped, State.gfld_gateRaise _ _ _ (by decide),
    State.gfld_setGfld_ne _ _ _ (by decide) (by decide), State.gfld_gateCount,
    State.gfld_setGfld_ne _ _ _ (by decide) (by decide), State.gfld_setGfld_same _ _ _ (by decide)]
  exact Nat.mod_eq_of_lt (show 1 - bank < 2 by omega)

theorem State.bankSwapped_pending (s : State) (p bank : Nat) : (s.bankSwapped p bank).gatePending p = false := by
  rw [State.gatePending, State.bankSwapped, State.gfld_gateRaise _ _ _ (by decide),
    State.gfld_setGfld_ne _ _ _ (by decide) (by decide), State.gfld_gateCount, State.gfld_setGfld_same _ _ _ (by decide)]
  rfl

theorem State.bankSwapped_caused (s : State) (p bank : Nat) : (s.bankSwapped p bank).caused (pgGate (portBench p)) 0 :=
  State.caused_raise _ (by norm_num)

/-! ### The list window (R318, R324, R340) -/

theorem pageKind_gate : ∀ b : BenchId, (pageKind (pgGate b)).isSome = true := by decide

theorem State.plainWrite_gate (s : State) (q off w : Nat) (v : W32) : (s.plainWrite q off w v).gate = s.gate := by
  rw [State.plainWrite, State.wrL, (State.through_touches _ q off w).rest]
  rfl

/-- A stored write of one word of a GATE page leaves the fields of the others. -/
theorem State.plainWrite_gfld (s : State) (p : Nat) {off : Nat} (v : W32) {f : Fld} (hf : f.off < 4096)
    (h : f.off / 4 ≠ off / 4) :
    (s.plainWrite (pgGate (portBench p)) off (portLocal p) v).gfld p f = s.gfld p f := by
  have small : portLocal p < 4096 := lt_trans (portLocal_lt p) (by norm_num)
  rw [State.gfld, State.fld, State.plainWrite, State.wrL, State.through_rd _ _ _ _ (pgGate_ne_lehr _) hf small,
    State.rd_wr_ne _ _ _ _ _ (rkey_ne_word h)]
  rfl

/-- The word that GCL_IDX names. -/
def State.gclIndexed (s : State) (p : Nat) : Nat :=
  s.gclWord p (s.gfld p Reg.GATE.GCL_IDX_BANK) (s.gfld p Reg.GATE.GCL_IDX_INDEX)

/-- The high half of a list word is latched. -/
def State.hiLatched (s : State) (p w : Nat) : State := s.onGate p fun g => { g with hiLatch := BitVec.ofNat 32 (w / 2 ^ 32) }

theorem State.hiLatched_hiLatch (s : State) (p w : Nat) : ((s.hiLatched p w).gateAt p).hiLatch = BitVec.ofNat 32 (w / 2 ^ 32) := by
  rw [State.hiLatched, State.gateAt_onGate]

theorem State.gclAdvance_index (s : State) (p : Nat) :
    (s.gclAdvance p).gfld p Reg.GATE.GCL_IDX_INDEX = (s.gfld p Reg.GATE.GCL_IDX_INDEX + 1) % 1024 := by
  rw [State.gclAdvance, State.gfld_setGfld_same _ _ _ (by decide)]
  exact Nat.mod_mod _ _

theorem State.gclAdvance_gate (s : State) (p : Nat) : (s.gclAdvance p).gate = s.gate := rfl

section
variable {s : State} {p : Nat} (v : W32)

theorem State.gclHiWrite_refused (h : s.gatePending p = true) :
    s.gclHiWrite p v = (s.gateCount p Reg.GATE.GCL_WR_REJECT).gateRaise p 2 := if_pos h

variable (h : s.gatePending p = false)
include h

theorem State.gclHiWrite_banks : ((s.gclHiWrite p v).gateAt p).banks = Tab.set (fun _ => 0) (s.gateAt p).banks
    ((1 - s.operBank p) * 1024 + s.gfld p Reg.GATE.GCL_IDX_INDEX)
    ((v.toNat &&& 0xC00000FF) * 2 ^ 32 + s.gfld p Reg.GATE.GCL_LO) := by
  rw [State.gclHiWrite, if_neg (by rw [h]; decide), State.gateAt_congr (State.gclAdvance_gate ..), State.gateAt_onGate,
    State.gateAt_congr (State.plainWrite_gate ..)]

theorem State.gclHiWrite_index :
    (s.gclHiWrite p v).gfld p Reg.GATE.GCL_IDX_INDEX = (s.gfld p Reg.GATE.GCL_IDX_INDEX + 1) % 1024 := by
  rw [State.gclHiWrite, if_neg (by rw [h]; decide), State.gclAdvance_index, State.gfld_onGate,
    State.plainWrite_gfld _ _ _ (by decide) (by decide)]

end

section
variable {s : State} {b : BenchId} (h : s.takes (pgGate b))
include h

theorem configChangeRequest_takes (v : W32) : configChangeRequest b v s =
    (((s.hubAnswered (pgGate b)).gctrlWrite (s.gatePort b) (v ||| 0x40000000)).sagPlanPort (s.gatePort b)).gateFollow
      (s.gatePort b) := by
  rw [configChangeRequest, State.wordWrite_takes h, State.hubAnswered_gatePort]

theorem gclHiWrite_takes (v : W32) : gclHiWrite b v s = (s.hubAnswered (pgGate b)).gclHiWrite (s.gatePort b) v := by
  rw [gclHiWrite, State.wordWrite_takes h, State.hubAnswered_gatePort]

/-- A read of GCL_LO answers the word's low half and latches its high half. -/
theorem gclLoRead_takes : gclLoRead b s = { (s.hubAnswered (pgGate b)).hiLatched (s.gatePort b) (s.gclIndexed (s.gatePort b)) with
    resp := [BitVec.ofNat 32 (s.gclIndexed (s.gatePort b))] } :=
  State.wordRead_gives (pageKind_gate b) h (by
    simp only [State.gclLoRead, State.hubAnswered_gatePort, State.hubAnswered_gclWord, State.hubAnswered_gfld]
    rfl)

/-- A read of GCL_HI answers the latch. -/
theorem gclHiRead_takes : gclHiRead b s =
    { (s.hubAnswered (pgGate b)).gclAdvance (s.gatePort b) with resp := [(s.gateAt (s.gatePort b)).hiLatch] } :=
  State.wordRead_gives (pageKind_gate b) h (by
    simp only [State.gclHiRead, State.hubAnswered_gatePort, State.hubAnswered_gateAt])

end

/-! ### The statement -/

/-- Settles O43: each command takes the branch that its hypotheses name; the window's fields and banks are read off what it
leaves. -/
theorem gateEvents : Obligations.GateEvents := by
  refine ⟨fun s p sent => ?_, fun s b v h => ?_, fun s p => ?_, fun base cycle t h => ?_, fun s p => ?_,
    fun s p base cycle ext len hpend => ?_⟩
  · exact ⟨fun t hmode hat => finish_congr (gateEntryBegin_begins sent hmode hat),
      fun hidle => finish_congr (gateEntryBegin_idle sent hidle),
      fun t hat htx hfree => finish_congr (holdAssert_holds sent hat htx hfree),
      fun hidle => finish_congr (holdAssert_idle sent hidle), fun u htx hfree => State.holdMac_holds sent htx hfree⟩
  · intro p s1
    refine ⟨finish_congr (configChangeRequest_takes h v), fun hpend => finish_congr ?_, fun hfree => ?_, ?_, ?_⟩
    · rw [gclHiWrite_takes h, State.gclHiWrite_refused v (by rwa [State.hubAnswered_gatePending])]
    · have free : s1.gatePending p = false := by rwa [State.hubAnswered_gatePending]
      have banks := State.gclHiWrite_banks v free
      have index := State.gclHiWrite_index v free
      simp only [s1, State.hubAnswered_operBank, State.hubAnswered_gfld, State.hubAnswered_gateAt] at banks index
      refine ⟨_, finish_congr (gclHiWrite_takes h v), ?_, fun k hk => ?_, ?_⟩
      · rw [settle_gateAt, banks, Tab.get_set_same]
      · rw [settle_gateAt, banks, Tab.get_set_ne _ _ _ hk]
      · rw [settle_gfld, index]
    · intro w
      refine ⟨_, finish_congr (gclLoRead_takes h), settle_resp _, ?_, touches_settle _ ?_⟩
      · rw [settle_gateAt]
        exact State.hiLatched_hiLatch s1 p w
      · rw [settle_gate, settle_resp]
        rfl
    · refine ⟨_, finish_congr (gclHiRead_takes h), settle_resp _, ?_, ?_⟩
      · rw [settle_gate]
        exact State.hubAnswered_gate ..
      · rw [settle_gfld]
        exact (State.gclAdvance_index ..).trans (by rw [State.hubAnswered_gfld])
  · intro len cycle ns base t
    refine ⟨State.changeRequest_rejected, fun hlen hlen' hcycle hcycle' hns hvalid => ?_⟩
    have waits : t = _ := State.changeRequest_waits hlen hlen' hcycle hcycle' hns hvalid
    rw [waits]
    exact ⟨State.changeWaits_pending .., State.changeWaits_pend .., State.changeWaits_cct _ _ _⟩
  · exact ⟨changeTime_reaches base t h, by rw [changeTime_eq]; omega, ⟨_, changeTime_eq base cycle t⟩,
      fun n hn => changeTime_first h hn⟩
  · exact ⟨fun hpend hvalid => finish_congr (configChangeComplete_due hpend hvalid),
      fun hidle => finish_congr (configChangeComplete_idle hidle)⟩
  · intro t
    have completed : t = _ := State.changeComplete_eq hpend
    have gates : t.gateAt p = { s.gateAt p with pend := none, first := true } := by
      rw [completed, State.bankSwapped_gateAt, State.operSet_gateAt, State.gateAt_onGate]
    rw [gates, completed]
    exact ⟨rfl, rfl, rfl, State.bankSwapped_operBank .., State.bankSwapped_pending .., State.bankSwapped_caused ..⟩

end Sys2Proof.Machine
end

section
/-! SUPPORT. Sequence recovery: the fields of an entry once a change has put them, and the numbers that it has recorded. -/

namespace Sys2Proof.Machine

/-! ### The fields of a recovery entry (R351) -/

section
variable (e a r hist last : Nat)

@[simp] theorem seqSet_takeAny : seqTakeAny (seqSet e a r hist last) = bit a 0 := by
  simp [seqTakeAny, seqSet, bit_setBits]

@[simp] theorem seqSet_match : bit (seqSet e a r hist last) 125 = bit e 125 := by
  simp [seqSet, bit_setBits]

@[simp] theorem seqSet_hist : seqHist (seqSet e a r hist last) = seqHist e := by
  simp [seqHist, seqSet, bits_setBits_apart]

@[simp] theorem seqSet_rcv : seqRcv (seqSet e a r hist last) = r % 65536 := by
  simp [seqRcv, seqSet, bits_setBits_apart, bits_setBits_same]

@[simp] theorem seqSet_history : bits (seqSet e a r hist last) 63 0 = hist % 2 ^ 64 := by
  simp [seqSet, bits_setBits_same]

theorem seqHist_bounds : 0 < seqHist e ∧ seqHist e ≤ 64 := by
  have h := bits_lt e 122 117
  unfold seqHist
  split <;> omega

theorem seqRcv_lt : seqRcv e < 65536 := bits_lt e 116 101

end

/-! ### Recorded numbers (R353) -/

/-- How far a number is ahead of the last one received. -/
def seqAhead (e n : Nat) : Nat := (n + 65536 - seqRcv e) % 65536

/-- An entry has recorded number `n`: it no longer takes any number, `n` stands `k` numbers behind the last one received, and bit
`k` of the history is set. A match entry records the last number alone. -/
def SeqRecorded (e n : Nat) : Prop :=
  seqTakeAny e = false ∧ ∃ k, (n + k) % 65536 = seqRcv e ∧ k < seqHist e ∧
    if bit e 125 then k = 0 else bit (bits e 63 0) k = true

/-- A number that stands `k` behind the last one received is ahead of it by what `k` leaves of a turn. -/
theorem seqAhead_behind {e n k : Nat} (hn : n < 65536) (hk : k ≤ 64) (h : (n + k) % 65536 = seqRcv e) :
    seqAhead e n = if k = 0 then 0 else 65536 - k := by
  unfold seqAhead
  split <;> omega

/-- A recorded number is discarded, nothing being counted of it and nothing changed. -/
theorem seqTagged_recorded {e n : Nat} (u : Nat) (hn : n < 65536) (h : SeqRecorded e n) : seqTagged e u n = {} := by
  obtain ⟨hany, k, hrcv, hk, hbit⟩ := h
  have hsize := (seqHist_bounds e).2
  have hahead := seqAhead_behind hn (by omega) hrcv
  unfold seqTagged
  rw [if_neg (by simp [hany]), ← seqAhead]
  cases hmatch : bit e 125 with
  | true =>
    obtain rfl : k = 0 := by simpa [hmatch] using hbit
    simp [hahead]
  | false =>
    simp only [hmatch, Bool.false_eq_true, if_false] at hbit ⊢
    by_cases hlast : k = 0
    · subst hlast
      simp [hahead, hbit, Nat.not_le.2 hk]
    · have hback : 65536 - (65536 - k) = k := by omega
      rw [hahead, if_neg hlast, hback, if_neg (by omega), if_neg (by omega), if_pos hbit]

/-- The changes of a copy that passes, one case for each way to pass. -/
theorem seqTagged_passes {e u n : Nat} (h : (seqTagged e u n).pass = true) :
    (seqTagged e u n).ops = [.first n u] ∨
    bit e 125 = true ∧ (seqTagged e u n).ops = [.matched n u] ∨
    bit e 125 = false ∧ seqAhead e n = 0 ∧ (seqTagged e u n).ops = [.behind 0 u] ∨
    bit e 125 = false ∧ 0 < seqAhead e n ∧ (seqTagged e u n).ops = [.ahead (seqAhead e n) n u] ∨
    bit e 125 = false ∧ 65536 - seqAhead e n < seqHist e ∧ (seqTagged e u n).ops = [.behind (65536 - seqAhead e n) u] := by
  unfold seqTagged at h ⊢
  rw [← seqAhead] at h ⊢
  dsimp only at h ⊢
  split_ifs at h ⊢ with hany hmatch hsame hnear hrogue hlast hseen hrogue hseen
  · exact .inl rfl
  · exact .inr (.inl ⟨hmatch, rfl⟩)
  · exact .inr (.inr (.inl ⟨by simpa using hmatch, hlast, rfl⟩))
  · exact .inr (.inr (.inr (.inl ⟨by simpa using hmatch, Nat.pos_of_ne_zero hlast, rfl⟩)))
  · exact .inr (.inr (.inr (.inr ⟨by simpa using hmatch, Nat.lt_of_not_le hrogue, rfl⟩)))

/-- Fields put so that `n` stands `k` numbers behind the last, its bit of the history set, record `n`. -/
theorem SeqRecorded.of_seqSet {e r hist last n k : Nat} (hrcv : (n + k) % 65536 = r % 65536) (hk : k < seqHist e)
    (hbit : if bit e 125 then k = 0 else bit hist k = true) : SeqRecorded (seqSet e 0 r hist last) n := by
  have hsize := (seqHist_bounds e).2
  have hlow : bit (hist % 2 ^ 64) k = bit hist k := by
    rw [bit, Nat.testBit_mod_two_pow, decide_eq_true (by omega), Bool.true_and, bit]
  refine ⟨seqSet_takeAny .., k, ?_, ?_, ?_⟩
  · rw [seqSet_rcv, hrcv]
  · rwa [seqSet_hist]
  · rwa [seqSet_match, seqSet_history, hlow]

/-- A history moved on by a later number has its lowest bit set. -/
theorem bit_ahead (hist : Nat) {d size : Nat} (hd : 0 < d) (hsize : 0 < size) : bit ((hist * 2 ^ d + 1) % 2 ^ size) 0 = true := by
  have even : 2 ∣ hist * 2 ^ d := (dvd_pow_self 2 hd.ne').mul_left hist
  rw [bit, Nat.testBit_mod_two_pow, decide_eq_true hsize, Bool.true_and, Nat.testBit_zero, decide_eq_true_eq]
  omega

/-- A copy that passes leaves its number recorded. -/
theorem seqTagged_records {e u n : Nat} (hn : n < 65536) (h : (seqTagged e u n).pass = true) :
    SeqRecorded ((seqTagged e u n).ops.foldl SeqOp.apply e) n := by
  have hsize := (seqHist_bounds e).1
  have hrcv := seqRcv_lt e
  have marked : ∀ k, bit (bits e 63 0 ||| 2 ^ k) k = true := fun k => by simp [bit, Nat.testBit_or, Nat.testBit_two_pow_self]
  rcases seqTagged_passes h with ops | ⟨hmatch, ops⟩ | ⟨hvector, hd, ops⟩ | ⟨hvector, hd, ops⟩ | ⟨hvector, hd, ops⟩ <;>
    rw [ops, List.foldl_cons, List.foldl_nil, SeqOp.apply]
  · exact .of_seqSet (k := 0) rfl hsize (by simp [bit])
  · exact .of_seqSet (k := 0) rfl hsize (by rw [if_pos hmatch])
  · exact .of_seqSet (k := 0) (by unfold seqAhead at hd; omega) hsize (by rw [hvector]; exact marked 0)
  · exact .of_seqSet (k := 0) rfl hsize (by rw [hvector]; exact bit_ahead _ hd hsize)
  · exact .of_seqSet (k := 65536 - seqAhead e n) (by unfold seqAhead; omega) hd (by rw [hvector]; exact marked _)

/-! ### The whole decision (R353, R354) -/

/-- What is found of a copy whose entry is reset first. -/
def SeqOut.afterReset (o : SeqOut) : SeqOut := { o with reset := true, ops := .reset :: o.ops }

theorem SeqOut.on_pass (o : SeqOut) (e : Nat) : (o.on e).pass = o.pass := rfl
theorem SeqOut.on_rogue (o : SeqOut) (e : Nat) : (o.on e).rogue = o.rogue := rfl
theorem SeqOut.on_entry (o : SeqOut) (e : Nat) : (o.on e).entry = o.ops.foldl SeqOp.apply e := rfl
theorem SeqOut.afterReset_pass (o : SeqOut) : o.afterReset.pass = o.pass := rfl
theorem SeqOut.afterReset_ops (o : SeqOut) : o.afterReset.ops = .reset :: o.ops := rfl

theorem seqDecide_live {e u : Nat} (n : Nat) (h : seqExpired e u = false) : seqDecide e u n true = (seqTagged e u n).on e := by
  simp [seqDecide, h]

theorem seqDecide_expired {e u : Nat} (n : Nat) (h : seqExpired e u = true) :
    seqDecide e u n true = (seqTagged (seqResetEntry e) u n).afterReset.on e := by
  simp [seqDecide, h, SeqOut.afterReset]

/-- A tagged copy that passes leaves its number recorded, in an entry that is reset first where it has expired. -/
theorem seqDecide_records {e u n : Nat} (hn : n < 65536) (h : (seqDecide e u n true).pass = true) :
    SeqRecorded (seqDecide e u n true).entry n := by
  cases hexp : seqExpired e u with
  | false =>
    rw [seqDecide_live n hexp, SeqOut.on_pass] at h
    rw [seqDecide_live n hexp, SeqOut.on_entry]
    exact seqTagged_records hn h
  | true =>
    rw [seqDecide_expired n hexp, SeqOut.on_pass, SeqOut.afterReset_pass] at h
    rw [seqDecide_expired n hexp, SeqOut.on_entry, SeqOut.afterReset_ops, List.foldl_cons, SeqOp.apply]
    exact seqTagged_records hn h

/-- Settles O58: the copy that passes leaves its number recorded, and a recorded number is discarded. -/
theorem noNumberPassesTwice : Obligations.NoNumberPassesTwice := by
  intro e u v n hn _ hpass hlive
  rw [seqDecide_live n hlive, seqTagged_recorded v hn (seqDecide_records hn hpass)]
  exact ⟨SeqOut.on_pass .., SeqOut.on_rogue .., SeqOut.on_entry ..⟩

end Sys2Proof.Machine
end

section
/-! SUPPORT. The sequence scanner, the latent-error tests of a team's watch slots, and the writes of a slot's configuration. -/

namespace Sys2Proof.Machine

@[simp] theorem settle_team (s : State) : (settle s).team = s.team := by rw [settle_frame]
@[simp] theorem settle_teamAt (s : State) (n : Nat) : (settle s).teamAt n = s.teamAt n := by
  rw [State.teamAt, settle_team, State.teamAt]

theorem strmTeam_apart : ∀ tm : Team,
    strmTeam (teamNo tm) ≠ pgHost ∧ strmTeam (teamNo tm) ≠ pgDev ∧ strmTeam (teamNo tm) ≠ pgLehr
  | .a | .b => by decide

/-! ### The scanner (R354) -/

section
variable {s : State} {tm : Team}

theorem seqScanVisit_idle (h : s.flag (strmTeam (teamNo tm)) Reg.STRM.SQSCAN_EN = false ∨
    s.domOn (domIngress (4 * teamNo tm)) = false ∨ (s.teamAt (teamNo tm)).failed = true) : seqScanVisit tm s = s :=
  if_neg (by rcases h with h | h | h <;> simp [h])

theorem seqScanVisit_visits (hen : s.flag (strmTeam (teamNo tm)) Reg.STRM.SQSCAN_EN = true)
    (hdom : s.domOn (domIngress (4 * teamNo tm)) = true) (hteam : (s.teamAt (teamNo tm)).failed = false) :
    let n := teamNo tm
    let i := s.fld (strmTeam n) Reg.STRM.SQSCAN_POS
    let e := s.seqWork n i
    let u := s.setFld (strmTeam n) Reg.STRM.SQSCAN_POS ((i + 1) % 524288)
    seqScanVisit tm s =
      if seqValid e && seqRecovery e && seqExpired e (unitCount s.gridTick) then
        ((u.teamChange n s.gridTick (.seq i .reset)).bump (strmTeam n) Reg.STRM.SEQ_RESETS).watchReset n i
      else u :=
  if_pos (by simp [hen, hdom, hteam])

end

/-! ### Baselines (R358) -/

/-- Slot `k` of a team has a new baseline. -/
def State.watchTaken (s : State) (n k : Nat) (base : Nat × Nat × Bool) : State :=
  s.onTeam n fun m => { m with watch := Tab.set (fun _ => (0, 0, false)) m.watch k base }

theorem State.watchTaken_watch (s : State) (n k : Nat) (base : Nat × Nat × Bool) :
    Tab.get (fun _ => (0, 0, false)) ((s.watchTaken n k base).teamAt n).watch k = base := by
  rw [State.watchTaken, State.onTeam_eq, State.teamAt_same]
  exact Tab.get_set_same ..

/-- A stored write leaves the counters of the pages that the write-through does not count in. -/
theorem State.plainWrite_ctr (s : State) (p off w : Nat) (v : W32) {q o x : Nat} (hq : q ≠ pgHost ∧ q ≠ pgDev ∧ q ≠ pgLehr)
    (ho : o < 4096) (hx : x < 4096) : (s.plainWrite p off w v).ctr q o x = s.ctr q o x := by
  obtain ⟨hhost, hdev, hlehr⟩ := hq
  exact (State.through_touches _ p off w).ctrs q o x ho hx (not_or.2 ⟨hdev, hlehr⟩) hhost

/-- A write of a slot's configuration takes the counters as its baseline, the next test being skipped. -/
theorem State.watchCfgWrite_watch (s : State) (tm : Team) (k : Fin 32) (off : Nat) (v : W32) :
    Tab.get (fun _ => (0, 0, false)) ((s.watchCfgWrite (teamNo tm) k off v).teamAt (teamNo tm)).watch k =
      ((s.ctr (strmTeam (teamNo tm)) (Reg.STRM.PASSED k)).toNat, (s.ctr (strmTeam (teamNo tm)) (Reg.STRM.DISCARDED k)).toNat,
        true) := by
  have kept (o : Nat) (ho : o < 4096) :=
    s.plainWrite_ctr (strmTeam (teamNo tm)) off 0 v (strmTeam_apart tm) ho (x := 0) (by norm_num)
  refine (State.watchTaken_watch ..).trans ?_
  rw [kept _ (by unfold Reg.STRM.PASSED; omega), kept _ (by unfold Reg.STRM.DISCARDED; omega)]

/-! ### The test (R358) -/

/-- A test finds latent errors: LATENT counts, and cause 18 is raised. -/
def State.latentFound (s : State) (p k : Nat) : State :=
  (s.setFld p (Reg.STRM.LATENT k) (s.fld p (Reg.STRM.LATENT k) + 1)).raise p 18

theorem latent_off (k : Fin 32) : 0x20 ≤ (Reg.STRM.LATENT k).off ∧ (Reg.STRM.LATENT k).off < 4096 := by
  unfold Reg.STRM.LATENT
  dsimp only
  omega

theorem State.latentFound_team (s : State) (p k : Nat) : (s.latentFound p k).team = s.team := by
  rw [State.latentFound, State.raise_team, State.setFld_team]

theorem State.latentFound_caused (s : State) (p k : Nat) : (s.latentFound p k).caused p 18 := by
  rw [State.latentFound]
  exact State.caused_raise _ (by norm_num)

theorem State.latentFound_latent (s : State) (p : Nat) (k : Fin 32) :
    (s.latentFound p k).fld p (Reg.STRM.LATENT k) = (s.fld p (Reg.STRM.LATENT k) + 1) % 2 ^ 32 := by
  have off := (latent_off k).1
  rw [State.latentFound, State.fld_raise_other _ _ _ (rkey_ne_word (by omega))]
  exact State.fld_setFld_low s p _ 31 _ (by norm_num)

theorem State.latentFound_touches (s : State) (p : Nat) (k : Fin 32) : Touches s (s.latentFound p k) (· = p) :=
  ((Touches.refl s (· = p)).setFld p (Reg.STRM.LATENT k) _ 0 rfl (latent_off k).2 (by norm_num)).raise p 18 rfl

/-- Slot `k` of a team tests as this grid tick ends: it is enabled, and its period ends (R358). -/
def State.watchDue (s : State) (tm : Team) (k : Fin 32) : Prop :=
  s.flag (strmTeam (teamNo tm)) (Reg.STRM.WCFG_EN k) = true ∧ s.fld (strmTeam (teamNo tm)) (Reg.STRM.LEDCFG_PERIOD k) ≠ 0 ∧
    s.gridTick % (s.fld (strmTeam (teamNo tm)) (Reg.STRM.LEDCFG_PERIOD k) * 1024) = 0

/-- The growth of PASSED exceeds that of DISCARDED by more than DIFF (R358). -/
def State.watchLatent (s : State) (tm : Team) (k : Fin 32) (bp bd : Nat) : Prop :=
  let p := strmTeam (teamNo tm)
  grown (s.ctr p (Reg.STRM.DISCARDED k)).toNat bd + s.fld p (Reg.STRM.LEDCFG_DIFF k) <
    grown (s.ctr p (Reg.STRM.PASSED k)).toNat bp

/-- The state once slot `k` has taken its counters as the baseline of its next test. -/
def State.watchTested (s : State) (tm : Team) (k : Fin 32) : State :=
  let p := strmTeam (teamNo tm)
  s.watchTaken (teamNo tm) k ((s.ctr p (Reg.STRM.PASSED k)).toNat, (s.ctr p (Reg.STRM.DISCARDED k)).toNat, false)

theorem State.watchTested_frame (s : State) (tm : Team) (k : Fin 32) :
    { s with team := (s.watchTested tm k).team } = s.watchTested tm k := rfl

theorem State.watchTested_rd (s : State) (tm : Team) (k : Fin 32) (p off w : Nat) :
    (s.watchTested tm k).rd p off w = s.rd p off w := rfl

theorem State.watchTested_fld (s : State) (tm : Team) (k : Fin 32) (p : Nat) (f : Fld) :
    (s.watchTested tm k).fld p f = s.fld p f := State.fld_congr rfl p f 0

theorem State.watchTested_watch (s : State) (tm : Team) (k : Fin 32) :
    Tab.get (fun _ => (0, 0, false)) ((s.watchTested tm k).teamAt (teamNo tm)).watch k =
      ((s.ctr (strmTeam (teamNo tm)) (Reg.STRM.PASSED k)).toNat, (s.ctr (strmTeam (teamNo tm)) (Reg.STRM.DISCARDED k)).toNat,
        false) := State.watchTaken_watch ..

section
variable {s : State} {tm : Team} {k : Fin 32} {bp bd : Nat} {skip : Bool}

theorem watchTest_idle (h : ¬ s.watchDue tm k) : watchTest tm k s = s := if_neg h

theorem watchTest_latent (h : s.watchDue tm k)
    (hbase : Tab.get (fun _ => (0, 0, false)) (s.teamAt (teamNo tm)).watch k = (bp, bd, skip))
    (hlatent : skip = false ∧ s.watchLatent tm k bp bd) :
    watchTest tm k s = (s.watchTested tm k).latentFound (strmTeam (teamNo tm)) k := by
  obtain ⟨rfl, hgrowth⟩ := hlatent
  refine (if_pos h).trans ?_
  rw [hbase]
  exact if_pos ⟨rfl, hgrowth⟩

theorem watchTest_passes (h : s.watchDue tm k)
    (hbase : Tab.get (fun _ => (0, 0, false)) (s.teamAt (teamNo tm)).watch k = (bp, bd, skip))
    (hlatent : ¬ (skip = false ∧ s.watchLatent tm k bp bd)) : watchTest tm k s = s.watchTested tm k := by
  refine (if_pos h).trans ?_
  rw [hbase]
  exact if_neg fun found => hlatent ⟨by simpa using found.1, found.2⟩

end

/-- Settles O45: the scanner and the tests take the branch that their hypotheses name, and each baseline reads as taken. -/
theorem scansAndWatches : Obligations.ScansAndWatches := by
  refine ⟨fun s tm => ?_, fun s tm k bp bd skip => ?_, fun s tm k led v h => ?_⟩
  · exact ⟨fun h => finish_congr (seqScanVisit_idle h), fun hen hdom hteam => finish_congr (seqScanVisit_visits hen hdom hteam)⟩
  · intro p due
    refine ⟨fun h => finish_congr (watchTest_idle h), fun h hbase => ?_⟩
    intro passed gone latent
    by_cases hlatent : latent
    · refine ⟨_, finish_congr (watchTest_latent h hbase hlatent), ?_, fun _ => ⟨?_, ?_⟩, fun hnot => absurd hlatent hnot, ?_⟩
      · rw [settle_teamAt, State.teamAt, State.latentFound_team]
        exact State.watchTested_watch ..
      · exact (settle_caused ..).2 (State.latentFound_caused ..)
      · rw [settle_fld, State.latentFound_latent, State.watchTested_fld]
      · rw [settle_team, State.latentFound_team, State.watchTested_frame]
        exact (State.latentFound_touches ..).settle
    · refine ⟨_, finish_congr (watchTest_passes h hbase hlatent), ?_, fun hyes => absurd hyes hlatent, fun _ => ⟨?_, ?_⟩, ?_⟩
      · rw [settle_teamAt, State.watchTested_watch]
      · rw [settle_fld, State.watchTested_fld]
      · rw [settle_caused, State.caused, State.watchTested_rd, State.caused]
      · rw [settle_team, State.watchTested_frame]
        exact (Touches.refl ..).settle
  · refine ⟨_, finish_congr (State.wordWrite_takes h _ _ _ _), rfl, ?_⟩
    rw [settle_teamAt, State.watchCfgWrite_watch, State.hubAnswered_ctr, State.hubAnswered_ctr]

end Sys2Proof.Machine
end

section
/-! SUPPORT. O3: the interrupt tree stays settled. A command ends by settling; a clock changes nothing the tree reads. -/

namespace Sys2Proof.Machine

/-- The vectors depend on nothing that a clock of the time unit changes. -/
theorem State.timeClock_vectors (s : State) : s.timeClock.vectors = s.vectors := by
  unfold State.timeClock
  split
  · exact State.vectors_congr rfl rfl rfl rfl rfl
  · rfl

theorem State.timeClock_irq (s : State) : s.timeClock.irq = s.irq := by
  unfold State.timeClock
  split <;> rfl

theorem settle_settled (s : State) : (settle s).settled := ⟨settle_active_self s, settle_pba s⟩

theorem State.settled.timeClock {s : State} (h : s.settled) : s.timeClock.settled := by
  unfold State.settled
  rw [s.timeClock_irq, s.timeClock_vectors]
  exact h

/-- Settles O3: a step is a command, which ends by settling, or a clock, which changes nothing that the tree reads. -/
theorem interruptTreeStaysSettled : Obligations.InterruptTreeStaysSettled := by
  intro s t h hstep
  obtain hidle | ⟨c, rest, hp⟩ : s.pending = [] ∨ ∃ c rest, s.pending = c :: rest := by
    cases s.pending with
    | nil => exact .inl rfl
    | cons c rest => exact .inr ⟨c, rest, rfl⟩
  · rw [step_idle hidle] at hstep
    cases hstep
    exact h.timeClock
  · obtain ⟨u, hu⟩ := exec_settles c { s with pending := rest }
    rw [step, hp] at hstep
    cases hu.symm.trans hstep
    exact settle_settled u

end Sys2Proof.Machine
end

section
/-! SUPPORT. O52: CTR and CFB invert, for data of any length. A block enciphers to 16 bytes whatever it is; so each piece of
the data is added to as many bytes again, and the pieces of the result lie where those of the data lay. -/

namespace Sys2Proof

theorem xorBytes_length {a b : List Byte} (h : a.length ≤ b.length) : (xorBytes a b).length = a.length := by
  induction a generalizing b with
  | nil => rfl
  | cons x a ih =>
    cases b with
    | nil => simp at h
    | cons y b => simpa [xorBytes] using ih (by simpa using h)

/-- Adding the same bytes twice gives the first string back. -/
theorem xorBytes_cancel {a b : List Byte} (h : a.length ≤ b.length) : xorBytes (xorBytes a b) b = a := by
  induction a generalizing b with
  | nil => rfl
  | cons x a ih =>
    cases b with
    | nil => simp at h
    | cons y b => simp [xorBytes, ih (show a.length ≤ b.length by simpa using h)]

end Sys2Proof

namespace Sys2Proof.Aes

/-! ### Pieces of a list -/

@[simp] theorem pieces_nil {α : Type} (n f : Nat) : pieces n f ([] : List α) = [] := by cases f <;> rfl

theorem pieces_succ {α : Type} (n f : Nat) {l : List α} (h : l ≠ []) :
    pieces n (f + 1) l = l.take n :: pieces n f (l.drop n) := by
  simp [pieces, h]

/-- A list of `m` times `n` elements falls into `m` pieces of `n`. -/
theorem pieces_whole {α : Type} {n : Nat} (hn : 0 < n) : ∀ {f m : Nat} {l : List α}, l.length = n * m → m ≤ f →
    (pieces n f l).length = m ∧ ∀ x ∈ pieces n f l, x.length = n := by
  intro f
  induction f with
  | zero =>
    intro m l hl hm
    obtain rfl : m = 0 := by omega
    simp [pieces]
  | succ f ih =>
    intro m l hl hm
    cases m with
    | zero =>
      obtain rfl : l = [] := List.eq_nil_of_length_eq_zero (by simpa using hl)
      simp
    | succ m =>
      rw [Nat.mul_succ] at hl
      have hne : l ≠ [] := by rintro rfl; simp at hl; omega
      obtain ⟨hlen, hall⟩ := ih (m := m) (l := l.drop n) (by simp [hl]) (by omega)
      rw [pieces_succ n f hne]
      refine ⟨by simp [hlen], fun x hx => ?_⟩
      obtain rfl | hx := List.mem_cons.1 hx
      · simp [hl]
      · exact hall x hx

/-! ### An enciphered block has 16 bytes -/

/-- The words of an expanded key have four bytes each, as the words that it starts from. -/
theorem expandGo_words {nk : Nat} (hnk : 0 < nk) : ∀ (n i rcon : Nat) (w : List (List Nat)), nk ≤ w.length →
    (∀ x ∈ w, x.length = 4) →
    (expandGo nk n i rcon w).length = w.length + n ∧ ∀ x ∈ expandGo nk n i rcon w, x.length = 4 := by
  intro n
  induction n with
  | zero => intro i rcon w _ hw; simpa [expandGo] using hw
  | succ n ih =>
    intro i rcon w hlen hw
    have old : ((w[nk - 1]?).getD []).length = 4 := by
      rw [List.getElem?_eq_getElem (by omega)]
      exact hw _ (List.getElem_mem _)
    have latest : (w.headD []).length = 4 := by
      cases w with
      | nil => simp at hlen; omega
      | cons x w => exact hw x List.mem_cons_self
    have next : ∀ (t : List Nat) (rc : Nat), t.length = 4 →
        (expandGo nk n (i + 1) rc (List.zipWith (· ^^^ ·) ((w[nk - 1]?).getD []) t :: w)).length = w.length + (n + 1) ∧
        ∀ x ∈ expandGo nk n (i + 1) rc (List.zipWith (· ^^^ ·) ((w[nk - 1]?).getD []) t :: w), x.length = 4 := by
      intro t rc ht
      obtain ⟨h1, h2⟩ := ih (i + 1) rc (List.zipWith (· ^^^ ·) ((w[nk - 1]?).getD []) t :: w)
        (by rw [List.length_cons]; omega) (by
          intro x hx
          obtain rfl | hx := List.mem_cons.1 hx
          · simp [old, ht]
          · exact hw x hx)
      exact ⟨by rw [h1, List.length_cons]; omega, h2⟩
    unfold expandGo
    split_ifs
    · exact next _ _ (by simp)
    · exact next _ _ ((List.length_map _).trans latest)
    · exact next _ _ latest

/-- The round keys of a key of 16 or 32 bytes: more than one, each of 16 bytes. -/
theorem expand_keys {key : List Byte} (h : key.length = 16 ∨ key.length = 32) :
    1 < (expand key).length ∧ ∀ k ∈ expand key, k.length = 16 := by
  obtain ⟨nk, hnk, hkey⟩ : ∃ nk, (nk = 4 ∨ nk = 8) ∧ key.length = 4 * nk := by
    obtain h | h := h
    · exact ⟨4, .inl rfl, h⟩
    · exact ⟨8, .inr rfl, h⟩
  have hdiv : key.length / 4 = nk := by omega
  obtain ⟨hcount, hwords⟩ := pieces_whole (n := 4) (by norm_num) (f := 8) (m := nk) (l := key.map BitVec.toNat)
    (by simpa using hkey) (by omega)
  obtain ⟨hn, hw⟩ := expandGo_words (nk := nk) (by omega) (4 * (nk + 7) - nk) nk 1
    (pieces 4 8 (key.map BitVec.toNat)).reverse (by simp [hcount]) (by simpa using hwords)
  have hflat : (expandGo nk (4 * (nk + 7) - nk) nk 1 (pieces 4 8 (key.map BitVec.toNat)).reverse).flatten.length =
      16 * (nk + 7) := by
    rw [List.length_flatten, List.map_congr_left hw, List.map_const', List.sum_replicate, hn, List.length_reverse, hcount]
    simp only [smul_eq_mul]
    omega
  obtain ⟨hlen, hall⟩ := pieces_whole (n := 16) (by norm_num) (f := 15) hflat (by omega)
  unfold expand
  rw [hdiv]
  exact ⟨by rw [hlen]; omega, hall⟩

/-- The last round alone gives the length: that of its key. -/
theorem encRounds_length : ∀ (ks : List (List Nat)) (s : List Nat), ks ≠ [] → (∀ k ∈ ks, k.length = 16) →
    (encRounds ks s).length = 16
  | [], _, hne, _ => absurd rfl hne
  | [k], s, _, hk => by simp [encRounds, addKey, shiftRows, hk k List.mem_cons_self]
  | _ :: k :: ks, s, _, hk => by
    rw [encRounds]
    · exact encRounds_length (k :: ks) _ (List.cons_ne_nil _ _) fun x hx => hk x (List.mem_cons_of_mem _ hx)
    · exact List.cons_ne_nil _ _

/-- Whatever is enciphered, 16 bytes come out. -/
theorem enc_length {key : List Byte} (h : key.length = 16 ∨ key.length = 32) (b : List Byte) :
    (enc (expand key) b).length = 16 := by
  obtain ⟨hmany, hkeys⟩ := expand_keys h
  generalize expand key = ks at hmany hkeys
  match ks, hmany, hkeys with
  | [], hmany, _ => simp at hmany
  | [_], hmany, _ => simp at hmany
  | _ :: k :: ks, _, hkeys =>
    rw [enc, toBytes, List.length_map]
    exact encRounds_length (k :: ks) _ (List.cons_ne_nil _ _) fun x hx => hkeys x (List.mem_cons_of_mem _ hx)

/-! ### The stream modes -/

/-- The first piece of a stream's result and its rest lie as those of the data. -/
theorem stream_pieces {d o e : List Byte} {f : Nat} (hd : d ≠ []) (he : e.length = 16) (ho : o.length = (d.drop 16).length) :
    (xorBytes (d.take 16) e ++ o).length = d.length ∧
    pieces 16 (f + 1) (xorBytes (d.take 16) e ++ o) = xorBytes (d.take 16) e :: pieces 16 f o := by
  have hhead : (xorBytes (d.take 16) e).length = min 16 d.length := by
    rw [xorBytes_length (by simp [he]), List.length_take]
  have hlen : (xorBytes (d.take 16) e ++ o).length = d.length := by
    rw [List.length_append, hhead, ho, List.length_drop]
    omega
  have hne : xorBytes (d.take 16) e ++ o ≠ [] := by
    rw [← List.length_pos_iff, hlen, List.length_pos_iff]
    exact hd
  refine ⟨hlen, ?_⟩
  rw [pieces_succ 16 f hne]
  by_cases hlong : 16 ≤ d.length
  · have h16 : (xorBytes (d.take 16) e).length = 16 := by omega
    rw [List.take_left' h16, List.drop_left' h16]
  · obtain rfl : o = [] := List.eq_nil_of_length_eq_zero (by rw [ho, List.length_drop]; omega)
    rw [List.append_nil, List.take_of_length_le (by omega), List.drop_eq_nil_of_le (by omega)]

theorem ctr_inverts {ks : List (List Nat)} (henc : ∀ b, (enc ks b).length = 16) (w : Nat) : ∀ (f : Nat) (c d : List Byte),
    d.length ≤ 16 * f → (ctr ks w c (pieces 16 f d)).length = d.length ∧
      ctr ks w c (pieces 16 f (ctr ks w c (pieces 16 f d))) = d := by
  intro f
  induction f with
  | zero =>
    intro c d hd
    obtain rfl : d = [] := List.eq_nil_of_length_eq_zero (by omega)
    exact ⟨rfl, rfl⟩
  | succ f ih =>
    intro c d hd
    by_cases hne : d = []
    · subst hne
      simp [ctr]
    · obtain ⟨hlen, hback⟩ := ih (incr w c) (d.drop 16) (by rw [List.length_drop]; omega)
      obtain ⟨hall, hcut⟩ := stream_pieces (f := f) hne (henc c) hlen
      rw [pieces_succ 16 f hne, ctr]
      refine ⟨hall, ?_⟩
      rw [hcut, ctr, hback, xorBytes_cancel (by simp [henc]), List.take_append_drop]

theorem cfb_inverts {ks : List (List Nat)} (henc : ∀ b, (enc ks b).length = 16) : ∀ (f : Nat) (iv d : List Byte),
    d.length ≤ 16 * f → (cfbEnc ks iv (pieces 16 f d)).flatten.length = d.length ∧
      (cfbDec ks iv (pieces 16 f (cfbEnc ks iv (pieces 16 f d)).flatten)).flatten = d := by
  intro f
  induction f with
  | zero =>
    intro iv d hd
    obtain rfl : d = [] := List.eq_nil_of_length_eq_zero (by omega)
    exact ⟨rfl, rfl⟩
  | succ f ih =>
    intro iv d hd
    by_cases hne : d = []
    · subst hne
      simp [cfbEnc, cfbDec]
    · obtain ⟨hlen, hback⟩ := ih (xorBytes (d.take 16) (enc ks iv)) (d.drop 16) (by rw [List.length_drop]; omega)
      obtain ⟨hall, hcut⟩ := stream_pieces (f := f) hne (henc iv) hlen
      rw [pieces_succ 16 f hne, cfbEnc, List.flatten_cons]
      refine ⟨hall, ?_⟩
      rw [hcut, cfbDec, List.flatten_cons, hback, xorBytes_cancel (by simp [henc]), List.take_append_drop]

theorem le_blocks (l : List Byte) : l.length ≤ 16 * (l.length / 16 + 1) := by omega

end Sys2Proof.Aes

namespace Sys2Proof.Machine

/-- Settles O52: the pieces of what was encrypted are those of the data, each with the bytes added that are added again. -/
theorem streamModesInvert : Obligations.StreamModesInvert := by
  intro j k x hkey _ hops hdata
  have henc := Aes.enc_length hkey
  obtain ⟨hj, hk⟩ | ⟨hj, hk⟩ := hops
  · have hout (i : JobIn) (hi : i.op = 0) : (jobWork i x).out = Aes.ctr (Aes.expand x.key) 128 x.a (Aes.blocks i.data) := by
      rw [jobWork, hi]; rfl
    obtain ⟨hlen, hback⟩ := Aes.ctr_inverts henc 128 _ x.a j.data (Aes.le_blocks j.data)
    rw [hout k hk, hdata, hout j hj]
    refine ⟨?_, hlen⟩
    rw [Aes.blocks, Aes.blocks, hlen, hback]
  · have hout : (jobWork j x).out = (Aes.cfbEnc (Aes.expand x.key) x.a (Aes.blocks j.data)).flatten := by
      rw [jobWork, hj]; rfl
    have hin : (jobWork k x).out = (Aes.cfbDec (Aes.expand x.key) x.a (Aes.blocks k.data)).flatten := by
      rw [jobWork, hk]; rfl
    obtain ⟨hlen, hback⟩ := Aes.cfb_inverts henc _ x.a j.data (Aes.le_blocks j.data)
    rw [hin, hdata, hout]
    refine ⟨?_, hlen⟩
    rw [Aes.blocks, Aes.blocks, hlen, hback]

end Sys2Proof.Machine
end

section
/-! SUPPORT. Reading a page after its fields are written, its causes raised and its counters counted, with side conditions that
are numerals: the word's number, the field's place in it, the page. -/

namespace Sys2Proof.Machine

theorem State.flag_of_fld {s t : State} {p q : Nat} {f : Fld} (h : t.fld p f = s.fld q f) : t.flag p f = s.flag q f :=
  congrArg (· == 1) h

/-! ### The same page, another word -/

theorem State.rd_setFld_word (s : State) (p v : Nat) {f : Fld} {off : Nat} (h : off / 4 ≠ f.off / 4) :
    (s.setFld p f v).rd p off = s.rd p off := State.rd_setFld_ne _ _ _ _ _ (rkey_ne_word h)

theorem State.rd_raise_word (s : State) (p i : Nat) {off : Nat} (h : off / 4 ≠ 4) : (s.raise p i).rd p off = s.rd p off :=
  State.rd_raise_ne _ _ _ (rkey_ne_word h)

theorem State.fld_raise_word (s : State) (p i : Nat) {g : Fld} (h : g.off / 4 ≠ 4) : (s.raise p i).fld p g = s.fld p g :=
  State.fld_raise_other _ _ _ (rkey_ne_word h)

theorem State.flag_raise_word (s : State) (p i : Nat) {g : Fld} (h : g.off / 4 ≠ 4) : (s.raise p i).flag p g = s.flag p g := by
  rw [State.flag, State.fld_raise_word _ _ _ h, State.flag]

theorem State.flag_setFld_word (s : State) (p v : Nat) {f g : Fld} (h : g.off / 4 ≠ f.off / 4) :
    (s.setFld p f v).flag p g = s.flag p g := by
  rw [State.flag, State.fld_setFld_word _ _ _ h, State.flag]

/-! ### The same word -/

theorem State.flag_setFld_apart (s : State) (p v : Nat) {f g : Fld} (h : f.lo ≤ f.hi ∧ f.hi < 32) (ho : g.off = f.off)
    (a : g.hi < f.lo ∨ f.hi < g.lo) : (s.setFld p f v).flag p g = s.flag p g := by
  rw [State.flag, State.fld_setFld_apart _ _ _ _ _ _ h.1 h.2 ho a, State.flag]

/-- A one-bit field reads the bit written. -/
theorem State.flag_setFld_same (s : State) (p v : Nat) {f : Fld} (h : f.hi = f.lo ∧ f.hi < 32) :
    (s.setFld p f v).flag p f = decide (v % 2 = 1) := by
  rw [State.flag, State.fld_setFld_same _ _ _ _ _ h.1.ge h.2, h.1, Nat.add_sub_cancel_left, pow_one]
  rfl

theorem b2n_mod_two (b : Bool) : decide (b2n b % 2 = 1) = b := by cases b <;> rfl

/-- A value that fits its field is read as it was written. -/
theorem State.fld_setFld_fits (s : State) (p : Nat) {f : Fld} {v : Nat} (h : f.lo ≤ f.hi ∧ f.hi < 32)
    (hv : v < 2 ^ (f.hi + 1 - f.lo)) : (s.setFld p f v).fld p f = v :=
  (State.fld_setFld_same _ _ _ _ _ h.1 h.2).trans (Nat.mod_eq_of_lt hv)

theorem State.fld_lt (s : State) (p : Nat) (f : Fld) (w : Nat) : s.fld p f w < 2 ^ (f.hi + 1 - f.lo) := bits_lt _ _ _

/-! ### Another page -/

theorem State.rd_setFld_page (s : State) (v : Nat) {p q : Nat} {f : Fld} {off w : Nat} (h : q ≠ p) (hf : f.off < 4096)
    (ho : off < 4096) (hw : w < 4096) : (s.setFld p f v).rd q off w = s.rd q off w :=
  State.rd_setFld_ne _ _ _ _ _ (rkey_ne_page ho hf hw (by norm_num) h)

theorem State.fld_setFld_page (s : State) (v : Nat) {p q : Nat} {f g : Fld} (h : q ≠ p) (hf : f.off < 4096) (hg : g.off < 4096) :
    (s.setFld p f v).fld q g = s.fld q g :=
  State.fld_setFld_other _ _ _ _ _ (rkey_ne_page hg hf (by norm_num) (by norm_num) h)

theorem State.flag_setFld_page (s : State) (v : Nat) {p q : Nat} {f g : Fld} (h : q ≠ p) (hf : f.off < 4096) (hg : g.off < 4096) :
    (s.setFld p f v).flag q g = s.flag q g := by
  rw [State.flag, State.fld_setFld_page _ _ h hf hg, State.flag]

theorem State.fld_raise_page (s : State) (i : Nat) {p q : Nat} {g : Fld} (h : q ≠ p) (hg : g.off < 4096) :
    (s.raise p i).fld q g = s.fld q g :=
  State.fld_raise_other _ _ _ (rkey_ne_page hg (by norm_num) (by norm_num) (by norm_num) h)

theorem State.flag_raise_page (s : State) (i : Nat) {p q : Nat} {g : Fld} (h : q ≠ p) (hg : g.off < 4096) :
    (s.raise p i).flag q g = s.flag q g := by
  rw [State.flag, State.fld_raise_page _ _ h hg, State.flag]

theorem State.caused_setFld_page {s : State} {p q : Nat} {f : Fld} {v i : Nat} (hp : q ≠ p) (hf : f.off < 4096)
    (h : s.caused q i) : (s.setFld p f v).caused q i := by
  unfold State.caused at h ⊢
  rwa [State.rd_setFld_page _ _ hp hf (by norm_num) (by norm_num)]

theorem State.caused_raise_any {s : State} {p q i j : Nat} (hj : j < 32) (h : s.caused p j) : (s.raise q i).caused p j := by
  by_cases hq : p = q
  · subst hq
    exact State.caused_raise_kept hj h
  · unfold State.caused at h ⊢
    rwa [State.rd_raise_ne _ _ _ (rkey_ne_page (by norm_num) (by norm_num) (by norm_num) (by norm_num) hq)]

/-! ### Counters -/

theorem State.ctr_bump_same (s : State) (p o : Nat) : (s.bump p o).ctr p o = s.ctr p o + 1 := State.ctr_addCtr_same _ _ _ _ _

theorem State.ctr_bump_word (s : State) (p : Nat) {o o' : Nat} (h : o' / 4 ≠ o / 4) : (s.bump p o).ctr p o' = s.ctr p o' :=
  State.ctr_addCtr_ne _ _ _ _ _ (rkey_ne_word h)

theorem State.ctr_bump_page (s : State) {p q o o' : Nat} (h : q ≠ p) (ho : o < 4096) (ho' : o' < 4096) :
    (s.bump p o).ctr q o' = s.ctr q o' :=
  State.ctr_addCtr_ne _ _ _ _ _ (rkey_ne_page ho' ho (by norm_num) (by norm_num) h)

theorem State.flag_bump (s : State) (q o p : Nat) (f : Fld) (w : Nat) : (s.bump q o).flag p f w = s.flag p f w := rfl

theorem State.caused_bump {s : State} {p q o i : Nat} : (s.bump q o).caused p i ↔ s.caused p i := Iff.rfl

/-- What is done on a condition, read by a function that it does not change. -/
theorem State.ifDo_eq {α : Type} (g : State → α) {s : State} {f : State → State} (h : g (f s) = g s) (c : Bool) :
    g (s.ifDo c f) = g s := by
  cases c with
  | false => rfl
  | true => exact h

/-! ### What one page's commands leave -/

theorem Touches.bump {s t : State} {P : Nat → Prop} (h : Touches s t P) (p o : Nat) (hp : P p) (ho : o < 4096) :
    Touches s (t.bump p o) P := h.addCtr _ _ _ _ hp ho (by norm_num)

theorem Touches.put {s t : State} {P : Nat → Prop} (h : Touches s t P) {p : Nat} {f : Fld} (v : Nat) (hp : P p)
    (hf : f.off < 4096) : Touches s (t.setFld p f v) P := h.setFld _ _ _ _ hp hf (by norm_num)

theorem Touches.bumpIf {s t : State} {P : Nat → Prop} (h : Touches s t P) (c : Bool) (p o : Nat) (hp : P p) (ho : o < 4096) :
    Touches s (t.ifDo c (·.bump p o)) P := h.ifDo c (f := (·.bump p o)) ((Touches.refl t P).bump p o hp ho)

theorem Touches.raiseIf {s t : State} {P : Nat → Prop} (h : Touches s t P) (c : Bool) (p i : Nat) (hp : P p) :
    Touches s (t.ifDo c (·.raise p i)) P := h.ifDo c (f := (·.raise p i)) ((Touches.refl t P).raise p i hp)

end Sys2Proof.Machine
end

section
/-! SUPPORT. O49 and O51: lookaside jobs (R387 to R399). One equation for the thirteen commands; whose turn it is; the end of a
job; and the block that a CMAC job holds. -/

namespace Sys2Proof

/-- The conditions of R390 that no operation is beyond. -/
theorem JobIn.bad_of_rule {j : JobIn} (h : (j.last = false ∧ (j.len = 0 ∨ j.len % 16 ≠ 0)) ∨
    ((j.op = 1 ∨ j.op = 2) ∧ j.len % 16 ≠ 0) ∨ j.len < j.aadLen ∨ (j.first = false ∧ j.aadLen ≠ 0) ∨
    (5 ≤ j.op ∧ j.op ≤ 10 ∧ (j.tagLen < 4 ∨ 16 < j.tagLen)) ∨ j.addr 8 % 64 ≠ 0 ∨ bits (j.word 0) 19 11 ≠ 0 ∨ j.word 15 ≠ 0) :
    j.bad = true := by
  simp only [JobIn.bad, Bool.or_eq_true, Bool.and_eq_true, Bool.not_eq_true', decide_eq_true_eq, decide_eq_false_iff_not,
    beq_iff_eq, bne_iff_ne]
  obtain h | h | h | h | ⟨hlo, hhi, htag⟩ | h | h | h := h
  · simp [h]
  · simp [h]
  · simp [h]
  · simp [h]
  · simp [hlo, hhi, show ¬ (4 ≤ j.tagLen ∧ j.tagLen ≤ 16) by omega]
  · simp [h]
  · simp [h]
  · simp [h]

theorem JobIn.bad_of_op {j : JobIn} (h : 12 ≤ j.op) : j.bad = true := by simp [JobIn.bad, h]

/-- A job that is not the last of its chain and is not bad carries whole blocks, at least one. -/
theorem JobIn.len_of_good {j : JobIn} (hlast : j.last = false) (hgood : j.bad = false) : 0 < j.len ∧ j.len % 16 = 0 := by
  by_contra hne
  rw [JobIn.bad_of_rule (.inl ⟨hlast, by omega⟩)] at hgood
  exact Bool.noConfusion hgood

end Sys2Proof

namespace Sys2Proof.Aes

/-- The last piece of a list of `m + 1` times `n` elements is its last `n`. -/
theorem pieces_getLast {α : Type} {n : Nat} (hn : 0 < n) : ∀ {f m : Nat} {l : List α}, l.length = n * (m + 1) → m < f →
    (pieces n f l).getLast? = some (l.drop (n * m)) := by
  intro f
  induction f with
  | zero => intro m l _ hm; exact absurd hm (Nat.not_lt_zero m)
  | succ f ih =>
    intro m l hl hm
    rw [Nat.mul_succ] at hl
    have hne : l ≠ [] := by rintro rfl; simp at hl; omega
    rw [pieces_succ n f hne]
    cases m with
    | zero =>
      have hrest : l.drop n = [] := List.drop_eq_nil_of_le (by omega)
      have hall : l.take n = l := List.take_of_length_le (by omega)
      simp [hrest, hall]
    | succ m =>
      have := ih (m := m) (l := l.drop n) (by simp [hl]) (by omega)
      rw [List.getLast?_cons, this, List.drop_drop, Option.getD_some, Nat.mul_succ n m, Nat.add_comm n]

/-- Whole blocks: the last of them is the last 16 bytes. -/
theorem blocks_getLast {l : List Byte} (hpos : 0 < l.length) (hwhole : l.length % 16 = 0) :
    (blocks l).getLast?.getD [] = l.drop (l.length - 16) := by
  rw [blocks, pieces_getLast (m := l.length / 16 - 1) (by norm_num) (by omega) (by omega), Option.getD_some]
  congr 1
  omega

end Sys2Proof.Aes

namespace Sys2Proof.Machine

/-! ### The commands -/

/-- The job commands, each with the operations that it serves. -/
def jobCommands (c : ClusterId) (q : Fin 16) (j : JobIn) : List (Instr × List Nat) :=
  [(.jobCtr c q j, [0]), (.jobCbcEnc c q j, [1]), (.jobCbcDec c q j, [2]), (.jobCfbEnc c q j, [3]), (.jobCfbDec c q j, [4]),
    (.jobGcmEnc c q j, [5]), (.jobGcmDec c q j, [6]), (.jobGmacGen c q j, [7]), (.jobGmacVer c q j, [8]),
    (.jobCmacGen c q j, [9]), (.jobCmacVer c q j, [10]), (.jobNop c q j, [11]), (.jobBadOp c q j, [12, 13, 14, 15])]

theorem exec_job (s : State) {c : ClusterId} {q : Fin 16} {j : JobIn} {x : Instr × List Nat} (h : x ∈ jobCommands c q j) :
    exec x.1 s = finish (runJob x.2 c q j s) := by
  simp only [jobCommands, List.mem_cons, List.not_mem_nil, or_false] at h
  rcases h with rfl | rfl | rfl | rfl | rfl | rfl | rfl | rfl | rfl | rfl | rfl | rfl | rfl <;> rfl

theorem runJob_eq (ops : List Nat) (c : ClusterId) (q : Fin 16) (j : JobIn) (s : State) :
    runJob ops c q j s = if s.jobTurn c = some q.val ∧ j.op ∈ ops then
      ((s.jobStatus c j).2.jobWord c q (s.jobStatus c j).1).jobEnd c q (s.jobStatus c j).1 else s := by
  simp [runJob]

/-! ### The status of a job -/

theorem State.jobStatus_bad (s : State) (c : Nat) {j : JobIn} (h : j.bad = true) : s.jobStatus c j = (7, s) := by
  rw [State.jobStatus, if_pos h]

theorem State.jobStatus_nop (s : State) (c : Nat) {j : JobIn} (hop : j.op = 11) (h : j.bad = false) : s.jobStatus c j = (0, s) := by
  rw [State.jobStatus, if_neg (by simp [h]), if_pos hop]

/-- A good FIRST job: its one status, or its run. -/
theorem State.jobStatus_first (s : State) (c : Nat) {j : JobIn} (hop : j.op ≤ 10) (h : j.bad = false) (hfirst : j.first = true) :
    let k := s.keySlot c j.key
    s.jobStatus c j = if k.serves = false then (2, s)
      else if (j.op = 5 ∨ j.op = 7) ∧ 2 ^ 32 ≤ k.invoc + 1 then (3, s) else s.jobRun c j (jobBegin j j.key k) := by
  intro k
  rw [State.jobStatus, if_neg (by simp [h]), if_neg (by omega)]
  have hstart : s.jobStart c j = (if !k.serves then [2] else if (j.op == 5 || j.op == 7) && decide (2 ^ 32 ≤ k.invoc + 1)
      then [3] else [], jobBegin j j.key k) := by
    rw [State.jobStart, if_pos hfirst]
  rw [hstart]
  have hover : ((j.op == 5 || j.op == 7) && decide (2 ^ 32 ≤ k.invoc + 1)) =
      decide ((j.op = 5 ∨ j.op = 7) ∧ 2 ^ 32 ≤ k.invoc + 1) := by
    rw [Bool.decide_and, Bool.decide_or, beq_eq_decide, beq_eq_decide]
  rw [hover]
  cases hk : k.serves with
  | false => simp
  | true =>
    by_cases hfull : (j.op = 5 ∨ j.op = 7) ∧ 2 ^ 32 ≤ k.invoc + 1
    · rw [if_neg Bool.noConfusion, if_pos hfull, decide_eq_true hfull]
      rfl
    · rw [if_neg Bool.noConfusion, if_neg hfull, decide_eq_false hfull]
      rfl

/-! ### Whose turn it is -/

theorem State.jobTurn_some {s : State} {c q : Nat} (h : s.jobTurn c = some q) : q < 16 ∧ s.jobReady c q = true := by
  refine ⟨?_, List.find?_some h⟩
  obtain ⟨k, -, rfl⟩ := List.mem_map.1 (List.mem_of_find?_eq_some h)
  exact Nat.mod_lt _ (by norm_num)

/-- The round passes every queue. -/
theorem State.jobTurn_none {s : State} {c : Nat} (h : s.jobTurn c = none) {q : Nat} (hq : q < 16) : s.jobReady c q = false := by
  refine Bool.eq_false_iff.2 (List.find?_eq_none.1 h q (List.mem_map.2 ⟨(q + 15 + 15 * (s.ciphAt c).jobLast) % 16, ?_, ?_⟩))
  · exact List.mem_range.2 (Nat.mod_lt _ (by norm_num))
  · omega

/-! ### The end of a job -/

theorem pgCiph_ne_host (c : Nat) : pgCiph c ≠ pgHost := by
  unfold pgCiph pgHost
  omega

theorem jq_words (q : Fin 16) : (Reg.CIPH.JQ_CFG_EN q).off / 4 = 258 + 16 * q ∧ (Reg.CIPH.JQ_TAIL q).off / 4 = 259 + 16 * q ∧
    (Reg.CIPH.JQ_HEAD q).off / 4 = 260 + 16 * q ∧ (Reg.CIPH.JQ_STAT_STOPPED q).off / 4 = 261 + 16 * q ∧
    (Reg.CIPH.JQ_STAT_STOP_IDX q).off / 4 = 261 + 16 * q := by
  dsimp only [Reg.CIPH.JQ_CFG_EN, Reg.CIPH.JQ_TAIL, Reg.CIPH.JQ_HEAD, Reg.CIPH.JQ_STAT_STOPPED, Reg.CIPH.JQ_STAT_STOP_IDX]
  omega

theorem jq_offs (q : Fin 16) : (Reg.CIPH.JQ_CFG_EN q).off < 4096 ∧ (Reg.CIPH.JQ_TAIL q).off < 4096 ∧
    (Reg.CIPH.JQ_HEAD q).off < 4096 ∧ (Reg.CIPH.JQ_STAT_STOPPED q).off < 4096 ∧ (Reg.CIPH.JQ_STAT_STOP_IDX q).off < 4096 := by
  dsimp only [Reg.CIPH.JQ_CFG_EN, Reg.CIPH.JQ_TAIL, Reg.CIPH.JQ_HEAD, Reg.CIPH.JQ_STAT_STOPPED, Reg.CIPH.JQ_STAT_STOP_IDX]
  omega

/-- The cluster with the turn taken and the counters counted. -/
def State.jobCounted (s : State) (c q st : Nat) : State :=
  ((s.onCiph c fun x => { x with jobLast := q }).bump (pgCiph c) Reg.CIPH.JOBS_DONE).ifDo (decide (2 ≤ st))
    (·.bump (pgCiph c) Reg.CIPH.JOB_ERRS)

theorem State.jobEnd_eq (s : State) (c q st : Nat) : s.jobEnd c q st = ((s.jobCounted c q st).setFld (pgCiph c)
    (Reg.CIPH.JQ_HEAD q) (s.fld (pgCiph c) (Reg.CIPH.JQ_HEAD q) + 1)).raise (pgCiph c) (16 + q) := rfl

theorem State.jobCounted_rd (s : State) (c q st p off w : Nat) : (s.jobCounted c q st).rd p off w = s.rd p off w :=
  State.ifDo_eq (·.rd p off w) rfl _

theorem State.jobCounted_ciph (s : State) (c q st : Nat) :
    (s.jobCounted c q st).ciph = (s.onCiph c fun x => { x with jobLast := q }).ciph := State.ifDo_eq State.ciph rfl _

theorem State.jobCounted_ctr (s : State) (c q st : Nat) :
    (s.jobCounted c q st).ctr (pgCiph c) Reg.CIPH.JOBS_DONE = s.ctr (pgCiph c) Reg.CIPH.JOBS_DONE + 1 ∧
    (s.jobCounted c q st).ctr (pgCiph c) Reg.CIPH.JOB_ERRS =
      s.ctr (pgCiph c) Reg.CIPH.JOB_ERRS + BitVec.ofNat 64 (b2n (decide (2 ≤ st))) := by
  unfold State.jobCounted
  cases decide (2 ≤ st) with
  | false =>
    refine ⟨State.ctr_bump_same _ _ _, (State.ctr_bump_word _ _ (by decide)).trans ?_⟩
    exact (BitVec.add_zero _).symm
  | true =>
    refine ⟨(State.ctr_bump_word _ _ (by decide)).trans (State.ctr_bump_same _ _ _), (State.ctr_bump_same _ _ _).trans ?_⟩
    rw [State.ctr_bump_word _ _ (by decide)]
    rfl

theorem State.jobCounted_touches (s : State) (c q st : Nat) :
    Touches { s with ciph := (s.jobCounted c q st).ciph } (s.jobCounted c q st) (· = pgCiph c) := by
  rw [State.jobCounted_ciph]
  exact ((Touches.refl (s.onCiph c fun x => { x with jobLast := q }) (· = pgCiph c)).bump _ Reg.CIPH.JOBS_DONE rfl
    (by decide)).bumpIf _ _ Reg.CIPH.JOB_ERRS rfl (by decide)

theorem State.jobEnd_touches (s : State) (c : Nat) (q : Fin 16) (st : Nat) :
    Touches { s with ciph := (s.jobEnd c q st).ciph } (s.jobEnd c q st) (· = pgCiph c) :=
  ((s.jobCounted_touches c q st).put _ rfl (jq_offs q).2.2.1).raise _ _ rfl

theorem State.jobEnd_head (s : State) (c : Nat) (q : Fin 16) (st : Nat) :
    (s.jobEnd c q st).fld (pgCiph c) (Reg.CIPH.JQ_HEAD q) = (s.fld (pgCiph c) (Reg.CIPH.JQ_HEAD q) + 1) % 2 ^ 16 := by
  obtain ⟨-, -, hhead, -, -⟩ := jq_words q
  rw [State.jobEnd_eq, State.fld_raise_word _ _ _ (by omega), State.fld_setFld_same _ _ _ _ _ (Nat.zero_le _)
    (show 15 < 32 by norm_num)]
  rfl

/-- Settles O49: the commands are one function of the operations they serve; the round finds a ready queue where there is
one; and a job's end is its counters, its head and its cause. -/
theorem cipherJobs : Obligations.CipherJobs := by
  refine ⟨fun s c q j => ?_, fun s c j => ⟨fun hop => ?_, fun hop hgood => ?_, fun hop hgood hfirst => ?_⟩,
    fun s c => ⟨fun q => State.jobTurn_some, fun h q => State.jobTurn_none h⟩, fun s c q st => ?_⟩
  · have run : ∀ x ∈ jobCommands c q j, exec x.1 s = .next (settle (if s.jobTurn c = some q.val ∧ j.op ∈ x.2 then
        ((s.jobStatus c j).2.jobWord c q (s.jobStatus c j).1).jobEnd c q (s.jobStatus c j).1 else s)) := by
      intro x hx
      rw [exec_job s hx, runJob_eq, finish]
    simpa only [jobCommands, List.forall_mem_cons, List.not_mem_nil, false_implies, implies_true, and_true] using run
  · exact s.jobStatus_bad c (JobIn.bad_of_op hop)
  · exact s.jobStatus_nop c hop hgood
  · have hstatus := s.jobStatus_first c hop hgood hfirst
    refine ⟨fun hk => ?_, fun hk hgcm hfull => ?_, fun hk hroom => ?_⟩
    · rw [hstatus, if_pos hk]
    · rw [hstatus, if_neg (by simp [hk]), if_pos ⟨hgcm, hfull⟩]
    · rw [hstatus, if_neg (by simp [hk]), if_neg (by omega)]
  · obtain ⟨hdone, herrs⟩ := s.jobCounted_ctr c q st
    refine ⟨s.jobEnd_head c q st, hdone, herrs, State.caused_raise _ (by omega), ?_, s.jobEnd_touches c q st⟩
    show (Tab.get _ (s.jobCounted c q st).ciph _).jobLast = _
    rw [State.jobCounted_ciph]
    exact congrArg CiphSt.jobLast (Tab.get_set_same _ _ _ _)

/-- Settles O51: a bad descriptor's status is 7 before anything is done; a CMAC job's blocks are whole, the last of them its
last 16 bytes. -/
theorem badDescriptorsEndJobs : Obligations.BadDescriptorsEndJobs := by
  refine ⟨fun s c q j x hturn hx hop hrule => ?_, fun j x hop hlast hgood hblock => ?_⟩
  · rw [exec_job s (show x ∈ jobCommands c q j from hx), runJob_eq, if_pos ⟨hturn, hop⟩,
      s.jobStatus_bad c (JobIn.bad_of_rule hrule), finish]
  · obtain ⟨hpos, hwhole⟩ := JobIn.len_of_good hlast hgood
    have hlen : j.data.length = j.len := by simp [JobIn.data, slice]
    have hheld : (jobWork j x).ctx.b = (Aes.blocks ((if j.first then [] else x.b) ++ j.data)).getLast?.getD [] := by
      unfold jobWork
      obtain hop | hop := hop <;> rw [hop] <;> rfl
    have hpre : (if j.first then [] else x.b).length = 0 ∨ (if j.first then [] else x.b).length = 16 := by
      obtain h | h := hblock
      · simp [h]
      · cases j.first <;> simp [h]
    rw [hheld, Aes.blocks_getLast (by rw [List.length_append]; omega) (by rw [List.length_append]; omega), List.length_append,
      List.drop_append, List.drop_eq_nil_of_le (by omega), List.nil_append]
    congr 1
    omega

end Sys2Proof.Machine
end

section
/-! SUPPORT. A host write of a register that the lehr does not hold, read back; and O50: job queues, failed accesses and the
known-answer test (R387, R395, R398, R399). -/

namespace Sys2Proof.Machine

/-! ### Host writes of plain registers (R12) -/

theorem State.plainWrite_unlogged (s : State) {p off : Nat} (v : W32) (h : lehrBits p off = 0) : s.plainWrite p off 0 v =
    s.wr p off (BitVec.ofNat 32 (accessWrite (s.rd p off).toNat v.toNat (rwBits p off) (w1cBits p off))) := by
  rw [State.plainWrite, State.wrL, State.through, if_pos (.inl h)]

/-- A writable field that the lehr does not hold takes its bits of the written word. -/
theorem State.fld_plainWrite (s : State) {p : Nat} {f : Fld} (v : W32) (h32 : f.hi < 32) (hlehr : lehrBits p f.off = 0)
    (hclears : w1cBits p f.off = 0) (hrw : ∀ i, f.lo ≤ i → i ≤ f.hi → bit (rwBits p f.off) i = true) :
    (s.plainWrite p f.off 0 v).fld p f = bits v.toNat f.hi f.lo := by
  rw [State.plainWrite_unlogged _ _ hlehr, hclears, State.fld, State.rd_wr_same]
  refine Nat.eq_of_testBit_eq fun i => ?_
  refine (bit_bits _ _ _ _).trans (Eq.trans ?_ (bit_bits _ _ _ _).symm)
  by_cases hi : i < f.hi + 1 - f.lo
  · rw [bit_ofNat _ (by omega), bit_accessWrite _ _ _ (by omega), hrw _ (by omega) (by omega), if_pos rfl]
  · rw [decide_eq_false hi, Bool.false_and, Bool.false_and]

theorem State.fld_plainWrite_word (s : State) {p off : Nat} (v : W32) {f : Fld} (hlehr : lehrBits p off = 0)
    (h : f.off / 4 ≠ off / 4) : (s.plainWrite p off 0 v).fld p f = s.fld p f := by
  rw [State.plainWrite_unlogged _ _ hlehr, State.fld_wr_other _ _ _ _ _ (rkey_ne_word h)]

theorem State.plainWrite_own (s : State) {p off : Nat} (v : W32) (hlehr : lehrBits p off = 0) (ho : off < 4096) :
    Touches s (s.plainWrite p off 0 v) (· = p) := by
  rw [State.plainWrite_unlogged _ _ hlehr]
  exact (Touches.refl _ _).wr _ _ _ _ rfl ho (by norm_num)

/-! ### The queues' registers (R399) -/

theorem jqTail_writable : ∀ (c : ClusterId) (q : Fin 16), lehrBits (pgCiph c) (Reg.CIPH.JQ_TAIL q).off = 0 ∧
    w1cBits (pgCiph c) (Reg.CIPH.JQ_TAIL q).off = 0 ∧ rwBits (pgCiph c) (Reg.CIPH.JQ_TAIL q).off = 2 ^ 16 - 1 := by decide

theorem jqCfg_writable : ∀ (c : ClusterId) (q : Fin 16), lehrBits (pgCiph c) (Reg.CIPH.JQ_CFG q).off = 0 ∧
    w1cBits (pgCiph c) (Reg.CIPH.JQ_CFG q).off = 0 ∧ rwBits (pgCiph c) (Reg.CIPH.JQ_CFG q).off = 0x8000000F := by decide

theorem State.jqTail_value (s : State) (c : ClusterId) (q : Fin 16) (v : W32) :
    (s.jqTail c q v).fld (pgCiph c) (Reg.CIPH.JQ_TAIL q) = v.toNat % 2 ^ 16 := by
  obtain ⟨hlehr, hclears, hrw⟩ := jqTail_writable c q
  refine (s.fld_plainWrite (f := Reg.CIPH.JQ_TAIL q) v (show 15 < 32 by norm_num) hlehr hclears fun i _ hi => ?_).trans rfl
  have hi : i < 16 := Nat.lt_succ_of_le hi
  rw [hrw, bit, Nat.testBit_two_pow_sub_one, decide_eq_true hi]

/-- The value that JQ_ENABLE writes: EN = 1, and the size. -/
def jqWord (size : Fin 16) : W32 := BitVec.ofNat 32 (2 ^ 31 + size)

theorem jqWord_fields : ∀ size : Fin 16, bit (jqWord size).toNat 31 = true ∧ bits (jqWord size).toNat 3 0 = size := by decide

theorem bits_of_bit {n i : Nat} (h : bit n i = true) : bits n i i = 1 := by
  simpa [bits, bit, Nat.testBit_eq_decide_div_mod_eq, Nat.shiftRight_eq_div_pow] using h

/-- A queue's configuration as it is written, before the queue restarts. -/
def State.jqStored (s : State) (c : ClusterId) (q : Fin 16) (v : W32) : State :=
  s.plainWrite (pgCiph c) (Reg.CIPH.JQ_CFG q).off 0 v

theorem State.jqStored_en (s : State) (c : ClusterId) (q : Fin 16) {v : W32} (hv : bit v.toNat 31 = true) :
    (s.jqStored c q v).flag (pgCiph c) (Reg.CIPH.JQ_CFG_EN q) = true := by
  obtain ⟨hlehr, hclears, hrw⟩ := jqCfg_writable c q
  refine beq_iff_eq.2 ((s.fld_plainWrite (f := Reg.CIPH.JQ_CFG_EN q) v (show 31 < 32 by norm_num) hlehr hclears
    fun i lo hi => ?_).trans (bits_of_bit hv))
  obtain rfl : i = 31 := le_antisymm hi lo
  exact (congrArg (bit · 31) hrw).trans (by decide)

theorem State.jqStored_size (s : State) (c : ClusterId) (q : Fin 16) (v : W32) :
    (s.jqStored c q v).fld (pgCiph c) (Reg.CIPH.JQ_CFG_SIZE_LOG2 q) = bits v.toNat 3 0 := by
  obtain ⟨hlehr, hclears, hrw⟩ := jqCfg_writable c q
  refine s.fld_plainWrite (f := Reg.CIPH.JQ_CFG_SIZE_LOG2 q) v (show 3 < 32 by norm_num) hlehr hclears fun i _ hi => ?_
  have hi : i < 4 := Nat.lt_succ_of_le hi
  refine (congrArg (bit · i) hrw).trans ?_
  interval_cases i <;> rfl

theorem State.jqStored_other (s : State) (c : ClusterId) (q : Fin 16) (v : W32) {g : Fld} (h : g.off / 4 ≠ 258 + 16 * q) :
    (s.jqStored c q v).fld (pgCiph c) g = s.fld (pgCiph c) g :=
  s.fld_plainWrite_word v (jqCfg_writable c q).1 (fun e => h (e.trans (jq_words q).1))

theorem State.jqStored_touches (s : State) (c : ClusterId) (q : Fin 16) (v : W32) :
    Touches s (s.jqStored c q v) (· = pgCiph c) := s.plainWrite_own v (jqCfg_writable c q).1 (jq_offs q).1

/-- A queue restarted: both pointers 0, and no longer stopped. -/
def State.jqRestarted (s : State) (c q : Nat) : State :=
  ((s.setFld (pgCiph c) (Reg.CIPH.JQ_HEAD q) 0).setFld (pgCiph c) (Reg.CIPH.JQ_TAIL q) 0).setFld (pgCiph c)
    (Reg.CIPH.JQ_STAT_STOPPED q) 0

theorem State.jqRestarted_reads (s : State) (c : Nat) (q : Fin 16) : let t := s.jqRestarted c q
    t.fld (pgCiph c) (Reg.CIPH.JQ_HEAD q) = 0 ∧ t.fld (pgCiph c) (Reg.CIPH.JQ_TAIL q) = 0 ∧
      t.flag (pgCiph c) (Reg.CIPH.JQ_STAT_STOPPED q) = false := by
  obtain ⟨-, wtail, whead, wstat, -⟩ := jq_words q
  refine ⟨?_, ?_, State.flag_setFld_same _ _ _ ⟨rfl, show 31 < 32 by norm_num⟩⟩
  · rw [State.jqRestarted, State.fld_setFld_word _ _ _ (by omega), State.fld_setFld_word _ _ _ (by omega)]
    exact State.fld_setFld_fits _ _ ⟨Nat.zero_le _, show 15 < 32 by norm_num⟩ (Nat.two_pow_pos _)
  · rw [State.jqRestarted, State.fld_setFld_word _ _ _ (by omega)]
    exact State.fld_setFld_fits _ _ ⟨Nat.zero_le _, show 15 < 32 by norm_num⟩ (Nat.two_pow_pos _)

theorem State.jqRestarted_cfg (s : State) (c : Nat) (q : Fin 16) {g : Fld} (h : g.off / 4 = 258 + 16 * q) :
    (s.jqRestarted c q).fld (pgCiph c) g = s.fld (pgCiph c) g := by
  obtain ⟨-, wtail, whead, wstat, -⟩ := jq_words q
  rw [State.jqRestarted, State.fld_setFld_word _ _ _ (by omega), State.fld_setFld_word _ _ _ (by omega),
    State.fld_setFld_word _ _ _ (by omega)]

theorem State.jqRestarted_touches (s : State) (c : Nat) (q : Fin 16) : Touches s (s.jqRestarted c q) (· = pgCiph c) := by
  obtain ⟨-, otail, ohead, ostat, -⟩ := jq_offs q
  exact (((Touches.refl s (· = pgCiph c)).put 0 rfl ohead).put 0 rfl otail).put 0 rfl ostat

theorem State.jqCfg_eq (s : State) (c : ClusterId) (q : Fin 16) {v : W32} (hv : bit v.toNat 31 = true) : s.jqCfg c q v =
    if s.flag (pgCiph c) (Reg.CIPH.JQ_CFG_EN q) then s.jqStored c q v else (s.jqStored c q v).jqRestarted c q := by
  unfold State.jqCfg
  dsimp only
  rw [hv, Bool.and_true]
  cases s.flag (pgCiph c) (Reg.CIPH.JQ_CFG_EN q) with
  | true => exact (if_neg Bool.noConfusion).trans (if_pos rfl).symm
  | false => exact (if_pos rfl).trans (if_neg Bool.noConfusion).symm

/-- A queue's configuration written with EN = 1: what its registers read. -/
theorem State.jqCfg_enabled (s : State) (c : ClusterId) (q : Fin 16) {v : W32} (hv : bit v.toNat 31 = true) :
    let p := pgCiph c
    let t := s.jqCfg c q v
    let was := s.flag p (Reg.CIPH.JQ_CFG_EN q)
    t.flag p (Reg.CIPH.JQ_CFG_EN q) = true ∧ t.fld p (Reg.CIPH.JQ_CFG_SIZE_LOG2 q) = bits v.toNat 3 0 ∧
      t.fld p (Reg.CIPH.JQ_HEAD q) = (if was then s.fld p (Reg.CIPH.JQ_HEAD q) else 0) ∧
      t.fld p (Reg.CIPH.JQ_TAIL q) = (if was then s.fld p (Reg.CIPH.JQ_TAIL q) else 0) ∧
      t.flag p (Reg.CIPH.JQ_STAT_STOPPED q) = (was && s.flag p (Reg.CIPH.JQ_STAT_STOPPED q)) ∧ Touches s t (· = p) := by
  obtain ⟨wcfg, wtail, whead, wstat, -⟩ := jq_words q
  dsimp only
  rw [s.jqCfg_eq c q hv]
  cases s.flag (pgCiph c) (Reg.CIPH.JQ_CFG_EN q) with
  | true =>
    simp only [if_true, Bool.true_and]
    exact ⟨s.jqStored_en c q hv, s.jqStored_size c q v, s.jqStored_other c q v (by omega), s.jqStored_other c q v (by omega),
      State.flag_of_fld (s.jqStored_other c q v (by omega)), s.jqStored_touches c q v⟩
  | false =>
    simp only [Bool.false_eq_true, if_false, Bool.false_and]
    obtain ⟨hhead, htail, hstop⟩ := (s.jqStored c q v).jqRestarted_reads c q
    exact ⟨(State.flag_of_fld (State.jqRestarted_cfg _ c q wcfg)).trans (s.jqStored_en c q hv),
      (State.jqRestarted_cfg _ c q (g := Reg.CIPH.JQ_CFG_SIZE_LOG2 q) wcfg).trans (s.jqStored_size c q v), hhead, htail, hstop,
      (s.jqStored_touches c q v).trans (State.jqRestarted_touches _ c q)⟩

/-! ### A failed access (R395) -/

/-- What a failed access leaves of the job before it ends: an invocation counted, a status word written. -/
def State.jobFailed (s : State) (c : Nat) (q : Nat) (desc : Option JobIn) (wrote : Bool) : State :=
  State.ifDo (match desc with
    | some j => if j.bad || (s.jobStart c j).1 != [] then s else s.countInvoc c j
    | none => s) wrote fun s => s.jobWord c q 8

theorem State.countInvoc_regs (s : State) (c : Nat) (j : JobIn) :
    (s.countInvoc c j).regs = s.regs ∧ (s.countInvoc c j).ctrs = s.ctrs := by
  unfold State.countInvoc
  split <;> exact ⟨rfl, rfl⟩

theorem State.jobFailed_regs (s : State) (c q : Nat) (desc : Option JobIn) (wrote : Bool) :
    (s.jobFailed c q desc wrote).regs = s.regs ∧ (s.jobFailed c q desc wrote).ctrs = s.ctrs := by
  have word (u : State) : (u.ifDo wrote fun s => s.jobWord c q 8).regs = u.regs ∧
      (u.ifDo wrote fun s => s.jobWord c q 8).ctrs = u.ctrs := by cases wrote <;> exact ⟨rfl, rfl⟩
  unfold State.jobFailed
  obtain _ | j := desc
  · exact word s
  · dsimp only
    split
    · exact word s
    · exact ⟨(word _).1.trans (s.countInvoc_regs c j).1, (word _).2.trans (s.countInvoc_regs c j).2⟩

theorem jobDmaError_eq {s : State} {c : ClusterId} {q : Fin 16} (desc : Option JobIn) (wrote : Bool)
    (h : s.jobTurn c = some q.val) : jobDmaError c q desc wrote s =
      ((((s.jobFailed c q desc wrote).jobEnd c q 8).setFld (pgCiph c) (Reg.CIPH.JQ_STAT_STOPPED q) 1).setFld (pgCiph c)
        (Reg.CIPH.JQ_STAT_STOP_IDX q) (s.fld (pgCiph c) (Reg.CIPH.JQ_HEAD q))).raise (pgCiph c) 5 := by
  unfold jobDmaError
  rw [if_pos h]
  rfl

/-- The queue that a failed access stops. -/
theorem jobDmaError_stops {s : State} {c : ClusterId} {q : Fin 16} (desc : Option JobIn) (wrote : Bool)
    (h : s.jobTurn c = some q.val) : let t := jobDmaError c q desc wrote s
    t.flag (pgCiph c) (Reg.CIPH.JQ_STAT_STOPPED q) = true ∧
      t.fld (pgCiph c) (Reg.CIPH.JQ_STAT_STOP_IDX q) = s.fld (pgCiph c) (Reg.CIPH.JQ_HEAD q) % 2 ^ 16 ∧
      t.ctr (pgCiph c) Reg.CIPH.JOB_ERRS = s.ctr (pgCiph c) Reg.CIPH.JOB_ERRS + 1 ∧ t.caused (pgCiph c) 5 ∧
      t.caused (pgCiph c) (16 + q) := by
  obtain ⟨-, -, -, wstat, widx⟩ := jq_words q
  obtain ⟨-, hctrs⟩ := s.jobFailed_regs c q desc wrote
  rw [jobDmaError_eq desc wrote h]
  refine ⟨?_, ?_, ?_, State.caused_raise _ (by norm_num), ?_⟩
  · rw [State.flag_raise_word _ _ _ (by omega), State.flag_setFld_apart _ _ _ ⟨Nat.zero_le _, show 15 < 32 by norm_num⟩ (by rfl)
      (.inr (show 15 < 31 by norm_num))]
    exact State.flag_setFld_same _ _ _ ⟨rfl, show 31 < 32 by norm_num⟩
  · rw [State.fld_raise_word _ _ _ (by omega)]
    exact State.fld_setFld_same _ _ _ _ _ (Nat.zero_le _) (show 15 < 32 by norm_num)
  · rw [State.ctr_raise, State.ctr_setFld, State.ctr_setFld, State.jobEnd_eq, State.ctr_raise, State.ctr_setFld,
      (State.jobCounted_ctr _ _ _ _).2, State.ctr_congr hctrs]
    rfl
  · have ended : ((s.jobFailed c q desc wrote).jobEnd c q 8).caused (pgCiph c) (16 + q) := State.caused_raise _ (by omega)
    exact State.caused_raise_kept (by omega) (State.caused_setFld (by omega) (State.caused_setFld (by omega) ended))

/-! ### The known-answer test (R398) -/

theorem State.cctrl_kat (s : State) (c : Nat) : s.cctrl c 0x80000000 = s.setFld (pgCiph c) Reg.CIPH.CSTAT_KAT_BUSY 1 :=
  if_pos (by decide)

theorem katDone_ends {s : State} {c : ClusterId} (mask : BitVec 16) (h : s.flag (pgCiph c) Reg.CIPH.CSTAT_KAT_BUSY = true) :
    let t := katDone c mask s
    t.flag (pgCiph c) Reg.CIPH.CSTAT_KAT_BUSY = false ∧ t.fld (pgCiph c) Reg.CIPH.CSTAT_KAT_FAILMASK = mask.toNat ∧
      t.caused (pgCiph c) 3 ∧ (mask ≠ 0 → t.caused (pgCiph c) 4) ∧ Touches s t (· = pgCiph c) := by
  let u := ((s.setFld (pgCiph c) Reg.CIPH.CSTAT_KAT_BUSY 0).setFld (pgCiph c) Reg.CIPH.CSTAT_KAT_FAILMASK mask.toNat).raise
    (pgCiph c) 3
  have hrun : katDone c mask s = u.ifDo (mask != 0) (·.raise (pgCiph c) 4) := by
    rw [katDone, if_pos h]
  have hfld (g : Fld) (hg : g.off / 4 ≠ 4) : (katDone c mask s).fld (pgCiph c) g = u.fld (pgCiph c) g := by
    rw [hrun]
    exact State.ifDo_eq (·.fld (pgCiph c) g) (State.fld_raise_word _ _ _ hg) _
  refine ⟨?_, ?_, ?_, fun hmask => ?_, ?_⟩
  · rw [State.flag, hfld _ (by decide), ← State.flag, State.flag_raise_word _ _ _ (by decide),
      State.flag_setFld_apart _ _ _ (by decide) (by rfl) (by decide), State.flag_setFld_same _ _ _ (by decide)]
    rfl
  · rw [hfld _ (by decide), State.fld_raise_word _ _ _ (by decide)]
    exact State.fld_setFld_fits _ _ (by decide) mask.isLt
  · have told : u.caused (pgCiph c) 3 := State.caused_raise _ (by norm_num)
    rw [hrun]
    cases mask != 0 with
    | false => exact told
    | true => exact State.caused_raise_kept (by norm_num) told
  · rw [hrun, bne_iff_ne.2 hmask]
    exact State.caused_raise _ (by norm_num)
  · rw [hrun]
    exact ((((Touches.refl s (· = pgCiph c)).put _ rfl (by decide)).put _ rfl (by decide)).raise _ _ rfl).raiseIf _ _ _ rfl

/-- Settles O50: the queues' registers are plain but for EN's edge; a failed access is a job's end and a stop. -/
theorem jobQueuesAndKat : Obligations.JobQueuesAndKat := by
  refine ⟨fun s c q v h => ?_, fun s c q size h => ?_, fun s c q desc wrote => ⟨fun h => ?_, fun h => ?_⟩, fun s c h => ?_,
    fun s c mask => ⟨fun h => ?_, fun h => ?_⟩⟩
  · refine ⟨_, finish_congr (State.wordWrite_takes h _ _ _ _), rfl, ?_, ?_⟩
    · rw [settle_fld, State.jqTail_value]
    · exact (State.plainWrite_own _ v (jqTail_writable c q).1 (jq_offs q).2.1).settle
  · obtain ⟨hen, hsize, hhead, htail, hstop, htouch⟩ := 
      (s.hubAnswered (pgCiph c)).jqCfg_enabled c q (jqWord_fields size).1
    simp only [State.hubAnswered_fld, State.hubAnswered_flag] at hhead htail hstop
    refine ⟨_, finish_congr (State.wordWrite_takes h _ _ _ _), ?_, ?_, ?_, ?_, ?_, htouch.settle⟩
    · exact (settle_flag _ _ _ _).trans hen
    · exact (settle_fld _ _ _ _).trans (hsize.trans (jqWord_fields size).2)
    · exact (settle_fld _ _ _ _).trans hhead
    · exact (settle_fld _ _ _ _).trans htail
    · exact (settle_flag _ _ _ _).trans hstop
  · exact finish_congr (if_neg h)
  · obtain ⟨hstop, hidx, herrs, h5, hdone⟩ := jobDmaError_stops desc wrote h
    refine ⟨_, rfl, (settle_flag _ _ _ _).trans hstop, (settle_fld _ _ _ _).trans hidx, ?_, (settle_caused _ _ _).2 h5,
      (settle_caused _ _ _).2 hdone, ?_⟩
    · rw [settle_ctr_page _ (pgCiph_ne_host c) (by decide) (by norm_num), herrs]
    · simp [State.jobReady, hstop]
  · refine ⟨_, finish_congr (State.wordWrite_takes h _ _ _ _), ?_, ?_⟩
    · rw [settle_flag, State.cctrl_kat, State.flag_setFld_same _ _ _ (by decide)]
      rfl
    · rw [State.cctrl_kat]
      exact ((Touches.refl _ (· = pgCiph c)).put (f := Reg.CIPH.CSTAT_KAT_BUSY) 1 rfl (by decide)).settle
  · exact finish_congr (if_neg (by simp [h]))
  · obtain ⟨hbusy, hmask, h3, h4, htouch⟩ := katDone_ends mask h
    exact ⟨_, rfl, (settle_flag _ _ _ _).trans hbusy, (settle_fld _ _ _ _).trans hmask, (settle_caused _ _ _).2 h3,
      fun hne => (settle_caused _ _ _).2 (h4 hne), htouch.settle⟩

end Sys2Proof.Machine
end

section
/-! SUPPORT. Refutations of O20 and O38: a state each, which the model takes to another outcome than the statement's. -/

namespace Sys2Proof.Machine

@[simp] theorem settle_boot (s : State) : (settle s).boot = s.boot := by rw [settle_frame]

/-- CONFIG, no flash operation in progress, and yet a flash result that is still to show. -/
def resultAwaited : State :=
  { State.reset with boot := { State.reset.boot with stage := 7, asserted := false, flWait := true } }

theorem resultAwaited_takes : resultAwaited.takes pgBoot := by unfold State.takes; decide

theorem resultAwaited_read : (flashRead true resultAwaited).boot.flWait = false := by decide +kernel

/-- Refutes O20: a READ makes the result final, so it is awaited no more. The statement lets a good READ change registers of the
page alone, also where a result was awaited before it, in a state that no operation in progress explains. -/
theorem not_flashMailbox : ¬ Obligations.FlashMailbox := by
  rintro ⟨idle, -⟩
  obtain ⟨read, -⟩ := idle resultAwaited resultAwaited_takes (.inl rfl) rfl
  obtain ⟨⟨t, hrun, -, -, -, htouch⟩, -⟩ := read (by decide)
  have hdone : t = settle (flashRead true resultAwaited) := (Host.Outcome.next.inj hrun).symm
  have hkept : t.boot = resultAwaited.boot := (congrArg State.boot htouch.rest).trans rfl
  have hfinal := resultAwaited_read
  rw [← settle_boot, ← hdone, hkept] at hfinal
  exact Bool.noConfusion hfinal

/-- Pseudo-channel 0 in RUN, with seven refreshes of its bank 0 postponed. -/
def sevenPostponed : State :=
  (State.reset.setFld (pgChan 0) Reg.CRUCC.CH_STAT_STATE 2).onChan 0 fun h => { h with postponed := [(0, 7)] }

theorem sevenPostponed_runs : sevenPostponed.chState 0 = 2 := by decide

theorem sevenPostponed_forced :
    Tab.get (fun _ => 0) ((hbmRefresh 0 0 true sevenPostponed).chanAt 0).postponed 0 = 7 := by decide

/-- Refutes O38: the refresh that is forced after eight postponed intervals of a busy bank is issued, so seven remain
postponed and the count stands; the statement has it grow to eight. -/
theorem not_refreshReplayAndErrors : ¬ Obligations.RefreshReplayAndErrors := by
  rintro ⟨⟨refresh, -⟩, -⟩
  obtain ⟨-, serves⟩ := refresh sevenPostponed 0 0 true
  have runs {n : Nat} (hn : n ≠ 2) : sevenPostponed.chState 0 ≠ n := fun h => hn (h.symm.trans sevenPostponed_runs)
  obtain ⟨t, hdone, hcount, -⟩ := serves (runs (by norm_num)) (runs (by norm_num)) (runs (by norm_num))
  have ht : t = settle (hbmRefresh 0 0 true sevenPostponed) := (Host.Outcome.next.inj hdone).symm
  have hforced : Tab.get (fun _ => 0) (t.chanAt 0).postponed 0 = 7 := by
    rw [ht, State.chanAt, settle_chan]
    exact sevenPostponed_forced
  exact absurd (hforced.symm.trans hcount) (by decide)

end Sys2Proof.Machine
end

section
/-! SUPPORT. O18: the boot commands (R494, R499, R506), one equation per operation; fuse burns; and the watchdog's settings. -/

namespace Sys2Proof.Machine

/-! ### The command word (R506) -/

/-- A host write of a page that the shared hub serves reaches it. -/
theorem State.hostWrite_shared {s : State} {p : Nat} (ht : pageTeam p = none) (h : s.takes p) (f : State → State) :
    s.hostWrite p f = f s := by
  rw [State.hostWrite_takes h, State.hubAnswered_shared ht]

/-- The word that a boot command writes. -/
def bootWord (op key confirm : Nat) : W32 := BitVec.ofNat 32 (op * 2 ^ 28 + key * 2 ^ 24 + confirm)

theorem bootWord_fields {op key confirm : Nat} (hop : op < 16) (hkey : key < 4) (hc : confirm < 256) :
    bits (bootWord op key confirm).toNat 31 28 = op ∧ bits (bootWord op key confirm).toNat 25 24 = key ∧
      bits (bootWord op key confirm).toNat 7 0 = confirm := by
  have hsum : (bootWord op key confirm).toNat = op * 2 ^ 28 + key * 2 ^ 24 + confirm := by
    rw [bootWord, BitVec.toNat_ofNat, Nat.mod_eq_of_lt (by omega)]
  rw [hsum]
  simp only [bits, Nat.shiftRight_eq_div_pow]
  omega

theorem State.bootCommand_takes {s : State} (h : s.takes pgBoot) (op key confirm : Nat) :
    s.bootCommand op key confirm = s.bootCmdWrite (bootWord op key confirm) := State.hostWrite_shared rfl h _

/-! ### The operations (R494, R499) -/

/-- The page as a command is taken: no result shows. -/
def State.cmdTaken (s : State) (op : Nat) : State :=
  { s with boot := { s.boot with cmdWait := op } }.wr pgBoot Reg.BOOT.CMD_RESULT.off 0

section
variable {s : State} {v : W32}

theorem State.bootCmdWrite_go (hop : bits v.toNat 31 28 = 1) :
    s.bootCmdWrite v = if s.boot.stage = 7 then (s.cmdTaken 1).goStart true else (s.cmdTaken 1).cmdFinal 2 := by
  unfold State.bootCmdWrite
  rw [hop]
  rfl

theorem State.bootCmdWrite_reset (hop : bits v.toNat 31 28 = 2) : s.bootCmdWrite v =
    if bits v.toNat 7 0 = 0xA5 then ((s.cmdTaken 2).cmdFinal 0).fullReset 2 else (s.cmdTaken 2).cmdFinal 3 := by
  unfold State.bootCmdWrite
  rw [hop]
  simp only [beq_iff_eq]
  rfl

theorem State.bootCmdWrite_kick (hop : bits v.toNat 31 28 = 3) : s.bootCmdWrite v =
    State.cmdFinal { s.cmdTaken 3 with boot := { (s.cmdTaken 3).boot with warned := false } } 0 := by
  unfold State.bootCmdWrite
  rw [hop]
  rfl

theorem State.bootCmdWrite_svn (hop : bits v.toNat 31 28 = 4) : s.bootCmdWrite v =
    if ¬ bits v.toNat 7 0 = 0xA5 then (s.cmdTaken 4).cmdFinal 3
    else if s.boot.stage ≠ 7 ∧ s.boot.stage ≠ 9 ∨ s.boot.burn.isSome then (s.cmdTaken 4).cmdFinal 4
    else { s.cmdTaken 4 with boot := { (s.cmdTaken 4).boot with
      burn := some (.svn (s.fld pgBoot Reg.BOOT.RUNSVN_FW_SVN) (s.fld pgBoot Reg.BOOT.RUNSVN_PB_SVN)) } } := by
  unfold State.bootCmdWrite
  rw [hop]
  simp only [Bool.not_eq_true', beq_eq_false_iff_ne, ne_eq]
  rfl

theorem State.bootCmdWrite_revoke (hop : bits v.toNat 31 28 = 5) : s.bootCmdWrite v =
    if ¬ bits v.toNat 7 0 = 0xA5 then (s.cmdTaken 5).cmdFinal 3
    else if s.boot.fwKey = some (bits v.toNat 25 24) ∨
      !((List.range 4).any fun k => k != bits v.toNat 25 24 && s.keyGood k) ∨ s.boot.burn.isSome then (s.cmdTaken 5).cmdFinal 4
    else { s.cmdTaken 5 with boot := { (s.cmdTaken 5).boot with burn := some (.revoke (bits v.toNat 25 24)) } } := by
  unfold State.bootCmdWrite
  rw [hop]
  simp only [Bool.not_eq_true', beq_eq_false_iff_ne, ne_eq]
  rfl

/-- An operation that is none, or that its CONFIRM does not follow. -/
theorem State.bootCmdWrite_bad {op : Nat} (hop : bits v.toNat 31 28 = op)
    (h : op = 0 ∨ 5 < op ∨ (op = 2 ∨ op = 4 ∨ op = 5) ∧ bits v.toNat 7 0 ≠ 0xA5) :
    s.bootCmdWrite v = (s.cmdTaken op).cmdFinal 3 := by
  obtain hnone | ⟨hkind, hsure⟩ : (op = 0 ∨ 5 < op) ∨ (op = 2 ∨ op = 4 ∨ op = 5) ∧ bits v.toNat 7 0 ≠ 0xA5 := by tauto
  · obtain rfl | ⟨n, rfl⟩ : op = 0 ∨ ∃ n, op = n + 6 := hnone.imp id fun h => ⟨op - 6, by omega⟩
    · unfold State.bootCmdWrite
      rw [hop]
      rfl
    · unfold State.bootCmdWrite
      rw [hop]
      rfl
  · obtain rfl | rfl | rfl := hkind
    · rw [State.bootCmdWrite_reset hop, if_neg hsure]
    · rw [State.bootCmdWrite_svn hop, if_pos hsure]
    · rw [State.bootCmdWrite_revoke hop, if_pos hsure]

end

/-! ### Fuse burns (R494) -/

/-- The page's state as a burn ends. -/
def State.burnEnded (s : State) : State := { s with boot := { s.boot with burn := none } }

theorem fuseBurnDone_eq {s : State} {b : Burn} (ok : Bool) (h : s.boot.burn = some b) (hup : s.pins.sharedDown = false) :
    fuseBurnDone ok s = (s.burnEnded.ifDo ok (·.burnt b)).ifDo (decide (4 ≤ s.boot.cmdWait))
      (·.cmdFinal (if ok then 0 else 5)) := by
  unfold fuseBurnDone
  rw [h]
  dsimp only
  rw [if_neg (by simp [hup])]
  rfl

/-- A burn that reads back shows its result where it is still awaited, and leaves what it burned. -/
theorem fuseBurnDone_shown {s : State} {b : Burn} (h : s.boot.burn = some b) (hup : s.pins.sharedDown = false) :
    let t := settle (fuseBurnDone true s)
    let u := s.burnEnded.burnt b
    t.boot.burn = u.boot.burn ∧ (∀ f : Fld, f.off = Reg.BOOT.FUSE.off → t.fld pgBoot f = u.fld pgBoot f) ∧
      if 4 ≤ s.boot.cmdWait then t.rd pgBoot Reg.BOOT.CMD_RESULT.off = 0x80000000 ∧ t.caused pgBoot 5
      else t.rd pgBoot Reg.BOOT.CMD_RESULT.off = u.rd pgBoot Reg.BOOT.CMD_RESULT.off := by
  intro t u
  have ht : t = settle (u.ifDo (decide (4 ≤ s.boot.cmdWait)) (·.cmdFinal 0)) :=
    congrArg settle (fuseBurnDone_eq true h hup)
  rw [ht, settle_boot]
  simp only [settle_rd, settle_fld, settle_caused]
  by_cases hwait : 4 ≤ s.boot.cmdWait
  · rw [decide_eq_true hwait, if_pos hwait]
    refine ⟨rfl, fun f hf => ?_, (State.rd_raise_word _ _ _ (by decide)).trans (State.rd_wr_same _ _ _ _ _),
      State.caused_raise _ (by norm_num)⟩
    refine (State.fld_raise_word _ _ _ (by rw [hf]; decide)).trans ?_
    exact State.fld_wr_other _ _ _ _ _ (rkey_ne_word (by rw [hf]; decide))
  · rw [decide_eq_false hwait, if_neg hwait]
    exact ⟨rfl, fun _ _ => rfl, rfl⟩

theorem State.burnt_svn (s : State) {fw pb : Nat} (hfw : fw < 64) (hpb : pb < 64) : let u := s.burnEnded.burnt (.svn fw pb)
    u.fld pgBoot Reg.BOOT.FUSE_FW_SVN = max (s.fld pgBoot Reg.BOOT.FUSE_FW_SVN) fw ∧
      u.fld pgBoot Reg.BOOT.FUSE_PB_SVN = max (s.fld pgBoot Reg.BOOT.FUSE_PB_SVN) pb := by
  have hf : s.fld pgBoot Reg.BOOT.FUSE_FW_SVN < 64 := s.fld_lt _ _ _
  have hp : s.fld pgBoot Reg.BOOT.FUSE_PB_SVN < 64 := s.fld_lt _ _ _
  refine ⟨?_, State.fld_setFld_fits _ _ (by decide) (max_lt hp hpb)⟩
  refine (State.fld_setFld_apart _ _ Reg.BOOT.FUSE_PB_SVN Reg.BOOT.FUSE_FW_SVN _ _ (by decide) (by decide) rfl
    (by decide)).trans ?_
  exact State.fld_setFld_fits _ _ (by decide) (max_lt hf hfw)

theorem State.burnt_revoke (s : State) {k : Nat} (hk : k < 4) : (s.burnEnded.burnt (.revoke k)).fld pgBoot Reg.BOOT.FUSE_REVOKED =
    s.fld pgBoot Reg.BOOT.FUSE_REVOKED ||| 2 ^ k := by
  have hr : s.fld pgBoot Reg.BOOT.FUSE_REVOKED < 2 ^ 4 := s.fld_lt _ _ _
  exact State.fld_setFld_fits _ _ (by decide) (Nat.or_lt_two_pow hr (Nat.pow_lt_pow_right (by norm_num) hk))

theorem State.burnt_result (s : State) (b : Burn) :
    (s.burnEnded.burnt b).rd pgBoot Reg.BOOT.CMD_RESULT.off = s.rd pgBoot Reg.BOOT.CMD_RESULT.off ∧
      (s.burnEnded.burnt b).boot.burn = none := by
  cases b with
  | svn fw pb =>
    exact ⟨(State.rd_setFld_word _ _ _ (by decide)).trans (State.rd_setFld_word _ _ _ (by decide)), rfl⟩
  | revoke k => exact ⟨State.rd_setFld_word _ _ _ (by decide), rfl⟩

/-! ### BCFG (R502) -/

theorem State.bcfgWrite_eq (s : State) (v : W32) : let u := s.plainWrite pgBoot Reg.BOOT.BCFG.off 0 v
    s.bcfgWrite v = if u.fld pgBoot Reg.BOOT.BCFG_WDOG_EN = s.fld pgBoot Reg.BOOT.BCFG_WDOG_EN ∧
      u.fld pgBoot Reg.BOOT.BCFG_WDOG_MS = s.fld pgBoot Reg.BOOT.BCFG_WDOG_MS then u
      else { u with boot := { u.boot with warned := false } } := by
  intro u
  unfold State.bcfgWrite
  simp only [Bool.and_eq_true, beq_iff_eq]
  rfl

/-- A good key other than `k` is left. -/
theorem State.keysLeft {s : State} {k : Fin 4} (h : ∃ j, j < 4 ∧ j ≠ k.val ∧ s.keyGood j = true) :
    ((List.range 4).any fun j => j != k.val && s.keyGood j) = true := by
  obtain ⟨j, hj, hne, hgood⟩ := h
  exact List.any_eq_true.2 ⟨j, List.mem_range.2 hj, by simp [hne, hgood]⟩

/-- Settles O18: the command's word gives back its operation, key and CONFIRM; a burn's fields do not overlap. -/
theorem bootCommands : Obligations.BootCommands := by
  refine ⟨fun s h => ⟨fun hstage => ?_, fun hstage => ?_, ?_, ?_, fun hstage hburn => ?_, fun k hkey hleft hburn => ?_,
    fun op c hbad => ?_⟩, fun s hup => ⟨fun fw pb hfw hpb hburn => ?_, fun k hk hburn => ?_, fun b hburn => ?_⟩,
    fun s v h => ⟨finish_congr (State.hostWrite_shared rfl h _), fun hne => ?_, fun hen hms => ?_⟩⟩
  · obtain ⟨hop, -, -⟩ := bootWord_fields (op := 1) (key := 0) (confirm := 0) (by norm_num) (by norm_num) (by norm_num)
    refine finish_congr ((State.bootCommand_takes h _ _ _).trans ?_)
    rw [State.bootCmdWrite_go hop, if_pos hstage]
    rfl
  · obtain ⟨hop, -, -⟩ := bootWord_fields (op := 1) (key := 0) (confirm := 0) (by norm_num) (by norm_num) (by norm_num)
    refine finish_congr ((State.bootCommand_takes h _ _ _).trans ?_)
    rw [State.bootCmdWrite_go hop, if_neg hstage]
    rfl
  · obtain ⟨hop, -, hsure⟩ := bootWord_fields (op := 2) (key := 0) (confirm := 0xA5) (by norm_num) (by norm_num) (by norm_num)
    refine finish_congr ((State.bootCommand_takes h _ _ _).trans ?_)
    rw [State.bootCmdWrite_reset hop, if_pos hsure]
    rfl
  · obtain ⟨hop, -, -⟩ := bootWord_fields (op := 3) (key := 0) (confirm := 0) (by norm_num) (by norm_num) (by norm_num)
    exact finish_congr ((State.bootCommand_takes h _ _ _).trans (State.bootCmdWrite_kick hop))
  · obtain ⟨hop, -, hsure⟩ := bootWord_fields (op := 4) (key := 0) (confirm := 0xA5) (by norm_num) (by norm_num) (by norm_num)
    refine finish_congr ((State.bootCommand_takes h _ _ _).trans ?_)
    rw [State.bootCmdWrite_svn hop, if_neg (not_not.2 hsure), if_neg (by rw [hburn]; simp; omega)]
    rfl
  · obtain ⟨hop, hk, hsure⟩ := bootWord_fields (op := 5) (key := k) (confirm := 0xA5) (by norm_num) k.isLt (by norm_num)
    refine finish_congr ((State.bootCommand_takes h _ _ _).trans ?_)
    rw [State.bootCmdWrite_revoke hop, hk, if_neg (not_not.2 hsure), if_neg (by rw [hburn, State.keysLeft hleft]; simp [hkey])]
    rfl
  · obtain ⟨hop, -, hc⟩ := bootWord_fields (op := op) (key := 0) (confirm := c.toNat) op.isLt (by norm_num) c.isLt
    refine finish_congr ((if_pos hbad).trans ((State.bootCommand_takes h _ _ _).trans ?_))
    exact State.bootCmdWrite_bad hop (by rw [hc]; exact hbad)
  · obtain ⟨hnone, hfuse, hshown⟩ := fuseBurnDone_shown hburn hup
    obtain ⟨hfw, hpb⟩ := s.burnt_svn hfw hpb
    obtain ⟨hresult, hended⟩ := s.burnt_result (.svn fw pb)
    rw [hresult] at hshown
    exact ⟨_, rfl, hnone.trans hended, (hfuse Reg.BOOT.FUSE_FW_SVN rfl).trans hfw,
      (hfuse Reg.BOOT.FUSE_PB_SVN rfl).trans hpb, hshown⟩
  · obtain ⟨hnone, hfuse, hshown⟩ := fuseBurnDone_shown hburn hup
    obtain ⟨hresult, hended⟩ := s.burnt_result (.revoke k)
    rw [hresult] at hshown
    exact ⟨_, rfl, hnone.trans hended, (hfuse Reg.BOOT.FUSE_REVOKED rfl).trans (s.burnt_revoke hk), hshown⟩
  · refine finish_congr ((fuseBurnDone_eq false hburn hup).trans ?_)
    simp only [State.ifDo, decide_eq_true_eq]
    rfl
  · rw [State.bcfgWrite_eq, if_neg (by tauto)]
  · rw [State.bcfgWrite_eq, if_pos ⟨hen, hms⟩]

end Sys2Proof.Machine
end

section
/-! SUPPORT. O19: the watchdog and wedges (R502, R503, R426). -/

namespace Sys2Proof.Machine

/-- A wedge is noted in WEDGE, with its cause. -/
def State.wedgeNoted (s : State) (i : Nat) : State :=
  (s.wr pgBoot Reg.BOOT.WEDGE.off (s.rd pgBoot Reg.BOOT.WEDGE.off ||| BitVec.ofNat 32 (2 ^ i))).raise pgBoot 3

/-- What ends a wedge: with AUTO_RESET = 1, a full reset. -/
def State.wedgeEnds (s u : State) : State := if s.flag pgBoot Reg.BOOT.BCFG_AUTO_RESET then u.fullReset 6 else u

theorem wedgeDetect_bench {s : State} {k : Fin 12} (hg : s.domOn domGaffer = true) (hk : k.val < 8)
    (hd : s.domOn (domIngress k) = true) : wedgeDetect k s = s.wedgeEnds ((s.wedgeNoted k).teamFail (k.val / 4)) := by
  unfold wedgeDetect
  dsimp only
  rw [if_pos hk, if_pos hk, hg, hd, if_neg (by simp), if_neg (show ¬ (k.val = 8 ∨ k.val = 9) by omega),
    decide_eq_false (show ¬ 10 ≤ k.val by omega)]
  rfl

theorem wedgeDetect_hub {s : State} {k : Fin 12} (hg : s.domOn domGaffer = true) (hlo : 8 ≤ k.val) (hhi : k.val < 10)
    (hd : s.domOn (domClock (k.val % 2)) = true) : wedgeDetect k s = s.wedgeEnds
      (State.teamFail { s.wedgeNoted k with hub := { (s.wedgeNoted k).hub with
        faulty := (k.val % 2 :: (s.wedgeNoted k).hub.faulty).eraseDups } } (k.val % 2)) := by
  unfold wedgeDetect
  dsimp only
  rw [if_neg (show ¬ k.val < 8 by omega), if_neg (show ¬ k.val < 8 by omega), if_pos hhi, hg, hd, if_neg (by simp),
    if_pos (show k.val = 8 ∨ k.val = 9 by omega), decide_eq_false (show ¬ 10 ≤ k.val by omega)]
  rfl

theorem wedgeDetect_spill {s : State} {k : Fin 12} (hg : s.domOn domGaffer = true) (hlo : 10 ≤ k.val)
    (hd : s.domOn (domSpill (k.val % 2)) = true) (hrun : s.halfState (k.val % 2) = 2) : wedgeDetect k s =
      s.wedgeEnds (((s.wedgeNoted k).failHalf (k.val % 2)).teamFail (k.val % 2)) := by
  unfold wedgeDetect
  dsimp only
  rw [if_neg (show ¬ k.val < 8 by omega), if_neg (show ¬ k.val < 8 by omega), if_neg (show ¬ k.val < 10 by omega), hg, hd, hrun,
    if_neg (by simp), if_neg (show ¬ (k.val = 8 ∨ k.val = 9) by omega),
    decide_eq_true hlo]
  rfl

/-- Settles O19: the watchdog's condition holds, and each kind of wedge has its one branch. -/
theorem watchdogAndWedges : Obligations.WatchdogAndWedges := by
  refine ⟨fun s hen hrun hup => ?_, fun s k hg _ => ⟨fun hk hd => ?_, fun hlo hhi hd => ?_, fun hlo hd hrun => ?_⟩⟩
  · have hon : s.wdogOn = true := by simp [State.wdogOn, hen, hrun, hup]
    refine ⟨fun hquiet => finish_congr (if_pos ?_), fun hwarned => finish_congr (if_pos ?_)⟩
    · rw [hon, hquiet]
      rfl
    · rw [hon, hwarned]
      rfl
  · exact finish_congr (wedgeDetect_bench hg hk hd)
  · exact finish_congr (wedgeDetect_hub hg hlo hhi hd)
  · exact finish_congr (wedgeDetect_spill hg hlo hd hrun)

end Sys2Proof.Machine
end

section
/-! SUPPORT. O21: the lehr's control and window (R463, R467, R468, R477). -/

namespace Sys2Proof.Machine

/-! ### VALID -/

theorem State.setLehrWord_regs (s : State) (a v : Nat) : (s.setLehrWord a v).regs = s.regs := rfl
theorem State.setLehrWord_ctrs (s : State) (a v : Nat) : (s.setLehrWord a v).ctrs = s.ctrs := rfl

theorem State.setLehrValid_valid (s : State) (b : Bool) : (s.setLehrValid b).lehrValid = b := by
  rw [State.lehrValid, State.setLehrValid, State.flag_congr (State.setLehrWord_regs _ _ _),
    State.flag_setFld_same _ _ _ (by decide), b2n_mod_two]

/-! ### LCTRL (R467, R468) -/

/-- The lehr as LCTRL's HOLD is written: released, the held changes are written through. -/
def State.holdWritten (s : State) (hold : Bool) : State :=
  if s.flag pgLehr Reg.LEHR.LCTRL_HOLD && !hold then (s.setFld pgLehr Reg.LEHR.LCTRL_HOLD (b2n hold)).holdRelease
  else s.setFld pgLehr Reg.LEHR.LCTRL_HOLD (b2n hold)

theorem State.lctrlWrite_eq (s : State) {v : W32} {hold load inval : Bool} (hh : bit v.toNat 31 = hold)
    (hl : bit v.toNat 30 = load) (hi : bit v.toNat 29 = inval) : s.lctrlWrite v =
      ((s.holdWritten hold).ifDo load State.lehrLoad).ifDo inval (·.setLehrValid false) := by
  subst hh hl hi
  rfl

/-- The words that the three commands write. -/
theorem lctrl_bits : ∀ hold : Bool,
    (bit (BitVec.ofNat 32 (b2n hold * 2 ^ 31)).toNat 31 = hold ∧ bit (BitVec.ofNat 32 (b2n hold * 2 ^ 31)).toNat 30 = false ∧
      bit (BitVec.ofNat 32 (b2n hold * 2 ^ 31)).toNat 29 = false) ∧
    (bit (BitVec.ofNat 32 (b2n hold * 2 ^ 31 + 2 ^ 30)).toNat 31 = hold ∧
      bit (BitVec.ofNat 32 (b2n hold * 2 ^ 31 + 2 ^ 30)).toNat 30 = true ∧
      bit (BitVec.ofNat 32 (b2n hold * 2 ^ 31 + 2 ^ 30)).toNat 29 = false) ∧
    (bit (BitVec.ofNat 32 (b2n hold * 2 ^ 31 + 2 ^ 29)).toNat 31 = hold ∧
      bit (BitVec.ofNat 32 (b2n hold * 2 ^ 31 + 2 ^ 29)).toNat 30 = false ∧
      bit (BitVec.ofNat 32 (b2n hold * 2 ^ 31 + 2 ^ 29)).toNat 29 = true) := by decide

/-! ### LOAD (R467) -/

theorem State.lehrLoad_good {s : State} (h : s.imageGood = true) :
    s.lehrLoad.lehrValid = true ∧ s.lehrLoad.lehr.load = true := by
  have hrun : s.lehrLoad = State.setFld (State.setLehrValid { s with lehr := { s.lehr with load := true } } true) pgLehr
      Reg.LEHR.LSTAT_LOAD_ERR 0 := if_pos h
  rw [hrun, State.setFld_lehr, State.lehrValid, State.flag_setFld_apart _ _ _ (by decide) (by rfl) (by decide)]
  exact ⟨State.setLehrValid_valid _ true, rfl⟩

theorem State.lehrLoad_bad {s : State} (h : s.imageGood = false) : s.lehrLoad.lehrValid = false ∧
    s.lehrLoad.flag pgLehr Reg.LEHR.LSTAT_LOAD_ERR = true ∧ s.lehrLoad.caused pgLehr 1 := by
  have hrun : s.lehrLoad = ((s.setLehrValid false).setFld pgLehr Reg.LEHR.LSTAT_LOAD_ERR 1).raise pgLehr 1 :=
    if_neg (by simp [h])
  rw [hrun]
  refine ⟨?_, ?_, State.caused_raise _ (by norm_num)⟩
  · rw [State.lehrValid, State.flag_raise_word _ _ _ (by decide),
      State.flag_setFld_apart _ _ _ (by decide) (by rfl) (by decide)]
    exact State.setLehrValid_valid s false
  · rw [State.flag_raise_word _ _ _ (by decide), State.flag_setFld_same _ _ _ (by decide)]
    rfl

/-! ### The scrub (R463) -/

theorem lehrScrub_uncorrectable (s : State) (n : Nat) : let t := lehrScrub n true s
    t.lehrValid = false ∧ t.caused pgLehr 2 ∧ t.ctr pgLehr Reg.LEHR.LEHR_CE = s.ctr pgLehr Reg.LEHR.LEHR_CE + BitVec.ofNat 64 n ∧
      t.ctr pgLehr Reg.LEHR.LEHR_UE = s.ctr pgLehr Reg.LEHR.LEHR_UE + 1 := by
  have hrun : lehrScrub n true s =
      (((s.addCtr pgLehr Reg.LEHR.LEHR_CE n).setLehrValid false).bump pgLehr Reg.LEHR.LEHR_UE).raise pgLehr 2 := by
    unfold lehrScrub
    exact if_pos rfl
  have hctrs : ((s.addCtr pgLehr Reg.LEHR.LEHR_CE n).setLehrValid false).ctrs = (s.addCtr pgLehr Reg.LEHR.LEHR_CE n).ctrs := by
    rw [State.setLehrValid, State.setLehrWord_ctrs, State.setFld_ctrs]
  dsimp only
  rw [hrun, State.lehrValid, State.flag_raise_word _ _ _ (by decide), State.flag_bump, State.ctr_raise, State.ctr_raise,
    State.ctr_bump_same, State.ctr_bump_word _ _ (by decide), State.ctr_congr hctrs, State.ctr_congr hctrs, State.ctr_addCtr_same,
    State.ctr_addCtr_ne _ _ _ _ _ (rkey_ne_word (by decide))]
  exact ⟨State.setLehrValid_valid _ false, State.caused_raise _ (by norm_num), rfl, rfl⟩

/-! ### The window (R463, R477) -/

section
variable {s : State} {k : Fin 64} (h : s.takes pgLehr)
include h

theorem lehrWindowRead_takes : exec (.lehrWindowAccess k none) s = .next (settle (State.respond (s.lwinRead k))) :=
  finish_congr (State.hostRead_shared rfl rfl h _)

theorem lehrWindowWrite_takes (v : W32) : exec (.lehrWindowAccess k (some v)) s = .next (settle (s.lwinWrite k v)) :=
  finish_congr (State.hostWrite_shared rfl h _)

end

theorem State.lwinRead_gaffer {s : State} {k : Nat} (h : 0x140000 ≤ s.lwinAt k ∧ s.lwinAt k < 0x180000) :
    s.lwinRead k = (0, s) := if_pos h

theorem State.lwinRead_training {s : State} {k : Nat} (h : 0x100000 ≤ s.lwinAt k ∧ s.lwinAt k < 0x130000) :
    s.lwinRead k = (BitVec.ofNat 32 (s.free 32).1, (s.free 32).2) :=
  (if_neg (by omega)).trans (if_pos h)

theorem State.lwinRead_bytes {s : State} {k : Nat} (hg : ¬ (0x140000 ≤ s.lwinAt k ∧ s.lwinAt k < 0x180000))
    (ht : s.lwinAt k < 0x100000 ∨ 0x130000 ≤ s.lwinAt k) : s.lwinRead k = (BitVec.ofNat 32 (s.lehrWord (s.lwinAt k)), s) :=
  (if_neg hg).trans (if_neg (by omega))

/-- A word of the lehr written: it reads back, the other bytes and all else as before. -/
theorem State.setLehrWord_stores (s : State) (a : Nat) (v : W32) : let t := settle (s.setLehrWord a v.toNat)
    t.lehrWord a = v.toNat ∧ (∀ i, i < a ∨ a + 4 ≤ i → Tab.get zeroByte t.lehr.mem i = Tab.get zeroByte s.lehr.mem i) ∧
      (Memory.wf s.lehr.mem = true → Memory.wf t.lehr.mem = true) ∧
      Touches { s with lehr := { s.lehr with mem := t.lehr.mem } } t (fun _ => False) := by
  obtain ⟨hback, hother, hwf⟩ := Tab.setList_word s.lehr.mem a v
  have hmem : (settle (s.setLehrWord a v.toNat)).lehr.mem = Tab.setList zeroByte s.lehr.mem a (natBE 4 v.toNat) := by
    rw [settle_lehr]
    rfl
  dsimp only
  rw [State.lehrWord, hmem]
  exact ⟨hback, hother, hwf, (Touches.refl _ _).settle⟩

/-- Settles O21: LCTRL's word gives HOLD, LOAD and INVALIDATE; a word of the window is four bytes of the memory. -/
theorem lehrControlAndWindow : Obligations.LehrControlAndWindow := by
  refine ⟨⟨fun s hold h => ?_, fun s => ⟨State.lehrLoad_good, State.lehrLoad_bad, s.setLehrValid_valid false⟩, fun s n => ⟨rfl, ?_⟩⟩,
    fun s k h => ?_⟩
  · obtain ⟨⟨h0, h1, h2⟩, ⟨l0, l1, l2⟩, i0, i1, i2⟩ := lctrl_bits hold
    exact ⟨finish_congr ((State.hostWrite_shared rfl h _).trans (s.lctrlWrite_eq h0 h1 h2)),
      finish_congr ((State.hostWrite_shared rfl h _).trans (s.lctrlWrite_eq l0 l1 l2)),
      finish_congr ((State.hostWrite_shared rfl h _).trans (s.lctrlWrite_eq i0 i1 i2))⟩
  · obtain ⟨hvalid, h2, hce, hue⟩ := lehrScrub_uncorrectable s n
    refine ⟨_, rfl, ?_, (settle_caused _ _ _).2 h2, ?_, ?_⟩
    · exact (settle_flag _ _ _ _).trans hvalid
    · exact (settle_ctr_page _ (by decide) (by decide) (by norm_num)).trans hce
    · exact (settle_ctr_page _ (by decide) (by decide) (by norm_num)).trans hue
  · intro a writable
    refine ⟨fun ha => ?_, fun hlo hhi => ⟨BitVec.ofNat 32 (s.free 32).1, s.nonce + 1, ?_⟩, fun v => ⟨fun hw => ⟨_, lehrWindowWrite_takes h v, ?_⟩, fun hw => ?_⟩⟩
    · rw [lehrWindowRead_takes h]
      by_cases hg : 0x140000 ≤ a ∧ a < 0x180000
      · rw [State.lwinRead_gaffer hg, if_pos hg]
        rfl
      · rw [State.lwinRead_bytes hg ha, if_neg hg]
        rfl
    · rw [lehrWindowRead_takes h, State.lwinRead_training ⟨hlo, hhi⟩]
      rfl
    · have hrun : s.lwinWrite k v = s.setLehrWord a v.toNat := if_pos hw.symm
      rw [hrun]
      exact s.setLehrWord_stores a v
    · rw [lehrWindowWrite_takes h v]
      exact congrArg (fun u => Host.Outcome.next (settle u)) (if_neg fun hc => hw hc.symm)

end Sys2Proof.Machine
end

section
/-! SUPPORT. O16: what a full reset, a cold reset and a lost HBM supply leave, and how a start begins (R478 to R484, R545, R551,
R553). -/

namespace Sys2Proof.Machine

/-! ### Tables filtered by key -/

theorem Tab.get_kept {α : Type} (d : Nat → α) (t : Tab α) (keep : Nat → Bool) (k : Nat) :
    Tab.get d (t.filter fun e => keep e.1) k = if keep k then Tab.get d t k else d k := by
  have hclear : (t.filter fun e => keep e.1) = Tab.clear t fun k => !keep k := by simp [Tab.clear]
  rw [hclear, Tab.get_clear]
  cases keep k <;> rfl

theorem State.ifDo_keeps {I : State → Prop} {s : State} {f : State → State} (c : Bool) (hs : I s) (hf : ∀ u, I u → I (f u)) :
    I (s.ifDo c f) := by
  cases c with
  | false => exact hs
  | true => exact hf s hs

/-! ### Changes of registers alone -/

/-- `t` differs from `s` in registers alone. -/
def State.RegsOnly (s t : State) : Prop := t = { s with regs := t.regs }

section
variable {s t : State} (h : s.RegsOnly t)

theorem State.RegsOnly.refl (s : State) : s.RegsOnly s := rfl

include h

theorem State.RegsOnly.wr (p off : Nat) (v : W32) (w : Nat) : s.RegsOnly (t.wr p off v w) := by
  have := congrArg (fun x : State => { x with regs := (t.wr p off v w).regs }) h
  exact this
theorem State.RegsOnly.setFld (p : Nat) (f : Fld) (v w : Nat) : s.RegsOnly (t.setFld p f v w) := h.wr _ _ _ _
theorem State.RegsOnly.raise (p i : Nat) : s.RegsOnly (t.raise p i) := h.wr _ _ _ _

end

/-! ### Full reset (R478, R481, R482) -/

/-- What the assertion steps of a full reset leave beside the registers (R482), nothing being held for the lehr and no flash
operation in progress. -/
structure State.ResetLeft (s t : State) : Prop where
  boot : t.boot = { warm := true, record := s.boot.record, pbRecord := s.boot.pbRecord, burn := s.boot.burn }
  memories : t.lehr.mem = s.lehr.mem ∧ t.flash = s.flash ∧ t.fuse = s.fuse ∧ t.hostMem = s.hostMem
  pending : t.pending = s.pending
  lost : t.queue = [] ∧ t.tabs = [] ∧ t.buf = [] ∧ t.link = [] ∧ t.tx = [] ∧ t.rx = [] ∧ t.bank = []
  dev : t.dev.st = 0

/-- A full reset keeps the counters of the BOOT page. -/
theorem State.keptCtr_boot (s : State) {off : Nat} (h : off < 4096) : s.keptCtr (rkey pgBoot off 0) = true := by
  have hpage : rkey pgBoot off 0 / 4096 / 1024 = pgBoot := rkey_page h (by norm_num)
  rw [State.keptCtr, hpage, beq_self_eq_true, Bool.or_true]

theorem State.assertReset_leaves {s : State} (hhold : s.flag pgLehr Reg.LEHR.LCTRL_HOLD = false) (hflash : s.boot.flash = none) :
    s.ResetLeft s.assertReset ∧ ∀ off < 4096, s.assertReset.ctr pgBoot off = s.ctr pgBoot off := by
  have hs0 : s.flashAbandon = s := by rw [State.flashAbandon, hflash]
  unfold State.assertReset
  extract_lets s0 heldLehr s1 freshLehr pins t t1 t2
  have hs1 : s1 = s := by
    refine (if_neg fun hc => ?_).trans hs0
    rw [show s0 = s from hs0, hhold] at hc
    exact Bool.noConfusion hc
  have h2 : t.RegsOnly t2 :=
    State.each_keeps _ (((State.RegsOnly.refl t).wr _ _ _ _).wr _ _ _ _) fun u c _ hu => hu.setFld _ _ _ _
  clear_value t2
  suffices left : ∀ u, t.RegsOnly u → s.ResetLeft u ∧ ∀ off < 4096, u.ctr pgBoot off = s.ctr pgBoot off by
    refine left _ (State.each_keeps _ h2 fun u h _ hu => ?_)
    exact State.ifDo_keeps _ (((hu.setFld _ _ _ _).setFld _ _ _ _).setFld _ _ _ _) fun v hv => hv.raise _ _
  intro u hu
  rw [hu]
  have hmem : s1.lehr.mem = s.lehr.mem := congrArg (·.lehr.mem) hs1
  have hrom : s1.flash = s.flash := congrArg State.flash hs1
  have hhost : s1.hostMem = s.hostMem := congrArg State.hostMem hs1
  have hpend : s1.pending = s.pending := congrArg State.pending hs1
  refine ⟨⟨rfl, ⟨hmem, hrom, rfl, hhost⟩, hpend, ⟨rfl, rfl, rfl, rfl, rfl, rfl, rfl⟩, rfl⟩, fun off hoff => ?_⟩
  refine (Tab.get_kept _ _ _ _).trans ((if_pos (s.keptCtr_boot hoff)).trans ?_)
  exact congrArg (fun x : State => Tab.get zeroCtr x.ctrs _) hs1

/-- The registers and counters that name the source of a full reset. -/
theorem State.fullReset_eq {s : State} {src : Nat} (h : s.dev.st ≠ 3) (hsrc : src ≠ 5 ∧ src ≠ 6) : s.fullReset src =
    if s.boot.warm && (s.boot.asserted || s.starting) then s.assertReset
    else (s.assertReset.wr pgBoot Reg.BOOT.RSTCAUSE.off (BitVec.ofNat 32 (2 ^ 30 + src * 2 ^ 26))).bump pgBoot
      Reg.BOOT.FULL_RESETS := by
  unfold State.fullReset
  dsimp only
  rw [if_neg h, if_neg hsrc.1, if_neg hsrc.2]

theorem State.ResetLeft.settle {s t : State} (h : s.ResetLeft t) : s.ResetLeft (settle t) := by
  rw [settle_frame]
  exact ⟨h.boot, h.memories, h.pending, h.lost, h.dev⟩

theorem State.fullReset_leaves {s : State} (hdev : s.dev.st ≠ 3) (hhold : s.flag pgLehr Reg.LEHR.LCTRL_HOLD = false)
    (hflash : s.boot.flash = none) : s.ResetLeft (s.fullReset 1) ∧
      (s.boot.warm = false ∨ s.boot.asserted = false ∧ s.starting = false →
        (s.fullReset 1).rd pgBoot Reg.BOOT.RSTCAUSE.off = 0x44000000 ∧
        (s.fullReset 1).ctr pgBoot Reg.BOOT.FULL_RESETS = s.ctr pgBoot Reg.BOOT.FULL_RESETS + 1) := by
  obtain ⟨left, hctr⟩ := State.assertReset_leaves hhold hflash
  rw [State.fullReset_eq hdev (by norm_num)]
  split
  · next hagain =>
    refine ⟨left, fun hnew => ?_⟩
    obtain hwarm | ⟨hout, hidle⟩ := hnew
    · simp [hwarm] at hagain
    · simp [hout, hidle] at hagain
  · refine ⟨⟨left.boot, left.memories, left.pending, left.lost, left.dev⟩, fun _ => ⟨?_, ?_⟩⟩
    · rw [State.rd_bump, State.rd_wr_same]
      decide
    · exact (State.ctr_bump_same _ _ _).trans (congrArg (· + 1) (hctr Reg.BOOT.FULL_RESETS (by decide)))

/-- RESET_PIN also notes the pin low. -/
theorem resetPin_leaves {s : State} (hdev : s.dev.st ≠ 3) (hhold : s.flag pgLehr Reg.LEHR.LCTRL_HOLD = false)
    (hflash : s.boot.flash = none) : s.ResetLeft (settle (resetPin s)) ∧ (settle (resetPin s)).pins.resetLow = true ∧
      (s.boot.warm = false ∨ s.boot.asserted = false ∧ s.starting = false →
        (settle (resetPin s)).rd pgBoot Reg.BOOT.RSTCAUSE.off = 0x44000000 ∧
        (settle (resetPin s)).ctr pgBoot Reg.BOOT.FULL_RESETS = s.ctr pgBoot Reg.BOOT.FULL_RESETS + 1) := by
  obtain ⟨left, hnew⟩ := State.fullReset_leaves hdev hhold hflash
  have leftPin : s.ResetLeft (resetPin s) := ⟨left.boot, left.memories, left.pending, left.lost, left.dev⟩
  refine ⟨leftPin.settle, by rw [settle_pins]; rfl, fun hstart => ?_⟩
  rw [settle_rd, settle_ctr_page _ (by decide) (by decide) (by norm_num)]
  exact hnew hstart

/-! ### Cold reset (R480, R551) -/

/-- With no vector active, settling sends nothing. -/
theorem settle_quiet {s : State} (h : s.vectors = 0) :
    settle s = { s with irq := { s.irq with active := 0, pba := s.irq.pba &&& 0 } } := by
  have hrise : ((List.range 64).filter fun v => bit ((BitVec.ofNat 64 0 &&& ~~~ s.irq.active) : W64).toNat v) = [] := by
    simp [bit]
  unfold settle
  dsimp only
  rw [h, hrise]
  rfl

/-- A state whose registers are factory's but for FUSE has no pending page and no pending ring. -/
theorem State.vectors_coldReset (s : State) : s.coldReset.vectors = 0 := by
  have hpages : s.coldReset.statusPages = [] := by
    refine List.map_eq_nil_iff.2 (List.filter_eq_nil_iff.2 fun e he => ?_)
    obtain ⟨-, hkey⟩ := List.mem_filter.1 he
    rw [eq_of_beq hkey]
    decide
  have hword : ∀ i < 32, s.coldReset.rd (ringPage i) Reg.TXRING.CFG_IRQ_EN.off =
      factory (rkey (ringPage i) Reg.TXRING.CFG_IRQ_EN.off 0) := by
    intro i hi
    refine (Tab.get_kept factory s.regs (· == rkey pgBoot Reg.BOOT.FUSE.off 0) _).trans (if_neg ?_)
    have other : ∀ i < 32, ¬ (rkey (ringPage i) Reg.TXRING.CFG_IRQ_EN.off 0 == rkey pgBoot Reg.BOOT.FUSE.off 0) = true := by decide
    exact other i hi
  have hquiet : ∀ i < 32, bits (factory (rkey (ringPage i) Reg.TXRING.CFG_IRQ_EN.off 0)).toNat
      Reg.TXRING.CFG_IRQ_EN.hi Reg.TXRING.CFG_IRQ_EN.lo ≠ 1 := by decide
  unfold State.vectors
  rw [hpages]
  refine List.foldlRecOn (motive := (· = 0)) _ _ rfl fun m hm i hi => ?_
  refine (if_neg ?_).trans hm
  have hi := List.mem_range.1 hi
  simp [State.ringPending, State.flag, State.fld, hword i hi, hquiet i hi]

/-- Settling sends nothing in cold reset. -/
theorem settle_coldReset (s : State) : settle s.coldReset =
    { s.coldReset with irq := { s.coldReset.irq with active := 0, pba := s.coldReset.irq.pba &&& 0 } } :=
  settle_quiet s.vectors_coldReset

theorem State.coldReset_flash {s : State} (hflash : s.boot.flash = none) : s.coldReset.flash = s.flash := by
  have hkept : s.flashAbandon = s := by rw [State.flashAbandon, hflash]
  have hflash : s.flashAbandon.flash = s.flash := congrArg State.flash hkept
  exact hflash

theorem State.coldReset_word (s : State) (k : Nat) : Tab.get factory s.coldReset.regs k =
    if k = rkey pgBoot Reg.BOOT.FUSE.off 0 then Tab.get factory s.regs k else factory k := by
  refine (Tab.get_kept factory s.regs (· == rkey pgBoot Reg.BOOT.FUSE.off 0) k).trans ?_
  simp only [beq_iff_eq]

/-! ### A lost HBM supply (R429, R434, R553) -/

/-- A half as an HBM rail is lost: its image is kept no more. -/
def State.supplyLost (s : State) (h : Nat) : State :=
  let s1 := s.onHalf h fun x => { x with kept := none, armed := false, copied := false }
  if s.flag (pgHalf h) Reg.CRUCH.IMG_STAT_VALID then
    (s1.setFld (pgHalf h) Reg.CRUCH.IMG_STAT_VALID 0).raise (pgHalf h) 4
  else s1

/-- What left the rest alone leaves it alone beside other halves. -/
theorem Touches.withHalf {s t : State} {P : Nat → Prop} (h : Touches s t P) (m : Tab HalfSt) :
    Touches { s with half := m } { t with half := m } P :=
  ⟨congrArg (fun x : State => { x with half := m }) h.rest, h.regs, h.ctrs, h.rings⟩

theorem State.supplyLost_half (s : State) (h k : Nat) : (s.supplyLost h).halfAt k =
    if k = h then { s.halfAt k with kept := none, armed := false, copied := false } else s.halfAt k := by
  have hon : (s.onHalf h fun x => { x with kept := none, armed := false, copied := false }).halfAt k =
      if k = h then { s.halfAt k with kept := none, armed := false, copied := false } else s.halfAt k := by
    refine (Tab.get_set _ _ _ _ _).trans ?_
    split
    · next e => rw [e]
    · rfl
  have hhalf : (s.supplyLost h).half = (s.onHalf h fun x => { x with kept := none, armed := false, copied := false }).half := by
    unfold State.supplyLost
    split
    · rw [State.raise_half, State.setFld_half]
    · rfl
  rw [State.halfAt, hhalf]
  exact hon

theorem State.supplyLost_image (s : State) (h : Nat) :
    (s.supplyLost h).flag (pgHalf h) Reg.CRUCH.IMG_STAT_VALID = false ∧
      (s.flag (pgHalf h) Reg.CRUCH.IMG_STAT_VALID = true → (s.supplyLost h).caused (pgHalf h) 4) := by
  unfold State.supplyLost
  split
  · refine ⟨?_, fun _ => State.caused_raise _ (by norm_num)⟩
    rw [State.flag_raise_word _ _ _ (by decide), State.flag_setFld_same _ _ _ (by decide)]
    rfl
  · next hvalid => exact ⟨Bool.eq_false_iff.2 hvalid, fun hv => absurd hv hvalid⟩

theorem State.supplyLost_touches (s : State) (h : Nat) :
    Touches { s with half := (s.supplyLost h).half } (s.supplyLost h) (· = pgHalf h) := by
  unfold State.supplyLost
  split
  · exact ((Touches.refl (s.onHalf h fun x => { x with kept := none, armed := false, copied := false }) (· = pgHalf h)).put
      (f := Reg.CRUCH.IMG_STAT_VALID) 0 rfl (by decide)).raise _ 4 rfl
  · exact Touches.refl _ _

theorem State.supplyLost_pins (s : State) (h : Nat) : (s.supplyLost h).pins = s.pins :=
  (congrArg State.pins (s.supplyLost_touches h).rest).trans rfl

/-- The other half's page is left. -/
theorem State.supplyLost_rd (s : State) {h p off : Nat} (hp : p ≠ pgHalf h) (ho : off < 4096) :
    (s.supplyLost h).rd p off = s.rd p off :=
  (s.supplyLost_touches h).regs p off 0 ho (by norm_num) hp

/-- Settles the two halves one after another. -/
theorem hbmSupplyLoss_spec (s : State) : let t := hbmSupplyLoss s
    t.pins = { s.pins with hbmLost := true } ∧
      (∀ h, t.halfAt h = if h < 2 then { s.halfAt h with kept := none, armed := false, copied := false } else s.halfAt h) ∧
      (∀ h, h < 2 → t.flag (pgHalf h) Reg.CRUCH.IMG_STAT_VALID = false ∧
        (s.flag (pgHalf h) Reg.CRUCH.IMG_STAT_VALID = true → t.caused (pgHalf h) 4)) ∧
      Touches { s with pins := t.pins, half := t.half } t (fun p => p = pgHalf 0 ∨ p = pgHalf 1) := by
  let a : State := { s with pins := { s.pins with hbmLost := true } }
  let u := a.supplyLost 0
  have hrun : hbmSupplyLoss s = u.supplyLost 1 := rfl
  have h01 : pgHalf 0 ≠ pgHalf 1 := by decide
  have t0 := a.supplyLost_touches 0
  have t1 := u.supplyLost_touches 1
  dsimp only
  rw [hrun]
  have hpins : (u.supplyLost 1).pins = a.pins := (u.supplyLost_pins 1).trans (a.supplyLost_pins 0)
  refine ⟨hpins, fun h => ?_, fun h hh => ?_, ?_⟩
  · rw [State.supplyLost_half, State.supplyLost_half]
    obtain rfl | rfl | hh : h = 0 ∨ h = 1 ∨ 2 ≤ h := by omega
    · rfl
    · rfl
    · rw [if_neg (by omega), if_neg (by omega), if_neg (by omega)]
      rfl
  · obtain rfl | rfl : h = 0 ∨ h = 1 := by omega
    · obtain ⟨hvalid, hcause⟩ := a.supplyLost_image 0
      refine ⟨?_, fun hwas => ?_⟩
      · rw [← hvalid]
        exact State.flag_of_fld (congrArg (fun w : W32 => bits w.toNat _ _) (State.supplyLost_rd u h01 (by decide)))
      · have h4 := hcause hwas
        unfold State.caused at h4 ⊢
        rwa [State.supplyLost_rd u h01 (by norm_num)]
    · obtain ⟨hvalid, hcause⟩ := u.supplyLost_image 1
      refine ⟨hvalid, fun hwas => hcause ?_⟩
      rw [← hwas]
      exact State.flag_of_fld (congrArg (fun w : W32 => bits w.toNat _ _) (State.supplyLost_rd a h01.symm (by decide)))
  · have hfirst : Touches { s with pins := (u.supplyLost 1).pins, half := (u.supplyLost 1).half }
        { u with half := (u.supplyLost 1).half } (· = pgHalf 0) := by
      rw [hpins]
      exact t0.withHalf (u.supplyLost 1).half
    exact (hfirst.mono fun _ => Or.inl).trans (t1.mono fun _ => Or.inr)

/-! ### Starts (R480, R484, R545) -/

/-- A start's first step: reset is no longer asserted, and the host, gaffer and always-on domains are ON. -/
def State.startBase (s : State) (warm : Bool) : State :=
  { s with
    boot := { s.boot with asserted := false, warm := warm },
    pins := { s.pins with resetLow := false, hbmLost := false },
    dom := (Tab.set (fun _ => ({} : DomSt)) (Tab.set (fun _ => ({} : DomSt)) (Tab.set (fun _ => ({} : DomSt)) s.dom domHost {})
      domGaffer {}) domAon {}) }

/-- The start's stage and I2C address, before the clusters draw their keys. -/
def State.startStaged (s : State) (warm : Bool) : State :=
  ((s.startBase warm).setStage 1).setFld pgHost Reg.HOST.I2C_CFG_ADDR (0x2C + s.pins.strap)

/-- A start beyond its keys: the sensors' first readings and the link's speed and width, from free values. -/
theorem State.beginStart_eq (s : State) (warm : Bool) : ∃ (n : Nat) (now : Readings) (speed width : Nat), s.beginStart warm =
    ((State.sense { (s.startStaged warm).each (List.range 4) State.drawKey with nonce := n } now).setFld pgHost
      Reg.HOST.HSTAT_LINK_SPEED speed).setFld pgHost Reg.HOST.HSTAT_LINK_WIDTH width := by
  have next {u t : State} {w v : Nat} (h : u.free w = (v, t)) : t = { u with nonce := t.nonce } := by
    obtain rfl : (u.free w).2 = t := congrArg Prod.snd h
    rfl
  unfold State.beginStart
  extract_lets boot pins s1 s2
  split
  next v s3 h8 =>
  split
  next hot s4 h24 =>
  split
  next speed width hlink =>
  let now : Readings := { a := BitVec.ofNat 8 hot, b := BitVec.ofNat 8 (hot / 256), aon := BitVec.ofNat 8 (hot / 65536) }
  have hs4 : s4 = { s2 with nonce := s4.nonce } :=
    (next h24).trans (congrArg (fun x : State => { x with nonce := s4.nonce }) (next h8))
  exact ⟨s4.nonce, now, speed, width, congrArg (fun x : State => ((x.sense now).setFld pgHost Reg.HOST.HSTAT_LINK_SPEED
    speed).setFld pgHost Reg.HOST.HSTAT_LINK_WIDTH width) hs4⟩

theorem State.drawKeys_keep (s : State) : let t := s.each (List.range 4) State.drawKey
    t.regs = s.regs ∧ t.boot = s.boot ∧ t.dev = s.dev ∧ t.dom = s.dom ∧ t.pins = s.pins :=
  State.each_keeps (I := fun t => t.regs = s.regs ∧ t.boot = s.boot ∧ t.dev = s.dev ∧ t.dom = s.dom ∧ t.pins = s.pins) _
    ⟨rfl, rfl, rfl, rfl, rfl⟩ fun _ _ _ h => h

theorem State.startBase_domains (s : State) (warm : Bool) : (s.startBase warm).domAt domHost = {} ∧
    (s.startBase warm).domAt domGaffer = {} ∧ (s.startBase warm).domAt domAon = {} := by
  have hg : domGaffer ≠ domAon := by decide
  have hha : domHost ≠ domAon := by decide
  have hhg : domHost ≠ domGaffer := by decide
  simp [State.domAt, State.startBase, Tab.get_set_ne _ _ _ hg, Tab.get_set_ne _ _ _ hha, Tab.get_set_ne _ _ _ hhg]

/-- What a start that begins leaves for its stages. -/
theorem State.beginStart_spec (s : State) (warm : Bool) : let t := settle (s.beginStart warm)
    (t.boot.stage = 1 ∧ t.boot.warm = warm ∧ t.boot.asserted = false) ∧ t.dev = s.dev ∧
      (t.pins.strap = s.pins.strap ∧ t.pins.resetLow = false) ∧
      t.fld pgHost Reg.HOST.I2C_CFG_ADDR = (0x2C + s.pins.strap) % 2 ^ 7 ∧
      t.domAt domHost = {} ∧ t.domAt domGaffer = {} ∧ t.domAt domAon = {} := by
  obtain ⟨n, now, speed, width, hrun⟩ := s.beginStart_eq warm
  obtain ⟨hregs, hboot, hdev, hdom, hpins⟩ := (s.startStaged warm).drawKeys_keep
  generalize hk : (s.startStaged warm).each (List.range 4) State.drawKey = k at hrun hregs hboot hdev hdom hpins
  have hd (d : Nat) : (s.beginStart warm).domAt d = (s.startBase warm).domAt d := by
    rw [hrun, State.domAt, State.domAt]
    exact congrArg (fun x => Tab.get _ x d) hdom
  obtain ⟨hhost, hgaffer, haon⟩ := s.startBase_domains warm
  dsimp only
  rw [settle_boot, settle_fld, settle_pins, settle_domAt, settle_domAt, settle_domAt, hd, hd, hd]
  refine ⟨?_, ?_, ?_, ?_, hhost, hgaffer, haon⟩
  · rw [hrun]
    exact ⟨congrArg BootSt.stage hboot, congrArg BootSt.warm hboot, congrArg BootSt.asserted hboot⟩
  · rw [settle_frame, hrun]
    exact hdev
  · rw [hrun]
    have hp : k.pins = { s.pins with resetLow := false, hbmLost := false } := hpins
    have hstrap : k.pins.strap = s.pins.strap := by rw [hp]
    have hlow : k.pins.resetLow = false := by rw [hp]
    exact ⟨hstrap, hlow⟩
  · rw [hrun, State.fld_setFld_word _ _ _ (by decide), State.fld_setFld_word _ _ _ (by decide)]
    have hword : State.fld (State.sense { k with nonce := n } now) pgHost Reg.HOST.I2C_CFG_ADDR =
        (s.startStaged warm).fld pgHost Reg.HOST.I2C_CFG_ADDR := State.fld_congr hregs _ _ _
    rw [hword]
    exact State.fld_setFld_same _ _ _ _ _ (by decide) (by decide)

/-- Settles O16: resets and starts write their records in one step; settling sends nothing in cold reset, where no page is
pending. -/
theorem resetsAndStarts : Obligations.ResetsAndStarts := by
  refine ⟨⟨fun s => rfl, fun s hdev hhold hflash => ⟨_, rfl, ?_⟩, fun s hflash => ⟨_, rfl, ?_⟩, fun s => ⟨_, rfl, ?_⟩⟩,
    fun s k hcold => ⟨_, rfl, ?_⟩, fun s hreset hdev hburn => ⟨_, rfl, ?_⟩⟩
  · obtain ⟨left, hpin, hnew⟩ := resetPin_leaves hdev hhold hflash
    obtain ⟨hmem, hrom, hfuse, hhost⟩ := left.memories
    obtain ⟨hqueue, htabs, hbuf, hlink, htx, hrx, hbank⟩ := left.lost
    have hboot := left.boot
    exact ⟨hpin, congrArg BootSt.asserted hboot, congrArg BootSt.stage hboot, congrArg BootSt.warm hboot, hmem, hrom, hfuse,
      hhost, left.pending, hqueue, htabs, hbuf, hlink, htx, hrx, hbank, left.dev, hnew⟩
  · rw [aonSupplyLoss, settle_coldReset]
    have hword := s.coldReset_word
    exact ⟨rfl, State.coldReset_flash hflash, rfl, rfl, rfl, rfl, rfl, rfl, rfl, rfl, (hword _).trans (if_pos rfl),
      fun k hk => (hword k).trans (if_neg hk)⟩
  · obtain ⟨hpins, hhalf, himage, htouch⟩ := hbmSupplyLoss_spec s
    refine ⟨by rw [settle_pins, hpins], fun h => ?_, fun h hh => ?_, ?_⟩
    · rw [State.halfAt, settle_half]
      exact hhalf h
    · rw [settle_flag, settle_caused]
      exact himage h hh
    · rw [settle_pins, settle_half]
      exact htouch.settle
  · have hrun : coldStart k s = State.beginStart { s.coldReset with
        dev := {}, pins := { s.coldReset.pins with strap := k, sharedDown := false } } false := by
      refine if_pos ?_
      obtain h | ⟨ha, hw⟩ := hcold
      · exact .inl h
      · exact .inr ⟨ha, by simp [hw]⟩
    obtain ⟨⟨hstage, hwarm, hout⟩, hdev, ⟨hstrap, -⟩, haddr, hdoms⟩ := State.beginStart_spec { s.coldReset with
        dev := {}, pins := { s.coldReset.pins with strap := k, sharedDown := false } } false
    rw [hrun]
    have hlt := k.isLt
    exact ⟨hstage, hwarm, hout, hdev, hstrap, haddr.trans (Nat.mod_eq_of_lt (by dsimp only; omega)), hdoms⟩
  · have hrun : fullResetRelease s = s.beginStart s.boot.warm := if_pos ⟨hreset, hdev, hburn⟩
    obtain ⟨⟨hstage, hwarm, hout⟩, -, ⟨-, hlow⟩, -, hdoms⟩ := s.beginStart_spec s.boot.warm
    rw [hrun]
    exact ⟨hstage, hwarm, hout, hlow, hdoms⟩

end Sys2Proof.Machine
end

section
/-! SUPPORT. O17: the stages of a start (R484 to R497). What each stage's work leaves of the start's record; then the statement. -/

namespace Sys2Proof.Machine

/-! ### STAGE follows the work (R484, R497) -/

theorem State.setStage_boot (s : State) (n : Nat) : (s.setStage n).boot = { s.boot with stage := n } := by
  rw [State.setStage, State.setFld_boot]

theorem State.setStage_fld (s : State) {n : Nat} (h : n < 16) : (s.setStage n).fld pgBoot Reg.BOOT.STAGE_STAGE = n :=
  State.fld_setFld_fits _ _ (by decide) h

section
variable {s : State} (h : 3 ≤ s.boot.stage ∧ s.boot.stage ≤ 6)
include h

theorem State.startTrack_self (hself : s.boot.self = false) : s.startTrack = s.setStage 3 := by
  rw [State.startTrack, if_neg (by omega), if_pos (by simp [hself])]

variable (hself : s.boot.self = true)
include hself

theorem State.startTrack_hbm (hhbm : s.boot.hbm = false) : s.startTrack = s.setStage 4 := by
  rw [State.startTrack, if_neg (by omega), if_neg (by simp [hself]), if_pos (by simp [hhbm])]

variable (hhbm : s.boot.hbm = true)
include hhbm

theorem State.startTrack_patch (hpatch : s.boot.patch = false) : s.startTrack = s.setStage 5 := by
  rw [State.startTrack, if_neg (by omega), if_neg (by simp [hself]), if_neg (by simp [hhbm]), if_pos (by simp [hpatch])]

variable (hpatch : s.boot.patch = true)
include hpatch

theorem State.startTrack_restore (hwarm : s.boot.warm = true) (hnone : s.boot.restored = none) : s.startTrack = s.setStage 6 := by
  rw [State.startTrack, if_neg (by omega), if_neg (by simp [hself]), if_neg (by simp [hhbm]), if_neg (by simp [hpatch]),
    if_pos ⟨hwarm, by simp [hnone]⟩]

theorem State.startTrack_go (hdone : s.boot.restored = some true) (hauto : s.flag pgBoot Reg.BOOT.BCFG_AUTO_GO = true) :
    s.startTrack = s.goStart false := by
  rw [State.startTrack, if_neg (by omega), if_neg (by simp [hself]), if_neg (by simp [hhbm]), if_neg (by simp [hpatch]),
    if_neg (by simp [hdone]), if_pos ⟨hdone, hauto⟩]

theorem State.startTrack_config (hwarm : s.boot.warm = false) (hnone : s.boot.restored = none) :
    s.startTrack = (s.setStage 7).raise pgBoot 0 := by
  rw [State.startTrack, if_neg (by omega), if_neg (by simp [hself]), if_neg (by simp [hhbm]), if_neg (by simp [hpatch]),
    if_neg (by simp [hwarm]), if_neg (by simp [hnone])]

end

/-! ### Slots (R489, R491) -/

theorem State.directory_congr {s t : State} (h : t.flash = s.flash) : t.directory = s.directory := by
  have hcopy (a : Nat) : t.dirCopy a = s.dirCopy a := by
    unfold State.dirCopy State.flashBytes
    rw [h]
  unfold State.directory
  rw [hcopy, hcopy]


theorem State.noDirectory_keeps (s : State) : s.noDirectory.boot = s.boot ∧ s.noDirectory.image = s.image := by
  have h := State.each_keeps (I := fun u => u.boot = s.boot ∧ u.image = s.image)
    [verifyFld 0 0, verifyFld 0 1, verifyFld 1 0, verifyFld 1 1] ⟨rfl, rfl⟩
    (f := fun s f => s.setFld pgBoot f Config.noDirectory.toNat)
    fun u f _ hu => by rwa [State.setFld_boot, State.setFld_image]
  unfold State.noDirectory
  rwa [State.raise_boot, State.raise_image]

theorem State.trySlots_none {s : State} {kind : Nat} {code : Nat → Nat → Nat × Bool} (h : s.directory = none) :
    s.trySlots kind code = (none, s.noDirectory) := by rw [State.trySlots, h]

/-- Trying the slots writes VERIFY and raises a cause. -/
theorem State.trySlots_boot (s : State) (kind : Nat) (code : Nat → Nat → Nat × Bool) :
    (s.trySlots kind code).2.boot = s.boot := by
  unfold State.trySlots
  split
  · exact s.noDirectory_keeps.1
  · dsimp only
    refine List.foldlRecOn (motive := fun x : Option (Nat × Bool) × State => x.2.boot = s.boot) _ _ rfl fun x hx i _ => ?_
    split
    · exact hx
    · split
      · exact (State.setFld_boot _ _ _ _ _).trans hx
      · exact (State.raise_boot _ _ _).trans ((State.setFld_boot _ _ _ _ _).trans hx)

/-! ### Firmware (R491 to R493) -/

theorem firmwareVerifyDone_fails {s : State} {f0 f1 : SlotCheck} (hstage : s.boot.stage = 1 ∨ s.boot.stage = 2)
    (hup : s.pins.sharedDown = false) : let io := fun i : Nat => if i = 0 then f0.io else f1.io
    let tried := s.trySlots 0 fun i a => s.checkImage 0 a (io i) (io i) s.boot.record
    tried.1 = none → firmwareVerifyDone f0 f1 s = tried.2.setStage 15 := by
  intro io tried hnone
  unfold firmwareVerifyDone
  rw [if_neg (by rw [hup]; simp; omega)]
  dsimp only
  split
  next won d _ hwon _ => exact absurd (hnone.symm.trans hwon) (by simp)
  next => rfl

theorem firmwareVerifyDone_passes {s : State} {f0 f1 : SlotCheck} (hstage : s.boot.stage = 1 ∨ s.boot.stage = 2)
    (hup : s.pins.sharedDown = false) : let io := fun i : Nat => if i = 0 then f0.io else f1.io
    let tried := s.trySlots 0 fun i a => s.checkImage 0 a (io i) (io i) s.boot.record
    tried.1.isSome = true → s.directory.isSome = true → ∃ u : State, firmwareVerifyDone f0 f1 s = u.setStage 3 := by
  intro io tried hwon hdir
  unfold firmwareVerifyDone
  rw [if_neg (by rw [hup]; simp; omega)]
  dsimp only
  split
  next => exact ⟨_, rfl⟩
  next hno =>
    obtain ⟨⟨i, quick⟩, hi⟩ := Option.isSome_iff_exists.1 hwon
    obtain ⟨d, hd⟩ := Option.isSome_iff_exists.1 hdir
    exact absurd hd (hno i quick d hi)

/-! ### Self-test and the HBM (R429, R486, R487) -/

section
variable {s : State} (hstage : s.boot.stage = 3) (hself : s.boot.self = false)
  (hrest : ∀ d, d < 112 → (s.domAt d).trans = none) (hup : s.pins.sharedDown = false)
include hstage hself hrest hup

theorem selftestDone_ready : ¬ (s.boot.stage ≠ 3 ∨ s.boot.self = true ∨
    ((!(List.range 112).all fun d => (s.domAt d).trans.isNone) = true) ∨ s.pins.sharedDown = true) := by
  have hall : ((List.range 112).all fun d => (s.domAt d).trans.isNone) = true :=
    List.all_eq_true.2 fun d hd => by rw [hrest d (List.mem_range.1 hd)]; rfl
  rw [hall, hstage, hself, hup]
  simp

theorem selftestDone_passed (bad : Option (Fin 34)) (h : bad = none ∨ s.boot.warm = true) : selftestDone bad s =
    State.startTrack { s.setFld pgBoot Reg.BOOT.STAGE_BIST_FAIL 0xFF with
      boot := { (s.setFld pgBoot Reg.BOOT.STAGE_BIST_FAIL 0xFF).boot with self := true } } := by
  unfold selftestDone
  dsimp only
  rw [if_neg (selftestDone_ready hstage hself hrest hup)]
  split
  next hcold => exact absurd h (by simp [hcold])
  next => rfl

theorem selftestDone_failed (g : Fin 34) (hcold : s.boot.warm = false) : selftestDone (some g) s =
    (s.setFld pgBoot Reg.BOOT.STAGE_BIST_FAIL g).setStage 15 := by
  unfold selftestDone
  dsimp only
  rw [if_neg (selftestDone_ready hstage hself hrest hup), hcold]

end

theorem State.imageLost_spec (s : State) (t : Nat) : (s.imageLost t).flag (pgHalf t) Reg.CRUCH.IMG_STAT_VALID = false ∧
    (s.imageLost t).caused (pgHalf t) 4 ∧ ((s.imageLost t).halfAt t).kept = none := by
  refine ⟨?_, State.caused_raise _ (by norm_num), ?_⟩
  · rw [State.imageLost, State.onHalf_eq, State.flag_raise_word _ _ _ (by decide), State.flag_congr (State.putHalf_regs _ _ _),
      State.flag_setFld_same _ _ _ (by decide)]
    rfl
  · rw [State.imageLost, State.halfAt, State.raise_half]
    exact congrArg HalfSt.kept (Tab.get_set_same _ _ _ _)

/-- The state as the HBM is noted. -/
def State.hbmNoted (s : State) (lost : List Nat) : State :=
  let u := (s.each lost State.imageLost).setFld pgPhy Reg.CRUCP.PHY_STAT_LOCKED (b2n (s.domOn domPhy))
  { u with boot := { u.boot with hbm := true } }

theorem hbmInitDone_eq {s : State} (late : List ChanId) (hlo : 3 ≤ s.boot.stage) (hhi : s.boot.stage ≤ 6)
    (hhbm : s.boot.hbm = false) (hup : s.pins.sharedDown = false)
    (hrest : ∀ d ∈ [domPhy, domHalf 0, domHalf 1], (s.domAt d).trans = none)
    (hset : ∀ c, c < 32 → s.domOn (domHalf (c / 16)) = true → s.domOn domPhy = true → s.halfState (c / 16) ≠ 4 →
      s.chSettled c = true) : hbmInitDone late s = (s.hbmNoted ([0, 1].filter fun t =>
        s.flag (pgHalf t) Reg.CRUCH.IMG_STAT_VALID && late.any fun c => c.val / 16 == t)).startTrack := by
  have hdoms : ([domPhy, domHalf 0, domHalf 1].all fun d => (s.domAt d).trans.isNone) = true :=
    List.all_eq_true.2 fun d hd => by rw [hrest d hd]; rfl
  have hchans : ((List.range 32).all fun c =>
      !(s.domOn (domHalf (c / 16)) && s.domOn domPhy && s.halfState (c / 16) != 4) || s.chSettled c) = true := by
    refine List.all_eq_true.2 fun c hc => ?_
    by_cases hlive : s.domOn (domHalf (c / 16)) = true ∧ s.domOn domPhy = true ∧ s.halfState (c / 16) ≠ 4
    · rw [hset c (List.mem_range.1 hc) hlive.1 hlive.2.1 hlive.2.2, Bool.or_true]
    · rw [Bool.or_eq_true, Bool.not_eq_true', Bool.eq_false_iff]
      refine .inl fun h => hlive ?_
      simpa [and_assoc] using h
  unfold hbmInitDone
  dsimp only
  rw [if_neg (by rw [hdoms, hchans, hhbm, hup]; simp; omega)]
  rfl

/-! ### The patch (R142, R495, R496) -/

theorem State.applyRec_boot (s : State) (r : PatchRec) : (s.applyRec r).boot = s.boot := by
  unfold State.applyRec
  dsimp only
  refine List.foldlRecOn (motive := fun u : State => u.boot = s.boot) _ _ rfl fun u hu i _ => ?_
  split
  · exact hu
  · exact hu
  · exact hu
  · exact State.each_keeps (I := fun u => u.boot = s.boot) _ hu fun v b _ hv => hv

/-- Benches each marked on its own page are marked at the end. -/
theorem State.each_marks {f : State → Nat → State} {mark : Fld} (hmark : mark.off < 4096) (l : List Nat)
    (hl : ∀ b ∈ l, b < 8) (sets : ∀ u b, (f u b).flag (pgMarver b) mark = true)
    (own : ∀ u b, Touches u (f u b) (· = pgMarver b)) :
    ∀ s : State, ∀ b, b < 8 → b ∈ l ∨ s.flag (pgMarver b) mark = true → (s.each l f).flag (pgMarver b) mark = true := by
  induction l with
  | nil => intro s b _ h; exact h.resolve_left (List.not_mem_nil)
  | cons c l ih =>
    intro s b hb h
    refine ih (fun x hx => hl x (List.mem_cons_of_mem _ hx)) (f s c) b hb ?_
    by_cases hbc : b = c
    · exact .inr (hbc ▸ sets s c)
    · refine (h.imp (fun hm => (List.mem_cons.1 hm).resolve_left hbc) fun hm => ?_)
      have hpage : ¬ pgMarver b = pgMarver c := by unfold pgMarver; omega
      rw [← hm]
      exact State.flag_of_fld (congrArg (fun w : W32 => bits w.toNat _ _) ((own s c).regs _ _ 0 hmark (by norm_num) hpage))

/-- A bench's page as its image is loaded. -/
def State.imageMarked (s : State) (crc b : Nat) : State :=
  (s.wr (pgMarver b) Reg.MARVER.CS_CRC.off (BitVec.ofNat 32 crc)).setFld (pgMarver b) Reg.MARVER.IMGSTAT_LOADED 1

theorem State.imageMarked_touches (s : State) (crc b : Nat) : Touches s (s.imageMarked crc b) (· = pgMarver b) :=
  ((Touches.refl s (· = pgMarver b)).wr _ _ _ 0 rfl (by decide) (by norm_num)).put (f := Reg.MARVER.IMGSTAT_LOADED) 1 rfl (by decide)

theorem State.imageMarked_loaded (s : State) (crc b : Nat) :
    (s.imageMarked crc b).flag (pgMarver b) Reg.MARVER.IMGSTAT_LOADED = true :=
  State.flag_setFld_same _ _ _ (by decide)

/-- A bundle's records applied, and each bench that is on marked: of the start's record only the bundle's own changes. -/
theorem State.patchApplied_boot (s : State) (r : ImageRecord) (recs : List PatchRec) (on : List Nat) (i svn img : Nat) :
    (State.each (((recs.foldl State.applyRec { s with boot := { s.boot with pbRecord := some r } }).setFld pgBoot
      Reg.BOOT.STAGE_PB_SLOT i).setFld pgBoot Reg.BOOT.RUNSVN_PB_SVN svn) on fun s b =>
        (s.wr (pgMarver b) Reg.MARVER.IMAGE.off (BitVec.ofNat 32 img)).setFld (pgMarver b)
          Reg.MARVER.IMGSTAT_PATCH_APPLIED 1).boot = { s.boot with pbRecord := some r } := by
  refine State.each_keeps (I := fun u => u.boot = { s.boot with pbRecord := some r }) _ ?_ fun u b _ hu => ?_
  · rw [State.setFld_boot, State.setFld_boot]
    exact List.foldlRecOn (motive := fun u : State => u.boot = { s.boot with pbRecord := some r }) _ _ rfl fun u hu r _ =>
      (u.applyRec_boot r).trans hu
  · rw [State.setFld_boot, State.wr_boot, hu]

theorem State.patchRejected_boot (s : State) (on : List Nat) : (s.each on fun s b =>
    (s.setFld (pgMarver b) Reg.MARVER.IMGSTAT_PATCH_REJECT 1).raise (pgMarver b) 7).boot = s.boot :=
  State.each_keeps (I := fun u => u.boot = s.boot) _ rfl fun u b _ hu => by rw [State.raise_boot, State.setFld_boot, hu]

theorem BootSt.own_record {t b : BootSt} {r : Option ImageRecord} (h : t = { b with pbRecord := r }) :
    t = { b with pbRecord := t.pbRecord } := by rw [h]

theorem patchLoadDone_loads {s : State} {p0 p1 : SlotCheck} {w0 w1 : Bool} (hlo : 3 ≤ s.boot.stage) (hhi : s.boot.stage ≤ 6)
    (hpatch : s.boot.patch = false) (hrest : ∀ b, b < 8 → (s.domAt (domIngress b)).trans = none)
    (hup : s.pins.sharedDown = false) : ∃ u : State, patchLoadDone p0 p1 w0 w1 s = u.startTrack ∧
      u.boot = { s.boot with patch := true, imgLost := [], pbRecord := u.boot.pbRecord } ∧
      (∀ b, b < 8 → s.domOn (domIngress b) = true → u.flag (pgMarver b) Reg.MARVER.IMGSTAT_LOADED = true) ∧
      (s.directory = none → u.image = {} ∧ u.boot.pbRecord = s.boot.pbRecord) := by
  have hready : ((List.range 8).all fun b => ((s.domAt (domIngress b)).trans).isNone) = true :=
    List.all_eq_true.2 fun b hb => by rw [hrest b (List.mem_range.1 hb)]; rfl
  unfold patchLoadDone
  extract_lets ready on boot0 base recs
  rw [if_neg (by rw [show ready = true from hready, hpatch, hup]; simp; omega)]
  have hbase : base.boot = { s.boot with imgLost := [] } ∧ base.image = {} ∧ base.flash = s.flash :=
    State.each_keeps (I := fun u => u.boot = { s.boot with imgLost := [] } ∧ u.image = {} ∧ u.flash = s.flash) on ⟨rfl, rfl, rfl⟩
      fun u b _ hu => State.each_keeps (I := fun u => u.boot = { s.boot with imgLost := [] } ∧ u.image = {} ∧ u.flash = s.flash) _
        hu fun v i _ hv => by rwa [State.wr_boot, State.wr_image, State.wr_flash]
  obtain ⟨hboot, himage, hflash⟩ := hbase
  clear_value base
  have hdir : base.directory = s.directory := State.directory_congr hflash
  split
  next won s1 htry =>
  have h1 : s1.boot = base.boot := by rw [← base.trySlots_boot 1 _, htry]
  extract_lets tried boot1 s2
  have h2 : s2.boot = { s1.boot with pbRecord := s2.boot.pbRecord } ∧
      (s.directory = none → s2.image = s1.image ∧ s2.boot = s1.boot) := by
    dsimp only [s2]
    split
    next i _ d _ hd =>
      exact ⟨BootSt.own_record (State.patchApplied_boot _ _ _ _ _ _ _),
        fun hnone => absurd (hd.symm.trans (hdir.trans hnone)) (by simp)⟩
    next =>
      split
      next htried =>
        refine ⟨BootSt.own_record (r := s1.boot.pbRecord) (State.patchRejected_boot _ _), fun hnone => absurd htried ?_⟩
        dsimp only [tried]
        rw [hdir, hnone]
        simp
      next => exact ⟨rfl, fun _ => ⟨rfl, rfl⟩⟩
  clear_value s2
  split
  next crc s3 hfree =>
  obtain rfl : (s2.free 32).2 = s3 := congrArg Prod.snd hfree
  extract_lets s4 boot4
  have h4 : s4.boot = s2.boot ∧ s4.image = s2.image :=
    State.each_keeps (I := fun u => u.boot = s2.boot ∧ u.image = s2.image) on ⟨rfl, rfl⟩ fun u b _ hu => by
      rwa [State.setFld_boot, State.setFld_image, State.wr_boot, State.wr_image]
  have hmarks (b : Nat) (hb : b < 8) (hon : s.domOn (domIngress b) = true) :
      s4.flag (pgMarver b) Reg.MARVER.IMGSTAT_LOADED = true :=
    State.each_marks (f := fun u b => u.imageMarked crc b) (by decide) on
      (fun x hx => List.mem_range.1 (List.mem_filter.1 hx).1) (fun u b => u.imageMarked_loaded crc b)
      (fun u b => u.imageMarked_touches crc b) _ b hb (.inl (List.mem_filter.2 ⟨List.mem_range.2 hb, hon⟩))
  have hrecord : s4.boot = { s.boot with imgLost := [], pbRecord := s2.boot.pbRecord } :=
    h4.1.trans (h2.1.trans (congrArg (fun x : BootSt => { x with pbRecord := s2.boot.pbRecord }) (h1.trans hboot)))
  clear_value s4
  refine ⟨_, rfl, ?_, hmarks, fun hnone => ?_⟩
  · dsimp only [boot4]
    rw [hrecord]
  · obtain ⟨himg, hsame⟩ := h2.2 hnone
    have hnoDir : s1 = base.noDirectory := by
      rw [State.trySlots_none (hdir.trans hnone)] at htry
      exact (congrArg Prod.snd htry).symm
    refine ⟨h4.2.trans (himg.trans ?_), ?_⟩
    · rw [hnoDir, base.noDirectory_keeps.2, himage]
    · show s4.boot.pbRecord = _
      rw [h4.1, hsame, h1, hboot]

/-! ### The restore (R430, R497) -/

theorem State.imageAccess_boot (s : State) (c n : Nat) : (s.imageAccess c n).boot = s.boot := rfl

theorem State.imageLost_boot (s : State) (t : Nat) : (s.imageLost t).boot = s.boot := by
  rw [State.imageLost, State.raise_boot, State.onHalf_eq, State.putHalf_boot, State.setFld_boot]

theorem State.restoreTables_boot (s : State) (t : Nat) (img : TableImage) : (s.restoreTables t img).boot = s.boot := by
  unfold State.restoreTables
  extract_lets s1 a s2 s3
  have h1 : s1.boot = s.boot :=
    List.foldlRecOn (motive := fun u : State => u.boot = s.boot) _ _ rfl fun u hu i _ => by
      split
      · rwa [State.onTabs_eq, State.putTabs_boot]
      · exact hu
  have h3 : s3.boot = s1.boot := by
    rw [State.setFld_boot]
    exact State.putTeam_boot _ _ _
  refine State.each_keeps (I := fun u => u.boot = s.boot) _ ?_ fun u c _ hu => (u.imageAccess_boot c _).trans hu
  rw [State.onHalf_eq, State.putHalf_boot, h3, h1]

theorem State.restoreTeam_boot (s : State) (t : Nat) (bad : Bool) : (s.restoreTeam t bad).2.boot = s.boot := by
  unfold State.restoreTeam
  split
  · exact s.imageLost_boot t
  · split
    · exact (State.imageLost_boot _ t).trans (State.bump_boot _ _ _ _)
    · exact (State.setFld_boot _ _ _ _ _).trans (s.restoreTables_boot t _)

/-- A block that is bad in both copies loses its team's image. -/
theorem State.restoreTeam_bad (s : State) (t : Nat) : (s.restoreTeam t true).1 = false := by
  unfold State.restoreTeam
  split
  · rfl
  · rw [if_pos (.inl rfl)]

theorem restoreDone_notes {s : State} (a b : Bool) (hwarm : s.boot.warm = true) (hself : s.boot.self = true)
    (hhbm : s.boot.hbm = true) (hnone : s.boot.restored = none) (hstage : s.boot.stage ≤ 6) (hup : s.pins.sharedDown = false) :
    ∃ (u : State) (ok : Bool), restoreDone a b s = u.startTrack ∧ u.boot = { s.boot with restored := some ok } ∧
      (s.lehrValid = false → ok = false) ∧ (a = true ∨ b = true → ok = false) := by
  unfold restoreDone
  rw [if_neg (by rw [hwarm, hself, hhbm, hnone, hup]; simp; omega)]
  by_cases hvalid : s.lehrValid = true
  · rw [if_neg (by simp [hvalid])]
    refine ⟨_, (s.restoreTeam 0 a).1 && ((s.restoreTeam 0 a).2.restoreTeam 1 b).1, rfl, ?_,
      fun h => absurd (hvalid.symm.trans h) (by decide), ?_⟩
    · exact congrArg (fun x : BootSt =>
          { x with restored := some ((s.restoreTeam 0 a).1 && ((s.restoreTeam 0 a).2.restoreTeam 1 b).1) })
        ((State.restoreTeam_boot _ 1 b).trans (s.restoreTeam_boot 0 a))
    · rintro (rfl | rfl)
      · exact Bool.and_eq_false_iff.2 (.inl (s.restoreTeam_bad 0))
      · exact Bool.and_eq_false_iff.2 (.inr (State.restoreTeam_bad _ 1))
  · rw [if_pos (by simp [hvalid])]
    refine ⟨_, false, rfl, ?_, fun _ => rfl, fun _ => rfl⟩
    refine congrArg (fun x : BootSt => { x with restored := some false })
      (State.each_keeps (I := fun u => u.boot = s.boot) [0, 1] rfl fun u t _ hu => ?_)
    rwa [State.onHalf_eq, State.putHalf_boot, State.setFld_boot]

/-- Settles O17: each stage's work leaves a record of the start that startTrack reads. -/
theorem startStages : Obligations.StartStages := by
  refine ⟨fun s f0 f1 hstage hup => ⟨fun hnone => ?_, fun hwon hdir => ?_⟩,
    fun s hstage hself hrest hup => ⟨?_, fun g => ⟨fun hwarm => ?_, fun hcold => ?_⟩⟩,
    fun s late hlo hhi hhbm hup hrest hset => ⟨fun t _ => s.imageLost_spec t, ?_⟩,
    fun s p0 p1 w0 w1 hlo hhi hpatch hrest hup => ?_, fun s a b hwarm hself hhbm hnone hstage hup => ?_,
    fun s hlo hhi => ⟨fun hself => ?_, fun hself hhbm => ?_, fun hself hhbm hpatch => ?_,
      fun hself hhbm hpatch hwarm hnone => ?_, fun hself hhbm hpatch _ hdone hauto => ?_,
      fun hself hhbm hpatch hcold hnone => ?_⟩⟩
  · exact congrArg finish (firmwareVerifyDone_fails hstage hup hnone)
  · obtain ⟨u, hu⟩ := firmwareVerifyDone_passes hstage hup hwon hdir
    refine ⟨_, congrArg finish hu, ?_, ?_⟩
    · rw [settle_boot, State.setStage_boot]
    · exact (settle_fld _ _ _ _).trans (u.setStage_fld (by norm_num))
  · exact congrArg finish (selftestDone_passed hstage hself hrest hup none (.inl rfl))
  · exact congrArg finish (selftestDone_passed hstage hself hrest hup (some g) (.inr hwarm))
  · exact congrArg finish (selftestDone_failed hstage hself hrest hup g hcold)
  · exact congrArg finish (hbmInitDone_eq late hlo hhi hhbm hup hrest hset)
  · obtain ⟨u, hu, hrecord⟩ := patchLoadDone_loads (p0 := p0) (p1 := p1) (w0 := w0) (w1 := w1) hlo hhi hpatch hrest hup
    exact ⟨u, congrArg finish hu, hrecord⟩
  · obtain ⟨u, ok, hu, hrecord⟩ := restoreDone_notes a b hwarm hself hhbm hnone hstage hup
    exact ⟨u, ok, congrArg finish hu, hrecord⟩
  · rw [State.startTrack_self ⟨hlo, hhi⟩ hself, State.setStage_boot]
  · rw [State.startTrack_hbm ⟨hlo, hhi⟩ hself hhbm, State.setStage_boot]
  · rw [State.startTrack_patch ⟨hlo, hhi⟩ hself hhbm hpatch, State.setStage_boot]
  · rw [State.startTrack_restore ⟨hlo, hhi⟩ hself hhbm hpatch hwarm hnone, State.setStage_boot]
  · exact State.startTrack_go ⟨hlo, hhi⟩ hself hhbm hpatch hdone hauto
  · rw [State.startTrack_config ⟨hlo, hhi⟩ hself hhbm hpatch hcold hnone, State.raise_boot, State.setStage_boot]
    exact ⟨rfl, State.caused_raise _ (by norm_num)⟩

end Sys2Proof.Machine
end

section
/-! SUPPORT. O39: training, retraining and the stack temperature (R421, R422, R425, R436). -/

namespace Sys2Proof.Machine

/-! ### The state of a pseudo-channel -/

theorem State.chState_congr {s t : State} (h : t.regs = s.regs) (c : Nat) : t.chState c = s.chState c := State.fld_congr h _ _ _

theorem State.chState_setCh (s : State) (c : Nat) {v : Nat} (hv : v < 8) : (s.setCh c v).chState c = v :=
  State.fld_setFld_fits _ _ (by decide) hv

theorem State.chState_setFld_page (s : State) (v : Nat) {c p : Nat} {f : Fld} (h : pgChan c ≠ p) (hf : f.off < 4096) :
    (s.setFld p f v).chState c = s.chState c := State.fld_setFld_page _ _ h hf (by decide)

theorem State.chState_raise (s : State) (c p i : Nat) : (s.raise p i).chState c = s.chState c := by
  by_cases h : pgChan c = p
  · subst h
    exact State.fld_raise_word _ _ _ (by decide)
  · exact State.fld_raise_page _ _ h (by decide)

theorem pgChan_ne_pgPhy {c : Nat} (h : c < 32) : pgChan c ≠ pgPhy := by unfold pgChan pgPhy; omega

theorem pgChan_ne_pgHalf {c t : Nat} (h : c < 32) : pgChan c ≠ pgHalf t := by unfold pgChan pgHalf; omega

theorem pgHalf_ne_pgPhy {t : Nat} (h : t < 2) : pgHalf t ≠ pgPhy := by unfold pgHalf pgPhy; omega

/-- Reaching the banks counts, and writes no register. -/
theorem State.access_regs (s : State) (c u : Nat) : (s.access c u).regs = s.regs := by
  unfold State.access
  dsimp only
  split
  · rfl
  · rfl

theorem State.serve_regs (s : State) (c : Nat) : (s.serve c).regs = s.regs := by
  unfold State.serve
  dsimp only
  split
  · rfl
  · exact State.each_keeps (I := fun u => u.regs = s.regs) _ rfl fun u x _ hu => (u.access_regs c x).trans hu

theorem State.chState_halfTrack (s : State) (t : Nat) {c : Nat} (h : c < 32) : (s.halfTrack t).chState c = s.chState c := by
  unfold State.halfTrack
  split
  · exact s.chState_setFld_page _ (pgChan_ne_pgHalf h) (by decide)
  · rfl

theorem State.chState_setL_phy (s : State) (v : Nat) {c : Nat} {f : Fld} (h : c < 32) (hf : f.off < 4096) :
    (s.setL pgPhy f v).chState c = s.chState c := by
  have hc : pgChan c ≠ pgLehr := by unfold pgChan pgLehr; omega
  rw [State.setL, State.chState, State.fld, State.through_rd _ _ _ _ hc (by decide) (by norm_num)]
  exact s.chState_setFld_page v (pgChan_ne_pgPhy h) hf

/-! ### Training starts and ends -/

theorem State.trained_chState (s : State) {c : Nat} (h : c < 32) :
    (s.trained c).chState c = if (s.chanAt c).toSref then 4 else 2 := by
  have hv : (if (s.chanAt c).toSref then 4 else 2) < 8 := by split <;> norm_num
  unfold State.trained
  extract_lets retraining s1 valid lehr s2
  have h1 : s1.chState c = if (s.chanAt c).toSref then 4 else 2 :=
    (State.chState_congr (State.putChan_regs _ _ _) c).trans (s.chState_setCh c hv)
  have h2 : s2.chState c = s1.chState c := (State.chState_setL_phy (f := Reg.CRUCP.PHY_STAT_TRAIN_VALID) _ valid h (by decide)).trans
    (State.chState_congr (by rfl) c)
  clear_value s1 s2
  rw [State.chState_congr (State.serve_regs _ _), State.chState_halfTrack _ _ h]
  split
  · rw [State.chState_raise, h2, h1]
  · rw [h2, h1]

theorem State.closeTail_regs (s : State) (k : Nat) : (s.closeTail k).regs = s.regs ∧ (s.closeTail k).ctrs = s.ctrs := by
  unfold State.closeTail
  dsimp only
  split
  · exact ⟨rfl, rfl⟩
  · exact ⟨State.putQueue_regs _ _ _, State.putQueue_ctrs _ _ _⟩

theorem State.retrain_rests {s : State} {c : Nat} (h : s.chState c ≠ 2) : s.retrain c = s := by rw [State.retrain, if_pos h]

theorem State.retrain_regs {s : State} {c : Nat} (h : s.chState c = 2) :
    (s.retrain c).regs = (((s.setCh c 3).chanCount c Reg.CRUCC.RETRAINS).raise (pgChan c) 1).regs ∧
    (s.retrain c).ctrs = (((s.setCh c 3).chanCount c Reg.CRUCC.RETRAINS).raise (pgChan c) 1).ctrs := by
  unfold State.retrain
  rw [if_neg (not_not.2 h)]
  generalize ((s.setCh c 3).chanCount c Reg.CRUCC.RETRAINS).raise (pgChan c) 1 = s1
  extract_lets s1' s2
  have h2 : s2.regs = s1.regs ∧ s2.ctrs = s1.ctrs := ⟨State.putChan_regs _ _ _, State.putChan_ctrs _ _ _⟩
  refine State.each_keeps (I := fun u => u.regs = s1.regs ∧ u.ctrs = s1.ctrs) _ h2 fun u k _ hu => ?_
  have hclose : (u.closeTail k).regs = s1.regs ∧ (u.closeTail k).ctrs = s1.ctrs :=
    ⟨(u.closeTail_regs k).1.trans hu.1, (u.closeTail_regs k).2.trans hu.2⟩
  split
  · split
    · exact hclose
    · exact hu
  · exact hu

theorem State.retrain_marks {s : State} {c : Nat} (h : s.chState c = 2) : (s.retrain c).chState c = 3 ∧
    (s.retrain c).caused (pgChan c) 1 ∧
    (s.retrain c).ctr (pgChan c) Reg.CRUCC.RETRAINS = s.ctr (pgChan c) Reg.CRUCC.RETRAINS + 1 := by
  obtain ⟨hregs, hctrs⟩ := State.retrain_regs h
  refine ⟨?_, ?_, ?_⟩
  · rw [State.chState_congr hregs, State.chState_raise, State.chanCount, State.chState_congr (State.addCtr_regs _ _ _ _ _),
      State.chState_setCh _ _ (by norm_num)]
  · rw [State.caused, State.rd_congr hregs]
    exact State.caused_raise _ (by norm_num)
  · rw [State.ctr_congr hctrs, State.ctr_raise, State.chanCount, State.ctr_addCtr_same, State.setCh, State.ctr_setFld]
    rfl

/-! ### Temperature -/

theorem State.setStackTemp_fld (s : State) {n : Nat} (h : n < 256) :
    (s.setStackTemp n).fld pgPhy Reg.CRUCP.PHY_STAT_STACK_TEMP = n := by
  have hset : (s.setFld pgPhy Reg.CRUCP.PHY_STAT_STACK_TEMP n).fld pgPhy Reg.CRUCP.PHY_STAT_STACK_TEMP = n :=
    State.fld_setFld_fits _ _ (by decide) h
  unfold State.setStackTemp
  extract_lets s1 hot phy s2
  have h2 : s2.fld pgPhy Reg.CRUCP.PHY_STAT_STACK_TEMP = n := hset
  clear_value s2
  split
  · exact (State.fld_raise_word _ _ _ (by decide)).trans h2
  · exact h2

theorem State.setStackTemp_hot {s : State} {n : Nat} (hcool : s.phy.hot = false) (hhot : 85 < (s.setStackTemp n).stackTemp) :
    (s.setStackTemp n).caused pgPhy 3 := by
  unfold State.setStackTemp at hhot ⊢
  extract_lets at hhot ⊢
  split
  next => exact State.caused_raise _ (by norm_num)
  next hstay =>
    rw [if_neg hstay] at hhot
    refine absurd ?_ hstay
    rw [hcool, Bool.not_false, Bool.and_true]
    exact decide_eq_true hhot

/-! ### A step of a training -/

/-- The step of a training that runs next (R421). -/
def ChanSt.nextStep (h : ChanSt) : Nat := if h.repeated then h.step else if h.full then h.step % 6 + 1 else if h.step = 1 then 6 else 1

/-- A pseudo-channel as the step that has ended stands in CH_STAT. -/
def State.stepShown (s : State) (c : Nat) : State :=
  (s.setFld (pgChan c) Reg.CRUCC.CH_STAT_STEP (s.chanAt c).nextStep).onChan c fun h => { h with step := (s.chanAt c).nextStep }

section
variable {s : State} {c : ChanId} (hstate : s.chState c = 1 ∨ s.chState c = 3) (ca lanes : List (Fin 256))
include hstate

theorem trainingStepDone_more (hmore : (s.chanAt c).nextStep ≠ 6) : trainingStepDone c true ca lanes s =
    ((s.stepShown c).onChan c fun h => { h with repeated := false }).stepOver c := by
  rw [trainingStepDone, if_neg (by omega)]
  exact congrArg (State.stepOver · c) (if_neg hmore)

theorem trainingStepDone_last (hlast : (s.chanAt c).nextStep = 6) : trainingStepDone c true ca lanes s =
    (((s.stepShown c).onChan c fun h => { h with repeated := false }).trained c).stepOver c := by
  rw [trainingStepDone, if_neg (by omega)]
  exact congrArg (State.stepOver · c) (if_pos hlast)

theorem trainingStepDone_again (hagain : (s.chanAt c).repeated = true) : trainingStepDone c false ca lanes s =
    (((s.stepShown c).retire c 2).halfTrack (c.val / 16)).stepOver c := by
  rw [trainingStepDone, if_neg (by omega)]
  dsimp only
  rw [if_neg (by decide), if_pos hagain]
  rfl

theorem trainingStepDone_unrepaired (hfirst : (s.chanAt c).repeated = false)
    (hnone : (s.stepShown c).repair c (ca.map fun l => l.val) (lanes.map fun l => l.val) = none) :
    trainingStepDone c false ca lanes s = (((s.stepShown c).retire c 1).halfTrack (c.val / 16)).stepOver c := by
  rw [trainingStepDone, if_neg (by omega)]
  dsimp only
  rw [if_neg (by decide), if_neg (by rw [hfirst]; decide)]
  split
  next => rfl
  next hsome => exact absurd (hnone.symm.trans hsome) (by simp)

theorem trainingStepDone_repaired {x : State} (hfirst : (s.chanAt c).repeated = false)
    (hsome : (s.stepShown c).repair c (ca.map fun l => l.val) (lanes.map fun l => l.val) = some x) :
    trainingStepDone c false ca lanes s = (x.onChan c fun h => { h with repeated := true }).stepOver c := by
  rw [trainingStepDone, if_neg (by omega)]
  dsimp only
  rw [if_neg (by decide), if_neg (by rw [hfirst]; decide)]
  split
  next hnone => exact absurd (hsome.symm.trans hnone) (by simp)
  next y hy => rw [Option.some.inj (hsome.symm.trans hy)]

end

/-! ### A training begins -/

theorem Touches.withChan {s t : State} {P : Nat → Prop} (h : Touches s t P) (m : Tab ChanSt) :
    Touches { s with chan := m } { t with chan := m } P := by
  obtain ⟨rest, regs, ctrs, rings⟩ := h
  exact ⟨by rw [rest], regs, ctrs, rings⟩

/-- The state as a pseudo-channel begins training, but for its half. -/
def State.trainingBegun (s : State) (c : Nat) : State :=
  ((s.setCh c 1).onChan c fun h => { h with full := !s.trainValid, repeated := false, step := 0, toSref := false }).setFld pgPhy
    Reg.CRUCP.PHY_STAT_LOCKED 1

theorem State.trainingBegun_chan (s : State) (c : Nat) : (s.trainingBegun c).chanAt c =
    { s.chanAt c with full := !s.trainValid, repeated := false, step := 0, toSref := false } := by
  rw [State.trainingBegun, State.chanAt, State.setFld_chan, State.onChan_eq, State.setCh, State.chanAt, State.setFld_chan]
  exact State.chanAt_same _ _ _

theorem State.trainingBegun_spec (s : State) {c : Nat} (h : c < 32) : (s.trainingBegun c).chState c = 1 ∧
    (s.trainingBegun c).fld (pgChan c) Reg.CRUCC.CH_STAT_STEP = s.fld (pgChan c) Reg.CRUCC.CH_STAT_STEP ∧
    (s.trainingBegun c).flag pgPhy Reg.CRUCP.PHY_STAT_LOCKED = true ∧
    (s.trainingBegun c).halfState (c / 16) = s.halfState (c / 16) := by
  have hphy := pgChan_ne_pgPhy h
  have hhalf : pgHalf (c / 16) ≠ pgPhy := pgHalf_ne_pgPhy (by omega)
  refine ⟨?_, ?_, ?_, ?_⟩
  · rw [State.trainingBegun, State.chState_setFld_page _ _ hphy (by decide), State.onChan_eq,
      State.chState_congr (State.putChan_regs _ _ _), State.chState_setCh _ _ (by norm_num)]
  · rw [State.trainingBegun, State.fld_setFld_page _ _ hphy (by decide) (by decide), State.onChan_eq,
      State.fld_congr (State.putChan_regs _ _ _), State.setCh,
      State.fld_setFld_apart _ _ _ _ _ _ (by decide) (by decide) (by decide) (by decide)]
  · rw [State.trainingBegun, State.flag_setFld_same _ _ _ (by decide)]
    rfl
  · rw [State.trainingBegun, State.halfState, State.fld_setFld_page _ _ hhalf (by decide) (by decide), State.onChan_eq,
      State.fld_congr (State.putChan_regs _ _ _), State.setCh,
      State.fld_setFld_page _ _ (pgChan_ne_pgHalf h).symm (by decide) (by decide), State.halfState]

theorem State.trainingBegun_touches (s : State) (c : Nat) : Touches { s with chan := (s.trainingBegun c).chan } (s.trainingBegun c)
    (fun g => g = pgChan c ∨ g = pgPhy ∨ g = pgHalf (c / 16)) :=
  ((Touches.refl s _).put (f := Reg.CRUCC.CH_STAT_STATE) 1 (.inl rfl) (by decide)).withChan _ |>.put _ (.inr (.inl rfl)) (by decide)

theorem trainingStart_begins {s : State} {c : ChanId} (hstate : s.chState c = 0 ∨ s.chState c = 4) (hhalf : s.halfState (c / 16) ≠ 4)
    (hon : s.domOn (domHalf (c / 16)) = true) (hphy : s.domOn domPhy = true) (hsupply : s.pins.hbmLost = false) :
    trainingStart c s = if s.halfState (c / 16) = 0 ∨ s.halfState (c / 16) = 3 then (s.trainingBegun c).setHalf (c / 16) 1
      else s.trainingBegun c := by
  rw [trainingStart, if_neg (by rw [hon, hphy, hsupply]; simp; omega)]
  rfl

theorem trainingStart_idle {s : State} {c : ChanId} (h : s.chState c ≠ 0 ∧ s.chState c ≠ 4 ∨ s.halfState (c / 16) = 4 ∨
    s.domOn (domHalf (c / 16)) = false ∨ s.domOn domPhy = false ∨ s.pins.hbmLost = true) : trainingStart c s = s :=
  if_pos (by simpa using h)

/-- What stands once a training has begun, its half in TRAINING or as it was. -/
theorem State.trainingBegun_settles (s : State) (c : ChanId) : ∃ t, (.next (settle
    (if s.halfState (c / 16) = 0 ∨ s.halfState (c / 16) = 3 then (s.trainingBegun c).setHalf (c / 16) 1 else s.trainingBegun c)) :
      Host.Outcome State Fault Refusal) = .next t ∧ t.chState c = 1 ∧
    (t.chanAt c).full = !s.trainValid ∧ (t.chanAt c).repeated = false ∧ (t.chanAt c).step = 0 ∧
    t.fld (pgChan c) Reg.CRUCC.CH_STAT_STEP = s.fld (pgChan c) Reg.CRUCC.CH_STAT_STEP ∧
    t.flag pgPhy Reg.CRUCP.PHY_STAT_LOCKED = true ∧
    t.halfState (c / 16) = (if s.halfState (c / 16) = 0 ∨ s.halfState (c / 16) = 3 then 1 else s.halfState (c / 16)) ∧
    Touches { s with chan := t.chan } t (fun g => g = pgChan c ∨ g = pgPhy ∨ g = pgHalf (c / 16)) := by
  obtain ⟨hch, hstep, hlocked, hkept⟩ := s.trainingBegun_spec c.isLt
  have hchan := s.trainingBegun_chan c
  have hleft := s.trainingBegun_touches c
  have hne := pgChan_ne_pgHalf (t := c.val / 16) c.isLt
  have hphy := pgHalf_ne_pgPhy (t := c.val / 16) (by have := c.isLt; omega)
  refine ⟨_, rfl, ?_⟩
  generalize s.trainingBegun c = u at *
  have hfull := congrArg ChanSt.full hchan
  have hrep := congrArg ChanSt.repeated hchan
  have hzero := congrArg ChanSt.step hchan
  split
  · have hat (k : Nat) : (settle (u.setHalf (c / 16) 1)).chanAt k = u.chanAt k := by
      rw [State.chanAt, settle_chan, State.setHalf, State.setFld_chan, State.chanAt]
    rw [hat, State.chState, settle_fld, settle_fld, settle_flag, State.halfState, settle_fld, settle_chan, State.setHalf,
      State.setFld_chan, State.fld_setFld_page _ _ hne (by decide) (by decide),
      State.fld_setFld_page _ _ hne (by decide) (by decide), State.flag_setFld_page _ _ hphy.symm (by decide) (by decide),
      State.fld_setFld_fits _ _ (by decide) (by decide)]
    exact ⟨hch, hfull, hrep, hzero, hstep, hlocked, rfl, (hleft.put _ (.inr (.inr rfl)) (by decide)).settle⟩
  · have hat (k : Nat) : (settle u).chanAt k = u.chanAt k := by rw [State.chanAt, settle_chan, State.chanAt]
    rw [hat, State.chState, settle_fld, settle_fld, settle_flag, State.halfState, settle_fld, settle_chan]
    exact ⟨hch, hfull, hrep, hzero, hstep, hlocked, hkept, hleft.settle⟩

theorem State.stepShown_toSref (s : State) (c : Nat) :
    (((s.stepShown c).onChan c fun h => { h with repeated := false }).chanAt c).toSref = (s.chanAt c).toSref := by
  rw [State.onChan_eq, State.chanAt_same]
  unfold State.stepShown
  rw [State.onChan_eq, State.chanAt_same, State.chanAt, State.setFld_chan, State.chanAt]

/-- Settles O39: each command's branches, and what a training and a retraining leave of the pseudo-channel's state. -/
theorem trainingAndTemperature : Obligations.TrainingAndTemperature := by
  refine ⟨fun s c => ⟨fun hstate hhalf hon hphy hsupply => ?_, fun hidle => ?_⟩, fun s c ca lanes hstate =>
      ⟨fun hmore => ?_, fun hlast => ⟨?_, ?_⟩, fun hagain => ?_, fun hfirst => ⟨fun hnone => ?_, fun x hsome => ?_⟩⟩,
    fun s c => ⟨fun hnone => ?_, fun hsome => ⟨fun hlast => ?_, fun hmore => ?_⟩⟩, fun s c pass ca lanes h1 h3 => ?_,
    fun s c => ⟨fun htakes => ?_, State.retrain_rests, State.retrain_marks⟩,
    fun s c x => ⟨rfl, rfl, s.setStackTemp_fld x.isLt, State.setStackTemp_hot⟩⟩
  · rw [show exec (.trainingStart c) s = .next (settle (trainingStart c s)) from rfl,
      trainingStart_begins hstate hhalf hon hphy hsupply]
    exact s.trainingBegun_settles c
  · exact congrArg finish (trainingStart_idle hidle)
  · exact congrArg finish (trainingStepDone_more hstate ca lanes hmore)
  · exact congrArg finish (trainingStepDone_last hstate ca lanes hlast)
  · rw [State.trained_chState _ c.isLt]
    exact congrArg (fun b : Bool => if b then 4 else 2) (s.stepShown_toSref c)
  · exact congrArg finish (trainingStepDone_again hstate ca lanes hagain)
  · exact congrArg finish (trainingStepDone_unrepaired hstate ca lanes hfirst hnone)
  · exact congrArg finish (trainingStepDone_repaired hstate ca lanes hfirst hsome)
  · rw [State.stepOver, if_pos (by rw [hnone]; rfl)]
  · rw [State.stepOver, if_neg (by simpa using hsome)]
    exact if_pos (by simpa using hlast)
  · rw [State.stepOver, if_neg (by simpa using hsome)]
    exact if_neg (by simpa using hmore)
  · exact congrArg finish (if_pos ⟨h1, h3⟩)
  · exact congrArg finish ((State.wordWrite_takes htakes _ _ _ _).trans (if_pos (by decide)))

end Sys2Proof.Machine
end

section
/-! SUPPORT. O40: frequency points (R425) and the table image (R427, R428). -/

namespace Sys2Proof.Machine

/-! ### Requests of frequency points -/

section
variable {s : State} {point : Nat}

theorem State.freqRequest_same (h : 2 < point ∨ point = if s.flag pgPhy Reg.CRUCP.PHY_STAT_PENDING then
    s.fld pgPhy Reg.CRUCP.PHY_STAT_PEND_POINT else s.fld pgPhy Reg.CRUCP.PHY_STAT_POINT) : s.freqRequest point = s := if_pos h

/-- A request while another is held supersedes it. -/
theorem State.freqRequest_supersedes (hpoint : point ≤ 2) (hpend : s.flag pgPhy Reg.CRUCP.PHY_STAT_PENDING = true)
    (hnew : point ≠ s.fld pgPhy Reg.CRUCP.PHY_STAT_PEND_POINT) : s.freqRequest point =
      ((s.setFld pgPhy Reg.CRUCP.PHY_STAT_PEND_POINT point).bump pgPhy Reg.CRUCP.FREQ_SUPERSEDED).raise pgPhy 1 := by
  unfold State.freqRequest
  rw [if_neg (by rw [if_pos hpend]; omega), if_pos hpend]

/-- The state as a request is held. -/
def State.freqHeld (s : State) (point : Nat) : State :=
  (s.setFld pgPhy Reg.CRUCP.PHY_STAT_PENDING 1).setFld pgPhy Reg.CRUCP.PHY_STAT_PEND_POINT point

theorem State.freqHeld_fields (s : State) (hpoint : point ≤ 2) :
    (s.freqHeld point).flag pgPhy Reg.CRUCP.PHY_STAT_PENDING = true ∧
    (s.freqHeld point).fld pgPhy Reg.CRUCP.PHY_STAT_PEND_POINT = point := by
  have hfits : point < 2 ^ (Reg.CRUCP.PHY_STAT_PEND_POINT.hi + 1 - Reg.CRUCP.PHY_STAT_PEND_POINT.lo) :=
    lt_of_lt_of_le (by omega : point < 3) (by decide)
  refine ⟨?_, ?_⟩
  · rw [State.freqHeld, State.flag_setFld_apart _ _ _ (by decide) (by decide) (by decide), State.flag_setFld_same _ _ _ (by decide)]
    rfl
  · rw [State.freqHeld, State.fld_setFld_fits _ _ (by decide) hfits]

variable (hpoint : point ≤ 2) (hfree : s.flag pgPhy Reg.CRUCP.PHY_STAT_PENDING = false)
  (hnew : point ≠ s.fld pgPhy Reg.CRUCP.PHY_STAT_POINT)
include hpoint hfree hnew

theorem State.freqRequest_changing (hchange : s.phy.change.isSome = true) : s.freqRequest point = s.freqHeld point := by
  have hno : ¬ s.flag pgPhy Reg.CRUCP.PHY_STAT_PENDING = true := by simp [hfree]
  unfold State.freqRequest
  rw [if_neg (by rw [if_neg hno]; omega), if_neg hno, if_pos hchange, State.freqHeld]

theorem State.freqRequest_deferred (hchange : s.phy.change = none) (hbusy : ∃ c, c < 32 ∧ (s.chState c = 1 ∨ s.chState c = 3)) :
    s.freqRequest point = ({ s.freqHeld point with phy := { (s.freqHeld point).phy with
      waiting := (List.range 32).filter fun c => s.chState c == 1 || s.chState c == 3 } }).bump pgPhy Reg.CRUCP.FREQ_DEFERRED := by
  have hno : ¬ s.flag pgPhy Reg.CRUCP.PHY_STAT_PENDING = true := by simp [hfree]
  obtain ⟨c, hc, hstate⟩ := hbusy
  have hmem : c ∈ (List.range 32).filter fun c => s.chState c == 1 || s.chState c == 3 :=
    List.mem_filter.2 ⟨List.mem_range.2 hc, by simpa using hstate⟩
  unfold State.freqRequest
  rw [if_neg (by rw [if_neg hno]; omega), if_neg hno, if_neg (by rw [hchange]; decide)]
  exact if_neg fun hempty => List.ne_nil_of_mem hmem (List.isEmpty_iff.1 hempty)

theorem State.freqRequest_starts (hchange : s.phy.change = none) (hidle : ∀ c, c < 32 → s.chState c ≠ 1 ∧ s.chState c ≠ 3) :
    s.freqRequest point = s.freqStart point := by
  have hno : ¬ s.flag pgPhy Reg.CRUCP.PHY_STAT_PENDING = true := by simp [hfree]
  unfold State.freqRequest
  rw [if_neg (by rw [if_neg hno]; omega), if_neg hno, if_neg (by rw [hchange]; decide)]
  refine if_pos (List.isEmpty_iff.2 (List.filter_eq_nil_iff.2 fun c hc => ?_))
  simpa using hidle c (List.mem_range.1 hc)

end

theorem freqChangeDone_ends {s : State} {point : Nat} (h : s.phy.change = some point)
    (hset : ∀ c, c < 32 → s.chState c = 0 ∨ s.chSettled c = true) : freqChangeDone s =
      (let u := ({ s with phy := { s.phy with change := none } } : State).each (List.range 32) State.serve
       let w := ((u.setFld pgPhy Reg.CRUCP.PHY_STAT_LOCKED 1).bump pgPhy Reg.CRUCP.FREQ_CHANGES).raise pgPhy 0
       if w.flag pgPhy Reg.CRUCP.PHY_STAT_PENDING then w.freqStart (w.fld pgPhy Reg.CRUCP.PHY_STAT_PEND_POINT) else w) := by
  have hall : ((List.range 32).all fun c => s.chState c == 0 || s.chSettled c) = true :=
    List.all_eq_true.2 fun c hc => by simpa using hset c (List.mem_range.1 hc)
  unfold freqChangeDone
  rw [h]
  exact if_pos hall

/-! ### The table image -/

theorem settle_nonce (s : State) : (settle s).nonce = s.nonce := by rw [settle_frame]

theorem settle_halfAt (s : State) (n : Nat) : (settle s).halfAt n = s.halfAt n := by rw [State.halfAt, settle_half, State.halfAt]

theorem State.halfAt_putHalf (s : State) (n : Nat) (v : HalfSt) : (s.putHalf n v).halfAt n = v := Tab.get_set_same _ _ _ _

theorem State.halfAt_setFld (s : State) (p : Nat) (f : Fld) (v n : Nat) : (s.setFld p f v).halfAt n = s.halfAt n := by
  rw [State.halfAt, State.setFld_half, State.halfAt]

theorem State.imgCtrlWrite_arm (s : State) (n : Nat) : s.imgCtrlWrite n 0x80000000 =
    (s.onHalf n fun h => { h with armed := true, copied := false }).setFld (pgHalf n) Reg.CRUCH.IMG_STAT_COPYING 1 := by
  rw [State.imgCtrlWrite, if_neg (by decide), if_pos (by decide)]

theorem State.imgCtrlWrite_disarm (s : State) (n : Nat) : s.imgCtrlWrite n 0x40000000 =
    ((s.onHalf n fun h => { h with armed := false, copied := false, kept := none }).setFld (pgHalf n)
      Reg.CRUCH.IMG_STAT_COPYING 0).setFld (pgHalf n) Reg.CRUCH.IMG_STAT_VALID 0 := by
  rw [State.imgCtrlWrite, if_pos (by decide), if_neg (by decide)]

theorem State.onHalf_touches (s : State) (n : Nat) (f : HalfSt → HalfSt) (P : Nat → Prop) :
    Touches { s with half := (s.onHalf n f).half } (s.onHalf n f) P := Touches.refl _ _

/-- Reading image blocks counts in the pseudo-channel, and takes free values. -/
theorem State.imageAccess_touches (s : State) (c n : Nat) :
    Touches { s with nonce := (s.imageAccess c n).nonce } (s.imageAccess c n) (· = pgChan c) := by
  unfold State.imageAccess
  exact (Touches.refl ({ s with nonce := s.nonce + 2 } : State) (· = pgChan c)).addCtr (pgChan c) Reg.CRUCC.ROW_HITS _ 0 rfl
    (by decide) (by norm_num) |>.addCtr (pgChan c) Reg.CRUCC.ACTIVATES _ 0 rfl (by decide) (by norm_num)

theorem Touches.withNonce {s t : State} {P : Nat → Prop} (h : Touches s t P) (n : Nat) :
    Touches { s with nonce := n } { t with nonce := n } P :=
  ⟨congrArg (fun x : State => { x with nonce := n }) h.rest, h.regs, h.ctrs, h.rings⟩

theorem State.imageEdge_spec {s : State} {n : Nat} (h : (s.halfAt n).copied = true) :
    (s.imageEdge n).flag (pgHalf n) Reg.CRUCH.IMG_STAT_VALID = true ∧ (s.imageEdge n).caused (pgHalf n) 3 ∧
    ((s.imageEdge n).halfAt n).copied = false := by
  unfold State.imageEdge
  rw [if_pos h]
  refine ⟨?_, State.caused_raise _ (by norm_num), ?_⟩
  · rw [State.flag_raise_word _ _ _ (by decide), State.flag_setFld_same _ _ _ (by decide)]
    rfl
  · rw [State.halfAt, State.raise_half, State.setFld_half, State.onHalf_eq]
    exact congrArg HalfSt.copied (State.halfAt_putHalf _ _ _)

/-- The state as the full copy of a team's image ends, its accesses still to be counted. -/
def State.imageCopied (s : State) (n : Nat) : State :=
  (s.setFld (pgHalf n) Reg.CRUCH.IMG_STAT_COPYING 0).onHalf n fun h => { h with
    copied := true, kept := some (s.tableImage n), badCopies := [], badChans := (teamChans n).filter fun c => s.chState c == 5 }

theorem State.imageCopied_touches (s : State) (n : Nat) :
    Touches { s with half := (s.imageCopied n).half } (s.imageCopied n) (· = pgHalf n) :=
  ((Touches.refl s (· = pgHalf n)).put (f := Reg.CRUCH.IMG_STAT_COPYING) 0 rfl (by decide)).withHalf _

/-- A full copy of a team's image reads its blocks in every pseudo-channel that serves. -/
def State.imageRead (s : State) (n : Nat) : State :=
  s.each (teamChans n) fun s c => if s.chState c = 5 then s else s.imageAccess c 229376

theorem State.imageRead_spec (s : State) (n : Nat) : (s.imageRead n).half = s.half ∧ (s.imageRead n).regs = s.regs ∧
    Touches { s with nonce := (s.imageRead n).nonce } (s.imageRead n) (fun g => ∃ c ∈ teamChans n, g = pgChan c) :=
  State.each_keeps (I := fun u => u.half = s.half ∧ u.regs = s.regs ∧
    Touches { s with nonce := u.nonce } u (fun g => ∃ c ∈ teamChans n, g = pgChan c)) (teamChans n) ⟨rfl, rfl, .refl _ _⟩
    fun u c hc hu => by
      split
      · exact hu
      · obtain ⟨hhalf, hregs, htouch⟩ := hu
        exact ⟨hhalf, hregs, (htouch.withNonce _).trans ((u.imageAccess_touches c _).mono fun p hp => ⟨c, hc, hp⟩)⟩

theorem imageCopyDone_copies {s : State} {tm : Team} (h : s.flag (pgHalf (teamNo tm)) Reg.CRUCH.IMG_STAT_COPYING = true) :
    imageCopyDone tm s = (s.imageCopied (teamNo tm)).imageRead (teamNo tm) := by
  rw [imageCopyDone, if_pos h, State.imageCopied, State.imageRead]

theorem State.imageArmed_spec (s : State) (n : Nat) :
    let t := settle ((s.onHalf n fun h => { h with armed := true, copied := false }).setFld (pgHalf n) Reg.CRUCH.IMG_STAT_COPYING 1)
    (t.halfAt n).armed = true ∧ (t.halfAt n).copied = false ∧ t.flag (pgHalf n) Reg.CRUCH.IMG_STAT_COPYING = true ∧
      Touches { s with half := t.half } t (· = pgHalf n) := by
  dsimp only
  rw [settle_halfAt, State.halfAt_setFld, State.onHalf_eq, State.halfAt_putHalf, settle_flag,
    State.flag_setFld_same _ _ _ (by decide), settle_half, State.setFld_half]
  exact ⟨rfl, rfl, rfl, ((Touches.refl _ (· = pgHalf n)).put (f := Reg.CRUCH.IMG_STAT_COPYING) _ rfl (by decide)).settle⟩

theorem State.imageDisarmed_spec (s : State) (n : Nat) :
    let t := settle (((s.onHalf n fun h => { h with armed := false, copied := false, kept := none }).setFld (pgHalf n)
      Reg.CRUCH.IMG_STAT_COPYING 0).setFld (pgHalf n) Reg.CRUCH.IMG_STAT_VALID 0)
    (t.halfAt n).armed = false ∧ (t.halfAt n).copied = false ∧ (t.halfAt n).kept = none ∧
      t.flag (pgHalf n) Reg.CRUCH.IMG_STAT_COPYING = false ∧ t.flag (pgHalf n) Reg.CRUCH.IMG_STAT_VALID = false ∧
      Touches { s with half := t.half } t (· = pgHalf n) := by
  dsimp only
  rw [settle_halfAt, State.halfAt_setFld, State.halfAt_setFld, State.onHalf_eq, State.halfAt_putHalf, settle_flag,
    State.flag_setFld_apart _ _ _ (by decide) (by decide) (by decide), State.flag_setFld_same _ _ _ (by decide), settle_flag,
    State.flag_setFld_same _ _ _ (by decide), settle_half, State.setFld_half, State.setFld_half]
  exact ⟨rfl, rfl, rfl, rfl, rfl, ((Touches.refl _ (· = pgHalf n)).put (f := Reg.CRUCH.IMG_STAT_COPYING) _ rfl (by decide)
    |>.put (f := Reg.CRUCH.IMG_STAT_VALID) _ rfl (by decide)).settle⟩

theorem State.imageCopied_spec (s : State) (n : Nat) :
    let t := settle ((s.imageCopied n).imageRead n)
    (t.halfAt n).copied = true ∧ t.flag (pgHalf n) Reg.CRUCH.IMG_STAT_COPYING = false ∧
      (t.halfAt n).kept = some (s.tableImage n) ∧ (t.halfAt n).badCopies = [] ∧
      Touches { s with half := t.half, nonce := t.nonce } t (fun g => g = pgHalf n ∨ ∃ c ∈ teamChans n, g = pgChan c) := by
  obtain ⟨hhalf, hregs, htouch⟩ := (s.imageCopied n).imageRead_spec n
  have hat : (settle ((s.imageCopied n).imageRead n)).halfAt n = (s.imageCopied n).halfAt n := by
    rw [settle_halfAt, State.halfAt, hhalf, State.halfAt]
  have hnow : (s.imageCopied n).halfAt n = { s.halfAt n with
      copied := true, kept := some (s.tableImage n), badCopies := [], badChans := (teamChans n).filter fun c => s.chState c == 5 } := by
    rw [State.imageCopied, State.onHalf_eq, State.halfAt_putHalf, State.halfAt_setFld]
  have hflag : (s.imageCopied n).flag (pgHalf n) Reg.CRUCH.IMG_STAT_COPYING = false := by
    rw [State.imageCopied, State.onHalf_eq, State.flag_congr (State.putHalf_regs _ _ _), State.flag_setFld_same _ _ _ (by decide)]
    rfl
  have hleft := ((s.imageCopied_touches n).withNonce ((s.imageCopied n).imageRead n).nonce).mono
    (Q := fun g => g = pgHalf n ∨ ∃ c ∈ teamChans n, g = pgChan c) fun _ hp => .inl hp
  dsimp only
  rw [hat, hnow, settle_flag, State.flag_congr hregs, settle_half, hhalf, settle_nonce]
  exact ⟨rfl, hflag, rfl, rfl, (hleft.trans (htouch.mono fun _ hp => .inr hp)).settle⟩

theorem State.freqRequest_superseded {s : State} {point : Nat} (hpoint : point ≤ 2)
    (hpend : s.flag pgPhy Reg.CRUCP.PHY_STAT_PENDING = true) (hnew : point ≠ s.fld pgPhy Reg.CRUCP.PHY_STAT_PEND_POINT) :
    (s.freqRequest point).fld pgPhy Reg.CRUCP.PHY_STAT_PEND_POINT = point ∧
    (s.freqRequest point).ctr pgPhy Reg.CRUCP.FREQ_SUPERSEDED = s.ctr pgPhy Reg.CRUCP.FREQ_SUPERSEDED + 1 ∧
    (s.freqRequest point).caused pgPhy 1 := by
  rw [State.freqRequest_supersedes hpoint hpend hnew]
  refine ⟨?_, ?_, State.caused_raise _ (by norm_num)⟩
  · rw [State.fld_raise_word _ _ _ (by decide), State.fld_congr (State.bump_regs _ _ _ _), State.fld_setFld_fits _ _ (by decide)]
    exact lt_of_lt_of_le (by omega : point < 3) (by decide)
  · rw [State.ctr_raise, State.ctr_bump_same, State.ctr_setFld]

theorem State.freqWaits_spec (s : State) {point : Nat} (hpoint : point ≤ 2) (w : List Nat) :
    let t := ({ s.freqHeld point with phy := { (s.freqHeld point).phy with waiting := w } } : State).bump pgPhy
      Reg.CRUCP.FREQ_DEFERRED
    t.flag pgPhy Reg.CRUCP.PHY_STAT_PENDING = true ∧ t.fld pgPhy Reg.CRUCP.PHY_STAT_PEND_POINT = point ∧ t.phy.waiting = w ∧
      t.ctr pgPhy Reg.CRUCP.FREQ_DEFERRED = s.ctr pgPhy Reg.CRUCP.FREQ_DEFERRED + 1 := by
  obtain ⟨hpend, hpt⟩ := s.freqHeld_fields hpoint
  have hctrs : (s.freqHeld point).ctrs = s.ctrs := by rw [State.freqHeld, State.setFld_ctrs, State.setFld_ctrs]
  generalize s.freqHeld point = u at *
  dsimp only
  have hregs : ({ u with phy := { u.phy with waiting := w } } : State).regs = u.regs := rfl
  rw [State.ctr_bump_same, State.flag_bump, State.flag_congr hregs, State.fld_congr (State.bump_regs _ _ _ _), State.fld_congr hregs,
    State.ctr_congr (s := s) (t := { u with phy := { u.phy with waiting := w } }) hctrs, State.bump_phy]
  exact ⟨hpend, hpt, rfl, rfl⟩

/-- Settles O40: freqRequest's cases, the end of a change, and what ARM, the copy's end, the edge and DISARM leave of a half. -/
theorem pointsAndImage : Obligations.PointsAndImage := by
  refine ⟨fun s v htakes => congrArg finish (State.hostWrite_takes htakes _), fun s point => ⟨State.freqRequest_same,
      State.freqRequest_superseded, fun hpoint hfree hnew => ⟨fun hchange => ?_, fun hchange hbusy => ?_,
      State.freqRequest_starts hpoint hfree hnew⟩⟩,
    fun s point hchange hset => congrArg finish (freqChangeDone_ends hchange hset),
    fun s tm htakes => ⟨⟨_, congrArg finish ((State.wordWrite_takes htakes _ _ _ _).trans (State.imgCtrlWrite_arm _ _)), ?_⟩,
      ⟨_, congrArg finish ((State.wordWrite_takes htakes _ _ _ _).trans (State.imgCtrlWrite_disarm _ _)), ?_⟩⟩,
    fun s tm hcopying => ⟨_, congrArg finish (imageCopyDone_copies hcopying), ?_⟩, fun s n _ => State.imageEdge_spec⟩
  · rw [State.freqRequest_changing hpoint hfree hnew hchange]
    exact s.freqHeld_fields hpoint
  · rw [State.freqRequest_deferred hpoint hfree hnew hchange hbusy]
    exact s.freqWaits_spec hpoint _
  · exact State.imageArmed_spec _ _
  · exact State.imageDisarmed_spec _ _
  · exact s.imageCopied_spec _

end Sys2Proof.Machine
end

section
/-! SUPPORT. O13: wakes of domains and of the device (R443 to R446, R470). O15: team clocks and the HBM's automatic low point
(R449, R450, R457). -/

namespace Sys2Proof.Machine

/-! ### A wake of a domain (R446) -/

/-- A domain at rest in NAP whose ancestors are ON or IDLE and at rest wakes by itself. -/
theorem State.domWake_begins {s : State} {d src : Nat} {retry : Bool} (hst : (s.domAt d).st = 2)
    (hrest : (s.domAt d).trans = none) (hup : ∀ p ∈ domAncestors d, s.domOn p = true ∧ (s.domAt p).trans = none) :
    s.domWake d src retry = s.domBegin d src := by
  have hfailed : ¬ (domAncestors d).any s.domFailed = true := by
    intro hany
    obtain ⟨p, hp, hfail⟩ := List.any_eq_true.1 hany
    obtain ⟨hon, -⟩ := hup p hp
    rw [State.domOn, Bool.and_eq_true, decide_eq_true_eq] at hon
    rw [State.domFailed, beq_iff_eq] at hfail
    omega
  have hneed : ((domAncestors d).filter fun p => !s.domOn p && (s.domAt p).trans.isNone ||
      ((s.domAt p).trans.map Prod.fst).getD 0 != 0) = [] :=
    List.filter_eq_nil_iff.2 fun p hp => by
      obtain ⟨hon, hidle⟩ := hup p hp
      simp [hon, hidle]
  unfold State.domWake
  extract_lets up need
  rw [if_neg hfailed, show need = [] from hneed]
  show s.wakeOne d src retry = _
  unfold State.wakeOne
  dsimp only
  rw [hrest]
  dsimp only
  rw [hst, if_neg (by norm_num), if_neg (by omega)]

theorem State.domBegin_domAt (s : State) (d src c : Nat) : (s.domBegin d src).domAt c =
    if c = d then { s.domAt d with trans := some (0, false) } else s.domAt c := by
  rw [State.domBegin, State.domAt, State.setFld_dom, State.onDom_eq]
  by_cases hc : c = d
  · subst hc
    rw [if_pos rfl]
    exact s.domAt_same _ _
  · rw [if_neg hc]
    exact s.domAt_ne _ hc

theorem State.domBegin_source (s : State) (d : Nat) {src : Nat} (h : src < 8) :
    (s.domBegin d src).fld pgDev Reg.PWRD.DSTAT_LAST_SRC d = src :=
  (State.fld_setFld_same _ _ _ _ _ (by decide) (by decide)).trans (Nat.mod_eq_of_lt (lt_of_lt_of_le h (by decide)))

theorem State.domBegin_touches (s : State) {d : Nat} (src : Nat) (h : d < 4096) :
    Touches { s with dom := (s.domBegin d src).dom } (s.domBegin d src) (· = pgDev) :=
  ((Touches.refl _ (· = pgDev)).withDom _).setFld pgDev Reg.PWRD.DSTAT_LAST_SRC src d rfl (by decide) h

/-! ### A wake of the device (R444, R456) -/

theorem State.wrL_dev (s : State) (p off : Nat) (v : W32) : (s.wrL p off v).dev = s.dev := by
  rw [State.wrL, ((s.wr p off v).through_touches p off 0).rest, State.wr_dev]

theorem State.setLehrWord_dev (s : State) (a v : Nat) : (s.setLehrWord a v).dev = s.dev := rfl

theorem State.noteWake_dev (s : State) (src : Nat) : (s.noteWake src).dev = s.dev := by
  unfold State.noteWake
  dsimp only
  rw [State.setLehrWord_dev, State.setLehrWord_dev, State.wrL_dev, State.wrL_dev]

theorem State.devWake_doze {s : State} (src : Nat) (hst : s.dev.st = 1) (hrest : s.dev.trans = none) :
    s.devWake src = (s.noteWake src).devBegin 0 := by
  unfold State.devWake
  rw [hrest]
  exact (if_neg (by omega)).trans (if_pos hst)

theorem State.devWake_run {s : State} (src : Nat) (hst : s.dev.st = 0) (hrest : s.dev.trans = none) :
    s.devWake src = s.bump pgDev Reg.PWRD.DROPPED := by
  unfold State.devWake
  rw [hrest]
  exact if_pos hst

/-- A wake from DOZE with no domain to wake. -/
theorem State.devBegin_alone {s : State} (h : s.dev.dozed = []) : (s.devBegin 0).dev =
    { s.dev with trans := some 0, committed := false, stopping := false } := by
  unfold State.devBegin
  rw [h]
  rfl

theorem timeAlarm_wakes {s : State} (hvalid : s.timeValid = true) (hdue : s.time.now ≤ s.alarmTime) (hon : s.wakeEnabled 4 = true) :
    timeAlarm s = (s.reach s.alarmTime).devWake 4 := by
  have hstill : (s.reach s.alarmTime).wakeEnabled 4 = s.wakeEnabled 4 := by rw [State.reach_eq]; rfl
  rw [timeAlarm, if_pos ⟨hvalid, hdue⟩, State.wakeFrom, if_pos (hstill.trans hon)]

/-- Settles O13: domWake with nothing to wake above, and the cases of devWake. -/
theorem wakesBegin : Obligations.WakesBegin := by
  refine ⟨fun s d src hst hrest hup => ⟨_, congrArg finish (State.domWake_begins hst hrest hup), ?_⟩,
    fun s src hon => congrArg finish (if_pos hon), fun s htakes => ?_, fun s hon => congrArg finish (if_pos hon),
    fun s hvalid hdue hon => congrArg finish (timeAlarm_wakes hvalid hdue hon), fun s src hst hrest hdozed => ?_,
    fun s src => State.devWake_run src⟩
  · refine ⟨?_, fun c hc => ?_, ?_, ?_⟩
    · rw [settle_domAt, State.domBegin_domAt, if_pos rfl]
    · rw [settle_domAt, State.domBegin_domAt, if_neg hc]
    · exact (settle_fld _ _ _ _).trans (s.domBegin_source d (by have := src.isLt; omega))
    · rw [settle_dom]
      exact (s.domBegin_touches src.val (by have := d.isLt; omega)).settle
  · exact congrArg finish ((State.hostWrite_shared rfl htakes _).trans (if_pos (by decide)))
  · have hdev : ((s.noteWake src).devBegin 0).dev = { s.dev with trans := some 0, committed := false, stopping := false } := by
      rw [State.devBegin_alone (by rw [State.noteWake_dev, hdozed]), State.noteWake_dev]
    rw [State.devWake_doze src hst hrest, hdev]
    exact ⟨rfl, hst⟩

/-! ### Team clocks (R449) -/

theorem clkCtrl_bits : rwBits pgDev Reg.PWRD.CLK_CTRL.off &&& 3 = 3 ∧ w1cBits pgDev Reg.PWRD.CLK_CTRL.off = 0 := by decide

theorem State.clkStored_flag (s : State) (v : Fin 4) {f : Fld} (hf : f = clkSel 0 ∨ f = clkSel 1) :
    (s.plainWrite pgDev Reg.PWRD.CLK_CTRL.off 0 (BitVec.ofNat 32 v)).flag pgDev f = bit v.val f.lo := by
  have hshape : f.hi = f.lo ∧ f.off = Reg.PWRD.CLK_CTRL.off ∧ f.lo < 32 ∧ bit (rwBits pgDev Reg.PWRD.CLK_CTRL.off) f.lo = true := by
    rcases hf with rfl | rfl <;> decide
  obtain ⟨hone, hoff, hlo, hrw⟩ := hshape
  have hread : (s.plainWrite pgDev Reg.PWRD.CLK_CTRL.off 0 (BitVec.ofNat 32 v)).rd pgDev Reg.PWRD.CLK_CTRL.off =
      BitVec.ofNat 32 (accessWrite (s.rd pgDev Reg.PWRD.CLK_CTRL.off).toNat (BitVec.ofNat 32 v.val).toNat
        (rwBits pgDev Reg.PWRD.CLK_CTRL.off) 0) := by
    rw [State.plainWrite, State.wrL, State.through_rd _ _ _ _ (by decide) (by decide) (by norm_num), State.rd_wr_same,
      clkCtrl_bits.2]
  rw [State.flag_eq_bit _ _ _ _ hone, hoff, hread, bit_ofNat _ hlo, bit_accessWrite _ _ _ hlo, if_pos hrw, bit_ofNat _ hlo]

theorem State.clkStored_touches (s : State) (v : W32) :
    let t := s.plainWrite pgDev Reg.PWRD.CLK_CTRL.off 0 v
    Touches { s with lehr := t.lehr } t (fun q => q = pgDev ∨ q = pgLehr) := by
  intro t
  exact Touches.trans (((Touches.refl s _).wr _ _ _ _ (.inl rfl) (by decide) (by norm_num)).withLehr _) (State.through_touches _ _ _ _)

/-- Settles O15: a plain write of CLK_CTRL, and the conditions of the three commands. -/
theorem teamClocks : Obligations.TeamClocks := by
  refine ⟨fun s v htakes => ⟨_, congrArg finish (State.hostWrite_shared rfl htakes _), ?_, ?_, ?_⟩,
    fun s t hsel hon href hteam => congrArg finish (if_pos ⟨hsel, hon, by rw [href]; rfl, by rw [hteam]; rfl⟩),
    fun s t hsel hlock => congrArg finish (if_pos ⟨hsel, by rw [hlock]; rfl⟩),
    fun s hauto hst ha hb => congrArg finish (if_pos ⟨hauto, hst, ha, hb⟩)⟩
  · exact (settle_flag _ _ _ _).trans (s.clkStored_flag v (.inl rfl))
  · exact (settle_flag _ _ _ _).trans (s.clkStored_flag v (.inr rfl))
  · rw [settle_lehr]
    exact (s.clkStored_touches _).settle

end Sys2Proof.Machine
end

section
/-! SUPPORT. O14: device states (R443, R452, R453, R455). What of the device's record the steps of an entry and of a plan leave. -/

namespace Sys2Proof.Machine

/-! ### What the steps leave of the device's record -/

theorem State.sagUngate_dev (s : State) (u : Nat) : (s.sagUngate u).dev = s.dev := by
  unfold State.sagUngate
  dsimp only
  split
  · rfl
  · rfl

theorem State.sagPlan_dev (s : State) (u : Nat) : (s.sagPlan u).dev = s.dev := by
  rcases s.sagPlan_cases u with h | h | h
  · rw [h]
  · rw [h, State.sagUngate_dev]
  · rw [h, State.raise_dev, State.bump_dev, State.sagUngate_dev]

theorem State.sagPlanAll_dev (s : State) : s.sagPlanAll.dev = s.dev :=
  List.foldlRecOn (motive := fun u : State => u.dev = s.dev) _ _ rfl fun u hu k _ => (u.sagPlan_dev k).trans hu

theorem State.stepStart_dev (s : State) (e : Nat × Nat) : (s.stepStart e).dev = s.dev := by
  unfold State.stepStart
  split
  · rfl
  · rfl

/-- The steps of an entry write only what is left of them. -/
theorem State.entryFrom_dev (l : List (List (Nat × Nat))) (s : State) :
    (s.entryFrom l).dev = { s.dev with todo := (s.entryFrom l).dev.todo } := by
  induction l with
  | nil => rfl
  | cons g rest ih =>
    rw [State.entryFrom]
    split
    · exact ih
    · exact State.each_keeps (I := fun u => u.dev = { s.dev with todo := u.dev.todo }) _ rfl
        fun u e _ hu => by rw [State.stepStart_dev, hu]

theorem State.entryStep_dev (s : State) : s.entryStep.dev = { s.dev with todo := s.entryStep.dev.todo } := by
  unfold State.entryStep
  split
  · rfl
  · exact State.entryFrom_dev _ s

/-- An entry that begins is past its commit point, and admission is closed. -/
theorem State.sleepBegin_dev (s : State) (l : List (List (Nat × Nat))) : (s.sleepBegin l).dev =
    { s.dev with committed := true, closed := List.range 8, todo := (s.sleepBegin l).dev.todo } := by
  unfold State.sleepBegin
  extract_lets dev s1
  have hkeep : (s1.each l.flatten fun s e =>
      if (s.domAt e.1).pend.isSome then (s.onDom e.1 fun m => { m with pend := none }).devBump Reg.PWRD.SUPERSEDED else s).dev =
      s1.dev := State.each_keeps (I := fun u => u.dev = s1.dev) _ rfl fun u e _ hu => by
      split
      · rw [State.devBump, State.bump_dev, State.onDom_eq, State.putDom_dev, hu]
      · exact hu
  rw [State.entryStep_dev, hkeep]

theorem State.sleepBegin_marks {s : State} (l : List (List (Nat × Nat))) (h : s.dev.stopping = false) :
    (s.sleepBegin l).dev.committed = true ∧ (s.sleepBegin l).dev.stopping = false ∧
      (s.sleepBegin l).dev.closed = List.range 8 := by
  rw [State.sleepBegin_dev]
  exact ⟨rfl, h, rfl⟩

theorem State.dozeSleep_marks {s : State} (h : s.dev.stopping = false) : s.dozeSleep.dev.committed = true ∧
    s.dozeSleep.dev.stopping = false ∧ s.dozeSleep.dev.closed = List.range 8 := by
  rw [State.dozeSleep]
  exact State.sleepBegin_marks _ h

theorem State.annealSleep_marks {s : State} (h : s.dev.stopping = false) : s.annealSleep.dev.committed = true ∧
    s.annealSleep.dev.stopping = false ∧ s.annealSleep.dev.closed = List.range 8 := by
  rw [State.annealSleep]
  exact State.sleepBegin_marks _ h

/-! ### The end of a drain (R453, R455) -/

theorem dozeDrainEnd_doze {s : State} (hopen : s.dev.committed = false) (h : s.dev.trans = some 1) : dozeDrainEnd s =
    ({ s.dozeFlush with dev := { s.dozeFlush.dev with stopping := false } } : State).dozeSleep := by
  rw [dozeDrainEnd, if_neg (by simp [hopen]), h]
  rfl

theorem dozeDrainEnd_anneal {s : State} (hopen : s.dev.committed = false) (h : s.dev.trans = some 2) : dozeDrainEnd s =
    ({ s.dozeFlush with dev := { s.dozeFlush.dev with stopping := false } } : State).annealSleep := by
  rw [dozeDrainEnd, if_neg (by simp [hopen]), h]
  rfl

/-! ### The end of a transition -/

/-- The state as the device reaches its target, a latched wake still to act. -/
def State.devReached (s : State) (k : Nat) : State :=
  let waking := s.dev.dozed.reverse.filter fun d => ((s.domAt d).trans.map Prod.fst) == some 0
  let u := if k = 0 then s.each waking fun s d => s.domArrive d else s.entryEnd
  ({ u with dev := { u.dev with st := k, trans := none, committed := false } }.sagPlanAll.bump pgDev
    Reg.PWRD.DEV_TRANSITIONS).raise pgDev 0

theorem State.devReached_spec (s : State) (k : Nat) : (s.devReached k).dev.st = k ∧ (s.devReached k).dev.trans = none ∧
    (s.devReached k).dev.committed = false ∧ (s.devReached k).caused pgDev 0 := by
  unfold State.devReached
  extract_lets waking u dev
  rw [State.raise_dev, State.bump_dev, State.sagPlanAll_dev]
  exact ⟨rfl, rfl, rfl, State.caused_raise _ (by norm_num)⟩

theorem State.transition_ready {s : State} {k : Nat}
    (hready : k = 0 ∨ s.dev.committed = true ∧ (List.range 8).any s.engineBusy = false ∧ s.entryReady = true) :
    ¬ (k ≠ 0 ∧ ((!s.dev.committed) = true ∨ (List.range 8).any s.engineBusy = true ∨ (!s.entryReady) = true)) := by
  rintro ⟨hk, hblock⟩
  obtain ⟨hc, hb, hr⟩ := hready.resolve_left hk
  simp [hc, hb, hr] at hblock

section
variable {s : State} {k : Nat} (h : s.dev.trans = some k)
  (hready : k = 0 ∨ s.dev.committed = true ∧ (List.range 8).any s.engineBusy = false ∧ s.entryReady = true)
include h hready

theorem deviceTransitionDone_rests (hlatch : s.dev.latched = none) (hpend : s.dev.pend = none) :
    deviceTransitionDone s = s.devReached k := by
  unfold deviceTransitionDone
  rw [h]
  dsimp only
  rw [if_neg (State.transition_ready hready), hlatch, hpend]
  rfl

theorem deviceTransitionDone_wakes {src : Nat} (hlatch : s.dev.latched = some src) : deviceTransitionDone s =
    ({ s.devReached k with dev := { (s.devReached k).dev with latched := none } } : State).devWake src := by
  unfold deviceTransitionDone
  rw [h]
  dsimp only
  rw [if_neg (State.transition_ready hready), hlatch]
  rfl

end

/-! ### Requests -/

theorem devRequestWrite_waits {s : State} (h : s.takes pgDev) {k : Nat} (hk : k < 3) :
    devRequestWrite k s = { s with dev := { s.dev with req := s.dev.req ++ [k] } } := by
  refine (State.hostWrite_shared rfl h _).trans ?_
  unfold State.devCmdWrite
  interval_cases k
  · exact (if_neg (by decide)).trans (if_neg (by decide))
  · exact (if_neg (by decide)).trans (if_neg (by decide))
  · exact (if_neg (by decide)).trans (if_neg (by decide))

theorem devRequestWrite_reserved {s : State} (h : s.takes pgDev) : devRequestWrite 3 s = s.bump pgDev Reg.PWRD.DROPPED :=
  by
  refine (State.hostWrite_shared rfl h _).trans ?_
  unfold State.devCmdWrite
  exact (if_neg (by decide)).trans (if_pos (by decide))

/-- Settles O14: the requests, the commit point at a drain's end, and the end of a transition. -/
theorem deviceStates : Obligations.DeviceStates := by
  refine ⟨fun s htakes => ⟨congrArg finish (devRequestWrite_waits htakes (by norm_num)),
      congrArg finish (devRequestWrite_waits htakes (by norm_num)), congrArg finish (devRequestWrite_waits htakes (by norm_num)),
      congrArg finish (devRequestWrite_reserved htakes)⟩,
    fun s hopen => ⟨fun h => ⟨_, congrArg finish (dozeDrainEnd_doze hopen h), rfl, ?_⟩,
      fun h => ⟨_, congrArg finish (dozeDrainEnd_anneal hopen h), rfl, ?_⟩⟩,
    fun s k h hready => ⟨fun hlatch hpend => ⟨_, congrArg finish (deviceTransitionDone_rests h hready hlatch hpend), rfl, ?_⟩,
      fun src hlatch => congrArg finish (deviceTransitionDone_wakes h hready hlatch)⟩⟩
  · rw [settle_dev]
    exact State.dozeSleep_marks rfl
  · rw [settle_dev]
    exact State.annealSleep_marks rfl
  · rw [settle_dev, settle_caused]
    exact s.devReached_spec k

end Sys2Proof.Machine
end

section
/-! SUPPORT. O44: slices and groups (R459 to R462). -/

namespace Sys2Proof.Machine

/-! ### Ports and groups (R18, R19) -/

theorem groupPort_portGroup {p : Nat} (h : p < 512) : groupPort (portGroup p) (portSlot p) = p ∧ portSlot p < 16 := by
  unfold groupPort portGroup portSlot
  split_ifs <;> omega

theorem portGroup_groupPort {g i : Nat} (hg : g < 32) (hi : i < 16) : portGroup (groupPort g i) = g := by
  unfold portGroup groupPort
  split_ifs <;> omega

theorem sagPorts_slice {u : Nat} (h : u < 512) : sagPorts u = [u] := by rw [sagPorts, sagGroup, if_pos h]

theorem sagPorts_group {u : Nat} (h : ¬ u < 512) : sagPorts u = (List.range 16).map (groupPort (u - 512)) := by
  rw [sagPorts, sagGroup, if_neg h]

/-- A unit is a slice of each of its ports, or their group's. -/
theorem unit_of_port {u p : Nat} (hu : u < 544) (hp : p ∈ sagPorts u) : u = p ∨ u = 512 + portGroup p := by
  by_cases h : u < 512
  · rw [sagPorts_slice h, List.mem_singleton] at hp
    exact .inl hp.symm
  · rw [sagPorts_group h] at hp
    obtain ⟨i, hi, rfl⟩ := List.mem_map.1 hp
    rw [portGroup_groupPort (by omega) (List.mem_range.1 hi)]
    omega

theorem pgPwr_ne_pgDev {u : Nat} (h : u < 544) : pgPwr (sagTeam u) ≠ pgDev := by
  have := sagTeam_lt h
  unfold pgPwr pgDev
  omega

/-! ### Gating -/

theorem Touches.withSag {s t : State} {P : Nat → Prop} (h : Touches s t P) (m : Tab SagSt) :
    Touches { s with sag := m } { t with sag := m } P :=
  ⟨congrArg (fun x : State => { x with sag := m }) h.rest, h.regs, h.ctrs, h.rings⟩

theorem sagGate_left {u : Fin 544} {s : State} (h : s.sagAllowed u = false ∨ s.sagChoice u = 0) : sagGate u s = s := by
  unfold sagGate
  split
  next hgo =>
    rw [h.resolve_left (by simp [hgo])]
    rfl
  next => rfl

/-- The state as a unit is gated. -/
def State.sagGated (s : State) (u k : Nat) : State :=
  (s.onSag u fun g => { g with gated := k, since := s.time.now }).bump (pgPwr (sagTeam u))
    (if k = 2 then Reg.PWRT.SAG_NAPS else Reg.PWRT.SAG_IDLES)

theorem sagGate_gates {u : Fin 544} {s : State} (hgo : s.sagAllowed u = true) (hk : s.sagChoice u ≠ 0) :
    sagGate u s = s.sagGated u (s.sagChoice u) := by
  unfold sagGate
  rw [if_pos hgo]
  split
  next hzero => exact absurd hzero hk
  next => rfl

theorem State.sagAt_putSag (s : State) (u v : Nat) (g : SagSt) : (s.putSag u g).sagAt v = if v = u then g else s.sagAt v := by
  by_cases h : v = u
  · subst h
    rw [if_pos rfl, State.sagAt_same]
  · rw [if_neg h, State.sagAt_ne _ _ h]

theorem settle_sag (s : State) : (settle s).sag = s.sag := by rw [settle_frame]

theorem settle_sagAt (s : State) (u : Nat) : (settle s).sagAt u = s.sagAt u := by rw [State.sagAt, settle_sag, State.sagAt]

theorem State.sagGated_spec (s : State) (u : Fin 544) (k : Nat) : let t := s.sagGated u k
    t.sagAt u = { s.sagAt u with gated := k, since := s.time.now } ∧ (∀ v, v ≠ u.val → t.sagAt v = s.sagAt v) ∧
    (let c := if k = 2 then Reg.PWRT.SAG_NAPS else Reg.PWRT.SAG_IDLES
     t.ctr (pgPwr (sagTeam u)) c = s.ctr (pgPwr (sagTeam u)) c + 1) ∧
    Touches { s with sag := t.sag } t (· = pgPwr (sagTeam u)) := by
  intro t
  have hat (v : Nat) : t.sagAt v = if v = u.val then { s.sagAt u with gated := k, since := s.time.now } else s.sagAt v := by
    dsimp only [t]
    rw [State.sagGated, State.sagAt, State.bump_sag, State.onSag_eq]
    exact s.sagAt_putSag _ _ _
  have hoff : (if k = 2 then Reg.PWRT.SAG_NAPS else Reg.PWRT.SAG_IDLES) < 4096 := by split <;> decide
  refine ⟨(hat u).trans (if_pos rfl), fun v hv => (hat v).trans (if_neg hv), ?_,
    ((Touches.refl s (· = pgPwr (sagTeam u))).withSag _).bump _ _ rfl hoff⟩
  exact (State.ctr_bump_same _ _ _).trans (congrArg (· + 1) (State.ctr_congr (State.putSag_ctrs _ _ _) _ _ _))

/-! ### Wakes -/

theorem State.sagUngate_sagAt (s : State) (u : Nat) : (s.sagUngate u).sagAt u =
    { s.sagAt u with gated := 0, ready := s.time.now + sagWakeTime u (s.sagAt u).gated } := by
  unfold State.sagUngate
  dsimp only
  split
  · rw [State.sagAt, State.addCtr_sag, State.onSag_eq]
    exact s.sagAt_same _ _
  · rw [State.onSag_eq, State.sagAt_same]

theorem sagWake_begins {s : State} {u : Fin 544} {e : Nat} (hgated : (s.sagAt u).gated ≠ 0) (hgood : (s.sagAt u).failed = false)
    (hend : s.unitEnd u = some e) : sagWake u s =
      (let t := (s.reach (e - sagWakeTime u (s.sagAt u).gated - s.sagGuard)).sagUngate u
       if u.val < 512 then t.sagPlan (512 + portGroup u) else t) := by
  unfold sagWake
  dsimp only
  rw [if_neg (by simp [hgated, hgood]), hend]
  dsimp only
  rw [State.ifDo]
  simp only [decide_eq_true_eq]

theorem sagWake_left {s : State} {u : Fin 544} (h : (s.sagAt u).gated = 0 ∨ (s.sagAt u).failed = true ∨ s.unitEnd u = none) :
    sagWake u s = s := by
  unfold sagWake
  dsimp only
  split
  next => rfl
  next hstay =>
    obtain ⟨hgated, hgood⟩ := not_or.1 hstay
    rw [(h.resolve_left hgated).resolve_left hgood]

/-- A pipeline slice does not stay gated with a port of its group awake. -/
theorem State.sagPlan_wakes {s : State} {p : Nat} (hp : p < 512) (hawake : (s.sagAt p).gated = 0)
    (hgood : (s.sagAt (512 + portGroup p)).failed = false) :
    ((s.sagPlan (512 + portGroup p)).sagAt (512 + portGroup p)).gated = 0 := by
  obtain ⟨hplace, hslot⟩ := groupPort_portGroup hp
  have hgroup : sagGroup (512 + portGroup p) = some (portGroup p) := by
    rw [sagGroup, if_neg (by omega), Nat.add_sub_cancel_left]
  have hholds : s.sagHolds (512 + portGroup p) = false := by
    unfold State.sagHolds
    rw [hgroup]
    refine Bool.and_eq_false_iff.2 (.inr (List.all_eq_false.2 ⟨portSlot p, List.mem_range.2 hslot, ?_⟩))
    rw [hplace, hawake]
    decide
  unfold State.sagPlan
  extract_lets g openNow closed e s1
  have hwoken : (s1.sagAt (512 + portGroup p)).gated = 0 := by
    dsimp only [s1]
    rw [State.sagUngate_sagAt]
  split
  next hstay => exact hstay.resolve_right (by simp [g, hgood])
  next =>
    rw [if_neg (by simp [closed, hholds])]
    clear_value s1
    split
    · exact hwoken
    · rw [State.sagAt, State.raise_sag, State.bump_sag]
      exact hwoken

/-! ### A failed wake (R462) -/

theorem State.setLehrWord_sag (s : State) (a v : Nat) : (s.setLehrWord a v).sag = s.sag := rfl

theorem State.refusalLog_sag (s : State) (w0 w1 : Nat) : (s.refusalLog w0 w1).sag = s.sag := by
  unfold State.refusalLog
  extract_lets a s1 dev s2
  have h2 : s2.sag = s.sag := by
    show s1.sag = _
    dsimp only [s1]
    rw [State.setLehrWord_sag, State.setLehrWord_sag]
  split
  · rw [State.raise_sag, State.bump_sag, h2]
  · exact h2

theorem State.refusalLog_caused {s : State} {w0 w1 q i : Nat} (hi : i < 32) (h : s.caused q i) :
    (s.refusalLog w0 w1).caused q i := by
  unfold State.refusalLog
  extract_lets a s1 dev s2
  have h2 : s2.caused q i := by
    have hregs : s2.regs = s.regs := by
      show s1.regs = _
      dsimp only [s1]
      rw [State.setLehrWord_regs, State.setLehrWord_regs]
    rwa [State.caused, State.rd_congr hregs]
  clear_value s2
  split
  · exact State.caused_raise_any hi (State.caused_bump.2 h2)
  · exact h2

theorem State.refusal_sag (s : State) (d : Nat) (target refuser src : Nat) :
    (s.refusal (some d) target refuser src).sag = s.sag := by
  unfold State.refusal
  extract_lets s1 s2
  rw [State.refusalLog_sag]
  dsimp only [s2, s1]
  rw [State.raise_sag, State.bump_sag, State.setFld_sag, State.domCount, State.bump_sag]

theorem State.refusal_caused {s : State} {q i : Nat} (d target refuser src : Nat) (hq : q ≠ pgDev) (hd : d < 4096) (hi : i < 32)
    (h : s.caused q i) : (s.refusal (some d) target refuser src).caused q i := by
  unfold State.refusal
  extract_lets s1 s2
  refine State.refusalLog_caused hi (State.caused_raise_any hi (State.caused_bump.2 ?_))
  rw [State.caused, State.rd_setFld_ne _ _ _ _ _ (rkey_ne_page (by norm_num) (by decide) (by norm_num) hd hq)]
  exact h

/-- The ports of a list are out of service. -/
def State.sagOff (s : State) (l : List Nat) : State := l.foldl (fun s p => s.onSag p fun g => { g with off := true }) s

theorem State.sagOff_sagAt (l : List Nat) (s : State) (v : Nat) :
    (s.sagOff l).sagAt v = if v ∈ l then { s.sagAt v with off := true } else s.sagAt v := by
  induction l generalizing s with
  | nil => rfl
  | cons p rest ih =>
    rw [State.sagOff, List.foldl_cons]
    refine (ih _).trans ?_
    rw [State.onSag_eq, State.sagAt_putSag]
    by_cases hv : v = p
    · subst hv
      rw [if_pos rfl, if_pos List.mem_cons_self]
      split <;> rfl
    · rw [if_neg hv]
      simp only [List.mem_cons, hv, false_or]

/-- A unit whose wake has failed. -/
def State.sagFailed (s : State) (u : Nat) : State :=
  (s.onSag u fun g => { g with failed := true, off := true }).sagOff (sagPorts u)

theorem State.sagFailed_spec (s : State) (u : Nat) : ((s.sagFailed u).sagAt u).failed = true ∧
    ∀ p ∈ sagPorts u, ((s.sagFailed u).sagAt p).off = true := by
  refine ⟨?_, fun p hp => ?_⟩
  · rw [State.sagFailed, State.sagOff_sagAt, State.onSag_eq, State.sagAt_same]
    split <;> rfl
  · rw [State.sagFailed, State.sagOff_sagAt, if_pos hp]

theorem sliceWakeFail_fails {s : State} {u : Fin 544} (h : (s.sagAt u).failed = false) : sliceWakeFail u s =
    (((s.sagFailed u).bump (pgPwr (sagTeam u)) Reg.PWRT.SLICE_WAKE_FAIL).raise (pgPwr (sagTeam u)) 1).refusal
      (some (sagDomain u)) 0 2 5 := by
  rw [sliceWakeFail, if_neg (by simp [h])]
  rfl

theorem sagDomain_lt {u : Nat} (h : u < 544) : sagDomain u < 4096 := by
  unfold sagDomain portQuad portLane domEgress
  split_ifs <;> omega

/-- Settles O44: sagGate's and sagWake's cases, a pipeline slice with an awake port, and the slices of a failed unit. -/
theorem slicesAreGated : Obligations.SlicesAreGated := by
  refine ⟨fun s u => ⟨fun hstay => congrArg finish (sagGate_left hstay), fun hgo hk => ⟨_, congrArg finish (sagGate_gates hgo hk), ?_⟩⟩,
    fun s u => ⟨fun e hgated hgood hend => congrArg finish (sagWake_begins hgated hgood hend),
      fun hstay => congrArg finish (sagWake_left hstay)⟩,
    fun s p => State.sagPlan_wakes p.isLt, fun s u => ?_, fun s u => ⟨fun hgood => ⟨_, congrArg finish (sliceWakeFail_fails hgood), ?_⟩,
      fun hfailed => ⟨congrArg finish (if_pos hfailed), ⟨_, congrArg finish (if_pos (by rw [hfailed]; rfl)), ?_⟩,
        congrArg finish (if_neg (by rw [hfailed]; decide))⟩⟩, fun s u p hp hlt hfailed => ?_⟩
  · obtain ⟨hunit, hother, hcount, htouch⟩ := s.sagGated_spec u (s.sagChoice u)
    refine ⟨?_, fun v hv => ?_, ?_, ?_⟩
    · rw [settle_sagAt, hunit]
    · rw [settle_sagAt, hother v hv]
    · have hpage : pgPwr (sagTeam u) ≠ pgHost := by
        have := sagTeam_lt u.isLt
        unfold pgPwr pgHost
        omega
      exact (settle_ctr_page _ hpage (by split <;> decide) (by norm_num)).trans hcount
    · rw [settle_sag]
      exact htouch.settle
  · rw [State.sagUngate_sagAt]
    exact ⟨rfl, rfl⟩
  · obtain ⟨hfailed, hoff⟩ := s.sagFailed_spec u
    have hat (v : Nat) : (settle ((((s.sagFailed u).bump (pgPwr (sagTeam u)) Reg.PWRT.SLICE_WAKE_FAIL).raise
        (pgPwr (sagTeam u)) 1).refusal (some (sagDomain u)) 0 2 5)).sagAt v = (s.sagFailed u).sagAt v := by
      rw [settle_sagAt, State.sagAt, State.refusal_sag, State.raise_sag, State.bump_sag, State.sagAt]
    refine ⟨(congrArg SagSt.failed (hat u)).trans hfailed, fun p hp => (congrArg SagSt.off (hat p)).trans (hoff p hp), ?_⟩
    exact (settle_caused _ _ _).2 (State.refusal_caused _ _ _ _ (pgPwr_ne_pgDev u.isLt) (sagDomain_lt u.isLt) (by norm_num)
      (State.caused_raise _ (by norm_num)))
  · refine ⟨?_, fun v hv => ?_, ?_⟩
    · rw [settle_sagAt, State.onSag_eq, State.sagAt_same]
    · rw [settle_sagAt, State.onSag_eq, State.sagAt_ne _ _ hv]
    · rw [settle_sag]
      exact ((Touches.refl s (fun _ => False)).withSag _).settle
  · have hmem : u.val ∈ [p, 512 + portGroup p] := by simpa using unit_of_port u.isLt hp
    refine List.all_eq_false.2 ⟨u, hmem, ?_⟩
    simp [hfailed]

end Sys2Proof.Machine
end

section
/-! SUPPORT. O28: the I2C target (R504, R535, R536). -/

namespace Sys2Proof.Machine

/-- The pages that the target reaches are the shared hub's (R536). -/
theorem pageTeam_shared {p : Nat} (h : p ≤ 0x500) : pageTeam p = none := by
  have hhigh : p / 256 ≤ 5 := by omega
  unfold pageTeam
  dsimp only
  generalize p / 256 = c at hhigh
  interval_cases c <;> rfl

section
variable {s : State} {p : Nat} (hp : i2cPage p = true)
include hp

theorem i2cPage_team : pageTeam p = none ∧ (pageKind p).isSome = true := by
  rw [i2cPage, Bool.and_eq_true, decide_eq_true_eq] at hp
  exact ⟨pageTeam_shared hp.1, hp.2⟩

variable (hkept : s.pageLost p = false) (hawake : s.domSteady (pageDomain p) = true)
include hkept hawake

theorem State.onPage_shared (f : State → State) : s.onPage p f = f s := by
  obtain ⟨hteam, -⟩ := i2cPage_team hp
  have hup : s.pageUp p = true := by rw [State.pageUp, hteam]
  unfold State.onPage
  rw [if_neg (by simp [hkept]), if_neg (by simp [hup]), State.hubAnswered_shared hteam]
  exact if_pos hawake

theorem State.fromPage_shared (f : State → W32 × State) (z : W32) : s.fromPage p f z = f s := by
  obtain ⟨hteam, hkind⟩ := i2cPage_team hp
  have hup : s.pageUp p = true := by rw [State.pageUp, hteam]
  unfold State.fromPage
  rw [if_neg (by simp [Option.isSome_iff_ne_none.1 hkind]), if_neg (by simp [hkept]), if_neg (by simp [hup]), State.hubAnswered_shared hteam]
  exact if_pos hawake

end

/-! ### A transfer that the target takes -/

section
variable {s : State} {pec : Bool} (hthere : s.hostGone = false) (hout : s.boot.asserted = false)
  (hpec : s.flag pgHost Reg.HOST.I2C_CFG_PEC_EN = false ∨ pec = true)
include hthere hout hpec

theorem State.i2c_takes (f : State → State) : s.i2c pec f = f s :=
  if_neg (by rcases hpec with h | h <;> simp [hthere, hout, h])

theorem i2cRead_reaches {a : W32} (hp : i2cPage (a.toNat / 4096) = true) (hkept : s.pageLost (a.toNat / 4096) = false)
    (hawake : s.domSteady (pageDomain (a.toNat / 4096)) = true) : i2cRead a pec s =
      State.respond (s.readWord .i2c (a.toNat / 4096) (a.toNat % 4096 / 4 * 4)) := by
  rw [i2cRead, State.i2c_takes hthere hout hpec, State.readAt, State.pathRead, if_neg (by simp [hthere]), if_pos hp,
    State.fromPage_shared hp hkept hawake]

theorem i2cRead_denied {a : W32} (hp : i2cPage (a.toNat / 4096) = false) : i2cRead a pec s =
    { (s.bump pgHost Reg.HOST.I2C_DENIED).raise pgHost 2 with resp := [0xFFFFFFFF] } := by
  rw [i2cRead, State.i2c_takes hthere hout hpec, State.readAt, State.pathRead, if_neg (by simp [hthere]), if_neg (by simp [hp])]

theorem i2cWrite_reaches {a : W32} (v : W32) (hp : i2cPage (a.toNat / 4096) = true) (hkept : s.pageLost (a.toNat / 4096) = false)
    (hawake : s.domSteady (pageDomain (a.toNat / 4096)) = true) : i2cWrite a v pec s =
      s.writeWord (a.toNat / 4096) (a.toNat % 4096 / 4 * 4) v := by
  have hat : i2cAt a = some (a.toNat / 4096) := if_pos hp
  rw [i2cWrite, State.i2c_takes hthere hout hpec, hat]
  exact State.onPage_shared hp hkept hawake _

theorem i2cWrite_denied {a : W32} (v : W32) (hp : i2cPage (a.toNat / 4096) = false) : i2cWrite a v pec s =
    (s.bump pgHost Reg.HOST.I2C_DENIED).raise pgHost 2 := by
  have hat : i2cAt a = none := if_neg (by simp [hp])
  rw [i2cWrite, State.i2c_takes hthere hout hpec, hat]

end

/-! ### STATUS and the ROM (R484) -/

theorem State.romSeen_rests {s : State} (h : s.boot.stage ≠ 1) : s.romSeen = s := if_neg h

theorem State.romSeen_cases {s : State} (h : s.boot.stage = 1) :
    s.romSeen = (s.free 1).2.setStage 2 ∨ s.romSeen = (s.free 1).2 := by
  unfold State.romSeen
  rw [if_pos h]
  dsimp only
  split
  · exact .inl rfl
  · exact .inr rfl

theorem State.romSeen_dev (s : State) : s.romSeen.dev = s.dev := by
  by_cases h : s.boot.stage = 1
  · rcases State.romSeen_cases h with hseen | hseen
    · rw [hseen, State.setStage, State.setFld_dev]
      rfl
    · rw [hseen]
      rfl
  · rw [State.romSeen_rests h]

theorem State.romSeen_stage {s : State} (h : s.boot.stage = 1) : s.romSeen.boot.stage = 1 ∨ s.romSeen.boot.stage = 2 := by
  rcases State.romSeen_cases h with hseen | hseen
  · rw [hseen, State.setStage_boot]
    exact .inr rfl
  · rw [hseen]
    exact .inl h

/-- Settles O28: a taken transfer does what its page or its command does. -/
theorem i2cTarget : Obligations.I2cTarget := by
  refine fun s pec hthere hout hpec => ⟨fun a hp hkept hawake => ⟨?_, fun v => ?_⟩, fun a v hp => ⟨?_, ?_⟩, fun hon => ?_, ?_,
    ⟨?_, s.romSeen_dev, State.romSeen_rests, State.romSeen_stage⟩, fun c x => rfl⟩
  · exact congrArg finish (i2cRead_reaches hthere hout hpec hp hkept hawake)
  · exact congrArg finish (i2cWrite_reaches hthere hout hpec v hp hkept hawake)
  · exact congrArg finish (i2cRead_denied hthere hout hpec hp)
  · exact congrArg finish (i2cWrite_denied hthere hout hpec v hp)
  · exact congrArg finish ((State.i2c_takes hthere hout hpec _).trans (if_pos hon))
  · exact congrArg finish (State.i2c_takes hthere hout hpec _)
  · exact congrArg finish (State.i2c_takes hthere hout hpec _)

end Sys2Proof.Machine
end

section
/-! SUPPORT. O25: snapshots and counter clears wait for the page's edge (R516, R521, R522). -/

namespace Sys2Proof.Machine

/-! ### Requests on a page -/

theorem State.snapAccept_snaps {s : State} {p : Nat} {snap clear : Bool} (h : (snap || clear) = true) :
    (s.snapAccept p snap clear).hub.snaps = s.hub.snaps ++ [(p, s.gridTick, snap, clear)] := by
  rw [State.snapAccept, if_pos h]

theorem bit_or_bits (v : W32) : bit (v ||| 1).toNat 0 = true ∧ bit (v ||| 1).toNat 1 = bit v.toNat 1 ∧
    bit (v ||| 2).toNat 0 = bit v.toNat 0 ∧ bit (v ||| 2).toNat 1 = true := by
  simp [bit, BitVec.toNat_or, Nat.testBit_or, show Nat.testBit 1 1 = false by decide,
    show Nat.testBit 2 1 = true by decide]

/-- A write of PAGE_CTRL with a request in it. -/
theorem State.pageCtrl_snaps (s : State) (p : Nat) {v : W32} (h : (bit v.toNat 0 || bit v.toNat 1) = true) :
    (s.pageCtrl p v).hub.snaps = s.hub.snaps ++ [(p, s.gridTick, bit v.toNat 0, bit v.toNat 1)] :=
  State.snapAccept_snaps h

theorem State.hubAnswered_snapsAt (s : State) (p : Nat) : (s.hubAnswered p).hub.snaps = s.hub.snaps ∧
    (s.hubAnswered p).gridTick = s.gridTick := by
  rw [State.hubAnswered_frame]
  exact ⟨rfl, rfl⟩

theorem State.pageCtrl_accepts {s : State} {p : Nat} (htakes : s.takes p) {v w : W32}
    (h : (bit w.toNat 0 || bit w.toNat 1) = true) :
    (settle (s.wordWrite p 0x008 v fun s => s.pageCtrl p w)).hub.snaps =
      s.hub.snaps ++ [(p, s.gridTick, bit w.toNat 0, bit w.toNat 1)] := by
  obtain ⟨hsnaps, htick⟩ := s.hubAnswered_snapsAt p
  rw [settle_hub, State.wordWrite_takes htakes, State.pageCtrl_snaps _ _ h, hsnaps, htick]

/-! ### A snapshot of every page (R522) -/

/-- What says that a page's domain stands, and the number of the tick, are as they were. -/
def State.Steady (s u : State) : Prop := u.dom = s.dom ∧ u.time = s.time ∧ u.pins = s.pins

theorem State.Steady.trans {s t u : State} (h : s.Steady t) (k : t.Steady u) : s.Steady u :=
  ⟨k.1.trans h.1, k.2.1.trans h.2.1, k.2.2.trans h.2.2⟩

theorem State.Steady.reads {s u : State} (h : s.Steady u) : (∀ d, u.domSteady d = s.domSteady d) ∧ u.gridTick = s.gridTick := by
  obtain ⟨hdom, htime, hpins⟩ := h
  refine ⟨fun d => ?_, ?_⟩
  · rw [State.domSteady, State.domOn, State.domDark, State.domAt, hdom, hpins, State.domSteady, State.domOn, State.domDark,
      State.domAt]
  · rw [State.gridTick, htime, State.gridTick]

theorem State.hubMissing_steady (s : State) (t : Nat) (write : Bool) : s.Steady (s.hubMissing t write) := by
  have hcounted : s.Steady (s.hubCounted write) := by cases write <;> exact ⟨rfl, rfl, rfl⟩
  cases h : s.hub.reported.contains t with
  | true => rwa [State.hubMissing_again write h]
  | false =>
    rw [State.hubMissing_first write h]
    exact hcounted.trans ⟨rfl, rfl, rfl⟩

theorem State.acceptWrite_snap_steady (s : State) (page : Nat) : s.Steady (s.acceptWrite { kind := .snap, page := page }) := by
  unfold State.acceptWrite
  extract_lets gone s0 s1 c1
  have h0 : s.Steady s0 := State.each_keeps (I := s.Steady) gone
    (by rw [State.countQuota_frame]; exact ⟨rfl, rfl, rfl⟩) fun u t _ hu => hu.trans (u.hubMissing_steady t true)
  have h1 : s.Steady s1 := by
    dsimp only [s1]
    rw [State.hubsBack_frame]
    exact h0
  clear_value s1
  split
  · exact h1
  · exact h1

/-- What a page does with a snapshot asked of the device. -/
def State.snapAsked (s : State) (p : Nat) : State := if s.domSteady (pageDomain p) then s.snapAccept p true false else s.downWrite

theorem State.snapAsked_steady (s : State) (p : Nat) : s.Steady (s.snapAsked p) := by
  unfold State.snapAsked
  split
  · exact ⟨rfl, rfl, rfl⟩
  · exact ⟨rfl, rfl, rfl⟩

theorem State.snapAsked_keeps {s : State} (p : Nat) {e : Nat × Nat × Bool × Bool} (h : e ∈ s.hub.snaps) :
    e ∈ (s.snapAsked p).hub.snaps := by
  unfold State.snapAsked
  split
  · exact List.mem_append_left _ h
  · exact h

/-- Each page of a list whose domain stands has its request, and requests stay. -/
theorem State.snapAsked_all {p n : Nat} (l : List Nat) {s : State} (hon : s.domSteady (pageDomain p) = true) (hn : s.gridTick = n)
    (h : p ∈ l ∨ (p, n, true, false) ∈ s.hub.snaps) : (p, n, true, false) ∈ (s.each l State.snapAsked).hub.snaps := by
  induction l generalizing s with
  | nil => exact h.resolve_left List.not_mem_nil
  | cons q rest ih =>
    obtain ⟨hsteady, htick⟩ := (s.snapAsked_steady q).reads
    rw [State.each, List.foldl_cons]
    refine ih ((hsteady _).trans hon) (htick.trans hn) ?_
    rcases h with hmem | hold
    · rcases List.mem_cons.1 hmem with rfl | hrest
      · right
        rw [State.snapAsked, if_pos hon, State.snapAccept_snaps (by rfl), hn]
        exact List.mem_append_right _ List.mem_cons_self
      · exact .inl hrest
    · exact .inr (State.snapAsked_keeps q hold)

theorem State.snapAll_asks {s : State} {p : Nat} (hpage : p ∈ allPages) (hup : s.pageUp p = true) (hkept : s.pageLost p = false)
    (hon : s.domSteady (pageDomain p) = true) : (p, s.gridTick, true, false) ∈ s.snapAll.hub.snaps := by
  obtain ⟨hsteady, htick⟩ := (s.acceptWrite_snap_steady pgHost).reads
  exact State.snapAsked_all _ ((hsteady _).trans hon) htick (.inl (List.mem_filter.2 ⟨hpage, by rw [hup, hkept]; rfl⟩))

/-- Settles O25: PAGE_CTRL's bits as its request, and the list of requests that a snapshot of the device leaves. -/
theorem snapshotsAreAccepted : Obligations.SnapshotsAreAccepted := by
  refine ⟨fun s p v hkind htakes => ⟨⟨_, congrArg finish (if_pos hkind), ?_⟩, ⟨_, congrArg finish (if_pos hkind), ?_⟩⟩,
    fun s htakes => congrArg finish (State.hostWrite_shared rfl htakes _), fun s p => State.snapAll_asks⟩
  · obtain ⟨hset, hkeep, -, -⟩ := bit_or_bits v
    rw [State.pageCtrl_accepts htakes (by rw [hset]; rfl), hset, hkeep]
  · obtain ⟨-, -, hkeep, hset⟩ := bit_or_bits v
    rw [State.pageCtrl_accepts htakes (by rw [hset, Bool.or_true]), hset, hkeep]

end Sys2Proof.Machine
end

section
/-! SUPPORT. O26: MSI-X messages (R524). -/

namespace Sys2Proof.Machine

theorem bit_or_own (x : W64) {v : Nat} (h : v < 64) : bit (x ||| BitVec.ofNat 64 (2 ^ v)).toNat v = true := by
  rw [bit, BitVec.toNat_or, Nat.testBit_or, BitVec.toNat_ofNat, Nat.testBit_mod_two_pow, Nat.testBit_two_pow_self]
  simp [h]

theorem bit_andNot_own (x : W64) {v : Nat} (h : v < 64) : bit (x &&& ~~~ BitVec.ofNat 64 (2 ^ v)).toNat v = false := by
  have hbit : (BitVec.ofNat 64 (2 ^ v)).getLsbD v = true := by
    rw [BitVec.getLsbD_ofNat, Nat.testBit_two_pow_self]
    simp [h]
  rw [bit, BitVec.testBit_toNat, BitVec.getLsbD_and, BitVec.getLsbD_not, hbit]
  simp

theorem State.message_held {s : State} {v : Nat} (hv : v < 64) (h : s.msixHeld v = true) :
    bit (s.message v).irq.pba.toNat v = true ∧ (s.message v).irq.sent = s.irq.sent := by
  rw [State.message, if_pos h]
  exact ⟨bit_or_own _ hv, rfl⟩

theorem State.cool_irq (s : State) (i : Nat) : (s.cool i).irq = s.irq := rfl

theorem State.message_sent {s : State} {v : Nat} (hv : v < 64) (h : s.msixHeld v = false)
    (haddr : s.rd pgMsix (Reg.MSIX.ADDR_LO v).off ≠ 0) :
    bit (s.message v).irq.pba.toNat v = false ∧ (s.message v).irq.sent = v :: s.irq.sent := by
  have hirq : (s.message v).irq = { s.irq with sent := v :: s.irq.sent, pba := s.irq.pba &&& ~~~ BitVec.ofNat 64 (2 ^ v) } := by
    rw [State.message, if_neg (by simp [h]), if_neg fun hnone => haddr hnone.1]
    exact State.each_keeps (I := fun u => u.irq = { s.irq with
      sent := v :: s.irq.sent, pba := s.irq.pba &&& ~~~ BitVec.ofNat 64 (2 ^ v) }) _ rfl fun u i _ hu => (u.cool_irq i).trans hu
  rw [hirq]
  exact ⟨bit_andNot_own _ hv, rfl⟩

theorem State.vectorMask_clears {s : State} {v : Nat} (h : s.flag pgMsix (Reg.MSIX.VCTL_MASK v) = true) :
    s.vectorMask v false = (s.setFld pgMsix (Reg.MSIX.VCTL_MASK v) 0).sendHeld [v] := if_pos (by rw [h]; rfl)

theorem State.setFmask_clears {s : State} (h : s.pcie.fmask = true) : s.setFmask false =
    ({ s with pcie := { s.pcie with fmask := false } } : State).sendHeld (List.range 64) := if_pos (by rw [h]; rfl)

theorem State.setMsix_sets {s : State} (h : s.pcie.msix = false) : s.setMsix true =
    ({ s with pcie := { s.pcie with msix := true } } : State).sendHeld (List.range 64) := if_pos (by rw [h]; rfl)

/-- BAR2's registers are written while the host reaches them. -/
theorem State.bar2_takes {s : State} (hd3 : s.pcie.d3 = false) (hthere : s.hostGone = false) (hon : s.domSteady domHost = true)
    (f : State → State) : s.bar2 f = f s := if_neg (by simp [hd3, hthere, hon])

/-- Settles O26: the cases of message, and the writes that send what waited. -/
theorem messagesAreSent : Obligations.MessagesAreSent := by
  refine ⟨fun s v htakes hactive => ?_, fun s v hd3 hthere hon hmask => ?_,
    fun s hthere => ⟨fun hmask => ?_, fun hoff => ?_⟩,
    fun s v hv => ⟨State.message_held hv, State.message_sent hv⟩⟩
  · exact congrArg finish ((State.hostWrite_shared rfl htakes _).trans (if_pos hactive))
  · exact congrArg finish ((State.bar2_takes hd3 hthere hon (fun s => s.vectorMask v false)).trans
      (State.vectorMask_clears hmask))
  · exact congrArg finish ((if_neg (by simp [hthere])).trans (State.setFmask_clears hmask))
  · exact congrArg finish ((if_neg (by simp [hthere])).trans (State.setMsix_sets hoff))

end Sys2Proof.Machine
end

section
/-! SUPPORT. O29: the CPU port's rings (R527 to R534). -/

namespace Sys2Proof.Machine

/-! ### What a ring's registers and its held descriptors leave of each other -/

/-- A change of the descriptors of one bench's requester. -/
def State.takeStep (f : CpuTake → CpuTake) (s : State) (b : Nat) : State :=
  if (s.takesAt b).isEmpty then s else s.onBuf b fun u => { u with
    reqs := u.reqs.map (AllocReq.retake f), answers := u.answers.map fun e => (e.1.retake f, e.2) }

theorem State.eachTake_steps (s : State) (f : CpuTake → CpuTake) : s.eachTake f = s.each (List.range 8) (State.takeStep f) := rfl

/-- It does not look at registers. -/
theorem State.takeStep_withRegs (s : State) (f : CpuTake → CpuTake) (r : Tab W32) (b : Nat) :
    State.takeStep f { s with regs := r } b = { State.takeStep f s b with regs := r } := by
  unfold State.takeStep
  have hsame : ({ s with regs := r } : State).takesAt b = s.takesAt b := rfl
  rw [hsame]
  split
  · rfl
  · rfl

theorem State.eachTake_withRegs (s : State) (f : CpuTake → CpuTake) (r : Tab W32) :
    ({ s with regs := r } : State).eachTake f = { s.eachTake f with regs := r } := by
  have hsteps (l : List Nat) (u : State) : ({ u with regs := r } : State).each l (State.takeStep f) =
      { u.each l (State.takeStep f) with regs := r } := by
    induction l generalizing u with
    | nil => rfl
    | cons b rest ih =>
      rw [State.each, List.foldl_cons, State.takeStep_withRegs]
      exact ih _
  rw [State.eachTake_steps, State.eachTake_steps]
  exact hsteps _ s

theorem State.eachTake_regs (s : State) (f : CpuTake → CpuTake) : (s.eachTake f).regs = s.regs := by
  have h := s.eachTake_frame f
  generalize s.eachTake f = e at h ⊢
  rw [h]

theorem State.RegsOnly.eachTake {s t : State} (h : s.RegsOnly t) (f : CpuTake → CpuTake) :
    t.eachTake f = { s.eachTake f with regs := t.regs } :=
  (congrArg (State.eachTake · f) h).trans (s.eachTake_withRegs f t.regs)

theorem Touches.eachTake {s t : State} {P : Nat → Prop} (h : Touches s t P) (hregs : s.RegsOnly t) (f : CpuTake → CpuTake) :
    Touches (s.eachTake f) (t.eachTake f) P := by
  have hrd (p off w : Nat) : (s.eachTake f).rd p off w = s.rd p off w := State.rd_congr (s.eachTake_regs f) p off w
  rw [hregs.eachTake f]
  generalize s.eachTake f = e at hrd
  refine ⟨rfl, fun p off w ho hw hp => ?_, fun _ _ _ _ _ _ _ => rfl, fun _ => rfl⟩
  exact (h.regs p off w ho hw hp).trans (hrd p off w).symm

/-! ### CFG (R533) -/

theorem ringCfg_writable : ∀ i : Fin 32, lehrBits (ringPage i) Reg.TXRING.CFG.off = 0 ∧
    w1cBits (ringPage i) Reg.TXRING.CFG.off = 0 ∧ bit (rwBits (ringPage i) Reg.TXRING.CFG.off) 31 = true := by decide

/-- A ring's configuration as it is written. -/
def State.ringStored (s : State) (i : Nat) (v : W32) : State := s.plainWrite (ringPage i) Reg.TXRING.CFG.off 0 v

theorem State.ringStored_en (s : State) (i : Fin 32) (v : W32) :
    (s.ringStored i v).flag (ringPage i) Reg.TXRING.CFG_EN = bit v.toNat 31 := by
  obtain ⟨hlehr, hclears, hrw⟩ := ringCfg_writable i
  have hoff : Reg.TXRING.CFG_EN.off = Reg.TXRING.CFG.off := rfl
  rw [State.flag_eq_bit _ _ _ _ (by decide), hoff, State.ringStored, State.plainWrite_unlogged _ _ hlehr, State.rd_wr_same,
    hclears, bit_ofNat _ (by decide), bit_accessWrite _ _ _ (by decide)]
  exact if_pos hrw

theorem State.ringStored_regsOnly (s : State) (i : Fin 32) (v : W32) : s.RegsOnly (s.ringStored i v) := by
  rw [State.ringStored, State.plainWrite_unlogged _ _ (ringCfg_writable i).1]
  exact (State.RegsOnly.refl s).wr _ _ _ _

theorem State.ringStored_touches (s : State) (i : Fin 32) (v : W32) : Touches s (s.ringStored i v) (· = ringPage i) :=
  s.plainWrite_own v (ringCfg_writable i).1 (by decide)

/-- A ring that restarts, but for the descriptors that it held. -/
def State.ringRestarted (s : State) (i : Nat) (v : W32) : State :=
  (((s.ringStored i v).setFld (ringPage i) Reg.TXRING.HEAD 0).setFld (ringPage i) Reg.TXRING.TAIL 0).setFld (ringPage i)
    Reg.TXRING.STAT_STOPPED 0

theorem State.ringRestarted_reads (s : State) (i : Nat) (v : W32) :
    (s.ringRestarted i v).fld (ringPage i) Reg.TXRING.HEAD = 0 ∧ (s.ringRestarted i v).fld (ringPage i) Reg.TXRING.TAIL = 0 ∧
    (s.ringRestarted i v).flag (ringPage i) Reg.TXRING.STAT_STOPPED = false := by
  refine ⟨?_, ?_, ?_⟩
  · rw [State.ringRestarted, State.fld_setFld_word _ _ _ (by decide), State.fld_setFld_word _ _ _ (by decide),
      State.fld_setFld_fits _ _ (by decide) (by decide)]
  · rw [State.ringRestarted, State.fld_setFld_word _ _ _ (by decide), State.fld_setFld_fits _ _ (by decide) (by decide)]
  · rw [State.ringRestarted, State.flag_setFld_same _ _ _ (by decide)]
    rfl

theorem State.ringRestarted_regsOnly (s : State) (i : Fin 32) (v : W32) : s.RegsOnly (s.ringRestarted i v) :=
  (((s.ringStored_regsOnly i v).setFld _ _ _ _).setFld _ _ _ _).setFld _ _ _ _

theorem State.ringRestarted_touches (s : State) (i : Fin 32) (v : W32) : Touches s (s.ringRestarted i v) (· = ringPage i) :=
  (((s.ringStored_touches i v).put (f := Reg.TXRING.HEAD) 0 rfl (by decide)).put (f := Reg.TXRING.TAIL) 0 rfl (by decide)).put
    (f := Reg.TXRING.STAT_STOPPED) 0 rfl (by decide)

theorem State.ringCfg_restarts {s : State} {i : Nat} {v : W32} (hoff : s.flag (ringPage i) Reg.TXRING.CFG_EN = false)
    (hv : bit v.toNat 31 = true) : s.ringCfg i v =
      (s.ringRestarted i v).eachTake fun x => if x.ring = i then { x with fresh := false } else x :=
  if_pos (by rw [hoff, hv]; rfl)

theorem State.ringCfg_stores {s : State} {i : Nat} {v : W32} (hon : s.flag (ringPage i) Reg.TXRING.CFG_EN = true) :
    s.ringCfg i v = s.ringStored i v := if_neg (by rw [hon, Bool.not_true, Bool.false_and]; decide)

theorem ringWord_en (v : BitVec 31) : bit (BitVec.ofNat 32 (2 ^ 31 + v.toNat)).toNat 31 = true ∧
    bit (BitVec.ofNat 32 v.toNat).toNat 31 = false := by
  have hv := v.isLt
  refine ⟨?_, ?_⟩
  · rw [bit_ofNat _ (by norm_num), bit, Nat.testBit_two_pow_add_eq, Nat.testBit_lt_two_pow hv]
    rfl
  · rw [bit_ofNat _ (by norm_num), bit, Nat.testBit_lt_two_pow hv]

/-- STAT.IDLE reads 1 while a transmit ring holds no descriptor. -/
theorem State.readBar2_idle (s : State) {i : Nat} (hi : i < 16) :
    bit (s.readBar2 .pcie (ringPage i) Reg.TXRING.STAT.off).1.toNat 30 = (s.takesOf i).isEmpty := by
  have hpage : ringPage i = 0x4000 + i := by rw [ringPage, if_pos hi, pgTx]
  unfold State.readBar2
  rw [hpage, if_neg (by omega), if_pos ⟨by omega, rfl⟩, Nat.add_sub_cancel_left]
  show bit (BitVec.ofNat 32 _).toNat 30 = _
  rw [bit_ofNat _ (by norm_num), bit_setBits _ _ _ _ _ (by norm_num), if_pos (by norm_num)]
  cases (s.takesOf i).isEmpty <;> rfl

theorem State.ringRuns_disabled {s : State} {i : Nat} (h : s.flag (ringPage i) Reg.TXRING.CFG_EN = false) :
    s.ringRuns i = false := by
  rw [State.ringRuns, h, Bool.and_false, Bool.false_and]

theorem Touches.takesOf {s t : State} {P : Nat → Prop} (h : Touches s t P) (i : Nat) : t.takesOf i = s.takesOf i := by
  rw [h.rest]
  rfl

/-! ### Descriptors and answers (R249, R529) -/

theorem State.takeDone_written (s : State) (x : CpuTake) (st : Nat) : s.takeDone x st true =
    (let u := if s.dmaUp then s.hostPut (x.at_ + 16) (natLE 4 (2 ^ 31 + st)) else s
     if x.fresh then u.headPast x.ring 1 else u) := by
  rw [State.takeDone, Bool.true_and]
  rfl

/-- An answer of a clock that answers nothing else. -/
theorem allocAnswer_one {s : State} {b : BenchId} {r : AllocReq} {a : Answer} {x : CpuTake}
    (hone : ((s.allocClock b).bufAt b).answers = [(r, a)]) (hwhat : r.what = .cpu x) : allocAnswer b s =
      ((s.allocClock b).onBuf b fun u => { u with answers := [] }).answerCpu b a x := by
  unfold allocAnswer
  dsimp only
  rw [hone]
  show State.deliver _ b r a = _
  unfold State.deliver
  rw [hwhat]

section
variable (u : State) (b : Nat) {a : Answer} {x : CpuTake}

theorem State.answerCpu_gone (g : Nat) (n : List Nat) (h : x.gone = true) : u.answerCpu b (.granted g n) x = u.cullet b g 64 := by
  unfold State.answerCpu
  rw [h]

theorem State.answerCpu_dropped (h : x.gone = true) (hno : ∀ g n, a ≠ .granted g n) : u.answerCpu b a x = u := by
  cases a with
  | granted g n => exact absurd rfl (hno g n)
  | noDesc =>
    unfold State.answerCpu
    rw [h]
  | noBuf =>
    unfold State.answerCpu
    rw [h]

theorem State.answerCpu_granted (g : Nat) (n : List Nat) (h : x.gone = false) : u.answerCpu b (.granted g n) x =
    ((u.txAdmit b x.ring g x.desc x.frame).bump (pgTx x.ring) Reg.TXRING.FRAMES).takeDone x 0 true := by
  unfold State.answerCpu
  rw [h]

theorem State.answerCpu_refused (h : x.gone = false) (hno : ∀ g n, a ≠ .granted g n) : u.answerCpu b a x =
    (u.bump (pgTx x.ring) Reg.TXRING.DROPS).takeDone x 1 true := by
  cases a with
  | granted g n => exact absurd rfl (hno g n)
  | noDesc =>
    unfold State.answerCpu
    rw [h]
  | noBuf =>
    unfold State.answerCpu
    rw [h]

end

/-! ### Fetches and writes (R529, R531) -/

section
variable {s : State} {i : Fin 16} {d bytes : List Byte} (hturn : s.txTurn (s.fld (pgTx i) Reg.TXRING.CFG_BENCH) = some i.val)
  (hroom : s.cpuRoom (s.fld (pgTx i) Reg.TXRING.CFG_BENCH) = true)
include hturn hroom

theorem txDescriptorFetch_bad (hbad : txBad d = true) : txDescriptorFetch i d bytes s =
    ((s.onRing (32 + s.fld (pgTx i) Reg.TXRING.CFG_BENCH) fun r => { r with last := i }).bump (pgTx i) Reg.TXRING.DROPS).txDone i 2 := by
  unfold txDescriptorFetch
  extract_lets b s0 t
  rw [if_pos ⟨hturn, hroom⟩, if_pos hbad]

theorem txDescriptorFetch_holds (hgood : txBad d = false) : txDescriptorFetch i d bytes s =
    (s.onRing (32 + s.fld (pgTx i) Reg.TXRING.CFG_BENCH) fun r => { r with last := i }).request
      (s.fld (pgTx i) Reg.TXRING.CFG_BENCH) 64 512 (some (s.take i d bytes).frame.length) (.cpu (s.take i d bytes)) := by
  unfold txDescriptorFetch
  extract_lets b s0 t
  rw [if_pos ⟨hturn, hroom⟩, if_neg (by simp [hgood])]

end

theorem rxFrameWrite_writes {s : State} {r : Fin 16} {b : Nat} {c : Copy} {addrs : List (BitVec 64)} (hturn : s.rxTurn r = some (b, c))
    (hruns : s.ringRuns (16 + r) = true) (howned : ceilDiv (s.rxBytes c).length (s.rxBuf r) ≤ s.owned (16 + r))
    (haddrs : addrs.length = ceilDiv (s.rxBytes c).length (s.rxBuf r)) : rxFrameWrite r addrs s =
      (((((s.rxWrite r c ((s.descAt c.bench c.desc).getD {}) (s.rxBytes c).length (s.rxBuf r) 0 addrs (s.rxBytes c)).bump (pgRx r)
        Reg.RXRING.FRAMES).headPast (16 + r) addrs.length).onRing (16 + r) fun x => { x with last := b }).forwarded (benchTeam b)
        (s.rxBytes c).length).rxLeave r b c := by
  unfold rxFrameWrite
  rw [hturn]
  dsimp only
  rw [if_pos (by rw [hruns, decide_eq_true howned, haddrs, beq_self_eq_true]; rfl), haddrs]

/-! ### Interrupts and errors (R532, R533) -/

theorem Touches.withRing {s t : State} {P : Nat → Prop} (h : Touches s t P) : Touches { s with ring := t.ring } t P :=
  ⟨h.rest, h.regs, h.ctrs, fun _ => rfl⟩

theorem settle_waiting (s : State) (i : Nat) : ((settle s).ringAt i).waiting = (s.ringAt i).waiting := by
  rw [(Touches.refl s fun _ => False).settle.rings i]

/-- A ring as its COAL ends. -/
def State.ringCooled (s : State) (i : Nat) : State := s.onRing i fun r => { r with cooling := false, waiting := false }

theorem irqCoalesceEnd_ends {s : State} {i : Fin 32} (h : (s.ringAt i).cooling = true) : irqCoalesceEnd i s =
    (s.ringCooled i).ifDo (s.ringAt i).waiting (·.setFld (ringPage i) Reg.TXRING.STAT_IRQ 1) := if_pos h

theorem State.ringCooled_waiting (s : State) (i : Nat) : ((s.ringCooled i).ringAt i).waiting = false := by
  rw [State.ringCooled, State.onRing_eq, State.ringAt_same]

theorem State.ringCooled_irq (s : State) (i : Nat) : let t := settle ((s.ringCooled i).ifDo (s.ringAt i).waiting
      (·.setFld (ringPage i) Reg.TXRING.STAT_IRQ 1))
    ((s.ringAt i).waiting = true → t.flag (ringPage i) Reg.TXRING.STAT_IRQ = true) ∧ (t.ringAt i).waiting = false ∧
    Touches { s with ring := t.ring } t (· = ringPage i) := by
  intro t
  refine ⟨fun hwait => ?_, ?_, ?_⟩
  · refine (settle_flag _ _ _ _).trans ?_
    rw [hwait, State.ifDo, if_pos rfl, State.flag_setFld_same _ _ _ (by decide)]
    rfl
  · refine (settle_waiting _ _).trans ?_
    cases (s.ringAt i).waiting with
    | false => exact s.ringCooled_waiting i
    | true =>
      rw [State.ifDo, if_pos rfl, State.ringAt, State.setFld_ring]
      exact s.ringCooled_waiting i
  · exact ((Touches.refl (s.ringCooled i) (· = ringPage i)).ifDo _ (f := (·.setFld (ringPage i) Reg.TXRING.STAT_IRQ 1))
      ((Touches.refl _ _).put _ rfl (by decide))).settle.withRing

/-- The state as a ring stops at an index. -/
def State.ringStopped (s : State) (i at_ : Nat) : State :=
  ((s.setFld (ringPage i) Reg.TXRING.STAT_STOPPED 1).setFld (ringPage i) Reg.TXRING.STAT_STOP_IDX at_).raise pgHost 3

theorem State.ringStopped_spec (s : State) (i : Fin 32) (at_ : Nat) :
    (s.ringStopped i at_).flag (ringPage i) Reg.TXRING.STAT_STOPPED = true ∧
    (s.ringStopped i at_).fld (ringPage i) Reg.TXRING.STAT_STOP_IDX = at_ % 2 ^ 16 ∧ (s.ringStopped i at_).caused pgHost 3 := by
  have hpage : ringPage i ≠ pgHost := by
    unfold ringPage pgTx pgRx pgHost
    split <;> omega
  refine ⟨?_, ?_, State.caused_raise _ (by norm_num)⟩
  · rw [State.ringStopped, State.flag_raise_page _ _ hpage (by decide),
      State.flag_setFld_apart _ _ _ (by decide) (by decide) (by decide), State.flag_setFld_same _ _ _ (by decide)]
    rfl
  · rw [State.ringStopped, State.fld_raise_page _ _ hpage (by decide)]
    exact State.fld_setFld_same _ _ _ _ _ (by decide) (by decide)

theorem ringDmaError_stops {s : State} {i : Fin 32} (k : BitVec 16) (wrote : Bool) (hruns : s.ringRuns i = true) (howned : s.owned i ≠ 0) :
    ∃ u : State, ringDmaError i k wrote s =
      u.ringStopped i (s.fld (ringPage i) Reg.TXRING.HEAD + (if i.val < 16 then 0 else k.toNat)) := by
  have hat : (if i.val < 16 then s.fld (ringPage i) Reg.TXRING.HEAD else s.fld (ringPage i) Reg.TXRING.HEAD + k.toNat) =
      s.fld (ringPage i) Reg.TXRING.HEAD + (if i.val < 16 then 0 else k.toNat) := by split <;> rfl
  rw [← hat]
  unfold ringDmaError
  exact ⟨_, if_pos (by simp [hruns, howned])⟩

/-- Settles O29: a ring's CFG, a fetch, an answer, a receive ring's frame, the end of COAL, and a failed access. -/
theorem ringCommands : Obligations.RingCommands := by
  refine ⟨fun s i v hd3 hthere hon => ⟨fun hoff => ⟨_, congrArg finish ((State.bar2_takes hd3 hthere hon _).trans
        (State.ringCfg_restarts hoff (ringWord_en v).1)), ?_⟩,
      fun hon' => ⟨_, congrArg finish ((State.bar2_takes hd3 hthere hon _).trans (State.ringCfg_stores hon')), ?_⟩⟩,
    fun s i d bytes hturn hroom => ⟨fun hbad => congrArg finish (txDescriptorFetch_bad hturn hroom hbad),
      fun hgood => congrArg finish (txDescriptorFetch_holds hturn hroom hgood)⟩,
    fun s b r a x hone hwhat => ⟨?_, fun hgone hno => ?_, ?_, fun hheld hno => ?_⟩, State.takeDone_written,
    fun s r b c addrs hturn hruns howned haddrs => congrArg finish (rxFrameWrite_writes hturn hruns howned haddrs),
    fun s i hcool => ⟨_, congrArg finish (irqCoalesceEnd_ends hcool), s.ringCooled_irq i⟩, fun s i k wrote hruns howned => ?_⟩
  · obtain ⟨hhead, htail, hstopped⟩ := s.ringRestarted_reads i (BitVec.ofNat 32 (2 ^ 31 + v.toNat))
    have hregs := (s.ringRestarted i (BitVec.ofNat 32 (2 ^ 31 + v.toNat))).eachTake_regs
      fun x => if x.ring = i.val then { x with fresh := false } else x
    exact ⟨(settle_fld _ _ _ _).trans ((State.fld_congr hregs _ _ _).trans hhead),
      (settle_fld _ _ _ _).trans ((State.fld_congr hregs _ _ _).trans htail),
      (settle_flag _ _ _ _).trans ((State.flag_congr hregs _ _ _).trans hstopped),
      ((s.ringRestarted_touches i _).eachTake (s.ringRestarted_regsOnly i _) _).settle⟩
  · have hleft := (s.ringStored_touches i (BitVec.ofNat 32 v.toNat)).settle
    have hdis : (settle (s.ringStored i (BitVec.ofNat 32 v.toNat))).flag (ringPage i) Reg.TXRING.CFG_EN = false :=
      (settle_flag _ _ _ _).trans ((s.ringStored_en i _).trans (ringWord_en v).2)
    exact ⟨State.ringRuns_disabled hdis, fun hi => (State.readBar2_idle _ hi).trans (by rw [hleft.takesOf]), hleft⟩
  · rintro hgone g n rfl
    exact congrArg finish ((allocAnswer_one hone hwhat).trans (State.answerCpu_gone _ _ g n hgone))
  · exact congrArg finish ((allocAnswer_one hone hwhat).trans (State.answerCpu_dropped _ _ hgone hno))
  · rintro hheld g n rfl
    exact congrArg finish ((allocAnswer_one hone hwhat).trans (State.answerCpu_granted _ _ g n hheld))
  · exact congrArg finish ((allocAnswer_one hone hwhat).trans (State.answerCpu_refused _ _ hheld hno))
  · obtain ⟨u, hu⟩ := ringDmaError_stops k wrote hruns howned
    obtain ⟨hstopped, hidx, hcause⟩ := u.ringStopped_spec i
      (s.fld (ringPage i) Reg.TXRING.HEAD + (if i.val < 16 then 0 else k.toNat))
    exact ⟨_, congrArg finish hu, (settle_flag _ _ _ _).trans hstopped, (settle_fld _ _ _ _).trans hidx,
      (settle_caused _ _ _).2 hcause⟩

end Sys2Proof.Machine
end
